-- ==== Sys2Proof/Word.lean ====
section
/-! DEFINITION. The word types of the block and the plainest arithmetic on them (notation of 00_scope). -/

namespace Sys2Proof

/-- One byte of any memory or wire format. -/
abbrev Byte := BitVec 8

/-- A 32-bit word: FP32 patterns, dictionary words, flags words. -/
abbrev W32 := BitVec 32

/-- A 64-bit word: control words, seeds, the step counter. -/
abbrev W64 := BitVec 64

/-- The low 36 bits of an ACC36 container (R47). -/
abbrev Acc := BitVec 36

/-- Field [hi:lo] of a word, as a number (bit numbering of 00_scope). -/
def field (w : Nat) (hi lo : Nat) : Nat := (w >>> lo) % 2 ^ (hi + 1 - lo)

/-- The number with its sign read from `bits`-bit two's complement. -/
def signed (bits w : Nat) : Int :=
  if w % 2 ^ bits < 2 ^ (bits - 1) then (w % 2 ^ bits : Nat) else (w % 2 ^ bits : Nat) - (2 ^ bits : Nat)

/-- The `bits`-bit two's-complement pattern of an integer. -/
def unsigned (bits : Nat) (x : Int) : Nat := (x % (2 ^ bits : Nat)).toNat

/-- ⌈a / b⌉ on naturals. -/
def ceilDiv (a b : Nat) : Nat := (a + b - 1) / b

/-- `a` rounded up to a multiple of `b`. -/
def roundUp (a b : Nat) : Nat := ceilDiv a b * b

/-- `x` held between `lo` and `hi` (the function sat of 00_scope). -/
def clampInt (x lo hi : Int) : Int := if x < lo then lo else if hi < x then hi else x

/-- A counter of `bits` bits that stops at its largest value. -/
def stopAdd (bits a b : Nat) : Nat := min (a + b) (2 ^ bits - 1)

end Sys2Proof
end

