-- ==== Sys2Proof/Syntax.lean ====
section
/-! DEFINITION. The commands and events the block takes: one constructor of `Instr` per row of spec/opcode_table.json, with the operands of that row. -/

namespace Sys2Proof

/-- A logical tile: its bay and its number in the bay (R7, R201). -/
structure TileRef where
  bay : Fin 8
  tile : Fin 1280
  deriving DecidableEq, Repr

/-- The kinds of tile operation (R124). -/
inductive OpKind where
  | array
  | vector
  | transfer
  deriving DecidableEq, Repr

/-- What a mechanism of R327 can find while a tile works, with the path of a bay-path parity error (R355: 0 network slice, 1 ridge link, 2 die-buffer port, 3 fabric port path) and the bay of a die buffer whose ECC met an error (R206). -/
inductive Detected where
  | tileParity
  | pathParity (path : Fin 4)
  | residue
  | twin
  | vectorCheck
  | lockstep
  | dieCorrected (buffer : Fin 8)
  | dieDouble (buffer : Fin 8)
  deriving DecidableEq, Repr

/-- A recipe step word's fields (R181), without the opcode. -/
structure StepWord where
  dst : BitVec 5
  a : BitVec 5
  b : BitVec 5
  c : BitVec 5
  pen : Bool
  pmask : BitVec 2
  stream : BitVec 3
  imm : W32
  deriving DecidableEq, Repr

/-- The requesters of a scratchpad port (R153); `buddy` is the buddy tile's snapshot and mirror traffic, `recovery` the reads of R151. -/
inductive Requester where
  | arrayFeed
  | dma
  | buddy
  | vectorUnit
  | sequencer
  | remote
  | recovery
  deriving DecidableEq, Repr

/-- One request at a scratchpad port in a port beat: who makes it, for which command, who else wants the beat (R153, R154), and whether the parity of its bytes fails where they are used (R328). -/
structure PortRequest where
  who : Requester
  cmd : Option Nat
  rivals : List Requester
  upset : Bool
  deriving DecidableEq, Repr

/-- The conserved-quantity books (R257). -/
inductive Book where
  | sqSlots (q : Fin 64)
  | cqSlots (q : Fin 64)
  | commandTags
  | tileTags (bay : Fin 8)
  | tileSlots (bay : Fin 8)
  | dieTokens (bay : Fin 8)
  | hbmTokens (bay : Fin 8)
  | fabricCredits (bay : Fin 8)
  | chainTokens (bay : Fin 8)
  | urgentBucket (bay : Fin 8)
  deriving DecidableEq, Repr

/-- What the tests at the end of a bay's re-initialisation found (R357 step 4): physical tiles that fail, whether a bay-path checker failed, whether the interface trained. -/
structure ReinitResult where
  failTiles : List Nat
  pathFault : Bool
  trained : Bool
  deriving DecidableEq, Repr

/-- Where a rung-3 reset comes from (R366 type 0x07). -/
inductive ResetOrigin where
  | functionLevel
  | hot
  | perst
  | self
  deriving DecidableEq, Repr

/-- What ECC finds in one line (R210, R212). -/
inductive EccOutcome where
  | clean
  | corrected
  | lost
  deriving DecidableEq, Repr

/-- A fabric frame as received: the bytes after UDP, and what the layers below found (R262, R266). -/
structure RxFrame where
  bytes : List Byte
  fcsOk : Bool
  udpOk : Bool
  portOk : Bool
  hop : Nat
  plain : Bool
  srcMac : BitVec 48
  deriving DecidableEq, Repr

/-- What the power estimator and the sensors give at the end of a 2 µs window (R377, R378): activities in 65,536ths, the hottest junction in 0.1 °C, the pace issued in M-beats/s, the input sensor in W, and whether every held beat was made up (R376). -/
structure WindowSample where
  uArr : Nat
  uVec : Nat
  uHbm : Nat
  hottest : Int
  issued : Nat
  sensorW : Nat
  madeUp : Bool
  deriving DecidableEq, Repr

/-- A core rail with flicker detectors (R376). -/
inductive Rail where
  | bay (k : Fin 8)
  | ioDie
  deriving DecidableEq, Repr

/-- A candle gauge (R382). -/
inductive GaugeRef where
  | tile (bay : Fin 8) (phys : Fin 1344)
  | link (k : Fin 64)
  | ioDie (k : Fin 16)
  deriving DecidableEq, Repr

/-- What a self-test produced (R341, R342): for tiles and golden patterns (bay, physical tile, golden stream, stream seen); physical tiles that fail another of its tests, by bay; rows to remap (bay, pseudo-channel, row, lines lost); bays with a failing bay-path checker. -/
structure SelfTestResult where
  patterns : List (Nat × Nat × List Byte × List Byte)
  failTiles : List (Nat × Nat)
  failRows : List (Nat × Nat × Nat × List Nat)
  badPaths : List Nat
  deriving DecidableEq, Repr

/-- A Brynuo datagram as received (R406, R407). -/
structure BrFrame where
  bytes : List Byte
  peer : BitVec 128
  linkLocal : Bool
  hop : Nat
  plain : Bool
  udpOk : Bool
  deriving DecidableEq, Repr

/-- A dictionary access path (R401). -/
inductive Path where
  | inband
  | spi
  | brynuo (k : Fin 4)
  deriving DecidableEq, Repr

/-- How a claim or a release arrives: a Brynuo message, or a write to object 0x1100:02 over a path (R402, R408). -/
inductive ClaimVia where
  | message (f : BrFrame)
  | object (p : Path)
  deriving DecidableEq, Repr

/-- An SPI frame: the whole bytes clocked in, and the clock edges beyond them (R415, R419). -/
structure SpiFrame where
  bytes : List Byte
  extra : Nat
  deriving DecidableEq, Repr

/-- What the hardware finds while a request is served: nothing; an uncorrectable ECC error in copy 0 or 1 of the event log with the outcome of its rewrite, or in both (R367); or a commit to serial flash that fails (R393). -/
inductive RingRead where
  | good
  | badCopy (copy : Fin 2) (repaired : Bool)
  | badBoth
  | commitFails
  deriving DecidableEq, Repr

/-- A host write of the enable and function-mask bits of MSI-X, or of the mask bit of one MSI-X table entry (R228). -/
inductive MsixWrite where
  | control (enable maskAll : Bool)
  | entry (vector : Fin 67) (masked : Bool)
  deriving DecidableEq, Repr

/-- A host write of a register of the function: of DICT_ARG, of a word of DICT_DATA at a byte offset, of DICT_CMD, whose opcodes 0x10 and 0x11 the rows DICT_READ and DICT_WRITE also stand for (R413), or of MSI-X, which no row of the table names (R228; notes/assumptions/44). -/
inductive BarWrite where
  | arg (value : W32)
  | data (off : Nat) (bytes : List Byte)
  | cmd (value : W32)
  | msix (w : MsixWrite)
  deriving DecidableEq, Repr

/-- The last work of a command, or a sheaf of it written again: the command's tag, and what the hardware finds in that work (R326, R328). -/
structure WorkEnd where
  tag : Nat
  found : List Detected
  deriving DecidableEq, Repr

/-- The results of one golden pattern on a spare slate and on its buddy (R149, R352). -/
structure SpareRun where
  spare : List Byte
  buddy : List Byte
  deriving DecidableEq, Repr

/-- A chain step that starts: its key, and what the hardware finds in its work (R276, R326). -/
structure StepStart where
  step : Nat
  found : List Detected
  deriving DecidableEq, Repr

/-- A data frame as received, with what the bay's paths and buffers find in it (R267, R326). -/
structure RxData where
  frame : RxFrame
  found : List Detected
  deriving DecidableEq, Repr

/-- The commands and events of spec/opcode_table.json, in the table's order. -/
inductive Instr where
  /-- SQ_TAIL_DOORBELL (R227). A host write of a submission-queue tail doorbell is taken only if it moves the tail forward or leaves it, and announces new entries to fetch. -/
  | sqTailDoorbell (q : Fin 64) (value : W32) (writes : List Host.Cell)
  /-- CQ_HEAD_DOORBELL (R227). A host write of a completion-queue head doorbell is taken only if it moves forward over written records, and frees completion-queue slots. -/
  | cqHeadDoorbell (q : Fin 64) (value : W32)
  /-- ENTRY_FETCH (R229). Once the pair's completion queue has two free slots beyond those reserved, the device fetches the pair's next submission entry, pairs being served round-robin, and reserves both slots. -/
  | entryFetch
  /-- MATMUL (R234). Admits a matrix product over sheaf-table operands in the array layout and computes its promise. -/
  | matmul
  /-- ATTENTION (R197). Admits an attention reduction over key courses with online softmax, mask and position bases. -/
  | attention
  /-- CONV (R146). Admits a dense convolution computed by address generation over the input pixels. -/
  | conv
  /-- QUANTISE (R57). Admits quantisation of a plain ACC36 or FP32 array into a narrow sheaf tensor under a control word. -/
  | quantise
  /-- DEQUANTISE (R233). Admits conversion of a sheaf tensor into an ACC36 or FP32 plain array. -/
  | dequantise
  /-- ROTATE (R461). Admits input conversion and optional Walsh–Hadamard rotation of a plain array into a plain array. -/
  | rotate
  /-- RECIPE (R185). Admits a vector recipe run over rows of bound input and output streams, in passes. -/
  | recipe
  /-- SAMPLE (R195). Admits token sampling of one index per row of logits by an exponential race. -/
  | sample
  /-- RNG_FILL (R193). Admits filling an array with random draws in bits or uniform mode. -/
  | rngFill
  /-- GATHER (R233). Admits moving source sheaves named by an index array into consecutive destination sheaves. -/
  | gather
  /-- SCATTER (R233). Admits moving consecutive source sheaves into destination sheaves named by an index array. -/
  | scatter
  /-- COPY (R233). Admits a byte-mode or sheaf-mode copy between device memory and host memory or within device memory. -/
  | copy
  /-- BROADCAST (R277). Admits a COLLECTIVE broadcast that sends the root's source along the chain to every member. -/
  | broadcast
  /-- REDUCE_TO_ONE (R278). Admits a COLLECTIVE reduce in which a C24 carry passes along the chain and the last member writes the result. -/
  | reduceToOne
  /-- ALL_TO_ALL (R282). Admits a COLLECTIVE all-to-all with equal block sizes. -/
  | allToAll
  /-- ALL_TO_ALL_SIZE_TABLE (R283). Admits a COLLECTIVE all-to-all whose block sizes come from a size table. -/
  | allToAllSizeTable
  /-- STAGE_SEND (R286). Admits sending one message on a stage stream, started once the receiver has granted a slot. -/
  | stageSend
  /-- STAGE_RECV (R286). Admits releasing held messages on a stage stream and claiming the next one once it is wholly in its slot. -/
  | stageRecv
  /-- EVENT_ADD (R237). Admits an EVENT command that adds its amount to an event counter at its completion. -/
  | eventAdd
  /-- EVENT_RESET (R239). Admits an EVENT command that sets an event counter to 0. -/
  | eventReset
  /-- FENCE (R240). Admits a queue-pair or device fence, which may set the step counter at acceptance. -/
  | fence
  /-- DIGEST (R338). Admits computing the CRC-64 digest of a sheaf tensor. -/
  | digest
  /-- CAST (R460). Admits quantising an FP32 array in the cast engine into a sheaf tensor. -/
  | cast
  /-- WEIGHT_SWITCH (R301). Admits a switch that makes a working-copy set current and sets its version tag at acceptance. -/
  | weightSwitch
  /-- TILE_OP_DELIVER (R248). The dispatcher delivers a tile operation to a tile once a slot and a tally tag are free, urgent operations first and then in promise order. -/
  | tileOpDeliver (t : TileRef)
  /-- TILE_OP_START (R126). A tile starts a delivered operation once the resources it needs are free. -/
  | tileOpStart (t : TileRef) (k : OpKind)
  /-- BLOCK_END (R129). At a block end each lane checks its residue, scales its block register exactly and folds the partial into the course accumulator. -/
  | blockEnd (t : TileRef) (upsets : List (Nat × Nat)) (found : List Detected)
  /-- COURSE_END (R86). At a course end each lane folds its course sum into the running state by LINEAR or the TREE stack, pushing homes as needed. -/
  | courseEnd (t : TileRef) (found : List Detected)
  /-- PREEMPTION_POINT (R140). At the next block boundary after an urgent array operation arrives, the tile saves the accumulators and drain state, and the urgent operation starts. -/
  | preemptionPoint (t : TileRef)
  /-- PREEMPTED_RESUME (R140). When the urgent operation's array work ends, the pre-empted operation resumes at its saved block boundary. -/
  | preemptedResume (t : TileRef)
  /-- TILE_OP_END (R255). A tile operation ends once its drain writes are performed, returning its tally tag, its slot and its ledger charge. -/
  | tileOpEnd (t : TileRef) (k : OpKind) (found : List Detected)
  /-- SHEAF_REEXECUTE (R106). A tripped sheaf of rank below the allowance is quantised again in its fall-back format and rewritten. -/
  | sheafReexecute (w : WorkEnd)
  /-- PIECE_BOUNDARY (R187). At a piece boundary inside a recipe row, the tile writes a row-state record to its bay's HBM region. -/
  | pieceBoundary (t : TileRef)
  /-- COMMAND_COMPLETE (R250). Once every write of a command is performed, the device writes its completion record and signals its event. -/
  | commandComplete (w : WorkEnd)
  /-- BEACON_COMPARE (R340). When the local digests and the predecessor's frame for the same step are both present, they are compared in comparison mode. -/
  | beaconCompare
  /-- BEACON_TIMEOUT (R340). The predecessor's beacon frame has not arrived 1 s after the local digests are ready, and the round is skipped. -/
  | beaconTimeout
  /-- PROMISE_EXPIRY (R335). A command still uncompleted at its promise is marked overdue and counted, and the alert is raised. -/
  | promiseExpiry (tag : Nat)
  /-- OVERDUE_LIMIT_EXPIRY (R335). A command still uncompleted at its promise plus the overdue limit is ended unless it is a progressing or partner-waiting fabric command. -/
  | overdueLimitExpiry (tag : Nat)
  /-- HANDSHAKE_STALL (R334). A clockless request pending for 10 µs marks its bay wedged and starts a rung-2 reset. -/
  | handshakeStall (bay : Fin 8)
  /-- BOOK_AUDIT (R258). The device audits a conserved-quantity book when its holders are idle, and at least once per second. -/
  | bookAudit (book : Book)
  /-- ERROR_RECORD_HANDLE (R361). The handler takes the next error record in order of detection time and starts its recovery action. -/
  | errorRecordHandle
  /-- CONTAINMENT_END (R352). Containment of a retired tile ends, with its port closed and its tags and slots passed to the logical number. -/
  | containmentEnd (bay : Fin 8)
  /-- SPARE_VALIDATION (R354). Validation of a spare slate with the buddy tile ends, and the spare either takes the logical number and fetches the snapshot, or is retired. -/
  | spareValidation (bay : Fin 8) (r : SpareRun)
  /-- TAKE_OVER_RESUME (R352). Re-execution from the snapshot ends and the logical tile's remaining operations resume. -/
  | takeOverResume (bay : Fin 8)
  /-- RE_PROTECTION (R353). Fresh snapshots and home mirrors of the spare and the buddy are performed, and the bay returns to run. -/
  | reProtection (bay : Fin 8)
  /-- LOCKSTEP_ROLLBACK (R355). A lockstep pair in the I/O die rolls back to its last committed point and repeats. -/
  | lockstepRollback
  /-- BAY_REINIT (R357). Rung 2 for a bay starts: the bay's commands fail, and its memories and checkers are reset and tested. -/
  | bayReinit (bay : Fin 8) (cause : Nat)
  /-- BAY_REINIT_END (R357). The rung-2 re-initialisation of a bay ends and the bay returns to run. -/
  | bayReinitEnd (bay : Fin 8) (r : ReinitResult)
  /-- QUEUE_PAIR_REINIT (R357). Rung 2 for a queue pair ends its commands with ABORTED and leaves the pair disabled. -/
  | queuePairReinit (q : Fin 64)
  /-- DEVICE_RESET (R357). Rung 3: the device resets with the quick self-test, failing every command and disabling every queue pair. -/
  | deviceReset (origin : ResetOrigin)
  /-- INTERFACE_RETRY (R211). A parity error on an HBM pseudo-channel interface is retried, and the bay is reset after the fourth failed retry. -/
  | interfaceRetry (bay : Fin 8) (pc : Fin 64) (ok : Bool)
  /-- ROW_REMAP (R214). A row reaching the corrected-error threshold has its accesses paused and is copied into a reserve row. -/
  | rowRemap (bay : Fin 8) (pc : Fin 64) (row : Nat)
  /-- ROW_REMAP_END (R214). The remap copy ends, the table entry is written and the paused accesses are released to the reserve row. -/
  | rowRemapEnd (bay : Fin 8) (pc : Fin 64) (row : Nat)
  /-- UNCORRECTABLE_ERROR (R215). An uncorrectable HBM error remaps the row, poisons the lost lines and resets the bay. -/
  | uncorrectableError (bay : Fin 8) (pc : Fin 64) (row : Nat) (lost : List Nat)
  /-- PATROL_SCRUB (R212). The patrol scrub reads the next line of a stack between command accesses. -/
  | patrolScrub (bay : Fin 8) (found : EccOutcome)
  /-- REMAP_TABLE_PERSIST (R218). A changed remap table is written to serial flash within 1 s. -/
  | remapTablePersist (bay : Fin 8)
  /-- INBOUND_TOKEN_GRANT (R208). A bay's inbound bucket grants tokens to a waiting cross-bay access, round-robin by source bay. -/
  | inboundTokenGrant (bay : Fin 8)
  /-- FAR_TIER_TIMEOUT (R223). A far-tier access with no completion after 100 µs fails its command. -/
  | farTierTimeout (port : Fin 2) (tag : Nat)
  /-- FAR_TIER_LINK_DOWN (R223). A CXL link that goes down takes its port out of service and fails the commands in flight that use it. -/
  | farTierLinkDown (port : Fin 2)
  /-- SCRATCHPAD_ACCESS (R150). A plain read or write of a scratchpad line through the plain window, performed when it wins the port. -/
  | scratchpadAccess (t : TileRef) (a : PortRequest) (off : Nat) (size : Nat) (data : Option (List Byte))
  /-- SCRATCHPAD_BIT_SET (R156). A write through the bit-set alias replaces the target word with its OR with the data in one port access; without data, a read. -/
  | scratchpadBitSet (t : TileRef) (a : PortRequest) (off : Nat) (wide : Bool) (data : Option W64)
  /-- SCRATCHPAD_BIT_CLEAR (R156). A write through the bit-clear alias replaces the target word with its AND with the complement of the data in one port access; without data, a read. -/
  | scratchpadBitClear (t : TileRef) (a : PortRequest) (off : Nat) (wide : Bool) (data : Option W64)
  /-- BYTE_LANE_ROTATE (R158). An unaligned access through the byte-lane rotate window, taking two or three port beats. -/
  | byteLaneRotate (t : TileRef) (a : PortRequest) (off : Nat) (size : Nat) (data : Option (List Byte))
  /-- NOP (R183). Recipe step with no effect. -/
  | nop (t : TileRef) (w : StepWord) (upset : Bool)
  /-- ADD (R183). Recipe step: FP32 a + b. -/
  | add (t : TileRef) (w : StepWord) (upset : Bool)
  /-- SUB (R183). Recipe step: FP32 a − b. -/
  | sub (t : TileRef) (w : StepWord) (upset : Bool)
  /-- MUL (R183). Recipe step: FP32 a × b. -/
  | mul (t : TileRef) (w : StepWord) (upset : Bool)
  /-- FMA (R183). Recipe step: fused a × b + c with one rounding. -/
  | fma (t : TileRef) (w : StepWord) (upset : Bool)
  /-- DIV (R183). Recipe step: correctly rounded a / b. -/
  | div (t : TileRef) (w : StepWord) (upset : Bool)
  /-- SQRT (R183). Recipe step: correctly rounded square root of a. -/
  | sqrt (t : TileRef) (w : StepWord) (upset : Bool)
  /-- MIN (R176). Recipe step: minimum of a and b under the NaN and signed-zero rules. -/
  | min (t : TileRef) (w : StepWord) (upset : Bool)
  /-- MAX (R176). Recipe step: maximum of a and b under the NaN and signed-zero rules. -/
  | max (t : TileRef) (w : StepWord) (upset : Bool)
  /-- ABS (R183). Recipe step: clears the sign of a. -/
  | abs (t : TileRef) (w : StepWord) (upset : Bool)
  /-- NEG (R183). Recipe step: flips the sign of a. -/
  | neg (t : TileRef) (w : StepWord) (upset : Bool)
  /-- SCALE (R183). Recipe step: a × 2^n with n the clamped signed immediate. -/
  | scale (t : TileRef) (w : StepWord) (upset : Bool)
  /-- ROUNDI (R183). Recipe step: rounds a to an integral value, ties to even. -/
  | roundi (t : TileRef) (w : StepWord) (upset : Bool)
  /-- CVT_I2F (R183). Recipe step: converts a signed 32-bit integer to FP32. -/
  | cvtI2f (t : TileRef) (w : StepWord) (upset : Bool)
  /-- CVT_F2I (R176). Recipe step: converts FP32 to a signed 32-bit integer, with NaN and out-of-range cases flagged. -/
  | cvtF2i (t : TileRef) (w : StepWord) (upset : Bool)
  /-- AND (R183). Recipe step: bitwise AND of 32-bit patterns. -/
  | andW (t : TileRef) (w : StepWord) (upset : Bool)
  /-- OR (R183). Recipe step: bitwise OR of 32-bit patterns. -/
  | orW (t : TileRef) (w : StepWord) (upset : Bool)
  /-- XOR (R183). Recipe step: bitwise XOR of 32-bit patterns. -/
  | xorW (t : TileRef) (w : StepWord) (upset : Bool)
  /-- CMP_LT (R183). Recipe step: writes a < b to a mask. -/
  | cmpLt (t : TileRef) (w : StepWord) (upset : Bool)
  /-- CMP_LE (R183). Recipe step: writes a ≤ b to a mask. -/
  | cmpLe (t : TileRef) (w : StepWord) (upset : Bool)
  /-- CMP_EQ (R183). Recipe step: writes a = b to a mask. -/
  | cmpEq (t : TileRef) (w : StepWord) (upset : Bool)
  /-- CMP_NAN (R183). Recipe step: writes whether a is NaN to a mask. -/
  | cmpNan (t : TileRef) (w : StepWord) (upset : Bool)
  /-- SELECT (R183). Recipe step: selects a where the predicate mask is 1 and b elsewhere. -/
  | select (t : TileRef) (w : StepWord) (upset : Bool)
  /-- MAND (R183). Recipe step: AND of mask sources. -/
  | mand (t : TileRef) (w : StepWord) (upset : Bool)
  /-- MOR (R183). Recipe step: OR of mask sources. -/
  | mor (t : TileRef) (w : StepWord) (upset : Bool)
  /-- MNOT (R183). Recipe step: NOT of a mask source. -/
  | mnot (t : TileRef) (w : StepWord) (upset : Bool)
  /-- TANH (R178). Recipe step: correctly rounded tanh. -/
  | tanh (t : TileRef) (w : StepWord) (upset : Bool)
  /-- LOGISTIC (R178). Recipe step: correctly rounded logistic function. -/
  | logistic (t : TileRef) (w : StepWord) (upset : Bool)
  /-- EXP2 (R178). Recipe step: correctly rounded exp2. -/
  | exp2 (t : TileRef) (w : StepWord) (upset : Bool)
  /-- LOG2 (R178). Recipe step: correctly rounded log2. -/
  | log2 (t : TileRef) (w : StepWord) (upset : Bool)
  /-- RCP (R178). Recipe step: correctly rounded reciprocal. -/
  | rcp (t : TileRef) (w : StepWord) (upset : Bool)
  /-- RSQRT (R178). Recipe step: correctly rounded reciprocal square root. -/
  | rsqrt (t : TileRef) (w : StepWord) (upset : Bool)
  /-- ROW_SUM (R186). Recipe step: row sum of a into a row scalar, in fixed lane and tree order. -/
  | rowSum (t : TileRef) (w : StepWord) (upset : Bool)
  /-- ROW_SUMSQ (R186). Recipe step: row sum of squares of a into a row scalar. -/
  | rowSumsq (t : TileRef) (w : StepWord) (upset : Bool)
  /-- ROW_MAX (R186). Recipe step: row maximum of a into a row scalar. -/
  | rowMax (t : TileRef) (w : StepWord) (upset : Bool)
  /-- ROW_MIN (R186). Recipe step: row minimum of a into a row scalar. -/
  | rowMin (t : TileRef) (w : StepWord) (upset : Bool)
  /-- PASS (R185). Recipe step that ends a pass. -/
  | pass (t : TileRef) (w : StepWord) (upset : Bool)
  /-- LOAD (R183). Recipe step: loads an element of an input stream, converting it to FP32. -/
  | load (t : TileRef) (w : StepWord) (upset : Bool)
  /-- STORE (R183). Recipe step: writes a to an FP32 or ACC36 output stream. -/
  | store (t : TileRef) (w : StepWord) (upset : Bool)
  /-- QSTORE (R183). Recipe step: passes a to the drain quantiser for a narrow output stream. -/
  | qstore (t : TileRef) (w : StepWord) (upset : Bool)
  /-- INDEX (R183). Recipe step: writes the position k as FP32. -/
  | index (t : TileRef) (w : StepWord) (upset : Bool)
  /-- RAND_BITS (R193). Recipe step: one 32-bit random draw from the addressed stream. -/
  | randBits (t : TileRef) (w : StepWord) (upset : Bool)
  /-- RAND_U01 (R193). Recipe step: one uniform random draw in [0, 1). -/
  | randU01 (t : TileRef) (w : StepWord) (upset : Bool)
  /-- FENCE_STORE (R171). Recipe step: orders earlier writes of the tile operation before later writes. -/
  | fenceStore (t : TileRef) (w : StepWord) (upset : Bool)
  /-- FENCE_FULL (R171). Recipe step: waits until every earlier access of the tile operation is performed. -/
  | fenceFull (t : TileRef) (w : StepWord) (upset : Bool)
  /-- CHAIN_STEP_START (R276). A chain step takes a port's chain-step token when its first frame is sent or its first byte received. -/
  | chainStepStart (port : Fin 8) (tag : Nat) (x : StepStart)
  /-- CHAIN_STEP_END (R276). A chain step returns its token once its last frame is acknowledged and its combination written. -/
  | chainStepEnd (port : Fin 8) (tag : Nat) (step : Nat)
  /-- DATA_FRAME_RECEIVE (R267). A received data frame is delivered in sequence or discarded as a duplicate or out of order, with acknowledgement or negative acknowledgement and sheaf-check verification. -/
  | dataFrameReceive (port : Fin 8) (x : RxData)
  /-- ACK_RECEIVE (R267). An acknowledgement frees the sender's kept frames up to the acknowledged sequence and returns credits. -/
  | ackReceive (port : Fin 8) (f : RxFrame)
  /-- NAK_RECEIVE (R267). A negative acknowledgement makes the sender resend from the named sequence. -/
  | nakReceive (port : Fin 8) (f : RxFrame)
  /-- CREDIT_GRANT_RECEIVE (R268). A credit grant frame returns credits to the sender. -/
  | creditGrantReceive (port : Fin 8) (f : RxFrame)
  /-- HELLO_RECEIVE (R264). A received hello resets sequence expectations for a new source or detects a duplicate device number. -/
  | helloReceive (port : Fin 8) (f : RxFrame)
  /-- ABORT_RECEIVE (R289). An abort for an operation fails the command with FABRIC and passes the abort to the member's chain neighbours. -/
  | abortReceive (port : Fin 8) (f : RxFrame)
  /-- HELLO_TIMER (R264). Every 100 ms after link-up a port sends a hello frame to the broadcast address. -/
  | helloTimer (port : Fin 8)
  /-- HELLO_SILENCE_TIMEOUT (R267). After more than 1 s without a hello from a source, the next hello restarts that source's sequence numbering. -/
  | helloSilenceTimeout (port : Fin 8) (src : Fin 64)
  /-- RETRY_TIMEOUT (R267). On expiry of the retry timeout the sender resends from the oldest unacknowledged frame, and the plane becomes unusable after five sends. -/
  | retryTimeout (port : Fin 8) (dst : Fin 64)
  /-- NEIGHBOR_SOLICITATION (R262). A fabric port answers a Neighbor Solicitation for its own address. -/
  | neighborSolicitation (port : Fin 8) (target : BitVec 128)
  /-- PFC_FRAME_RECEIVE (R264). A received PFC frame is honoured by the port. `mask` says which priorities it names, `pauseNs` for how long each is paused, priority 0 first. -/
  | pfcFrameReceive (port : Fin 8) (mask : Byte) (pauseNs : List Nat)
  /-- FABRIC_LINK_UP (R264). A fabric port's link comes up, applies its settings, resets credits and sends a hello. -/
  | fabricLinkUp (port : Fin 8)
  /-- FABRIC_LINK_DOWN (R289). A fabric link goes down and its unacknowledged steps move to the next plane in service. -/
  | fabricLinkDown (port : Fin 8)
  /-- PARTNER_TIMEOUT (R289). A partner that sends nothing for the partner allowance plus 1 ms fails the command with FABRIC and an abort is sent. -/
  | partnerTimeout (tag : Nat)
  /-- PACE_WINDOW_END (R373). At the end of each 2 µs window the power estimate is taken and the pacer ceiling is recomputed from the silicon, power, thermal and steady terms. -/
  | paceWindowEnd (w : WindowSample)
  /-- THERMAL_CEILING_STEP (R381). Every 10 µs while the hottest junction is at 100 °C or above and rising, the thermal ceiling is lowered by 2 %. -/
  | thermalCeilingStep (hottest : Int)
  /-- FLICKER_HOLD (R376). A flicker detector that sees its rail more than 30 mV low holds handshake issue in its bay. -/
  | flickerHold (r : Rail)
  /-- FLICKER_HOLD_END (R376). A hold ends on rail recovery or after 2 µs, and a 2 µs hold lowers the bay's ceiling for 1 ms. -/
  | flickerHoldEnd (r : Rail) (recovered : Bool)
  /-- GAUGE_MEASUREMENT (R383). A candle gauge is measured by two readings 1 ms apart, due at start-up and at each measurement interval, and tested for plausibility. -/
  | gaugeMeasurement (g : GaugeRef) (g1 : Nat) (g2 : Nat) (temp : Int)
  /-- PLAN (R385). A plan computes and publishes the planned floor and the voltage setpoint. -/
  | plan (sensorW : Nat)
  /-- SETPOINT_STEP (R386). The voltage setpoint moves one 5 mV step per 100 µs toward its target. -/
  | setpointStep
  /-- INLET_SENSOR_READ (R453). The inlet coolant sensor is read every 100 ms, and the coolant class is updated. -/
  | inletSensorRead (temp : Int)
  /-- THERMAL_TRIP (R453). A junction at 120 °C or an inlet reading above 60 °C switches the regulators off in hardware and deasserts PWRGD. -/
  | thermalTrip (junction : Int) (inlet : Int)
  /-- INPUT_RISE (R447). The 54 V input rises through 40 V and the module starts regulation and start-up. -/
  | inputRise
  /-- UNDERVOLTAGE_OFF (R447). The input below 40 V for more than 200 µs switches the regulators off and deasserts PWRGD. -/
  | undervoltageOff
  /-- OVERVOLTAGE_OFF (R447). The input above 60 V for more than 100 µs switches the regulators off until the input falls below 10 V. -/
  | overvoltageOff
  /-- POWER_GOOD (R421). The on-module regulators reach regulation and PWRGD is asserted. -/
  | powerGood
  /-- MASK_ROM_BOOT (R426). The mask ROM verifies and starts a management image, or runs the recovery service if neither slot is valid. -/
  | maskRomBoot (straps : BitVec 6)
  /-- IMAGE_VERIFY (R428). The management image verifies the tile runtime image, the SerDes firmware and the manifest, and decides whether the combination is tested. -/
  | imageVerify
  /-- HBM_TRAINING_END (R421). HBM training of the stacks ends and the remap tables are loaded. -/
  | hbmTrainingEnd (trained : Byte)
  /-- SELF_TEST_END (R341). The quick or full self-test ends, retiring failing tiles and remapping failing rows. -/
  | selfTestEnd (r : SelfTestResult)
  /-- READY (R421). Start-up or reset completes, the bays enter run and configuration requests complete normally. -/
  | ready
  /-- CONFIG_REQUEST (R424). A PCIe configuration request, completed with Request Retry Status before readiness. -/
  | configRequest
  /-- PERST_ASSERT (R435). PERST# asserted after readiness begins a conventional reset. -/
  | perstAssert
  /-- PERST_DEASSERT (R424). PERST# deasserted permits link training and ends the conventional reset hold. -/
  | perstDeassert
  /-- HOT_RESET (R435). A hot reset from the link starts a rung-3 device reset. -/
  | hotReset
  /-- FUNCTION_LEVEL_RESET (R435). A write of the FLR bit starts a rung-3 device reset with the link kept trained. -/
  | functionLevelReset
  /-- PCIE_LINK_DOWN (R403). Loss of the PCIe link ends in-band ownership. -/
  | pcieLinkDown
  /-- BC_RESET (R450). BC_RST# held low for 1 ms restarts the module from start-up step 3 without removing power. -/
  | bcReset (heldNs : Nat)
  /-- D3HOT_ENTRY (R436). A host write of D3hot re-initialises any enabled pair and enters the banked state. -/
  | d3hotEntry
  /-- D0_ENTRY (R438). A host write of D0 leaves the banked state without a self-test. -/
  | d0Entry
  /-- PME_TURN_OFF (R440). The host takes the link to L2/L3 Ready with PME_Turn_Off, after which a wake is signalled by WAKE#. -/
  | pmeTurnOff
  /-- WAKE_SIGNAL (R440). An enabled wake reason in the banked state hands a PM_PME message to the link layer, or asserts WAKE#. -/
  | wakeSignal
  /-- DOE_DISCOVERY (R433). A DOE Discovery request is answered through the DOE mailbox. -/
  | doeDiscovery (index : Byte)
  /-- GET_VERSION (R433). An SPDM GET_VERSION request is answered. -/
  | getVersion (req : List Byte)
  /-- GET_CAPABILITIES (R433). An SPDM GET_CAPABILITIES request is answered. -/
  | getCapabilities (req : List Byte)
  /-- NEGOTIATE_ALGORITHMS (R433). An SPDM NEGOTIATE_ALGORITHMS request is answered. -/
  | negotiateAlgorithms (req : List Byte)
  /-- GET_DIGESTS (R433). An SPDM GET_DIGESTS request is answered. -/
  | getDigests (req : List Byte)
  /-- GET_CERTIFICATE (R433). An SPDM GET_CERTIFICATE request returns the slot-0 certificate chain. -/
  | getCertificate (req : List Byte)
  /-- CHALLENGE (R433). An SPDM CHALLENGE request is answered with a signed response. -/
  | challenge (req : List Byte)
  /-- GET_MEASUREMENTS (R434). An SPDM GET_MEASUREMENTS request returns the measurement blocks. -/
  | getMeasurements (req : List Byte)
  /-- OPEN (R409). A Brynuo OPEN request opens a session and returns a session number and nonce. -/
  | openSession (f : BrFrame)
  /-- CLOSE (R408). A Brynuo CLOSE request ends the session after the response. -/
  | closeSession (f : BrFrame)
  /-- KEEPALIVE (R408). A Brynuo KEEPALIVE request renews the session lease. -/
  | keepalive (f : BrFrame)
  /-- READ (R408). A Brynuo READ request returns value bytes of an object from an offset. -/
  | read (f : BrFrame)
  /-- WRITE (R411). A Brynuo WRITE request writes a value or one segment of a segmented write. -/
  | write (f : BrFrame)
  /-- CLAIM (R402). A claim of write ownership, by Brynuo CLAIM or by a write of 0x01 to object 0x1100:02. -/
  | claim (v : ClaimVia)
  /-- RELEASE (R402). A release of write ownership, by Brynuo RELEASE or by a write of 0x00 to object 0x1100:02. -/
  | release (v : ClaimVia)
  /-- FORCE_CLAIM (R402). A force claim from SPI takes ownership and discards the former owner's pending segmented write. -/
  | forceClaim (p : Path)
  /-- NOTIFICATION_ACK (R412). A received notification acknowledgement stops the resending of that notification. -/
  | notificationAck (f : BrFrame)
  /-- NOTIFICATION_RESEND (R412). An unacknowledged alert notification is resent every 100 ms, at most three times. -/
  | notificationResend (k : Fin 4)
  /-- SESSION_LEASE_EXPIRY (R409). A session with no request for the lease period is closed. -/
  | sessionLeaseExpiry (k : Fin 4)
  /-- SEGMENT_TIMEOUT (R411). A pending segmented write with no further segment for 1 s is discarded. -/
  | segmentTimeout (p : Path)
  /-- MGMT_NEIGHBOR_SOLICITATION (R406). The management port answers a Neighbor Solicitation for its link-local address. -/
  | mgmtNeighborSolicitation (target : BitVec 128)
  /-- DICTIONARY_SERVICE (R395). The management core serves the next completely received dictionary request, in order across paths. -/
  | dictionaryService (ring : RingRead)
  /-- DICT_READ (R413). A DICT_CMD write with opcode 0x10 starts an in-band read into DICT_DATA. -/
  | dictRead (addr : BitVec 24)
  /-- DICT_WRITE (R413). A DICT_CMD write with opcode 0x11 starts an in-band write from DICT_DATA. -/
  | dictWrite (addr : BitVec 24)
  /-- DICT_STATUS_CLEAR (R413). A write of 1 to the overrun bit of DICT_STATUS clears it. -/
  | dictStatusClear (value : W32)
  /-- WRITE1 (R415). An SPI WRITE1 frame writes one data word to an object at the SPI_CS# rise. -/
  | write1 (f : SpiFrame)
  /-- WRITE2 (R415). An SPI WRITE2 frame writes two data words to an object at the SPI_CS# rise. -/
  | write2 (f : SpiFrame)
  /-- SPI_READ (R415). An SPI READ frame requests words of an object value at the SPI_CS# rise. -/
  | spiRead (f : SpiFrame)
  /-- FETCH (R415). An SPI FETCH frame clocks out the result of the last applied READ or WRITE. -/
  | spiFetch (f : SpiFrame)
  /-- CLEAR_STATUS (R416). An SPI CLEAR_STATUS frame clears the sticky status bits [6:4]. -/
  | clearStatus (f : SpiFrame)
  /-- SPI_FRAME_ABORT (R419). SPI_CS# rising before the last bit of a frame aborts it without applying anything. -/
  | spiFrameAbort
  /-- SPI_FRAME_TIMEOUT (R419). No clock edge for 10 ms with SPI_CS# low aborts the frame. -/
  | spiFrameTimeout
  /-- QUEUE_PAIR_ENABLE (R226). A write of 1 to a queue pair's enable object enables the pair after its checks. -/
  | queuePairEnable (p : Path) (q : Fin 64)
  /-- QUEUE_PAIR_DISABLE (R227). A write of 0 to a queue pair's enable object stops fetching and starts a drain. -/
  | queuePairDisable (p : Path) (q : Fin 64)
  /-- QUEUE_PAIR_DRAIN_END (R227). When every accepted command of a draining pair has written its completion record, the pair becomes disabled. -/
  | queuePairDrainEnd (q : Fin 64)
  /-- BAY_WITHDRAWAL (R343). A write of 1 to a bay withdrawal object takes the bay out of service until the next power-on. -/
  | bayWithdrawal (p : Path) (bay : Fin 8)
  /-- BAY_REINIT_REQUEST (R362). A write of a bay number to object 0x4050:01 enters rung 2 for that bay. -/
  | bayReinitRequest (p : Path) (value : Byte)
  /-- QUEUE_PAIR_REINIT_REQUEST (R362). A write of a pair number to object 0x4050:02 enters rung 2 for that pair. -/
  | queuePairReinitRequest (p : Path) (value : Byte)
  /-- POWER_CYCLE_REQUEST (R362). A write of 1 to object 0x4050:03 sets the power-cycle-pending object for the board controller. -/
  | powerCycleRequest (p : Path)
  /-- ALERT_CAUSE_CLEAR (R344). A write of 1 to a bit of the alert cause word clears it unless its condition still holds. -/
  | alertCauseClear (p : Path) (value : W32)
  /-- PLAN_REQUEST (R388). A write of 1 to object 0x3030:0C measures every gauge and then plans. -/
  | planRequest (p : Path)
  /-- RESTORE_DEFAULTS (R404). A write of 1 to object 0x1200:07 sets every RWP object to its default in one commit. -/
  | restoreDefaults (p : Path)
  /-- LOAD_TARGET (R431). A write of the image load target selects a slot and ends any programming in progress. -/
  | loadTarget (p : Path) (value : Byte)
  /-- LOAD_DATA (R432). A write of load data buffers up to 64 KiB for programming at the load offset, erasing the slot when the offset is 0. -/
  | loadData (p : Path) (data : List Byte)
  /-- IMAGE_PROGRAMMING_END (R432). Programming or verification of an image slot ends and the load state is updated. -/
  | imageProgrammingEnd
  /-- VERIFY (R431). A write of 1 to the verify object starts verification of the target slot. -/
  | verify (p : Path)
  /-- COMMIT_SECURITY (R431). A write of 1 to object 0xA003:05 raises the security floors and blows the manifest's revocation fuses. -/
  | commitSecurity (p : Path)
  /-- WAKE_REQUEST (R439). A write of 1 to object 0x3040:02 sets the management wake reason. -/
  | wakeRequest (p : Path)
  /-- WAKE_REASON_CLEAR (R439). A write of 1 to a bit of the wake reasons object clears that reason. -/
  | wakeReasonClear (p : Path) (value : Byte)
  /-- OBJECT_WRITE (R396). A write to an object with no behaviour of its own is checked for ownership and range, committed to flash if RWP, and applied. -/
  | objectWrite (p : Path) (addr : BitVec 24) (data : List Byte)
  /-- SUMMARY_WRITE (R370). At the end of a summary interval in which records were logged, one summary block is written to serial flash. -/
  | summaryWrite
  /-- HOST_DMA_TIMEOUT (R252). A host-memory access that receives no completion within 100 µs fails its command with HOST_DMA. -/
  | hostDmaTimeout (tag : Nat)
  /-- INPUT_FALLS_BELOW_10_V (R447). After an overvoltage turn-off, the input falling below 10 V releases the module so that a later rise through 40 V can start it again. -/
  | inputFallsBelow10V
  /-- BC_RST_DEASSERT (R450). BC_RST# going high releases the module held at start-up step 3, and the restart continues with the straps sampled. -/
  | bcRstDeassert
  /-- LOCKSTEP_ROLLBACK_END (R360). A lockstep rollback in the I/O die ends, and the device domain is no longer under handling. -/
  | lockstepRollbackEnd
  /-- BANKED_ENTRY_END (R436). Entry into the banked state completes within 10 ms, and the power state passes from entering banked to banked. -/
  | bankedEntryEnd
  /-- BANKED_EXIT_END (R438). Leaving the banked state completes within 10 ms, the power state returns to D0 and latched wake reasons raise the wake vector. -/
  | bankedExitEnd
  /-- MANAGEMENT_LINK_UP (R404). The 10BASE-T1S management link comes up and applies the PLCA node ID and settings written since the last link-up. -/
  | managementLinkUp
  /-- PLCA_COLLISION (R405). A collision in the module's own transmit opportunity is counted, and the sixteenth within one second stops transmission until object 0x1200:02 is written. -/
  | plcaCollision
  /-- DICT_ARG_DATA_WRITE (R413). A host write of DICT_ARG or DICT_DATA stores its value, or is discarded and sets the overrun bit while a request is busy. -/
  | dictArgDataWrite (reg : BarWrite)
  /-- BEACON_COMPARISON_END (R349). A beacon digest comparison in comparison mode ends, its tile is released and the bay leaves the test state. -/
  | beaconComparisonEnd
  deriving DecidableEq, Repr

end Sys2Proof
end

