-- ==== Sys2Proof/Decode.lean ====
section
/-! DEFINITION. The command a word spells. -/

namespace Sys2Proof

/-- spec/opcode_table.json gives no row any bits: the block's commands are accesses and events, not words. So no word spells one. -/
def decodeTableWord (_nbits _w : Nat) : Option Instr := none

end Sys2Proof
end

