-- ==== Sys2Proof/Config.lean ====
section
/-! DEFINITION. What the spec leaves open or keeps in the factory: constants with no body, so that nothing can be proved of their values (notes/assumptions/5). -/

namespace Sys2Proof.Config

/-! ### Free values, drawn by the counter `drawn` of the state -/

/-- A byte the spec leaves undefined (R252, R315). -/
opaque freeByte : Nat → Byte
/-- A word the spec leaves undefined (R252). -/
opaque freeWord : Nat → W32
/-- Random 32-bit values of the device's own: Brynuo nonces (R407). -/
opaque nonce : Nat → W32
/-- Random bytes of the device's own in SPDM responses (R433). -/
opaque randomBytes : Nat → List Byte

/-- An accumulator value times NaN, which a fold-state record of NaN maxima leads to (R198). -/
opaque nanScaled : BitVec 36 → BitVec 36
/-- An accumulator value divided by an l of 0, which R199 says no state has and a fold-state record may hold. -/
opaque overZero : BitVec 36 → BitVec 36

/-! ### Choices the spec leaves to the implementation -/

/-- Whether a BC_RST# pulse shorter than 1 ms, of so many nanoseconds, restarts the module (R450). -/
opaque bcShortPulse : Nat → Bool
/-- Beats that admission charges a FENCE_FULL (R171, R189). -/
opaque fenceFullBeats : Nat

/-- CTExponent, DataTransferSize and MaxSPDMmsgSize of the SPDM CAPABILITIES response, which R433 does not give: nine bytes. -/
opaque spdmLimits : List Byte
/-- The type of the record that logs a fall-back to another image slot, which R426 asks for and R366 does not list. -/
opaque fallbackType : Nat
/-- The volatile capacity in bytes that the CXL device at a port offers; 0 where none is attached, its link does not train or it is not supported (R219). -/
opaque farDevice : Nat → Nat

/-! ### Factory contents -/

/-- Object 0x1000:05 (R399). -/
opaque serialNumber : List Byte
/-- Object 0x1200:01 (R404). -/
opaque managementMac : BitVec 48
/-- The bytes of object 0x3010:06. -/
opaque activityBytes : List Byte
/-- The mask ROM's fuse bytes: public-key hashes and the rest of the measured fuses (R425, R434). -/
opaque fuseBytes : List Byte
/-- The mask ROM's contents, as it measures them (R434). -/
opaque romBytes : List Byte
/-- The slot-0 certificate chain (R433). -/
opaque certificateChain : List Byte

/-! ### Cryptography the spec names and does not describe -/

/-- ECDSA verification over P-384 (R425): key, digest, signature. -/
opaque ecdsaOk : List Byte → List Byte → List Byte → Bool
/-- The attestation signature over a digest (R433), 96 bytes by its use. -/
opaque attestSign : List Byte → List Byte

end Sys2Proof.Config
end

