-- ==== Sys2Proof/Machine/Store.lean ====
section
/-! DEFINITION. Sparse plain data: lists of (key, value) pairs in one canonical form, keys strictly rising and no entry equal to what an unlisted key reads as. Device memory, host memory and every sparse register file are of this form. -/

namespace Sys2Proof.Machine

/-- Sparse data by key; `d` below is what an unlisted key reads as. -/
abbrev Store (α : Type) := List (Nat × α)

/-- What key `k` reads as. -/
def Store.get {α : Type} (d : α) : Store α → Nat → α
  | [], _ => d
  | (j, x) :: r, k => if j = k then x else Store.get d r k

/-- The data without key `k`. -/
def Store.without {α : Type} (m : Store α) (k : Nat) : Store α := m.filter fun e => e.1 != k

/-- Writes key `k`; writing what an unlisted key reads as removes the entry. -/
def Store.put {α : Type} [DecidableEq α] (d : α) : Store α → Nat → α → Store α
  | [], k, v => if v = d then [] else [(k, v)]
  | (j, x) :: r, k, v =>
    if k < j then (if v = d then Store.without ((j, x) :: r) k else (k, v) :: (j, x) :: r)
    else if k = j then (if v = d then Store.without r k else (k, v) :: r)
    else (j, x) :: Store.put d r k v

/-- Every key of the list is above `b`, keys rise strictly, and no entry equals `d`. -/
def Store.wfFrom {α : Type} [DecidableEq α] (d : α) : Nat → Store α → Bool
  | _, [] => true
  | b, (j, x) :: r => decide (b ≤ j) && decide (x ≠ d) && Store.wfFrom d (j + 1) r

/-- The canonical form. -/
def Store.wf {α : Type} [DecidableEq α] (d : α) (m : Store α) : Bool := Store.wfFrom d 0 m

/-- Changes the value at a key. -/
def Store.upd {α : Type} [DecidableEq α] (d : α) (m : Store α) (k : Nat) (f : α → α) : Store α :=
  m.put d k (f (m.get d k))

/-- A byte memory (Host.Cell pairs). -/
abbrev Mem := Store Byte

/-- What a byte that nothing has written reads as (notes/assumptions/4). DESIGN CHOICE, unsafe. -/
def memFill : Byte := 0#8

def Mem.byte (m : Mem) (a : Nat) : Byte := m.get memFill a
def Mem.setByte (m : Mem) (a : Nat) (b : Byte) : Mem := m.put memFill a b

/-- `n` bytes from address `a` up. -/
def Mem.read (m : Mem) (a : Nat) : Nat → List Byte
  | 0 => []
  | n + 1 => m.byte a :: Mem.read m (a + 1) n

/-- Writes bytes from address `a` up. -/
def Mem.write (m : Mem) (a : Nat) : List Byte → Mem
  | [] => m
  | b :: bs => Mem.write (m.setByte a b) (a + 1) bs

/-- The canonical form of a byte memory. -/
def Mem.wf (m : Mem) : Bool := Store.wf memFill m

/-- The little-endian number of a byte string. -/
def leNat : List Byte → Nat
  | [] => 0
  | b :: bs => b.toNat + 256 * leNat bs

/-- The `n` little-endian bytes of a number. -/
def leBytes : Nat → Nat → List Byte
  | 0, _ => []
  | n + 1, x => BitVec.ofNat 8 x :: leBytes n (x / 256)

/-- A little-endian number of `n` bytes in memory. -/
def Mem.nat (m : Mem) (a n : Nat) : Nat := leNat (m.read a n)

/-- The number of `n` bytes at offset `o` of a byte string; bytes beyond its end read 0. -/
def bytesNat (bs : List Byte) (o n : Nat) : Nat := leNat ((bs.drop o).take n)

/-- Bytes from offset `o` of a byte string, `n` of them at most. -/
def slice (bs : List Byte) (o n : Nat) : List Byte := (bs.drop o).take n

/-- A byte string filled with zeros up to `n` bytes. -/
def padTo (n : Nat) (bs : List Byte) : List Byte := bs ++ List.replicate (n - bs.length) 0#8

end Sys2Proof.Machine
end

