-- ==== Sys2Proof/Machine/Codes.lean ====
section
/-! DEFINITION. The codes the spec names: CRC-32C (R35), CRC-64 (R337), CRC-8 (R415), the UDP checksum (R262, R406), and SHA-384 (R425; FIPS 180-4). -/

namespace Sys2Proof.Machine

/-- One bit of a reflected CRC. -/
def crcBitR (poly c : Nat) : Nat := if c % 2 = 1 then (c >>> 1) ^^^ poly else c >>> 1
/-- One bit of an unreflected CRC of `w` bits. -/
def crcBitL (w poly c : Nat) : Nat :=
  if c.testBit (w - 1) then ((c <<< 1) % 2 ^ w) ^^^ poly else (c <<< 1) % 2 ^ w

def iter {α : Type} (f : α → α) : Nat → α → α
  | 0, x => x
  | n + 1, x => iter f n (f x)

def crc32cStep (c : Nat) (b : Byte) : Nat := iter (crcBitR 0x82F63B78) 8 (c ^^^ b.toNat)
/-- CRC-32C with the parameters of R35. -/
def crc32c (bs : List Byte) : Nat := (bs.foldl crc32cStep 0xFFFFFFFF) ^^^ 0xFFFFFFFF

def crc64Step (c : Nat) (b : Byte) : Nat := iter (crcBitL 64 0x42F0E1EBA9EA3693) 8 (c ^^^ (b.toNat <<< 56))
/-- CRC-64 with the parameters of R337. -/
def crc64 (bs : List Byte) : W64 := BitVec.ofNat 64 (bs.foldl crc64Step 0)

def crc8Step (c : Nat) (b : Byte) : Nat := iter (crcBitL 8 0x07) 8 (c ^^^ b.toNat)
/-- CRC-8 with the parameters of R415. -/
def crc8 (bs : List Byte) : Byte := BitVec.ofNat 8 (bs.foldl crc8Step 0)

/-! ### SHA-384 -/

/-- The round constants of SHA-384. -/
def shaK : List Nat :=
  [0x428A2F98D728AE22, 0x7137449123EF65CD, 0xB5C0FBCFEC4D3B2F, 0xE9B5DBA58189DBBC,
   0x3956C25BF348B538, 0x59F111F1B605D019, 0x923F82A4AF194F9B, 0xAB1C5ED5DA6D8118,
   0xD807AA98A3030242, 0x12835B0145706FBE, 0x243185BE4EE4B28C, 0x550C7DC3D5FFB4E2,
   0x72BE5D74F27B896F, 0x80DEB1FE3B1696B1, 0x9BDC06A725C71235, 0xC19BF174CF692694,
   0xE49B69C19EF14AD2, 0xEFBE4786384F25E3, 0x0FC19DC68B8CD5B5, 0x240CA1CC77AC9C65,
   0x2DE92C6F592B0275, 0x4A7484AA6EA6E483, 0x5CB0A9DCBD41FBD4, 0x76F988DA831153B5,
   0x983E5152EE66DFAB, 0xA831C66D2DB43210, 0xB00327C898FB213F, 0xBF597FC7BEEF0EE4,
   0xC6E00BF33DA88FC2, 0xD5A79147930AA725, 0x06CA6351E003826F, 0x142929670A0E6E70,
   0x27B70A8546D22FFC, 0x2E1B21385C26C926, 0x4D2C6DFC5AC42AED, 0x53380D139D95B3DF,
   0x650A73548BAF63DE, 0x766A0ABB3C77B2A8, 0x81C2C92E47EDAEE6, 0x92722C851482353B] ++
  [0xA2BFE8A14CF10364, 0xA81A664BBC423001, 0xC24B8B70D0F89791, 0xC76C51A30654BE30,
   0xD192E819D6EF5218, 0xD69906245565A910, 0xF40E35855771202A, 0x106AA07032BBD1B8,
   0x19A4C116B8D2D0C8, 0x1E376C085141AB53, 0x2748774CDF8EEB99, 0x34B0BCB5E19B48A8,
   0x391C0CB3C5C95A63, 0x4ED8AA4AE3418ACB, 0x5B9CCA4F7763E373, 0x682E6FF3D6B2B8A3,
   0x748F82EE5DEFB2FC, 0x78A5636F43172F60, 0x84C87814A1F0AB72, 0x8CC702081A6439EC,
   0x90BEFFFA23631E28, 0xA4506CEBDE82BDE9, 0xBEF9A3F7B2C67915, 0xC67178F2E372532B,
   0xCA273ECEEA26619C, 0xD186B8C721C0C207, 0xEADA7DD6CDE0EB1E, 0xF57D4F7FEE6ED178,
   0x06F067AA72176FBA, 0x0A637DC5A2C898A6, 0x113F9804BEF90DAE, 0x1B710B35131C471B,
   0x28DB77F523047D84, 0x32CAAB7B40C72493, 0x3C9EBE0A15C9BEBC, 0x431D67C49C100D4C,
   0x4CC5D4BECB3E42B6, 0x597F299CFC657E2A, 0x5FCB6FAB3AD6FAEC, 0x6C44198C4A475817]

/-- The initial hash value of SHA-384. -/
def shaH : List Nat :=
  [0xCBBB9D5DC1059ED8, 0x629A292A367CD507, 0x9159015A3070DD17, 0x152FECD8F70E5939,
   0x67332667FFC00B31, 0x8EB44A8768581511, 0xDB0C2E0D64F98FA7, 0x47B5481DBEFA4FA4]

def w64 (x : Nat) : Nat := x % 2 ^ 64
def rotr64 (x n : Nat) : Nat := (x >>> n) ||| w64 (x <<< (64 - n))

/-- The message schedule: `w` holds the last 16 words, oldest first; the result lists `n` further words. -/
def shaExtend : Nat → List Nat → List Nat
  | 0, _ => []
  | n + 1, w =>
    let g := fun i => w.getD i 0
    let s0 := rotr64 (g 1) 1 ^^^ rotr64 (g 1) 8 ^^^ (g 1 >>> 7)
    let s1 := rotr64 (g 14) 19 ^^^ rotr64 (g 14) 61 ^^^ (g 14 >>> 6)
    let x := w64 (g 0 + s0 + g 9 + s1)
    x :: shaExtend n (w.drop 1 ++ [x])

/-- One round on the eight working words. -/
def shaRound (v : List Nat) (kw : Nat × Nat) : List Nat :=
  let g := fun i => v.getD i 0
  let s1 := rotr64 (g 4) 14 ^^^ rotr64 (g 4) 18 ^^^ rotr64 (g 4) 41
  let ch := (g 4 &&& g 5) ^^^ ((2 ^ 64 - 1 - g 4) &&& g 6)
  let t1 := g 7 + s1 + ch + kw.1 + kw.2
  let s0 := rotr64 (g 0) 28 ^^^ rotr64 (g 0) 34 ^^^ rotr64 (g 0) 39
  let maj := (g 0 &&& g 1) ^^^ (g 0 &&& g 2) ^^^ (g 1 &&& g 2)
  [w64 (t1 + s0 + maj), g 0, g 1, g 2, w64 (g 3 + t1), g 4, g 5, g 6]

/-- A big-endian number. -/
def beNat (bs : List Byte) : Nat := bs.foldl (fun a b => a * 256 + b.toNat) 0
/-- The `n` big-endian bytes of a number. -/
def beBytes (n x : Nat) : List Byte := (leBytes n x).reverse

/-! ### The UDP checksum (R262, R406; RFC 768 and RFC 8200) -/

/-- The sum of the big-endian 16-bit words of a byte string. -/
def sum16 : List Byte → Nat
  | a :: b :: r => a.toNat * 256 + b.toNat + sum16 r
  | [a] => a.toNat * 256
  | [] => 0
/-- One end-around carry. -/
def carry16 (n : Nat) : Nat := n % 65536 + n / 65536
/-- The UDP checksum over the IPv6 pseudo-header, the UDP header and the data, with one port number at both ends. -/
def udpSum (port : Nat) (src dst : BitVec 128) (data : List Byte) : Nat :=
  let n := data.length + 8
  let s := sum16 (beBytes 16 src.toNat ++ beBytes 16 dst.toNat ++ beBytes 4 n ++ beBytes 4 17 ++ beBytes 2 port ++ beBytes 2 port ++ beBytes 2 n ++ data)
  let c := 65535 - carry16 (carry16 (carry16 s))
  if c = 0 then 65535 else c

def shaBlock (h : List Nat) (blk : List Byte) : List Nat :=
  let w0 := (List.range 16).map fun i => beNat (slice blk (8 * i) 8)
  let w := w0 ++ shaExtend 64 w0
  (h.zip ((shaK.zip w).foldl shaRound h)).map fun p => w64 (p.1 + p.2)

def shaBlocks : Nat → List Nat → List Byte → List Nat
  | 0, h, _ => h
  | n + 1, h, bs => shaBlocks n (shaBlock h (bs.take 128)) (bs.drop 128)

/-- SHA-384 of a byte string: 48 bytes. -/
def sha384 (bs : List Byte) : List Byte :=
  let pad := (111 - bs.length % 128 + 128) % 128
  let msg := bs ++ [0x80#8] ++ List.replicate pad 0#8 ++ beBytes 16 (8 * bs.length)
  (((shaBlocks (msg.length / 128) shaH msg).take 6).map (beBytes 8)).flatten

end Sys2Proof.Machine
end

