-- ==== Sys2Proof/Machine/Num.lean ====
section
/-! DEFINITION. Exact fractions, and the roundings `rne` and `rna` of 00_scope into every float layout of R17, R21, R47, R49 and binary32. -/

namespace Sys2Proof.Machine

/-- An exact fraction; `den` is positive in every value the operations build. -/
structure Q where
  num : Int
  den : Nat
  deriving DecidableEq, Repr

def Q.mk' (n : Int) (d : Nat) : Q :=
  let g := Nat.gcd n.natAbs d
  if g = 0 then ⟨0, 1⟩ else ⟨n / (g : Int), d / g⟩

def Q.ofInt (n : Int) : Q := ⟨n, 1⟩
def Q.ofNat (n : Nat) : Q := ⟨n, 1⟩
def Q.zero : Q := ⟨0, 1⟩
def Q.one : Q := ⟨1, 1⟩
def Q.frac (n : Int) (d : Nat) : Q := Q.mk' n d
def Q.add (a b : Q) : Q := Q.mk' (a.num * b.den + b.num * a.den) (a.den * b.den)
def Q.neg (a : Q) : Q := ⟨-a.num, a.den⟩
def Q.sub (a b : Q) : Q := a.add b.neg
def Q.mul (a b : Q) : Q := Q.mk' (a.num * b.num) (a.den * b.den)
/-- The quotient; a divisor of 0 gives 0 (no caller divides by 0). -/
def Q.div (a b : Q) : Q :=
  if b.num = 0 then Q.zero
  else if 0 < b.num then Q.mk' (a.num * b.den) (a.den * b.num.natAbs)
  else Q.mk' (-(a.num * b.den)) (a.den * b.num.natAbs)
def Q.abs (a : Q) : Q := ⟨a.num.natAbs, a.den⟩
def Q.isZero (a : Q) : Bool := a.num = 0
def Q.isNeg (a : Q) : Bool := a.num < 0
def Q.lt (a b : Q) : Bool := a.num * b.den < b.num * a.den
def Q.le (a b : Q) : Bool := a.num * b.den ≤ b.num * a.den
def Q.eq (a b : Q) : Bool := a.num * b.den = b.num * a.den
def Q.max (a b : Q) : Q := if a.lt b then b else a
def Q.min (a b : Q) : Q := if b.lt a then b else a

/-- 2^e. -/
def Q.pow2 (e : Int) : Q :=
  if 0 ≤ e then ⟨(2 ^ e.toNat : Nat), 1⟩ else ⟨1, 2 ^ (-e).toNat⟩

/-- a × 2^e. -/
def Q.scale (a : Q) (e : Int) : Q := a.mul (Q.pow2 e)

def Q.floor (a : Q) : Int := a.num / (a.den : Int)
def Q.ceil (a : Q) : Int := -((-a.num) / (a.den : Int))

/-- ⌊log2 a⌋ for a > 0 (0 for any other a). -/
def Q.ilog2 (a : Q) : Int :=
  if a.num ≤ 0 then 0
  else
    let e : Int := (a.num.natAbs.log2 : Int) - (a.den.log2 : Int)
    if (Q.pow2 e).le a then e else e - 1

/-- The nearest integer; a tie goes to the even one (rne of 00_scope). -/
def Q.rneInt (a : Q) : Int :=
  let f := a.floor
  let two := 2 * (a.num - f * a.den)
  if two < a.den then f
  else if a.den < two then f + 1
  else if f % 2 = 0 then f else f + 1

/-- The nearest natural to a ≥ 0; a tie goes up (rna of 00_scope, on magnitudes). -/
def Q.rnaNat (a : Q) : Nat := ((2 * a.num + a.den) / (2 * a.den : Int)).toNat

/-- A float layout by R17: `p` significant bits, the exponent of the smallest unit, and the largest finite magnitude pattern. -/
structure FloatFmt where
  p : Nat
  minUlp : Int
  maxMag : Nat
  deriving DecidableEq, Repr

/-- The value of a magnitude pattern (R17). -/
def FloatFmt.val (f : FloatFmt) (mag : Nat) : Q :=
  let x := mag >>> (f.p - 1)
  let m := mag % 2 ^ (f.p - 1)
  if x = 0 then (Q.ofNat m).scale f.minUlp
  else (Q.ofNat (2 ^ (f.p - 1) + m)).scale ((x : Int) - 1 + f.minUlp)

/-- The exponent of the unit in which a magnitude a > 0 is rounded. -/
def FloatFmt.ulp (f : FloatFmt) (a : Q) : Int :=
  let u := a.ilog2 - ((f.p : Int) - 1)
  if u < f.minUlp then f.minUlp else u

/-- The magnitude pattern of rne(a) for a ≥ 0, as if the layout had no largest value. -/
def FloatFmt.rneMag (f : FloatFmt) (a : Q) : Nat :=
  if a.num ≤ 0 then 0
  else
    let u := f.ulp a
    ((u - f.minUlp).toNat) * 2 ^ (f.p - 1) + (a.scale (-u)).rneInt.toNat

/-- The magnitude pattern of rna(a) for a ≥ 0, as if the layout had no largest value. -/
def FloatFmt.rnaMag (f : FloatFmt) (a : Q) : Nat :=
  if a.num ≤ 0 then 0
  else
    let u := f.ulp a
    ((u - f.minUlp).toNat) * 2 ^ (f.p - 1) + (a.scale (-u)).rnaNat

/-- ACC36 (R48). -/
def accFmt : FloatFmt := ⟨25, -1046, 0x7FFFFFFFF⟩
/-- C24 (R49). -/
def c24Fmt : FloatFmt := ⟨16, -141, 0x7FFFFF⟩
/-- IEEE binary32, its finite patterns. -/
def f32Fmt : FloatFmt := ⟨24, -149, 0x7F7FFFFF⟩
/-- The block scale S8 (R21). -/
def s8Fmt : FloatFmt := ⟨5, -10, 0xFF⟩
/-- F8, the gutter entry's format (R28). -/
def f8Fmt : FloatFmt := ⟨4, -9, 0x7F⟩

/-! ### ACC36 (R47, R48) -/

def accNeg (a : Acc) : Bool := a.getLsbD 35
def accMag (a : Acc) : Nat := a.toNat % 2 ^ 35
def accVal (a : Acc) : Q :=
  let v := accFmt.val (accMag a)
  if accNeg a then v.neg else v
def accMk (neg : Bool) (mag : Nat) : Acc := BitVec.ofNat 36 (mag + if neg then 2 ^ 35 else 0)
def accZero : Acc := 0#36
/-- The largest finite value of a sign. -/
def accMax (neg : Bool) : Acc := accMk neg accFmt.maxMag

/-- rne into ACC36, with the sign an exact or rounded zero takes, and whether it saturated (R48). -/
def accRound (x : Q) (zneg : Bool) : Acc × Bool :=
  if x.isZero then (accMk zneg 0, false)
  else
    let m := accFmt.rneMag x.abs
    if accFmt.maxMag < m then (accMax x.isNeg, true) else (accMk x.isNeg m, false)

/-- One addition of a fold, one rounding; zeros by R89. -/
def accAdd (a b : Acc) : Acc × Bool :=
  accRound ((accVal a).add (accVal b)) (accNeg a && accNeg b && (accMag a == 0) && (accMag b == 0))

/-- Adds an exact value to an accumulator (R84): an exact 0 counts as +0. -/
def accAddExact (a : Acc) (x : Q) : Acc × Bool :=
  accRound ((accVal a).add x) false

def accSub (a b : Acc) : Acc × Bool := accAdd a (b ^^^ (BitVec.ofNat 36 (2 ^ 35)))

/-- a × x rounded once (R88); a zero keeps the sign of `a`. -/
def accMulExact (a : Acc) (x : Q) : Acc × Bool := accRound ((accVal a).mul x) (accNeg a != x.isNeg)

/-- −0 becomes +0 (R58). -/
def accPlusZero (a : Acc) : Acc := if accMag a = 0 then accZero else a

/-! ### FP32 -/

def f32Neg (w : W32) : Bool := w.getLsbD 31
def f32Mag (w : W32) : Nat := w.toNat % 2 ^ 31
def f32IsNaN (w : W32) : Bool := 0x7F800000 < f32Mag w
def f32IsInf (w : W32) : Bool := f32Mag w = 0x7F800000
def f32IsFinite (w : W32) : Bool := f32Mag w < 0x7F800000
def f32IsZero (w : W32) : Bool := f32Mag w = 0
def f32Mk (neg : Bool) (mag : Nat) : W32 := BitVec.ofNat 32 (mag + if neg then 2 ^ 31 else 0)
def f32Inf (neg : Bool) : W32 := f32Mk neg 0x7F800000
/-- The canonical quiet NaN (R176). -/
def f32NaN : W32 := 0x7FC00000#32
/-- 2^128 × (1 − 2^−24). -/
def f32Max (neg : Bool) : W32 := f32Mk neg 0x7F7FFFFF
/-- The value of a finite pattern. -/
def f32Val (w : W32) : Q :=
  let v := f32Fmt.val (f32Mag w)
  if f32Neg w then v.neg else v

/-- rne into binary32: the pattern (±Inf beyond the largest finite value) and whether it overflowed. -/
def f32Round (x : Q) (zneg : Bool) : W32 × Bool :=
  if x.isZero then (f32Mk zneg 0, false)
  else
    let m := f32Fmt.rneMag x.abs
    if f32Fmt.maxMag < m then (f32Inf x.isNeg, true) else (f32Mk x.isNeg m, false)

/-- ACC36 to FP32 (R50): saturates instead of overflowing. -/
def accToF32 (a : Acc) : W32 × Bool :=
  let m := f32Fmt.rneMag (accVal a).abs
  if f32Fmt.maxMag < m then (f32Max (accNeg a), true) else (f32Mk (accNeg a) m, false)

/-- What R51 reports beside the value. -/
structure F32In where
  acc : Acc
  sat : Bool
  invalid : Bool
  deriving DecidableEq, Repr

/-- FP32 read into ACC36, as a preload or a residual (R51). -/
def f32ToAcc (w : W32) : F32In :=
  if f32IsNaN w then ⟨accZero, false, true⟩
  else if f32IsInf w then ⟨accMax (f32Neg w), true, false⟩
  else ⟨(accRound (f32Val w) (f32Neg w)).1, false, false⟩

/-! ### C24 (R49) -/

def c24Val (w : W32) : Q :=
  let v := c24Fmt.val (w.toNat % 2 ^ 23)
  if w.getLsbD 23 then v.neg else v

/-- rne into C24, with the sign that an exact zero takes; a value beyond the largest finite saturates with its sign (R49). The spec gives no sign of a zero here: `zneg` is R89's rule for the sum, and a negative value that rounds to zero gives −0 (notes/assumptions/47). DESIGN CHOICE. -/
def c24Round (x : Q) (zneg : Bool) : W32 × Bool :=
  if x.isZero then (if zneg then BitVec.ofNat 32 (2 ^ 23) else 0#32, false)
  else
    let m := c24Fmt.rneMag x.abs
    let s := if x.isNeg then 2 ^ 23 else 0
    if c24Fmt.maxMag < m then (BitVec.ofNat 32 (c24Fmt.maxMag + s), true) else (BitVec.ofNat 32 (m + s), false)

/-- A C24 container as ACC36, which holds every C24 value exactly (R47, R49). -/
def c24Acc (w : W32) : Acc := (accRound (c24Val w) (w.getLsbD 23)).1
/-- ACC36 to C24. -/
def accC24 (a : Acc) : W32 × Bool := c24Round (accVal a) (accNeg a)
/-- The C24 sum of two values: exact, rounded once (R278); a zero is −0 only where both are −0 (R89's rule; notes/assumptions/47). -/
def c24Add (a b : Acc) : W32 × Bool :=
  c24Round ((accVal a).add (accVal b)) (accNeg a && accNeg b && accMag a == 0 && accMag b == 0)

end Sys2Proof.Machine
end

