-- ==== Sys2Proof/Machine/Formats.lean ====
section
/-! DEFINITION. Element formats, the block scale, the common internal form and the sheaf (chapter 02). -/

namespace Sys2Proof.Machine

/-! ### Format codes (R14) -/

def fmtFP32Sheaf : Nat := 0x18
def fmtACC36 : Nat := 0x19
def fmtC24 : Nat := 0x1A
def fmtFP32 : Nat := 0x1B
/-- The chain-end code of R108. -/
def fmtNone : Nat := 0x1F

def isNarrow (f : Nat) : Bool := f ≤ 0x0B
def isSheafFmt (f : Nat) : Bool := f ≤ 0x0B || f == 0x18
def isArrayFmt (f : Nat) : Bool := f == 0x19 || f == 0x1B

/-- Width in bits of a narrow format's element. -/
def fmtWidth (f : Nat) : Nat := [1, 2, 3, 4, 4, 5, 6, 6, 7, 8, 8, 8].getD f 32

/-- Exponent bits, mantissa bits and bias of a float element format (R16, R17). -/
def floatShape (f : Nat) : Option (Nat × Nat × Nat) :=
  [none, none, none, some (2, 1, 1), none, some (2, 2, 1), some (3, 2, 3), some (2, 3, 1), some (3, 3, 3),
   some (4, 3, 7), some (5, 2, 15), none].getD f none

/-- The float layout of a float element format. -/
def elemFmt (f : Nat) : FloatFmt :=
  match floatShape f with
  | some (e, m, b) => ⟨m + 1, 1 - (b : Int) - m, 2 ^ (e + m) - 1⟩
  | none => ⟨1, 0, 1⟩

/-- A value (−1)^s × M × 2^E with the sign in `m` (R46). -/
structure Elem where
  m : Int
  e : Int
  deriving DecidableEq, Repr

def Elem.zero : Elem := ⟨0, 0⟩
def Elem.val (x : Elem) : Q := (Q.ofInt x.m).scale x.e

/-- The internal form of an element code; none for a reserved code (R15 to R20). -/
def elemDec (f code : Nat) : Option Elem :=
  match floatShape f with
  | some (e, m, b) =>
    let x := field code (e + m - 1) m
    let fr := code % 2 ^ m
    let s : Int := if code.testBit (e + m) then -1 else 1
    if x = 0 then some ⟨s * fr, 1 - (b : Int) - m⟩
    else some ⟨s * (2 ^ m + fr : Nat), (x : Int) - b - m⟩
  | none =>
    if f = 0 then some ⟨if code % 2 = 1 then -1 else 1, 0⟩
    else if code = 2 ^ (fmtWidth f - 1) then none
    else some ⟨signed (fmtWidth f) code, 0⟩

/-- Largest finite magnitude of a narrow format (R14). -/
def fmtLargest (f : Nat) : Q :=
  if f = 0 then Q.one
  else
    match elemDec f (2 ^ (fmtWidth f - 1) - 1) with
    | some x => x.val
    | none => Q.one

/-- ⌊log2 L⌋ of R67's table; the FP32 sheaf takes no shift (R116). -/
def fmtLargestLog (f : Nat) : Int := (fmtLargest f).ilog2

/-- The largest magnitude by which R108 compares two sheaf formats. -/
def fmtReach (f : Nat) : Q := if f = 0x18 then f32Val (f32Max false) else fmtLargest f

/-- The block scale S8 (R21): significand 0 to 31 and exponent −10 to +4. -/
def s8Dec (q : Nat) : Elem :=
  if field q 7 4 = 0 then ⟨field q 3 0, -10⟩ else ⟨16 + field q 3 0, (field q 7 4 : Int) - 11⟩

def s8Val (q : Nat) : Q := (s8Dec q).val

/-- What rna(y, fmt) and the clamp of R67 give: code, whether |y| ≥ T, and whether the code's value is 0. -/
structure Coded where
  code : Nat
  sat : Bool
  zero : Bool
  deriving DecidableEq, Repr

/-- The main code of a quotient (R67). -/
def encodeElem (f : Nat) (y : Q) : Coded :=
  let neg := y.isNeg
  if f = 0 then ⟨if neg then 1 else 0, (Q.frac 3 2).le y.abs, false⟩
  else
    match floatShape f with
    | some _ =>
      let ff := elemFmt f
      let m := ff.rnaMag y.abs
      let sat := ff.maxMag < m
      let c := if sat then ff.maxMag else m
      ⟨if neg && c ≠ 0 then c + 2 ^ (fmtWidth f - 1) else c, sat, c == 0⟩
    | none =>
      let l := 2 ^ (fmtWidth f - 1) - 1
      let m := y.abs.rnaNat
      let c := if l < m then l else m
      ⟨if neg && c ≠ 0 then 2 ^ fmtWidth f - c else c, l < m, c == 0⟩

/-- The largest code of a sign (R58). -/
def largestCode (f : Nat) (neg : Bool) : Nat :=
  if f = 0 then (if neg then 1 else 0)
  else
    match floatShape f with
    | some _ => 2 ^ (fmtWidth f - 1) - 1 + if neg then 2 ^ (fmtWidth f - 1) else 0
    | none => if neg then 2 ^ (fmtWidth f - 1) + 1 else 2 ^ (fmtWidth f - 1) - 1

/-- The width class of a sheaf (R130). -/
def widthClass (f : Nat) (gutter : Bool) : Nat :=
  if f = 0 then (if gutter then 4 else 1)
  else if f = 1 then (if gutter then 4 else 2)
  else if f ≤ 4 then 4 else 8

/-! ### Sheaf sizes (R31, R33, R45) -/

/-- Bytes of a sheaf of a format. -/
def sheafSize (f : Nat) (gutter : Bool) : Nat :=
  if f = 0x18 then 16448 else roundUp (512 * fmtWidth f + 256 + (if gutter then 512 else 0) + 8) 64

/-- The sheaf descriptor (R34). -/
def sheafDesc (f : Nat) (gutter : Bool) (count : Nat) (invalid : Bool) : Nat :=
  0x10000 + (if invalid then 2 ^ 15 else 0) + count * 2 ^ 6 + (if gutter then 2 ^ 5 else 0) + f

/-- R39: whether a sheaf read under a table entry is malformed. -/
def sheafMalformed (f : Nat) (gutter : Bool) (desc : Nat) : Bool :=
  !(isSheafFmt (desc % 32)) || field desc 31 24 != 0 || field desc 23 16 != 1 ||
  (desc % 32 == 0x18 && desc.testBit 5) || desc % 32 != f || desc.testBit 5 != gutter

/-- The stored check matches the bytes before it (R35). -/
def sheafCheckOk (bytes : List Byte) : Bool :=
  crc32c (bytes.take (bytes.length - 4)) == leNat (bytes.drop (bytes.length - 4))

/-- Appends padding, descriptor and check to a sheaf's areas (R31). -/
def sheafSeal (f : Nat) (gutter : Bool) (count : Nat) (invalid : Bool) (areas : List Byte) : List Byte :=
  let body := padTo (sheafSize f gutter - 8) areas ++ leBytes 4 (sheafDesc f gutter count invalid)
  body ++ leBytes 4 (crc32c body)

/-- The packed bytes of `cs`, element 0 lowest, `w` bits each (R32). -/
def packCodes (w : Nat) (cs : List Nat) : Nat := cs.foldr (fun c acc => c + acc * 2 ^ w) 0

/-- The `n` codes packed in a number. -/
def unpackCodes (w : Nat) : Nat → Nat → List Nat
  | 0, _ => []
  | n + 1, x => x % 2 ^ w :: unpackCodes w n (x / 2 ^ w)

/-! ### Decoding one block -/

/-- A decoded block (R13, R18, R23 to R30): scale, channel shift, 32 elements, and whether it counts as invalid. -/
structure BlockVal where
  s8 : Elem
  shift : Int
  elems : List Elem
  invalid : Bool
  deriving DecidableEq, Repr

def BlockVal.zero : BlockVal := ⟨Elem.zero, 0, List.replicate 32 Elem.zero, false⟩

/-- Value of position `j` of a block. -/
def BlockVal.at' (b : BlockVal) (j : Nat) : Q :=
  let x := b.elems.getD j Elem.zero
  (Q.ofInt (x.m * b.s8.m)).scale (x.e + b.s8.e + b.shift)

/-- A gutter entry: none if it is empty (R30). -/
def gutterDec (e : Nat) : Option (Nat × Nat) :=
  let c := field e 10 3
  if c = 0x00 ∨ c = 0x80 then none else some (field e 15 11, c)

/-- Decodes one block of a narrow sheaf: header, packed codes, the two gutter entries if the sheaf has the area, the channel's shift byte, and how many positions lie within the channel (R42). -/
def blockDec (f : Nat) (hdr codes : Nat) (gut : Option (Nat × Nat)) (shiftByte active : Nat) : BlockVal :=
  let stored := hdr.testBit 1
  if shiftByte = 0x80 then { BlockVal.zero with invalid := true }
  else
    let sh := signed 8 shiftByte
    let q := field hdr 15 8
    let on := hdr.testBit 0
    let e0 := match gut with | some (x, _) => if on then gutterDec x else none | none => none
    let e1 := match gut with | some (_, y) => if on then gutterDec y else none | none => none
    let dup := match e0, e1 with | some (i, _), some (j, _) => i == j | _, _ => false
    let odd := stored || dup || (on && gut.isNone)
    if q = 0 then { BlockVal.zero with shift := sh, invalid := odd }
    else
      let pick := fun (j : Nat) =>
        match e0 with
        | some (i, c) => if i = j then some c else (match e1 with | some (i', c') => if i' = j then some c' else none | none => none)
        | none => (match e1 with | some (i', c') => if i' = j then some c' else none | none => none)
      let els := ((unpackCodes (fmtWidth f) 32 codes).zipIdx).map fun (c, j) =>
        if active ≤ j then (Elem.zero, false)
        else
          match pick j with
          | some g => ((elemDec 0x09 g).getD Elem.zero, false)
          | none => match elemDec f c with | some x => (x, false) | none => (Elem.zero, true)
      ⟨s8Dec q, sh, els.map (·.1), odd || els.any (·.2)⟩

/-- Block `b` of a narrow sheaf's bytes. -/
def sheafBlock (f : Nat) (gutter : Bool) (bytes : List Byte) (b shiftByte active : Nat) : BlockVal :=
  let w := fmtWidth f
  let gut := if gutter then
      some (bytesNat bytes (512 * w + 256 + 4 * b) 2, bytesNat bytes (512 * w + 256 + 4 * b + 2) 2) else none
  blockDec f (bytesNat bytes (512 * w + 2 * b) 2) (bytesNat bytes (4 * w * b) (4 * w)) gut shiftByte active

/-- The header of block `b` of a narrow sheaf. -/
def sheafHeader (f : Nat) (bytes : List Byte) (b : Nat) : Nat := bytesNat bytes (512 * fmtWidth f + 2 * b) 2

/-- The saturation and flush sums of a narrow sheaf (R103). -/
def sheafSums (f : Nat) (bytes : List Byte) : Nat × Nat :=
  (List.range 128).foldl (fun p b => let h := sheafHeader f bytes b; (p.1 + field h 7 5, p.2 + field h 4 2)) (0, 0)

end Sys2Proof.Machine
end

