-- ==== Sys2Proof/Machine/State.lean ====
section
/-! DEFINITION. The state of the block as plain data, its reset, and the reasons a step can stop. -/

namespace Sys2Proof.Machine

/-- Reasons the machine stops with a fault. No meaning of this model raises one: every error of the spec is reported by a status, a flag, a counter or a record (INVENTORY.md, Faults). -/
inductive Fault where
  /-- Raised by nobody; kept so that the type has a value. Safe. -/
  | none
  deriving DecidableEq, Repr

/-- Reasons a command is refused by the model. -/
inductive Refusal where
  /-- Raised by an arm of `exec` whose command has no meaning yet. Safe. -/
  | notModelled (mnemonic : String)
  deriving DecidableEq, Repr

/-! ### Start-up, pins and links (R421 to R441, R445 to R453) -/

/-- Where start-up stands (the steps of R421), with the two services that replace readiness and the rung-3 reset. -/
inductive Phase where
  | off
  | powering
  | regulated
  | service
  | verified
  | trained
  | tested
  | ready
  | restricted
  | romRecovery
  | resetting
  deriving DecidableEq, Repr

/-- The module's power, pins and links. -/
structure PowerDom where
  phase : Phase
  /-- an overvoltage turn-off holds the module off (R447) -/
  ovLock : Bool
  pwrgd : Bool
  bcLow : Bool
  perstLow : Bool
  /-- the PCIe link is trained (R424) -/
  linkUp : Bool
  /-- the host has sent PME_Turn_Off (R440) -/
  l23 : Bool
  straps : BitVec 6
  /-- object 0x3040:04 -/
  powerState : Nat
  pmeStatus : Bool
  wakeLow : Bool
  /-- object 0x3040:03 -/
  wakeReasons : Byte
  /-- reasons whose vector waits for D0 (R441) -/
  wakeVec : Byte
  /-- an enabled reason not yet signalled (R440) -/
  wakeDue : Bool
  /-- THERM# is low (R381) -/
  thermLow : Bool
  /-- the first plan of this power session is published (R421 step 9) -/
  planned : Bool
  /-- origin of the rung-3 reset in progress -/
  origin : ResetOrigin
  /-- CXL0_PERST#, CXL1_PERST# released (R445) -/
  cxlRun : Bool
  /-- the power-on under way is the one of a rung-4 request (R342) -/
  rung4 : Bool
  deriving DecidableEq, Repr

/-! ### Dictionary (chapter 17) -/

/-- A pending segmented write (R411). -/
structure PendingSeg where
  addr : Nat
  data : List Byte
  lastAt : Nat
  deriving DecidableEq, Repr

/-- What a served request answered. -/
structure DictResult where
  status : Nat
  addr : Nat
  data : List Byte
  last : Bool
  gen : W32
  deriving DecidableEq, Repr

/-- What the dictionary keeps for one path (R402, R411). -/
structure PathState where
  cursor : Nat
  cursorGen : W32
  recordGen : W32
  seg : Option PendingSeg
  result : DictResult
  deriving DecidableEq, Repr

/-- A dictionary request completely received (R395). -/
structure DictReq where
  path : Path
  /-- the Brynuo operation, or the SPI opcode, it came with -/
  op : Nat
  write : Bool
  addr : Nat
  off : Nat
  len : Nat
  data : List Byte
  last : Bool
  at' : Nat
  /-- nonce and sequence of the Brynuo request -/
  nonce : W32
  seq : Nat
  deriving DecidableEq, Repr

/-- A Brynuo message the device sends. -/
structure BrMsg where
  kind : Nat
  op : Nat
  session : Nat
  seq : Nat
  nonce : W32
  addr : Nat
  off : Nat
  status : Nat
  last : Bool
  gen : W32
  payload : List Byte
  peer : BitVec 128
  deriving DecidableEq, Repr

/-- A Brynuo message as it leaves the management port: addresses, hop limit, UDP ports and checksum, and the message's bytes (R406, R407). -/
structure TxMsg where
  srcIp : BitVec 128
  dstIp : BitVec 128
  hop : Nat
  srcPort : Nat
  dstPort : Nat
  udpSum : Nat
  bytes : List Byte
  deriving DecidableEq, Repr

/-- A notification not yet acknowledged (R412). -/
structure Notice where
  seq : Nat
  word : W32
  resends : Nat
  lastAt : Nat
  deriving DecidableEq, Repr

/-- A Brynuo session (R409, R410). -/
structure Session where
  live : Bool
  peer : BitVec 128
  openedAt : Nat
  lastSeq : Nat
  lastReq : Nat
  nonce : W32
  leaseMs : Nat
  cached : Option BrMsg
  busy : Bool
  noticeSeq : Nat
  notices : List Notice
  deriving DecidableEq, Repr

/-- The in-band window registers (R413). -/
structure Inband where
  cmd : W32
  arg : W32
  busy : Bool
  overrun : Bool
  last : Bool
  retLen : Nat
  status : Nat
  gen : W32
  data : Mem
  deriving DecidableEq, Repr

/-- The SPI target's registers (R415, R416). -/
structure SpiState where
  applied : Bool
  ready : Bool
  aborted : Bool
  rejected : Bool
  busyRefused : Bool
  addr : Nat
  status : Nat
  words : List W32
  /-- the bytes SPI_MISO carried in the last frame -/
  miso : List Byte
  deriving DecidableEq, Repr

/-- The dictionary server. -/
structure Dict where
  /-- values of RW and RWP objects by object address; an unlisted one has its default -/
  vals : Store (Option Nat)
  gens : Store W32
  owner : Nat
  ownerSince : Nat
  inbandPath : PathState
  spiPath : PathState
  brynuoPaths : Vector PathState 4
  sessions : Vector Session 4
  inband : Inband
  spi : SpiState
  requests : List DictReq
  /-- device times of the commits of the last hour (R393) -/
  commits : List Nat
  /-- the 10BASE-T1S link is up -/
  mgmtUp : Bool
  /-- PLCA settings in force since the last link-up (R404) -/
  plcaNode : Nat
  plcaTimer : Nat
  /-- times of own-opportunity collisions in the last second (R405) -/
  collisions : List Nat
  plcaStopped : Bool
  nonceCount : Nat
  deriving DecidableEq, Repr

/-! ### Queues, records and commands (chapter 10) -/

/-- A queue pair (R226 to R229). -/
structure QPair where
  state : Nat
  sqHead : Nat
  sqTail : Nat
  cqTail : Nat
  cqHead : Nat
  /-- completion-queue slots reserved at fetch and not yet written -/
  reserved : Nat
  /-- records written that the host's head has not passed -/
  written : Nat
  phase : Bool
  deriving DecidableEq, Repr

/-- A fetched entry waiting for admission. -/
structure Fetched where
  q : Fin 64
  slot : Nat
  entry : List Byte
  deriving DecidableEq, Repr

/-- A wide value on its way into a quantiser or an array (R58): finite, infinite or NaN. -/
inductive Wide where
  | fin (a : Acc)
  | inf (neg : Bool)
  | nan
  deriving DecidableEq, Repr

/-- Where a tile operation stands. -/
inductive OpState where
  | held
  | waiting
  | running
  | preempted
  | ended
  deriving DecidableEq, Repr

/-- Memory that a piece of work moves bytes to or from: at an address, or, where `n` is not 0, in the sheaves first to first + n − 1 of the table at that address. -/
structure Span where
  addr : Nat
  bytes : Nat
  first : Nat
  n : Nat
  deriving DecidableEq, Repr

/-- A tile operation (R124): one output block, or one piece. -/
structure TileOp where
  kind : OpKind
  bay : Nat
  shapeM : Nat
  shapeN : Nat
  row0 : Nat
  col0 : Nat
  rows : Nat
  cols : Nat
  charge : Nat
  state : OpState
  tile : Nat
  tally : Option Nat
  /-- counted in object 0x8070:04 already (R255, R259) -/
  counted : Bool
  /-- the memory it moves bytes to or from (R207, R246) -/
  spans : List Span
  deriving DecidableEq, Repr

/-- What a command charges one bay (R244): tile-beats of its operations, of its fall-back allowance and of its longest operation, the times of its most loaded memory stream and of the bay's fabric port (R287), and its operations. -/
structure Charge where
  tile : Nat
  fall : Nat
  crit : Nat
  mem : Q
  port : Q
  ops : Nat
  deriving DecidableEq, Repr

/-- A bay that nothing is charged to. -/
def Charge.none : Charge := ⟨0, 0, 0, Q.zero, Q.zero, 0⟩

/-- What the charge adds to the bay's memory backlog: the time of the most loaded of its streams, its fabric port among them (R244, R246, R287). -/
def Charge.booked (g : Charge) : Q := g.mem.max g.port

/-- One position of a quantiser run after steps 1 and 2 (R57): its value, an infinite mark (true for −Inf), whether R58 already counted a saturation, and whether it sets its block's invalid bit. -/
structure QIn where
  v : Q
  inf : Option Bool
  presat : Bool
  inv : Bool
  deriving DecidableEq, Repr

/-- The prepared positions of one block with its channel, the channel's shift and R70's invalid mark. -/
structure BlockIn where
  chan : Nat
  shift : Int
  inv : Bool
  xs : List QIn
  deriving DecidableEq, Repr

/-- The range-watch figures of one narrow output (R113, R118); `after` is trip after fall-back. -/
structure OutStat where
  watched : Nat
  tripped : Nat
  reexec : Nat
  excess : Nat
  after : Bool
  sat : Nat
  flush : Nat
  deriving DecidableEq, Repr

/-- What a command took from a layer key's ledger entry at its acceptance (R115 to R117); `fault` is the status that reading the entry gave, 0 where it could be read (R203, R216). -/
structure LedgerUse where
  fault : Nat
  usable : Bool
  bad : Bool
  rung : Nat
  ceiling : Nat
  activation : Bool
  off : Bool
  deriving DecidableEq, Repr

/-- Why a command failed (R252). -/
structure Failure where
  status : Nat
  cause : Nat
  bay : Nat
  deriving DecidableEq, Repr

/-- A sheaf to be written again (R106): output, sheaf index, fall-back format, the sums of its first form, its inputs. -/
structure Trip where
  out : Nat
  sheaf : Nat
  fmt : Nat
  sat : Nat
  flush : Nat
  bins : List BlockIn
  deriving DecidableEq, Repr

/-- What a member of a collective has received and formed of one chain step (R276). -/
structure StepWork where
  /-- what has been received of the step: content code and payload of each frame -/
  data : List (Nat × List Byte)
  packets : Nat
  /-- flags of R265, of the frames received and of this member's work on the step -/
  flags : Nat
  /-- the last packet is in, the sheaf checks verified -/
  whole : Bool
  /-- what this member sends of the step, once it is formed, each part with its content code -/
  out : List (Nat × List Byte)
  formed : Bool
  /-- written to the destination -/
  written : Bool
  sent : Bool
  /-- every frame sent of it is acknowledged -/
  ended : Bool
  /-- it has lost the plane it was leaving on, and is resent from its start (R289) -/
  moved : Bool
  /-- its accesses to other bays have asked for inbound tokens (R207, R275) -/
  asked : Bool
  deriving DecidableEq, Repr

def StepWork.none : StepWork := ⟨[], 0, 0, false, [], false, false, false, false, false, false⟩

/-- A collective's progress on this member (chapter 11). -/
structure CollWork where
  /-- chain steps written or formed so far, which are taken in order -/
  next : Nat
  /-- sheaves or elements they held -/
  units : Nat
  /-- this device's planes in service at acceptance, ascending (R275) -/
  planes : List Nat
  /-- this device's number at acceptance (R291) -/
  self : Nat
  work : Store StepWork
  /-- flags met by this member's own work, and carry saturation of its own roundings -/
  flags : Nat
  ownCarrySat : Bool
  /-- when a partner was last heard of in the operation, and its device number (R289) -/
  heard : Option (Nat × Nat)
  deriving DecidableEq, Repr

/-- An accepted, uncompleted command. -/
structure Cmd where
  tag : Nat
  /-- none for the internal command of a beacon round (R339) -/
  qp : Option (Fin 64)
  slot : Nat
  entry : List Byte
  ext : List Byte
  /-- dictionary values at acceptance (R396) -/
  settings : Store (Option Nat)
  step : W64
  wset : Nat
  wver : Nat
  acceptAt : Nat
  promise : Nat
  floor : Nat
  /-- order of acceptance -/
  order : Nat
  urgent : Bool
  /-- tags of earlier fences in scope, uncompleted at acceptance (R240) -/
  fences : List Nat
  /-- for a FENCE: tags it waits for -/
  waitsFor : List Nat
  charges : List Charge
  io : Q
  ops : List TileOp
  /-- one for each narrow output, in descriptor order -/
  ledger : List LedgerUse
  flags : Nat
  outs : List OutStat
  lowest : Nat
  loadSat : Nat
  loadFlush : Nat
  trips : List Trip
  wide0 : Store (Option Wide)
  wide1 : Store (Option Wide)
  /-- STOREs of its recipe that a fence orders after its narrow outputs, oldest first (R171) -/
  late : List (Nat × List Byte)
  /-- outputs of the command are written -/
  done : Bool
  failure : Option Failure
  overdue : Bool
  /-- when the overdue limit is tested next (R335) -/
  overdueAt : Nat
  /-- device time of the last progress of a fabric command -/
  progressAt : Nat
  interruptions : Nat
  coll : Option CollWork
  /-- stage stream message number (R286) -/
  message : Nat
  deriving DecidableEq, Repr

/-! ### Tiles (chapters 06 to 08) -/

/-- One lane of a matrix array (R123, R128): the block register, in units of 2^−32, the course accumulator and the running accumulator. -/
structure Lane where
  block : Int
  course : Acc
  run : Acc
  deriving DecidableEq, Repr

/-- A lane that holds +0 in all three. -/
def Lane.zero : Lane := ⟨0, accZero, accZero⟩

/-- A partial result of ATTENTION for one output element (R198, R200). -/
structure AttEntry where
  o : Acc
  l : Acc
  m : W32
  empty : Bool
  deriving DecidableEq, Repr

/-- The part of an ATTENTION result that is not in the lane: sum of weights, maximum, and whether it is empty (R197, R198). -/
structure AttState where
  l : Acc
  m : W32
  empty : Bool
  deriving DecidableEq, Repr

/-- A key course of one query row before the values: weights by block of 32 keys, l, m, and what to report (R197). -/
structure RowCourse where
  blocks : List BlockVal
  l : Acc
  m : W32
  empty : Bool
  flags : Nat
  sat : Nat
  flush : Nat
  deriving DecidableEq, Repr

/-- An array operation on its arrays (R124, R136): the member of a group that holds `arrays` arrays from array `base` up. -/
structure Member where
  cmd : Nat
  op : Nat
  base : Nat
  arrays : Nat
  /-- the lanes of its output block in row order, by number (R134) -/
  lanes : List Nat
  /-- for each of those lanes in row order, the conditions this segment met, and those its fold-state record carried in (R93, R95) -/
  flags : List (Nat × Nat)
  /-- under ATTENTION, the weights of the current key course, row by row (R197) -/
  weights : List RowCourse
  /-- under ATTENTION, what stands beside each lane's running value and the entries below it, top first -/
  att : List (List AttState)
  /-- running values that are not in the lanes yet: those an operation starts or resumes with, until the arrays are free of the drain before it (R142) -/
  start : Option (List Acc)
  loadSat : Nat
  loadFlush : Nat
  deriving DecidableEq, Repr

/-- The array operation, or co-issued group, that a tile's arrays run (R136). -/
structure ArrayGroup where
  members : List Member
  /-- next block position of the segment -/
  pos : Nat
  /-- first course not yet folded, counted in the segment -/
  course : Nat
  /-- which of the tile's two sets of TREE homes it uses (R168), and its generation bits by stack position (R167) -/
  bank : Nat
  gens : Nat
  deriving DecidableEq, Repr

/-- An operation whose last course is folded and whose values the drain path has still to convert (R141, R142). -/
structure Drain where
  mem : Member
  /-- its values stand in the running accumulators; else in the drain save area (R140) -/
  inLanes : Bool
  /-- the stack entries below each lane's top, top first -/
  lower : List (List Acc)
  deriving DecidableEq, Repr

/-- A recipe piece on the vector unit (R182, R185). -/
structure VuCtx where
  cmd : Nat
  op : Nat
  steps : List (Nat × StepWord)
  /-- row length L and input modes of the recipe header (R180) -/
  len : Nat
  modes : Nat
  row : Nat
  rowEnd : Nat
  group : Nat
  pass : Nat
  pc : Nat
  regs : Store W32
  masks : Store Bool
  scalars : Store W32
  /-- lane partials of the pass's reductions: step index × 64 + lane -/
  parts : Store (Option W32)
  flags : Nat
  finished : Bool
  /-- bytes the piece has overwritten as they were before it, newest first: the copy of its input from which it loads (R161) -/
  copy : List (Nat × List Byte)
  /-- 0 no QSTORE yet, 1 a QSTORE stands, 2 and a fence after it (R171) -/
  fenced : Nat
  /-- writes that a fence orders after the piece's QSTORE, oldest first (R171) -/
  late : List (Nat × List Byte)
  deriving DecidableEq, Repr

/-- One of the 16 operation slots of a tile (R125). -/
structure Slot where
  cmd : Nat
  op : Nat
  kind : OpKind
  urgent : Bool
  deriving DecidableEq, Repr

/-- What the tile runtime keeps beside a snapshot record in its buddy's region (R162, R163): its sequence number and place, the bank of its homes, and for each operation what the record's bytes have no place for. -/
structure Snapshot where
  seq : Nat
  place : Nat
  bank : Nat
  members : List Member
  deriving DecidableEq, Repr

/-- What the tile runtime keeps beside a row-state record (R187): its slot, the piece, and the flags and held writes the record's bytes have no place for. -/
structure RowRec where
  slot : Nat
  cmd : Nat
  op : Nat
  flags : Nat
  fenced : Nat
  late : List (Nat × List Byte)
  deriving DecidableEq, Repr

/-- What a port access does to its bytes (R150, R156, R158). -/
inductive PadKind where
  | plain
  | bitSet
  | bitClear
  | rotation
  deriving DecidableEq, Repr

/-- One access of the scratchpad port (R153): all or part of one line, or the further port beat of a rotation (R158). -/
structure PortJob where
  who : Requester
  kind : PadKind
  off : Nat
  size : Nat
  /-- none: a read -/
  data : Option (List Byte)
  /-- the bytes go after those of the job before it -/
  more : Bool
  deriving DecidableEq, Repr

/-- A logical tile, or a spare slate: the four arrays' lanes, the operations it holds, and its scratchpad port. -/
structure Tile where
  slots : List Slot
  /-- lane of row i, column j of array a under number 256a + 16i + j (R123, R162) -/
  lanes : Store Lane
  arr : Option ArrayGroup
  pre : Option ArrayGroup
  /-- operations on the drain path, in the order their last courses were folded -/
  drains : List Drain
  vu : Option VuCtx
  snaps : List Snapshot
  snapSeq : Nat
  /-- accesses that wait at the scratchpad port, in order of arrival -/
  port : List PortJob
  /-- port beats lost in a row, by requester (R154) -/
  lost : Store Nat
  /-- bytes of each requester's last read through the port -/
  reads : Store (List Byte)
  /-- the next course boundary takes a snapshot whatever the stride (R353) -/
  snapDue : Bool
  /-- the newest row-state records, the newest first (R187) -/
  rowRecs : List RowRec
  deriving DecidableEq, Repr

def Tile.idle : Tile :=
  { slots := [], lanes := [], arr := none, pre := none, drains := [], vu := none, snaps := [], snapSeq := 0, port := [], lost := [],
    reads := [], snapDue := false, rowRecs := [] }

/-! ### Bays (chapters 09, 15) -/

/-- The states of R349. -/
inductive BayState where
  | startUp
  | run
  | test
  | recovery
  | reset
  | out
  deriving DecidableEq, Repr

/-- A remap-table entry (R213, R217). -/
structure Remap where
  pc : Nat
  row : Nat
  reserve : Nat
  deriving DecidableEq, Repr

/-- A cross-bay access that waits at its source bay (R207). -/
structure TokenWait where
  src : Nat
  cmd : Nat
  op : Nat
  lines : Nat
  deriving DecidableEq, Repr

/-- The stages of a take-over (R352). -/
inductive TakeStage where
  | containing
  | fetching
  | repeating
  | protecting
  deriving DecidableEq, Repr

/-- A rung-1 action of a bay. -/
structure TakeOver where
  tile : Nat
  oldPhys : Nat
  spare : Option Nat
  stage : TakeStage
  fails : Nat
  since : Nat
  /-- what the repetition started from: snapshot sequence, first repeated course, courses repeated (R366) -/
  seq : Nat
  first : Nat
  repeated : Nat
  /-- what was detected: row of R327's table, and the command of the work (R365) -/
  mech : Nat
  tag : Nat
  deriving DecidableEq, Repr

/-- One bay. -/
structure Bay where
  state : BayState
  degraded : Bool
  /-- physical tiles on the retired list (R351); kept in flash -/
  retired : List Nat
  /-- logical tile to physical tile, where it differs from R359's order -/
  phys : List Nat
  spares : List Nat
  tileBacklog : Nat
  memBacklog : Q
  urgentBacklog : Nat
  bucket : Q
  bucketAt : Nat
  tokens : Q
  tokensAt : Nat
  lastServed : Nat
  waits : List TokenWait
  tallyFree : List Nat
  tallyUrgentFree : List Nat
  slotsFree : Nat
  /-- request tokens left, by bank of the die buffer and by pseudo-channel: each is taken and returned within the step of its access (R257; notes/assumptions/46) -/
  dieTokens : List Nat
  hbmTokens : List Nat
  /-- corrected errors by pseudo-channel × 62,500 + row -/
  rowErrors : Store Nat
  remaps : List Remap
  badReserve : List (Nat × Nat)
  paused : List (Nat × Nat)
  remapDirty : Option Nat
  retries : Store Nat
  scrubNext : Nat
  takeOver : Option TakeOver
  /-- detections counted while under handling (R360): 0 when the bay is not -/
  nesting : Nat
  resetEnd : Nat
  pathHits : List (Nat × Nat)
  holdSince : Option Nat
  ceilCut : Option (Nat × Nat)
  deriving DecidableEq, Repr

/-! ### Fabric (chapter 11) -/

/-- A fabric frame's fields (R265). -/
structure Frame where
  type : Nat
  src : Nat
  dst : Nat
  seq : Nat
  opId : Nat
  step : Nat
  packet : Nat
  last : Bool
  flags : Nat
  content : Nat
  credits : Nat
  ackSeq : Nat
  digest : Nat
  payload : List Byte
  deriving DecidableEq, Repr

/-- A frame as it leaves a port: the Ethernet, IPv6 and UDP fields around the fabric frame (R261, R262). -/
structure TxFrame where
  dstMac : BitVec 48
  srcMac : BitVec 48
  pcp : Nat
  vid : Nat
  srcIp : BitVec 128
  dstIp : BitVec 128
  hop : Nat
  srcPort : Nat
  dstPort : Nat
  udpSum : Nat
  frame : Frame
  deriving DecidableEq, Repr

/-- A frame kept until it is acknowledged (R267). -/
structure Kept where
  frame : Frame
  sends : Nat
  sentAt : Nat
  deriving DecidableEq, Repr

/-- What a port keeps for one peer. -/
structure Peer where
  nextSeq : Nat
  expect : Nat
  kept : List Kept
  credits : Nat
  ctrlCredits : Nat
  lastHello : Option Nat
  lastNak : Option Nat
  unusable : Bool
  /-- slots of this peer's data frames, and of its control frames, freed and not yet returned as credits -/
  owed : Nat
  owedCtrl : Nat
  /-- the control credits are to be returned without waiting for another frame (notes/assumptions/18) -/
  ctrlDue : Bool
  /-- the peer's link-up count as its last hello gave it (notes/assumptions/18) -/
  ups : Option Nat
  /-- frames of this peer held since before the credits last started afresh: their slots return no credit -/
  stale : Nat
  deriving DecidableEq, Repr

def Peer.fresh : Peer := ⟨0, 0, [], 8, 2, none, none, false, 0, 0, false, none, 0⟩

/-- A chain-step token in use (R276). -/
structure Token where
  tag : Nat
  step : Nat
  sending : Bool
  deriving DecidableEq, Repr

/-- A fabric port. -/
structure Port where
  state : Nat
  peers : Store Peer
  lossFree : Nat
  ctrlFree : Nat
  tokens : List Token
  tokensFree : Nat
  /-- settings in force since the last link-up (R291): device number, /48, priorities, retry timeout, VLAN -/
  devNum : Nat
  sysTop : Nat
  lossPrio : Nat
  ctrlPrio : Nat
  retryNs : Nat
  vlan : Nat
  helloAt : Nat
  dupMac : BitVec 48
  dupAt : Nat
  /-- until when PFC pauses each priority (R264) -/
  pausedUntil : List Nat
  /-- link-ups since power-on, which hellos carry (notes/assumptions/18) -/
  ups : Nat
  /-- frames waiting for a credit, or for the end of a pause -/
  queue : List Frame
  /-- delivered frames that wait in the receive buffer for their command or a token, oldest first (R268) -/
  held : List Frame
  /-- frames handed to the line, newest first -/
  sent : List TxFrame
  adverts : List (BitVec 128)
  deriving DecidableEq, Repr

/-- What has arrived of one message of a stage stream (R286): bytes in its slot, frames taken, where the sheaf under way begins; that it is whole and checked; the status with which the STAGE_RECV it belongs to fails where it cannot be taken, 0 for none, and whether that command has failed already; that its writes to another bay have asked for tokens (R207). -/
structure Arrival where
  bytes : Nat
  packets : Nat
  part : Nat
  whole : Bool
  void : Nat
  gone : Bool
  asked : Bool
  deriving DecidableEq, Repr

def Arrival.none : Arrival := ⟨0, 0, 0, false, 0, false, false⟩

/-- A stage stream's progress (R286). -/
structure Stream where
  nextSend : Nat
  /-- messages the receiver has granted so far -/
  sendCredit : Nat
  /-- messages granted to the sender so far -/
  granted : Nat
  /-- what has arrived, by message -/
  arrived : Store Arrival
  claimed : Nat
  released : Nat
  deriving DecidableEq, Repr

def Stream.fresh : Stream := ⟨0, 0, 0, [], 0, 0⟩

/-- A beacon round (R339, R340). -/
structure Round where
  s : W32
  tag : Nat
  version : Nat
  entries : List Nat
  digests : List W64
  readyAt : Option Nat
  comparing : Option Nat
  deriving DecidableEq, Repr

/-- A beacon frame received (R339). -/
structure BeaconFrame where
  src : Nat
  s : Nat
  version : Nat
  count : Nat
  digests : List W64
  at' : Nat
  deriving DecidableEq, Repr

/-- The beacon machinery: the round in progress, the step values of rounds that wait, frames of the predecessor not yet used. -/
structure Beacon where
  round : Option Round
  waiting : List W64
  frames : List BeaconFrame
  deriving DecidableEq, Repr

/-! ### Pace and power (chapter 16) -/

/-- A measured gauge (R382, R383): normalised reading and baseline in k-beats/s, time, plausibility. -/
structure Gauge where
  gn : Nat
  at' : Nat
  implausible : Bool
  deriving DecidableEq, Repr

/-- The pacer, the limiter and the plan. Paces are M-beats/s, voltages mV, temperatures 0.1 °C, estimates mW. -/
structure Pace where
  published : Nat
  planned : Nat
  setpoint : Nat
  target : Nat
  stepAt : Nat
  lastPlan : Nat
  slowdown : Nat
  below : Bool
  ceiling : Nat
  powerCeiling : Nat
  thermalCeiling : Option Nat
  thermalAt : Nat
  hottest : Int
  inlet : Int
  /-- readings of the last second, newest first -/
  inletHist : List Int
  coolClass : Nat
  powerEst : Nat
  power1s : Nat
  sensorW : Nat
  pace1ms : Nat
  paceHist : List Nat
  /-- estimates of the last 500,000 windows, newest first -/
  windows : List Nat
  windowAt : Nat
  gauges : Store (Option Gauge)
  /-- age in hours and median slowdown, by plan, newest first (R384) -/
  medianHist : List (Nat × Q)
  /-- power limits in force at the limiter, and the order number of the first command accepted after the last write of them (R380) -/
  sustainedNow : Nat
  shortNow : Nat
  limitOrder : Nat
  /-- plans published: time, floor, setpoint, newest first (R386) -/
  plans : List (Nat × Nat × Nat)
  /-- a plan is asked for (R385) -/
  planDue : Bool
  ioHold : Option Nat
  deriving DecidableEq, Repr

/-! ### Log, errors, device domain (chapter 15) -/

/-- An event-log record's fields (R365). -/
structure LogRec where
  seq : Nat
  type : Nat
  rung : Nat
  nesting : Nat
  bay : Nat
  time : Nat
  tile : Nat
  phys : Nat
  tag : Nat
  qp : Nat
  mech : Nat
  step : Nat
  detail : List Byte
  deriving DecidableEq, Repr

structure Log where
  copyA : List LogRec
  copyB : List LogRec
  next : Nat
  overwritten : Nat
  /-- object 0x9000:04 -/
  state : Nat
  badCopy : Nat
  ember : Vector W32 8
  summaryAt : Nat
  sinceSummary : List LogRec
  summaries : Nat
  deriving DecidableEq, Repr

/-- An error record of the error queue (R361). -/
structure ErrRec where
  bay : Nat
  tile : Nat
  tag : Nat
  found : Detected
  time : Nat
  nesting : Nat
  deriving DecidableEq, Repr

/-- The device domain and the safety outputs (chapters 14, 15). -/
structure Safety where
  alert : W32
  highestRung : Nat
  powerCycle : Bool
  /-- 0 none, 1 rollback, 2 rung 3, 3 rung 3 restarted -/
  devHandling : Nat
  tagAuditAt : Option Nat
  errors : List ErrRec
  /-- counters of the 0x8000 range by object address -/
  counters : Store Nat
  beacon : Beacon
  deriving DecidableEq, Repr

/-! ### Serial flash and images (chapter 18) -/

/-- One copy of the persisted set (R393). -/
structure FlashCopy where
  seq : Nat
  good : Bool
  vals : Store (Option Nat)
  deriving DecidableEq, Repr

/-- An image slot: its bytes, the validity byte of object 0xA001, and that programming or verification of it was cut short (R432). -/
structure ImageSlot where
  data : Mem
  verdict : Nat
  cut : Bool
  deriving DecidableEq, Repr

structure Flash where
  copyA : FlashCopy
  copyB : FlashCopy
  slots : Vector ImageSlot 8
  remaps : Vector (List Remap) 8
  /-- reserve rows marked unusable (R217, R218) -/
  badRows : Vector (List (Nat × Nat)) 8
  retired : Vector (List Nat) 8
  baseline : Store Nat
  ageNs : Nat
  logSeq : Nat
  summaries : List (List Byte)
  floors : Vector Nat 4
  revoked : Nat
  deriving DecidableEq, Repr

structure Images where
  /-- object 0xA000:04 -/
  running : Nat
  /-- the kinds of which an image runs, bit k for kind k + 1 -/
  present : Nat
  mgmtVersion : Nat
  cause : Nat
  manifest : Nat
  loadState : Nat
  loading : Option (Nat × Nat × List Byte)
  deriving DecidableEq, Repr

/-! ### What the block has put out -/

structure Outputs where
  /-- MSI-X messages sent, newest first (R228) -/
  msix : List Nat
  /-- the MSI-X capability's enable and function-mask bits, the table entries the host has masked, the entries whose message is pending -/
  msixOn : Bool
  msixMaskAll : Bool
  msixMasked : List Nat
  msixPending : List Nat
  brynuo : List TxMsg
  doe : List (List Byte)
  /-- configuration completions: true for Request Retry Status (R424) -/
  config : List Bool
  mgmtAdverts : List (BitVec 128)
  pme : Nat
  deriving DecidableEq, Repr

/-- Everything the spec gives the block, but the queue of waiting commands. -/
structure Device where
  now : Nat
  stepCounter : W64
  power : PowerDom
  dict : Dict
  queues : Vector QPair 64
  fetched : List Fetched
  /-- the normal pair and the high-priority pair served last (R229) -/
  lastPair : Nat
  lastHigh : Nat
  tagsFree : List Nat
  cmds : List Cmd
  orderNext : Nat
  events : Store W32
  ioBacklog : Q
  tiles : Store Tile
  mem : Mem
  poison : List Nat
  host : Mem
  bays : Vector Bay 8
  farCap : Vector Nat 2
  farState : Vector Nat 2
  ports : Vector Port 8
  streams : Store Stream
  curSet : Nat
  verA : Nat
  verB : Nat
  pace : Pace
  log : Log
  safety : Safety
  flash : Flash
  images : Images
  spdmStage : Nat
  out : Outputs
  /-- the model's own field: how many free values have been drawn (no field of the spec) -/
  drawn : Nat
  deriving DecidableEq, Repr

/-- The machine: the block, and the queue of commands and events that wait, first in first out. -/
structure State where
  dev : Device
  pending : List Instr
  deriving DecidableEq, Repr

/-! ### Reset -/

def DictResult.none : DictResult := ⟨0x0C, 0, [], false, 0⟩
def PathState.fresh : PathState := ⟨0, 0, 0, .none, DictResult.none⟩
def Session.closed : Session := ⟨false, 0, 0, 0, 0, 0, 5000, .none, false, 0, []⟩
def Inband.fresh : Inband := ⟨0, 0, false, false, false, 0, 0, 0, []⟩
def SpiState.fresh : SpiState := ⟨false, false, false, false, false, 0, 0, [], []⟩
def Dict.fresh : Dict :=
  ⟨[], [], 0, 0, PathState.fresh, PathState.fresh, Vector.replicate 4 PathState.fresh, Vector.replicate 4 Session.closed,
   Inband.fresh, SpiState.fresh, [], [], false, 1, 32, [], false, 0⟩
def QPair.fresh : QPair := ⟨0, 0, 0, 0, 0, 0, 0, true⟩
/-- The non-urgent tally tags of a bay, and the 2,560 urgent ones above them (R255). -/
def tallyNormal : List Nat := List.range 13824
def tallyUrgent : List Nat := List.range' 13824 2560
/-- Request tokens: 32 for each bank of a die buffer, 64 for each pseudo-channel (R257). -/
def dieBanks : List Nat := List.replicate 16 32
def hbmQueues : List Nat := List.replicate 64 64
def Bay.fresh : Bay :=
  { state := .startUp, degraded := false, retired := [], phys := [], spares := [], tileBacklog := 0, memBacklog := Q.zero,
    urgentBacklog := 0, bucket := Q.zero, bucketAt := 0, tokens := Q.ofNat 262144, tokensAt := 0, lastServed := 7, waits := [],
    tallyFree := tallyNormal, tallyUrgentFree := tallyUrgent, slotsFree := 20480, dieTokens := dieBanks, hbmTokens := hbmQueues, rowErrors := [],
    remaps := [], badReserve := [], paused := [], remapDirty := none, retries := [], scrubNext := 0, takeOver := none,
    nesting := 0, resetEnd := 0, pathHits := [], holdSince := none, ceilCut := none }
def Port.fresh : Port :=
  { state := 0, peers := [], lossFree := 512, ctrlFree := 128, tokens := [], tokensFree := 16, devNum := 0, sysTop := 0xFD0000000000,
    lossPrio := 3, ctrlPrio := 6, retryNs := 8000, vlan := 0, helloAt := 0, dupMac := 0, dupAt := 0, pausedUntil := List.replicate 8 0, ups := 0,
    queue := [], held := [], sent := [], adverts := [] }
def Pace.fresh : Pace :=
  { published := 400, planned := 400, setpoint := 700, target := 700, stepAt := 0, lastPlan := 0, slowdown := 0, below := false,
    ceiling := 0, powerCeiling := 1150, thermalCeiling := none, thermalAt := 0, hottest := 0, inlet := 0, inletHist := [], coolClass := 0,
    powerEst := 0, power1s := 0, sensorW := 0, pace1ms := 0, paceHist := [], windows := [], windowAt := 0, gauges := [],
    medianHist := [], sustainedNow := 2000, shortNow := 2400, limitOrder := 0, plans := [], planDue := false, ioHold := none }
def Log.fresh : Log := ⟨[], [], 0, 0, 0, 0, Vector.replicate 8 0, 0, [], 0⟩
def Safety.fresh : Safety := ⟨0, 0, false, 0, none, [], [], ⟨none, [], []⟩⟩
def FlashCopy.blank : FlashCopy := ⟨0, false, []⟩
def Flash.factory : Flash :=
  { copyA := FlashCopy.blank, copyB := FlashCopy.blank, slots := Vector.replicate 8 ⟨[], 1, false⟩, remaps := Vector.replicate 8 [],
    badRows := Vector.replicate 8 [],
    retired := Vector.replicate 8 [], baseline := [], ageNs := 0, logSeq := 0, summaries := [], floors := Vector.replicate 4 0, revoked := 0 }
/-- No image runs. Object 0x1000:04, which R2 says the running image sets, reads 0 until one does: in the mask ROM's recovery service and before step 4 (notes/assumptions/49). DESIGN CHOICE. -/
def Images.none : Images := ⟨0, 0, 0, 0, 0, 0, .none⟩
def Outputs.none : Outputs := ⟨[], false, false, List.range 67, [], [], [], [], [], 0⟩
def PowerDom.unpowered : PowerDom :=
  { phase := .off, ovLock := false, pwrgd := false, bcLow := false, perstLow := true, linkUp := false, l23 := false, straps := 0x3F,
    powerState := 0, pmeStatus := false, wakeLow := false, wakeReasons := 0, wakeVec := 0, wakeDue := false, thermLow := false,
    planned := false, origin := .self, cxlRun := false, rung4 := false }

/-- The block at power-on: every object at its default, nothing started (R392, R421). -/
def Device.reset : Device :=
  { now := 0, stepCounter := 0, power := PowerDom.unpowered, dict := Dict.fresh, queues := Vector.replicate 64 QPair.fresh, fetched := [],
    lastPair := 63, lastHigh := 63, tagsFree := List.range 8192, cmds := [], orderNext := 0, events := [], ioBacklog := Q.zero, tiles := [], mem := [],
    poison := [], host := [], bays := Vector.replicate 8 Bay.fresh, farCap := Vector.replicate 2 0, farState := Vector.replicate 2 0,
    ports := Vector.replicate 8 Port.fresh, streams := [], curSet := 0, verA := 0, verB := 0, pace := Pace.fresh, log := Log.fresh,
    safety := Safety.fresh, flash := Flash.factory, images := Images.none, spdmStage := 0, out := Outputs.none, drawn := 0 }

/-- The machine right after reset: the block at power-on, and an empty queue. -/
def State.reset : State := ⟨Device.reset, []⟩

end Sys2Proof.Machine
end

