-- ==== Sys2Proof/Machine/Flags.lean ====
section
/-! DEFINITION. The flag bits of R251, the statuses of R242, R252 and R397, the alert causes, and the flag computations over them. -/

namespace Sys2Proof.Machine

/-! ### The completion flags word (R251) -/

def fAccSat : Nat := 0x0001
def fInvalid : Nat := 0x0002
def fMalformed : Nat := 0x0004
def fStats : Nat := 0x0008
def fVecInvalid : Nat := 0x0010
def fVecOverflow : Nat := 0x0020
def fAllowance : Nat := 0x0040
def fTripAfter : Nat := 0x0080
def fNoWider : Nat := 0x0100
def fLedger : Nat := 0x0200
def fRecovered : Nat := 0x0400
def fMissed : Nat := 0x0800
def fCarry : Nat := 0x1000

/-- A flag if a condition holds. -/
def flagIf (c : Bool) (f : Nat) : Nat := if c then f else 0

/-- The union of the flags of a list of parts. -/
def flagsOf {α : Type} (f : α → Nat) (xs : List α) : Nat := xs.foldl (fun a x => a ||| f x) 0

/-- The three flags that a fold-state record carries (R93). -/
def foldFlags (f : Nat) : Nat := f % 8

/-! ### Acceptance statuses (R242) -/

def stAccepted : Nat := 0x00
def stDeadline : Nat := 0x01
def stNoSlot : Nat := 0x02
def stNoTag : Nat := 0x03
def stInvalid : Nat := 0x04
def stBayOut : Nat := 0x05

/-! ### Completion statuses (R252) -/

def csSuccess : Nat := 0x00
def csBayReset : Nat := 0x10
def csTable : Nat := 0x20
def csFoldState : Nat := 0x21
def csTooWide : Nat := 0x22
def csRecipe : Nat := 0x23
def csCheck : Nat := 0x24
def csScratchpad : Nat := 0x30
def csAccess : Nat := 0x31
/-- No status of R252: the access meets a paused row and waits (R214). -/
def csHeld : Nat := 0xFFFF
def csData : Nat := 0x32
def csFarTier : Nat := 0x33
def csHostDma : Nat := 0x34
def csFabric : Nat := 0x40
def csAborted : Nat := 0x50

end Sys2Proof.Machine
end

