-- ==== Sys2Proof/Machine/Vector.lean ====
section
/-! DEFINITION. FP32 arithmetic of the vector unit (R175, R176) and its special functions (R178, R179). -/

namespace Sys2Proof.Machine

/-- A vector result with the flags it sets (R177). -/
structure VRes where
  w : W32
  flags : Nat
  deriving DecidableEq, Repr

def VRes.nan : VRes := ⟨f32NaN, 0⟩
def VRes.invalid : VRes := ⟨f32NaN, fVecInvalid⟩

/-- Rounds an exact result of finite operands; beyond the largest finite value it is ±Inf with vector overflow (R176). -/
def vRound (x : Q) (zneg : Bool) : VRes :=
  let r := f32Round x zneg
  ⟨r.1, flagIf r.2 fVecOverflow⟩

def f32Flip (a : W32) : W32 := a ^^^ 0x80000000#32

def vAdd (a b : W32) : VRes :=
  if f32IsNaN a || f32IsNaN b then VRes.nan
  else if f32IsInf a then (if f32IsInf b && f32Neg a != f32Neg b then VRes.invalid else ⟨a, 0⟩)
  else if f32IsInf b then ⟨b, 0⟩
  else vRound ((f32Val a).add (f32Val b)) (f32Neg a && f32Neg b)

def vSub (a b : W32) : VRes := if f32IsNaN b then VRes.nan else vAdd a (f32Flip b)

def vMul (a b : W32) : VRes :=
  let s := f32Neg a != f32Neg b
  if f32IsNaN a || f32IsNaN b then VRes.nan
  else if f32IsInf a || f32IsInf b then (if f32IsZero a || f32IsZero b then VRes.invalid else ⟨f32Inf s, 0⟩)
  else vRound ((f32Val a).mul (f32Val b)) s

/-- a × b + c with one rounding. -/
def vFma (a b c : W32) : VRes :=
  let s := f32Neg a != f32Neg b
  if f32IsNaN a || f32IsNaN b || f32IsNaN c then
    -- 0 × Inf is invalid whatever c holds only where c is no NaN: any NaN operand gives the canonical NaN without a flag
    VRes.nan
  else if f32IsInf a || f32IsInf b then
    if f32IsZero a || f32IsZero b then VRes.invalid
    else if f32IsInf c && f32Neg c != s then VRes.invalid
    else ⟨f32Inf s, 0⟩
  else if f32IsInf c then ⟨c, 0⟩
  else
    let p := (f32Val a).mul (f32Val b)
    vRound (p.add (f32Val c)) (p.isZero && s && f32IsZero c && f32Neg c)

def vDiv (a b : W32) : VRes :=
  let s := f32Neg a != f32Neg b
  if f32IsNaN a || f32IsNaN b then VRes.nan
  else if f32IsInf a then (if f32IsInf b then VRes.invalid else ⟨f32Inf s, 0⟩)
  else if f32IsInf b then ⟨f32Mk s 0, 0⟩
  else if f32IsZero b then (if f32IsZero a then VRes.invalid else ⟨f32Inf s, fVecOverflow⟩)
  else vRound ((f32Val a).div (f32Val b)) s

/-- ⌊√n⌋ for n < 2^(2·bits). -/
def isqrtFrom (n : Nat) : Nat → Nat → Nat
  | 0, r => r
  | b + 1, r => let t := r + 2 ^ b; isqrtFrom n b (if t * t ≤ n then t else r)

/-- A value with the rounding of √x for x > 0: exact where the root is a fraction of the working precision, else strictly between its neighbours there. -/
def sqrtQ (x : Q) : Q :=
  -- 2^400 x is an integer for every binary32 x
  let n := (x.scale 400).floor.toNat
  let r := isqrtFrom n 272 0
  if r * r = n then (Q.ofNat r).scale (-200) else (Q.ofNat (2 * r + 1)).scale (-201)

def vSqrt (a : W32) : VRes :=
  if f32IsNaN a then VRes.nan
  else if f32IsZero a then ⟨a, 0⟩
  else if f32Neg a then VRes.invalid
  else if f32IsInf a then ⟨a, 0⟩
  else vRound (sqrtQ (f32Val a)) false

/-- a < b for two patterns that are not NaN; −Inf and +Inf included, −0 equal to +0. -/
def f32Lt (a b : W32) : Bool :=
  if f32IsZero a && f32IsZero b then false
  else if f32Neg a then (if f32Neg b then f32Mag b < f32Mag a else true)
  else if f32Neg b then false
  else f32Mag a < f32Mag b

def f32Eq (a b : W32) : Bool := (f32IsZero a && f32IsZero b) || a == b

def vMin (a b : W32) : VRes :=
  if f32IsNaN a then (if f32IsNaN b then VRes.nan else ⟨b, 0⟩)
  else if f32IsNaN b then ⟨a, 0⟩
  else if f32IsZero a && f32IsZero b then ⟨f32Mk (f32Neg a || f32Neg b) 0, 0⟩
  else ⟨if f32Lt b a then b else a, 0⟩

def vMax (a b : W32) : VRes :=
  if f32IsNaN a then (if f32IsNaN b then VRes.nan else ⟨b, 0⟩)
  else if f32IsNaN b then ⟨a, 0⟩
  else if f32IsZero a && f32IsZero b then ⟨f32Mk (f32Neg a && f32Neg b) 0, 0⟩
  else ⟨if f32Lt a b then b else a, 0⟩

def vAbs (a : W32) : VRes := if f32IsNaN a then VRes.nan else ⟨f32Mk false (f32Mag a), 0⟩
def vNeg (a : W32) : VRes := if f32IsNaN a then VRes.nan else ⟨f32Flip a, 0⟩

/-- rne(a × 2^n) with n clamped to ±300. -/
def vScale (a imm : W32) : VRes :=
  if f32IsNaN a then VRes.nan
  else if f32IsInf a then ⟨a, 0⟩
  else vRound ((f32Val a).scale (clampInt imm.toInt (-300) 300)) (f32Neg a)

def vRoundi (a : W32) : VRes :=
  if f32IsNaN a then VRes.nan
  else if f32IsInf a then ⟨a, 0⟩
  else vRound (Q.ofInt (f32Val a).rneInt) (f32Neg a)

def vI2f (a : W32) : VRes := vRound (Q.ofInt a.toInt) false

/-- The nearest bound of R176 with vector invalid outside the range. -/
def vF2i (a : W32) : VRes :=
  if f32IsNaN a then ⟨0, fVecInvalid⟩
  else if f32IsInf a then ⟨if f32Neg a then 0x80000000#32 else 0x7FFFFFFF#32, fVecInvalid⟩
  else
    let n := (f32Val a).rneInt
    let c := clampInt n (-(2 ^ 31)) (2 ^ 31 - 1)
    ⟨BitVec.ofInt 32 c, flagIf (n != c) fVecInvalid⟩

/-! ### Special functions

Each is evaluated in fixed point with 400 fraction bits and rounded once. Apart from the arguments whose value the evaluation gives exactly (integers for exp2, powers of two for log2, zero), the real values are irrational; that none lies within the evaluation's error of a rounding boundary is notes/assumptions/21. DEDUCED. -/

/-- Fraction bits of the evaluation. -/
def spBits : Nat := 400

/-- Σ z^(2k+1)/(2k+1) from term k on, `n` terms; z and the sum in units of 2^−400. -/
def atanhTail (z2 : Nat) : Nat → Nat → Nat → Nat
  | 0, _, _ => 0
  | n + 1, k, p => p / (2 * k + 1) + atanhTail z2 n (k + 1) (p * z2 / 2 ^ spBits)

/-- 2 × atanh(z) for 0 ≤ z ≤ 1/3. -/
def atanh2 (z : Nat) : Nat := 2 * atanhTail (z * z / 2 ^ spBits) 132 0 z

/-- ln 2 in units of 2^−400. -/
def ln2Fx : Nat := atanh2 (2 ^ spBits / 3)

/-- Σ r^k/k! from the term `t` = r^k/k! on, `n` terms. -/
def expTail (r : Nat) : Nat → Nat → Nat → Nat
  | 0, _, _ => 0
  | n + 1, k, t => t + expTail r n (k + 1) (t * r / 2 ^ spBits / (k + 1))

/-- e^r for 0 ≤ r < ln 2, in units of 2^−400. -/
def expFx (r : Nat) : Nat := expTail r 110 0 (2 ^ spBits)

/-- The fixed-point value of x ≥ 0. -/
def toFx (x : Q) : Nat := (x.scale spBits).floor.toNat
def ofFx (n : Nat) : Q := (Q.ofNat n).scale (-(spBits : Int))

/-- 2^x. -/
def exp2Q (x : Q) : Q :=
  let n := x.floor
  let f := x.sub (Q.ofInt n)
  (ofFx (expFx (toFx f * ln2Fx / 2 ^ spBits))).scale n

/-- e^x for x ≥ 0. -/
def expQ (x : Q) : Q :=
  let y := toFx x
  (ofFx (expFx (y % ln2Fx))).scale (y / ln2Fx : Nat)

/-- log2 x for x > 0. -/
def log2Q (x : Q) : Q :=
  let k := x.ilog2
  let y := x.scale (-k)
  let z := toFx ((y.sub Q.one).div (y.add Q.one))
  (Q.ofInt k).add (Q.frac (atanh2 z) ln2Fx)

def vTanh (a : W32) : VRes :=
  if f32IsNaN a then VRes.nan
  else if f32IsZero a then ⟨a, 0⟩
  else if f32IsInf a || (Q.frac 902 100).le (f32Val a).abs then ⟨f32Mk (f32Neg a) 0x3F800000, 0⟩
  else
    let t := expQ ((f32Val a).abs.scale 1)
    let r := (t.sub Q.one).div (t.add Q.one)
    vRound (if f32Neg a then r.neg else r) (f32Neg a)

def vLogistic (a : W32) : VRes :=
  if f32IsNaN a then VRes.nan
  else if f32Neg a && (f32IsInf a || (Q.ofNat 104).le (f32Val a).abs) then ⟨0, 0⟩
  else if !(f32Neg a) && (f32IsInf a || (Q.frac 174 10).le (f32Val a)) then ⟨0x3F800000#32, 0⟩
  else
    let t := expQ (f32Val a).abs
    vRound (if f32Neg a then Q.one.div (t.add Q.one) else t.div (t.add Q.one)) false

def vExp2 (a : W32) : VRes :=
  if f32IsNaN a then VRes.nan
  else if f32IsInf a then ⟨if f32Neg a then 0 else a, 0⟩
  else if (Q.ofNat 128).le (f32Val a) then ⟨f32Inf false, fVecOverflow⟩
  else if (f32Val a).le (Q.ofInt (-150)) then ⟨0, 0⟩
  else vRound (exp2Q (f32Val a)) false

def vLog2 (a : W32) : VRes :=
  if f32IsNaN a then VRes.nan
  else if f32IsZero a then ⟨f32Inf true, fVecOverflow⟩
  else if f32Neg a then VRes.invalid
  else if f32IsInf a then ⟨a, 0⟩
  else vRound (log2Q (f32Val a)) false

def vRcp (a : W32) : VRes :=
  if f32IsNaN a then VRes.nan
  else if f32IsZero a then ⟨f32Inf (f32Neg a), fVecOverflow⟩
  else if f32IsInf a then ⟨f32Mk (f32Neg a) 0, 0⟩
  else vRound (Q.one.div (f32Val a)) (f32Neg a)

/-- A value with the rounding of 1/√x for x > 0. -/
def rsqrtQ (x : Q) : Q :=
  let n := (Q.one.div x).scale 400
  let r := isqrtFrom n.floor.toNat 280 0
  if (Q.ofNat (r * r)).eq n then (Q.ofNat r).scale (-200) else (Q.ofNat (2 * r + 1)).scale (-201)

def vRsqrt (a : W32) : VRes :=
  if f32IsNaN a then VRes.nan
  else if f32IsZero a then ⟨f32Inf (f32Neg a), fVecOverflow⟩
  else if f32Neg a then VRes.invalid
  else if f32IsInf a then ⟨0, 0⟩
  else vRound (rsqrtQ (f32Val a)) false

end Sys2Proof.Machine
end

