-- ==== Sys2Proof/Machine/Fold.lean ====
section
/-! DEFINITION. Block sums, courses, the two fold orders, attention merges and fold-state records (chapter 04, R197 to R200, R329). -/

namespace Sys2Proof.Machine

/-! ### One block (R81, R127 to R129, R329) -/

/-- The exact sum of a block in units of 2^−32: the block register (R81). -/
def blockSum (a b : BlockVal) : Int :=
  ((a.elems.zip b.elems).map fun (x, y) => x.m * y.m * (2 ^ (x.e + y.e + 32).toNat : Nat)).sum

/-- The residue modulo 255 predicted from the operands (R329). -/
def blockResidue (a b : BlockVal) : Int :=
  ((a.elems.zip b.elems).map fun (x, y) => x.m * y.m * (2 ^ ((x.e + y.e + 32).toNat % 8) : Nat)).sum % 255

/-- An 80-bit register with one bit flipped by an upset. -/
def flipBit (r : Int) (bit : Nat) : Int := signed 80 ((unsigned 80 r) ^^^ 2 ^ (bit % 80))

/-- The block partial P[q] of a register (R81, R129). -/
def scaleBlock (reg : Int) (a b : BlockVal) : Q :=
  (Q.ofInt (reg * a.s8.m * b.s8.m)).scale (a.s8.e + b.s8.e + a.shift + b.shift - 32)

/-- A value with the flags that forming it set. -/
structure Flagged (α : Type) where
  v : α
  flags : Nat
  deriving DecidableEq, Repr

/-- Folds an exact partial into the course accumulator (R84). -/
def foldPartial (acc : Acc) (p : Q) : Flagged Acc :=
  let r := accAddExact acc p
  ⟨r.1, flagIf r.2 fAccSat⟩

/-- One addition of a fold (R88, R89). -/
def accMerge (a b : Acc) : Flagged Acc :=
  let r := accAdd a b
  ⟨r.1, flagIf r.2 fAccSat⟩

/-! ### The two orders (R85, R86); stacks are held top first -/

/-- The trailing 1 bits of a course index, at most `n`. -/
def trailingOnes : Nat → Nat → Nat
  | 0, _ => 0
  | n + 1, c => if c % 2 = 1 then 1 + trailingOnes n (c / 2) else 0

/-- The bits set in a number, of its low `n`. -/
def bitsSet : Nat → Nat → Nat
  | 0, _ => 0
  | n + 1, c => c % 2 + bitsSet n (c / 2)

/-- Merges `t` with up to `n` stack entries and pushes it (R86). -/
def pushMerge {α : Type} (merge : α → α → Flagged α) : Nat → α → List α → Nat → Flagged (List α)
  | 0, t, st, f => ⟨t :: st, f⟩
  | _ + 1, t, [], f => ⟨[t], f⟩
  | n + 1, t, s :: st, f => let r := merge s t; pushMerge merge n r.v st (f ||| r.flags)

/-- Folds the result of course `c` into the running state. -/
def foldCourse {α : Type} (merge : α → α → Flagged α) (tree : Bool) (c : Nat) (t : α) (st : List α) : Flagged (List α) :=
  if tree then pushMerge merge (trailingOnes 24 c) t st 0
  else
    match st with
    | [] => ⟨[t], 0⟩
    | r :: _ => let x := merge r t; ⟨[x.v], x.flags⟩

/-- Collapses a stack from the top (R86). -/
def collapse {α : Type} (merge : α → α → Flagged α) (empty : α) : List α → Flagged α
  | [] => ⟨empty, 0⟩
  | t :: st => st.foldl (fun a s => let r := merge s a.v; ⟨r.v, a.flags ||| r.flags⟩) ⟨t, 0⟩

/-- The result r of a finished reduction (R85): under LINEAR the preload went in first, under TREE it is added last. -/
def finishFold (tree : Bool) (pre : Acc) (st : List Acc) : Flagged Acc :=
  let t := collapse accMerge accZero st
  if tree then let r := accMerge pre t.v; ⟨r.v, t.flags ||| r.flags⟩ else t

/-! ### Attention (R197 to R199) -/

def AttEntry.empty' : AttEntry := ⟨accZero, accZero, f32Inf true, true⟩

/-- a × α rounded once (R88), α an FP32 value in [+0, 1]. -/
def accTimes (a : Acc) (alpha : W32) : Flagged Acc :=
  if f32IsNaN alpha then ⟨Config.nanScaled a, 0⟩
  else
    let r := accMulExact a (f32Val alpha)
    ⟨r.1, flagIf r.2 fAccSat⟩

/-- Merges two attention results, A holding the lower course indices (R198). -/
def attMerge (a b : AttEntry) : Flagged AttEntry :=
  if a.empty then ⟨b, 0⟩
  else if b.empty then ⟨a, 0⟩
  else
    let p := if f32IsNaN a.m || f32IsNaN b.m || f32Lt a.m b.m then (b, a) else (a, b)
    let d := vSub p.2.m p.1.m
    let al := vExp2 d.w
    let co := accTimes p.2.o al.w
    let cl := accTimes p.2.l al.w
    let o := accMerge p.1.o co.v
    let l := accMerge p.1.l cl.v
    ⟨⟨o.v, l.v, p.1.m, false⟩, d.flags ||| al.flags ||| co.flags ||| cl.flags ||| o.flags ||| l.flags⟩

/-- The finished element: o / l rounded once, then the preload (R199). -/
def attFinish (pre : Acc) (e : AttEntry) : Flagged Acc :=
  let q := accVal e.l
  let out : Acc × Bool :=
    if e.empty then (accZero, false) else if q.isZero then (Config.overZero e.o, false) else accRound ((accVal e.o).div q) (accNeg e.o != accNeg e.l)
  let r := accMerge pre out.1
  ⟨r.v, r.flags ||| flagIf out.2 fAccSat⟩

/-! ### The fold control word (R90) -/

structure FoldCtl where
  foldOut : Bool
  foldIn : Bool
  pre : Nat
  tree : Bool
  preFmt : Nat
  c0 : Nat
  total : Nat
  deriving DecidableEq, Repr

def foldCtl (w : Nat) : FoldCtl :=
  ⟨w.testBit 57, w.testBit 56, field w 55 54, w.testBit 53, field w 52 48, field w 47 24, field w 23 0 + 1⟩

/-- The conditions of R90 that the word shows. -/
def foldCtlOk (w : Nat) : Bool :=
  let f := foldCtl w
  field w 63 58 == 0 && f.pre != 3 && (f.pre == 0 || f.preFmt == 0x19 || f.preFmt == 0x1B || isSheafFmt f.preFmt) &&
  (if f.foldIn then 1 ≤ f.c0 else f.c0 == 0)

/-- A preload stands only on the segment that applies it (R91). -/
def FoldCtl.preloadOk (f : FoldCtl) (att : Bool) : Bool :=
  f.pre == 0 || (if att then !f.foldOut else if f.tree then !f.foldOut else !f.foldIn)

/-- The conditions of R91 on a segment of `own` courses and reduction length `len`; `att` for ATTENTION. -/
def segmentOk (f : FoldCtl) (own len : Nat) (att : Bool) : Bool :=
  f.c0 + own ≤ f.total &&
  (if f.foldOut then len % 256 == 0 && f.c0 + own < f.total else f.c0 + own == f.total) &&
  f.preloadOk att

/-- What the control word alone shows of R91 and R309: the preload's segment, a segment of at least one course within the whole, and the courses of an ATTENTION reduction. -/
def FoldCtl.wordOk (f : FoldCtl) (att : Bool) : Bool :=
  f.preloadOk att && decide (f.c0 < f.total) && (!f.foldOut || decide (f.c0 + 1 < f.total)) && (!att || decide (f.total ≤ 65536))

/-! ### Fold-state records (R93, R94, R200) -/

def foldStride (tree att : Bool) : Nat := if tree then (if att then 448 else 192) else 32

/-- The depth of a record whose next course is `c` (R93). -/
def foldDepth (tree : Bool) (c : Nat) : Nat := if tree then bitsSet 25 c else 1

/-- A record around its entries' bytes. -/
def foldRecord (tree att : Bool) (next flags depth : Nat) (entries : List Byte) : List Byte :=
  let body := padTo (foldStride tree att - 4)
    (leBytes 4 next ++ leBytes 1 (if tree then 2 else 1) ++ leBytes 1 depth ++ leBytes 1 (foldFlags flags) ++ [0#8] ++ entries)
  body ++ leBytes 4 (crc32c body)

/-- Entries of a stack held top first, bottom first in the record. -/
def accEntries (st : List Acc) : List Byte := (st.reverse.map fun a => leBytes 5 a.toNat).flatten
def attEntries (st : List AttEntry) : List Byte :=
  (st.reverse.map fun e => leBytes 5 e.o.toNat ++ leBytes 5 e.l.toNat ++ leBytes 4 e.m.toNat ++ [if e.empty then 1#8 else 0#8, 0#8]).flatten

/-- The tests of R94 on a record's bytes before its entries are used: a check mismatch or a wrong field. -/
def foldRecordBad (tree att : Bool) (c0 : Nat) (bs : List Byte) : Option Nat :=
  let n := foldStride tree att
  let d := foldDepth tree c0
  let used := 8 + (if att then 16 else 5) * d
  if crc32c (bs.take (n - 4)) ≠ bytesNat bs (n - 4) 4 then some csCheck
  else if bytesNat bs 0 4 ≠ c0 ∨ bytesNat bs 4 1 ≠ (if tree then 2 else 1) ∨ bytesNat bs 5 1 ≠ d ∨ 8 ≤ bytesNat bs 6 1 ∨
      bytesNat bs 7 1 ≠ 0 ∨ bytesNat bs used (n - 4 - used) ≠ 0 then some csFoldState
  else if att ∧ ((List.range d).any fun i => 1 < bytesNat bs (8 + 16 * i + 14) 1 || bytesNat bs (8 + 16 * i + 15) 1 != 0) then some csFoldState
  else none

/-- The stack of a record, top first. -/
def recordAccs (d : Nat) (bs : List Byte) : List Acc :=
  ((List.range d).map fun i => BitVec.ofNat 36 (bytesNat bs (8 + 5 * i) 5)).reverse
def recordAtts (d : Nat) (bs : List Byte) : List AttEntry :=
  ((List.range d).map fun i =>
    let o := 8 + 16 * i
    (⟨BitVec.ofNat 36 (bytesNat bs o 5), BitVec.ofNat 36 (bytesNat bs (o + 5) 5), BitVec.ofNat 32 (bytesNat bs (o + 10) 4),
      bytesNat bs (o + 14) 1 == 1⟩ : AttEntry)).reverse

end Sys2Proof.Machine
end

