-- ==== Sys2Proof/Machine/Objects.lean ====
section
/-! DEFINITION. The objects of the dictionary (R390 to R399): type, access right and default of each, and the reading of a setting. -/

namespace Sys2Proof.Machine

/-- The types of R391. -/
inductive OType where
  | bool
  | u8
  | u16
  | u32
  | u64
  | i16
  | i32
  | f32
  | str
  | domain
  | table
  deriving DecidableEq, Repr

/-- The access rights of R392. -/
inductive OAccess where
  | ro
  | rw
  | wo
  | rwp
  | const
  deriving DecidableEq, Repr

/-- Bytes of a scalar type; none for STRING, DOMAIN and TABLE. -/
def OType.size : OType → Option Nat
  | .bool => some 1
  | .u8 => some 1
  | .u16 => some 2
  | .u32 => some 4
  | .u64 => some 8
  | .i16 => some 2
  | .i32 => some 4
  | .f32 => some 4
  | .str => none
  | .domain => none
  | .table => none

/-- A row of the dictionary: `n` consecutive indices from `idx`, sub-indices `lo` to `hi`. -/
structure ObjRow where
  idx : Nat
  n : Nat
  lo : Nat
  hi : Nat
  ty : OType
  acc : OAccess
  dflt : Nat
  deriving DecidableEq, Repr

def rowsIdentity : List ObjRow :=
  [⟨0x1000, 1, 1, 2, .str, .const, 0⟩, ⟨0x1000, 1, 3, 3, .u8, .const, 0xA1⟩, ⟨0x1000, 1, 4, 4, .u32, .ro, 0⟩,
   ⟨0x1000, 1, 5, 5, .str, .const, 0⟩, ⟨0x1000, 1, 6, 6, .u8, .ro, 0⟩, ⟨0x1000, 1, 7, 7, .u16, .const, 3⟩,
   ⟨0x1100, 1, 1, 1, .u8, .ro, 0⟩, ⟨0x1100, 1, 2, 2, .u8, .wo, 0⟩, ⟨0x1100, 1, 3, 3, .bool, .rwp, 1⟩, ⟨0x1100, 1, 4, 4, .u64, .ro, 0⟩,
   ⟨0x1101, 1, 1, 4, .domain, .ro, 0⟩, ⟨0x1200, 1, 1, 1, .u64, .const, 0⟩, ⟨0x1200, 1, 2, 2, .u8, .rwp, 0⟩, ⟨0x1200, 1, 3, 3, .u8, .rwp, 32⟩,
   ⟨0x1200, 1, 4, 4, .u32, .rwp, 5000⟩, ⟨0x1200, 1, 5, 5, .bool, .rwp, 1⟩, ⟨0x1200, 1, 6, 6, .u16, .rw, 65⟩, ⟨0x1200, 1, 7, 7, .bool, .wo, 0⟩]

def rowsFormats : List ObjRow :=
  [⟨0x2040, 1, 1, 1, .u64, .rw, 0⟩, ⟨0x2040, 1, 2, 2, .u8, .rwp, 0x40⟩, ⟨0x2050, 1, 1, 1, .u64, .rw, 0⟩, ⟨0x2050, 1, 2, 2, .u8, .rwp, 4⟩,
   ⟨0x2050, 1, 3, 3, .u16, .rwp, 16⟩, ⟨0x2051, 1, 1, 0xC, .u16, .rwp, 4⟩, ⟨0x2052, 1, 1, 0xC, .u16, .rwp, 32⟩,
   ⟨0x2053, 1, 1, 0xC, .u8, .rwp, 0⟩, ⟨0x2054, 1, 1, 0xC, .u8, .rwp, 0⟩, ⟨0x2060, 1, 1, 8, .u64, .rw, 0⟩]

def rowsPace : List ObjRow :=
  [⟨0x3000, 1, 1, 1, .u8, .rwp, 0⟩, ⟨0x3000, 1, 2, 2, .u16, .rwp, 800⟩, ⟨0x3001, 1, 1, 2, .u32, .ro, 0⟩, ⟨0x3001, 1, 3, 3, .u16, .ro, 700⟩,
   ⟨0x3001, 1, 4, 5, .u32, .ro, 0⟩, ⟨0x3001, 1, 6, 6, .bool, .ro, 0⟩, ⟨0x3001, 1, 7, 7, .u64, .ro, 0⟩, ⟨0x3001, 1, 8, 8, .u16, .ro, 0⟩,
   ⟨0x3010, 1, 1, 1, .u16, .rwp, 2000⟩, ⟨0x3010, 1, 2, 2, .u16, .rwp, 2400⟩, ⟨0x3010, 1, 3, 5, .u16, .ro, 0⟩, ⟨0x3010, 1, 6, 6, .domain, .const, 0⟩,
   ⟨0x3020, 1, 1, 2, .i16, .ro, 0⟩, ⟨0x3030, 1, 1, 0xA, .domain, .ro, 0⟩, ⟨0x3030, 1, 0xB, 0xB, .u16, .rwp, 60⟩, ⟨0x3030, 1, 0xC, 0xC, .bool, .wo, 0⟩, ⟨0x3030, 1, 0xD, 0xD, .u32, .ro, 0⟩,
   ⟨0x3040, 1, 1, 1, .u8, .rwp, 7⟩, ⟨0x3040, 1, 2, 2, .bool, .wo, 0⟩, ⟨0x3040, 1, 3, 3, .u8, .rw, 0⟩, ⟨0x3040, 1, 4, 4, .u8, .ro, 0⟩,
   ⟨0x3040, 1, 5, 5, .u16, .rw, 66⟩]

def rowsSafety : List ObjRow :=
  [⟨0x4000, 1, 1, 1, .u8, .ro, 0⟩, ⟨0x4000, 1, 2, 2, .u32, .rw, 0⟩, ⟨0x4000, 1, 3, 3, .u16, .rw, 64⟩, ⟨0x4001, 1, 1, 8, .u8, .ro, 0⟩,
   ⟨0x4002, 1, 1, 8, .bool, .wo, 0⟩, ⟨0x4010, 1, 1, 1, .u32, .const, 5000⟩, ⟨0x4020, 1, 1, 8, .u8, .ro, 0⟩, ⟨0x4021, 1, 1, 8, .u16, .ro, 0⟩,
   ⟨0x4022, 1, 1, 8, .u8, .ro, 0⟩, ⟨0x4030, 1, 1, 1, .u16, .rw, 0xFFFF⟩, ⟨0x4030, 1, 2, 2, .u8, .rwp, 4⟩, ⟨0x4030, 1, 3, 3, .u64, .rw, 0⟩,
   ⟨0x4030, 1, 4, 4, .u16, .rw, 0⟩, ⟨0x4040, 1, 1, 1, .u8, .rwp, 1⟩, ⟨0x4050, 1, 1, 2, .u8, .wo, 0⟩, ⟨0x4050, 1, 3, 3, .bool, .wo, 0⟩,
   ⟨0x4050, 1, 4, 4, .bool, .ro, 0⟩, ⟨0x4050, 1, 5, 5, .u8, .ro, 0⟩, ⟨0x4050, 1, 6, 6, .bool, .rwp, 0⟩,
   ⟨0x5000, 1, 1, 1, .u64, .const, 63378554880⟩, ⟨0x5010, 1, 1, 8, .u32, .rwp, 512⟩, ⟨0x5011, 1, 1, 8, .u32, .rwp, 262144⟩,
   ⟨0x5020, 1, 1, 1, .u8, .rwp, 8⟩, ⟨0x5020, 1, 2, 2, .u16, .rwp, 24⟩, ⟨0x5030, 1, 1, 8, .domain, .ro, 0⟩, ⟨0x5040, 1, 1, 2, .u64, .ro, 0⟩,
   ⟨0x5040, 1, 3, 4, .u8, .ro, 0⟩]

def rowsFabric : List ObjRow :=
  [⟨0x6000, 1, 1, 1, .u8, .rwp, 0⟩, ⟨0x6000, 1, 2, 2, .u64, .rwp, 0xFD00000000000000⟩, ⟨0x6000, 1, 3, 3, .u8, .rwp, 3⟩,
   ⟨0x6000, 1, 4, 4, .u8, .rwp, 6⟩, ⟨0x6000, 1, 5, 5, .u32, .rwp, 8000⟩, ⟨0x6000, 1, 6, 6, .u16, .rwp, 0⟩, ⟨0x6000, 1, 7, 7, .u32, .rwp, 100000⟩,
   ⟨0x6001, 1, 1, 8, .u8, .ro, 0⟩, ⟨0x6100, 256, 1, 1, .u8, .rw, 0⟩, ⟨0x6100, 256, 2, 0x41, .u16, .rw, 0⟩, ⟨0x6100, 256, 0x42, 0x42, .u32, .ro, 0⟩,
   ⟨0x6200, 256, 1, 1, .u8, .rw, 0xFF⟩, ⟨0x6200, 256, 2, 2, .u8, .rw, 0⟩, ⟨0x6200, 256, 3, 3, .u64, .rw, 0⟩, ⟨0x6200, 256, 4, 4, .u32, .rw, 0⟩,
   ⟨0x6200, 256, 5, 5, .u8, .rw, 0⟩]

def rowsQueues : List ObjRow :=
  [⟨0x7001, 1, 1, 1, .u64, .ro, 0⟩, ⟨0x7002, 1, 1, 1, .u64, .ro, 0⟩, ⟨0x7010, 1, 1, 8, .u8, .rwp, 10⟩, ⟨0x7011, 1, 1, 1, .u32, .rwp, 100⟩,
   ⟨0x7012, 1, 1, 1, .u32, .rwp, 10000⟩, ⟨0x7013, 1, 1, 1, .u32, .const, 40000⟩, ⟨0x7030, 1, 1, 3, .u64, .rw, 0⟩, ⟨0x7030, 1, 4, 4, .u8, .ro, 0⟩,
   ⟨0x7030, 1, 5, 6, .u16, .ro, 0⟩, ⟨0x7100, 64, 1, 1, .u64, .rw, 0⟩, ⟨0x7100, 64, 2, 2, .u16, .rw, 256⟩, ⟨0x7100, 64, 3, 3, .u64, .rw, 0⟩,
   ⟨0x7100, 64, 4, 4, .u16, .rw, 512⟩, ⟨0x7100, 64, 5, 5, .u8, .rw, 0⟩, ⟨0x7100, 64, 6, 6, .u16, .rw, 0⟩, ⟨0x7100, 64, 7, 7, .bool, .rw, 0⟩,
   ⟨0x7100, 64, 8, 8, .u8, .ro, 0⟩]

def rowsCounters : List ObjRow :=
  [⟨0x8030, 1, 1, 7, .u64, .ro, 0⟩, ⟨0x8040, 1, 1, 4, .u64, .ro, 0⟩, ⟨0x8050, 1, 1, 7, .u64, .ro, 0⟩, ⟨0x8060, 1, 1, 7, .u64, .ro, 0⟩,
   ⟨0x8070, 1, 1, 5, .u64, .ro, 0⟩, ⟨0x8080, 1, 1, 2, .u64, .ro, 0⟩, ⟨0x8090, 1, 1, 2, .u64, .ro, 0⟩, ⟨0x8090, 1, 3, 3, .u8, .ro, 0⟩,
   ⟨0x80A0, 1, 1, 0xB, .u64, .ro, 0⟩, ⟨0x80B0, 1, 1, 9, .u64, .ro, 0⟩,
   ⟨0x9000, 1, 1, 2, .u32, .ro, 0⟩, ⟨0x9000, 1, 3, 3, .u64, .ro, 0⟩, ⟨0x9000, 1, 4, 4, .u8, .ro, 0⟩, ⟨0x9001, 1, 1, 1, .u32, .rw, 0⟩,
   ⟨0x9001, 1, 2, 2, .domain, .ro, 0⟩, ⟨0x9002, 1, 1, 1, .u16, .rwp, 10⟩, ⟨0x9002, 1, 2, 2, .u64, .ro, 0⟩, ⟨0x9003, 1, 1, 8, .u32, .ro, 0⟩,
   ⟨0xA000, 1, 1, 3, .u8, .rwp, 0⟩, ⟨0xA000, 1, 4, 4, .u8, .ro, 0⟩, ⟨0xA001, 1, 1, 8, .domain, .ro, 0⟩, ⟨0xA002, 1, 1, 1, .u8, .rw, 0xFF⟩,
   ⟨0xA002, 1, 2, 2, .u32, .rw, 0⟩, ⟨0xA002, 1, 3, 3, .domain, .wo, 0⟩, ⟨0xA002, 1, 4, 4, .u8, .ro, 0⟩, ⟨0xA002, 1, 5, 5, .bool, .wo, 0⟩,
   ⟨0xA003, 1, 1, 4, .u8, .ro, 0⟩, ⟨0xA003, 1, 5, 5, .bool, .wo, 0⟩, ⟨0xA010, 1, 1, 1, .u8, .ro, 0⟩, ⟨0xA010, 1, 2, 2, .u32, .ro, 0⟩]

/-- Every object of the manual but the sub-indices 0x00 (R398). -/
def objRows : List ObjRow :=
  rowsIdentity ++ rowsFormats ++ rowsPace ++ rowsSafety ++ rowsFabric ++ rowsQueues ++ rowsCounters

def ObjRow.hasIndex (r : ObjRow) (i : Nat) : Bool := r.idx ≤ i && i < r.idx + r.n

/-- The row of an object address; none where the manual names no such object. -/
def objRow (a : Nat) : Option ObjRow :=
  objRows.find? fun r => r.hasIndex (a / 256) && r.lo ≤ a % 256 && a % 256 ≤ r.hi

/-- The index exists. -/
def objIndexExists (i : Nat) : Bool := objRows.any fun r => r.hasIndex i

/-- The highest sub-index of an index (R390). -/
def objHighest (i : Nat) : Nat := (objRows.filter fun r => r.hasIndex i).foldl (fun m r => max m r.hi) 0

/-- The default fall-back formats of R108's second table, by chain. -/
def chainDefault (activation : Bool) (f : Nat) : Nat :=
  if f ≤ 5 then 0x06
  else if f ≤ 8 then 0x09
  else if f = 9 then (if activation then 0x18 else 0x0A)
  else if f = 10 then (if activation then 0x18 else 0x1F)
  else 0x0A

/-- The default value of a scalar object, with the module-ID straps read at power-on. -/
def objDefault (straps a : Nat) : Nat :=
  let i := a / 256
  let s := a % 256
  if i = 0x2053 then chainDefault false (s - 1)
  else if i = 0x2054 then chainDefault true (s - 1)
  else if a = 0x600001 then straps
  else if a = 0x120002 then straps % 16 + 1
  else if 0x7100 ≤ i ∧ i < 0x7140 ∧ s = 6 then i - 0x7100
  else match objRow a with | some r => r.dflt | none => 0

/-- A setting in a set of dictionary values. -/
def settingOf (straps : Nat) (vals : Store (Option Nat)) (a : Nat) : Nat :=
  match vals.get none a with
  | some v => v
  | none => objDefault straps a

/-- The value a settable object has now. -/
def Device.setting (d : Device) (a : Nat) : Nat := settingOf d.power.straps.toNat d.dict.vals a

/-- The value a settable object had at a command's acceptance (R396). -/
def Cmd.setting (d : Device) (c : Cmd) (a : Nat) : Nat := settingOf d.power.straps.toNat c.settings a

end Sys2Proof.Machine
end

