-- ==== Sys2Proof/Machine/Ops.lean ====
section
/-! DEFINITION. The named operations over the device: banks, counters, vectors, alerts, wake reasons, the event log, memory access and records. -/

namespace Sys2Proof.Machine

/-! ### Banks -/

def Device.bay (d : Device) (k : Nat) : Bay := d.bays[k]?.getD Bay.fresh
def Device.setBay (d : Device) (k : Nat) (b : Bay) : Device := { d with bays := d.bays.setIfInBounds k b }
def Device.modBay (d : Device) (k : Nat) (f : Bay → Bay) : Device := d.setBay k (f (d.bay k))
def Device.port (d : Device) (k : Nat) : Port := d.ports[k]?.getD Port.fresh
def Device.setPort (d : Device) (k : Nat) (p : Port) : Device := { d with ports := d.ports.setIfInBounds k p }
def Device.modPort (d : Device) (k : Nat) (f : Port → Port) : Device := d.setPort k (f (d.port k))
def Device.queue (d : Device) (q : Nat) : QPair := d.queues[q]?.getD QPair.fresh
def Device.setQueue (d : Device) (q : Nat) (x : QPair) : Device := { d with queues := d.queues.setIfInBounds q x }
def Device.modQueue (d : Device) (q : Nat) (f : QPair → QPair) : Device := d.setQueue q (f (d.queue q))

/-- The key of logical tile `t` of bay `k`. -/
def tileKey (k t : Nat) : Nat := k * 1280 + t
def Device.tile (d : Device) (key : Nat) : Tile := d.tiles.get Tile.idle key
def Device.setTile (d : Device) (key : Nat) (t : Tile) : Device := { d with tiles := d.tiles.put Tile.idle key t }

/-- A list with its n-th member changed. -/
def modNth {α : Type} (xs : List α) (n : Nat) (f : α → α) : List α := xs.modify n f

def Device.cmd (d : Device) (tag : Nat) : Option Cmd := d.cmds.find? fun c => c.tag == tag
def Device.modCmd (d : Device) (tag : Nat) (f : Cmd → Cmd) : Device :=
  { d with cmds := d.cmds.map fun c => if c.tag = tag then f c else c }
def Device.withDict (d : Device) (f : Dict → Dict) : Device := { d with dict := f d.dict }
def Device.withPower (d : Device) (f : PowerDom → PowerDom) : Device := { d with power := f d.power }
def Device.withSafety (d : Device) (f : Safety → Safety) : Device := { d with safety := f d.safety }
def Device.withPace (d : Device) (f : Pace → Pace) : Device := { d with pace := f d.pace }
def Device.withOut (d : Device) (f : Outputs → Outputs) : Device := { d with out := f d.out }

/-- A free value is drawn: the next one will be another. -/
def Device.drew (d : Device) (n : Nat) : Device := { d with drawn := d.drawn + n }

/-! ### Counters of the 0x8000 range: U64, stopping at the largest value -/

def Device.counter (d : Device) (a : Nat) : Nat := d.safety.counters.get 0 a
def Device.count (d : Device) (a : Nat) (n : Nat) : Device :=
  d.withSafety fun s => { s with counters := s.counters.upd 0 a fun v => stopAdd 64 v n }

/-! ### Readiness and vectors -/

/-- Configuration requests complete normally (R424). -/
def Device.isReady (d : Device) : Bool := d.power.phase == .ready || d.power.phase == .restricted

/-- A message can be sent: MSI-X is enabled, and neither the function nor the entry is masked. -/
def Outputs.msixOpen (o : Outputs) (v : Nat) : Bool := o.msixOn && !o.msixMaskAll && !(o.msixMasked.contains v)

/-- A message is sent, or its entry's pending bit is set. -/
def Outputs.message (o : Outputs) (v : Nat) : Outputs :=
  if o.msixOpen v then { o with msix := v :: o.msix } else { o with msixPending := if o.msixPending.contains v then o.msixPending else v :: o.msixPending }

/-- Pending messages that can be sent now leave, in ascending order of entries. -/
def Outputs.msixFlush (o : Outputs) : Outputs :=
  let go := (List.range 67).filter fun v => o.msixPending.contains v && o.msixOpen v
  { o with msix := go.reverse ++ o.msix, msixPending := o.msixPending.filter fun v => !(go.contains v) }

/-- A host write of MSI-X masks or unmasks messages, and those that were pending and can be sent leave (R228). -/
def Outputs.configure (o : Outputs) : MsixWrite → Outputs
  | .control enable maskAll => { o with msixOn := enable, msixMaskAll := maskAll }.msixFlush
  | .entry v masked => { o with msixMasked := if masked then v.val :: o.msixMasked else o.msixMasked.filter (· != v.val) }.msixFlush

/-- The MSI-X capability and table as a reset of the function leaves them: disabled, every entry masked, nothing pending (notes/assumptions/44). PRESUMED. -/
def Outputs.msixReset (o : Outputs) : Outputs := { o with msixOn := false, msixMaskAll := false, msixMasked := List.range 67, msixPending := [] }

/-- Raises an MSI-X vector (R228). A number above 66 names none. -/
def Device.raise (d : Device) (v : Nat) : Device := if v ≤ 66 then d.withOut fun o => o.message v else d

/-! ### Wake reasons (R439 to R441) -/

/-- A reason bit is set: nothing more where it is set already; else it is latched, its vector raised now in D0 or kept for the next D0 entry, and in states 1 and 2 an enabled reason is due to be signalled. -/
def Device.wakeReason (d : Device) (bit : Nat) : Device :=
  let p := d.power
  if p.wakeReasons.toNat.testBit bit then d
  else
    let m := BitVec.ofNat 8 (2 ^ bit)
    let due := (p.powerState == 1 || p.powerState == 2) && (d.setting 0x304001).testBit bit
    let d1 := d.withPower fun p => { p with wakeReasons := p.wakeReasons ||| m, wakeDue := p.wakeDue || due }
    if p.powerState = 0 && d.isReady then d1.raise (d.setting 0x304005)
    else d1.withPower fun p => { p with wakeVec := p.wakeVec ||| m }

/-! ### Alert causes and notifications (R343, R344, R412) -/

/-- The notification message a session sends (R407, R412). -/
def noticeMsg (k seq : Nat) (s : Session) (word : W32) : BrMsg :=
  ⟨3, 0x30, k, seq, s.nonce, 0, 0, 0, false, 0, leBytes 4 word.toNat, s.peer⟩

/-- The link-local address with a modified EUI-64 identifier of a MAC address (R406). -/
def linkLocalOf (mac : Nat) : BitVec 128 :=
  BitVec.ofNat 128 (0xFE80 * 2 ^ 112 + ((mac / 2 ^ 24) ^^^ 0x020000) * 2 ^ 40 + 0xFFFE * 2 ^ 24 + mac % 2 ^ 24)

/-- The bytes of a message: header, payload, trailer (R407). -/
def BrMsg.bytes (m : BrMsg) : List Byte :=
  let b := leBytes 2 0x4E59 ++ leBytes 1 1 ++ leBytes 1 m.kind ++ leBytes 1 m.op ++ leBytes 1 m.session ++ leBytes 2 m.seq ++ leBytes 4 m.nonce.toNat ++
    leBytes 4 m.addr ++ leBytes 4 m.off ++ leBytes 2 m.payload.length ++ leBytes 1 m.status ++ leBytes 1 (if m.last then 1 else 0) ++ leBytes 4 m.gen.toNat ++ m.payload
  b ++ leBytes 4 (crc32c b)

/-- The UDP port of Brynuo, both ends (R406). -/
def brynuoUdp : Nat := 49421

/-- A message with the layers around it (R406). -/
def BrMsg.wire (m : BrMsg) : TxMsg :=
  let src := linkLocalOf Config.managementMac.toNat
  { srcIp := src, dstIp := m.peer, hop := 255, srcPort := brynuoUdp, dstPort := brynuoUdp, udpSum := udpSum brynuoUdp src m.peer m.bytes, bytes := m.bytes }

/-- A Brynuo message goes out where the management port may transmit (R405). -/
def Device.transmit (d : Device) (m : BrMsg) : Device :=
  if d.dict.mgmtUp && !d.dict.plcaStopped then d.withOut fun o => { o with brynuo := m.wire :: o.brynuo } else d

/-- The device has changed the STRING, DOMAIN or TABLE value of an object (R394). -/
def Device.touch (d : Device) (a : Nat) : Device := d.withDict fun x => { x with gens := x.gens.upd 0 a (· + 1) }

/-- Sends a notification to open session `k`. -/
def Device.notify (d : Device) (k : Nat) (word : W32) : Device :=
  match d.dict.sessions[k]? with
  | none => d
  | some s =>
    if s.live then
      let n := (s.noticeSeq + 1) % 65536
      let s' := { s with noticeSeq := n, notices := s.notices ++ [⟨n, word, 0, d.now⟩] }
      let d1 := d.withDict fun x => { x with sessions := x.sessions.setIfInBounds k s' }
      d1.transmit (noticeMsg k n s word)
    else d

/-- A condition of R344 arises: a bit that goes from 0 to 1 raises the safety vector, notifies every open session and is a wake reason. -/
def Device.alert (d : Device) (bit : Nat) : Device :=
  if d.safety.alert.toNat.testBit bit then d
  else
    let w := d.safety.alert ||| BitVec.ofNat 32 (2 ^ bit)
    let d1 := (d.withSafety fun s => { s with alert := w }).raise (d.setting 0x400003)
    ([0, 1, 2, 3].foldl (fun d k => d.notify k w) d1).wakeReason 1

/-! ### The event log (R364 to R368) -/

def emberAdd (d : Device) (n : Nat) : Device :=
  { d with log := { d.log with ember := d.log.ember.setIfInBounds n ((d.log.ember[n]?.getD 0) + 1) } }

/-- A record at a path's cursor is overwritten: its generation on that path advances (R402). -/
def PathState.overwritten (p : PathState) (seq : Nat) : PathState :=
  if p.cursor = seq then { p with recordGen := p.recordGen + 1 } else p

/-- Every path's state changed alike. -/
def Dict.eachPath (x : Dict) (f : PathState → PathState) : Dict :=
  { x with inbandPath := f x.inbandPath, spiPath := f x.spiPath, brynuoPaths := x.brynuoPaths.map f }

/-- Puts a record into the ring copies that are in use (R364, R367). -/
def Device.pushRec (d : Device) (r : LogRec) : Device :=
  let l := d.log
  let old := if l.copyA.length < 4096 ∧ l.copyB.length < 4096 then none
    else (if l.state = 1 ∧ l.badCopy = 0 then l.copyB else l.copyA).getLast?
  let keep := fun (bad : Bool) (xs : List LogRec) => if bad then xs else r :: xs.take 4095
  let l' := { l with copyA := keep (l.state = 1 ∧ l.badCopy = 0) l.copyA, copyB := keep (l.state = 1 ∧ l.badCopy = 1) l.copyB,
                     next := (l.next + 1) % 2 ^ 32, overwritten := l.overwritten + (if old.isSome then 1 else 0),
                     sinceSummary := r :: l.sinceSummary }
  let d1 := { d with log := l' }
  match old with
  | some o => d1.withDict fun x => x.eachPath (·.overwritten o.seq)
  | none => d1

/-- What an event says of itself; the fields not given are those of R365 for "none". -/
structure Event where
  type : Nat
  rung : Nat := 0
  nesting : Nat := 0
  bay : Nat := 0xFF
  tile : Nat := 0xFFFF
  phys : Nat := 0xFFFF
  tag : Nat := 0xFFFF
  qp : Nat := 0xFF
  mech : Nat := 0
  detail : List Byte := []
  deriving DecidableEq, Repr

/-- Logs an event (R364). In the log-lost state only the ember registers count it (R367, R368). -/
def Device.logEvent (d : Device) (e : Event) : Device :=
  if d.log.state = 2 then
    if e.type = 0x01 then emberAdd d 2 else if e.type = 0x04 then emberAdd d 3 else d
  else d.pushRec ⟨d.log.next, e.type, e.rung, e.nesting, e.bay, d.now, e.tile, e.phys, e.tag, e.qp, e.mech,
    d.stepCounter.toNat % 2 ^ 32, e.detail⟩

/-- The highest rung of the session (object 0x4050:05). -/
def Device.rungSeen (d : Device) (n : Nat) : Device := d.withSafety fun s => { s with highestRung := max s.highestRung n }

/-! ### The device address map (R201 to R204) -/

inductive Region where
  | hbm (bay off : Nat)
  | die (bay off : Nat)
  | scratch (bay tile off : Nat)
  | far (port off : Nat)
  deriving DecidableEq, Repr

def hbmPopulated : Nat := 64000000000
def softwareBytes : Nat := 63378554880

/-- Where a device address lies; none for an unpopulated one. -/
def Device.region (d : Device) (a : Nat) : Option Region :=
  if a < 8 * 2 ^ 36 then
    if a % 2 ^ 36 < hbmPopulated then some (.hbm (a / 2 ^ 36) (a % 2 ^ 36)) else none
  else if 0xF000000000 ≤ a ∧ a < 0xF000000000 + 8 * 2 ^ 26 then
    some (.die ((a - 0xF000000000) / 2 ^ 26) ((a - 0xF000000000) % 2 ^ 26))
  else if 0xF800000000 ≤ a ∧ a < 0xF800000000 + 8 * 2 ^ 32 then
    let o := a - 0xF800000000
    let t := o % 2 ^ 32 / 2 ^ 20
    if t < 1280 ∧ o % 2 ^ 18 < 0x30000 then some (.scratch (o / 2 ^ 32) t (o % 2 ^ 20)) else none
  else if 0x800000000000 ≤ a ∧ a < 0x800000000000 + 2 * 2 ^ 41 then
    let p := (a - 0x800000000000) / 2 ^ 41
    let o := (a - 0x800000000000) % 2 ^ 41
    if o < d.farCap[p]?.getD 0 ∧ d.farState[p]?.getD 0 = 1 then some (.far p o) else none
  else none

/-- The bay of an HBM, die-buffer or scratchpad address. -/
def Device.bayOf (d : Device) (a : Nat) : Option Nat :=
  match d.region a with
  | some (.hbm k _) => some k
  | some (.die k _) => some k
  | some (.scratch k _ _) => some k
  | some (.far _ _) => none
  | none => none

/-- Bytes `a` to `a + n − 1` lie in one software region or one die buffer (R202, R203). -/
def Device.open' (d : Device) (a n : Nat) : Bool :=
  match d.region a, d.region (a + (n - 1)) with
  | some (.hbm k o), some (.hbm k' o') => k == k' && o ≤ o' && o' < softwareBytes
  | some (.die k o), some (.die k' o') => k == k' && o ≤ o'
  | _, _ => false

/-- Bytes `a` to `a + n − 1` lie in the window of one CXL port in service. -/
def Device.openFar (d : Device) (a n : Nat) : Bool :=
  match d.region a, d.region (a + (n - 1)) with
  | some (.far p o), some (.far p' o') => p == p' && o ≤ o'
  | _, _ => false

/-- The device address of byte 0 of the scratchpad of logical tile `t` of bay `k` (R201). -/
def padBase (k t : Nat) : Nat := 0xF800000000 + k * 2 ^ 32 + t * 2 ^ 20

/-- The buddy of a logical tile (R159). -/
def buddyOf (t : Nat) : Nat := if t % 2 = 0 then t + 1 else t - 1

def Device.bayOut (d : Device) (k : Nat) : Bool := (d.bay k).state == .out

/-- The bay of an address is in service; an address of no bay needs none. -/
def Device.served (d : Device) (a : Nat) : Bool :=
  match d.bayOf a with
  | some k => !(d.bayOut k)
  | none => true

/-! ### Pseudo-channels and rows (R204) -/

/-- Pseudo-channel, row and line in the row of bay line `n`. -/
def rowOfLine (n : Nat) : Nat × Nat × Nat := ((n % 64) ^^^ (n / 64 % 64), n / 64 / 250, n / 64 % 250)
/-- The bay line of a pseudo-channel, row and line in the row. -/
def lineOfRow (p r c : Nat) : Nat := let l := 250 * r + c; 64 * l + (p ^^^ (l % 64))

/-- The row that logical row `row` is kept in. -/
def Bay.physRow (b : Bay) (pc row : Nat) : Nat :=
  match b.remaps.find? fun e => e.pc == pc && e.row == row with
  | some e => e.reserve
  | none => row

/-- The logical row that is kept in row `row`. -/
def Bay.logicalRow (b : Bay) (pc row : Nat) : Nat :=
  match b.remaps.find? fun e => e.pc == pc && e.reserve == row with
  | some e => e.row
  | none => row

/-! ### Accesses of commands: the error is a completion status of R252 -/

/-- Accesses to some row of a stack are paused (R214). -/
def Device.pauses (d : Device) : Bool := d.bays.toList.any fun b => !b.paused.isEmpty

/-- Some of bytes `a` to `a + n − 1` lie in a row to which accesses are paused (R214). -/
def Device.held (d : Device) (a n : Nat) : Bool :=
  n != 0 && d.pauses && (List.range 8).any fun k => (d.bay k).paused.any fun (pc, row) => (List.range 250).any fun c =>
    let l := k * 2 ^ 30 + lineOfRow pc ((d.bay k).logicalRow pc row) c
    a / 64 ≤ l && l ≤ (a + (n - 1)) / 64

/-- A command has met a paused row in the step under way. -/
def Device.met (d : Device) : Bool := d.cmds.any fun c => match c.failure with | some f => f.status == csHeld | none => false

/-- A step whose accesses meet a paused row is not performed: it waits until the row is released (R214; notes/assumptions/12). -/
def Device.whole (d : Device) (f : Device → Device) : Device := if d.pauses && (f d).met then d else f d

/-- The 64-byte lines of a range. -/
def linesOf (a n : Nat) : List Nat := if n = 0 then [] else List.range' (a / 64) ((a + n - 1) / 64 + 1 - a / 64)

def Device.poisoned (d : Device) (a n : Nat) : Bool := d.poison.any fun l => a / 64 ≤ l && l ≤ (a + (n - 1)) / 64 && n != 0

/-- The first poisoned line of a range. -/
def Device.firstPoison (d : Device) (a n : Nat) : Nat := ((linesOf a n).find? fun l => d.poison.contains l).getD 0

/-- The bytes a command reads (R203, R216). The status of a poisoned read carries the line in its upper bits, for the log. -/
def Device.read (d : Device) (a n : Nat) : Except Nat (List Byte) :=
  if n = 0 then .ok []
  else if !(d.open' a n) || !(d.served a) then .error csAccess
  else if d.held a n then .error csHeld
  else if d.poisoned a n then .error (csData + 0x10000 * d.firstPoison a n)
  else .ok (Mem.read (d.mem.filter fun p => a ≤ p.1 && p.1 < a + n) a n)

/-- Stores bytes; a line written whole loses its poison (R216). -/
def Device.store (d : Device) (a : Nat) (bs : List Byte) : Device :=
  { d with mem := d.mem.write a bs, poison := d.poison.filter fun l => !(a ≤ 64 * l && 64 * l + 64 ≤ a + bs.length) }

/-- The write of a command (R203): an address not open to it makes it fail, and nothing is written. -/
def Device.write (d : Device) (a : Nat) (bs : List Byte) : Except Nat Device :=
  if bs.isEmpty then .ok d
  else if !(d.open' a bs.length) || !(d.served a) then .error csAccess
  else if d.held a bs.length then .error csHeld
  else .ok (d.store a bs)

/-- Writes one after the other, or the first error. -/
def writeAll (d : Device) : List (Nat × List Byte) → Except Nat Device
  | [] => .ok d
  | (a, bs) :: r => match d.write a bs with | .error s => .error s | .ok d1 => writeAll d1 r

/-- Writes that continue one another are one transfer, and so fill whole lines (R138, R141, R216). -/
def joinWrites : List (Nat × List Byte) → List (Nat × List Byte)
  | [] => []
  | (a, bs) :: r =>
    match joinWrites r with
    | (b, cs) :: r' => if a + bs.length = b then (a, bs ++ cs) :: r' else (a, bs) :: (b, cs) :: r'
    | [] => [(a, bs)]

/-- Results of a list of writes, or the first error; a line that they write whole between them loses its poison. -/
def allWrites (d : Device) (ws : List (Nat × List Byte)) : Except Nat Device :=
  match writeAll d ws with
  | .error s => .error s
  | .ok d1 => .ok { d1 with poison := d1.poison.filter fun l => !((joinWrites ws).any fun w => w.1 ≤ 64 * l && 64 * l + 64 ≤ w.1 + w.2.length) }

/-- The bytes of a sheaf that COPY, GATHER or SCATTER reads, from the far tier as well (R220, R221, R332). -/
def Device.readMove (d : Device) (a n : Nat) : Except Nat (List Byte) :=
  if d.openFar a n then
    let bs := Mem.read (d.mem.filter fun p => a ≤ p.1 && p.1 < a + n) a n
    if d.poisoned a n then .error csFarTier
    else if sheafCheckOk bs then .ok bs else .error csCheck
  else d.read a n

def Device.writeMove (d : Device) (a : Nat) (bs : List Byte) : Except Nat Device :=
  if d.openFar a bs.length then .ok (d.store a bs) else d.write a bs

/-- Undefined bytes over a range that commands may write, the far tier's among them (R220, R252). -/
def Device.scramble (d : Device) (r : Nat × Nat) : Device :=
  if ((d.open' r.1 r.2 && d.served r.1) || d.openFar r.1 r.2) && r.2 != 0 then
    (d.store r.1 ((List.range r.2).map fun i => Config.freeByte (d.drawn + i))).drew r.2
  else d

/-! ### Records of memory events (R366) -/

/-- A memory event record (R366): kind 0 remap, 1 uncorrectable, 2 poison read, 3 no free reserve. -/
def Device.memoryEvent (d : Device) (k pc row first lost kind : Nat) : Device :=
  d.logEvent { type := 0x09, rung := (if kind = 0 then 1 else if kind = 1 then 2 else 0), bay := k, mech := 7,
               detail := leBytes 1 pc ++ leBytes 2 row ++ leBytes 1 first ++ leBytes 1 lost ++ leBytes 1 kind }

/-- The record of a read of poisoned line `l`, counted by device address. -/
def Device.poisonEvent (d : Device) (l : Nat) : Device :=
  match d.region (64 * l) with
  | some (.hbm k o) => let x := rowOfLine (o / 64); d.memoryEvent k x.1 x.2.1 x.2.2 1 2
  | _ => d

/-! ### Inbound tokens (R207 to R209) -/

/-- The least value of a setting that is in force: that of a command in flight since its acceptance, the object's own where none is in flight (R209; notes/assumptions/7). -/
def Device.leastInForce (d : Device) (a : Nat) : Nat :=
  match d.cmds with
  | [] => d.setting a
  | c :: r => r.foldl (fun m c => min m (c.setting d a)) (c.setting d a)

/-- The rate bay `k`'s bucket fills at, and its depth: the lowest of those in force. -/
def Device.inboundRate (d : Device) (k : Nat) : Nat := d.leastInForce (0x501001 + k)
def Device.inboundDepth (d : Device) (k : Nat) : Nat := d.leastInForce (0x501101 + k)
/-- The tokens of bay `k` now. -/
def Device.tokensNow (d : Device) (k : Nat) : Q :=
  let b := d.bay k
  (b.tokens.add (Q.ofNat (d.inboundRate k * (d.now - b.tokensAt)))).min (Q.ofNat (d.inboundDepth k))
/-- Takes the tokens of `n` lines from bay `k`. -/
def Device.takeTokens (d : Device) (k n : Nat) : Device :=
  d.modBay k fun b => { b with tokens := (d.tokensNow k).sub (Q.ofNat (64 * n)), tokensAt := d.now }

/-- Every bucket takes its level now, before the rate it fills at changes. -/
def Device.settleTokens (d : Device) : Device := (List.range 8).foldl (fun d k => d.takeTokens k 0) d

/-- The cross-bay accesses of an operation start: lines that find tokens, with nobody waiting before them, take them, and the rest wait at their source bay. -/
def Device.crossStart (d : Device) (src tag op : Nat) (cross : List (Nat × Nat)) : Device :=
  cross.foldl (fun d (k, n) =>
    let have' := if (d.bay k).waits.isEmpty then min n ((d.tokensNow k).floor.toNat / 64) else 0
    let d1 := d.takeTokens k have'
    if have' < n then d1.modBay k fun b => { b with waits := b.waits ++ [⟨src, tag, op, n - have'⟩] } else d1) d

/-- Accesses of an operation still wait for tokens. -/
def Device.tokenWait (d : Device) (tag op : Nat) : Bool := d.bays.toList.any fun b => b.waits.any fun w => w.cmd == tag && w.op == op

/-- An operation's waiting accesses are given up. -/
def Device.dropWaits (d : Device) (tag op : Nat) : Device :=
  { d with bays := d.bays.map fun b => { b with waits := b.waits.filter fun w => !(w.cmd == tag && w.op == op) } }

/-! ### Working-copy windows (R297 to R300) -/

/-- The regions of the two sets, and the set current at acceptance. -/
structure Win where
  a : Nat
  b : Nat
  len : Nat
  cur : Nat
  deriving DecidableEq, Repr

/-- The physical set a resolved address lies in. -/
def Win.setOf (w : Win) (a : Nat) : Option Nat :=
  if w.a ≤ a ∧ a < w.a + w.len then some 0
  else if w.b ≤ a ∧ a < w.b + w.len then some 1
  else none

def Win.base (w : Win) (s : Nat) : Nat := if s = 0 then w.a else w.b

/-- Resolves an address read from a structure in physical set `from'`, or from a descriptor or outside both regions (none). -/
def Win.resolve (w : Win) (from' : Option Nat) (a : Nat) : Nat :=
  match w.setOf a with
  | none => a
  | some s =>
    let o := a - w.base s
    match from' with
    | some t => w.base t + o
    | none => w.base (if w.cur = 0 then s else 1 - s) + o

def Cmd.win (d : Device) (c : Cmd) : Win := ⟨c.setting d 0x703001, c.setting d 0x703002, c.setting d 0x703003, c.wset⟩

/-! ### Entries and records (R231, R243, R250) -/

/-- A little-endian field of a submission entry. -/
def ent (e : List Byte) (off n : Nat) : Nat := bytesNat e off n

def opcodeOf (e : List Byte) : Nat := ent e 0 1
def classOf (e : List Byte) : Nat := ent e 1 1 % 4
def isUrgent (e : List Byte) : Bool := classOf e == 2

/-- The size of a submission or completion queue (R226). -/
def Device.sqSize (d : Device) (q : Nat) : Nat := d.setting ((0x7100 + q) * 256 + 2)
def Device.cqSize (d : Device) (q : Nat) : Nat := d.setting ((0x7100 + q) * 256 + 4)
/-- The pair is high-priority. -/
def Device.highPair (d : Device) (q : Nat) : Bool := d.setting ((0x7100 + q) * 256 + 5) == 1

/-- Writes one 64-byte record into the pair's completion queue at its tail; byte 0 gets the phase (R243). -/
def Device.putRecord (d : Device) (q : Nat) (kind : Nat) (rest : List Byte) : Device :=
  let p := d.queue q
  let a := d.setting ((0x7100 + q) * 256 + 3) + 64 * p.cqTail
  let t := p.cqTail + 1
  let wrap := d.cqSize q ≤ t
  let b0 := BitVec.ofNat 8 (kind + if p.phase then 0x80 else 0)
  ({ d with host := d.host.write a (padTo 64 (b0 :: rest)) }).setQueue q
    { p with cqTail := if wrap then 0 else t, phase := if wrap then !p.phase else p.phase, reserved := p.reserved - 1, written := p.written + 1 }

/-- Signals an event: its counter grows modulo 2^32 (R237). -/
def Device.addEvent (d : Device) (e n : Nat) : Device :=
  if e < 4096 then { d with events := d.events.upd 0 e fun v => v + BitVec.ofNat 32 n } else d

/-- A wait is satisfied (R237). -/
def waitDone (counter : W32) (want : Nat) : Bool := 0 ≤ (counter - BitVec.ofNat 32 want).toInt

/-! ### Times and rates -/

/-- Nanoseconds rounded up. -/
def nsOf (x : Q) : Nat := x.ceil.toNat

/-- The published floor in beats per nanosecond (R244). -/
def Device.floorQ (d : Device) : Q := Q.frac d.pace.published 1000

def Device.tilesInService (d : Device) (k : Nat) : Nat := if d.bayOut k then 0 else 1280

end Sys2Proof.Machine
end

