-- ==== Sys2Proof/Machine/Random.lean ====
section
/-! DEFINITION. The random streams of R191 and the draws of R192 and R193. -/

namespace Sys2Proof.Machine

/-- The 64-bit finaliser (R191). -/
def mix64 (z0 : W64) : W64 :=
  let z1 := (z0 ^^^ (z0 >>> 30)) * 0xBF58476D1CE4E5B9#64
  let z2 := (z1 ^^^ (z1 >>> 27)) * 0x94D049BB133111EB#64
  z2 ^^^ (z2 >>> 31)

/-- A stream's 128-bit state. -/
structure RngState where
  lo : W64
  hi : W64
  deriving DecidableEq, Repr

/-- Seeds a stream from key, step, tag and index (R191). -/
def rngSeed (key step : W64) (tag : W32) (index : W64) : RngState :=
  let a := mix64 (key + 0x9E3779B97F4A7C15#64)
  let b := mix64 (a ^^^ step)
  let c := mix64 (b ^^^ tag.setWidth 64)
  let lo := mix64 (c ^^^ index)
  let hi := mix64 (lo + 0x9E3779B97F4A7C15#64)
  if lo = 0 ∧ hi = 0 then ⟨1, hi⟩ else ⟨lo, hi⟩

/-- The feedback step of one draw. -/
def rngNext (s : RngState) : RngState :=
  let x1 := s.lo ^^^ (s.lo <<< 23)
  let x2 := x1 ^^^ (x1 >>> 17)
  ⟨s.hi, x2 ^^^ s.hi ^^^ (s.hi >>> 26)⟩

/-- The scrambled 32-bit output after a step. -/
def rngOut (s : RngState) : W32 :=
  let z := s.lo + s.hi
  (((z ^^^ (z >>> 29)) * 0xBF58476D1CE4E5B9#64) >>> 32).setWidth 32

/-- The state after `n` further steps. -/
def rngSkip : Nat → RngState → RngState
  | 0, s => s
  | n + 1, s => rngSkip n (rngNext s)

/-- Draw `n` of a stream. -/
def draw (key step : W64) (tag : W32) (index : W64) (n : Nat) : W32 :=
  rngOut (rngSkip (n + 1) (rngSeed key step tag index))

/-- σ[j] = −1 (R61). -/
def sigmaNeg (seed : W64) (key : Nat) (j : Nat) : Bool :=
  (draw seed 0 (BitVec.ofNat 32 key) (BitVec.ofNat 64 j) 0).getLsbD 0

/-- The sign vector of a rotation of size n: true for −1. -/
def sigmaVec (seed : W64) (key n : Nat) : List Bool := (List.range n).map (sigmaNeg seed key)

/-- The binary32 pattern of (out >> 8) × 2^−24 (R193): exact, +0 for 0. -/
def uniformBits (out : W32) : W32 :=
  let k := out.toNat / 256
  if k = 0 then 0 else
    let e := k.log2
    BitVec.ofNat 32 ((e + 103) * 2 ^ 23 + (k * 2 ^ (23 - e) - 2 ^ 23))

end Sys2Proof.Machine
end

