-- ==== Sys2Proof/Machine/Quant.lean ====
section
/-! DEFINITION. The quantiser (chapter 03): control word, input conversion, smoothing, rotation, gutter extraction, block scale, encoding and counting. -/

namespace Sys2Proof.Machine

/-! ### The control word (R54) -/

structure QCtl where
  key : Nat
  ratioCode : Nat
  rotCode : Nat
  inverse : Bool
  rotKey : Nat
  shiftSrc : Nat
  smooth : Nat
  gutter : Bool
  target : Nat
  deriving DecidableEq, Repr

def qctl (w : Nat) : QCtl :=
  ⟨field w 63 48, field w 47 40, field w 39 37, w.testBit 36, field w 35 28, field w 27 26, field w 25 24, w.testBit 23, field w 4 0⟩

/-- The rotation size a code of [39:37] names; 0 for off (R54). -/
def rotSize (code : Nat) : Nat := [0, 32, 64, 128, 256].getD code 0

/-- The conditions of R54 and R55 that the word alone shows, with object 0x2040:01 as `statsBase`. -/
def qctlOk (w statsBase : Nat) : Bool :=
  let c := qctl w
  (c.ratioCode == 0 || 16 ≤ c.ratioCode) && c.rotCode ≤ 4 && c.shiftSrc != 3 && c.smooth != 3 && field w 22 5 == 0 &&
  isSheafFmt c.target && (c.shiftSrc != 2 || (c.key != 0xFFFF && statsBase != 0))

/-- The conditions of R54 on a table: its shift-vector flag and its inner length. -/
def qctlFits (w : Nat) (hasShift : Bool) (inner : Nat) : Bool :=
  let c := qctl w
  (c.shiftSrc == 0 || hasShift) && (c.rotCode == 0 || inner % rotSize c.rotCode == 0)

/-- The gutter ratio: a code of 0 selects object 0x2040:02 (R54). -/
def gutterRatio (c : QCtl) (dflt : Nat) : Q := Q.frac (if c.ratioCode = 0 then dflt else c.ratioCode) 16

/-! ### Steps 1 and 2 on a channel's run -/

/-- Values of a run with the flags the steps set. -/
structure QRun where
  xs : List QIn
  flags : Nat
  deriving DecidableEq, Repr

/-- Input conversion (R58). -/
def qConvert (rot : Bool) : Wide → QIn
  | .fin a => ⟨accVal a, none, false, false⟩
  | .nan => ⟨Q.zero, none, false, true⟩
  | .inf n => if rot then ⟨Q.zero, none, true, true⟩ else ⟨Q.zero, some n, false, false⟩

/-- rne() of an exact value into ACC36, as a value, and whether it saturated (R48). -/
def accQ (x : Q) : Q × Bool :=
  let r := accRound x false
  (accVal r.1, r.2)

/-- A usable smoothing factor (R59): positive, normal and finite. -/
def smoothOk (d : W32) : Bool := !(f32Neg d) && 0x00800000 ≤ f32Mag d && f32IsFinite d

/-- Step 1 at one position. -/
def smoothOne (mode : Nat) (d : W32) (x : QIn) : QIn × Nat :=
  let ok := smoothOk d
  let f := if ok then f32Val d else Q.one
  let bad := flagIf (!ok) fInvalid
  if x.inf.isSome then (x, bad)
  else
    let r := accQ (if mode = 1 then x.v.div f else x.v.mul f)
    ({ x with v := r.1 }, bad ||| flagIf r.2 fAccSat)

/-- Step 1: smoothing (R59). -/
def smoothRun (mode : Nat) (factors : List W32) (xs : List QIn) : QRun :=
  if mode = 0 then ⟨xs, 0⟩
  else
    let ys := xs.zipIdx.map fun (x, k) => smoothOne mode (factors.getD k 0) x
    ⟨ys.map (·.1), flagsOf (·.2) ys⟩

/-- One butterfly level of stride h on a group (R60). -/
def butterfly (h : Nat) (v : List Q) : List (Q × Bool) :=
  (List.range v.length).map fun i =>
    if (i / h) % 2 = 0 then accQ ((v.getD i Q.zero).add (v.getD (i + h) Q.zero))
    else accQ ((v.getD (i - h) Q.zero).sub (v.getD i Q.zero))

/-- The butterfly levels of strides h, 2h, … (`n` levels). -/
def butterflies : Nat → Nat → List Q → Bool → List Q × Bool
  | 0, _, v, s => (v, s)
  | n + 1, h, v, s =>
    let r := butterfly h v
    butterflies n (2 * h) (r.map (·.1)) (s || r.any (·.2))

/-- σ[j] × v[j]; an exact zero stays +0 (notes/assumptions/20). DEDUCED. -/
def applySigma (sigma : List Bool) (v : List Q) : List Q :=
  v.zipIdx.map fun (x, j) => if sigma.getD j false then x.neg else x

/-- The scale exponent of R60's table. -/
def rotScale (n : Nat) (inverse : Bool) : Nat := if inverse then (n.log2 + 1) / 2 else n.log2 / 2

/-- The transform of one group (R60). A zero it forms, one that the scaling rounds a negative value to as well, is +0 (notes/assumptions/20). DEDUCED. -/
def rotateGroup (n : Nat) (inverse : Bool) (sigma : List Bool) (v0 : List Q) : List Q × Bool :=
  let v1 := if inverse then applySigma sigma v0 else v0
  let r := butterflies n.log2 1 v1 false
  let v3 := r.1.map fun x => (accQ (x.scale (-(rotScale n inverse : Nat)))).1
  (if inverse then v3 else applySigma sigma v3, r.2)

/-- `cnt` consecutive pieces of `n` members of a list. -/
def chunks {α : Type} : Nat → Nat → List α → List (List α)
  | 0, _, _ => []
  | c + 1, n, xs => xs.take n :: chunks c n (xs.drop n)

/-- Step 2: rotation of size n, 0 for off (R60). -/
def rotateRun (n : Nat) (inverse : Bool) (sigma : List Bool) (xs : List QIn) : QRun :=
  if n = 0 then ⟨xs, 0⟩
  else
    let gs := (chunks (xs.length / n) n xs).map fun g =>
      let r := rotateGroup n inverse sigma (g.map (·.v))
      ((g.zip r.1).map fun (x, v) => { x with v := v }, r.2)
    ⟨(gs.map (·.1)).flatten, flagIf (gs.any (·.2)) fAccSat⟩

/-- Input conversion and steps 1 and 2 on a channel's run; the flags of R58 included. -/
def prepRun (c : QCtl) (factors : List W32) (sigma : List Bool) (xs : List Wide) : QRun :=
  let n := rotSize c.rotCode
  let x0 := xs.map (qConvert (n != 0))
  let s1 := smoothRun c.smooth factors x0
  let s2 := rotateRun n c.inverse sigma s1.xs
  ⟨s2.xs, s1.flags ||| s2.flags ||| flagIf (x0.any (·.inv)) fInvalid⟩

/-! ### Steps 3 to 6 on a block -/

/-- A written block: header (R25), 32 codes, two gutter entries (R28), the amax of R65. -/
structure QBlock where
  hdr : Nat
  codes : List Nat
  g0 : Nat
  g1 : Nat
  amax : Q
  deriving DecidableEq, Repr

/-- A block with nothing in it, as beyond a tensor's end (R42). -/
def QBlock.empty : QBlock := ⟨0, List.replicate 32 0, 0, 0, Q.zero⟩

/-- The largest magnitude of a list of (index, magnitude), lowest index first; none if the list is empty. -/
def largestMag : List (Nat × Q) → Option (Nat × Q)
  | [] => none
  | x :: r => some (r.foldl (fun a b => if a.2.lt b.2 then b else a) x)

def magOf (l : List (Nat × Q)) : Q := match largestMag l with | some x => x.2 | none => Q.zero

/-- Step 3, at most `n` extractions from the live elements (R63): the taken indexes in order, and what is left. -/
def extract (ratio : Q) : Nat → List (Nat × Q) → List Nat × List (Nat × Q)
  | 0, live => ([], live)
  | n + 1, live =>
    match largestMag live with
    | none => ([], live)
    | some (j, m) =>
      let rest := live.filter fun x => x.1 != j
      let r := magOf rest
      if r.isZero || !((ratio.mul r).lt m) then ([], live)
      else
        let t := extract ratio n rest
        (j :: t.1, t.2)

/-- Step 4: the block's S8 code (R65). -/
def pickScale (f : Nat) (shift : Int) (amax : Q) : Nat :=
  let need := amax.div ((fmtLargest f).scale shift)
  ((List.range' 1 255).find? fun q => need.le (s8Val q)).getD 0xFF

/-- Encoding and counting of one position (R64, R67, R68): code, gutter code, saturation, flush. -/
structure QPos where
  code : Nat
  gut : Option Nat
  sat : Bool
  flush : Bool
  deriving DecidableEq, Repr

def encodePos (f : Nat) (unit : Q) (taken : Bool) (x : QIn) : QPos :=
  match x.inf with
  | some n => ⟨largestCode f n, none, true, false⟩
  | none =>
    let y := x.v.div unit
    let g := encodeElem 0x09 y
    if taken && !g.zero then ⟨0, some g.code, g.sat || x.presat, false⟩
    else
      let c := encodeElem f y
      ⟨c.code, none, c.sat || x.presat, if f = 0 then x.v.isZero else c.zero && !x.v.isZero⟩

def gutterEntry (j : Nat) (p : Option QPos) : Nat :=
  match p with
  | some ⟨_, some g, _, _⟩ => j * 2 ^ 11 + g * 2 ^ 3
  | _ => 0

/-- Steps 3 to 6 on the positions of one block that lie within the channel (R57, R63 to R68). `ratio` none: gutter extraction off. -/
def quantBlock (f : Nat) (ratio : Option Q) (shift : Int) (inv : Bool) (xs : List QIn) : QBlock :=
  let inval := inv || xs.any (·.inv)
  let invBit := if inval then 2 else 0
  let live := (xs.zipIdx.filter fun (x, _) => x.inf.isNone).map fun (x, j) => (j, x.v.abs)
  let t := match ratio with | some r => extract r 2 live | none => ([], live)
  let amax := magOf t.2
  if amax.isZero && !(xs.any fun x => x.inf.isSome || x.presat) then { QBlock.empty with hdr := invBit }
  else
    let q := pickScale f shift amax
    let unit := (s8Val q).scale shift
    let ps := xs.zipIdx.map fun (x, j) => encodePos f unit (t.1.contains j) x
    let e := fun (i : Nat) => match t.1[i]? with | some j => gutterEntry j ps[j]? | none => 0
    let sat := min 7 (ps.countP (·.sat))
    let fl := min 7 (ps.countP (·.flush))
    let gp := if e 0 != 0 || e 1 != 0 then 1 else 0
    ⟨q * 2 ^ 8 + sat * 2 ^ 5 + fl * 2 ^ 2 + invBit + gp, ps.map (·.code) ++ List.replicate (32 - xs.length) 0, e 0, e 1, amax⟩

/-! ### Sheaves from prepared positions -/

/-- A sheaf as encoded: bytes, saturation and flush sums (R103), flags, and the largest magnitude of R75 for each block with its channel. -/
structure SheafOut where
  bytes : List Byte
  sat : Nat
  flush : Nat
  flags : Nat
  amax : List (Nat × Q)
  deriving DecidableEq, Repr

/-- One position of an FP32 sheaf (R50, R56). -/
def f32Pos (x : QIn) : W32 × Nat :=
  match x.inf with
  | some n => (f32Max n, fAccSat)
  | none =>
    let r := accToF32 (accRound x.v false).1
    (r.1, flagIf r.2 fAccSat)

/-- Encodes the blocks of one sheaf (at most 128) in format `f` (R31, R42, R45, R56, R57). -/
def encodeSheaf (f : Nat) (gutter : Bool) (ratio : Q) (bins : List BlockIn) : SheafOut :=
  if f = 0x18 then
    let ps := bins.map fun b => (b.xs.map f32Pos, b)
    let ws := (ps.map fun (p, _) => p.map (·.1) ++ List.replicate (32 - p.length) 0).flatten
    let bytes := (ws.map fun w => leBytes 4 w.toNat).flatten
    ⟨sheafSeal f false 0 false (padTo 16384 bytes), 0, 0, flagsOf (fun p => flagsOf (·.2) p.1) ps,
      bins.map fun b => (b.chan, (b.xs.filter (·.inf.isNone)).foldl (fun a x => a.max x.v.abs) Q.zero)⟩
  else
    let qs := bins.map fun b => quantBlock f (if gutter then some ratio else none) b.shift b.inv b.xs
    let all := qs ++ List.replicate (128 - qs.length) QBlock.empty
    let w := fmtWidth f
    let codes := (all.map fun q => leBytes (4 * w) (packCodes w q.codes)).flatten
    let hdrs := (all.map fun q => leBytes 2 q.hdr).flatten
    let guts := if gutter then (all.map fun q => leBytes 2 q.g0 ++ leBytes 2 q.g1).flatten else []
    let count := all.foldl (fun n q => n + (if q.g0 = 0 then 0 else 1) + (if q.g1 = 0 then 0 else 1)) 0
    ⟨sheafSeal f gutter count (all.any fun q => q.hdr.testBit 1) (codes ++ hdrs ++ guts),
      (all.map fun q => field q.hdr 7 5).sum, (all.map fun q => field q.hdr 4 2).sum, 0,
      (bins.zip qs).map fun (b, q) => (b.chan, q.amax)⟩

/-- The block inputs of one channel (R42, R57). -/
def channelBlocks (chan : Nat) (shift : Int) (inv : Bool) (xs : List QIn) : List BlockIn :=
  (chunks (ceilDiv xs.length 32) 32 xs).map fun b => ⟨chan, shift, inv, b⟩

end Sys2Proof.Machine
end

