-- ==== Sys2Proof/Machine/Operands.lean ====
section
/-! DEFINITION. Every operand form: sheaf tables and sheaves (R37 to R45), plain arrays (R47, R50, R51), operands quantised at load (R45, R462), preloads (R87), and the statistics a shift comes from (R71 to R76). -/

namespace Sys2Proof.Machine

/-! ### Sheaf tables (R40 to R44) -/

/-- A usable table header; `addr` and `shiftAddr` are resolved, `set` is the physical set the table lies in. -/
structure Table where
  addr : Nat
  set : Option Nat
  outer : Nat
  inner : Nat
  count : Nat
  hasShift : Bool
  shiftAddr : Nat
  deriving DecidableEq, Repr

/-- The padded inner length (R40). -/
def Table.lp (t : Table) : Nat := roundUp t.inner 32
/-- Blocks of one channel. -/
def Table.blocks (t : Table) : Nat := t.lp / 32

/-- ⌈outer × Lp / 4,096⌉ (R40). -/
def sheafCount (outer inner : Nat) : Nat := ceilDiv (outer * roundUp inner 32) 4096

/-- The header's fields, or none if it is unusable (R44). -/
def parseTable (w : Win) (addr : Nat) (h : List Byte) : Option Table :=
  let outer := bytesNat h 0 4
  let inner := bytesNat h 4 4
  let count := bytesNat h 8 4
  let flags := bytesNat h 0xC 4
  if outer = 0 ∨ inner = 0 ∨ 2 ^ 31 < inner ∨ count ≠ sheafCount outer inner ∨ 2 ≤ flags ∨ bytesNat h 0x18 8 ≠ 0 then none
  else
    let set := w.setOf addr
    some ⟨addr, set, outer, inner, count, flags == 1, w.resolve set (bytesNat h 0x10 8)⟩

/-- Reads the header at a resolved address. A table reached through a contribution list, or in host memory, at an address that is no multiple of 64 is read as it stands (notes/assumptions/40). DESIGN CHOICE. -/
def readTable (d : Device) (w : Win) (addr : Nat) : Except Nat Table :=
  match d.read addr 32 with
  | .error e => .error e
  | .ok h => match parseTable w addr h with | some t => .ok t | none => .error csTable

/-- A table entry (R41). -/
structure Entry where
  addr : Nat
  fmt : Nat
  gutter : Bool
  deriving DecidableEq, Repr

def Entry.size (e : Entry) : Nat := sheafSize e.fmt e.gutter

/-- The entry in a 64-bit word; none for the cases of R44. -/
def parseEntry (w : Win) (set : Option Nat) (x : Nat) : Option Entry :=
  let fmt := field x 4 0
  let g := x.testBit 5
  if field x 63 48 ≠ 0 ∨ !(isSheafFmt fmt) ∨ (fmt = 0x18 ∧ g) then none
  else some ⟨w.resolve set (field x 47 6 * 64), fmt, g⟩

def Table.entryAddr (t : Table) (j : Nat) : Nat := t.addr + 0x20 + 8 * j

def readEntry (d : Device) (w : Win) (t : Table) (j : Nat) : Except Nat Entry :=
  match d.read (t.entryAddr j) 8 with
  | .error e => .error e
  | .ok b => match parseEntry w t.set (leNat b) with | some e => .ok e | none => .error csTable

/-- The table, and an entry of it, as the bytes in memory have them, whether or not they can be read now: what tells which memory a command uses (R8, R207). -/
def rawTable (d : Device) (w : Win) (addr : Nat) : Option Table := parseTable w addr (d.mem.read addr 32)
def rawEntry (d : Device) (w : Win) (t : Table) (j : Nat) : Option Entry := parseEntry w t.set (d.mem.nat (t.entryAddr j) 8)

/-- Rewrites bits [5:0] of entry j (R43). -/
def writeEntryForm (d : Device) (t : Table) (j fmt : Nat) (gutter : Bool) : Except Nat Device :=
  match d.read (t.entryAddr j) 1 with
  | .error e => .error e
  | .ok b => d.write (t.entryAddr j) (leBytes 1 (leNat b / 64 * 64 + (if gutter then 32 else 0) + fmt))

/-- The shift byte of a channel; 0 without a shift vector (R22). -/
def readShift (d : Device) (t : Table) (c : Nat) : Except Nat Nat :=
  if t.hasShift then match d.read (t.shiftAddr + c) 1 with | .ok b => .ok (leNat b) | .error e => .error e
  else .ok 0

/-! ### Sheaves (R31, R37, R39, R332) -/

/-- A sheaf open to reading: its place and whether it is malformed. -/
structure SheafAt where
  e : Entry
  bad : Bool
  deriving DecidableEq, Repr

/-- Tests a sheaf before any element of it is used: that it can be read, its check where it is verified, then its descriptor. -/
def openSheaf (d : Device) (e : Entry) (verify : Bool) : Except Nat SheafAt :=
  match d.read e.addr e.size with
  | .error x => .error x
  | .ok bs =>
    if verify && !(sheafCheckOk bs) then .error csCheck
    else .ok ⟨e, sheafMalformed e.fmt e.gutter (bytesNat bs (e.size - 8) 4)⟩

/-- Block b of a narrow sheaf in memory; zeros of a malformed one. -/
def memBlock (d : Device) (s : SheafAt) (b shiftByte active : Nat) : BlockVal :=
  if s.bad then BlockVal.zero
  else
    let w := fmtWidth s.e.fmt
    let a := s.e.addr
    let gut := if s.e.gutter then
        some (d.mem.nat (a + 512 * w + 256 + 4 * b) 2, d.mem.nat (a + 512 * w + 256 + 4 * b + 2) 2) else none
    blockDec s.e.fmt (d.mem.nat (a + 512 * w + 2 * b) 2) (d.mem.nat (a + 4 * w * b) (4 * w)) gut shiftByte active

/-- The n FP32 words from position p of an FP32 sheaf in memory. -/
def memWords (d : Device) (s : SheafAt) (p n : Nat) : List W32 :=
  if s.bad then List.replicate n 0 else (List.range n).map fun i => BitVec.ofNat 32 (d.mem.nat (s.e.addr + 4 * (p + i)) 4)

/-- The positions of block q that lie within a channel of length L. -/
def activeOf (inner q : Nat) : Nat := min 32 (inner - 32 * q)

/-! ### Plain arrays (R47, R49, R51) -/

/-- Bytes of an element of a plain array. -/
def arrayStride (code : Nat) : Nat := if code = 0x19 then 5 else 4

/-- FP32 into a quantiser or an array (R58). -/
def wideOfF32 (w : W32) : Wide :=
  if f32IsNaN w then .nan else if f32IsInf w then .inf (f32Neg w) else .fin (accPlusZero (f32ToAcc w).acc)

/-- Elements i to i + n − 1 of a plain array, as wide values. -/
def readWide (d : Device) (code base i n : Nat) : Except Nat (List Wide) :=
  let k := arrayStride code
  match d.read (base + k * i) (k * n) with
  | .error e => .error e
  | .ok bs => .ok ((List.range n).map fun j =>
      let x := bytesNat bs (k * j) k
      if code = 0x19 then .fin (accPlusZero (BitVec.ofNat 36 x)) else wideOfF32 (BitVec.ofNat 32 x))

/-- An ACC36 value as the bytes of an output element, with the flags of R50. -/
def arrayBytes (code : Nat) (a : Acc) : List Byte × Nat :=
  if code = 0x19 then (leBytes 5 a.toNat, 0)
  else let r := accToF32 a; (leBytes 4 r.1.toNat, flagIf r.2 fAccSat)

/-! ### The statistics table (R73 to R76) -/

/-- What a statistics directory entry says. -/
structure StatRow where
  stamps : List Nat
  chans : Nat
  row : Nat
  deriving DecidableEq, Repr

def readStat (d : Device) (w : Win) (base key : Nat) : Except Nat StatRow :=
  let a := base + 32 * key
  match d.read a 32 with
  | .error e => .error e
  | .ok b => .ok ⟨[bytesNat b 0 4, bytesNat b 4 4], bytesNat b 8 4, w.resolve (w.setOf a) (bytesNat b 0x10 8)⟩

def StatRow.slot (r : StatRow) (i : Nat) : Nat := r.row + if i = 0 then 0 else 64 * ceilDiv (2 * r.chans) 64

/-- The auto shift of a channel for format `f` (R71, R75, R76), with the statistics-mismatch flag. -/
def autoShift (d : Device) (w : Win) (base key step outer c f : Nat) : Except Nat (Int × Nat) :=
  if base = 0 ∨ key = 0xFFFF then .ok (0, 0)
  else
    match readStat d w base key with
    | .error e => .error e
    | .ok r =>
      if r.chans = 0 then .ok (0, 0)
      else if r.chans ≠ outer then .ok (0, fStats)
      else
        let prev := (step + 2 ^ 64 - 1) % 2 ^ 64
        if r.stamps.getD (prev % 2) 0 ≠ prev % 2 ^ 32 then .ok (0, 0)
        else
          match d.read (r.slot (prev % 2) + 2 * c) 2 with
          | .error e => .error e
          | .ok b =>
            if leNat b = 0x8000 ∨ f = 0x18 then .ok (0, 0)
            else .ok (clampInt (signed 16 (leNat b) - fmtLargestLog f) (-127) 127, 0)

/-! ### Array operands -/

/-- An array operand: its table, declared class, operand-load control word and smoothing vector (R234, R235). -/
structure Operand where
  tab : Table
  cls : Nat
  lctl : QCtl
  smooth : Nat
  deriving DecidableEq, Repr

/-- What every operand of a command is read with: windows, whether checks are verified (R332), the rotation seed, the statistics base and the step counter. -/
structure ReadCtx where
  win : Win
  verify : Bool
  rotSeed : W64
  stats : Nat
  step : Nat
  deriving DecidableEq, Repr

/-- A block as the arrays take it, with flags and the counts of R102 for a block quantised at load. -/
structure Loaded where
  blk : BlockVal
  flags : Nat
  sat : Nat
  flush : Nat
  deriving DecidableEq, Repr

/-- The sheaf holding block q of channel c, its class tested (R132). -/
def operandSheaf (d : Device) (x : ReadCtx) (o : Operand) (c q : Nat) : Except Nat SheafAt :=
  match readEntry d x.win o.tab ((c * o.tab.blocks + q) / 128) with
  | .error e => .error e
  | .ok e => if o.cls < widthClass e.fmt e.gutter then .error csTooWide else openSheaf d e x.verify

/-- The words of block q of channel c, which must lie in an FP32 sheaf (R462). -/
def loadWords (d : Device) (x : ReadCtx) (o : Operand) (c q : Nat) : Except Nat (List W32 × Bool) :=
  match operandSheaf d x o c q with
  | .error e => .error e
  | .ok s =>
    if s.e.fmt ≠ 0x18 then .error csTable
    else .ok (memWords d s ((c * o.tab.blocks + q) % 128 * 32) (activeOf o.tab.inner q), s.bad)

/-- Results of a list of reads, or the first error. -/
def allOk {α β : Type} (f : α → Except Nat β) : List α → Except Nat (List β)
  | [] => .ok []
  | a :: as =>
    match f a with
    | .error e => .error e
    | .ok b => match allOk f as with | .error e => .error e | .ok bs => .ok (b :: bs)

/-- The factors of positions p to p + n − 1 of a smoothing vector. -/
def readFactors (d : Device) (mode addr p n : Nat) : Except Nat (List W32) :=
  if mode = 0 then .ok []
  else
    match d.read (addr + 4 * p) (4 * n) with
    | .error e => .error e
    | .ok bs => .ok ((List.range n).map fun i => BitVec.ofNat 32 (bytesNat bs (4 * i) 4))

/-- The channel shift of an operand quantised at load (R45, R69, R70): shift, R70's invalid mark, flags. -/
def loadShift (d : Device) (x : ReadCtx) (o : Operand) (c : Nat) : Except Nat (Int × Bool × Nat) :=
  if o.lctl.shiftSrc = 1 then
    match readShift d o.tab c with
    | .error e => .error e
    | .ok s => if s = 0x80 then .ok (0, true, fInvalid) else .ok (signed 8 s, false, 0)
  else if o.lctl.shiftSrc = 2 then
    match autoShift d x.win x.stats o.lctl.key x.step o.tab.outer c 0x0A with
    | .error e => .error e
    | .ok r => .ok (r.1, false, r.2)
  else .ok (0, false, 0)

/-- Block q of channel c quantised to F8W at load (R45, R462). -/
def loadQuantised (d : Device) (x : ReadCtx) (o : Operand) (c q : Nat) : Except Nat Loaded :=
  let n := rotSize o.lctl.rotCode
  let per := max 1 (n / 32)
  let q0 := q / per * per
  match allOk (loadWords d x o c) (List.range' q0 per) with
  | .error e => .error e
  | .ok ws =>
    let words := (ws.map (·.1)).flatten
    match readFactors d o.lctl.smooth o.smooth (32 * q0) words.length with
    | .error e => .error e
    | .ok fs =>
      match loadShift d x o c with
      | .error e => .error e
      | .ok (sh, inv, fl) =>
        let run := prepRun o.lctl fs (sigmaVec x.rotSeed o.lctl.rotKey n) (words.map wideOfF32)
        let b := quantBlock 0x0A none sh inv ((run.xs.drop (32 * (q - q0))).take 32)
        let v := blockDec 0x0A b.hdr (packCodes 8 b.codes) none (unsigned 8 sh) 32
        .ok ⟨v, run.flags ||| fl ||| flagIf v.invalid fInvalid ||| flagIf (ws.any (·.2)) fMalformed,
          field b.hdr 7 5, field b.hdr 4 2⟩

/-- Block q of channel c of an array operand. -/
def loadBlock (d : Device) (x : ReadCtx) (o : Operand) (c q : Nat) : Except Nat Loaded :=
  if o.tab.blocks ≤ q ∨ o.tab.outer ≤ c then .ok ⟨BlockVal.zero, 0, 0, 0⟩
  else
    match operandSheaf d x o c q with
    | .error e => .error e
    | .ok s =>
      if s.e.fmt = 0x18 then loadQuantised d x o c q
      else
        match readShift d o.tab c with
        | .error e => .error e
        | .ok sh =>
          let v := memBlock d s ((c * o.tab.blocks + q) % 128) sh (activeOf o.tab.inner q)
          .ok ⟨v, flagIf v.invalid fInvalid ||| flagIf s.bad fMalformed, 0, 0⟩

/-! ### Reading a tensor element by element (R87, R233, R278) -/

/-- Block q of channel c of a sheaf tensor, each value in ACC36 (R13, R51, R80), with flags. -/
def tensorBlock (d : Device) (x : ReadCtx) (t : Table) (c q : Nat) : Except Nat (Flagged (List Acc)) :=
  match readEntry d x.win t ((c * t.blocks + q) / 128) with
  | .error e => .error e
  | .ok e =>
    match openSheaf d e x.verify with
    | .error er => .error er
    | .ok s =>
      let act := activeOf t.inner q
      if e.fmt = 0x18 then
        let rs := (memWords d s ((c * t.blocks + q) % 128 * 32) act).map f32ToAcc
        .ok ⟨rs.map (·.acc), flagIf s.bad fMalformed ||| flagIf (rs.any (·.sat)) fAccSat ||| flagIf (rs.any (·.invalid)) fInvalid⟩
      else
        match readShift d t c with
        | .error er => .error er
        | .ok sh =>
          let v := memBlock d s ((c * t.blocks + q) % 128) sh act
          .ok ⟨(List.range act).map fun j => (accRound (v.at' j) false).1, flagIf v.invalid fInvalid ||| flagIf s.bad fMalformed⟩

/-- Position n of channel c of a sheaf tensor in ACC36, with the flags of that value: an FP32 value has flags of its own, a narrow one those of its block (R18, R51, R93). -/
def tensorElem (d : Device) (x : ReadCtx) (t : Table) (c n : Nat) : Except Nat (Flagged Acc) :=
  match readEntry d x.win t ((c * t.blocks + n / 32) / 128) with
  | .error e => .error e
  | .ok e =>
    if e.fmt = 0x18 then
      match openSheaf d e x.verify with
      | .error er => .error er
      | .ok s =>
        let r := f32ToAcc ((memWords d s ((c * t.blocks + n / 32) % 128 * 32 + n % 32) 1).headD 0)
        .ok ⟨r.acc, flagIf s.bad fMalformed ||| flagIf r.sat fAccSat ||| flagIf r.invalid fInvalid⟩
    else
      match tensorBlock d x t c (n / 32) with
      | .error er => .error er
      | .ok b => .ok ⟨b.v.getD (n % 32) accZero, b.flags⟩

/-- A whole channel of a sheaf tensor in ACC36. -/
def tensorChannel (d : Device) (x : ReadCtx) (t : Table) (c : Nat) : Except Nat (Flagged (List Acc)) :=
  match allOk (tensorBlock d x t c) (List.range t.blocks) with
  | .error e => .error e
  | .ok bs => .ok ⟨(bs.map (·.v)).flatten, flagsOf (·.flags) bs⟩

/-- The preload of output element (m, n) (R87), `cols` the output's inner length. -/
def readPreload (d : Device) (x : ReadCtx) (f : FoldCtl) (addr m n cols : Nat) : Except Nat (Flagged Acc) :=
  if f.pre = 0 then .ok ⟨accZero, 0⟩
  else
    let row := if f.pre = 1 then 0 else m
    if isSheafFmt f.preFmt then
      match readTable d x.win addr with
      | .error e => .error e
      | .ok t =>
        tensorElem d x t row n
    else
      let k := arrayStride f.preFmt
      match d.read (addr + k * (row * cols + n)) k with
      | .error e => .error e
      | .ok b =>
        if f.preFmt = 0x19 then .ok ⟨BitVec.ofNat 36 (leNat b), 0⟩
        else let r := f32ToAcc (BitVec.ofNat 32 (leNat b)); .ok ⟨r.acc, flagIf r.sat fAccSat ||| flagIf r.invalid fInvalid⟩

/-- The context in which a command reads its operands, on a tile of bay `k` (R332). -/
def Cmd.readCtx (d : Device) (c : Cmd) (k : Nat) : ReadCtx :=
  ⟨c.win d, (d.bay k).degraded, BitVec.ofNat 64 (c.setting d 0x206001), c.setting d 0x204001, c.step.toNat⟩

end Sys2Proof.Machine
end

