-- ==== Sys2Proof/Machine/Output.lean ====
section
/-! DEFINITION. Narrow outputs: channel shifts, statistics, the sheaves as written, range watch, re-execution and the layer-key ledger (R43, R69 to R77, R102 to R118). -/

namespace Sys2Proof.Machine

/-! ### The fall-back chains (R108, R116) -/

/-- One step of a chain; none where it ends. -/
def chainNext (d : Device) (c : Cmd) (act : Bool) (f : Nat) : Option Nat :=
  if 0x0B < f then none
  else
    let g := c.setting d ((if act then 0x2054 else 0x2053) * 256 + f + 1)
    if g = fmtNone then none else some g

/-- chain^n(f), or the last format reached with false where the chain ends before. -/
def chainSteps (d : Device) (c : Cmd) (act : Bool) : Nat → Nat → Nat × Bool
  | 0, f => (f, true)
  | n + 1, f => match chainNext d c act f with | none => (f, false) | some g => chainSteps d c act n g

/-- The format a command encodes in (R116). -/
def encodedFmt (d : Device) (c : Cmd) (l : LedgerUse) (target : Nat) : Nat := (chainSteps d c l.activation l.rung target).1

/-- The fall-back format, where one is permitted (R116). -/
def fallbackFmt (d : Device) (c : Cmd) (l : LedgerUse) (target : Nat) : Option Nat :=
  let r := chainSteps d c l.activation l.rung target
  if r.2 ∧ l.rung + 1 ≤ l.ceiling then chainNext d c l.activation r.1 else none

/-! ### The range ledger (R114 to R118) -/

def LedgerUse.noEntry : LedgerUse := ⟨0, false, false, 0, 1, false, false⟩

def rungCeiling (x : Nat) : Nat := if x ≤ 1 then 1 else x

/-- R115's tests on an entry's bytes. -/
def ledgerUsable (b : List Byte) : Bool :=
  let c := rungCeiling (bytesNat b 6 1)
  bytesNat b 4 1 ≤ 3 && bytesNat b 5 1 ≤ 3 && bytesNat b 6 1 ≤ 3 && bytesNat b 4 1 ≤ c && bytesNat b 5 1 ≤ c &&
  bytesNat b 7 1 < 8 && bytesNat b 0xA 2 == 0

/-- An entry's bytes after its open step is closed for step `s` (R117). Clean steps stop at 0xFFFF, where R117 says nothing (notes/assumptions/42). DESIGN CHOICE. -/
def closeStep (n s : Nat) (b : List Byte) : List Byte :=
  if bytesNat b 0 4 = s % 2 ^ 32 then b
  else
    let fl := bytesNat b 7 1
    let rung := bytesNat b 4 1
    let clean := bytesNat b 8 2
    let dirty := fl.testBit 2
    let clean1 := if dirty then 0 else if 0 < rung then stopAdd 16 clean 1 else clean
    let down := !dirty && decide (0 < rung) && decide (1 ≤ n) && decide (n ≤ clean1)
    let next := if down then rung - 1 else bytesNat b 5 1
    leBytes 4 s ++ leBytes 1 next ++ leBytes 1 next ++ leBytes 1 (bytesNat b 6 1) ++ leBytes 1 (if dirty then fl - 4 else fl) ++
      leBytes 2 (if down then 0 else clean1) ++ b.drop 0xA

/-- The ledger at a command's acceptance (R115, R117): the entry is closed for the step and its rung taken. An entry that cannot be read fails the command when it runs (R203, R216). -/
def ledgerOpen (d : Device) (key step : Nat) : Device × LedgerUse :=
  let base := d.setting 0x205001
  if key = 0xFFFF ∨ base = 0 then (d, LedgerUse.noEntry)
  else
    match d.read (base + 32 * key) 32 with
    | .error s => (d, { LedgerUse.noEntry with fault := s })
    | .ok b =>
      if !(ledgerUsable b) then (d, { LedgerUse.noEntry with bad := true })
      else
        let b' := closeStep (d.setting 0x205003) step b
        (d.store (base + 32 * key) b', ⟨0, true, false, bytesNat b' 4 1, rungCeiling (bytesNat b' 6 1), (bytesNat b' 7 1).testBit 0, (bytesNat b' 7 1).testBit 1⟩)

/-- The status that reading a ledger entry gives, where it gives one: at acceptance, or now (R203, R216). -/
def ledgerFault (d : Device) (c : Cmd) : List (Nat × LedgerUse) → Option Nat
  | [] => none
  | (key, l) :: r =>
    if l.fault ≠ 0 then some l.fault
    else if l.usable then
      match d.read (c.setting d 0x205001 + 32 * key) 32 with
      | .error s => some s
      | .ok _ => ledgerFault d c r
    else ledgerFault d c r

/-- The ledger at a command's completion (R118) for one output: the device, and whether the entry became unusable. -/
def ledgerClose (d : Device) (c : Cmd) (key : Nat) (l : LedgerUse) (o : OutStat) : Device × Bool :=
  if !l.usable then (d, l.bad)
  else
    let a := c.setting d 0x205001 + 32 * key
    match d.read a 32 with
    | .error _ => (d, true)
    | .ok b =>
      if !(ledgerUsable b) then (d, true)
      else
        let fl := bytesNat b 7 1
        let promote := decide (0 < o.excess) || o.after
        let up := min (bytesNat b 4 1 + 1) (rungCeiling (bytesNat b 6 1))
        let next := if promote then up else bytesNat b 5 1
        let tot := fun (off n : Nat) => leBytes 4 (stopAdd 32 (bytesNat b off 4) n)
        let b' := b.take 5 ++ leBytes 1 next ++ leBytes 1 (bytesNat b 6 1) ++
          leBytes 1 (if 0 < o.tripped then fl ||| 4 else fl) ++ leBytes 2 (if promote then 0 else bytesNat b 8 2) ++ leBytes 2 0 ++
          tot 0xC o.watched ++ tot 0x10 o.sat ++ tot 0x14 o.flush ++ tot 0x18 o.tripped ++ tot 0x1C o.excess
        let d1 := d.store a b'
        (if promote && bytesNat b 5 1 < up then d1.count 0x804004 1 else d1, false)

/-! ### Output shifts and statistics -/

/-- What R69 to R72 give a channel: shift and the invalid mark of R70. -/
structure ChanShift where
  shift : Int
  inv : Bool
  deriving DecidableEq, Repr

/-- The shift of channel `ch` of an output encoded in format f; the byte its vector gets; flags. -/
def outShift (d : Device) (x : ReadCtx) (q : QCtl) (t : Table) (f ch : Nat) : Except Nat (ChanShift × Nat × Nat) :=
  if q.shiftSrc = 1 then
    match readShift d t ch with
    | .error e => .error e
    | .ok s =>
      if s = 0x80 then .ok (⟨0, true⟩, 0, fInvalid)
      else .ok (⟨if f = 0x18 then 0 else signed 8 s, false⟩, s, 0)
  else if q.shiftSrc = 2 then
    match autoShift d x.win x.stats q.key x.step t.outer ch f with
    | .error e => .error e
    | .ok r => .ok (⟨r.1, false⟩, unsigned 8 r.1, r.2)
  else .ok (⟨0, false⟩, 0, 0)

/-- The larger of a stored statistics value and a new exponent (R75). -/
def statMerge (old : Nat) (e : Int) : Nat := if signed 16 old < e then unsigned 16 e else old

/-- Records the channels' largest magnitudes (R75, R76): the device, and the statistics-mismatch flag. A command none of whose channels has a value counts as a first write all the same (notes/assumptions/42). DESIGN CHOICE. -/
def recordStats (d : Device) (x : ReadCtx) (key outer : Nat) (amax : List Q) : Except Nat (Device × Nat) :=
  if x.stats = 0 ∨ key = 0xFFFF then .ok (d, 0)
  else
    match readStat d x.win x.stats key with
    | .error e => .error e
    | .ok r =>
      if r.chans = 0 then .ok (d, 0)
      else if r.chans ≠ outer then .ok (d, fStats)
      else
        let i := x.step % 2
        let fresh := r.stamps.getD i 0 ≠ x.step % 2 ^ 32
        match d.read (r.slot i) (2 * r.chans) with
        | .error e => .error e
        | .ok old =>
          let vals := amax.zipIdx.map fun (a, ch) =>
            let o := if fresh then 0x8000 else bytesNat old (2 * ch) 2
            if a.isZero then o else statMerge o a.ilog2
          match d.write (r.slot i) (vals.map (leBytes 2)).flatten with
          | .error e => .error e
          | .ok d1 => .ok (if fresh then d1.store (x.stats + 32 * key + 4 * i) (leBytes 4 x.step) else d1, 0)

/-! ### Range watch (R102 to R113) -/

/-- A sheaf's sums pass the thresholds of its format (R104). -/
def trips (d : Device) (c : Cmd) (f sat flush : Nat) : Bool :=
  let ts := c.setting d (0x2051 * 256 + f + 1)
  let tf := c.setting d (0x2052 * 256 + f + 1)
  (ts != 0xFFFF && ts < sat) || (tf != 0xFFFF && tf < flush)

/-- The allowance code in force (R109). -/
def allowanceCode (d : Device) (c : Cmd) : Nat :=
  let x := ent c.entry 2 1
  if x = 0 then c.setting d 0x205002 else x

/-- ⌈S × p⌉ sheaves (R110); an urgent command carries none (R247). -/
def allowanceOf (code : Nat) (urgent : Bool) (s : Nat) : Nat :=
  if urgent ∨ code = 0xFF then 0 else ceilDiv (s * code) 200

/-- One narrow output of a command: its number among the descriptor's outputs (R113), its table, control word, smoothing vector, and the values of a channel. -/
structure OutSpec where
  num : Nat
  tab : Table
  ctl : Nat
  smooth : Nat
  vals : List (List Wide)
  deriving DecidableEq, Repr

/-- Writes one sheaf at its entry's address and rewrites the entry (R43). -/
def writeSheaf (d : Device) (x : ReadCtx) (t : Table) (j f : Nat) (gutter : Bool) (bytes : List Byte) : Except Nat Device :=
  match readEntry d x.win t j with
  | .error e => .error e
  | .ok en =>
    match d.write en.addr bytes with
    | .error e => .error e
    | .ok d1 => writeEntryForm d1 t j f gutter

def writeSheaves (d : Device) (x : ReadCtx) (t : Table) (f : Nat) (gutter : Bool) : List (SheafOut × Nat) → Except Nat Device
  | [] => .ok d
  | (s, j) :: r =>
    match writeSheaf d x t j f gutter s.bytes with
    | .error e => .error e
    | .ok d1 => writeSheaves d1 x t f gutter r

/-- The block inputs of every channel (R42, R57), with flags. -/
def prepTensor (q : QCtl) (factors : List W32) (sigma : List Bool) (shifts : List ChanShift) (vals : List (List Wide)) : Flagged (List BlockIn) :=
  let runs := vals.zipIdx.map fun (v, ch) =>
    let r := prepRun q factors sigma v
    let s := shifts.getD ch ⟨0, false⟩
    (channelBlocks ch s.shift s.inv r.xs, r.flags)
  ⟨(runs.map (·.1)).flatten, flagsOf (·.2) runs⟩

/-- The largest magnitude of each channel (R75). -/
def channelMax (outer : Nat) (ss : List SheafOut) : List Q :=
  let all := (ss.map (·.amax)).flatten
  (List.range outer).map fun ch => (all.filter fun p => p.1 == ch).foldl (fun m p => m.max p.2) Q.zero

/-- Writes narrow output number `oi` and watches it; `allow` is the command's allowance, and the rank of a tripped sheaf counts those of earlier outputs too (R110). -/
def writeOutput (d : Device) (x : ReadCtx) (c : Cmd) (oi allow : Nat) (o : OutSpec) : Except Nat (Device × Cmd) :=
  let q := qctl o.ctl
  let l := c.ledger.getD oi LedgerUse.noEntry
  let f := encodedFmt d c l q.target
  let g := q.gutter && isNarrow f
  let ratio := gutterRatio q (c.setting d 0x204002)
  match allOk (outShift d x q o.tab f) (List.range o.tab.outer) with
  | .error e => .error e
  | .ok sh =>
    match readFactors d q.smooth o.smooth 0 o.tab.inner with
    | .error e => .error e
    | .ok fs =>
      match (if o.tab.hasShift then d.write o.tab.shiftAddr (sh.map fun s => BitVec.ofNat 8 s.2.1) else .ok d) with
      | .error e => .error e
      | .ok d1 =>
        let bins := prepTensor q fs (sigmaVec x.rotSeed q.rotKey (rotSize q.rotCode)) (sh.map (·.1)) o.vals
        let parts := chunks o.tab.count 128 bins.v
        let ss := parts.map (encodeSheaf f g ratio)
        match writeSheaves d1 x o.tab f g ss.zipIdx with
        | .error e => .error e
        | .ok d2 =>
          match recordStats d2 x q.key o.tab.outer (channelMax o.tab.outer ss) with
          | .error e => .error e
          | .ok (d3, sf) =>
            let bad := if isNarrow f then ss.zipIdx.filter fun (s, _) => trips d c f s.sat s.flush else []
            let fb := fallbackFmt d c l q.target
            let used := (c.outs.map fun s => s.reexec + s.excess).sum + c.trips.length
            let room := if l.off ∨ fb.isNone then 0 else allow - used
            let re := bad.take room
            let ex := if l.off ∨ fb.isNone then [] else bad.drop room
            let inv := bins.v.any fun b => b.inv || b.xs.any (·.inv)
            let stat : OutStat := ⟨if isNarrow f then o.tab.count else 0, bad.length, 0, ex.length, false,
              if isNarrow f then (ss.map (·.sat)).sum else 0, if isNarrow f then (ss.map (·.flush)).sum else 0⟩
            let low := match ex with | (_, j) :: _ => min c.lowest (o.num * 2 ^ 24 + j) | [] => c.lowest
            .ok ((d3.count 0x804001 bad.length).count 0x804003 ex.length, { c with
              flags := c.flags ||| flagsOf (fun s => s.2.2) sh ||| bins.flags ||| flagsOf (·.flags) ss ||| sf ||| flagIf inv fInvalid |||
                flagIf (!ex.isEmpty) fAllowance ||| flagIf (!l.off && fb.isNone && !bad.isEmpty) fNoWider ||| flagIf l.bad fLedger,
              outs := c.outs ++ [stat], lowest := low,
              trips := c.trips ++ re.map fun (s, j) => ⟨oi, j, fb.getD f, s.sat, s.flush, parts.getD j []⟩ })

/-- Writes the narrow outputs in descriptor order. -/
def writeOutputsFrom (d : Device) (x : ReadCtx) (c : Cmd) (allow : Nat) : List (OutSpec × Nat) → Except Nat (Device × Cmd)
  | [] => .ok (d, c)
  | (o, oi) :: r =>
    match writeOutput d x c oi allow o with
    | .error e => .error e
    | .ok (d1, c1) => writeOutputsFrom d1 x c1 allow r

/-- Watched sheaves of a command: those of its outputs whose encoded format is narrow (R110). -/
def watchedTotal (d : Device) (c : Cmd) (os : List OutSpec) : Nat :=
  (os.zipIdx.map fun (o, i) =>
    if isNarrow (encodedFmt d c (c.ledger.getD i LedgerUse.noEntry) (qctl o.ctl).target) then o.tab.count else 0).sum

def writeOutputs (d : Device) (x : ReadCtx) (c : Cmd) (os : List OutSpec) : Except Nat (Device × Cmd) :=
  writeOutputsFrom d x c (allowanceOf (allowanceCode d c) c.urgent (watchedTotal d c os)) os.zipIdx

/-- Quantises a tripped sheaf again in its fall-back format and rewrites it (R106, R107). -/
def reexecute (d : Device) (x : ReadCtx) (c : Cmd) (t : Trip) (o : OutSpec) : Except Nat (Device × Cmd) :=
  let q := qctl o.ctl
  let g := q.gutter && isNarrow t.fmt
  let s := encodeSheaf t.fmt g (gutterRatio q (c.setting d 0x204002)) t.bins
  match writeSheaf d x o.tab t.sheaf t.fmt g s.bytes with
  | .error e => .error e
  | .ok d1 =>
    let again := isNarrow t.fmt && trips d c t.fmt s.sat s.flush
    .ok (d1.count 0x804002 1, { c with
      flags := c.flags ||| s.flags ||| flagIf again fTripAfter, trips := c.trips.drop 1,
      outs := c.outs.modify t.out fun st =>
        { st with reexec := st.reexec + 1, after := st.after || again, sat := st.sat + s.sat - t.sat, flush := st.flush + s.flush - t.flush } })

end Sys2Proof.Machine
end

