-- ==== Sys2Proof/Machine/Lifecycle.lean ====
section
/-! DEFINITION. The life of a command's tile operations: their slots, tags and charges, and the failure of a command (R125, R244, R252, R255, R357). -/

namespace Sys2Proof.Machine

/-- The class of a command's operations. -/
def Bay.returnTally (b : Bay) (tag : Nat) : Bay :=
  if tag < 13824 then { b with tallyFree := tag :: b.tallyFree } else { b with tallyUrgentFree := tag :: b.tallyUrgentFree }

/-- A bay gets back what a tile operation held: tally tag, slot, and its charge in the backlog. -/
def Bay.opEnded (b : Bay) (urgent delivered : Bool) (o : TileOp) : Bay :=
  let b1 := match o.tally with | some t => b.returnTally t | none => b
  let b2 := if delivered then { b1 with slotsFree := b1.slotsFree + 1 } else b1
  if urgent then { b2 with urgentBacklog := b2.urgentBacklog - o.charge } else { b2 with tileBacklog := b2.tileBacklog - o.charge }

/-! ### The lanes of a tile (R123, R128, R142) -/

/-- Lane `i` of a tile: row i / 16 mod 16, column i mod 16 of array i / 256. -/
def Tile.lane (t : Tile) (i : Nat) : Lane := t.lanes.get Lane.zero i

/-- Changes lanes, each by its own value of a list. -/
def Tile.eachLane {α : Type} (t : Tile) (is : List Nat) (vs : List α) (f : Lane → α → Lane) : Tile :=
  { t with lanes := (is.zip vs).foldl (fun m p => m.upd Lane.zero p.1 fun l => f l p.2) t.lanes }

def Tile.runs (t : Tile) (is : List Nat) : List Acc := is.map fun i => (t.lane i).run
def Tile.setRuns (t : Tile) (is : List Nat) (vs : List Acc) : Tile := t.eachLane is vs fun l v => { l with run := v }

/-- A drain still reads the running accumulators. -/
def Tile.drainsLanes (t : Tile) : Bool := t.drains.any (·.inLanes)

/-- Once no drain reads the running accumulators, the values that the operation on the arrays starts or resumes with go into them (R142). -/
def Tile.settleStart (t : Tile) : Tile :=
  match t.arr with
  | none => t
  | some g =>
    if t.drainsLanes then t
    else
      let t1 := g.members.foldl (fun t m => match m.start with | some vs => t.setRuns m.lanes vs | none => t) t
      { t1 with arr := some { g with members := g.members.map fun m => { m with start := none } } }

/-- A member belongs to operation `i` of command `tag`. -/
def Member.hit (m : Member) (tag i : Nat) : Bool := m.cmd == tag && m.op == i

/-- A group without an operation; none where that was its last. -/
def ArrayGroup.without (g : ArrayGroup) (tag i : Nat) : Option ArrayGroup :=
  let ms := g.members.filter fun m => !(m.hit tag i)
  if ms.isEmpty then none else some { g with members := ms }

/-- A tile loses every trace of an operation. -/
def Tile.forget (t : Tile) (tag i : Nat) : Tile :=
  let hit := fun (c o : Nat) => c == tag && o == i
  Tile.settleStart { t with
    slots := t.slots.filter fun s => !(hit s.cmd s.op)
    arr := t.arr.bind fun g => g.without tag i
    pre := t.pre.bind fun g => g.without tag i
    drains := t.drains.filter fun d => !(d.mem.hit tag i)
    vu := t.vu.filter fun v => !(hit v.cmd v.op)
    snaps := (t.snaps.map fun s => { s with members := s.members.filter fun m => !(m.hit tag i) }).filter fun s => !s.members.isEmpty
    rowRecs := t.rowRecs.filter fun r => !(hit r.cmd r.op) }

def TileOp.delivered (o : TileOp) : Bool := o.state == .waiting || o.state == .running || o.state == .preempted

/-- Operation `i` of a command ends (R255): tally tag, slot and charge return. -/
def Device.endOp (d : Device) (tag i : Nat) : Device :=
  match d.cmd tag with
  | none => d
  | some c =>
    match c.ops[i]? with
    | none => d
    | some o =>
      if o.state = .ended then d
      else
        let d0 := d.dropWaits tag i
        let d1 := if o.delivered then d0.setTile (tileKey o.bay o.tile) ((d.tile (tileKey o.bay o.tile)).forget tag i) else d0
        (d1.modBay o.bay fun b => b.opEnded c.urgent o.delivered o).modCmd tag fun c =>
          { c with ops := c.ops.modify i fun o => { o with state := .ended, tally := none }, progressAt := d.now }

/-- Every operation of a command ends without more work. -/
def Device.dropOps (d : Device) (tag : Nat) : Device :=
  match d.cmd tag with
  | none => d
  | some c => (List.range c.ops.length).foldl (fun d i => d.endOp tag i) d

/-- A command fails (R252): the first failure stands, and its operations stop. An access that met a paused row only marks the command, for the step to be given up (R214). -/
def Device.failCmd (d : Device) (tag status cause bay : Nat) : Device :=
  match d.cmd tag with
  | none => d
  | some c =>
    if c.failure.isSome then d
    else if status = csHeld then d.modCmd tag fun c => { c with failure := some ⟨csHeld, 0, 0xFF⟩ }
    else
      let st := status % 0x10000
      let d1 := (d.dropOps tag).modCmd tag fun c => { c with failure := some ⟨st, cause, bay⟩, trips := [] }
      let d2 := if st = csData then (d1.count 0x805005 1).poisonEvent (status / 0x10000) else d1
      if st = csCheck then d2.count 0x80A005 1 else d2

/-- A read or write of a command's work failed with a status of R252. -/
def Device.failWith (d : Device) (tag status : Nat) : Device := d.failCmd tag status 0 0xFF

/-- Bays that still hold work of a command. -/
def Cmd.holdsBay (c : Cmd) (k : Nat) : Bool := c.ops.any fun o => o.bay == k && o.state != .ended

/-- A repeated piece of work (R250, R251): fault recovered, one more interruption. -/
def Cmd.interrupted (c : Cmd) : Cmd := { c with flags := c.flags ||| fRecovered, interruptions := min 255 (c.interruptions + 1) }

/-- The command's waits and fences are satisfied (R238, R240, R248). -/
def Device.mayRun (d : Device) (c : Cmd) : Bool :=
  let ev := ent c.entry 6 2
  (ev == 0xFFFF || waitDone (d.events.get 0 ev) (ent c.entry 8 4)) && c.fences.isEmpty

/-- Every operation has ended. -/
def Cmd.opsEnded (c : Cmd) : Bool := c.ops.all fun o => o.state == .ended

end Sys2Proof.Machine
end

