-- ==== Sys2Proof/Machine/Desc.lean ====
section
/-! DEFINITION. The descriptors of R233 to R235 as a running command reads them, its narrow outputs, and the ranges its outputs lie in. -/

namespace Sys2Proof.Machine

/-- A descriptor address after window resolution (R298). -/
def Cmd.addr (d : Device) (c : Cmd) (off : Nat) : Nat := (c.win d).resolve none (ent c.entry off 8)
/-- An address of the extension block (R235). -/
def Cmd.xaddr (d : Device) (c : Cmd) (off : Nat) : Nat := (c.win d).resolve none (bytesNat c.ext off 8)

/-- The bay in whose context a command's own work is done. -/
def Cmd.homeBay (c : Cmd) : Nat := match c.ops with | o :: _ => o.bay | [] => 0

/-! ### CONV geometry (R144 to R146) -/

structure Conv where
  kh : Nat
  kw : Nat
  sy : Nat
  sx : Nat
  dy : Nat
  dx : Nat
  pt : Nat
  pb : Nat
  pl : Nat
  pr : Nat
  h : Nat
  w : Nat
  batch : Nat
  ch : Nat
  deriving DecidableEq, Repr

def convOf (x : List Byte) : Conv :=
  let b := fun o => bytesNat x o 1
  ⟨b 0x28, b 0x29, b 0x2A % 16, b 0x2A / 16, b 0x2B % 16, b 0x2B / 16, b 0x2C, b 0x2D, b 0x2E, b 0x2F,
   bytesNat x 0x30 4, bytesNat x 0x34 4, bytesNat x 0x38 4, bytesNat x 0x3C 4⟩

/-- An output extent; 0 where the kernel does not fit. -/
def convOut (h pa pb dl k s : Nat) : Nat :=
  if h + pa + pb < dl * (k - 1) + 1 ∨ s = 0 then 0 else (h + pa + pb - dl * (k - 1) - 1) / s + 1

def Conv.ho (g : Conv) : Nat := convOut g.h g.pt g.pb g.dy g.kh g.sy
def Conv.wo (g : Conv) : Nat := convOut g.w g.pl g.pr g.dx g.kw g.sx
/-- The padded channel count. -/
def Conv.cp (g : Conv) : Nat := roundUp g.ch 32

/-- The geometry of R145. -/
def Conv.ok (g : Conv) : Bool :=
  let r := fun (x lo hi : Nat) => decide (lo ≤ x) && decide (x ≤ hi)
  r g.kh 1 15 && r g.kw 1 15 && r g.sy 1 4 && r g.sx 1 4 && r g.dy 1 4 && r g.dx 1 4 &&
  r g.pt 0 (g.dy * (g.kh - 1)) && r g.pb 0 (g.dy * (g.kh - 1)) && r g.pl 0 (g.dx * (g.kw - 1)) && r g.pr 0 (g.dx * (g.kw - 1)) &&
  r g.h 1 65536 && r g.w 1 65536 && r g.ch 1 65536 && r g.batch 1 65536 && decide (1 ≤ g.ho) && decide (1 ≤ g.wo)

/-- The input pixel that output pixel `m` meets at kernel position `p`; none outside the image (R146). -/
def Conv.pixel (g : Conv) (m p : Nat) : Option Nat :=
  let b := m / (g.ho * g.wo)
  let oy := m / g.wo % g.ho
  let ox := m % g.wo
  let iy : Int := (oy * g.sy + p / g.kw * g.dy : Nat) - (g.pt : Int)
  let ix : Int := (ox * g.sx + p % g.kw * g.dx : Nat) - (g.pl : Int)
  if p < g.kh * g.kw ∧ 0 ≤ iy ∧ iy < g.h ∧ 0 ≤ ix ∧ ix < g.w then some ((b * g.h + iy.toNat) * g.w + ix.toNat) else none

/-! ### Array commands (R234, R235, R458, R463) -/

/-- The fields ATTENTION adds. -/
structure Att where
  coef : W32
  pfmt : Nat
  mask : Nat
  maskAddr : Nat
  qBase : Nat
  kBase : Nat
  deriving DecidableEq, Repr

structure ArrayCmd where
  op : Nat
  fold : FoldCtl
  a : Operand
  b : Operand
  v : Operand
  rows : Nat
  cols : Nat
  /-- 32-element blocks of the segment's own reduction -/
  blocks : Nat
  container : Nat
  out : Nat
  outCtl : Nat
  smooth : Nat
  pre : Nat
  foldIn : Nat
  foldOut : Nat
  fused : Bool
  rowMax : Nat
  rowSum : Nat
  conv : Conv
  att : Att
  deriving DecidableEq, Repr

/-- The segment's own courses (R82, R463). -/
def ArrayCmd.courses (a : ArrayCmd) : Nat := ceilDiv a.blocks 8
def ArrayCmd.isAtt (a : ArrayCmd) : Bool := a.op == 2

/-- What an array entry says, its table headers read; a status of R252 where one cannot be used. -/
def arrayCmd (d : Device) (w : Win) (e x : List Byte) : Except Nat ArrayCmd :=
  let at' := fun o => w.resolve none (ent e o 8)
  let xa := fun o => w.resolve none (bytesNat x o 8)
  let op := opcodeOf e
  match readTable d w (at' 0x20), readTable d w (at' 0x28) with
  | .error s, _ => .error s
  | _, .error s => .error s
  | .ok ta, .ok tb =>
    let oa : Operand := ⟨ta, ent e 0x69 1 % 16, qctl (bytesNat x 0x08 8), xa 0x18⟩
    let ob : Operand := ⟨tb, ent e 0x69 1 / 16, qctl (bytesNat x 0x10 8), xa 0x20⟩
    let g := convOf x
    let fill := fun (v : Operand) (rows cols blocks : Nat) => (⟨op, foldCtl (ent e 0x40 8), oa, ob, v, rows, cols, blocks, ent e 0x68 1 % 32,
      at' 0x30, ent e 0x38 8, xa 0, at' 0x48, at' 0x50, at' 0x58, (ent e 0x6A 1).testBit 0, at' 0x70, at' 0x78, g,
      ⟨BitVec.ofNat 32 (bytesNat x 0x30 4), bytesNat x 0x34 1, bytesNat x 0x35 1, xa 0x38, bytesNat x 0x40 8, bytesNat x 0x48 8⟩⟩ : ArrayCmd)
    if op = 2 then
      match readTable d w (xa 0x28) with
      | .error s => .error s
      | .ok tv => .ok (fill ⟨tv, bytesNat x 0x36 1, qctl (bytesNat x 0x50 8), xa 0x58⟩ ta.outer tv.inner (ceilDiv tb.outer 32))
    else if op = 3 then .ok (fill ob (g.batch * g.ho * g.wo) tb.outer tb.blocks)
    else .ok (fill ob ta.outer tb.outer (max ta.blocks tb.blocks))

def Cmd.arrayCmd (d : Device) (c : Cmd) : Except Nat ArrayCmd := Machine.arrayCmd d (c.win d) c.entry c.ext

/-! ### Narrow outputs -/

/-- The channels of a gathered output. -/
def gathered (st : Store (Option Wide)) (outer inner : Nat) : List (List Wide) :=
  (List.range outer).map fun ch => (List.range inner).map fun i => (st.get none (ch * inner + i)).getD (.fin accZero)

def isArrayOp (op : Nat) : Bool := op == 1 || op == 2 || op == 3

/-- The output stream code of a recipe (R233). -/
def recipeCode (e : List Byte) (i : Nat) : Nat := ent e (0x6C + i) 1

/-- The sheaf outputs of a command under a quantiser control word, with what has been gathered for them. -/
def Cmd.outSpecs (d : Device) (c : Cmd) : Except Nat (List OutSpec) :=
  let op := opcodeOf c.entry
  let one := fun (num off ctl smooth : Nat) (st : Store (Option Wide)) =>
    match readTable d (c.win d) (c.addr d off) with
    | .error s => Except.error s
    | .ok t => .ok [(⟨num, t, ent c.entry ctl 8, smooth, gathered st t.outer t.inner⟩ : OutSpec)]
  if isArrayOp op then
    if ent c.entry 0x68 1 % 32 = fmtNone ∧ !(foldCtl (ent c.entry 0x40 8)).foldOut then one 0 0x30 0x38 (c.xaddr d 0) c.wide0 else .ok []
  else if op = 0x10 ∨ op = 0x43 then one 0 0x30 0x38 (c.addr d 0x40) c.wide0
  else if op = 0x13 then
    let s0 := if isNarrow (recipeCode c.entry 0) then one 0 0x48 0x58 0 c.wide0 else .ok []
    let s1 := if isNarrow (recipeCode c.entry 1) ∧ ent c.entry 0x50 8 ≠ 0 then one 1 0x50 0x60 0 c.wide1 else .ok []
    match s0, s1 with
    | .ok a, .ok b => .ok (a ++ b)
    | .error s, _ => .error s
    | _, .error s => .error s
  else if op = 0x30 ∧ ent c.entry 0x20 1 = 1 ∧ ent c.entry 0x23 1 = fmtNone ∧ ent c.entry 0x30 8 ≠ 0 then one 0 0x30 0x40 0 c.wide0
  else .ok []

/-- The layer keys of a command's narrow outputs in descriptor order. -/
def outKeys (e : List Byte) : List Nat :=
  let op := opcodeOf e
  let key := fun o => (qctl (ent e o 8)).key
  if isArrayOp op then (if ent e 0x68 1 % 32 = fmtNone ∧ !(foldCtl (ent e 0x40 8)).foldOut then [key 0x38] else [])
  else if op = 0x10 ∨ op = 0x43 then [key 0x38]
  else if op = 0x13 then
    (if isNarrow (recipeCode e 0) then [key 0x58] else []) ++ (if isNarrow (recipeCode e 1) ∧ ent e 0x50 8 ≠ 0 then [key 0x60] else [])
  else if op = 0x30 ∧ ent e 0x20 1 = 1 ∧ ent e 0x23 1 = fmtNone ∧ ent e 0x30 8 ≠ 0 then [key 0x40]
  else []

/-- The positions of an FP32-sheaf output's sheaf `j` that hold no element are zero (R42). -/
def wordsPadded (t : Table) (j : Nat) (bs : List Byte) : List Byte :=
  (bs.take 16384).zipIdx.map fun (b, i) =>
    let p := 4096 * j + i / 4
    if p / 32 / t.blocks < t.outer ∧ p / 32 % t.blocks * 32 + p % 32 < t.inner then b else 0#8

/-- The sheaves of an FP32-sheaf output get descriptor and check, and their entries their form (R35, R36, R42, R43). -/
def sealWords (d : Device) (x : ReadCtx) (t : Table) : List Nat → Except Nat Device
  | [] => .ok d
  | j :: js =>
    match readEntry d x.win t j with
    | .error s => .error s
    | .ok e =>
      match d.read e.addr 16384 with
      | .error s => .error s
      | .ok bs =>
        match writeSheaf d x t j 0x18 false (sheafSeal 0x18 false 0 false (wordsPadded t j bs)) with
        | .error s => .error s
        | .ok d1 => sealWords d1 x t js

/-- The FP32-sheaf outputs that a recipe's STOREs fill (R183). -/
def Cmd.wordOutputs (d : Device) (c : Cmd) : Except Nat (List Table) :=
  if opcodeOf c.entry = 0x13 then
    allOk (fun i => readTable d (c.win d) (c.addr d (0x48 + 8 * i)))
      ([0, 1].filter fun i => recipeCode c.entry i == 0x18 && (i == 0 || ent c.entry 0x50 8 != 0))
  else .ok []

def sealTables (d : Device) (x : ReadCtx) : List Table → Except Nat Device
  | [] => .ok d
  | t :: ts => match sealWords d x t (List.range t.count) with | .error s => .error s | .ok d1 => sealTables d1 x ts

/-- Once no sheaf of a command's narrow outputs is to be written again, the writes that a fence orders after them are performed (R171), and its FP32-sheaf outputs are sealed. -/
def Device.writeLate (d : Device) (tag : Nat) : Device :=
  match d.cmd tag with
  | none => d
  | some c =>
    if !c.trips.isEmpty || c.failure.isSome then d
    else
      match allWrites d c.late with
      | .error s => d.failWith tag s
      | .ok d1 =>
        match c.wordOutputs d1 with
        | .error s => d1.failWith tag s
        | .ok ts =>
          match sealTables d1 (c.readCtx d1 c.homeBay) ts with
          | .error s => d1.failWith tag s
          | .ok d2 => d2.modCmd tag fun c => { c with late := [] }

/-- Once every operation of a command has ended its ledger entries are read again, and its narrow outputs are quantised, written and watched (R43, R57, R102). -/
def Device.settle (d : Device) (tag : Nat) : Device :=
  match d.cmd tag with
  | none => d
  | some c =>
    if !c.opsEnded || c.done || c.failure.isSome then d
    else
      match ledgerFault d c ((outKeys c.entry).zip c.ledger), c.outSpecs d with
      | some s, _ => d.failWith tag s
      | none, .error s => d.failWith tag s
      | none, .ok os =>
        match writeOutputs d (c.readCtx d c.homeBay) c os with
        | .error s => d.failWith tag s
        | .ok (d1, c1) => (d1.modCmd tag fun _ => { c1 with done := true, wide0 := [], wide1 := [] }).writeLate tag

/-! ### Groups (R270 to R272) -/

/-- The member entries of a group in a set of settings. -/
def groupMembers (get : Nat → Nat) (g : Nat) : List Nat :=
  (List.range (get ((0x6100 + g) * 256 + 1))).map fun i => get ((0x6100 + g) * 256 + 2 + i)
def memberDev (e : Nat) : Nat := e % 64
def memberContribs (e : Nat) : Nat := field e 11 8 + 1
/-- CRC-32C over the member count and the entries in use (R271). -/
def groupDigest (ms : List Nat) : Nat := crc32c (leBytes 1 ms.length ++ (ms.map (leBytes 2)).flatten)

/-- This device's number: the one its ports have had in force since their last link-up, that of the first port that is up, or the object's where none is (R291; notes/assumptions/45). -/
def Device.devNum (d : Device) : Nat :=
  match (List.range 8).find? fun k => (d.port k).state == 2 || (d.port k).state == 3 with
  | some k => (d.port k).devNum
  | none => d.setting 0x600001
/-- The number a command's group and streams are read with, taken at its acceptance. -/
def Cmd.self (d : Device) (c : Cmd) : Nat := match c.coll with | some w => w.self | none => d.devNum

/-- A command's group members (R271). -/
def Cmd.members (d : Device) (c : Cmd) : List Nat := groupMembers (c.setting d) (ent c.entry 0x21 1)
/-- This device's position among members. -/
def positionIn (ms : List Nat) (dev : Nat) : Nat := (ms.findIdx? fun e => memberDev e == dev).getD 0

/-- A command is its collective's root. -/
def Cmd.root (d : Device) (c : Cmd) : Bool := positionIn (c.members d) (c.self d) == 0

/-! ### The descriptor's addresses (R203, R242, R298, R300) -/

/-- Offsets of the entry's device addresses that its command uses, those of the extension block from 0x80 up; `root` tells the root of a broadcast, whose destination is ignored, from the members that have no source (R277). -/
def usedAddrs (e x : List Byte) (root : Bool) : List Nat :=
  let op := opcodeOf e
  let opt := fun (o : Nat) => if ent e o 8 = 0 then [] else [o]
  let smooth := fun (o c : Nat) => if (qctl (ent e c 8)).smooth = 0 then [] else [o]
  if isArrayOp op then
    let f := foldCtl (ent e 0x40 8)
    let load := fun (cls w s : Nat) => if cls = 8 ∧ (qctl (bytesNat x w 8)).smooth ≠ 0 then [0x80 + s] else []
    [0x20, 0x28] ++ (if f.foldOut then [0x58] else [0x30]) ++ (if f.pre = 0 then [] else [0x48]) ++ (if f.foldIn then [0x50] else []) ++ opt 0x60 ++
    (if ent e 0x6A 1 % 2 = 1 ∧ !f.foldOut then [0x70, 0x78] else []) ++
    (if ent e 0x68 1 % 32 = fmtNone ∧ !f.foldOut then smooth 0x80 0x38 else []) ++
    load (ent e 0x69 1 % 16) 0x08 0x18 ++ load (ent e 0x69 1 / 16) 0x10 0x20 ++
    (if op = 2 then [0xA8] ++ (if bytesNat x 0x35 1 = 2 then [0xB8] else []) ++ load (bytesNat x 0x36 1) 0x50 0x58 else [])
  else if op = 0x10 then [0x20, 0x30] ++ smooth 0x40 0x38
  else if op = 0x43 then (if (ent e 0x28 1).testBit 0 then [] else [0x20]) ++ [0x30] ++ smooth 0x40 0x38
  else if op = 0x11 ∨ op = 0x42 then [0x20, 0x28]
  else if op = 0x12 then [0x20, 0x30]
  else if op = 0x13 then [0x20] ++ [0x28, 0x30, 0x38, 0x40].flatMap opt ++ [0x48] ++ opt 0x50
  else if op = 0x14 then [0x20, 0x30] ++ opt 0x40
  else if op = 0x15 then [0x20]
  else if op = 0x20 ∨ op = 0x21 then [0x20, 0x28, 0x30]
  else if op = 0x22 then (if ent e 0x38 1 % 4 = 1 then [] else [0x20]) ++ (if ent e 0x38 1 % 4 = 2 then [] else [0x28])
  else if op = 0x30 then
    (if ent e 0x20 1 = 0 ∧ !root then [] else opt 0x28) ++ (if ent e 0x20 1 = 0 ∧ root then [] else opt 0x30) ++
    (if ent e 0x20 1 = 3 then [0x48] else [])
  else if op = 0x31 then [0x28]
  else []

/-- The resolved addresses of a command with their offsets. -/
def namedAddrs (w : Win) (e x : List Byte) (root : Bool) : List (Nat × Nat) :=
  (usedAddrs e x root).map fun o => (o, w.resolve none (if o < 0x80 then ent e o 8 else bytesNat x (o - 0x80) 8))

/-! ### The memory a command uses (R8, R207, R252) -/

/-- The sheaves of some entries of a table. -/
def entrySpans (d : Device) (w : Win) (addr : Nat) (js : List Nat) : List (Nat × Nat) :=
  match rawTable d w addr with
  | none => []
  | some t => js.filterMap fun j => if j < t.count then (rawEntry d w t j).map fun e => (e.addr, e.size) else none

/-- The sheaves of a whole table. -/
def sheafRanges (d : Device) (w : Win) (addr : Nat) : List (Nat × Nat) :=
  match rawTable d w addr with
  | none => []
  | some t => entrySpans d w addr (List.range t.count)

/-- The shift vector a table names. -/
def shiftRange (d : Device) (w : Win) (addr : Nat) : List (Nat × Nat) :=
  match rawTable d w addr with
  | some t => if t.hasShift then [(t.shiftAddr, t.outer)] else []
  | none => []

/-- The indices of a GATHER or SCATTER. -/
def Cmd.indices (d : Device) (c : Cmd) : List Nat :=
  (List.range (ent c.entry 0x38 4)).map fun i => d.mem.nat (c.addr d 0x30 + 4 * i) 4

/-- The source and destination entries that GATHER, SCATTER or COPY in sheaf mode moves sheaves between. -/
def Cmd.moved (d : Device) (c : Cmd) : List Nat × List Nat :=
  let op := opcodeOf c.entry
  if op = 0x20 then (c.indices d, List.range (ent c.entry 0x38 4))
  else if op = 0x21 then (List.range (ent c.entry 0x38 4), c.indices d)
  else if op = 0x22 ∧ (ent c.entry 0x38 1).testBit 2 then (List.range (ent c.entry 0x30 8), List.range (ent c.entry 0x30 8))
  else ([], [])

/-- The sheaves that GATHER, SCATTER or COPY in sheaf mode reads and writes in device memory. -/
def Cmd.movedSpans (d : Device) (c : Cmd) : List (Nat × Nat) × List (Nat × Nat) :=
  let w := c.win d
  let host := if opcodeOf c.entry = 0x22 then ent c.entry 0x38 1 % 4 else 0
  (if host = 1 then [] else entrySpans d w (c.addr d 0x20) (c.moved d).1, if host = 2 then [] else entrySpans d w (c.addr d 0x28) (c.moved d).2)

/-- The size of block (i, j) of an all-to-all, in its units (R282, R283). -/
def Cmd.blockUnits (d : Device) (c : Cmd) (i j : Nat) : Nat :=
  if ent c.entry 0x20 1 = 2 then ent c.entry 0x38 8 else d.mem.nat (c.addr d 0x48 + 4 * (64 * i + j)) 4

/-- The units a member of a collective receives: those of every block sent to it, or the count (R277, R282). -/
def Cmd.receivedUnits (d : Device) (c : Cmd) : Nat :=
  let ms := c.members d
  let i := positionIn ms (c.self d)
  if 2 ≤ ent c.entry 0x20 1 then ((List.range ms.length).map fun p => c.blockUnits d p i).sum else ent c.entry 0x38 8

/-- Offsets of the sheaf tables in a command's descriptor, in device memory, whose whole contents it reads or writes. -/
def Cmd.tableOffs (c : Cmd) : List Nat :=
  let op := opcodeOf c.entry
  let e := c.entry
  let sheaf := fun (off code : Nat) => if isSheafFmt code then [off] else []
  if isArrayOp op then
    let f := foldCtl (ent e 0x40 8)
    [0x20, 0x28] ++ (if ent e 0x68 1 % 32 = fmtNone ∧ !f.foldOut then [0x30] else []) ++ (if f.pre ≠ 0 then sheaf 0x48 f.preFmt else []) ++
    (if op = 2 then [0xA8] else [])
  else if op = 0x10 ∨ op = 0x43 then [0x30]
  else if op = 0x11 ∨ op = 0x42 then [0x20]
  else if op = 0x13 then
    ([0, 1, 2, 3].flatMap fun i => if ent e (0x28 + 8 * i) 8 = 0 then [] else sheaf (0x28 + 8 * i) (ent e (0x68 + i) 1)) ++
    ([0, 1].flatMap fun i => if ent e (0x48 + 8 * i) 8 = 0 then [] else sheaf (0x48 + 8 * i) (recipeCode e i))
  else if op = 0x30 then
    sheaf 0x28 (ent e 0x22 1 % 32) ++ (if ent e 0x30 8 = 0 then [] else if ent e 0x20 1 = 1 then (if ent e 0x23 1 = fmtNone then [0x30] else [])
      else sheaf 0x30 (ent e 0x22 1 % 32))
  else if op = 0x31 ∧ (ent e 0x21 1).testBit 0 then [0x28]
  else []

/-- An address at an offset of the entry, or, from 0x80 up, of the extension block. -/
def Cmd.addrAt (d : Device) (c : Cmd) (o : Nat) : Nat := if o < 0x80 then c.addr d o else c.xaddr d (o - 0x80)

/-- The contribution list's addresses of a member with more than one contribution (R273). -/
def Cmd.contribs (d : Device) (c : Cmd) : List Nat :=
  let own := memberContribs ((c.members d).getD (positionIn (c.members d) (c.self d)) 0)
  if opcodeOf c.entry = 0x30 ∧ ent c.entry 0x20 1 = 1 ∧ 1 < own then
    let a := c.addr d 0x28
    (List.range own).map fun i => (c.win d).resolve ((c.win d).setOf a) (d.mem.nat (a + 8 * i) 8)
  else []

/-- Statistics rows and ledger entries of a command's keys (R73, R115). -/
def Cmd.keyAddrs (d : Device) (c : Cmd) : List Nat :=
  (outKeys c.entry).flatMap fun k =>
    if k = 0xFFFF then []
    else
      let s := c.setting d 0x204001
      let l := c.setting d 0x205001
      (if s = 0 then [] else [s + 32 * k, (c.win d).resolve ((c.win d).setOf (s + 32 * k)) (d.mem.nat (s + 32 * k + 0x10) 8)]) ++
      (if l = 0 then [] else [l + 32 * k])

/-- Addresses in every object of device memory that a command reads or writes, one at least for each bay it reaches. -/
def Cmd.touched (d : Device) (c : Cmd) : List Nat :=
  let w := c.win d
  let whole := fun (a : Nat) => a :: (sheafRanges d w a ++ shiftRange d w a).map (·.1)
  if c.qp.isNone then (match d.safety.beacon.round with | some r => r.entries.flatMap fun a => whole (w.resolve none a) | none => [])
  else
    (namedAddrs w c.entry c.ext (c.root d)).map (·.2) ++ (c.tableOffs.filter (· != 0x28 || (c.contribs d).isEmpty)).flatMap (fun o => whole (c.addrAt d o)) ++
    (c.contribs d).flatMap whole ++ ((c.movedSpans d).1 ++ (c.movedSpans d).2).map (·.1) ++ c.keyAddrs d ++
    (if opcodeOf c.entry = 0x32 then [c.setting d ((0x6200 + ent c.entry 0x20 1) * 256 + 3)] else [])

/-- The bays a command uses: those its operations run on, those it is charged on, those whose memory it reads or writes, and those whose port holds a chain step of it (R8, R206, R211, R215, R289). -/
def Cmd.usesBay (d : Device) (c : Cmd) (k : Nat) : Bool :=
  (c.ops.any fun o => o.bay == k) ||
  (match c.charges[k]? with | some g => decide (0 < g.tile) || !g.mem.isZero || decide (0 < g.ops) | none => false) ||
  ((d.port k).tokens.any fun t => t.tag == c.tag) || (c.touched d).any fun a => d.bayOf a == some k

/-- The lines of a span by the bay they lie in, sheaf by sheaf (R207). -/
def spanBytes (d : Device) (w : Win) (x : Span) : List (Nat × Nat) :=
  let put := fun (a n : Nat) => match d.bayOf a with | some j => [(j, n)] | none => []
  if x.n = 0 then put x.addr x.bytes
  else
    match rawTable d w x.addr with
    | none => []
    | some t => (List.range' x.first x.n).flatMap fun j => match rawEntry d w t j with | some e => put e.addr (ceilDiv x.bytes x.n) | none => []

/-- The lines that work of bay `k` moves to and from the memory of other bays. -/
def Device.crossLines (d : Device) (w : Win) (k : Nat) (xs : List Span) : List (Nat × Nat) :=
  let all := xs.flatMap (spanBytes d w)
  (List.range 8).filterMap fun j =>
    let b := ((all.filter fun p => p.1 == j && j != k).map (·.2)).sum
    if b = 0 then none else some (j, ceilDiv b 64)

/-! ### Where outputs lie (R252) -/

/-- What a quantised output is written over: its sheaves, and the shift vector but where the command only reads it (R69, R313). -/
def quantRanges (d : Device) (w : Win) (addr ctl : Nat) : List (Nat × Nat) :=
  sheafRanges d w addr ++ (if (qctl ctl).shiftSrc = 1 then [] else shiftRange d w addr)

/-- The ranges a command's outputs lie in, in device memory. -/
def Cmd.outRanges (d : Device) (c : Cmd) : List (Nat × Nat) :=
  let op := opcodeOf c.entry
  let w := c.win d
  let f := ent c.entry
  if c.qp.isNone then []
  else if isArrayOp op then
    match c.arrayCmd d with
    | .error _ => []
    | .ok a =>
      let n := a.rows * a.cols
      if a.fold.foldOut then [(a.foldOut, n * foldStride a.fold.tree a.isAtt)]
      else
        (if a.container = fmtNone then quantRanges d w a.out a.outCtl else [(a.out, n * arrayStride a.container)]) ++
        (if a.fused then [(a.rowMax, 5 * a.rows * ceilDiv a.cols 64), (a.rowSum, 5 * a.rows * ceilDiv a.cols 64)] else [])
  else if op = 0x10 ∨ op = 0x43 then quantRanges d w (c.addr d 0x30) (f 0x38 8)
  else if op = 0x11 then
    match readTable d w (c.addr d 0x20) with
    | .ok t => [(c.addr d 0x28, t.outer * t.inner * arrayStride (f 0x30 1 % 32))]
    | .error _ => []
  else if op = 0x12 then [(c.addr d 0x30, f 0x40 4 * f 0x44 4 * arrayStride (f 0x29 1 % 32))]
  else if op = 0x13 then
    let l := d.mem.nat (c.addr d 0x20 + 4) 4
    [0, 1].flatMap fun i =>
      let o := 0x48 + 8 * i
      if i = 1 ∧ f o 8 = 0 then [] else if isNarrow (recipeCode c.entry i) then quantRanges d w (c.addr d o) (f (0x58 + 8 * i) 8)
      else if isSheafFmt (recipeCode c.entry i) then sheafRanges d w (c.addr d o)
      else [(c.addr d o, f 0x74 4 * l * arrayStride (recipeCode c.entry i))]
  else if op = 0x14 then [(c.addr d 0x30, 4 * f 0x38 4)]
  else if op = 0x15 then [(c.addr d 0x20, 4 * f 0x28 8)]
  else if op = 0x20 ∨ op = 0x21 then (c.movedSpans d).2
  else if op = 0x22 then
    if f 0x38 1 % 4 = 2 then [] else if (f 0x38 1).testBit 2 then (c.movedSpans d).2 else [(c.addr d 0x28, f 0x30 8)]
  else if op = 0x42 then [(c.addr d 0x28, 8)]
  else if op = 0x30 then
    let sub := f 0x20 1
    let code := if sub = 1 then f 0x23 1 else f 0x22 1 % 32
    let n := c.receivedUnits d
    if f 0x30 8 = 0 ∨ (sub = 0 ∧ c.root d) then []
    else if sub = 1 ∧ code = fmtNone then quantRanges d w (c.addr d 0x30) (f 0x40 8)
    else if isSheafFmt code then (if 2 ≤ sub then entrySpans d w (c.addr d 0x30) (List.range n) else sheafRanges d w (c.addr d 0x30))
    else [(c.addr d 0x30, if code = fmtNone then n else n * arrayStride code)]
  else []

/-- The host table of a COPY in sheaf mode, whose windows are none (R298). -/
def hostTable (d : Device) (addr : Nat) : Option Table := parseTable ⟨0, 0, 0, 0⟩ addr (d.host.read addr 32)
def hostEntry (d : Device) (t : Table) (j : Nat) : Option Entry := parseEntry ⟨0, 0, 0, 0⟩ none (d.host.nat (t.entryAddr j) 8)

/-- The ranges of host memory a command's outputs lie in: the bytes of a COPY to the host, or the sheaves its host table names. -/
def Cmd.hostRanges (d : Device) (c : Cmd) : List (Nat × Nat) :=
  if opcodeOf c.entry ≠ 0x22 ∨ ent c.entry 0x38 1 % 4 ≠ 2 then []
  else if (ent c.entry 0x38 1).testBit 2 then
    match hostTable d (ent c.entry 0x28 8) with
    | none => []
    | some t => (List.range (min t.count (ent c.entry 0x30 8))).filterMap fun j => (hostEntry d t j).map fun e => (e.addr, e.size)
  else [(ent c.entry 0x28 8, ent c.entry 0x30 8)]

/-- Free values stand over a range of host memory. -/
def Device.scrambleHost (d : Device) (r : Nat × Nat) : Device :=
  { d with host := d.host.write r.1 ((List.range r.2).map fun i => Config.freeByte (d.drawn + i)) }.drew r.2

/-- The device with every paused row released. -/
def Device.unpaused (d : Device) : Device := { d with bays := d.bays.map fun b => { b with paused := [] } }

/-- The outputs of a failed command are undefined: free values stand in them (R252). -/
def Device.spoil (d : Device) (c : Cmd) : Device :=
  (c.hostRanges d).foldl (fun d r => d.scrambleHost r) ((c.outRanges d.unpaused).foldl (fun d r => d.scramble r) d)

end Sys2Proof.Machine
end

