-- ==== Sys2Proof/Machine/Homes.lean ====
section
/-! DEFINITION. What a tile's scratchpad and its bay's stack hold of array operations: save areas, TREE stack homes with their mirrors, snapshot records and row-state records (R140, R160 to R168, R187). -/

namespace Sys2Proof.Machine

/-! ### Containers of all lanes -/

/-- The 1,024 lanes of a tile, array by array in row order (R162). -/
def allLanes : List Nat := List.range 1024

/-- ACC36 containers, 5 bytes each (R47). -/
def accBytes (vs : List Acc) : List Byte := (vs.map fun a => leBytes 5 a.toNat).flatten

/-- The container of lane `i` in an array of containers at address `a`. -/
def Device.accAt (d : Device) (a i : Nat) : Acc := BitVec.ofNat 36 (d.mem.nat (a + 5 * i) 5)

def Device.putBytes (d : Device) (a : Nat) (bs : List Byte) : Device := d.store a bs

/-- The running values of a group: those in the lanes, and those that wait outside them. -/
def Tile.groupRuns (t : Tile) (g : ArrayGroup) : List Acc :=
  let at' : Store (Option Acc) := g.members.foldl (fun m x => match x.start with
    | some vs => (x.lanes.zip vs).foldl (fun m p => m.put none p.1 (some p.2)) m
    | none => m) []
  allLanes.map fun i => (at'.get none i).getD (t.lane i).run

/-! ### The work region (R168; the order of its uses is the model's, notes/assumptions/40) -/

/-- The pre-emption save area (R140): course accumulators, then running accumulators. -/
def saveArea (k t : Nat) : Nat := padBase k t + 0x5A00
/-- The drain save area (R140). -/
def drainArea (k t : Nat) : Nat := padBase k t + 0x8200
/-- The tile's own scratchpad homes, and the mirrors it keeps of its buddy's. -/
def ownHomes (k t : Nat) : Nat := padBase k t + 0x9600
def mirrorHomes (k t : Nat) : Nat := padBase k t + 0x13600
/-- Bytes of a tile's scratchpad homes: 2 groups × 2 positions × 2 slots × 5,120. -/
def homesBytes : Nat := 40960
/-- The buddy region of a tile, and a slot of it (R151, R162). -/
def buddyRegion (k t : Nat) : Nat := padBase k t + 0x2C000
def snapSlot (k t place : Nat) : Nat := buddyRegion k (buddyOf t) + 0x1440 * place

/-! ### TREE stack homes (R165 to R168) -/

/-- The most bits set in a number from `n` up to `hi`, by filling the lowest clear bits of `n`. -/
def mostBits : Nat → Nat → Nat → Nat
  | 0, n, _ => bitsSet 25 n
  | f + 1, n, hi => if n ||| (n + 1) ≤ hi then mostBits f (n ||| (n + 1)) hi else bitsSet 25 n

/-- D of R165 for the `n` courses from `c0`. -/
def homeDepth (c0 n : Nat) : Nat := if n = 0 then bitsSet 25 c0 else mostBits 25 (c0 + 1) (c0 + n)

/-- Where one slot of a position's home stands for a tile, and its mirror where it has one. -/
def homeSlot (k t dep bank pos slot : Nat) : Nat × Option Nat :=
  if dep ≤ pos + 3 then
    let o := bank * 20480 + (pos + 3 - dep) * 10240 + slot * 5120
    (ownHomes k t + o, some (mirrorHomes k (buddyOf t) + o))
  else (k * 2 ^ 36 + 0xEC1A80000 + (((t * 2 + bank) * 21 + pos) * 2 + slot) * 5120, none)

/-- The slot a group's position stands in. -/
def ArrayGroup.gen (g : ArrayGroup) (pos : Nat) : Nat := if g.gens.testBit pos then 1 else 0

/-- Writes containers of lanes into one slot of a home, and into its mirror (R166). -/
def Device.putHome (d : Device) (k t dep bank pos slot : Nat) (vs : List (Nat × Acc)) : Device :=
  let h := homeSlot k t dep bank pos slot
  (joinWrites (vs.map fun v => (5 * v.1, leBytes 5 v.2.toNat))).foldl (fun d x =>
    let d1 := d.putBytes (h.1 + x.1) x.2
    match h.2 with | some m => d1.putBytes (m + x.1) x.2 | none => d1) d

/-- A home of the tile's group in the stack lies in a row to which accesses are paused (R214). -/
def Device.homesHeld (d : Device) (k t dep bank : Nat) : Bool :=
  (List.range (dep - 3)).any fun pos => d.held (homeSlot k t dep bank pos 0).1 10240

/-- A push: the running accumulators go into the slot that does not hold the position's entry, whose generation bit toggles (R166, R167). -/
def Device.pushHome (d : Device) (k t dep pos : Nat) (g : ArrayGroup) : Device × ArrayGroup :=
  let tl := d.tile (tileKey k t)
  (d.putHome k t dep g.bank pos (1 - g.gen pos) (allLanes.map fun i => (i, (tl.lane i).run)),
   { g with gens := g.gens ^^^ 2 ^ pos })

/-- A stack entry in its home; a poisoned line there fails the command as any line of memory does (R216). -/
def Device.homeAt (d : Device) (k t dep pos : Nat) (g : ArrayGroup) (lane : Nat) : Except Nat Acc :=
  let a := (homeSlot k t dep g.bank pos (g.gen pos)).1
  if d.held (a + 5 * lane) 5 then .error csHeld
  else if d.poisoned (a + 5 * lane) 5 then .error (csData + 0x10000 * d.firstPoison (a + 5 * lane) 5) else .ok (d.accAt a lane)

/-- The mirrors of a tile's homes are written again into its buddy's work region (R353). -/
def Device.rewriteMirrors (d : Device) (k t : Nat) : Device :=
  d.putBytes (mirrorHomes k (buddyOf t)) (d.mem.read (ownHomes k t) homesBytes)

/-- A tile's homes are read back from the mirrors in its buddy's work region (R352). -/
def Device.fetchMirrors (d : Device) (k t : Nat) : Device :=
  d.putBytes (ownHomes k t) (d.mem.read (mirrorHomes k (buddyOf t)) homesBytes)

/-! ### The save areas (R140) -/

/-- The course and running accumulators of all four arrays go into the save area. -/
def Device.saveGroup (d : Device) (k t : Nat) (g : ArrayGroup) : Device :=
  let tl := d.tile (tileKey k t)
  d.putBytes (saveArea k t) (accBytes (allLanes.map fun i => (tl.lane i).course) ++ accBytes (tl.groupRuns g))

/-- The values that drains have not yet read go into the drain save area; held already by an earlier drain, it takes no more. -/
def Device.freeLanes (d : Device) (k t : Nat) : Device :=
  let tl := d.tile (tileKey k t)
  if !tl.drainsLanes || tl.drains.any (fun r => !r.inLanes) then d
  else
    let d1 := d.putBytes (drainArea k t) (accBytes (allLanes.map fun i => (tl.lane i).run))
    d1.setTile (tileKey k t) { tl with drains := tl.drains.map fun r => { r with inLanes := false } }

/-- A saved group's members with the running values of the save area, which wait for the lanes. -/
def Device.savedMembers (d : Device) (k t : Nat) (g : ArrayGroup) : List Member :=
  g.members.map fun m => { m with start := some (m.lanes.map fun i => d.accAt (saveArea k t + 5120) i) }

/-- The values of a drain: in the running accumulators, or in the drain save area. -/
def Device.drainRuns (d : Device) (k t : Nat) (r : Drain) : List Acc :=
  if r.inLanes then (d.tile (tileKey k t)).runs r.mem.lanes else r.mem.lanes.map fun i => d.accAt (drainArea k t) i

/-! ### Snapshot records (R162, R163) -/

/-- The tally tag of an operation. -/
def Device.tallyOf (d : Device) (m : Member) : Nat :=
  match d.cmd m.cmd with
  | some c => (match c.ops[m.op]? with | some o => o.tally.getD 0xFFFFFFFF | none => 0xFFFFFFFF)
  | none => 0xFFFFFFFF

/-- The member that holds array `a`. -/
def ArrayGroup.onArray (g : ArrayGroup) (a : Nat) : Option Member := g.members.find? fun m => m.base ≤ a && a < m.base + m.arrays

def memberFlags (m : Member) : Nat := m.flags.foldl (fun f p => f ||| p.1 ||| p.2) 0

/-- A snapshot record without its check: the running accumulators, then bytes 0x1400 to 0x143B. -/
def Device.snapBytes (d : Device) (tl : Tile) (g : ArrayGroup) (seq next : Nat) (tree : Bool) : List Byte :=
  accBytes (allLanes.map fun i => (tl.lane i).run) ++ leBytes 4 seq ++
  ([0, 1, 2, 3].map fun a => leBytes 4 (match g.onArray a with | some m => d.tallyOf m | none => 0xFFFFFFFF)).flatten ++
  leBytes 4 next ++ ([0, 1, 2, 3].map fun a => leBytes 1 (match g.onArray a with | some m => foldFlags (memberFlags m) | none => 0)).flatten ++
  leBytes 1 (if tree then 2 else 1) ++ leBytes 1 (foldDepth tree next) ++ leBytes 2 0 ++ leBytes 4 (g.gens % 2 ^ 24) ++ leBytes 24 0

/-- A record's check holds, and it is the record the tile runtime keeps under that number. -/
def Device.snapValid (d : Device) (k t : Nat) (s : Snapshot) : Bool :=
  let a := snapSlot k t s.place
  crc32c (d.mem.read a 0x143C) == d.mem.nat (a + 0x143C) 4 && d.mem.nat (a + 0x1400) 4 == s.seq && !(d.poisoned a 0x1440)

/-- A record holds an operation: its arrays carry the operation's tally tag. -/
def Device.snapHolds (d : Device) (k t : Nat) (s : Snapshot) (cmd op : Nat) : Bool :=
  s.members.any fun m => m.hit cmd op && d.mem.nat (snapSlot k t s.place + 0x1404 + 4 * m.base) 4 == d.tallyOf m

/-- The newest valid record of an operation (R163): the highest sequence number. -/
def Device.snapRecord (d : Device) (k t cmd op : Nat) : Option Snapshot :=
  ((d.tile (tileKey k t)).snaps.filter fun s => d.snapValid k t s && d.snapHolds k t s cmd op).foldl
    (fun (m : Option Snapshot) s => match m with | some y => if y.seq < s.seq then some s else m | none => some s) none

/-- The newest valid record of a group. -/
def Device.groupRecord (d : Device) (k t : Nat) (g : Option ArrayGroup) : Option Snapshot :=
  match g with
  | some x => (match x.members with | m :: _ => d.snapRecord k t m.cmd m.op | [] => none)
  | none => none

/-- The next course a record names. -/
def Device.recordNext (d : Device) (k t : Nat) (s : Snapshot) : Nat := d.mem.nat (snapSlot k t s.place + 0x1414) 4

/-- A snapshot of the group on the arrays: into the slot that holds neither the newest valid record of the running group nor that of the pre-empted one. -/
def Device.snapshot (d : Device) (k t : Nat) (g : ArrayGroup) (next : Nat) (tree : Bool) : Device :=
  let tl := d.tile (tileKey k t)
  let used := [(d.groupRecord k t (some g)).map (·.place), (d.groupRecord k t tl.pre).map (·.place)]
  let place := ([0, 1, 2].find? fun p => !(used.contains (some p))).getD 0
  let seq := (tl.snapSeq + 1) % 2 ^ 32
  let body := d.snapBytes tl g seq next tree
  let d1 := d.putBytes (snapSlot k t place) (body ++ leBytes 4 (crc32c body))
  let d2 := if tl.snapDue then d1.rewriteMirrors k t else d1
  d2.setTile (tileKey k t) { tl with
    snapSeq := seq, snapDue := false, snaps := ⟨seq, place, g.bank, g.members⟩ :: tl.snaps.filter fun s => s.place != place }

/-- A group as a record left it, with those of its operations that `keep` names: course and generation bits from the record's bytes. The running values wait for the lanes. -/
def Device.recorded (d : Device) (k t : Nat) (s : Snapshot) (c0 : Nat) (courseAt : Nat → Nat) (keep : Member → Bool) : ArrayGroup :=
  let a := snapSlot k t s.place
  let c := d.recordNext k t s - c0
  { members := (s.members.filter keep).map fun m => { m with weights := [], start := some (m.lanes.map fun i => d.accAt a i) }
    pos := courseAt c, course := c, bank := s.bank, gens := d.mem.nat (a + 0x1420) 4 % 2 ^ 24 }

/-! ### Row-state records (R187; the order of the fields is the model's, notes/assumptions/40) -/

/-- A slot of a tile's row-state records in its bay's stack. -/
def rowSlot (k t slot : Nat) : Nat := k * 2 ^ 36 + 0xEE2780000 + t * 4224 + slot * 2112

end Sys2Proof.Machine
end

