-- ==== Sys2Proof/Machine/Attention.lean ====
section
/-! DEFINITION. One key course of ATTENTION (R197, R307): scores, weights, their encoding, and the course results. -/

namespace Sys2Proof.Machine

/-- The course sums of a reduction over `n` blocks, folded from +0 in the command's order (R84, R85). -/
def foldBlocks (tree : Bool) (ps : List Q) : Flagged Acc :=
  let cs := (chunks (ceilDiv ps.length 8) 8 ps).zipIdx
  let st := cs.foldl (fun (s : Flagged (List Acc)) (c, i) =>
    let cf := c.foldl (fun (a : Flagged Acc) p => let r := foldPartial a.v p; ⟨r.v, a.flags ||| r.flags⟩) ⟨accZero, 0⟩
    let r := foldCourse accMerge tree i cf.v s.v
    ⟨r.v, s.flags ||| cf.flags ||| r.flags⟩) ⟨if tree then [] else [accZero], 0⟩
  let f := finishFold tree accZero st.v
  ⟨f.v, st.flags ||| f.flags⟩

/-- The score of a query row against a key, both as blocks along the head dimension (R100, R235). -/
def score (tree : Bool) (qs ks : List BlockVal) : Flagged Acc :=
  foldBlocks tree ((qs.zip ks).map fun (a, b) => scaleBlock (blockSum a b) a b)

/-- rne(f × coef) held within the finite range (R197). -/
def scoreTerm (s : Acc) (coef : W32) : VRes :=
  let f := accToF32 s
  let r := vMul f.1 coef
  if f32IsInf r.w then ⟨f32Max (f32Neg r.w), r.flags ||| flagIf f.2 fAccSat⟩ else ⟨r.w, r.flags ||| flagIf f.2 fAccSat⟩

/-- A key of the mask (R197, R235, R307). -/
def keyMasked (a : ArrayCmd) (bytes : List Byte) (i c j : Nat) : Bool :=
  let k := 256 * c + j
  a.b.tab.outer ≤ k ||
  (if a.att.mask = 1 then decide (a.att.qBase + i < a.att.kBase + k)
   else if a.att.mask = 2 then bytes.getD j 0 != 0#8
   else false)

/-- The encoded weights of one block of at most 32 keys (R197): the block as decoded, and its counts. Positions beyond the last key take no part (R42, R57, R82). -/
def encodeWeights (fmt : Nat) (ps : List W32) : BlockVal × Nat × Nat :=
  let b := quantBlock fmt none 0 false (ps.map fun w => qConvert false (wideOfF32 w))
  (blockDec fmt b.hdr (packCodes (fmtWidth fmt) b.codes) none 0 ps.length, field b.hdr 7 5, field b.hdr 4 2)

/-- The weights of query row `i` over course `c`, from its query blocks and the course's keys. -/
def rowCourse (a : ArrayCmd) (i c : Nat) (mask : List Byte) (qs : List BlockVal) (keys : List (List BlockVal)) : RowCourse :=
  let ss := keys.zipIdx.map fun (ks, j) => if keyMasked a mask i c j then none else some (score a.fold.tree qs ks)
  let ts := ss.map fun s => match s with
    | some r => let t := scoreTerm r.v a.att.coef; some (⟨t.w, t.flags ||| r.flags⟩ : VRes)
    | none => none
  let live := ts.filterMap id
  match live with
  | [] => ⟨[], accZero, f32Inf true, true, 0, 0, 0⟩
  | _ =>
    let m := live.foldl (fun m t => (vMax m t.w).w) (f32Inf true)
    let ps := ts.map fun t => match t with
      | some r => let dd := vSub r.w m; let e := vExp2 dd.w; (⟨e.w, dd.flags ||| e.flags⟩ : VRes)
      | none => ⟨0, 0⟩
    let enc := (chunks (ceilDiv ps.length 32) 32 (ps.map (·.w))).map (encodeWeights a.att.pfmt)
    let lr := enc.foldl (fun (s : Flagged Acc) e =>
      let p := (e.1.elems.foldl (fun (t : Q) x => t.add x.val) Q.zero).mul e.1.s8.val
      let r := foldPartial s.v p
      ⟨r.v, s.flags ||| r.flags⟩) ⟨accZero, 0⟩
    ⟨enc.map (·.1), lr.v, m, false, flagsOf (·.flags) live ||| flagsOf (·.flags) ps ||| lr.flags,
      (enc.map (·.2.1)).sum, (enc.map (·.2.2)).sum⟩

/-- A value of the values tensor: its block and its position there. -/
def attValue (b : BlockVal) (j : Nat) : Q := b.at' j

/-- Σ p̂ × v over a block of keys, exact (notes/assumptions/22: each key's value has its own scale). DEDUCED. -/
def valuePartial (p : BlockVal) (vs : List Q) : Q :=
  (vs.zipIdx.foldl (fun (t : Q) (v, j) => t.add ((p.elems.getD j Elem.zero).val.mul v)) Q.zero).mul p.s8.val

/-- The element products of a block of keys in units of 2^−32, before any scale: what the block register holds for its residue check (R329, notes/assumptions/22). DEDUCED. -/
def valueSum (p : BlockVal) (vs : List Elem) : Int :=
  ((p.elems.zip vs).map fun (x, y) => x.m * y.m * (2 ^ (x.e + y.e + 32).toNat : Nat)).sum

def valueResidue (p : BlockVal) (vs : List Elem) : Int :=
  ((p.elems.zip vs).map fun (x, y) => x.m * y.m * (2 ^ ((x.e + y.e + 32).toNat % 8) : Nat)).sum % 255

end Sys2Proof.Machine
end

