-- ==== Sys2Proof/Machine/Net.lean ====
section
/-! DEFINITION. The fabric transport: groups, frames, credits, sending and aborts (R261 to R272, R289). -/

namespace Sys2Proof.Machine

/-! ### Frames (R265) -/

def ftData : Nat := 1
def ftAck : Nat := 2
def ftNak : Nat := 3
def ftGrant : Nat := 4
def ftHello : Nat := 5
def ftAbort : Nat := 6

/-- The bytes after UDP: header, payload, trailer. -/
def frameBytes (f : Frame) : List Byte :=
  let h := leBytes 1 1 ++ leBytes 1 f.type ++ leBytes 1 f.src ++ leBytes 1 f.dst ++ leBytes 4 f.seq ++ leBytes 4 f.opId ++ leBytes 4 f.step ++
    leBytes 2 (f.packet + if f.last then 0x8000 else 0) ++ leBytes 2 f.payload.length ++ leBytes 1 f.flags ++ leBytes 1 f.content ++
    leBytes 2 f.credits ++ leBytes 4 f.ackSeq ++ leBytes 4 f.digest
  let b := h ++ f.payload
  b ++ leBytes 4 (crc32c b)

/-- The bytes are no fabric frame, or their trailer fails (R265, R266). -/
def trailerBad (bs : List Byte) : Bool :=
  bs.length < 36 || bytesNat bs 0x12 2 + 36 != bs.length || crc32c (bs.take (bs.length - 4)) != bytesNat bs (bs.length - 4) 4

/-- The frame in received bytes; none where the trailer, the version or the length is wrong (R265, R266). -/
def parseFrame (bs : List Byte) : Option Frame :=
  let n := bs.length
  if n < 36 ∨ bytesNat bs 0x12 2 + 36 ≠ n ∨ bytesNat bs 0 1 ≠ 1 ∨ crc32c (bs.take (n - 4)) ≠ bytesNat bs (n - 4) 4 then none
  else some ⟨bytesNat bs 1 1, bytesNat bs 2 1, bytesNat bs 3 1, bytesNat bs 4 4, bytesNat bs 8 4, bytesNat bs 0xC 4, bytesNat bs 0x10 2 % 2 ^ 15,
    (bytesNat bs 0x10 2).testBit 15, bytesNat bs 0x14 1, bytesNat bs 0x15 1, bytesNat bs 0x16 2, bytesNat bs 0x18 4, bytesNat bs 0x1C 4,
    slice bs 0x20 (n - 36)⟩

/-- The MAC address of port `k` of device `dev` (R261). -/
def fabricMacOf (k dev : Nat) : BitVec 48 := BitVec.ofNat 48 (0x020000000000 + k * 256 + dev)
/-- The IPv6 address of port `k` (R261), `top` the /48 prefix. -/
def fabricIp (top k dev : Nat) : BitVec 128 := BitVec.ofNat 128 (top * 2 ^ 80 + k * 2 ^ 64 + 0x100 + dev)
/-- Where a frame for device `dst` goes (R261, R262); 0xFF, the destination of a hello, is the broadcast MAC address and the link-local all-nodes address (notes/assumptions/18). -/
def dstMacOf (k dst : Nat) : BitVec 48 := if dst = 0xFF then 0xFFFFFFFFFFFF else fabricMacOf k dst
def dstIpOf (top k dst : Nat) : BitVec 128 := if dst = 0xFF then BitVec.ofNat 128 (0xFF02 * 2 ^ 112 + 1) else fabricIp top k dst
/-- The UDP port, both ends (R261). -/
def fabricUdp : Nat := 49430

/-- A frame this port's device sends, without the fields a type leaves out. -/
def Device.frame (d : Device) (k type dst : Nat) : Frame :=
  ⟨type, (d.port k).devNum, dst, 0, 0, 0, 0, false, 0, 0, 0, 0, 0, []⟩

/-! ### Sending (R261, R262, R264, R266 to R268) -/

def Port.peer (p : Port) (dev : Nat) : Peer := p.peers.get Peer.fresh dev
def Port.setPeer (p : Port) (dev : Nat) (x : Peer) : Port := { p with peers := p.peers.put Peer.fresh dev x }

/-- A frame with the layers around it, as port `k` sends it: the tag's priority is that of the traffic class (R261, R262, R266). -/
def Port.wire (p : Port) (k : Nat) (f : Frame) : TxFrame :=
  let src := fabricIp p.sysTop k p.devNum
  let dst := dstIpOf p.sysTop k f.dst
  { dstMac := dstMacOf k f.dst, srcMac := fabricMacOf k p.devNum, pcp := if f.type = ftData then p.lossPrio else p.ctrlPrio, vid := p.vlan,
    srcIp := src, dstIp := dst, hop := 1, srcPort := fabricUdp, dstPort := fabricUdp, udpSum := udpSum fabricUdp src dst (frameBytes f), frame := f }
/-- Port `k` puts a frame on the line. -/
def Port.emit (p : Port) (k : Nat) (f : Frame) : Port := { p with sent := p.wire k f :: p.sent }

/-- PFC holds a priority now (R264). -/
def Port.paused (p : Port) (now prio : Nat) : Bool := decide (now < p.pausedUntil.getD prio 0)

/-- The frame returns credits of the port: an acknowledgement, or a grant that names no stage stream (R265, R268, R286). -/
def Frame.returns (f : Frame) : Bool := f.type == ftAck || (f.type == ftGrant && decide (f.opId < 2 ^ 31))
/-- The two kinds of credits in the field of R265 (notes/assumptions/18). DESIGN CHOICE. -/
def creditWord (x : Peer) : Nat := min 1023 x.owed + 1024 * min 63 x.owedCtrl
def lossOf (n : Nat) : Nat := n % 1024
def ctrlOf (n : Nat) : Nat := n / 1024

/-- A returning frame as it leaves: it carries every credit owed to its destination, an acknowledgement the last sequence accepted (R267, R268). -/
def Port.filled (p : Port) (f : Frame) : Frame :=
  let x := p.peer f.dst
  if f.returns then { f with credits := creditWord x, ackSeq := if f.type = ftAck then (x.expect + 2 ^ 32 - 1) % 2 ^ 32 else 0 } else f

/-- The peer after a control frame to it left: a control credit is used, the credits that the frame carries are no longer owed (R268). -/
def Peer.spent (x : Peer) (f : Frame) : Peer :=
  let y := { x with ctrlCredits := x.ctrlCredits - 1 }
  if f.returns then { y with owed := y.owed - lossOf f.credits, owedCtrl := y.owedCtrl - ctrlOf f.credits, ctrlDue := false } else y

/-- What becomes of one waiting frame of port `k`: the port after it, and whether it left. A grant with nothing to return is dropped; the last control credit leaves only with a frame that returns control credits (notes/assumptions/18). -/
def Port.trySend (p : Port) (k now : Nat) (f : Frame) : Port × Bool :=
  let x := p.peer f.dst
  if p.state ≠ 2 then (p, false)
  else if f.type = ftData then
    if x.credits = 0 ∨ p.paused now p.lossPrio then (p, false)
    else
      let f' := { f with seq := x.nextSeq }
      ((p.setPeer f.dst { x with nextSeq := (x.nextSeq + 1) % 2 ^ 32, credits := x.credits - 1, kept := x.kept ++ [⟨f', 1, now⟩] }).emit k f', true)
  else
    let g := p.filled f
    if f.type = ftGrant ∧ f.returns ∧ g.credits = 0 then (p, true)
    else if x.ctrlCredits = 0 ∨ p.paused now p.ctrlPrio ∨ (x.ctrlCredits = 1 ∧ !(g.returns && decide (0 < ctrlOf g.credits))) then (p, false)
    else ((p.setPeer f.dst (x.spent g)).emit k g, true)

/-- Sends what can be sent of a list, keeping the order of data frames toward one destination; data frames sent are counted. -/
def Port.flush (p : Port) (k now : Nat) : List Frame → Port × List Frame × Nat
  | [] => (p, [], 0)
  | f :: r =>
    let t := p.trySend k now f
    let u := Port.flush t.1 k now r
    if t.2 then (u.1, u.2.1, u.2.2 + if f.type = ftData then 1 else 0) else (u.1, f :: u.2.1, u.2.2)

/-- Sends a port's waiting frames as far as credits and pauses allow. -/
def Device.pump (d : Device) (k : Nat) : Device :=
  let p := d.port k
  let r := p.flush k d.now p.queue
  (d.setPort k { r.1 with queue := r.2.1 }).count 0x806001 r.2.2

/-- Hands a frame to a port. -/
def Device.send (d : Device) (k : Nat) (f : Frame) : Device := (d.modPort k fun p => { p with queue := p.queue ++ [f] }).pump k

/-- A hello frame, to the broadcast address; it uses no credit (R264, R268). Its step field carries the port's link-up count (notes/assumptions/18). DESIGN CHOICE. -/
def Device.hello (d : Device) (k : Nat) : Device := d.modPort k fun p => p.emit k { d.frame k ftHello 0xFF with step := p.ups }

/-- A delivered frame leaves the receive buffer: its slot is free, and its credit owed to its sender (R268). -/
def Port.free (p : Port) (f : Frame) : Port :=
  let x := p.peer f.src
  { (p.setPeer f.src (if x.stale = 0 then { x with owed := x.owed + 1 } else { x with stale := x.stale - 1 })) with lossFree := p.lossFree + 1 }

/-- A peer whose numbering and credits start afresh (R267, R268). -/
def Port.freshPeer (p : Port) (dev : Nat) : Peer := { Peer.fresh with stale := p.held.countP fun f => f.src == dev }

/-- The frames of an operation leave a port's receive buffer. -/
def Port.purge (p : Port) (op : Nat) : Port :=
  (p.held.filter fun f => f.opId == op).foldl (fun p f => p.free f) { p with held := p.held.filter fun f => f.opId != op }

/-- A control frame of `src` takes a control slot and is handled at once: the slot is free again and its credit owed. It is to be returned without waiting unless the frame only returned control credits itself, or two are owed (R268; notes/assumptions/18). -/
def Port.ctrlTaken (p : Port) (src : Nat) (pure' : Bool) : Port :=
  let x := p.peer src
  p.setPeer src { x with owedCtrl := x.owedCtrl + 1, ctrlDue := x.ctrlDue || !pure' || decide (1 ≤ x.owedCtrl) }

/-- A frame that will return credits to `dev` waits already. -/
def Port.returning (p : Port) (dev : Nat) : Bool := p.queue.any fun f => f.dst == dev && f.returns

/-- Returns a port's owed credits in credit grant frames (R268); `all'` also those that would wait for another frame. -/
def Device.returnCredits (d : Device) (k : Nat) (all' : Bool) : Device :=
  (d.port k).peers.foldl (fun d (dev, x) =>
    if (x.owed = 0 ∧ !x.ctrlDue ∧ !(all' && decide (0 < x.owedCtrl))) ∨ (d.port k).state ≠ 2 ∨ (d.port k).returning dev then d
    else d.send k (d.frame k ftGrant dev)) d
def Device.grantOwed (d : Device) (k : Nat) : Device := d.returnCredits k false

/-- The port reaches the destination: up, and its plane usable (R267, R289). -/
def Device.reaches (d : Device) (k dst : Nat) : Bool := (d.port k).state == 2 && !((d.port k).peer dst).unusable

/-- The planes of a device in service (R275). -/
def Device.planesUp (d : Device) : List Nat := (List.range 8).filter fun k => (d.port k).state == 2
/-- Those that reach every one of some devices: the planes that admission counts for a command that sends to them (R275, R289). -/
def Device.planesTo (d : Device) (dsts : List Nat) : List Nat := d.planesUp.filter fun k => dsts.all fun x => d.reaches k x

/-- The plane step `j` of a command leaves on toward `dst`. Its own one of `planes` where that reaches it; else, for a step that has lost its plane, the next that reaches it, and for a later step one of those that remain, in turn (R275, R289). -/
def Device.planeFor (d : Device) (planes : List Nat) (j dst : Nat) (moved : Bool) : Option Nat :=
  let n := planes.length
  let left := planes.filter fun k => d.reaches k dst
  match planes[j % n]? with
  | none => none
  | some own =>
    if left.contains own then some own
    else if moved then (((List.range n).map fun i => planes.getD ((j + i) % n) 0).find? fun k => d.reaches k dst)
    else left[j / n % left.length]?

/-! ### The frames' command -/

/-- The operation id of a fabric command's frames (R265, R273). -/
def Cmd.opId (c : Cmd) : Nat :=
  if opcodeOf c.entry = 0x30 then ent c.entry 0x24 4 else 0x80000000 + ent c.entry 0x20 1

def isFabricOp (op : Nat) : Bool := op == 0x30 || op == 0x31 || op == 0x32

/-- The devices a fabric entry's member sends to: the next in the chain, every other member of an all-to-all, the peer of a stage stream. -/
def sendsTo (e : List Byte) (ms : List Nat) (self peer : Nat) : List Nat :=
  if opcodeOf e = 0x30 then
    if ent e 0x20 1 ≤ 1 then (match ms[positionIn ms self + 1]? with | some x => [memberDev x] | none => [])
    else (ms.map memberDev).filter (· != self)
  else [peer]

/-- The planes that admission counts for a fabric entry (R275, R288, R289). -/
def Device.commandPlanes (d : Device) (e : List Byte) : List Nat :=
  d.planesTo (sendsTo e (groupMembers d.setting (ent e 0x21 1)) d.devNum (d.setting ((0x6200 + ent e 0x20 1) * 256 + 1)))

/-- The devices next to this one in the chain, or at the other end of the stream. -/
def Cmd.neighbours (d : Device) (c : Cmd) : List Nat :=
  let ms := c.members d
  let i := positionIn ms (c.self d)
  (if opcodeOf c.entry = 0x30 ∧ ent c.entry 0x20 1 ≤ 1 ∧ 0 < i then (match ms[i - 1]? with | some e => [memberDev e] | none => []) else []) ++
  sendsTo c.entry ms (c.self d) (c.setting d ((0x6200 + ent c.entry 0x20 1) * 256 + 1))

/-- The message an abort of a stage command names: its own, or the next to be claimed (notes/assumptions/18). -/
def Cmd.abortStep (d : Device) (c : Cmd) : Nat :=
  if opcodeOf c.entry = 0x31 then c.message
  else if opcodeOf c.entry = 0x32 then (d.streams.get Stream.fresh (ent c.entry 0x20 1)).claimed else 0

/-- Sends an abort for a command to its neighbours, each from the first port that reaches it, port `skip` left out (R289). -/
def Device.abortBut (d : Device) (c : Cmd) (skip : Nat) : Device :=
  if isFabricOp (opcodeOf c.entry) then
    (c.neighbours d).foldl (fun d dev =>
      match (List.range 8).find? fun k => k != skip && d.reaches k dev with
      | some k => d.send k { d.frame k ftAbort dev with opId := c.opId, step := c.abortStep d }
      | none => d) d
  else d
def Device.abort (d : Device) (c : Cmd) : Device := d.abortBut c 8

/-- A fabric command fails with FABRIC and sends an abort (R289). -/
def Device.failFabric (d : Device) (tag bay : Nat) : Device :=
  match d.cmd tag with
  | none => d
  | some c => if c.failure.isSome then d else (d.failCmd tag csFabric 0 bay).abort c

/-- A failed check of received sheaves: the command fails with CHECK_MISMATCH and the operation is aborted (R269). -/
def Device.failCheck (d : Device) (tag : Nat) : Device :=
  match d.cmd tag with
  | none => d
  | some c => if c.failure.isSome then d else (d.failWith tag csCheck).abort c

/-- The inbound tokens that a command's accesses wait for are given up (R207). -/
def Device.dropAllWaits (d : Device) (tag : Nat) : Device :=
  { d with bays := d.bays.map fun b => { b with waits := b.waits.filter fun w => w.cmd != tag } }

/-- A port goes out of service with its bay: the steps it was sending leave on other planes (R289, R358). -/
def Device.stopPort (d : Device) (k : Nat) : Device :=
  let d1 := ((d.port k).tokens.filter (·.sending)).foldl (fun d t => d.modCmd t.tag fun c =>
    { c with coll := c.coll.map fun w =>
        { w with work := w.work.put StepWork.none t.step { w.work.get StepWork.none t.step with sent := false, ended := false, moved := true } } }) d
  d1.modPort k fun p => { p with state := 4, peers := [], queue := [], held := [], lossFree := 512, tokens := [], tokensFree := 16 }

/-- A command's chain-step tokens return to their ports (R276). -/
def Device.dropTokens (d : Device) (tag : Nat) : Device :=
  (List.range 8).foldl (fun d k => d.modPort k fun p =>
    let keep := p.tokens.filter fun t => t.tag != tag
    { p with tokens := keep, tokensFree := p.tokensFree + (p.tokens.length - keep.length) }) d

end Sys2Proof.Machine
end

