-- ==== Sys2Proof/Machine/Records.lean ====
section
/-! DEFINITION. The completion of a command: its record, its signal, and what it gives back (R118, R237, R244, R250 to R254). -/

namespace Sys2Proof.Machine

/-- The fields of R250 after the type byte. -/
def completionBytes (d : Device) (c : Cmd) : List Byte :=
  let st := match c.failure with | some f => f.status | none => csSuccess
  let bad := c.failure.isSome
  let u32 := fun (n : Nat) => leBytes 4 (min n (2 ^ 32 - 1))
  let item := fun (i n : Nat) => if bad then leBytes 4 (Config.freeWord (d.drawn + i)).toNat else u32 n
  let sum := fun (f : OutStat → Nat) => (c.outs.map f).sum
  let flags := (if bad then c.flags &&& (Config.freeWord d.drawn).toNat else c.flags) ||| flagIf (decide (c.promise < d.now)) fMissed
  let order := isArrayOp (opcodeOf c.entry) && (foldCtl (ent c.entry 0x40 8)).tree
  leBytes 1 st ++ leBytes 2 c.tag ++ leBytes 4 flags ++ leBytes 8 (ent c.entry 0x10 8) ++ leBytes 8 d.now ++
  item 1 (sum (·.watched)) ++ item 2 (sum (·.tripped)) ++ item 3 (sum (·.reexec)) ++ item 4 (sum (·.excess)) ++ item 5 c.lowest ++
  item 6 (sum (·.sat)) ++ item 7 (sum (·.flush)) ++
  (if bad then leBytes 4 (Config.freeWord (d.drawn + 8)).toNat else leBytes 2 (min c.loadSat 0xFFFF) ++ leBytes 2 (min c.loadFlush 0xFFFF)) ++
  leBytes 2 c.wver ++ leBytes 1 ((if order then 1 else 0) + 2 * c.wset) ++
  leBytes 1 (match c.failure with | some f => f.bay | none => 0xFF) ++ leBytes 1 (match c.failure with | some f => f.cause | none => 0) ++
  leBytes 1 (min 255 c.interruptions)

/-- Writes the completion record into the slot reserved for it, and raises the pair's vector where the entry asks for it (R228, R231, R250). -/
def Device.writeCompletion (d : Device) (c : Cmd) : Device :=
  match c.qp with
  | none => d
  | some q =>
    let d1 := (d.putRecord q.val 2 (completionBytes d c)).drew (if c.failure.isSome then 9 else 0)
    if (ent c.entry 1 1).testBit 2 then d1.raise (d1.setting ((0x7100 + q.val) * 256 + 6)) else d1

/-- The ledger entries of the narrow outputs at completion (R118), and whether one became unusable. -/
def closeLedgers (d : Device) (c : Cmd) : List (Nat × LedgerUse × OutStat) → Device × Bool
  | [] => (d, false)
  | (k, l, o) :: r =>
    let t := ledgerClose d c k l o
    let u := closeLedgers t.1 c r
    (u.1, t.2 || u.2)

/-- What a command still owes on bay `k` when its operations have ended. -/
def Cmd.restOn (c : Cmd) (k : Nat) (g : Charge) : Nat := g.tile + g.fall - ((c.ops.filter fun o => o.bay == k).map (·.charge)).sum

/-- A completed command's remaining charges leave the ledgers (R244, R460). -/
def Device.release (d : Device) (c : Cmd) : Device :=
  let d1 := c.charges.zipIdx.foldl (fun d (g, k) => d.modBay k fun b =>
    if c.urgent then { b with urgentBacklog := b.urgentBacklog - c.restOn k g }
    else { b with tileBacklog := b.tileBacklog - c.restOn k g, memBacklog := b.memBacklog.sub g.booked }) d
  { d1 with ioBacklog := d1.ioBacklog.sub c.io }

/-- What EVENT does at its completion (R236, R237, R239). -/
def Device.eventEffect (d : Device) (c : Cmd) : Device :=
  let e := ent c.entry 0x20 2
  if opcodeOf c.entry ≠ 0x40 ∨ 4096 ≤ e then d
  else if ent c.entry 0x22 1 = 0 then d.addEvent e (ent c.entry 0x24 4)
  else { d with events := d.events.put 0 e 0 }

/-- A free tag goes back in ascending order. -/
def insertTag (t : Nat) : List Nat → List Nat
  | [] => [t]
  | x :: r => if t ≤ x then t :: x :: r else x :: insertTag t r

/-- A failed collective's frames leave the receive buffers. -/
def Device.purgeFrames (d : Device) (c : Cmd) : Device :=
  if opcodeOf c.entry = 0x30 then (List.range 8).foldl (fun d k => d.modPort k (·.purge c.opId)) d else d

/-- A fabric command that could not run before and can now needs its partners from now on (R289). -/
def Device.wakeFabric (d0 d1 : Device) : Device :=
  let woken := fun (c : Cmd) =>
    isFabricOp (opcodeOf c.entry) && d1.mayRun c && !(match d0.cmd c.tag with | some o => d0.mayRun o | none => false)
  { d1 with cmds := d1.cmds.map fun c => if woken c then { c with progressAt := d1.now } else c }

/-- A command's ledger entries close, or, after a failure, free values stand in its outputs (R118, R252); and whether an entry became unusable. -/
def Device.closeOut (d : Device) (c : Cmd) : Device × Bool :=
  if c.failure.isSome then (d.spoil c, false) else closeLedgers d c ((outKeys c.entry).zip (c.ledger.zip c.outs))

/-- The partner that a command last heard of, where that was after its promise: the command is late for it (R289; notes/assumptions/18). -/
def Cmd.lateFor (c : Cmd) : Option Nat :=
  match c.coll with
  | some w => (match w.heard with | some (t, dev) => if c.promise < t then some dev else none | none => none)
  | none => none

/-- A command's record and what is counted with it: a promise missed, a partner late, a carry that saturated (R253, R259, R289). -/
def Device.report (d : Device) (c : Cmd) : Device :=
  let late := decide (c.promise < d.now) && c.failure.isNone
  let d1 := (d.writeCompletion c).count 0x807003 (if late then 1 else 0)
  let d2 := match if late then c.lateFor else none with
    | some dev => (d1.count 0x806006 1).logEvent { type := 0x0A, tag := c.tag, detail := leBytes 1 0xFF ++ leBytes 1 dev ++ leBytes 1 2 }
    | none => d1
  match c.coll with | some w => d2.count 0x806007 (if w.ownCarrySat then 1 else 0) | none => d2

/-- What EVENT does, unless it failed, and the command's own signal (R237, R241). -/
def Device.signal (d : Device) (c : Cmd) : Device :=
  (if c.failure.isSome then d else d.eventEffect c).addEvent (ent c.entry 0x0C 2) 1

/-- Frames, chain-step tokens and charges of a command that leaves. -/
def Device.giveBack (d : Device) (c : Cmd) : Device :=
  (((if c.failure.isSome then d.purgeFrames c else d).dropTokens c.tag).dropAllWaits c.tag).release c

/-- A command is no longer among those in flight: nothing waits for it, and its tag is free. -/
def Device.drop (d : Device) (tag : Nat) : Device :=
  { d with cmds := (d.cmds.filter fun x => x.tag != tag).map fun x => { x with fences := x.fences.erase tag, waitsFor := x.waitsFor.erase tag },
           tagsFree := insertTag tag d.tagsFree }

/-- A command leaves: its record is written, its event signalled, its tag and what else it held returned. -/
def Device.finish (d : Device) (tag : Nat) : Device :=
  match d.cmd tag with
  | none => d
  | some c0 =>
    let x := d.settleTokens.closeOut c0
    let c := { c0 with flags := c0.flags ||| flagIf x.2 fLedger }
    d.wakeFabric ((((x.1.report c).signal c).giveBack c).drop tag)

end Sys2Proof.Machine
end

