-- ==== Sys2Proof/Machine/Recovery.lean ====
section
/-! DEFINITION. The recovery operations shared by every detection: degraded coverage, out of service, rung 2 for a bay and for a pair, rung 3, and the escalation of R360 (R333, R349 to R361). -/

namespace Sys2Proof.Machine

/-! ### Bays -/

/-- Degraded coverage begins on a bay path (R333): 0 network slice, 1 ridge link, 2 die-buffer port, 3 fabric port path, 4 a checker found faulty. -/
def Device.degrade (d : Device) (k path mech : Nat) : Device :=
  if (d.bay k).degraded then d
  else ((d.modBay k fun b => { b with degraded := true }).logEvent { type := 0x0D, bay := k, mech := mech, detail := leBytes 1 path }).alert 1

/-- Every command that uses a bay fails (R8, R357, R358); a member of a collective sends an abort (R289). -/
def Device.failBay (d : Device) (k cause : Nat) : Device :=
  let hit := d.cmds.filter fun c => c.usesBay d k && c.failure.isNone
  hit.foldl (fun d c => (d.failCmd c.tag csBayReset cause k).abortBut c k) d

/-- The tiles of a bay forget their work. -/
def Device.clearTiles (d : Device) (k : Nat) : Device :=
  { d with tiles := d.tiles.filter fun p => p.1 / 1280 != k }

/-- The die buffer and the scratchpads of a bay are cleared (R206, R357). -/
def Device.clearSram (d : Device) (k : Nat) : Device :=
  let die := 0xF000000000 + k * 2 ^ 26
  let sp := 0xF800000000 + k * 2 ^ 32
  { d with mem := d.mem.filter fun p => !(die ≤ p.1 && p.1 < die + 2 ^ 26) && !(sp ≤ p.1 && p.1 < sp + 2 ^ 32),
           poison := d.poison.filter fun l => !(die ≤ 64 * l && 64 * l < die + 2 ^ 26) }

/-- A bay's tags, slots and tokens return together (R257). -/
def Bay.booksFull (b : Bay) : Bay :=
  { b with tallyFree := tallyNormal, tallyUrgentFree := tallyUrgent, slotsFree := 20480, dieTokens := dieBanks, hbmTokens := hbmQueues, waits := [] }

/-- What a record says of the detection behind an action (R365): row of R327's table, nesting, command tag, and further bytes of detail. -/
structure Blame where
  mech : Nat := 0
  nesting : Nat := 0
  tag : Nat := 0xFFFF
  extra : List Byte := []
  deriving DecidableEq, Repr

/-- The books of a bay's port are in balance again (R257, R258). -/
def Port.booksFull (p : Port) : Port :=
  { p with tokensFree := 16 - p.tokens.length, lossFree := 512 - p.held.length, ctrlFree := 128 }

/-- A bay goes out of service (R358); `reason` is the case's place in the list of R358, from 0, or 4 for R359. -/
def Device.outOfService (d : Device) (k reason : Nat) (w : Blame) : Device :=
  if d.bayOut k then d
  else
    let d1 := (d.failBay k (if reason = 0 then 0x03 else 0x05)).clearTiles k
    let d2 := d1.modBay k fun b => { b.booksFull with state := .out, takeOver := none, nesting := 0, resetEnd := 0 }
    ((d2.stopPort k).logEvent
      { type := 0x05, nesting := w.nesting, bay := k, tag := w.tag, mech := w.mech, detail := leBytes 1 reason }).alert 0

/-- Rung 2 for a bay starts (R357 steps 1 to 3). -/
def Device.bayReset (d : Device) (k cause : Nat) (w : Blame) : Device :=
  if d.bayOut k then d
  else
    let n := (d.bay k).nesting
    let d1 := (((d.failBay k cause).clearTiles k).clearSram k).modBay k fun b =>
      { b.booksFull with state := .reset, takeOver := none, nesting := max 1 n, resetEnd := d.now + 2000000 }
    ((d1.modPort k Port.booksFull).logEvent
      { type := 0x04, rung := 2, nesting := w.nesting, bay := k, tag := w.tag, mech := w.mech, detail := leBytes 1 cause ++ w.extra }).rungSeen 2

/-- The physical tiles of a bay off the retired list, in ascending order. -/
def Bay.goodTiles (b : Bay) : List Nat := (List.range 1344).filter fun p => !(b.retired.contains p)

/-- Logical numbers go to the first 1,280 tiles off the retired list; the rest are spare slates (R359). -/
def Bay.assign (b : Bay) : Bay := { b with phys := b.goodTiles.take 1280, spares := b.goodTiles.drop 1280 }

/-- The physical tile of a logical number. -/
def Bay.physOf (b : Bay) (t : Nat) : Nat := b.phys.getD t t

/-- A physical tile joins the retired list, which serial flash keeps (R342, R351). -/
def Device.retireTile (d : Device) (k p : Nat) : Device :=
  let b := d.bay k
  let r := if b.retired.contains p then b.retired else b.retired ++ [p]
  { d.setBay k { b with retired := r, spares := b.spares.erase p } with flash := { d.flash with retired := d.flash.retired.setIfInBounds k r } }

/-- Logical numbers that stand on tiles of the retired list, which run no more (R351). -/
def Bay.unplaced (b : Bay) : List Nat := (List.range 1280).filter fun t => b.retired.contains (b.physOf t)

/-- Fewer spare slates are left than numbers that need one (R358). -/
def Bay.lacksSpare (b : Bay) : Bool := decide (b.spares.length < b.unplaced.length)

/-- A logical number goes to the lowest-numbered free spare slate. -/
def Bay.placeNumber (b : Bay) (t : Nat) : Bay :=
  match b.spares with
  | [] => b
  | s :: ss => let m := ss.foldl min s; { b with phys := b.phys.set t m, spares := b.spares.erase m }

/-- The numbers of tiles retired without a take-over go to spare slates, or the bay goes out of service for want of one (R358; notes/assumptions/32, DEDUCED). -/
def Device.renumber (d : Device) (k : Nat) : Device :=
  if (d.bay k).lacksSpare then d.outOfService k 0 {} else d.modBay k fun b => b.unplaced.foldl Bay.placeNumber b

/-- A detection in a bay that cannot be handled at rung 1 (R360, R361): rung 2, or out of service where the bay is at rung 2 already or this is its third. -/
def Device.escalateBay (d : Device) (k : Nat) (w : Blame) : Device :=
  if (d.bay k).state == .reset || 2 ≤ w.nesting then d.outOfService k 1 w else d.bayReset k 0x05 w

/-- A detection handled at rung 2 (R355): it counts against the bay, which is reset with its cause, or escalates where it is under handling already (R360). -/
def Device.bayDetected (d : Device) (k cause mech tag : Nat) (extra : List Byte) : Device :=
  let n := (d.bay k).nesting
  let d1 := d.modBay k fun b => { b with nesting := b.nesting + 1 }
  if n = 0 then d1.bayReset k cause ⟨mech, 0, tag, extra⟩ else d1.escalateBay k ⟨mech, min 2 n, tag, []⟩

/-! ### Queue pairs -/

/-- The accepted commands of a pair end with ABORTED, and their records are written (R357). -/
def Device.abortCmds (d : Device) (which : Cmd → Bool) : Device :=
  (d.cmds.filter which).foldl (fun d c => (((d.failCmd c.tag csAborted 0 0xFF).abort c)).finish c.tag) d

/-- Rung 2 for a queue pair (R357): the pair is left disabled, head and tail at 0. -/
def Device.pairReset (d : Device) (q mech : Nat) : Device :=
  let mine := fun (c : Cmd) => match c.qp with | some p => p.val == q | none => false
  let n := d.cmds.countP mine
  let d1 := d.abortCmds mine
  let d2 := { d1 with fetched := d1.fetched.filter fun f => f.q.val != q }
  ((d2.setQueue q QPair.fresh).logEvent { type := 0x06, rung := 2, qp := q, mech := mech, detail := leBytes 4 n }).rungSeen 2

/-! ### Ownership and sessions (R402, R403, R411) -/

/-- The owner code of a path (R401). -/
def pathCode : Path → Nat
  | .inband => 0x01
  | .spi => 0x02
  | .brynuo k => 0x10 + k.val

def Dict.path (x : Dict) : Path → PathState
  | .inband => x.inbandPath
  | .spi => x.spiPath
  | .brynuo k => x.brynuoPaths[k]

def Dict.setPath (x : Dict) (p : Path) (s : PathState) : Dict :=
  match p with
  | .inband => { x with inbandPath := s }
  | .spi => { x with spiPath := s }
  | .brynuo k => { x with brynuoPaths := x.brynuoPaths.set k s }

/-- The path of an owner code. -/
def ownerPath (o : Nat) : Option Path :=
  if o = 1 then some .inband else if o = 2 then some .spi
  else if h : o - 0x10 < 4 ∧ 0x10 ≤ o then some (.brynuo ⟨o - 0x10, h.1⟩) else none

/-- A path's pending segmented write is given up. The state of a Brynuo session shows it, and changes with it (R394, R401). -/
def Dict.dropSeg (x : Dict) (p : Path) : Dict :=
  match p, (x.path p).seg with
  | _, none => x
  | .brynuo k, some _ => { x.setPath p { x.path p with seg := none } with gens := x.gens.upd 0 (0x110101 + k.val) (· + 1) }
  | _, some _ => x.setPath p { x.path p with seg := none }

/-- The owner's pending segmented write is discarded. -/
def Dict.disown (x : Dict) : Dict :=
  match ownerPath x.owner with | some p => x.dropSeg p | none => x

/-- The slot that is programmed or verified. -/
def Device.loadingSlot (d : Device) : Option Nat :=
  if d.images.loadState = 1 then d.images.loading.map (·.1) else if d.images.loadState = 2 then some (d.setting 0xA00201) else none

/-- Programming or verification cut short leaves its slot invalid until it is loaded again (R432, R451). -/
def Flash.cutShort (f : Flash) : Option Nat → Flash
  | some t => { f with slots := f.slots.setIfInBounds t { (f.slots[t]?.getD ⟨[], 1, false⟩) with verdict := 2, cut := true } }
  | none => f

/-- Programming or verification ends with the loss of ownership. -/
def Device.loadCut (d : Device) : Device :=
  match d.loadingSlot with
  | some t => { d.touch (0xA00101 + t) with flash := d.flash.cutShort (some t), images := { d.images with loadState := 4, loading := none } }
  | none => d

/-- The owner changes: the former owner's pending segmented write is discarded, programming it had under way ends (R402, R403, R432). -/
def Device.setOwner (d : Device) (o : Nat) : Device :=
  if d.dict.owner = o then d
  else
    ((d.withDict fun x => { x.disown with owner := o, ownerSince := d.now }).count 0x80B006 1).loadCut

/-- The path of Brynuo session `k`. -/
def pathIsSession (k : Nat) : Path → Bool
  | .brynuo j => j.val == k
  | .inband => false
  | .spi => false

/-- A session closes, and its requests that have not begun service are not executed (R395, R403, R409). -/
def Device.closeSession (d : Device) (k : Nat) : Device :=
  let d1 := if d.dict.owner = 0x10 + k then d.setOwner 0 else d
  (d1.withDict fun x => { x with requests := x.requests.filter fun q => !(pathIsSession k q.path), sessions := x.sessions.setIfInBounds k Session.closed,
                                 brynuoPaths := x.brynuoPaths.setIfInBounds k PathState.fresh }).touch (0x110101 + k)

/-! ### Rung 3 (R357, R392, R435) -/

/-- The objects that a rung-3 reset keeps: those committed to flash (R392). -/
def keptVal (p : Nat × Option Nat) : Bool :=
  match objRow p.1 with | some r => r.acc == .rwp | none => false

/-- Everything a power-on or a restart from step 3 loses and a rung-3 reset loses too: queue pairs, events, scratchpads, die buffers, groups, streams and tables of settings. -/
def Device.clearWork (d : Device) : Device :=
  let d1 := (List.range 8).foldl (fun d k => (d.clearSram k).clearTiles k) d
  { d1 with queues := Vector.replicate 64 QPair.fresh, fetched := [], lastPair := 63, lastHigh := 63, tagsFree := List.range 8192, cmds := [], events := [],
            ioBacklog := Q.zero, streams := [], curSet := 0, verA := 0, verB := 0, stepCounter := 0,
            ports := d1.ports.map fun p => { Port.fresh with state := if p.state = 4 then 4 else 0, ups := p.ups }, spdmStage := 0,
            dict := { d1.dict with vals := d1.dict.vals.filter keptVal, inband := Inband.fresh,
                                   requests := d1.dict.requests.filter fun q => q.path != .inband,
                                   inbandPath := { d1.dict.inbandPath with cursor := 0, seg := none },
                                   spiPath := { d1.dict.spiPath with cursor := 0, seg := none } },
            bays := d1.bays.map fun b =>
              { Bay.fresh with state := if b.state == .out then .out else .startUp, degraded := b.degraded, retired := b.retired, phys := b.phys,
                               spares := b.spares, rowErrors := b.rowErrors, remaps := b.remaps, badReserve := b.badReserve,
                               remapDirty := b.remapDirty, retries := [], scrubNext := b.scrubNext },
            safety := { d1.safety with errors := [], beacon := ⟨none, [], []⟩, tagAuditAt := none } }

/-- Ember register `i` (R368); the fourth is what the bays and the ladder are now. -/
def Device.emberWord (d : Device) (i : Nat) : Nat :=
  if i = 4 then
    (d.bays.toList.countP fun b => b.state == .out) + 256 * (d.bays.toList.countP fun b => b.degraded) + 65536 * d.safety.highestRung
  else (d.log.ember[i]?.getD 0).toNat

def emberDetail (e : Nat → Nat) : List Byte := [1, 2, 3, 4, 5, 6].flatMap fun i => leBytes 4 (e i)

/-- The log state's word in ember register 0. -/
def emberZero (state now : Nat) : W32 := BitVec.ofNat 32 (state * 2 ^ 24 + now / 1000000000 % 2 ^ 24)

/-- The log at a rung-3 reset (R367): out of single copy or log lost it is rebuilt with a record that carries ember registers 1 to 6. -/
def Device.rebuildLog (d : Device) : Device :=
  let l := d.log
  if l.state = 0 then d
  else
    let good := if l.state = 2 then [] else if l.badCopy = 0 then l.copyB else l.copyA
    let det := emberDetail d.emberWord
    { d with log := { l with copyA := good, copyB := good, state := 0, badCopy := 0, ember := l.ember.setIfInBounds 0 (emberZero 0 d.now) } }.logEvent { type := 0x0E, detail := det }

/-- Rung 3 starts (R357): commands end with ABORTED, pairs are disabled, ownership and sessions end. `handling` 3 is a restart of it (R360). -/
def Device.rung3 (d : Device) (o : ResetOrigin) (handling : Nat) (w : Blame) : Device :=
  let code := match o with | .functionLevel => 0 | .hot => 1 | .perst => 2 | .self => 3
  let d1 := (d.abortCmds fun _ => true).setOwner 0
  let d2 := [0, 1, 2, 3].foldl (fun d k => d.closeSession k) d1
  let d3 := (d2.clearWork).withPower fun p =>
    { p with phase := .resetting, origin := o, powerState := 0, pmeStatus := decide (o = .self) && p.pmeStatus, wakeDue := false, l23 := false,
             linkUp := if o = .perst then false else p.linkUp }
  let d3 := d3.withOut fun x => if o = .self then x else x.msixReset
  let d4 := d3.withSafety fun s => { s with devHandling := handling, alert := s.alert &&& 3, powerCycle := false }
  (d4.rebuildLog.logEvent { type := 0x07, rung := 3, nesting := w.nesting, mech := w.mech, detail := leBytes 1 code }).rungSeen 3

/-- The safe state of the module (R325): every bay out of service. -/
def Device.safeState (d : Device) : Device := (List.range 8).foldl (fun d k => d.outOfService k 1 ⟨5, 2, 0xFFFF, []⟩) d

/-- A detection in the device domain (R355, R360): a rollback, then rung 3, one restart of it, then the safe state. -/
def Device.deviceDetected (d : Device) : Device :=
  let h := d.safety.devHandling
  if h = 0 then ((d.withSafety fun s => { s with devHandling := 1 }).rungSeen 1).alert 6
  else if h = 1 then d.rung3 .self 2 ⟨5, 1, 0xFFFF, []⟩
  else if h = 2 then d.rung3 .self 3 ⟨5, if d.power.origin = .self then 2 else 1, 0xFFFF, []⟩
  else
    let d1 := d.safeState
    if d1.setting 0x405006 = 1 then
      (d1.withSafety fun s => { s with powerCycle := true }).logEvent { type := 0x08, rung := 4, nesting := 2, mech := 5, detail := leBytes 1 1 }
    else d1

/-! ### Detections and the error queue (R327, R345, R351, R361) -/

/-- The counter of a detection; a double error in a die buffer has none (R225 counts bursts of the stacks). -/
def detCounter : Detected → Option Nat
  | .tileParity => some 0x80A001
  | .pathParity _ => some 0x80A001
  | .residue => some 0x80A002
  | .vectorCheck => some 0x80A002
  | .twin => some 0x80A003
  | .lockstep => some 0x80A004
  | .dieCorrected _ => some 0x805006
  | .dieDouble _ => none

/-- The row of R327's table. -/
def detMech : Detected → Nat
  | .tileParity => 1
  | .pathParity _ => 1
  | .residue => 2
  | .twin => 3
  | .vectorCheck => 4
  | .lockstep => 5
  | .dieCorrected _ => 8
  | .dieDouble _ => 8

/-- The detection is blamed on the tile (R351). -/
def detBlamesTile : Detected → Bool
  | .tileParity => true
  | .residue => true
  | .twin => true
  | .vectorCheck => true
  | .lockstep => true
  | .pathParity _ => false
  | .dieCorrected _ => false
  | .dieDouble _ => false

/-- The bay a detection by bay `k` is blamed on: for a die buffer, the buffer's own (R206, R327). -/
def detBay (k : Nat) : Detected → Nat
  | .dieDouble b => b.val
  | .tileParity | .pathParity _ | .residue | .twin | .vectorCheck | .lockstep | .dieCorrected _ => k

/-- The tile that a detection names: none for a die buffer. -/
def detTile (tile : Nat) : Detected → Nat
  | .dieDouble _ => 0xFFFF
  | .tileParity | .pathParity _ | .residue | .twin | .vectorCheck | .lockstep | .dieCorrected _ => tile

/-- A detection enters the error queue, or finds it full (R361). -/
def Device.pushError (d : Device) (k tile tag : Nat) (f : Detected) : Device :=
  let n := (d.bay k).nesting
  let d1 := d.modBay k fun b => { b with nesting := b.nesting + 1 }
  let d2 := if d.log.state = 2 then emberAdd d1 1 else d1
  if d2.safety.errors.length < 256 then
    d2.withSafety fun s => { s with errors := s.errors ++ [⟨k, tile, tag, f, d.now, min n 2⟩] }
  else ((emberAdd d2 6).logEvent { type := 0x0F, nesting := min n 2, bay := k, tile := tile, tag := tag, mech := detMech f, detail := leBytes 4 1 }).escalateBay k ⟨detMech f, min n 2, tag, []⟩

/-- What a mechanism finds while a tile works is counted and recorded (R345, R361); a corrected die-buffer bit is only counted (R206). -/
def Device.detect (d : Device) (k tile tag : Nat) (f : Detected) : Device :=
  let d1 := match detCounter f with | some a => d.count a 1 | none => d
  match f with
  | .dieCorrected _ => d1
  | _ => if d.bayOut (detBay k f) then d1 else d1.pushError (detBay k f) (detTile tile f) tag f

def Device.detectAll (d : Device) (k tile tag : Nat) (fs : List Detected) : Device := fs.foldl (fun d f => d.detect k tile tag f) d

/-- Something was found that stops the work it struck. -/
def fatal (fs : List Detected) : Bool := fs.any fun f => match f with | .dieCorrected _ => false | _ => true

/-- What can be found where no tile works: errors of bay paths and die buffers (R206, R327). -/
def pathsOnly (fs : List Detected) : List Detected := fs.filter fun f => !(detBlamesTile f)

/-- A detection in a command's work still waits for its handling (R326). -/
def Device.struck (d : Device) (tag : Nat) : Bool := d.safety.errors.any fun e => e.tag == tag

/-- The tile repeats work from a snapshot, and starts nothing else before resume (R352). -/
def Device.repeats (d : Device) (k t : Nat) : Bool :=
  match (d.bay k).takeOver with | some x => x.tile == t && x.stage == .repeating | none => false

/-- A tile that runs: its bay works, no flicker hold or heat stops its beats, it is not contained, and no comparison holds it (R349, R352, R361, R376, R381). -/
def Device.tileRuns (d : Device) (k t : Nat) : Bool :=
  let b := d.bay k
  (b.state == .run || b.state == .test || b.state == .recovery) && b.holdSince.isNone && decide (d.pace.hottest < 1100) &&
  !(match b.takeOver with | some x => x.tile == t && (x.stage == .containing || x.stage == .fetching) | none => false) &&
  !(d.safety.errors.any fun e => e.bay == k && e.tile == t) &&
  !(match d.safety.beacon.round with | some r => r.comparing == some (tileKey k t) | none => false) && d.power.powerState == 0

end Sys2Proof.Machine
end

