-- ==== Sys2Proof/Machine/Array.lean ====
section
/-! DEFINITION. Array operations on a tile (chapter 06): placement and co-issue, block ends, course ends with homes and snapshots, pre-emption, and the drain. -/

namespace Sys2Proof.Machine

/-- The whole blocks a segment's arrays step through: 8 value blocks for each key course under ATTENTION. -/
def ArrayCmd.steps (a : ArrayCmd) : Nat := if a.isAtt then 8 * a.courses else a.blocks
/-- The block position at which course `c` is complete. -/
def ArrayCmd.courseAt (a : ArrayCmd) (c : Nat) : Nat := min a.steps (8 * (c + 1))

/-- The activation block of output row `m` at own position `q` (R127, R146, R463). -/
def actBlock (d : Device) (x : ReadCtx) (a : ArrayCmd) (m q : Nat) : Except Nat Loaded :=
  if a.op = 3 then
    let per := a.conv.cp / 32
    let g := 8 * a.fold.c0 + q
    match a.conv.pixel m (g / per) with
    | some p => loadBlock d x a.a p (g % per)
    | none => .ok ⟨BlockVal.zero, 0, 0, 0⟩
  else loadBlock d x a.a m q

def wgtBlock (d : Device) (x : ReadCtx) (a : ArrayCmd) (n q : Nat) : Except Nat Loaded := loadBlock d x a.b n q

/-! ### Rates and placement (R131, R134, R136, R160) -/

/-- 4 × b of R134: the beats of four reduction positions. -/
def beats4 (ca cb m n : Nat) : Nat :=
  let wa := decide (ca = 8)
  let wb := decide (cb = 8)
  let rs := decide (m ≤ 8)
  let cs := decide (n ≤ 32)
  if wa && wb then 4 * (if rs then 1 else 2) * (if cs then 1 else 2)
  else if wa then (if rs then 4 else 8)
  else if wb then (if cs then 4 else 8)
  else if ca = 1 ∧ cb = 1 then 1
  else if ca ≤ 2 ∧ cb ≤ 2 then 2
  else 4

/-- The snapshot stride Q. -/
def snapStride (b4 : Nat) : Nat := if b4 = 1 then 256 else if b4 = 2 then 128 else if b4 = 4 then 64 else if b4 = 8 then 32 else 16

/-- The rate of R131 that two classes select. -/
def rateOf (ca cb : Nat) : Nat :=
  if ca = 8 ∧ cb = 8 then 5 else if ca = 8 then 3 else if cb = 8 then 4 else if ca = 1 ∧ cb = 1 then 0 else if ca ≤ 2 ∧ cb ≤ 2 then 1 else 2

def rowSplit (ca m : Nat) : Bool := ca == 8 && m ≤ 8
def colSplit (cb n : Nat) : Bool := cb == 8 && n ≤ 32

/-- The arrays a shape occupies (R136). -/
def arraysOf (cb n : Nat) : Nat := if colSplit cb n then n / 8 else n / 16

/-- The lanes of an output block placed from array `base` up, in row order. Of the two rows or columns a split element takes, the value stands in the first (notes/assumptions/40). DESIGN CHOICE. -/
def blockLanes (ca cb : Nat) (o : TileOp) (base : Nat) : List Nat :=
  (List.range o.rows).flatMap fun r => (List.range o.cols).map fun c =>
    let r' := if rowSplit ca o.shapeM then 2 * r else r
    let c' := if colSplit cb o.shapeN then 2 * c else c
    256 * (base + c' / 16) + 16 * r' + c' % 16

/-- An operation on the arrays with its command. -/
structure Piece where
  mem : Member
  cmd : Cmd
  op : TileOp
  arr : ArrayCmd
  deriving DecidableEq, Repr

/-- What a member works on; a status of R252 where its tables cannot be used. -/
def Device.pieceOf (d : Device) (m : Member) : Except Nat Piece :=
  match d.cmd m.cmd with
  | none => .error csAccess
  | some c =>
    match c.ops[m.op]? with
    | none => .error csAccess
    | some o => match c.arrayCmd d with | .error s => .error s | .ok a => .ok ⟨m, c, o, a⟩

def Piece.tree (p : Piece) : Bool := p.arr.fold.tree
/-- D of R165. -/
def Piece.dep (p : Piece) : Nat := homeDepth p.arr.fold.c0 p.arr.courses
def Piece.stride (p : Piece) : Nat := snapStride (beats4 p.arr.a.cls p.arr.b.cls p.op.shapeM p.op.shapeN)

/-- An operation may join the group of which `p` is a member (R136): the same activation sheaves over the same positions, rate, fold order, course offset and class; two ATTENTION operations only of one command, which holds the vector unit for both (R124). -/
def Piece.joins (p : Piece) (c : Cmd) (o : TileOp) (a : ArrayCmd) : Bool :=
  p.arr.op == a.op && p.arr.a == a.a && p.arr.conv == a.conv && p.op.row0 == o.row0 && p.op.rows == o.rows && p.op.shapeM == o.shapeM &&
  p.arr.blocks == a.blocks && rateOf p.arr.a.cls p.arr.b.cls == rateOf a.a.cls a.b.cls &&
  p.arr.fold.tree == a.fold.tree && p.arr.fold.c0 == a.fold.c0 && classOf p.cmd.entry == classOf c.entry && (!a.isAtt || p.cmd.tag == c.tag)

/-- The lowest array from which `n` arrays are idle. -/
def ArrayGroup.freeBase (g : ArrayGroup) (n : Nat) : Option Nat :=
  (List.range 4).find? fun b => b + n ≤ 4 && (List.range' b n).all fun a => (g.onArray a).isNone

/-! ### Starting (R93, R94, R128, R200) -/


/-- The bytes of an element's fold-state record. -/
def foldRecordAt (d : Device) (a : ArrayCmd) (e : Nat) : Except Nat (List Byte) :=
  let n := foldStride a.fold.tree a.isAtt
  match d.read (a.foldIn + n * e) n with
  | .error s => .error s
  | .ok bs => match foldRecordBad a.fold.tree a.isAtt a.fold.c0 bs with | some s => .error s | none => .ok bs

/-- What one lane starts with: its stack, top first, what stands beside it under ATTENTION, its own flags, and those carried in. -/
structure LaneStart where
  stack : List Acc
  att : List AttState
  own : Nat
  carried : Nat
  deriving DecidableEq, Repr

def startLane (d : Device) (x : ReadCtx) (a : ArrayCmd) (m n : Nat) : Except Nat LaneStart :=
  let dep := foldDepth a.fold.tree a.fold.c0
  if a.fold.foldIn then
    match foldRecordAt d a (m * a.cols + n) with
    | .error s => .error s
    | .ok bs =>
      let car := bytesNat bs 6 1 % 8
      if a.isAtt then
        let es := recordAtts dep bs
        .ok ⟨es.map (·.o), es.map fun e => ⟨e.l, e.m, e.empty⟩, 0, car⟩
      else .ok ⟨recordAccs dep bs, [], 0, car⟩
  else if a.isAtt || a.fold.tree then .ok ⟨[], [], 0, 0⟩
  else
    match readPreload d x a.fold a.pre m n a.cols with
    | .error s => .error s
    | .ok p => .ok ⟨[p.v], [], p.flags, 0⟩

/-- The elements of an output block, in row order. -/
def opElems (o : TileOp) : List (Nat × Nat) :=
  (List.range o.rows).flatMap fun r => (List.range o.cols).map fun c => (o.row0 + r, o.col0 + c)

/-- The stack entries below the tops, position by position from the bottom, go into their homes. -/
def Device.putStacks (d : Device) (k t dep bank : Nat) (lanes : List Nat) (entries : List (List Acc)) : Device :=
  let n := (entries.headD []).length - 1
  (List.range n).foldl (fun d pos =>
    d.putHome k t dep bank pos 0 ((lanes.zip entries).map fun p => (p.1, p.2.reverse.getD pos accZero))) d

/-- An operation placed from array `base` up, from its preload, its records, or nothing; the course accumulators of its lanes are +0. -/
def Device.place (d : Device) (k t : Nat) (x : ReadCtx) (a : ArrayCmd) (tag i : Nat) (o : TileOp) (base bank : Nat) : Except Nat (Device × Member) :=
  match allOk (fun (p : Nat × Nat) => startLane d x a p.1 p.2) (opElems o) with
  | .error s => .error s
  | .ok ls =>
    let lanes := blockLanes a.a.cls a.b.cls o base
    let m : Member :=
      { cmd := tag, op := i, base := base, arrays := arraysOf a.b.cls o.shapeN, lanes := lanes, flags := ls.map fun l => (l.own, l.carried),
        weights := [], att := if a.isAtt then ls.map (·.att) else [], start := some (ls.map fun l => l.stack.headD accZero), loadSat := 0, loadFlush := 0 }
    let d1 := d.putStacks k t (homeDepth a.fold.c0 a.courses) bank lanes (ls.map (·.stack))
    let tl := d1.tile (tileKey k t)
    .ok (d1.setTile (tileKey k t) (tl.eachLane lanes lanes fun l _ => { l with block := 0, course := accZero }), m)

/-! ### A block end (R127 to R129, R329) -/

/-- A lane after a block: its register as summed and as upset, the residue test, and the fold of its scaled partial; with the flags of the fold. -/
def closeBlock (l : Lane) (flips : List Nat) (sum residue : Int) (scaled : Int → Q) : Lane × Bool × Nat :=
  let reg := flips.foldl flipBit sum
  if (reg - residue) % 255 == 0 then
    let r := foldPartial l.course (scaled reg)
    ({ l with block := 0, course := r.v }, true, r.flags)
  else ({ l with block := reg }, false, 0)

/-- What a block makes of a member: its lanes, whether every residue agreed, and the member itself. -/
structure BlockOut where
  lanes : List (Lane × Bool)
  mem : Member
  deriving DecidableEq, Repr

/-- The upset bits of a lane. -/
def flipsOf (upsets : List (Nat × Nat)) (lane : Nat) : List Nat := (upsets.filter fun (u : Nat × Nat) => u.1 == lane).map fun (u : Nat × Nat) => u.2

/-- Closes a block in every lane of a member; `f` gives lane number n of its output block its sum, residue, scaling and operand flags. -/
def closeBlocks (tl : Tile) (m : Member) (upsets : List (Nat × Nat)) (sat flush : Nat) (f : Nat → Int × Int × (Int → Q) × Nat) : BlockOut :=
  let out := (m.lanes.zip m.flags).zipIdx.map fun ((i, fl), n) =>
    let w := f n
    let r := closeBlock (tl.lane i) (flipsOf upsets i) w.1 w.2.1 w.2.2.1
    ((r.1, r.2.1), (fl.1 ||| w.2.2.2 ||| r.2.2, fl.2))
  ⟨out.map (·.1), { m with flags := out.map (·.2), loadSat := m.loadSat + sat, loadFlush := m.loadFlush + flush }⟩

def Loaded.none : Loaded := ⟨BlockVal.zero, 0, 0, 0⟩

/-- A block of MATMUL or CONV in a member. Load counts are taken where a block is read first. -/
def mulBlock (d : Device) (x : ReadCtx) (p : Piece) (tl : Tile) (pos : Nat) (upsets : List (Nat × Nat)) : Except Nat BlockOut :=
  let a := p.arr
  let o := p.op
  match allOk (fun r => actBlock d x a r pos) (List.range' o.row0 o.rows), allOk (fun n => wgtBlock d x a n pos) (List.range' o.col0 o.cols) with
  | .error s, _ => .error s
  | _, .error s => .error s
  | .ok rs, .ok cs =>
    let sum := fun (f : Loaded → Nat) => (if o.col0 = 0 then (rs.map f).sum else 0) + (if o.row0 = 0 then (cs.map f).sum else 0)
    .ok (closeBlocks tl p.mem upsets (sum (·.sat)) (sum (·.flush)) fun n =>
      let r := rs.getD (n / max 1 o.cols) Loaded.none
      let c := cs.getD (n % max 1 o.cols) Loaded.none
      (blockSum r.blk c.blk, blockResidue r.blk c.blk, fun reg => scaleBlock reg r.blk c.blk, r.flags ||| c.flags))

/-- All blocks of a channel. -/
def channelLoad (d : Device) (x : ReadCtx) (o : Operand) (c : Nat) : Except Nat (List Loaded) :=
  allOk (fun q => loadBlock d x o c q) (List.range o.tab.blocks)

/-- The weights of key course `c` for a member's rows (R197), with the counts of the operands read first there. -/
def attWeights (d : Device) (x : ReadCtx) (p : Piece) (c : Nat) : Except Nat (List RowCourse × Nat × Nat) :=
  let a := p.arr
  let o := p.op
  let n := min 256 (a.b.tab.outer - 256 * c)
  match allOk (channelLoad d x a.a) (List.range' o.row0 o.rows), allOk (channelLoad d x a.b) (List.range' (256 * c) n),
      allOk (β := List Byte) (fun i => if a.att.mask = 2 then d.read (a.att.maskAddr + i * a.b.tab.outer + 256 * c) n else .ok []) (List.range' o.row0 o.rows) with
  | .ok (qs : List (List Loaded)), .ok (ks : List (List Loaded)), .ok (ms : List (List Byte)) =>
    let fl := fun (l : List (List Loaded)) => flagsOf (fun b => flagsOf (·.flags) b) l
    let kb := ks.map fun b => b.map (·.blk)
    let rows := qs.zipIdx.map fun ((q, r) : List Loaded × Nat) =>
      let w := rowCourse a (o.row0 + r) c (ms.getD r []) (q.map (·.blk)) kb
      { w with flags := w.flags ||| flagsOf (·.flags) q ||| fl ks }
    let cnt := fun (f : Loaded → Nat) (l : List (List Loaded)) => (l.map fun b => (b.map f).sum).sum
    let once := fun (f : Loaded → Nat) (g : RowCourse → Nat) =>
      if o.col0 = 0 then (rows.map g).sum + (if c = 0 then cnt f qs else 0) + (if o.row0 = 0 then cnt f ks else 0) else 0
    .ok (rows, once (·.sat) (·.sat), once (·.flush) (·.flush))
  | .error s, _, _ => .error s
  | _, .error s, _ => .error s
  | _, _, .error s => .error s

def RowCourse.none : RowCourse := ⟨[], accZero, f32Inf true, true, 0, 0, 0⟩

/-- A block of 32 keys of ATTENTION in a member: the first block of a course forms the course's weights; each folds its weighted values (R84, R197). -/
def attBlock (d : Device) (x : ReadCtx) (p : Piece) (tl : Tile) (pos : Nat) (upsets : List (Nat × Nat)) : Except Nat BlockOut :=
  let a := p.arr
  let o := p.op
  let k0 := 32 * pos
  let n := min 32 (a.b.tab.outer - k0)
  match (if pos % 8 = 0 then attWeights d x p (pos / 8) else .ok (p.mem.weights, 0, 0)),
      allOk (fun key => allOk (fun q => loadBlock d x a.v key q) (List.range' (o.col0 / 32) (ceilDiv o.cols 32))) (List.range' k0 n) with
  | .error s, _ => .error s
  | _, .error s => .error s
  | .ok ws, .ok (vs : List (List Loaded)) =>
    let sum := fun (f : Loaded → Nat) => if o.row0 = 0 then (vs.map fun b => (b.map f).sum).sum else 0
    .ok (closeBlocks tl { p.mem with weights := ws.1 } upsets (ws.2.1 + sum (·.sat)) (ws.2.2 + sum (·.flush)) fun i =>
      let w := ws.1.getD (i / max 1 o.cols) RowCourse.none
      let blk := w.blocks.getD (pos % 8) BlockVal.zero
      let c := i % max 1 o.cols
      let col := vs.map fun b => b.getD (c / 32) Loaded.none
      let es := col.map fun b => b.blk.elems.getD (c % 32) Elem.zero
      let s := valueSum blk es
      (s, valueResidue blk es,
        fun reg => (valuePartial blk (col.map fun b => b.blk.at' (c % 32))).add (((Q.ofInt (reg - s)).scale (-32)).mul blk.s8.val),
        w.flags ||| flagsOf (·.flags) col))

/-- Replaces the members that `ms` gives anew. -/
def ArrayGroup.put (g : ArrayGroup) (ms : List Member) : ArrayGroup :=
  { g with members := g.members.map fun m => (ms.find? fun x => x.hit m.cmd m.op).getD m }

/-- The lanes a block leaves: all of them where every residue agrees; else only the registers that disagree, and no lane goes on. -/
def Tile.closed (tl : Tile) (outs : List BlockOut) (ok : Bool) : Tile :=
  outs.foldl (fun t b => t.eachLane b.mem.lanes b.lanes fun l n => if ok || !n.2 then n.1 else l) tl

/-! ### A course end (R84 to R86, R129, R165 to R167, R197, R198) -/

/-- Stack depth before course `c` is folded, and how many entries it merges with. -/
def Piece.depth (p : Piece) (c : Nat) : Nat := if p.tree then bitsSet 25 c else if p.arr.isAtt then (p.mem.att.headD []).length else 1
def Piece.pops (p : Piece) (c : Nat) : Nat := if p.tree then trailingOnes 24 c else p.depth c

/-- The entries a lane's course sum merges with, top first: the running accumulator, then those in homes. -/
def Device.popped (d : Device) (k t : Nat) (g : ArrayGroup) (p : Piece) (c lane : Nat) : Except Nat (List Acc) :=
  let n := p.pops c
  if n = 0 then .ok []
  else
    match allOk (fun j => d.homeAt k t p.dep (p.depth c - 2 - j) g lane) (List.range (n - 1)) with
    | .error s => .error s
    | .ok es => .ok (((d.tile (tileKey k t)).lane lane).run :: es)

/-- Merges a course's result with the entries below it, top first (R85, R86). -/
def mergeDown {α : Type} (merge : α → α → Flagged α) (t : α) (es : List α) : Flagged α := collapse merge t (t :: es)

/-- A member after course `c`: the new running values and the member. -/
def Device.foldMember (d : Device) (k t : Nat) (g : ArrayGroup) (p : Piece) (c : Nat) : Except Nat (List Acc × Member) :=
  let m := p.mem
  let tl := d.tile (tileKey k t)
  match allOk (fun i => d.popped k t g p c i) m.lanes with
  | .error s => .error s
  | .ok es =>
    let out := (m.lanes.zip es).zipIdx.map fun ((i, e), n) =>
      let cs := (tl.lane i).course
      if p.arr.isAtt then
        let w := m.weights.getD (n / max 1 p.op.cols) RowCourse.none
        let st := m.att.getD n []
        let r := mergeDown attMerge ⟨cs, w.l, w.m, w.empty⟩ ((e.zip st).map fun ((o, s) : Acc × AttState) => (⟨o, s.l, s.m, s.empty⟩ : AttEntry))
        (r.v.o, r.flags, (⟨r.v.l, r.v.m, r.v.empty⟩ : AttState) :: st.drop (p.pops c))
      else
        let r := mergeDown accMerge cs e
        (r.v, r.flags, [])
    .ok (out.map (·.1), { m with
      weights := [], flags := (m.flags.zip out).map fun (f, r) => (f.1 ||| r.2.1, f.2), att := if p.arr.isAtt then out.map (·.2.2) else [] })

/-- Folds a course in every lane of a member. -/
def Tile.folded (tl : Tile) (m : Member) (vs : List Acc) : Tile := tl.eachLane m.lanes vs fun l v => { l with course := accZero, run := v }

/-- The entries below each lane's top once the last course is folded, top first. -/
def Device.lowerStacks (d : Device) (k t : Nat) (g : ArrayGroup) (p : Piece) : Except Nat (List (List Acc)) :=
  let n := if p.tree then bitsSet 25 (p.arr.fold.c0 + p.arr.courses) else 1
  allOk (fun i => allOk (fun j => d.homeAt k t p.dep (n - 2 - j) g i) (List.range (n - 1))) p.mem.lanes

/-- A member whose last course is folded goes to the drain path; its command fails where an entry of its stack cannot be read. -/
def Device.toDrain (d : Device) (k t : Nat) (g : ArrayGroup) (p : Piece) : Device :=
  match d.lowerStacks k t g p with
  | .error s => d.failWith p.cmd.tag s
  | .ok ls =>
    let tl := d.tile (tileKey k t)
    d.setTile (tileKey k t) { tl with
      arr := tl.arr.bind fun x => x.without p.mem.cmd p.mem.op
      drains := tl.drains ++ [⟨p.mem, true, ls⟩] }

/-- With its last course folded a group leaves the arrays to the next operation (R142). -/
def Device.finishGroup (d : Device) (k t : Nat) (g : ArrayGroup) (ps : List Piece) : Device :=
  match ps with
  | [] => d
  | p :: _ =>
    if g.course < p.arr.courses then d
    else ps.foldl (fun d p => d.toDrain k t g { p with mem := (g.members.find? fun m => m.hit p.mem.cmd p.mem.op).getD p.mem }) d

/-! ### The drain (R141, R143, R199, R93) -/

/-- What a lane holds after its last course. -/
structure Folded where
  stack : List Acc
  att : List AttState
  flags : Nat
  deriving DecidableEq, Repr

def Folded.atts (l : Folded) : List AttEntry := (l.stack.zip l.att).map fun (o, s) => ⟨o, s.l, s.m, s.empty⟩

/-- The lanes of a drain, in row order of its output block. -/
def drainLanes (r : Drain) (runs : List Acc) : List Folded :=
  (runs.zip (r.lower.zip r.mem.flags)).zipIdx.map fun ((v, lo, f), i) => ⟨v :: lo, r.mem.att.getD i [], f.1 ||| f.2⟩

/-- The finished value of one lane. -/
def finishLane (d : Device) (x : ReadCtx) (a : ArrayCmd) (m n : Nat) (l : Folded) : Except Nat (Flagged Acc) :=
  match (if a.isAtt || a.fold.tree then readPreload d x a.fold a.pre m n a.cols else .ok ⟨accZero, 0⟩) with
  | .error s => .error s
  | .ok p =>
    let fl := l.flags ||| p.flags
    if a.isAtt then
      let e := collapse attMerge AttEntry.empty' l.atts
      let r := attFinish p.v e.v
      .ok ⟨r.v, fl ||| e.flags ||| r.flags⟩
    else
      let r := finishFold a.fold.tree p.v l.stack
      .ok ⟨r.v, fl ||| r.flags⟩

/-- The fold-state records of an operation. -/
def drainRecords (a : ArrayCmd) (o : TileOp) (ls : List Folded) : List (Nat × List Byte) :=
  let next := a.fold.c0 + a.courses
  let n := foldStride a.fold.tree a.isAtt
  (ls.zip (opElems o)).map fun (l, m, c) =>
    let es := if a.isAtt then attEntries l.atts else accEntries l.stack
    (a.foldOut + n * (m * a.cols + c), foldRecord a.fold.tree a.isAtt next l.flags (foldDepth a.fold.tree next) es)

/-- The larger of two ACC36 values. -/
def accMaxOf (a b : Acc) : Acc := if (accVal a).lt (accVal b) then b else a

/-- The fused row reductions of an operation's rows (R143): writes and flags. -/
def drainRows (a : ArrayCmd) (o : TileOp) (rs : List Acc) : List (Nat × List Byte) × Nat :=
  if !a.fused then ([], 0)
  else
    let per := ceilDiv a.cols 64
    let out := (List.range o.rows).map fun r =>
      let row := (rs.drop (r * o.cols)).take o.cols
      let mx := match row with | [] => accZero | y :: ys => ys.foldl accMaxOf y
      let sm := row.foldl (fun (s : Flagged Acc) v => let t := accMerge s.v v; ⟨t.v, s.flags ||| t.flags⟩) ⟨accZero, 0⟩
      let i := 5 * ((o.row0 + r) * per + o.col0 / 64)
      ([(a.rowMax + i, leBytes 5 mx.toNat), (a.rowSum + i, leBytes 5 sm.v.toNat)], sm.flags)
    (out.flatMap (·.1), flagsOf (·.2) out)

/-- The drain of a whole operation: device, the values a narrow output gathers, flags. -/
def drainArray (d : Device) (x : ReadCtx) (a : ArrayCmd) (o : TileOp) (ls : List Folded) : Except Nat (Device × List (Nat × Wide) × Nat) :=
  if a.fold.foldOut then
    match allWrites d (drainRecords a o ls) with
    | .error s => .error s
    | .ok d1 => .ok (d1, [], flagsOf (·.flags) ls)
  else
    match allOk (fun (p : Folded × Nat × Nat) => finishLane d x a p.2.1 p.2.2 p.1) (ls.zip (opElems o)) with
    | .error s => .error s
    | .ok rs =>
      let rows := drainRows a o (rs.map (·.v))
      let fl := flagsOf (·.flags) rs ||| rows.2
      let idx := (opElems o).map fun p => p.1 * a.cols + p.2
      let arr := a.container ≠ fmtNone
      let bytes := rs.map fun r => arrayBytes a.container r.v
      let ws := if arr then (idx.zip bytes).map fun (i, b) => (a.out + arrayStride a.container * i, b.1) else []
      match allWrites d (ws ++ rows.1) with
      | .error s => .error s
      | .ok d1 => .ok (d1, if arr then [] else (idx.zip rs).map fun (i, r) => (i, .fin (accPlusZero r.v)),
          fl ||| if arr then flagsOf (·.2) bytes else 0)

/-- Values gathered for a narrow output. -/
def gather (st : Store (Option Wide)) (vs : List (Nat × Wide)) : Store (Option Wide) := vs.foldl (fun s p => s.put none p.1 (some p.2)) st

/-! ### The meanings -/

def Device.modTile (d : Device) (key : Nat) (f : Tile → Tile) : Device := d.setTile key (f (d.tile key))
def refKey (t : TileRef) : Nat := tileKey t.bay.val t.tile.val
def Device.withOp (d : Device) (tag i : Nat) (f : TileOp → TileOp) : Device := d.modCmd tag fun c => { c with ops := c.ops.modify i f }

/-- The group on a running tile's arrays with what its members work on. -/
def Device.arrayWork (d : Device) (t : TileRef) : Option (ArrayGroup × List Piece) :=
  if d.tileRuns t.bay.val t.tile.val then
    match (d.tile (refKey t)).arr with
    | none => none
    | some g => match allOk d.pieceOf g.members with | .error _ => none | .ok ps => some (g, ps)
  else none

/-- A member of the group whose tables cannot be used: its command, and the status it fails with. -/
def Device.arrayFault (d : Device) (t : TileRef) : Option (Nat × Nat) :=
  if d.tileRuns t.bay.val t.tile.val then
    match (d.tile (refKey t)).arr with
    | none => none
    | some g => g.members.findSome? fun m => match d.pieceOf m with | .error s => some (m.cmd, s) | .ok _ => none
  else none

/-- The command in whose name a group's detections are recorded. -/
def leadTag (ps : List Piece) : Nat := match ps with | p :: _ => p.cmd.tag | [] => 0xFFFF

/-- The result of a step for each member, or the first member's error with its command. -/
def eachPiece {β : Type} (f : Piece → Except Nat β) : List Piece → Except (Nat × Nat) (List β)
  | [] => .ok []
  | p :: ps =>
    match f p with
    | .error s => .error (p.cmd.tag, s)
    | .ok b => match eachPiece f ps with | .error s => .error s | .ok bs => .ok (b :: bs)

/-- The block that a member closes next. -/
def pieceBlock (d : Device) (t : TileRef) (p : Piece) (pos : Nat) (upsets : List (Nat × Nat)) : Except Nat BlockOut :=
  let tl := d.tile (refKey t)
  let x := p.cmd.readCtx d t.bay.val
  if p.arr.isAtt then attBlock d x p tl pos upsets else mulBlock d x p tl pos upsets

/-- The next block of every member of a group. -/
def Device.closeGroup (d : Device) (t : TileRef) (g : ArrayGroup) (ps : List Piece) (upsets : List (Nat × Nat)) : Device :=
  match eachPiece (fun p => pieceBlock d t p g.pos upsets) ps with
  | .error s => d.failWith s.1 s.2
  | .ok outs =>
    let ok := outs.all fun b => b.lanes.all (·.2)
    let g1 := if ok then { (g.put (outs.map (·.mem))) with pos := g.pos + 1 } else g
    let d1 := d.modTile (refKey t) fun x => { (x.closed outs ok) with arr := some g1 }
    if ok then d1 else d1.detect t.bay.val t.tile.val (leadTag ps) .residue

/-- BLOCK_END (R129, R329). -/
def Device.blockEndNow (d : Device) (t : TileRef) (upsets : List (Nat × Nat)) (found : List Detected) : Device :=
  match d.arrayFault t, d.arrayWork t with
  | some f, _ => d.failWith f.1 f.2
  | none, some (g, p :: ps) =>
    let d0 := d.detectAll t.bay.val t.tile.val p.cmd.tag found
    if fatal found || decide (p.arr.courseAt g.course ≤ g.pos) then d0 else d0.closeGroup t g (p :: ps) upsets
  | none, some (_, []) => d
  | none, none => d

/-- The same where no access of it meets a paused row (R214). -/
def Device.blockEnd (d : Device) (t : TileRef) (upsets : List (Nat × Nat)) (found : List Detected) : Device := d.whole fun d => d.blockEndNow t upsets found

def execBlockEnd (t : TileRef) (upsets : List (Nat × Nat)) (found : List Detected) (s : State) : Host.Outcome State Fault Refusal :=
  .next { s with dev := s.dev.blockEnd t upsets found }

/-- Every member of a group folds its course: with no entry to merge with, the old tops are pushed to their homes first. -/
def Device.foldGroup (d : Device) (t : TileRef) (g : ArrayGroup) (p : Piece) (ps : List Piece) : Device :=
  let k := t.bay.val
  let c := p.arr.fold.c0 + g.course
  let pushed := if p.tree && p.pops c == 0 && decide (0 < p.depth c) then d.pushHome k t.tile.val p.dep (p.depth c - 1) g else (d, g)
  match eachPiece (fun p => pushed.1.foldMember k t.tile.val pushed.2 p c) (p :: ps) with
  | .error s => d.failWith s.1 s.2
  | .ok outs =>
    let g1 := { (pushed.2.put (outs.map (·.2))) with course := g.course + 1 }
    let d1 := pushed.1.modTile (refKey t) fun x => { (outs.foldl (fun x o => x.folded o.2 o.1) x) with arr := some g1 }
    let d2 := if (c + 1) % p.stride = 0 || (d1.tile (refKey t)).snapDue then d1.snapshot k t.tile.val g1 (c + 1) p.tree else d1
    d2.finishGroup k t.tile.val g1 (p :: ps)

/-- COURSE_END (R86, R129, R160, R163, R197): before the operation's values are in the lanes, the arrays wait for the drain that reads them (R142). -/
def Device.courseEndNow (d : Device) (t : TileRef) (found : List Detected) : Device :=
  match d.arrayFault t, d.arrayWork t with
  | some f, _ => d.failWith f.1 f.2
  | none, some (g, p :: ps) =>
    let d0 := d.detectAll t.bay.val t.tile.val p.cmd.tag found
    if fatal found || decide (p.arr.courses ≤ g.course) || decide (g.pos < p.arr.courseAt g.course) || g.members.any (·.start.isSome) ||
        (p.tree && d.homesHeld t.bay.val t.tile.val p.dep g.bank) then d0
    else d0.foldGroup t g p ps
  | none, some (_, []) => d
  | none, none => d

/-- The same where no access of it meets a paused row (R214). -/
def Device.courseEnd (d : Device) (t : TileRef) (found : List Detected) : Device := d.whole fun d => d.courseEndNow t found

def execCourseEnd (t : TileRef) (found : List Detected) (s : State) : Host.Outcome State Fault Refusal :=
  .next { s with dev := s.dev.courseEnd t found }

/-- An operation of a slot stands where `st` says. -/
def Device.slotIs (d : Device) (s : Slot) (st : OpState) : Bool :=
  match d.cmd s.cmd with | some c => (match c.ops[s.op]? with | some o => o.state == st | none => false) | none => false

/-- The first waiting operation of a kind in a tile's slots that may start; an urgent array operation starts ahead of the others (R126). -/
def Device.nextSlot (d : Device) (t : TileRef) (k : OpKind) : Option Slot :=
  let ws := (d.tile (refKey t)).slots.filter fun s => s.kind == k && d.slotIs s .waiting
  if k = .array then (match ws.find? (·.urgent) with | some s => some s | none => ws.head?) else ws.head?

/-- An operation of a kind runs on the tile. -/
def Device.kindRuns (d : Device) (t : TileRef) (k : OpKind) : Bool :=
  (d.tile (refKey t)).slots.any fun s => s.kind == k && d.slotIs s .running

/-- An operation belongs to ATTENTION. -/
def Device.isAttention (d : Device) (m : Member) : Bool := match d.cmd m.cmd with | some c => opcodeOf c.entry == 2 | none => false

/-- PREEMPTION_POINT (R139, R140): at a block boundary the running non-urgent group is saved, with what an earlier drain has not yet read, and the arrays are free for the urgent operation. -/
def Device.preempt (d : Device) (t : TileRef) : Device :=
  match d.arrayWork t, d.nextSlot t .array with
  | some (g, ps), some s =>
    if ps.any (·.cmd.urgent) || !s.urgent || (d.tile (refKey t)).pre.isSome then d
    else
      let d1 := (d.saveGroup t.bay.val t.tile.val g).freeLanes t.bay.val t.tile.val
      let d2 := d1.modTile (refKey t) fun x =>
        { (x.eachLane allLanes allLanes fun l _ => { l with block := 0, course := accZero }) with
          arr := none, pre := some { g with members := g.members.map fun m => { m with start := none } } }
      g.members.foldl (fun d m => d.withOp m.cmd m.op fun o => { o with state := .preempted }) d2
  | _, _ => d

def execPreemptionPoint (t : TileRef) (s : State) : Host.Outcome State Fault Refusal := .next { s with dev := s.dev.preempt t }

/-- PREEMPTED_RESUME (R140): with no urgent array work left, the saved group goes on at its block boundary; an ATTENTION group also needs the vector unit (R124, R126). -/
def Device.resume (d : Device) (t : TileRef) : Device :=
  let x := d.tile (refKey t)
  match x.pre with
  | none => d
  | some g =>
    let urgentWaits := match d.nextSlot t .array with | some s => s.urgent | none => false
    if x.arr.isSome || urgentWaits || !(d.tileRuns t.bay.val t.tile.val) || (g.members.any d.isAttention && d.kindRuns t .vector) then d
    else
      let ms := d.savedMembers t.bay.val t.tile.val g
      let d1 := d.modTile (refKey t) fun x =>
        let y := x.eachLane allLanes (allLanes.map fun i => d.accAt (saveArea t.bay.val t.tile.val) i) fun l v => { l with course := v }
        Tile.settleStart { y with arr := some { g with members := ms }, pre := none }
      g.members.foldl (fun d m => d.withOp m.cmd m.op fun o => { o with state := .running }) d1

def execPreemptedResume (t : TileRef) (s : State) : Host.Outcome State Fault Refusal := .next { s with dev := s.dev.resume t }

/-- An operation's class is urgent. -/
def Device.urgentMember (d : Device) (m : Member) : Bool := match d.cmd m.cmd with | some c => c.urgent | none => false

/-- The drain that the drain path ends next: an urgent operation's ahead of every other (R139). -/
def Device.nextDrain (d : Device) (t : TileRef) : Option Drain :=
  let rs := (d.tile (refKey t)).drains
  match rs.find? fun r => d.urgentMember r.mem with | some r => some r | none => rs.head?

/-- The end of an array operation (R141, R255): its drain is performed and it returns what it held. -/
def Device.arrayEnd (d : Device) (t : TileRef) (found : List Detected) : Device :=
  if !(d.tileRuns t.bay.val t.tile.val) then d
  else
    match d.nextDrain t with
    | none => d
    | some r =>
      match d.pieceOf r.mem with
      | .error s => d.failWith r.mem.cmd s
      | .ok p =>
        if d.tokenWait p.cmd.tag r.mem.op then d
        else
          let d0 := d.detectAll t.bay.val t.tile.val p.cmd.tag found
          if fatal found then d0
          else
            match drainArray d0 (p.cmd.readCtx d t.bay.val) p.arr p.op (drainLanes r (d.drainRuns t.bay.val t.tile.val r)) with
            | .error s => d0.failWith p.cmd.tag s
            | .ok (d1, vs, fl) =>
              let d2 := d1.modCmd p.cmd.tag fun x =>
                { x with flags := x.flags ||| fl, wide0 := gather x.wide0 vs, loadSat := x.loadSat + r.mem.loadSat, loadFlush := x.loadFlush + r.mem.loadFlush }
              (d2.endOp p.cmd.tag r.mem.op).settle p.cmd.tag

end Sys2Proof.Machine
end

