-- ==== Sys2Proof/Machine/VectorOps.lean ====
section
/-! DEFINITION. The work of the vector commands (R57, R193, R195, R196, R233, R338, R460, R461) and of the transfer commands (R36, R43, R220, R221, R233). -/

namespace Sys2Proof.Machine

/-- What a command's work leaves: the device, flags, and the values its narrow output gathers. -/
structure WorkOut where
  dev : Device
  flags : Nat
  vals : List Wide
  deriving DecidableEq, Repr

/-- Every element of a plain array of `n` channels of `l`. -/
def readTensor (d : Device) (code base n l : Nat) : Except Nat (List (List Wide)) :=
  allOk (fun c => readWide d code base (c * l) l) (List.range n)

/-- QUANTISE gathers its input. -/
def workQuantise (d : Device) (c : Cmd) : Except Nat WorkOut :=
  match readTable d (c.win d) (c.addr d 0x30) with
  | .error s => .error s
  | .ok t =>
    match readTensor d (ent c.entry 0x28 1 % 32) (c.addr d 0x20) t.outer t.inner with
    | .error s => .error s
    | .ok vs => .ok ⟨d, 0, vs.flatten⟩

/-- DEQUANTISE (R233). -/
def workDequantise (d : Device) (c : Cmd) (k : Nat) : Except Nat WorkOut :=
  let x := c.readCtx d k
  match readTable d x.win (c.addr d 0x20) with
  | .error s => .error s
  | .ok t =>
    match allOk (tensorChannel d x t) (List.range t.outer) with
    | .error s => .error s
    | .ok chs =>
      let code := ent c.entry 0x30 1 % 32
      let out := (chs.map (·.v)).flatten.map (arrayBytes code)
      match d.write (c.addr d 0x28) (out.map (·.1)).flatten with
      | .error s => .error s
      | .ok d1 => .ok ⟨d1, flagsOf (·.flags) chs ||| flagsOf (·.2) out, []⟩

/-- A prepared position as an output element (R50, R56, R461). -/
def rotBytes (code : Nat) (x : QIn) : List Byte × Nat :=
  match x.inf with
  | some n => if code = 0x19 then (leBytes 5 (accMax n).toNat, fAccSat) else (leBytes 4 (f32Max n).toNat, fAccSat)
  | none => arrayBytes code (accRound x.v false).1

/-- ROTATE (R461). -/
def workRotate (d : Device) (c : Cmd) : Except Nat WorkOut :=
  let n := ent c.entry 0x40 4
  let l := ent c.entry 0x44 4
  let q := { qctl (ent c.entry 0x38 8) with smooth := 0 }
  match readTensor d (ent c.entry 0x28 1 % 32) (c.addr d 0x20) n l with
  | .error s => .error s
  | .ok vs =>
    let sg := sigmaVec (BitVec.ofNat 64 (c.setting d 0x206001)) q.rotKey (rotSize q.rotCode)
    let runs := vs.map (prepRun q [] sg)
    let out := (runs.map fun r => r.xs.map (rotBytes (ent c.entry 0x29 1 % 32))).flatten
    match d.write (c.addr d 0x30) (out.map (·.1)).flatten with
    | .error s => .error s
    | .ok d1 => .ok ⟨d1, flagsOf (·.flags) runs ||| flagsOf (·.2) out, []⟩

/-! ### SAMPLE (R195, R196) -/

/-- A row of logits in FP32, with flags. -/
def readLogits (d : Device) (code base i n : Nat) : Except Nat (List (W32 × Nat)) :=
  let k := arrayStride code
  match d.read (base + k * i) (k * n) with
  | .error s => .error s
  | .ok bs => .ok ((List.range n).map fun j =>
      let x := bytesNat bs (k * j) k
      if code = 0x19 then let r := accToF32 (BitVec.ofNat 36 x); (r.1, flagIf r.2 fAccSat) else (BitVec.ofNat 32 x, 0))

/-- The uniform value of a draw in a race. -/
def raceUniform (out : W32) : W32 := (f32Round ((Q.ofNat (out.toNat / 512 * 2 + 1)).scale (-24)) false).1

/-- The key of one logit. -/
def raceKey (m coef : W32) (x out : W32) : VRes :=
  if f32IsZero coef then ⟨x, 0⟩
  else
    let dd := vSub x m
    let t := vMul dd.w coef
    let l := vLog2 (raceUniform out)
    let w := vNeg l.w
    let lw := vLog2 w.w
    let key := vSub t.w lw.w
    ⟨key.w, dd.flags ||| t.flags ||| l.flags ||| w.flags ||| lw.flags ||| key.flags⟩

/-- The lowest index of the largest value; NaN never wins. -/
def bestOf (keys : List W32) : Nat :=
  match keys.zipIdx.foldl (fun (b : Option (W32 × Nat)) (w, k) =>
    if f32IsNaN w then b else match b with | none => some (w, k) | some x => if f32Lt x.1 w then some (w, k) else b) none with
  | some x => x.2
  | none => 0

/-- The choice of one row: index and flags. -/
def sampleRow (coef : W32) (m : Option W32) (drawAt : Nat → W32) (xs : List W32) : Nat × Nat :=
  let isPInf := fun w => f32IsInf w && !(f32Neg w)
  let isNInf := fun w => f32IsInf w && f32Neg w
  match xs.findIdx? isPInf with
  | some k => (k, 0)
  | none =>
    if xs.any f32IsFinite then
      let mx := match m with
        | some w => w
        | none => xs.foldl (fun b w => if !(f32IsNaN w) && f32Lt b w then w else b) (f32Inf true)
      let ks := xs.zipIdx.map fun (w, k) => raceKey mx coef w (drawAt k)
      (bestOf (ks.map (·.w)), flagsOf (·.flags) ks)
    else
      match xs.findIdx? isNInf with
      | some k => (k, 0)
      | none => (0, fVecInvalid)

/-- The row maximum that a side array gives. An ACC36 maximum beyond binary32 saturates, and no flag says so: R50 and R198 do not say that reading a side array sets accumulator saturated (notes/assumptions/48). DESIGN CHOICE. -/
def sideMax (d : Device) (addr row v : Nat) : Except Nat (Option W32) :=
  if addr = 0 then .ok none
  else
    let n := ceilDiv v 64
    match d.read (addr + 5 * n * row) (5 * n) with
    | .error s => .error s
    | .ok bs =>
      let as := (List.range n).map fun i => (BitVec.ofNat 36 (bytesNat bs (5 * i) 5) : Acc)
      .ok (match as with | [] => none | y :: ys => some (accToF32 (ys.foldl accMaxOf y)).1)

/-- The seed an entry names (R190). -/
def Cmd.seed (d : Device) (c : Cmd) (off : Nat) : W64 := BitVec.ofNat 64 (c.setting d (0x206000 + ent c.entry off 1 + 1))

def workSample (d : Device) (c : Cmd) : Except Nat WorkOut :=
  let f := ent c.entry
  let v := f 0x2C 4
  let coef := BitVec.ofNat 32 (f 0x3C 4)
  let rows := List.range (f 0x38 4)
  let side := if f 0x40 8 = 0 then 0 else c.addr d 0x40
  let one := fun (r : Nat) =>
    match readLogits d (f 0x28 1 % 32) (c.addr d 0x20) (r * v) v, sideMax d side r v with
    | .ok xs, .ok m =>
      let t := sampleRow coef m (fun k => draw (c.seed d 0x48) c.step (BitVec.ofNat 32 (f 0x4C 4)) (BitVec.ofNat 64 ((f 0x50 8 + r) * v + k)) 0) (xs.map (·.1))
      Except.ok (t.1, t.2 ||| flagsOf (·.2) xs)
    | .error s, _ => .error s
    | _, .error s => .error s
  match allOk one rows with
  | .error s => .error s
  | .ok cs =>
    match d.write (c.addr d 0x30) (cs.map fun x => leBytes 4 x.1).flatten with
    | .error s => .error s
    | .ok d1 => .ok ⟨d1, flagsOf (·.2) cs, []⟩

/-- RNG_FILL (R192, R193). -/
def workRngFill (d : Device) (c : Cmd) : Except Nat WorkOut :=
  let f := ent c.entry
  let one := fun (i : Nat) =>
    let o := draw (c.seed d 0x31) c.step (BitVec.ofNat 32 (f 0x34 4)) (BitVec.ofNat 64 (f 0x38 8 + i)) 0
    leBytes 4 (if f 0x30 1 = 0 then o else uniformBits o).toNat
  match d.write (c.addr d 0x20) ((List.range (f 0x28 8)).flatMap one) with
  | .error s => .error s
  | .ok d1 => .ok ⟨d1, 0, []⟩

/-- The digest of a sheaf table (R338). -/
def digestOf (d : Device) (x : ReadCtx) (addr : Nat) : Except Nat W64 :=
  match readTable d x.win addr with
  | .error s => .error s
  | .ok t =>
    let one := fun (j : Nat) =>
      match readEntry d x.win t j with
      | .error s => .error s
      | .ok e =>
        match d.read e.addr e.size with
        | .error s => .error s
        | .ok bs => if x.verify && !(sheafCheckOk bs) then Except.error csCheck else .ok bs
    match allOk one (List.range t.count), (if t.hasShift then d.read t.shiftAddr t.outer else .ok []) with
    | .ok bs, .ok sv => .ok (crc64 (bs.flatten ++ sv))
    | .error s, _ => .error s
    | _, .error s => .error s

def workDigest (d : Device) (c : Cmd) (k : Nat) : Except Nat WorkOut :=
  match digestOf d (c.readCtx d k) (c.addr d 0x20) with
  | .error s => .error s
  | .ok w => match d.write (c.addr d 0x28) (leBytes 8 w.toNat) with | .error s => .error s | .ok d1 => .ok ⟨d1, 0, []⟩

/-- CAST reads its FP32 source, from device or host memory (R460). -/
def workCast (d : Device) (c : Cmd) : Except Nat WorkOut :=
  match readTable d (c.win d) (c.addr d 0x30) with
  | .error s => .error s
  | .ok t =>
    let n := t.outer * t.inner
    if (ent c.entry 0x28 1).testBit 0 then
      .ok ⟨d, 0, (List.range n).map fun i => wideOfF32 (BitVec.ofNat 32 (d.host.nat (ent c.entry 0x20 8 + 4 * i) 4))⟩
    else
      match readTensor d 0x1B (c.addr d 0x20) t.outer t.inner with
      | .error s => .error s
      | .ok vs => .ok ⟨d, 0, vs.flatten⟩

/-! ### Moves of whole sheaves -/

/-- Marks a check mismatch met on the far tier (R221, R225). -/
def farCheck : Nat := 0x100

/-- The bytes of a sheaf to be moved out of device memory. -/
def readSheafMove (d : Device) (verify : Bool) (e : Entry) : Except Nat (List Byte) :=
  match d.readMove e.addr e.size with
  | .error s => .error (if s = csCheck then csCheck + farCheck else s)
  | .ok bs => if verify && !(sheafCheckOk bs) then .error csCheck else .ok bs

/-- Writes moved bytes at entry j of a device table and rewrites the entry from the sheaf's descriptor (R43); `far` for the commands whose tables may name the far tier (R220). -/
def writeSheafMove (d : Device) (w : Win) (far : Bool) (t : Table) (j : Nat) (bs : List Byte) : Except Nat Device :=
  match readEntry d w t j with
  | .error s => .error s
  | .ok e =>
    match (if far then d.writeMove e.addr bs else d.write e.addr bs) with
    | .error s => .error s
    | .ok d1 =>
      let desc := bytesNat bs (bs.length - 8) 4
      writeEntryForm d1 t j (desc % 32) (desc.testBit 5)

/-- Moves sheaf i of one table to sheaf j of another, for every pair in order. -/
def moveSheaves (d : Device) (w : Win) (verify : Bool) (src dst : Table) : List (Nat × Nat) → Except Nat Device
  | [] => .ok d
  | (i, j) :: r =>
    match readEntry d w src i with
    | .error s => .error s
    | .ok e =>
      match readSheafMove d verify e with
      | .error s => .error s
      | .ok bs =>
        match writeSheafMove d w true dst j bs with
        | .error s => .error s
        | .ok d1 => moveSheaves d1 w verify src dst r

/-- The indices a GATHER or SCATTER reads; one not below `lim` is a fault (R233). -/
def readIndices (d : Device) (addr n lim : Nat) : Except Nat (List Nat) :=
  match d.read addr (4 * n) with
  | .error s => .error s
  | .ok bs =>
    let is := (List.range n).map fun i => bytesNat bs (4 * i) 4
    if is.all (· < lim) then .ok is else .error csTable

def workGather (d : Device) (c : Cmd) (k : Nat) (scatter : Bool) : Except Nat WorkOut :=
  let w := c.win d
  match readTable d w (c.addr d 0x20), readTable d w (c.addr d 0x28) with
  | .error s, _ => .error s
  | _, .error s => .error s
  | .ok src, .ok dst =>
    match readIndices d (c.addr d 0x30) (ent c.entry 0x38 4) (if scatter then dst.count else src.count) with
    | .error s => .error s
    | .ok is =>
      match moveSheaves d w (d.bay k).degraded src dst (is.zipIdx.map fun (x, i) => if scatter then (i, x) else (x, i)) with
      | .error s => .error s
      | .ok d1 => .ok ⟨d1, 0, []⟩

/-! ### COPY (R233, R315, R332) -/

/-- Sheaves from host memory. -/
def copyIn (d : Device) (w : Win) (src dst : Table) : List Nat → Except Nat Device
  | [] => .ok d
  | j :: r =>
    match hostEntry d src j with
    | none => .error csTable
    | some e =>
      let bs := d.host.read e.addr e.size
      if !(sheafCheckOk bs) then .error csCheck
      else match writeSheafMove d w true dst j bs with | .error s => .error s | .ok d1 => copyIn d1 w src dst r

/-- Sheaves to host memory; the entry in the host table is rewritten too (R43). -/
def copyOut (d : Device) (w : Win) (verify : Bool) (src dst : Table) : List Nat → Except Nat Device
  | [] => .ok d
  | j :: r =>
    match readEntry d w src j, hostEntry d dst j with
    | .error s, _ => .error s
    | _, none => .error csTable
    | .ok e, some h =>
      match readSheafMove d verify e with
      | .error s => .error s
      | .ok bs =>
        let desc := bytesNat bs (bs.length - 8) 4
        let b0 := (d.host.byte (dst.entryAddr j)).toNat
        copyOut { d with host := (d.host.write h.addr bs).write (dst.entryAddr j) (leBytes 1 (b0 / 64 * 64 + desc % 64)) } w verify src dst r

def overlaps (a b : Nat × Nat) : Bool := a.1 < b.1 + b.2 && b.1 < a.1 + a.2

/-- Sheaves 0 to n − 1 of a device table with the places they lie at, all read before any is written. -/
def readSheaves (d : Device) (w : Win) (verify : Bool) (t : Table) (n : Nat) : Except Nat (List ((Nat × Nat) × List Byte)) :=
  allOk (fun j =>
    match readEntry d w t j with
    | .error s => .error s
    | .ok e => match readSheafMove d verify e with | .error s => Except.error s | .ok bs => .ok ((e.addr, e.size), bs)) (List.range n)

/-- Writes sheaves from entry j of a device table on: the device, and where they lie. -/
def placeSheaves (d : Device) (w : Win) (t : Table) : Nat → List (List Byte) → Except Nat (Device × List (Nat × Nat))
  | _, [] => .ok (d, [])
  | j, bs :: r =>
    match readEntry d w t j, writeSheafMove d w true t j bs with
    | .error s, _ => .error s
    | _, .error s => .error s
    | .ok e, .ok d1 => match placeSheaves d1 w t (j + 1) r with | .error s => .error s | .ok (d2, rs) => .ok (d2, (e.addr, bs.length) :: rs)

def workCopy (d : Device) (c : Cmd) (k : Nat) : Except Nat WorkOut :=
  let f := ent c.entry
  let dir := f 0x38 1 % 4
  let n := f 0x30 8
  let w := c.win d
  let vf := (d.bay k).degraded
  let done := fun (d : Device) => Except.ok (ε := Nat) (⟨d, 0, []⟩ : WorkOut)
  if (f 0x38 1).testBit 2 then
    if dir = 1 then
      match hostTable d (f 0x20 8), readTable d w (c.addr d 0x28) with
      | none, _ => .error csTable
      | _, .error s => .error s
      | some src, .ok dst => if src.count < n then .error csTable else match copyIn d w src dst (List.range n) with | .error s => .error s | .ok d1 => done d1
    else if dir = 2 then
      match readTable d w (c.addr d 0x20), hostTable d (f 0x28 8) with
      | .error s, _ => .error s
      | _, none => .error csTable
      | .ok src, some dst => if dst.count < n then .error csTable else match copyOut d w vf src dst (List.range n) with | .error s => .error s | .ok d1 => done d1
    else
      match readTable d w (c.addr d 0x20), readTable d w (c.addr d 0x28) with
      | .error s, _ => .error s
      | _, .error s => .error s
      | .ok src, .ok dst =>
        match readSheaves d w vf src n with
        | .error s => .error s
        | .ok ss =>
          match placeSheaves d w dst 0 (ss.map (·.2)) with
          | .error s => .error s
          | .ok (d1, rs) => done ((rs.filter fun r => ss.any fun x => overlaps r x.1).foldl (fun d r => d.scramble r) d1)
  else if dir = 1 then
    match d.write (c.addr d 0x28) (d.host.read (f 0x20 8) n) with | .error s => .error s | .ok d1 => done d1
  else if dir = 2 then
    match d.read (c.addr d 0x20) n with | .error s => .error s | .ok bs => done { d with host := d.host.write (f 0x28 8) bs }
  else
    match d.read (c.addr d 0x20) n with
    | .error s => .error s
    | .ok bs => match d.write (c.addr d 0x28) bs with | .error s => .error s | .ok d1 => done d1

/-- The work of a vector or transfer command, on bay `k`. -/
def workOf (d : Device) (c : Cmd) (k : Nat) : Except Nat WorkOut :=
  let op := opcodeOf c.entry
  if op = 0x10 then workQuantise d c
  else if op = 0x11 then workDequantise d c k
  else if op = 0x12 then workRotate d c
  else if op = 0x14 then workSample d c
  else if op = 0x15 then workRngFill d c
  else if op = 0x20 then workGather d c k false
  else if op = 0x21 then workGather d c k true
  else if op = 0x22 then workCopy d c k
  else if op = 0x42 then workDigest d c k
  else if op = 0x43 then workCast d c
  else .ok ⟨d, 0, []⟩

/-- A command fails in its own work; a far-tier check mismatch is counted beside the sheaf checks (R221, R225). -/
def Device.failWork (d : Device) (tag s : Nat) : Device :=
  if s = csCheck + farCheck then (d.failWith tag csCheck).count 0x805007 1 else d.failWith tag s

/-- Performs a command's whole work; a beacon round's internal command has its own (R339). -/
def Device.perform (d : Device) (tag k : Nat) : Device :=
  match d.cmd tag with
  | none => d
  | some c =>
    if c.qp.isNone then d
    else match workOf d c k with
    | .error s => d.failWork tag s
    | .ok w => w.dev.modCmd tag fun x =>
        { x with flags := x.flags ||| w.flags, wide0 := if w.vals.isEmpty then x.wide0 else w.vals.zipIdx.map fun (v, i) => (i, some v) }

end Sys2Proof.Machine
end

