-- ==== Sys2Proof/Machine/Recipe.lean ====
section
/-! DEFINITION. Vector recipes: the table and its tests (R180 to R189), and the meaning of every step on the vector unit (R174 to R179, R183 to R186, R192, R193, R331). -/

namespace Sys2Proof.Machine

/-! ### The table (R180, R181, R188) -/

structure Recipe where
  steps : List (Nat × StepWord)
  inputs : Nat
  outputs : Nat
  len : Nat
  modes : Nat
  deriving DecidableEq, Repr

def stepOf (w : Nat) : Nat × StepWord :=
  let f := fun lo => (BitVec.ofNat 5 (field w (lo + 4) lo))
  (field w 63 58, ⟨f 53, f 48, f 43, f 38, w.testBit 37, BitVec.ofNat 2 (field w 36 35), BitVec.ofNat 3 (field w 34 32), BitVec.ofNat 32 w⟩)

/-- The kinds of a step's destination and sources: 0 none, 1 V register or (as a source) any lane value, 2 row scalar, 3 mask. -/
structure StepShape where
  dst : Nat
  a : Nat
  b : Nat
  c : Nat
  deriving DecidableEq, Repr

def stepShape (op : Nat) : Option StepShape :=
  if op = 0x00 ∨ op = 0x2C ∨ op = 0x38 ∨ op = 0x39 then some ⟨0, 0, 0, 0⟩
  else if op = 0x04 then some ⟨1, 1, 1, 1⟩
  else if op ∈ [0x01, 0x02, 0x03, 0x05, 0x07, 0x08, 0x0F, 0x10, 0x11, 0x18] then some ⟨1, 1, 1, 0⟩
  else if op ∈ [0x06, 0x09, 0x0A, 0x0B, 0x0C, 0x0D, 0x0E, 0x20, 0x21, 0x22, 0x23, 0x24, 0x25] then some ⟨1, 1, 0, 0⟩
  else if op ∈ [0x14, 0x15, 0x16] then some ⟨3, 1, 1, 0⟩
  else if op = 0x17 then some ⟨3, 1, 0, 0⟩
  else if op = 0x19 ∨ op = 0x1A then some ⟨3, 3, 3, 0⟩
  else if op = 0x1B then some ⟨3, 3, 0, 0⟩
  else if op ∈ [0x28, 0x29, 0x2A, 0x2B] then some ⟨2, 1, 0, 0⟩
  else if op ∈ [0x30, 0x33, 0x34, 0x35] then some ⟨1, 0, 0, 0⟩
  else if op = 0x31 ∨ op = 0x32 then some ⟨0, 1, 0, 0⟩
  else none

def isRandomStep (op : Nat) : Bool := op == 0x34 || op == 0x35

def dstOk (kind : Nat) (s : BitVec 5) : Bool :=
  let n := s.toNat
  if kind = 0 then true else if kind = 1 then n < 16 else if kind = 2 then 16 ≤ n && n < 24 else 28 ≤ n

def srcOk (kind : Nat) (s : BitVec 5) : Bool :=
  let n := s.toNat
  if kind = 0 then true else if kind = 1 then n ≤ 0x19 else 28 ≤ n

/-- The pass each step lies in. -/
def stepPasses : List (Nat × StepWord) → Nat → List Nat
  | [], _ => []
  | (op, _) :: r, p => p :: stepPasses r (if op = 0x2C then p + 1 else p)

/-- The row scalars a step reads. -/
def scalarReads (x : Nat × StepWord) : List Nat :=
  match stepShape x.1 with
  | none => []
  | some sh =>
    let one := fun (k : Nat) (s : BitVec 5) => if k = 1 ∧ 16 ≤ s.toNat ∧ s.toNat < 24 then [s.toNat - 16] else []
    one sh.a x.2.a ++ one sh.b x.2.b ++ one sh.c x.2.c

def isReduction (op : Nat) : Bool := 0x28 ≤ op && op ≤ 0x2B

/-- The pass that writes a row scalar. -/
def scalarPass (sp : List ((Nat × StepWord) × Nat)) (s : Nat) : Option Nat :=
  (sp.find? fun x => isReduction x.1.1 && x.1.2.dst.toNat == 16 + s).map (·.2)

/-- The tests of R188 that the steps and the stream codes show. -/
def stepsOk (r : Recipe) (outCode : Nat → Nat) : Bool :=
  let sp := r.steps.zip (stepPasses r.steps 0)
  let reds := r.steps.filter fun x => isReduction x.1
  (r.steps.all fun x => match stepShape x.1 with
    | none => false
    | some sh => dstOk sh.dst x.2.dst && srcOk sh.a x.2.a && srcOk sh.b x.2.b && srcOk sh.c x.2.c) &&
  (sp.all fun x => (scalarReads x.1).all fun s => match scalarPass sp s with | some p => decide (p < x.2) | none => false) &&
  ((List.range 8).all fun s => reds.countP (fun x => x.2.dst.toNat == 16 + s) ≤ 1) &&
  r.steps.countP (fun x => x.1 == 0x2C) ≤ 3 && r.steps.countP (fun x => isRandomStep x.1) ≤ 4 &&
  (r.steps.all fun x =>
    if x.1 = 0x30 then x.2.stream.toNat < r.inputs
    else if x.1 = 0x31 then x.2.stream.toNat < r.outputs && !(isNarrow (outCode x.2.stream.toNat))
    else if x.1 = 0x32 then x.2.stream.toNat < r.outputs && isNarrow (outCode x.2.stream.toNat)
    else true)

/-- Reads a recipe and makes the tests of R188. -/
def readRecipe (d : Device) (addr : Nat) (outCode : Nat → Nat) : Except Nat Recipe :=
  match d.read addr 16 with
  | .error s => .error s
  | .ok h =>
    let n := bytesNat h 1 1
    if bytesNat h 0 1 ≠ 1 ∨ n = 0 ∨ 64 < n then .error csRecipe
    else
      match d.read addr (0x14 + 8 * n) with
      | .error s => .error s
      | .ok bs =>
        if crc32c (bs.take (0x10 + 8 * n)) ≠ bytesNat bs (0x10 + 8 * n) 4 then .error csCheck
        else
          let r : Recipe := ⟨(List.range n).map fun i => stepOf (bytesNat bs (0x10 + 8 * i) 8), bytesNat h 2 1, bytesNat h 3 1, bytesNat h 4 4, bytesNat h 8 1⟩
          if 4 < r.inputs ∨ r.outputs = 0 ∨ 2 < r.outputs ∨ r.len = 0 ∨ 2 ^ 24 < r.len ∨ bytesNat h 9 7 ≠ 0 ∨
              ((List.range r.inputs).any fun i => field r.modes (2 * i + 1) (2 * i) == 3) ∨ !(stepsOk r outCode) then .error csRecipe
          else .ok r

/-- A stream bound to a sheaf table must hold the rows and the row length (notes/assumptions/23). DESIGN CHOICE. -/
def streamFits (d : Device) (w : Win) (addr code rows len : Nat) : Except Nat Unit :=
  if isSheafFmt code then
    match readTable d w addr with
    | .error s => .error s
    | .ok t => if t.inner = len ∧ rows ≤ t.outer then .ok () else .error csTable
  else .ok ()

/-- The recipe of a command, with the tests made before any of its operations starts (R188). -/
def Cmd.recipe (d : Device) (c : Cmd) : Except Nat Recipe :=
  match readRecipe d (c.addr d 0x20) (recipeCode c.entry) with
  | .error s => .error s
  | .ok r =>
    let w := c.win d
    let rows := ent c.entry 0x74 4
    let ins := (List.range r.inputs).filter fun i => field r.modes (2 * i + 1) (2 * i) == 0
    match allOk (fun i => streamFits d w (c.addr d (0x28 + 8 * i)) (ent c.entry (0x68 + i) 1) rows r.len) ins,
        allOk (fun i => streamFits d w (c.addr d (0x48 + 8 * i)) (recipeCode c.entry i) rows r.len) (List.range r.outputs) with
    | .ok _, .ok _ => .ok r
    | .error s, _ => .error s
    | _, .error s => .error s

/-! ### Charges (R183, R189) -/

/-- Beats of one step for a group, the extra beats of the group's first random step left out. -/
def stepBeats (inCode outCode : Nat → Nat) (modes : Nat) (x : Nat × StepWord) : Nat :=
  let op := x.1
  let bytes := fun (code : Nat) => if code = 0x19 then 320 else if isNarrow code then 8 * fmtWidth code else 256
  let i := x.2.stream.toNat
  if op = 0x05 ∨ op = 0x06 ∨ (0x20 ≤ op ∧ op ≤ 0x25) then 4
  else if op = 0x2C ∨ op = 0x38 then 0
  else if op = 0x39 then Config.fenceFullBeats
  else if op = 0x30 then max 1 (ceilDiv (if field modes (2 * i + 1) (2 * i) = 2 then 4 else bytes (inCode i)) 128)
  else if op = 0x31 then max 1 (ceilDiv (bytes (outCode i)) 128)
  else 1

/-- Passes in which some random step stands. -/
def randomPasses (r : Recipe) : Nat :=
  let sp := r.steps.zip (stepPasses r.steps 0)
  (List.range 4).countP fun p => sp.any fun x => x.2 == p && isRandomStep x.1.1

/-- Beats of one row. -/
def Recipe.rowBeats (r : Recipe) (e : List Byte) : Nat :=
  let per := (r.steps.map (stepBeats (fun i => ent e (0x68 + i) 1) (recipeCode e) r.modes)).sum + 4 * randomPasses r
  ceilDiv r.len 64 * per + 6 * r.steps.countP fun x => isReduction x.1

/-! ### The vector unit (R182, R184 to R186) -/

/-- A lane of the group is active (R185). -/
def VuCtx.active (v : VuCtx) (lane : Nat) : Bool := 64 * v.group + lane < v.len

def VuCtx.mask (v : VuCtx) (lane m : Nat) : Bool := v.masks.get false (lane * 4 + m)

/-- The lanes a step acts in (R184). -/
def VuCtx.lanes (v : VuCtx) (w : StepWord) : List Nat :=
  (List.range 64).filter fun l => v.active l && (!w.pen || v.mask l w.pmask.toNat)

/-- A source of a lane (R182). -/
def VuCtx.src (v : VuCtx) (w : StepWord) (lane : Nat) (s : BitVec 5) : W32 :=
  let n := s.toNat
  if n < 16 then v.regs.get 0 (lane * 16 + n)
  else if n < 24 then v.scalars.get 0 (n - 16)
  else if n = 0x18 then w.imm
  else 0

/-- Writes a V register in the given lanes, with the flags of each. -/
def VuCtx.setRegs (v : VuCtx) (w : StepWord) (ls : List Nat) (f : Nat → VRes) : VuCtx :=
  ls.foldl (fun v l => let r := f l; { v with regs := v.regs.put 0 (l * 16 + w.dst.toNat) r.w, flags := v.flags ||| r.flags }) v

def VuCtx.setMasks (v : VuCtx) (w : StepWord) (ls : List Nat) (f : Nat → Bool) : VuCtx :=
  ls.foldl (fun v l => { v with masks := v.masks.put false (l * 4 + (w.dst.toNat - 28)) (f l) }) v

/-- The operation and identity of a reduction (R186). -/
def redOp (op : Nat) (p a : W32) : VRes :=
  if op = 0x28 then vAdd p a
  else if op = 0x29 then let m := vMul a a; let r := vAdd p m.w; ⟨r.w, m.flags ||| r.flags⟩
  else if op = 0x2A then vMax p a
  else vMin p a

def redMerge (op : Nat) (p q : W32) : VRes := if op ≤ 0x29 then vAdd p q else redOp op p q
def redId (op : Nat) : W32 := if op ≤ 0x29 then 0 else f32Inf (op == 0x2A)

/-- The tree over lane partials: one level on a list of partials. -/
def redLevel (op : Nat) : List W32 → List W32 × Nat
  | a :: b :: r => let x := redMerge op a b; let y := redLevel op r; (x.w :: y.1, x.flags ||| y.2)
  | xs => (xs, 0)

def redTree (op : Nat) : Nat → List W32 → Nat → W32 × Nat
  | 0, xs, f => (xs.headD 0, f)
  | n + 1, xs, f => let r := redLevel op xs; redTree op n r.1 (f ||| r.2)

/-- A reduction step in a group: lane partials of step `pc`. -/
def VuCtx.reduce (v : VuCtx) (op : Nat) (w : StepWord) : VuCtx :=
  (v.lanes w).foldl (fun v l =>
    let key := v.pc * 64 + l
    let p := (v.parts.get none key).getD (redId op)
    let r := redOp op p (v.src w l w.a)
    { v with parts := v.parts.put none key (some r.w), flags := v.flags ||| r.flags }) v

/-- At the end of a pass its reductions combine into row scalars. -/
def VuCtx.combine (v : VuCtx) : VuCtx :=
  let sp := (v.steps.zip (stepPasses v.steps 0)).zipIdx
  let v1 := (sp.filter fun x => x.1.2 == v.pass && isReduction x.1.1.1).foldl (fun v x =>
    let op := x.1.1.1
    let ps := (List.range 64).map fun l => (v.parts.get none (x.2 * 64 + l)).getD (redId op)
    let r := redTree op 6 ps 0
    { v with scalars := v.scalars.put 0 (x.1.1.2.dst.toNat - 16) r.1, flags := v.flags ||| r.2 }) v
  { v1 with parts := [] }

/-- The first step of the present pass. -/
def VuCtx.passStart (v : VuCtx) : Nat := (stepPasses v.steps 0).findIdx fun p => p == v.pass

/-- The end of a row (R185). -/
def VuCtx.rowDone (v : VuCtx) : VuCtx :=
  { v with row := v.row + 1, group := 0, pass := 0, pc := 0, regs := [], masks := [], scalars := [], parts := [], finished := decide (v.rowEnd ≤ v.row + 1) }

/-- The next step after the one at `pc` (R185). -/
def VuCtx.advance (v : VuCtx) : VuCtx :=
  let isPass := match v.steps[v.pc]? with | some x => x.1 == 0x2C | none => false
  let last := decide (v.steps.length ≤ v.pc + 1)
  if !isPass && !last then { v with pc := v.pc + 1 }
  else if 64 * (v.group + 1) < v.len then { v with group := v.group + 1, pc := v.passStart, regs := [], masks := [] }
  else
    let v1 := v.combine
    if last then v1.rowDone
    else { v1 with pass := v.pass + 1, group := 0, pc := v.pc + 1, regs := [], masks := [] }

/-- The running recipe operation of a tile. -/
def Device.vuWork (d : Device) (t : TileRef) : Option (VuCtx × Cmd) :=
  if d.tileRuns t.bay.val t.tile.val then
    match (d.tile (refKey t)).vu with
    | none => none
    | some v => match d.cmd v.cmd with | some c => some (v, c) | none => none
  else none

/-- Which check a step fails under (R331). -/
def stepCheck (op : Nat) : Detected :=
  if op = 0x00 ∨ (0x0F ≤ op ∧ op ≤ 0x1B) ∨ op = 0x2C ∨ 0x30 ≤ op then .tileParity else .vectorCheck

/-- Runs one step: it must be the step at the unit's place; an upset leaves its destination unwritten and is the tile's fault (R331). -/
def Device.vuStepNow (d : Device) (t : TileRef) (op : Nat) (w : StepWord) (upset : Bool) (f : Device → Cmd → VuCtx → Except Nat (Device × VuCtx)) : Device :=
  match d.vuWork t with
  | none => d
  | some (v, c) =>
    if v.finished || v.steps[v.pc]? != some (op, w) then d
    else if upset then d.detect t.bay.val t.tile.val c.tag (stepCheck op)
    else
      match f d c v with
      | .error s => d.failWith c.tag s
      | .ok (d1, v1) => d1.modTile (refKey t) fun x => { x with vu := some v1.advance }

/-- The same where no access of it meets a paused row (R214). -/
def Device.vuStep (d : Device) (t : TileRef) (op : Nat) (w : StepWord) (upset : Bool) (f : Device → Cmd → VuCtx → Except Nat (Device × VuCtx)) : Device :=
  d.whole fun d => d.vuStepNow t op w upset f

/-- A step that writes one V register lane by lane. -/
def Device.vuElem (d : Device) (t : TileRef) (op : Nat) (w : StepWord) (upset : Bool) (f : W32 → W32 → W32 → VRes) : Device :=
  d.vuStep t op w upset fun d _ v => .ok (d, v.setRegs w (v.lanes w) fun l => f (v.src w l w.a) (v.src w l w.b) (v.src w l w.c))

/-- A step that writes a mask lane by lane. -/
def Device.vuCmp (d : Device) (t : TileRef) (op : Nat) (w : StepWord) (upset : Bool) (f : W32 → W32 → Bool) : Device :=
  d.vuStep t op w upset fun d _ v => .ok (d, v.setMasks w (v.lanes w) fun l => f (v.src w l w.a) (v.src w l w.b))

def Device.vuMask (d : Device) (t : TileRef) (op : Nat) (w : StepWord) (upset : Bool) (f : Bool → Bool → Bool) : Device :=
  d.vuStep t op w upset fun d _ v => .ok (d, v.setMasks w (v.lanes w) fun l => f (v.mask l (w.a.toNat - 28)) (v.mask l (w.b.toNat - 28)))

def Device.vuReduce (d : Device) (t : TileRef) (op : Nat) (w : StepWord) (upset : Bool) : Device :=
  d.vuStep t op w upset fun d _ v => .ok (d, v.reduce op w)

/-- A step with no effect but the unit's next place. -/
def Device.vuIdle (d : Device) (t : TileRef) (op : Nat) (w : StepWord) (upset : Bool) : Device := d.vuStep t op w upset fun d _ v => .ok (d, v)

/-- The element of an input stream that position k of the row loads (R180, R183). -/
def loadElem (d : Device) (c : Cmd) (bay : Nat) (v : VuCtx) (i k : Nat) : Except Nat VRes :=
  let code := ent c.entry (0x68 + i) 1
  let mode := field v.modes (2 * i + 1) (2 * i)
  let addr := c.addr d (0x28 + 8 * i)
  let conv := fun (a : Acc) => let r := accToF32 a; (⟨r.1, flagIf r.2 fAccSat⟩ : VRes)
  if isSheafFmt code then
    let x := c.readCtx d bay
    match readTable d x.win addr with
    | .error s => .error s
    | .ok t =>
      let (ch, e) := if mode = 0 then (v.row, k) else if mode = 1 then (0, k) else if t.outer = 1 then (0, v.row) else (v.row, 0)
      if t.outer ≤ ch ∨ t.inner ≤ e then .error csTable
      else
        match readEntry d x.win t ((ch * t.blocks + e / 32) / 128) with
        | .error s => .error s
        | .ok en =>
          if en.fmt = 0x18 then
            match openSheaf d en x.verify with
            | .error s => .error s
            | .ok sh => .ok ⟨((memWords d sh ((ch * t.blocks + e / 32) % 128 * 32 + e % 32) 1).headD 0), flagIf sh.bad fMalformed⟩
          else
            match tensorBlock d x t ch (e / 32) with
            | .error s => .error s
            | .ok b => let r := conv (b.v.getD (e % 32) accZero); .ok ⟨r.w, r.flags ||| b.flags⟩
  else
    let idx := if mode = 0 then v.row * v.len + k else if mode = 1 then k else v.row
    let n := arrayStride code
    match d.read (addr + n * idx) n with
    | .error s => .error s
    | .ok bs => .ok (if code = 0x19 then conv (BitVec.ofNat 36 (leNat bs)) else ⟨BitVec.ofNat 32 (leNat bs), 0⟩)

/-- Memory as a piece loads from it: its own held writes stand in it, and what it has overwritten reads as the copy of its input (R161, R170, R171). -/
def VuCtx.view (v : VuCtx) (d : Device) : Device :=
  { d with mem := v.copy.foldl (fun m p => m.write p.1 p.2) (v.late.foldl (fun m p => m.write p.1 p.2) d.mem) }

/-- LOAD (R161, R183). -/
def Device.vuLoad (d : Device) (t : TileRef) (w : StepWord) (upset : Bool) : Device :=
  d.vuStep t 0x30 w upset fun d c v =>
    let ls := v.lanes w
    match allOk (fun l => loadElem (v.view d) c t.bay.val v w.stream.toNat (64 * v.group + l)) ls with
    | .error s => .error s
    | .ok rs => .ok (d, (ls.zip rs).foldl (fun v p => v.setRegs w [p.1] fun _ => p.2) v)

/-- Where an output stream takes the value of position `k` of row `r`: in a plain array, or in the sheaf of an FP32-sheaf output (R183). -/
def storeAddr (d : Device) (c : Cmd) (v : VuCtx) (o k : Nat) : Except Nat Nat :=
  let code := recipeCode c.entry o
  let base := c.addr d (0x48 + 8 * o)
  if isSheafFmt code then
    match readTable d (c.win d) base with
    | .error s => .error s
    | .ok t =>
      let b := v.row * t.blocks + k / 32
      match readEntry d (c.win d) t (b / 128) with
      | .error s => .error s
      | .ok e => .ok (e.addr + 4 * (b % 128 * 32 + k % 32))
  else .ok (base + arrayStride code * (v.row * v.len + k))

/-- The bytes STORE writes for one value (R51, R183). -/
def storeBytes (code : Nat) (a : W32) : List Byte × Nat :=
  if code = 0x19 then let r := f32ToAcc a; (leBytes 5 r.acc.toNat, flagIf r.sat fAccSat ||| flagIf r.invalid fInvalid)
  else (leBytes 4 a.toNat, 0)

/-- The writes of a STORE step, lane by lane, with flags (R183, R184). -/
def storeWrites (d : Device) (c : Cmd) (v : VuCtx) (w : StepWord) : Except Nat (List ((Nat × List Byte) × Nat)) :=
  let o := w.stream.toNat
  allOk (fun l =>
    match storeAddr d c v o (64 * v.group + l) with
    | .error s => .error s
    | .ok a => let b := storeBytes (recipeCode c.entry o) (v.src w l w.a); .ok ((a, b.1), b.2)) (v.lanes w)

/-- STORE (R161, R171, R183, R184): what it overwrites is kept as the copy of the input; after a fence that follows a QSTORE the writes wait for it. -/
def Device.vuStore (d : Device) (t : TileRef) (w : StepWord) (upset : Bool) : Device :=
  d.vuStep t 0x31 w upset fun d c v =>
    match storeWrites d c v w with
    | .error s => .error s
    | .ok ws =>
      let fl := v.flags ||| flagsOf (·.2) ws
      if v.fenced = 2 then .ok (d, { v with flags := fl, late := v.late ++ ws.map (·.1) })
      else
        match allWrites d (ws.map (·.1)) with
        | .error s => .error s
        | .ok d1 => .ok (d1, { v with flags := fl, copy := (ws.map fun b => (b.1.1, d.mem.read b.1.1 b.1.2.length)).reverse ++ v.copy })

/-- QSTORE (R183, R184): the row is gathered for the drain quantiser. -/
def Device.vuQstore (d : Device) (t : TileRef) (w : StepWord) (upset : Bool) : Device :=
  d.vuStep t 0x32 w upset fun d c v =>
    let vs := (v.lanes w).map fun l => (v.row * v.len + 64 * v.group + l, wideOfF32 (v.src w l w.a))
    .ok (d.modCmd c.tag fun x => if w.stream = 0 then { x with wide0 := gather x.wide0 vs } else { x with wide1 := gather x.wide1 vs }, { v with fenced := max 1 v.fenced })

/-- INDEX (R183). -/
def Device.vuIndex (d : Device) (t : TileRef) (w : StepWord) (upset : Bool) : Device :=
  d.vuStep t 0x33 w upset fun d _ v => .ok (d, v.setRegs w (v.lanes w) fun l => ⟨(f32Round (Q.ofNat (64 * v.group + l)) false).1, 0⟩)

/-- The draw of a random step in a lane (R192). -/
def vuDraw (d : Device) (c : Cmd) (v : VuCtx) (l : Nat) : W32 :=
  let n := (v.steps.take v.pc).countP fun x => isRandomStep x.1
  let k := 64 * v.group + l
  draw (c.seed d 0x6E) c.step (BitVec.ofNat 32 (ent c.entry 0x70 4)) (BitVec.ofNat 64 ((ent c.entry 0x78 8 + v.row) * v.len + k)) n

/-- RAND_BITS and RAND_U01 (R193). -/
def Device.vuRand (d : Device) (t : TileRef) (op : Nat) (w : StepWord) (upset : Bool) (f : W32 → W32) : Device :=
  d.vuStep t op w upset fun d c v => .ok (d, v.setRegs w (v.lanes w) fun l => ⟨f (vuDraw d c v l), 0⟩)

/-- SELECT (R183). -/
def Device.vuSelect (d : Device) (t : TileRef) (w : StepWord) (upset : Bool) : Device :=
  d.vuStep t 0x18 w upset fun d _ v =>
    .ok (d, v.setRegs w (v.lanes w) fun l => ⟨if v.mask l w.pmask.toNat then v.src w l w.a else v.src w l w.b, 0⟩)

/-! ### The steps -/

/-- NOP (R183): no effect. -/
def execNop (t : TileRef) (w : StepWord) (upset : Bool) (s : State) : Host.Outcome State Fault Refusal :=
  .next { s with dev := s.dev.vuIdle t 0x00 w upset }

/-- ADD (R175, R183): a + b. -/
def execAdd (t : TileRef) (w : StepWord) (upset : Bool) (s : State) : Host.Outcome State Fault Refusal :=
  .next { s with dev := s.dev.vuElem t 0x01 w upset fun a b _ => vAdd a b }

/-- SUB (R175, R183): a − b. -/
def execSub (t : TileRef) (w : StepWord) (upset : Bool) (s : State) : Host.Outcome State Fault Refusal :=
  .next { s with dev := s.dev.vuElem t 0x02 w upset fun a b _ => vSub a b }

/-- MUL (R175, R183): a × b. -/
def execMul (t : TileRef) (w : StepWord) (upset : Bool) (s : State) : Host.Outcome State Fault Refusal :=
  .next { s with dev := s.dev.vuElem t 0x03 w upset fun a b _ => vMul a b }

/-- FMA (R175, R183): a × b + c, rounded once. -/
def execFma (t : TileRef) (w : StepWord) (upset : Bool) (s : State) : Host.Outcome State Fault Refusal :=
  .next { s with dev := s.dev.vuElem t 0x04 w upset vFma }

/-- DIV (R175, R183): a / b. -/
def execDiv (t : TileRef) (w : StepWord) (upset : Bool) (s : State) : Host.Outcome State Fault Refusal :=
  .next { s with dev := s.dev.vuElem t 0x05 w upset fun a b _ => vDiv a b }

/-- SQRT (R175, R183): √a. -/
def execSqrt (t : TileRef) (w : StepWord) (upset : Bool) (s : State) : Host.Outcome State Fault Refusal :=
  .next { s with dev := s.dev.vuElem t 0x06 w upset fun a _ _ => vSqrt a }

/-- MIN (R176). -/
def execMin (t : TileRef) (w : StepWord) (upset : Bool) (s : State) : Host.Outcome State Fault Refusal :=
  .next { s with dev := s.dev.vuElem t 0x07 w upset fun a b _ => vMin a b }

/-- MAX (R176). -/
def execMax (t : TileRef) (w : StepWord) (upset : Bool) (s : State) : Host.Outcome State Fault Refusal :=
  .next { s with dev := s.dev.vuElem t 0x08 w upset fun a b _ => vMax a b }

/-- ABS (R183). -/
def execAbs (t : TileRef) (w : StepWord) (upset : Bool) (s : State) : Host.Outcome State Fault Refusal :=
  .next { s with dev := s.dev.vuElem t 0x09 w upset fun a _ _ => vAbs a }

/-- NEG (R183). -/
def execNeg (t : TileRef) (w : StepWord) (upset : Bool) (s : State) : Host.Outcome State Fault Refusal :=
  .next { s with dev := s.dev.vuElem t 0x0A w upset fun a _ _ => vNeg a }

/-- SCALE (R183): rne(a × 2^n), n the immediate. -/
def execScale (t : TileRef) (w : StepWord) (upset : Bool) (s : State) : Host.Outcome State Fault Refusal :=
  .next { s with dev := s.dev.vuElem t 0x0B w upset fun a _ _ => vScale a w.imm }

/-- ROUNDI (R183). -/
def execRoundi (t : TileRef) (w : StepWord) (upset : Bool) (s : State) : Host.Outcome State Fault Refusal :=
  .next { s with dev := s.dev.vuElem t 0x0C w upset fun a _ _ => vRoundi a }

/-- CVT_I2F (R183). -/
def execCvtI2f (t : TileRef) (w : StepWord) (upset : Bool) (s : State) : Host.Outcome State Fault Refusal :=
  .next { s with dev := s.dev.vuElem t 0x0D w upset fun a _ _ => vI2f a }

/-- CVT_F2I (R176, R183). -/
def execCvtF2i (t : TileRef) (w : StepWord) (upset : Bool) (s : State) : Host.Outcome State Fault Refusal :=
  .next { s with dev := s.dev.vuElem t 0x0E w upset fun a _ _ => vF2i a }

/-- AND (R183). -/
def execAndW (t : TileRef) (w : StepWord) (upset : Bool) (s : State) : Host.Outcome State Fault Refusal :=
  .next { s with dev := s.dev.vuElem t 0x0F w upset fun a b _ => ⟨a &&& b, 0⟩ }

/-- OR (R183). -/
def execOrW (t : TileRef) (w : StepWord) (upset : Bool) (s : State) : Host.Outcome State Fault Refusal :=
  .next { s with dev := s.dev.vuElem t 0x10 w upset fun a b _ => ⟨a ||| b, 0⟩ }

/-- XOR (R183). -/
def execXorW (t : TileRef) (w : StepWord) (upset : Bool) (s : State) : Host.Outcome State Fault Refusal :=
  .next { s with dev := s.dev.vuElem t 0x11 w upset fun a b _ => ⟨a ^^^ b, 0⟩ }

/-- CMP_LT (R176, R183): false with a NaN operand. -/
def execCmpLt (t : TileRef) (w : StepWord) (upset : Bool) (s : State) : Host.Outcome State Fault Refusal :=
  .next { s with dev := s.dev.vuCmp t 0x14 w upset fun a b => !(f32IsNaN a || f32IsNaN b) && f32Lt a b }

/-- CMP_LE (R176, R183). -/
def execCmpLe (t : TileRef) (w : StepWord) (upset : Bool) (s : State) : Host.Outcome State Fault Refusal :=
  .next { s with dev := s.dev.vuCmp t 0x15 w upset fun a b => !(f32IsNaN a || f32IsNaN b) && !(f32Lt b a) }

/-- CMP_EQ (R176, R183). -/
def execCmpEq (t : TileRef) (w : StepWord) (upset : Bool) (s : State) : Host.Outcome State Fault Refusal :=
  .next { s with dev := s.dev.vuCmp t 0x16 w upset fun a b => !(f32IsNaN a || f32IsNaN b) && f32Eq a b }

/-- CMP_NAN (R183). -/
def execCmpNan (t : TileRef) (w : StepWord) (upset : Bool) (s : State) : Host.Outcome State Fault Refusal :=
  .next { s with dev := s.dev.vuCmp t 0x17 w upset fun a _ => f32IsNaN a }

/-- SELECT (R183). -/
def execSelect (t : TileRef) (w : StepWord) (upset : Bool) (s : State) : Host.Outcome State Fault Refusal :=
  .next { s with dev := s.dev.vuSelect t w upset }

/-- MAND (R183). -/
def execMand (t : TileRef) (w : StepWord) (upset : Bool) (s : State) : Host.Outcome State Fault Refusal :=
  .next { s with dev := s.dev.vuMask t 0x19 w upset fun a b => a && b }

/-- MOR (R183). -/
def execMor (t : TileRef) (w : StepWord) (upset : Bool) (s : State) : Host.Outcome State Fault Refusal :=
  .next { s with dev := s.dev.vuMask t 0x1A w upset fun a b => a || b }

/-- MNOT (R183). -/
def execMnot (t : TileRef) (w : StepWord) (upset : Bool) (s : State) : Host.Outcome State Fault Refusal :=
  .next { s with dev := s.dev.vuMask t 0x1B w upset fun a _ => !a }

/-- TANH (R178, R179). -/
def execTanh (t : TileRef) (w : StepWord) (upset : Bool) (s : State) : Host.Outcome State Fault Refusal :=
  .next { s with dev := s.dev.vuElem t 0x20 w upset fun a _ _ => vTanh a }

/-- LOGISTIC (R178, R179). -/
def execLogistic (t : TileRef) (w : StepWord) (upset : Bool) (s : State) : Host.Outcome State Fault Refusal :=
  .next { s with dev := s.dev.vuElem t 0x21 w upset fun a _ _ => vLogistic a }

/-- EXP2 (R178, R179). -/
def execExp2 (t : TileRef) (w : StepWord) (upset : Bool) (s : State) : Host.Outcome State Fault Refusal :=
  .next { s with dev := s.dev.vuElem t 0x22 w upset fun a _ _ => vExp2 a }

/-- LOG2 (R178, R179). -/
def execLog2 (t : TileRef) (w : StepWord) (upset : Bool) (s : State) : Host.Outcome State Fault Refusal :=
  .next { s with dev := s.dev.vuElem t 0x23 w upset fun a _ _ => vLog2 a }

/-- RCP (R178, R179). -/
def execRcp (t : TileRef) (w : StepWord) (upset : Bool) (s : State) : Host.Outcome State Fault Refusal :=
  .next { s with dev := s.dev.vuElem t 0x24 w upset fun a _ _ => vRcp a }

/-- RSQRT (R178, R179). -/
def execRsqrt (t : TileRef) (w : StepWord) (upset : Bool) (s : State) : Host.Outcome State Fault Refusal :=
  .next { s with dev := s.dev.vuElem t 0x25 w upset fun a _ _ => vRsqrt a }

/-- ROW_SUM (R186). -/
def execRowSum (t : TileRef) (w : StepWord) (upset : Bool) (s : State) : Host.Outcome State Fault Refusal :=
  .next { s with dev := s.dev.vuReduce t 0x28 w upset }

/-- ROW_SUMSQ (R186). -/
def execRowSumsq (t : TileRef) (w : StepWord) (upset : Bool) (s : State) : Host.Outcome State Fault Refusal :=
  .next { s with dev := s.dev.vuReduce t 0x29 w upset }

/-- ROW_MAX (R186). -/
def execRowMax (t : TileRef) (w : StepWord) (upset : Bool) (s : State) : Host.Outcome State Fault Refusal :=
  .next { s with dev := s.dev.vuReduce t 0x2A w upset }

/-- ROW_MIN (R186). -/
def execRowMin (t : TileRef) (w : StepWord) (upset : Bool) (s : State) : Host.Outcome State Fault Refusal :=
  .next { s with dev := s.dev.vuReduce t 0x2B w upset }

/-- PASS (R185): the pass ends for the group, and for the row after its last group. -/
def execPass (t : TileRef) (w : StepWord) (upset : Bool) (s : State) : Host.Outcome State Fault Refusal :=
  .next { s with dev := s.dev.vuIdle t 0x2C w upset }

/-- LOAD (R183). -/
def execLoad (t : TileRef) (w : StepWord) (upset : Bool) (s : State) : Host.Outcome State Fault Refusal :=
  .next { s with dev := s.dev.vuLoad t w upset }

/-- STORE (R183). -/
def execStore (t : TileRef) (w : StepWord) (upset : Bool) (s : State) : Host.Outcome State Fault Refusal :=
  .next { s with dev := s.dev.vuStore t w upset }

/-- QSTORE (R183). -/
def execQstore (t : TileRef) (w : StepWord) (upset : Bool) (s : State) : Host.Outcome State Fault Refusal :=
  .next { s with dev := s.dev.vuQstore t w upset }

/-- INDEX (R183). -/
def execIndex (t : TileRef) (w : StepWord) (upset : Bool) (s : State) : Host.Outcome State Fault Refusal :=
  .next { s with dev := s.dev.vuIndex t w upset }

/-- RAND_BITS (R193). -/
def execRandBits (t : TileRef) (w : StepWord) (upset : Bool) (s : State) : Host.Outcome State Fault Refusal :=
  .next { s with dev := s.dev.vuRand t 0x34 w upset id }

/-- RAND_U01 (R193). -/
def execRandU01 (t : TileRef) (w : StepWord) (upset : Bool) (s : State) : Host.Outcome State Fault Refusal :=
  .next { s with dev := s.dev.vuRand t 0x35 w upset uniformBits }

/-- A fence step (R171): earlier writes but those of QSTOREs are performed already, and later ones then wait for these. -/
def Device.vuFence (d : Device) (t : TileRef) (op : Nat) (w : StepWord) (upset : Bool) : Device :=
  d.vuStep t op w upset fun d _ v => .ok (d, { v with fenced := if v.fenced = 1 then 2 else v.fenced })

/-- FENCE_STORE (R171). -/
def execFenceStore (t : TileRef) (w : StepWord) (upset : Bool) (s : State) : Host.Outcome State Fault Refusal :=
  .next { s with dev := s.dev.vuFence t 0x38 w upset }

/-- FENCE_FULL (R171): every earlier read is performed already. -/
def execFenceFull (t : TileRef) (w : StepWord) (upset : Bool) (s : State) : Host.Outcome State Fault Refusal :=
  .next { s with dev := s.dev.vuFence t 0x39 w upset }

/-! ### Row-state records (R187) -/

/-- The reduction steps of the current pass, by step number. -/
def VuCtx.passReds (v : VuCtx) : List (Nat × Nat) :=
  ((v.steps.zip (stepPasses v.steps 0)).zipIdx.filter fun x => x.1.2 == v.pass && isReduction x.1.1.1).map fun x => (x.2, x.1.1.1)

/-- A row-state record: the lane partials of the pass's reductions, the row scalars, row, pass, next group, and the check. -/
def VuCtx.record (v : VuCtx) : List Byte :=
  let parts := v.passReds.flatMap fun (i, op) => (List.range 64).flatMap fun l => leBytes 4 ((v.parts.get none (i * 64 + l)).getD (redId op)).toNat
  let body := padTo 2108 (padTo 2048 parts ++ ((List.range 8).flatMap fun i => leBytes 4 (v.scalars.get 0 i).toNat) ++
    leBytes 8 v.row ++ leBytes 4 v.pass ++ leBytes 4 v.group)
  body ++ leBytes 4 (crc32c body)

/-- A piece taken back to a row-state record: its place, scalars and partials from the bytes. -/
def VuCtx.recalled (v : VuCtx) (r : RowRec) (bs : List Byte) : VuCtx :=
  let v1 := { v with
    row := bytesNat bs 2080 8, pass := bytesNat bs 2088 4, group := bytesNat bs 2092 4, regs := [], masks := [], flags := r.flags,
    finished := false, fenced := r.fenced, late := r.late,
    scalars := (List.range 8).foldl (fun s i => s.put 0 i (BitVec.ofNat 32 (bytesNat bs (2048 + 4 * i) 4))) [] }
  { v1 with pc := v1.passStart, parts := v1.passReds.zipIdx.foldl (fun s x => (List.range 64).foldl (fun s l =>
      s.put none (x.1.1 * 64 + l) (some (BitVec.ofNat 32 (bytesNat bs (256 * x.2 + 4 * l) 4)))) s) [] }

/-- PIECE_BOUNDARY (R187): at a group boundary inside a row the row-state record goes into the slot not written last, and the next piece keeps its own copy of its input. -/
def Device.pieceBoundary (d : Device) (t : TileRef) : Device :=
  match d.vuWork t with
  | none => d
  | some (v, _) =>
    if v.finished || v.pc != v.passStart || (v.group == 0 && v.pass == 0) || [0, 1].any fun n => d.held (rowSlot t.bay.val t.tile.val n) 2112 then d
    else
      let old := (d.tile (refKey t)).rowRecs
      let slot := match old with | r :: _ => 1 - r.slot | [] => 0
      (d.putBytes (rowSlot t.bay.val t.tile.val slot) v.record).modTile (refKey t) fun x =>
        { x with rowRecs := ⟨slot, v.cmd, v.op, v.flags, v.fenced, v.late⟩ :: old.filter (fun r => r.slot != slot), vu := some { v with copy := [] } }

def execPieceBoundary (t : TileRef) (s : State) : Host.Outcome State Fault Refusal := .next { s with dev := s.dev.pieceBoundary t }

end Sys2Proof.Machine
end

