-- ==== Sys2Proof/Machine/Dispatcher.lean ====
section
/-! DEFINITION. The dispatcher and the tiles' operation slots: delivery, start and end of tile operations (R124 to R126, R188, R248, R255). -/

namespace Sys2Proof.Machine

/-! ### Delivery (R125, R248, R255) -/

/-- Operations of a command that tile `key` or other tiles of bay `k` hold. -/
def Cmd.tilesOn (c : Cmd) (k : Nat) : List Nat := ((c.ops.filter fun o => o.bay == k && o.delivered).map (·.tile)).eraseDups

/-- The tile budget allows the command one more operation on tile `t` (R231). -/
def Cmd.budgetAllows (c : Cmd) (k t : Nat) : Bool :=
  let n := if ent c.entry 4 2 = 0 then 1280 else ent c.entry 4 2
  let ts := c.tilesOn k
  ts.contains t || ts.length < n

/-- Index of the first held operation of a command on bay `k`. -/
def Cmd.heldOp (c : Cmd) (k : Nat) : Option Nat := c.ops.findIdx? fun o => o.bay == k && o.state == .held

/-- `a` goes before `b` (R248). -/
def Cmd.before (a b : Cmd) : Bool :=
  if a.urgent != b.urgent then a.urgent
  else if a.urgent then a.order < b.order
  else a.promise < b.promise || (a.promise == b.promise && a.order < b.order)

/-- The command whose operation a slot of tile `t` goes to next. -/
def Device.nextDelivery (d : Device) (k t : Nat) : Option Cmd :=
  (d.cmds.filter fun c => c.failure.isNone && d.mayRun c && c.budgetAllows k t && (c.heldOp k).isSome).foldl
    (fun (m : Option Cmd) c => match m with | some b => if c.before b then some c else m | none => some c) none

/-- A tally tag for an operation of a class: urgent ones first use their own. -/
def Bay.takeTally (b : Bay) (urgent : Bool) : Option (Nat × Bay) :=
  match urgent, b.tallyUrgentFree, b.tallyFree with
  | true, x :: r, _ => some (x, { b with tallyUrgentFree := r })
  | _, _, x :: r => some (x, { b with tallyFree := r })
  | _, _, [] => none

/-- A slot is free for the class (R125). -/
def slotFree (tl : Tile) (urgent : Bool) : Bool :=
  tl.slots.length < 16 && (urgent || tl.slots.countP (fun s => !s.urgent) < 14)

/-- The status a RECIPE fails with before its first operation starts, where it does (R188). -/
def Cmd.badRecipe (d : Device) (c : Cmd) : Option Nat :=
  if opcodeOf c.entry = 0x13 then (match c.recipe d with | .error s => some s | .ok _ => none) else none

/-- TILE_OP_DELIVER. An operation that finds a slot and no tag in its bay's pool is held, and counted once (R255, R259). -/
def Device.deliverNow (d : Device) (t : TileRef) : Device :=
  let k := t.bay.val
  let b := d.bay k
  if !(b.state == .run || b.state == .test || b.state == .recovery) || d.power.powerState != 0 then d
  else
    match d.nextDelivery k t.tile.val with
    | none => d
    | some c =>
      match c.heldOp k with
      | none => d
      | some i =>
        match c.badRecipe d with
        | some s => d.failWith c.tag s
        | none =>
          let hold := match c.ops[i]? with
            | some o => if o.counted then d else (d.count 0x807004 1).withOp c.tag i fun o => { o with counted := true }
            | none => d
          if !(slotFree (d.tile (refKey t)) c.urgent) then d
          else
            match b.takeTally c.urgent with
            | none => hold
            | some (tag, b1) =>
              let d1 := (d.setBay k { b1 with slotsFree := b1.slotsFree - 1 }).withOp c.tag i fun o =>
                { o with state := .waiting, tile := t.tile.val, tally := some tag }
              d1.modTile (refKey t) fun x => { x with slots := x.slots ++ [⟨c.tag, i, (c.ops[i]?.map (·.kind)).getD .vector, c.urgent⟩] }

/-- The same where no access of it meets a paused row (R214). -/
def Device.deliver (d : Device) (t : TileRef) : Device := d.whole fun d => d.deliverNow t

def execTileOpDeliver (t : TileRef) (s : State) : Host.Outcome State Fault Refusal := .next { s with dev := s.dev.deliver t }

/-! ### Start (R124, R126, R132) -/

/-- An array operation of ATTENTION runs on the tile, on its arrays or in its drain, and holds the vector unit (R124). -/
def Device.attRuns (d : Device) (t : TileRef) : Bool :=
  let x := d.tile (refKey t)
  (match x.arr with | some g => g.members.any d.isAttention | none => false) || x.drains.any fun r => d.isAttention r.mem

/-- The recipe context of an operation's rows (R182, R185). -/
def startVu (r : Recipe) (tag i : Nat) (o : TileOp) : VuCtx :=
  { cmd := tag, op := i, steps := r.steps, len := r.len, modes := r.modes, row := o.row0, rowEnd := o.row0 + o.rows, group := 0, pass := 0,
    pc := 0, regs := [], masks := [], scalars := [], parts := [], flags := 0, finished := decide (o.rows = 0), copy := [], fenced := 0, late := [] }

/-- An array operation begins on idle arrays: from its newest snapshot record where a failure sent it back (R163), else from its start. An urgent one leaves no drain reading the lanes it needs (R139). -/
def Device.beginArray (d : Device) (t : TileRef) (c : Cmd) (i : Nat) (o : TileOp) (a : ArrayCmd) : Except Nat Device :=
  let k := t.bay.val
  let n := t.tile.val
  let d0 := if c.urgent then d.freeLanes k n else d
  let put := fun (d : Device) (g : ArrayGroup) => d.modTile (refKey t) fun x => Tile.settleStart { x with arr := some g }
  match d0.snapRecord k n c.tag i with
  | some s =>
    let g := d0.recorded k n s a.fold.c0 a.courseAt fun m => m.hit c.tag i
    let d1 := put (d0.modTile (refKey t) fun x => x.eachLane allLanes allLanes fun l _ => { l with block := 0, course := accZero }) g
    (match d1.pieceOf ((g.members.head?).getD ⟨c.tag, i, 0, 0, [], [], [], [], none, 0, 0⟩) with
     | .error e => .error e
     | .ok p => .ok (d1.finishGroup k n (((d1.tile (refKey t)).arr).getD g) [p]))
  | none =>
    let bank := match (d0.tile (refKey t)).pre with | some g => 1 - g.bank | none => 0
    match d0.place k n (c.readCtx d k) a c.tag i o 0 bank with
    | .error e => .error e
    | .ok (d1, m) => .ok (put d1 { members := [m], pos := 0, course := 0, bank := bank, gens := 0 })

/-- An array operation joins the group on the arrays before its first beat, where R136 allows; none where it does not. -/
def Device.joinArray (d : Device) (t : TileRef) (g : ArrayGroup) (c : Cmd) (i : Nat) (o : TileOp) (a : ArrayCmd) : Option (Except Nat Device) :=
  match g.members.head?.map d.pieceOf, g.freeBase (arraysOf a.b.cls o.shapeN) with
  | some (.ok p), some base =>
    if g.pos = 0 ∧ g.course = 0 ∧ p.joins c o a = true then
      match d.place t.bay.val t.tile.val (c.readCtx d t.bay.val) a c.tag i o base g.bank with
      | .error e => some (.error e)
      | .ok (d1, m) => some (.ok (d1.modTile (refKey t) fun x => Tile.settleStart { x with arr := some { g with members := g.members ++ [m] } }))
    else none
  | _, _ => none

/-- An array operation goes onto the arrays, alone or with the group there; none where it has to wait. A pre-empted group keeps non-urgent operations out, and ATTENTION waits for the vector unit (R126, R140). -/
def Device.startArray (d : Device) (t : TileRef) (c : Cmd) (i : Nat) (o : TileOp) (a : ArrayCmd) : Option (Except Nat Device) :=
  let x := d.tile (refKey t)
  if (x.pre.isSome && !c.urgent) || (a.isAtt && d.kindRuns t .vector) then none
  else
    match x.arr with
    | none => some (d.beginArray t c i o a)
    | some g => d.joinArray t g c i o a

/-- TILE_OP_START. -/
def Device.startNow (d : Device) (t : TileRef) (k : OpKind) : Device :=
  if !(d.tileRuns t.bay.val t.tile.val) || d.repeats t.bay.val t.tile.val then d
  else
    match d.nextSlot t k with
    | none => d
    | some s =>
      match d.cmd s.cmd with
      | none => d
      | some c =>
        match c.ops[s.op]? with
        | none => d
        | some o =>
          let run := fun (d : Device) => (d.withOp c.tag s.op fun o => { o with state := .running }).crossStart t.bay.val c.tag s.op (d.crossLines (c.win d) t.bay.val o.spans)
          match k with
          | .array =>
            match c.arrayCmd d with
            | .error e => d.failWith c.tag e
            | .ok a =>
              match d.startArray t c s.op o a with
              | none => d
              | some (.error e) => d.failWith c.tag e
              | some (.ok d1) => run d1
          | .vector =>
            if d.kindRuns t .vector || d.attRuns t then d
            else if opcodeOf c.entry = 0x13 then
              match c.recipe d with
              | .error e => d.failWith c.tag e
              | .ok r => run (d.modTile (refKey t) fun tl => { tl with vu := some (startVu r c.tag s.op o) })
            else run d
          | .transfer => run d

/-- The same where no access of it meets a paused row (R214). -/
def Device.start (d : Device) (t : TileRef) (k : OpKind) : Device := d.whole fun d => d.startNow t k

def execTileOpStart (t : TileRef) (k : OpKind) (s : State) : Host.Outcome State Fault Refusal := .next { s with dev := s.dev.start t k }

/-! ### End (R161, R255) -/

/-- The first running operation of a kind on the tile. -/
def Device.runningOp (d : Device) (t : TileRef) (k : OpKind) : Option Slot :=
  (d.tile (refKey t)).slots.find? fun s => s.kind == k && d.slotIs s .running

/-- The flags a RECIPE piece has gathered on its tile (R177). -/
def Device.pieceFlags (d : Device) (t : TileRef) (c : Cmd) : Nat :=
  match (d.tile (refKey t)).vu with
  | some v => if opcodeOf c.entry = 0x13 then v.flags else 0
  | none => 0

/-- The writes a RECIPE piece leaves to follow the command's narrow outputs (R171). -/
def Device.pieceLate (d : Device) (t : TileRef) (c : Cmd) : List (Nat × List Byte) :=
  match (d.tile (refKey t)).vu with
  | some v => if opcodeOf c.entry = 0x13 then v.late else []
  | none => []

/-- The end of a vector or transfer piece: the last piece of a command performs its work, a recipe piece has performed its own. -/
def Device.pieceEnd (d : Device) (t : TileRef) (k : OpKind) (found : List Detected) : Device :=
  if !(d.tileRuns t.bay.val t.tile.val) then d
  else
    match d.runningOp t k with
    | none => d
    | some s =>
      match d.cmd s.cmd with
      | none => d
      | some c =>
        let vuDone := match (d.tile (refKey t)).vu with | some v => v.finished && v.cmd == c.tag && v.op == s.op | none => false
        if (opcodeOf c.entry = 0x13 && !vuDone) || d.tokenWait c.tag s.op then d
        else
          let d0 := d.detectAll t.bay.val t.tile.val c.tag found
          if fatal found then d0
          else
            let last := (c.ops.zipIdx).all fun (o, i) => i == s.op || o.state == .ended
            let d1 := d0.modCmd c.tag fun x => { x with flags := x.flags ||| d.pieceFlags t c, late := x.late ++ d.pieceLate t c }
            let d2 := if last then d1.perform c.tag t.bay.val else d1
            (d2.endOp c.tag s.op).settle c.tag

/-- TILE_OP_END. -/
def Device.opEndNow (d : Device) (t : TileRef) (k : OpKind) (found : List Detected) : Device :=
  match k with
  | .array => d.arrayEnd t found
  | .vector => d.pieceEnd t .vector found
  | .transfer => d.pieceEnd t .transfer found

/-- The same where no access of it meets a paused row (R214). -/
def Device.opEnd (d : Device) (t : TileRef) (k : OpKind) (found : List Detected) : Device := d.whole fun d => d.opEndNow t k found

def execTileOpEnd (t : TileRef) (k : OpKind) (found : List Detected) (s : State) : Host.Outcome State Fault Refusal :=
  .next { s with dev := s.dev.opEnd t k found }

/-- SHEAF_REEXECUTE (R106): the next tripped sheaf of a command is quantised again in its fall-back format. -/
def Device.rewriteTrip (d : Device) (tag : Nat) : Device :=
  match d.cmd tag with
  | none => d
  | some c =>
    match c.trips, c.outSpecs d with
    | [], _ => d
    | _, .error s => d.failWith tag s
    | t :: _, .ok os =>
      match os[t.out]? with
      | none => d
      | some o =>
        match reexecute d (c.readCtx d c.homeBay) c t o with
        | .error s => d.failWith tag s
        | .ok (d1, c1) => (d1.modCmd tag fun _ => c1).writeLate tag

/-- SHEAF_REEXECUTE: what the drain quantiser's twins and the parity of the writes find stops it, and is its tile's or its paths' (R326, R330); a detection in the command's work is handled first. -/
def Device.sheafAgainNow (d : Device) (tag : Nat) (found : List Detected) : Device :=
  match d.cmd tag with
  | none => d
  | some c =>
    if d.struck tag then d
    else
      let fs := if c.ops.isEmpty then pathsOnly found else found
      let d0 := d.detectAll c.homeBay (match c.ops with | o :: _ => o.tile | [] => 0xFFFF) tag fs
      if fatal fs then d0 else d0.rewriteTrip tag

/-- The same where no access of it meets a paused row (R214). -/
def Device.sheafAgain (d : Device) (tag : Nat) (found : List Detected) : Device := d.whole fun d => d.sheafAgainNow tag found

def execSheafReexecute (w : WorkEnd) (s : State) : Host.Outcome State Fault Refusal := .next { s with dev := s.dev.sheafAgain w.tag w.found }

end Sys2Proof.Machine
end

