-- ==== Sys2Proof/Machine/Checks.lean ====
section
/-! DEFINITION. Rule 1 of admission (R242, R457): what makes an entry INVALID, with the offset of each offending field. -/

namespace Sys2Proof.Machine

/-- Offsets of offending fields; the least of them is the record's detail (R243). -/
abbrev Bad := List Nat

def badIf (off : Nat) (c : Bool) : Bad := if c then [off] else []

/-- What the checks of one entry look at. -/
structure Look where
  dev : Device
  win : Win
  e : List Byte
  x : List Byte
  /-- the extension block was read, or none is named -/
  ext : Bool
  q : Nat

/-- A field of the entry, and one of the extension block. -/
def Look.f (l : Look) (off n : Nat) : Nat := ent l.e off n
def Look.g (l : Look) (off n : Nat) : Nat := bytesNat l.x off n
/-- Resolved addresses standing in the entry and in the extension block (R298). -/
def Look.at' (l : Look) (off : Nat) : Nat := l.win.resolve none (l.f off 8)
def Look.xat (l : Look) (off : Nat) : Nat := l.win.resolve none (l.g off 8)

/-- An address no command may name (R203, R220). -/
def Look.addr (l : Look) (off a : Nat) : Bad := badIf off !(l.dev.open' a 1)
def Look.aligned (l : Look) (off a : Nat) : Bad := badIf off (!(l.dev.open' a 1) || a % 64 != 0)

/-- A table header that admission reads (R457). A table in a bay that is out of service is left to rule 2 (notes/assumptions/24). -/
inductive Head where
  | bad
  | unread
  | ok (t : Table)
  deriving DecidableEq, Repr

/-- The bay refuses work at admission (R242, R349). -/
def Bay.closed (b : Bay) : Bool := b.state == .out || b.state == .startUp
def Device.addrClosed (d : Device) (a : Nat) : Bool := match d.bayOf a with | some k => (d.bay k).closed | none => false

def Look.head (l : Look) (a : Nat) : Head :=
  if a % 64 ≠ 0 then .bad
  else if l.dev.open' a 32 && l.dev.addrClosed a then .unread
  else match readTable l.dev l.win a with | .ok t => .ok t | .error _ => .bad

def Head.isBad : Head → Bool
  | .bad => true
  | .unread => false
  | .ok _ => false

/-- A condition on a header that was read. -/
def Head.fails (h : Head) (p : Table → Bool) : Bool := match h with | .ok t => p t | _ => false

/-- Two headers that were read. -/
def fails2 (h k : Head) (p : Table → Table → Bool) : Bool := match h, k with | .ok t, .ok u => p t u | _, _ => false

/-! ### Control words (R54, R55, R462) -/

def Look.stats (l : Look) : Nat := l.dev.setting 0x204001

/-- A control word at `off` against the header of the table that the field at `toff` names: what the table lacks is that field's fault (R54, R457). -/
def Look.control (l : Look) (off w toff : Nat) (h : Head) : Bad :=
  badIf off (!(qctlOk w l.stats)) ++ badIf toff (h.fails fun t => !(qctlFits w t.hasShift t.inner))

/-- An operand-load control word, checked where the declared class is 8 (R235, R462), and its smoothing vector. R54 asks a shift vector of the output's table; at operand load the table is the operand's own, from which a shift source of command or auto has its channels' shifts, so it is asked of that one. DEDUCED (notes/assumptions/43). -/
def Look.loadWord (l : Look) (cls off soff toff : Nat) (h : Head) : Bad :=
  if cls ≠ 8 then []
  else
    let w := l.g off 8
    l.control (0x80 + off) w toff h ++ badIf (0x80 + off) ((qctl w).target != 0x0A) ++
    (if (qctl w).smooth = 0 then [] else l.addr (0x80 + soff) (l.xat soff))

def classOk (c : Nat) : Bool := c == 1 || c == 2 || c == 4 || c == 8

/-! ### Events and fences in flight (R238, R239) -/

/-- What an accepted command does to an event at its completion, in order: none resets it (R237). -/
def Cmd.eventEffects (c : Cmd) : List (Nat × Option Nat) :=
  let s := ent c.entry 0x0C 2
  (if opcodeOf c.entry = 0x40 then [(ent c.entry 0x20 2, if ent c.entry 0x22 1 = 0 then some (ent c.entry 0x24 4) else none)] else []) ++
  (if s = 0xFFFF then [] else [(s, some 1)])

/-- A command's place before another in promise order. -/
def Cmd.earlier (a b : Cmd) : Bool := a.promise < b.promise || (a.promise == b.promise && a.order ≤ b.order)

def insertCmd (c : Cmd) : List Cmd → List Cmd
  | [] => [c]
  | x :: r => if c.earlier x then c :: x :: r else x :: insertCmd c r

/-- The accepted, uncompleted commands in promise order. -/
def Device.byPromise (d : Device) : List Cmd := d.cmds.foldl (fun r c => insertCmd c r) []

/-- The counter of event `ev` after a command's effects, and whether it has any. -/
def afterCmd (ev : Nat) (v : W32) (c : Cmd) : W32 × Bool :=
  (c.eventEffects.filter fun p => p.1 == ev).foldl
    (fun (r : W32 × Bool) p => (match p.2 with | some n => r.1 + BitVec.ofNat 32 n | none => 0, true)) (v, false)

def firstSignaller (ev want : Nat) (v : W32) : List Cmd → Option Nat
  | [] => none
  | c :: r =>
    let u := afterCmd ev v c
    if u.2 && waitDone u.1 want then some c.promise else firstSignaller ev want u.1 r

/-- When a wait is treated as satisfied (R238): now (0), or a signaller's promise; none if nothing accepted satisfies it. -/
def Device.waitPromise (d : Device) (ev want : Nat) : Option Nat :=
  let v := d.events.get 0 ev
  if waitDone v want then some 0 else firstSignaller ev want v d.byPromise

/-- An accepted command waits on the event or signals it (R239). -/
def Device.eventBusy (d : Device) (ev : Nat) : Bool :=
  d.cmds.any fun c => ent c.entry 6 2 == ev || c.eventEffects.any fun p => p.1 == ev

/-! ### The header (R231, R232) -/

/-- Offsets of the control words of a command's quantised outputs, in descriptor order. -/
def outCtls (e : List Byte) : List Nat :=
  let op := opcodeOf e
  if isArrayOp op then (if ent e 0x68 1 % 32 = fmtNone ∧ !(foldCtl (ent e 0x40 8)).foldOut then [0x38] else [])
  else if op = 0x10 ∨ op = 0x43 then [0x38]
  else if op = 0x13 then (if isNarrow (recipeCode e 0) then [0x58] else []) ++ (if isNarrow (recipeCode e 1) ∧ ent e 0x50 8 ≠ 0 then [0x60] else [])
  else if op = 0x30 ∧ ent e 0x20 1 = 1 ∧ ent e 0x23 1 = fmtNone ∧ ent e 0x30 8 ≠ 0 then [0x40]
  else []

/-- Those whose control word names a narrow format, which can be watched (R102, R231). -/
def watchedCtls (e : List Byte) : List Nat := (outCtls e).filter fun o => isNarrow (qctl (ent e o 8)).target

def allowanceOk (c : Nat) : Bool := c ≤ 0xC8 || c == 0xFF

/-- A WEIGHT_SWITCH answers for its class and its wait at offset 0x20 (R301). -/
def Look.header (l : Look) : Bad :=
  let cls := classOf l.e
  let sw := opcodeOf l.e == 0x44
  let ev := l.f 6 2
  let low := cls == 2 && !(l.dev.highPair l.q)
  badIf 0x01 (cls == 3 || l.f 1 1 / 16 != 0 || (low && !sw)) ++
  badIf 0x02 (!(watchedCtls l.e).isEmpty && !(allowanceOk (l.f 2 1))) ++
  badIf 0x04 (1280 < l.f 4 2) ++
  badIf 0x06 (!sw && ev != 0xFFFF && (4096 ≤ ev || (l.dev.waitPromise ev (l.f 8 4)).isNone)) ++
  badIf 0x0C (l.f 0x0C 2 != 0xFFFF && 4096 ≤ l.f 0x0C 2) ++
  badIf 0x0E (l.f 0x0E 2 != 0) ++
  badIf 0x18 (if cls = 1 then !sw && l.f 0x18 8 ≤ l.dev.now else l.f 0x18 8 != 0) ++
  badIf 0x20 (sw && (low || cls == 1 || ev != 0xFFFF))

/-! ### Array commands (R90, R91, R145, R234, R235, R458) -/

def Look.preHead (l : Look) (f : FoldCtl) : Head := if f.pre ≠ 0 ∧ isSheafFmt f.preFmt then l.head (l.at' 0x48) else .unread

def Look.attention (l : Look) (ha hb hv : Head) : Bad :=
  badIf 0xA8 (hv.isBad || fails2 hb hv fun b v => b.outer != v.outer) ++ badIf 0xB0 (!(f32IsFinite (BitVec.ofNat 32 (l.g 0x30 4)))) ++
  badIf 0xB4 (!(isNarrow (l.g 0x34 1)) || 4 < widthClass (l.g 0x34 1) false) ++ badIf 0xB5 (2 < l.g 0x35 1) ++
  badIf 0xB6 (!(classOk (l.g 0x36 1))) ++ (if l.g 0x35 1 = 2 then l.addr 0xB8 (l.xat 0x38) else []) ++
  l.loadWord (l.g 0x36 1) 0x50 0x58 0xA8 hv ++ badIf 0x28 (fails2 ha hb fun a b => a.inner != b.inner)

/-- The first parameter of a geometry outside R145's table, at its offset. -/
def convBad (g : Conv) : Bad :=
  let r := fun (off x lo hi : Nat) => badIf off !(decide (lo ≤ x) && decide (x ≤ hi))
  r 0xA8 g.kh 1 15 ++ r 0xA9 g.kw 1 15 ++ r 0xAA g.sy 1 4 ++ r 0xAA g.sx 1 4 ++ r 0xAB g.dy 1 4 ++ r 0xAB g.dx 1 4 ++
  r 0xAC g.pt 0 (g.dy * (g.kh - 1)) ++ r 0xAD g.pb 0 (g.dy * (g.kh - 1)) ++ r 0xAE g.pl 0 (g.dx * (g.kw - 1)) ++
  r 0xAF g.pr 0 (g.dx * (g.kw - 1)) ++ r 0xB0 g.h 1 65536 ++ r 0xB4 g.w 1 65536 ++ r 0xB8 g.batch 1 65536 ++ r 0xBC g.ch 1 65536 ++
  badIf 0xB0 (g.ho == 0) ++ badIf 0xB4 (g.wo == 0)

def Look.convolution (l : Look) (f : FoldCtl) (ha hb : Head) : Bad :=
  let g := convOf l.x
  let k := g.kh * g.kw * g.cp
  if !(convBad g).isEmpty then convBad g
  else badIf 0x20 (ha.fails fun a => a.outer != g.batch * g.h * g.w || a.inner != g.ch) ++
  badIf 0x28 (hb.fails fun b => if f.foldOut then k < 256 * f.c0 + b.inner else 256 * f.c0 + b.inner != k)

/-- The extension block is there to be judged. -/
def Look.hasExt (l : Look) : Bool := l.f 0x60 8 != 0 && l.ext

/-- What a usable header gives. -/
def Head.get (h : Head) (p : Table → Nat) : Option Nat := match h with | .ok t => some (p t) | _ => none

/-- Output rows, output columns and the reduction's length, as far as the headers and the geometry give them (R458). -/
def Look.shape (l : Look) (ha hb hv : Head) : Option Nat × Option Nat × Option Nat :=
  let op := opcodeOf l.e
  let g := convOf l.x
  if op = 2 then (ha.get (·.outer), hv.get (·.inner), (hb.get (·.outer)).orElse fun _ => hv.get (·.outer))
  else if op = 3 then
    (if l.hasExt && (convBad g).isEmpty then some (g.batch * g.ho * g.wo) else none, hb.get (·.outer), hb.get (·.inner))
  else (ha.get (·.outer), hb.get (·.outer), (ha.get (·.inner)).orElse fun _ => hb.get (·.inner))

/-- A table's header against an extent that is known. -/
def Head.differs (h : Head) (p : Table → Nat) : Option Nat → Bool
  | some n => h.fails fun t => p t != n
  | none => false

def Look.array (l : Look) : Bad :=
  let op := opcodeOf l.e
  let w := l.f 0x40 8
  let f := foldCtl w
  let cont := l.f 0x68 1 % 32
  let ha := l.head (l.at' 0x20)
  let hb := l.head (l.at' 0x28)
  let hv := if op = 2 && l.hasExt then l.head (l.xat 0x28) else Head.unread
  let sheafOut := !f.foldOut && cont == fmtNone
  let ho := if sheafOut then l.head (l.at' 0x30) else Head.unread
  let hp := l.preHead f
  let ca := l.f 0x69 1 % 16
  let cb := l.f 0x69 1 / 16
  badIf 0x20 ha.isBad ++ badIf 0x28 hb.isBad ++
  (if op = 1 then badIf 0x28 (fails2 ha hb fun a b => a.inner != b.inner) else []) ++
  (if f.foldOut then [] else if sheafOut then badIf 0x30 ho.isBad else if cont = 0x19 then l.aligned 0x30 (l.at' 0x30) else l.addr 0x30 (l.at' 0x30)) ++
  (if sheafOut then l.control 0x38 (l.f 0x38 8) 0x30 ho ++
    (if (qctl (l.f 0x38 8)).smooth = 0 ∨ !l.ext then [] else l.addr 0x80 (l.xat 0)) else []) ++
  badIf 0x40 (!(foldCtlOk w) || !(f.wordOk (op == 2))) ++
  (if f.pre = 0 then badIf 0x48 (l.f 0x48 8 != 0) else if isSheafFmt f.preFmt then badIf 0x48 hp.isBad
    else if f.preFmt = 0x19 then l.aligned 0x48 (l.at' 0x48) else l.addr 0x48 (l.at' 0x48)) ++
  (if f.foldIn then l.aligned 0x50 (l.at' 0x50) else []) ++ (if f.foldOut then l.aligned 0x58 (l.at' 0x58) else []) ++
  (if l.f 0x60 8 = 0 then badIf 0x60 (op != 1)
    else l.aligned 0x60 (l.at' 0x60) ++ badIf 0x60 (!l.ext && !(l.dev.addrClosed (l.at' 0x60)))) ++
  badIf 0x68 (cont != 0x19 && cont != 0x1B && cont != fmtNone) ++ badIf 0x69 (!(classOk ca) || !(classOk cb)) ++
  badIf 0x6A (2 ≤ l.f 0x6A 1) ++ badIf 0x6B (l.f 0x6B 5 != 0) ++
  (if l.f 0x6A 1 % 2 = 1 ∧ !f.foldOut then l.aligned 0x70 (l.at' 0x70) ++ l.aligned 0x78 (l.at' 0x78) else []) ++
  (if (op ≠ 1 ∧ l.f 0x60 8 = 0) ∨ !l.ext then [] else l.loadWord ca 0x08 0x18 0x20 ha ++ l.loadWord cb 0x10 0x20 0x28 hb ++
    (if op = 2 then l.attention ha hb hv else if op = 3 then l.convolution f ha hb else [])) ++
  (let (m, n, k) := l.shape ha hb hv
   badIf 0x40 (match k with | some k => !(segmentOk f (ceilDiv k 256) k (op == 2)) | none => false) ++
   badIf 0x30 (ho.differs (·.outer) m || ho.differs (·.inner) n) ++
   badIf 0x48 (hp.differs (·.outer) (if f.pre = 1 then some 1 else m) || hp.differs (·.inner) n))

/-! ### Vector commands (R195, R196, R233, R461) -/

def arrayCodeBad (off c : Nat) : Bad := badIf off (c != 0x19 && c != 0x1B)
/-- A plain array: an ACC36 one starts on a 64-byte line (R47). -/
def Look.plain (l : Look) (off a code : Nat) : Bad := if code = 0x19 then l.aligned off a else l.addr off a
def seedBad (off c : Nat) : Bad := badIf off (c == 0 || 7 < c)

/-- QUANTISE and CAST; `host` where the source is host memory. -/
def Look.quantise (l : Look) (code : Nat) (host : Bool) : Bad :=
  let h := l.head (l.at' 0x30)
  (if host then [] else l.plain 0x20 (l.at' 0x20) code) ++ badIf 0x30 h.isBad ++ l.control 0x38 (l.f 0x38 8) 0x30 h ++
  (if (qctl (l.f 0x38 8)).smooth = 0 then [] else l.addr 0x40 (l.at' 0x40))

def Look.rotate (l : Look) : Bad :=
  let c := qctl (l.f 0x38 8)
  let n := l.f 0x44 4
  l.plain 0x20 (l.at' 0x20) (l.f 0x28 1 % 32) ++ arrayCodeBad 0x28 (l.f 0x28 1 % 32) ++ arrayCodeBad 0x29 (l.f 0x29 1 % 32) ++
  l.plain 0x30 (l.at' 0x30) (l.f 0x29 1 % 32) ++ badIf 0x38 (4 < c.rotCode) ++ badIf 0x40 (l.f 0x40 4 == 0) ++
  badIf 0x44 (n == 0 || 2 ^ 31 < n || (c.rotCode != 0 && c.rotCode ≤ 4 && n % rotSize c.rotCode != 0))

/-- An input stream that is bound: its address is open, and its table header usable. -/
def Look.stream (l : Look) (off code : Nat) : Bad :=
  if isSheafFmt code then badIf off (l.head (l.at' off)).isBad else l.plain off (l.at' off) code

def Look.recipe (l : Look) : Bad :=
  let inp := fun i => if l.f (0x28 + 8 * i) 8 = 0 then [] else
    badIf (0x68 + i) (!(isSheafFmt (l.f (0x68 + i) 1)) && !(isArrayFmt (l.f (0x68 + i) 1))) ++ l.stream (0x28 + 8 * i) (l.f (0x68 + i) 1)
  let out := fun i => if i = 1 ∧ l.f 0x50 8 = 0 then [] else
    let c := recipeCode l.e i
    let h := l.head (l.at' (0x48 + 8 * i))
    badIf (0x6C + i) (!(isSheafFmt c) && !(isArrayFmt c)) ++ l.stream (0x48 + 8 * i) c ++
    (if isNarrow c then
      let w := l.f (0x58 + 8 * i) 8
      l.control (0x58 + 8 * i) w (0x48 + 8 * i) h ++ badIf (0x58 + 8 * i) ((qctl w).smooth != 0)
    else [])
  l.aligned 0x20 (l.at' 0x20) ++ [0, 1, 2, 3].flatMap inp ++ [0, 1].flatMap out ++ seedBad 0x6E (l.f 0x6E 1)

def Look.sample (l : Look) : Bad :=
  let code := l.f 0x28 1 % 32
  let c := BitVec.ofNat 32 (l.f 0x3C 4)
  l.plain 0x20 (l.at' 0x20) code ++ arrayCodeBad 0x28 code ++ badIf 0x2C (l.f 0x2C 4 == 0) ++ l.addr 0x30 (l.at' 0x30) ++
  badIf 0x3C (!(f32IsFinite c) || (f32Neg c && !(f32IsZero c))) ++ (if l.f 0x40 8 = 0 then [] else l.aligned 0x40 (l.at' 0x40)) ++
  seedBad 0x48 (l.f 0x48 1)

def Look.rngFill (l : Look) : Bad := l.addr 0x20 (l.at' 0x20) ++ badIf 0x30 (1 < l.f 0x30 1) ++ seedBad 0x31 (l.f 0x31 1)

def Look.dequantise (l : Look) : Bad :=
  badIf 0x20 (l.head (l.at' 0x20)).isBad ++ l.plain 0x28 (l.at' 0x28) (l.f 0x30 1 % 32) ++ arrayCodeBad 0x30 (l.f 0x30 1 % 32)

def Look.digest (l : Look) : Bad := badIf 0x20 (l.head (l.at' 0x20)).isBad ++ l.addr 0x28 (l.at' 0x28)

/-! ### Transfers (R233) -/

def Look.gather (l : Look) (scatter : Bool) : Bad :=
  let hs := l.head (l.at' 0x20)
  let hd := l.head (l.at' 0x28)
  badIf 0x20 hs.isBad ++ badIf 0x28 hd.isBad ++ l.addr 0x30 (l.at' 0x30) ++
  badIf 0x38 ((if scatter then hs else hd).fails fun t => t.count < l.f 0x38 4)

def Look.copy (l : Look) : Bad :=
  let dir := l.f 0x38 1 % 4
  let sheaf := (l.f 0x38 1).testBit 2
  let n := l.f 0x30 8
  let side := fun (off hostDir : Nat) => if dir = hostDir then []
    else if sheaf then badIf off (l.head (l.at' off)).isBad ++ badIf 0x30 ((l.head (l.at' off)).fails fun t => t.count < n)
    else badIf off !(l.dev.open' (l.at' off) (max n 1))
  badIf 0x38 (dir == 3) ++ side 0x20 1 ++ side 0x28 2 ++ badIf 0x30 (!sheaf && n % 64 != 0) ++
  badIf 0x28 (dir == 0 && !sheaf && overlaps (l.at' 0x20, n) (l.at' 0x28, n))

/-! ### Fabric commands (R12, R271, R273, R274, R283 to R285) -/

def Device.fabricUp (d : Device) : Bool := !d.planesUp.isEmpty

/-- The group named by an entry, as it stands. -/
def Look.members (l : Look) : List Nat := groupMembers l.dev.setting (l.f 0x21 1)

/-- A sheaf table that stands in a collective's descriptor, with the count of R274. -/
def Look.collTable (l : Look) (off : Nat) (counted : Bool) : Bad :=
  let h := l.head (l.at' off)
  badIf off (h.isBad || (counted && h.fails fun t => t.outer * t.inner != l.f 0x38 8))

/-- What a member reads its source as and writes its destination as (R273, R277, R278, R282). Only the last member of a reduce has an output (R281), so a destination at another is refused: R273 gives 0 there. DEDUCED (notes/assumptions/43). -/
def Look.collective (l : Look) : Bad :=
  let op := l.f 0x20 1
  let ms := l.members
  let me := l.dev.devNum
  let code := l.f 0x22 1 % 32
  let cont := l.f 0x23 1
  let i := positionIn ms me
  let own := memberContribs (ms.getD i 0)
  let first := i == 0
  let last := i + 1 == ms.length
  let isArr := code == 0x19 || code == 0x1A || code == 0x1B
  let src := fun (_ : Unit) => if isSheafFmt code && !(op == 1 && 1 < own) then l.collTable 0x28 (op ≤ 1)
    else if op == 1 && 1 < own then l.addr 0x28 (l.at' 0x28) else l.plain 0x28 (l.at' 0x28) code
  let dst := fun (_ : Unit) => if l.f 0x30 8 = 0 then [] else
    if op = 1 then (if cont = fmtNone then l.collTable 0x30 true else l.plain 0x30 (l.at' 0x30) cont)
    else if isSheafFmt code then l.collTable 0x30 (op == 0) else l.plain 0x30 (l.at' 0x30) code
  badIf 0x20 (3 < op) ++
  badIf 0x21 (!(ms.any fun e => memberDev e == me) || !(decide (ms.map memberDev).Nodup) || (!l.dev.fabricUp && ms.any fun e => memberDev e != me)) ++
  badIf 0x22 (!(isSheafFmt code) && !isArr && !(code == fmtNone && op != 1)) ++
  badIf 0x23 (op == 1 && !(cont == 0x19 || cont == 0x1A || cont == 0x1B || cont == fmtNone)) ++
  badIf 0x24 (2 ^ 31 ≤ l.f 0x24 4 || l.dev.cmds.any fun c => opcodeOf c.entry == 0x30 && ent c.entry 0x24 4 == l.f 0x24 4) ++
  (if op = 0 ∧ !first then [] else src ()) ++
  (if op = 0 ∧ first then [] else if op = 1 ∧ !last then badIf 0x30 (l.f 0x30 8 != 0) else dst ()) ++
  badIf 0x38 (op ≤ 2 && code == fmtNone && l.f 0x38 8 % 64 != 0) ++
  (if op = 1 ∧ cont = fmtNone then
    l.control 0x40 (l.f 0x40 8) 0x30 (if last && l.f 0x30 8 != 0 then l.head (l.at' 0x30) else .unread) ++
    badIf 0x40 ((qctl (l.f 0x40 8)).smooth != 0 || (qctl (l.f 0x40 8)).rotCode != 0) else []) ++
  (if op = 3 then l.aligned 0x48 (l.at' 0x48) else []) ++ badIf 0x50 (10000000 < l.f 0x50 4) ++ badIf 0x54 (l.f 0x54 12 != 0)

/-- A setting of stream `s` (R284). -/
def Device.streamObj (d : Device) (s sub : Nat) : Nat := d.setting ((0x6200 + s) * 256 + sub)

def Look.stage (l : Look) (send : Bool) : Bad :=
  let s := l.f 0x20 1
  let o := l.dev.streamObj s
  badIf 0x20 (!l.dev.fabricUp || o 1 == 0xFF || o 1 == l.dev.devNum || o 2 != (if send then 1 else 0) ||
    (!send && (o 3 == 0 || o 4 == 0 || o 5 == 0))) ++
  (if send then badIf 0x21 (2 ≤ l.f 0x21 1) ++ badIf 0x22 (l.f 0x22 2 != 0) ++ badIf 0x24 (l.f 0x21 1 % 2 == 0 && l.f 0x24 4 % 64 != 0) ++
    (if l.f 0x21 1 % 2 = 1 then badIf 0x28 (l.head (l.at' 0x28)).isBad ++ badIf 0x24 ((l.head (l.at' 0x28)).fails fun t => t.count < l.f 0x24 4)
      else l.addr 0x28 (l.at' 0x28))
  else badIf 0x21 (l.f 0x21 1 != 0) ++ badIf 0x22 (64 < l.f 0x22 2) ++ badIf 0x24 (l.f 0x24 4 != 0) ++ badIf 0x28 (l.f 0x28 8 != 0)) ++
  badIf 0x30 (10000000 < l.f 0x30 4)

/-! ### Commands without tile operations -/

def Look.event (l : Look) : Bad :=
  badIf 0x20 (4096 ≤ l.f 0x20 2 || (l.f 0x22 1 == 1 && l.dev.eventBusy (l.f 0x20 2))) ++ badIf 0x22 (1 < l.f 0x22 1)

def Look.fence (l : Look) : Bad := badIf 0x20 (1 < l.f 0x20 1)

/-! ### The descriptor's addresses (R203, R242, R298, R300) -/

/-- A command uses physical set `s` (R300). -/
def usesSet (w : Win) (e x : List Byte) (root : Bool) (s : Nat) : Bool := (namedAddrs w e x root).any fun p => w.setOf p.2 == some s

/-- An accepted, uncompleted command uses set `s`. -/
def Device.setInUse (d : Device) (which : Cmd → Bool) (s : Nat) : Bool := d.cmds.any fun c => which c && usesSet (c.win d) c.entry c.ext (c.root d) s

/-- The entry would be its collective's root. -/
def Look.root (l : Look) : Bool := positionIn l.members l.dev.devNum == 0

/-- WEIGHT_SWITCH names the standby set while a command uses it (R301). -/
def Look.switchLocked (l : Look) : Bool :=
  let s := l.f 0x20 1
  s ≤ 1 && s != l.dev.curSet && l.dev.setInUse (fun _ => true) s

def Look.weightSwitch (l : Look) : Bad := badIf 0x20 (1 < l.f 0x20 1 || l.switchLocked)

/-- Offsets at which a command names the new standby set while a command accepted before the switch uses it (R302). -/
def Look.standbyLocked (l : Look) : Bad :=
  let s := 1 - l.dev.curSet
  if l.dev.setInUse (fun c => c.wset != l.dev.curSet) s then
    ((namedAddrs l.win l.e l.x l.root).filter fun p => l.win.setOf p.2 == some s).map (·.1)
  else []

/-! ### All of rule 1 -/

/-- What is wrong with the descriptor of an opcode; an opcode of no row is wrong itself. -/
def Look.descriptor (l : Look) : Bad :=
  match opcodeOf l.e with
  | 0x01 => l.array
  | 0x02 => l.array
  | 0x03 => l.array
  | 0x10 => l.quantise (l.f 0x28 1 % 32) false ++ arrayCodeBad 0x28 (l.f 0x28 1 % 32)
  | 0x11 => l.dequantise
  | 0x12 => l.rotate
  | 0x13 => l.recipe
  | 0x14 => l.sample
  | 0x15 => l.rngFill
  | 0x20 => l.gather false
  | 0x21 => l.gather true
  | 0x22 => l.copy
  | 0x30 => l.collective
  | 0x31 => l.stage true
  | 0x32 => l.stage false
  | 0x40 => l.event
  | 0x41 => l.fence
  | 0x42 => l.digest
  | 0x43 => l.quantise 0x1B ((l.f 0x28 1).testBit 0)
  | 0x44 => l.weightSwitch
  | _ => [0]

def leastOf : Bad → Option Nat
  | [] => none
  | x :: r => some (r.foldl min x)

/-- The detail of an INVALID refusal, and whether a set interlock made it; none where rule 1 passes. -/
def Look.invalid (l : Look) : Option (Nat × Bool) :=
  let a := leastOf (l.header ++ l.descriptor)
  let b := leastOf l.standbyLocked
  match a, b with
  | none, none => none
  | some x, none => some (x, x == 0x20 && opcodeOf l.e == 0x44 && l.switchLocked)
  | none, some y => some (y, true)
  | some x, some y => if y < x then some (y, true) else some (x, false)

end Sys2Proof.Machine
end

