-- ==== Sys2Proof/Machine/Charges.lean ====
section
/-! DEFINITION. What admission charges a command: its tile operations and pieces on the bays, their beats, its memory streams, and its streams that belong to no bay (R134, R137, R138, R141, R155, R161, R189, R222, R244, R246, R287, R288, R459, R460). -/

namespace Sys2Proof.Machine

/-- The bays of an entry's bay set; 0 names every bay in service (R231). -/
def baySet (d : Device) (e : List Byte) : List Nat :=
  let m := ent e 3 1
  (List.range 8).filter fun k => if m = 0 then !(d.bay k).closed else m.testBit k

/-- Bytes that work on bay `bay` moves. -/
structure Traffic where
  bay : Nat
  span : Span
  deriving DecidableEq, Repr

/-- A stream of bytes at an address, and one of the sheaves first to first + n − 1 of a table. -/
def plainSpan (addr bytes : Nat) : Span := ⟨addr, bytes, 0, 0⟩
def sheafSpan (addr first n bytes : Nat) : Span := ⟨addr, bytes, first, n⟩

/-- Share `i` of `n` of a stream; a share of sheaves holds one at least. -/
def Span.share (x : Span) (n i : Nat) : Span :=
  let lo := i * x.n / n
  ⟨x.addr, ceilDiv x.bytes (max 1 n), x.first + min lo (x.n - 1), if x.n = 0 then 0 else max 1 ((i + 1) * x.n / n - lo)⟩

/-- The work a command places, before its promise is formed. `more` is memory traffic of no tile operation, `steps` are the charged beats of chain steps by bay, `wire` the bytes they move through the bay's fabric port, `fallBeats` what one re-executed sheaf costs, `watched` the sheaves of each quantised output, `io` the time of the command's most loaded stream on the I/O ledger. -/
structure Work where
  ops : List TileOp
  steps : List (Nat × Nat)
  wire : List (Nat × Nat)
  more : List Traffic
  fallBeats : Nat
  fallIo : Q
  watched : List Nat
  io : Q
  fabric : Q
  partner : Nat
  deriving DecidableEq, Repr

def Work.none : Work := ⟨[], [], [], [], 0, Q.zero, [], Q.zero, Q.zero, 0⟩

/-- All of a command's memory traffic. -/
def Work.traffic (w : Work) : List Traffic := (w.ops.flatMap fun o => o.spans.map fun x => ⟨o.bay, x⟩) ++ w.more

/-- The format that quantised output `i` is encoded in, of those in descriptor order; its control word's where the list does not give one (R116). -/
def encAt (encs : List Nat) (i target : Nat) : Nat := encs.getD i target

/-- Bytes of a sheaf of a quantised output. -/
def outSheaf (fmt : Nat) (gutter : Bool) : Nat := sheafSize fmt (gutter && isNarrow fmt)

def heldOpOf (kind : OpKind) (bay charge : Nat) : TileOp := ⟨kind, bay, 0, 0, 0, 0, 0, 0, charge, .held, 0, none, false, []⟩

/-- Operations placed on the bays round-robin in index order (R244). -/
def placeOps (bays : List Nat) (os : List TileOp) : List TileOp :=
  if bays.isEmpty then [] else os.zipIdx.map fun (o, i) => { o with bay := bays.getD (i % bays.length) 0 }

/-- Bytes of a sheaf of a format, without a gutter. -/
def sheafBytesOf (fmt : Nat) : Nat := sheafSize fmt false

/-! ### Array operations (R134, R137, R138, R141, R459) -/

/-- Row blocks of an output: first row, rows, shape (R137). -/
def rowCuts (n : Nat) : List (Nat × Nat × Nat) :=
  (List.range (ceilDiv n 16)).map fun i =>
    let r := min 16 (n - 16 * i)
    (16 * i, r, if 8 < r then 16 else if 5 ≤ r then 8 else if 2 ≤ r then 4 else 1)

def colCuts (n : Nat) : List (Nat × Nat × Nat) :=
  (List.range (ceilDiv n 64)).map fun i =>
    let r := min 64 (n - 64 * i)
    (64 * i, r, if 32 < r then 64 else if 16 < r then 32 else 16)

/-- Drain beats of a shape whose sheaves are encoded in `fmt` (R141). The 3 beats of the fused row reductions are scaled and rounded up with the drain they are added to; the table gives them per M16×N64 operation. DEDUCED (notes/assumptions/7). -/
def drainBeats (a : ArrayCmd) (fmt m n : Nat) : Nat :=
  let base := if a.fold.foldOut then 16 * foldStride a.fold.tree a.isAtt
    else if a.container = 0x19 then 80
    else if a.container = 0x1B ∨ fmt = 0x18 then 64 else 16
  ceilDiv ((base + if a.fused ∧ !a.fold.foldOut then 3 else 0) * m * n) 1024

/-- Bytes of `n` 32-element blocks of a width class: codes and headers; class 8 counts as FP32 sheaves, which the operand-load quantiser takes at 16 values, 64 bytes, a beat (R138). -/
def classBytes (cls n : Nat) : Nat := if cls = 8 then 128 * n else n * (4 * cls + 2)

/-- Scratchpad accesses by which the tile runtime writes an operation's homes in the work region: 80 lines a push, at the courses with no entry to merge with (R165 to R167). Entry `p` of the result counts the pushes to stack position `p`. -/
def homePushes (a : ArrayCmd) (p : Nat) : Nat :=
  if a.fold.tree then
    (List.range a.courses).countP fun i => let c := a.fold.c0 + i; c % 2 == 0 && bitsSet 25 c == p + 1
  else 0

/-- The beats those accesses are charged: 17 port beats each, two to a beat (R155). -/
def homeBeats (a : ArrayCmd) : Nat :=
  let dep := homeDepth a.fold.c0 a.courses
  let n := (if 3 ≤ dep then homePushes a (dep - 3) else 0) + (if 2 ≤ dep then homePushes a (dep - 2) else 0)
  80 * 17 * n / 2

/-- The bytes of the homes in the bay's stack, written once a push and read once a pop (R165). -/
def homeTraffic (a : ArrayCmd) : Nat :=
  2 * 5120 * ((List.range (homeDepth a.fold.c0 a.courses - 3)).map (homePushes a)).sum

/-- The blocks of the head dimension or of the reduction that one row of A holds for the operation. -/
def ArrayCmd.rowBlocks (a : ArrayCmd) : Nat := if a.isAtt then a.a.tab.blocks else a.blocks

/-- Bytes the operation loads: of A, of B, of the values. -/
def ArrayCmd.loads (a : ArrayCmd) (rows cols : Nat) : Nat × Nat × Nat :=
  if a.isAtt then
    (rows * classBytes a.a.cls a.a.tab.blocks, a.b.tab.outer * classBytes a.b.cls a.b.tab.blocks, a.b.tab.outer * classBytes a.v.cls (ceilDiv cols 32))
  else (rows * classBytes a.a.cls a.blocks, cols * classBytes a.b.cls a.blocks, 0)

/-- The charge of one array operation of shape m × n over `rows` × `cols` outputs, encoded in `fmt`. One command's operations are never members of one group: those of a row block occupy four arrays each, but for the last, so no activation byte is shared (R136, R137, R459). -/
def arrayCharge (a : ArrayCmd) (fmt m n rows cols : Nat) : Nat :=
  let l := a.loads rows cols
  if a.isAtt then
    let course := 32 * a.a.tab.blocks * beats4 a.a.cls a.b.cls m 64 + 16 * m + 16 +
      64 * beats4 (widthClass a.att.pfmt false) a.v.cls m n + 32
    ceilDiv l.1 64 + 32 + drainBeats a fmt m n + a.courses * course + ceilDiv (l.2.1 + l.2.2) 64 + homeBeats a
  else
    ceilDiv (rows * classBytes a.a.cls (min 8 a.blocks) + cols * classBytes a.b.cls (min 8 a.blocks)) 64 +
      8 * a.blocks * beats4 a.a.cls a.b.cls m n + drainBeats a fmt m n + homeBeats a

/-- Bytes of one element of a preload (R87). -/
def preloadBytes (f : FoldCtl) (n : Nat) : Nat :=
  if isSheafFmt f.preFmt then ceilDiv (n * sheafBytesOf f.preFmt) 4096 else n * arrayStride f.preFmt

/-- The streams of one array operation: operands, what they are loaded and quantised with, what the reduction starts from, and its outputs (R246). -/
def ArrayCmd.streams (a : ArrayCmd) (fmt : Nat) (o : TileOp) : List Span :=
  let l := a.loads o.rows o.cols
  let n := o.rows * o.cols
  let on := plainSpan
  let when' := fun (c : Bool) (t : Span) => if c then [t] else []
  let smooth := fun (x : Operand) (chans : Nat) => when' (x.cls == 8 && x.lctl.smooth != 0) (on x.smooth (4 * 32 * x.tab.blocks * chans))
  let q := qctl a.outCtl
  let sheafOut := !a.fold.foldOut && a.container == fmtNone
  let chans := fun (addr blocks c0 c : Nat) (bytes : Nat) => sheafSpan addr (c0 * blocks / 128) (((c0 + c) * blocks - 1) / 128 + 1 - c0 * blocks / 128) bytes
  let whole := fun (x : Operand) (bytes : Nat) => sheafSpan x.tab.addr 0 x.tab.count bytes
  [if a.op = 3 then whole a.a l.1 else chans a.a.tab.addr a.a.tab.blocks o.row0 o.rows l.1,
   if a.isAtt then whole a.b l.2.1 else chans a.b.tab.addr a.b.tab.blocks o.col0 o.cols l.2.1] ++ when' a.isAtt (whole a.v l.2.2) ++
  smooth a.a o.rows ++ smooth a.b o.cols ++ (if a.isAtt then smooth a.v a.v.tab.outer else []) ++
  when' (a.fold.pre != 0) (on a.pre (preloadBytes a.fold (if a.fold.pre = 1 then o.cols else n))) ++
  when' a.fold.foldIn (on a.foldIn (n * foldStride a.fold.tree a.isAtt)) ++
  when' (a.isAtt && a.att.mask == 2) (on a.att.maskAddr (o.rows * a.b.tab.outer)) ++
  when' (sheafOut && q.smooth != 0) (on a.smooth (4 * o.cols)) ++
  [if a.fold.foldOut then on a.foldOut (n * foldStride a.fold.tree a.isAtt)
   else if sheafOut then chans a.out (ceilDiv a.cols 32) o.row0 o.rows (ceilDiv (n * outSheaf fmt q.gutter) 4096)
   else on a.out (n * arrayStride a.container)] ++
  (if a.fused && !a.fold.foldOut then [on a.rowMax (5 * o.rows), on a.rowSum (5 * o.rows)] else []) ++
  when' (homeTraffic a != 0) (on (0x1000000000 * o.bay) (homeTraffic a))

/-- The operations of an array command, with what they move. -/
def arrayWork (a : ArrayCmd) (fmt : Nat) (bays : List Nat) (outRows outCols : Nat) : List TileOp :=
  let blocks := (rowCuts outRows).flatMap fun r => (colCuts outCols).map fun c => (r, c)
  let ops := placeOps bays (blocks.map fun (r, c) =>
    { heldOpOf .array 0 (arrayCharge a fmt r.2.2 c.2.2 r.2.1 c.2.1) with
      shapeM := r.2.2, shapeN := c.2.2, row0 := r.1, col0 := c.1, rows := r.2.1, cols := c.2.1 })
  ops.map fun o => { o with spans := a.streams fmt o }

/-! ### Pieces of vector and transfer work (R161, R459) -/

/-- A piece's longest charge. -/
def pieceMax : Nat := 16384

/-- The charges of the pieces of `total` beats, each with `extra` beats of its own. -/
def pieceCharges (total extra : Nat) : List Nat :=
  let n := max 1 (ceilDiv total (pieceMax - extra))
  (List.range n).map fun i => total / n + (if i < total % n then 1 else 0) + extra

def pieces (kind : OpKind) (bays : List Nat) (total extra : Nat) : List TileOp :=
  placeOps bays ((pieceCharges total extra).map (heldOpOf kind 0))

/-- Pieces with their equal shares of a command's streams. -/
def withSpans (ops : List TileOp) (xs : List Span) : List TileOp :=
  ops.zipIdx.map fun (o, i) => { o with spans := xs.map fun x => x.share ops.length i }

/-- Beats of rotation of size n, of no rotation, per 4,096 values. -/
def rotBeats (code : Nat) : Nat := if code = 0 then 0 else 64 * (rotSize code).log2

/-- Bytes of `n` sheaves of unknown form. -/
def sheafBytes (n : Nat) : Nat := 16448 * n

/-- A recipe's pieces: whole rows together, or one row of many pieces (R161, R187, R189). -/
def recipePieces (rows beats : Nat) : List TileOp :=
  let per := max 1 (pieceMax / max 1 beats)
  (List.range (ceilDiv rows per)).map fun i =>
    let n := min per (rows - per * i)
    { heldOpOf .vector 0 (n * beats + 33 * ((beats - 1) / pieceMax)) with row0 := per * i, rows := n }

/-! ### Chain steps (R274, R287, R288, R459) -/

def stepBytes : Nat := 65536
/-- The charged time of one step hop, 728.18 ns (R287). -/
def hopTime : Q := Q.frac 72818 100
/-- The charged time of `n` payload bytes at a fabric port, in one direction (R287). -/
def wireTime (n : Nat) : Q := Q.frac n 90

/-- Steps of `n` bytes. -/
def stepsOf (n : Nat) : Nat := ceilDiv n stepBytes

/-- `n` units taken `per` at a time: the units of each step. -/
def stepUnits (n per : Nat) : List Nat := (List.range (ceilDiv n per)).map fun j => min per (n - per * j)

/-- The bytes of the steps of a payload of `n` units under an operand code: sheaves by the code's size, elements or bytes. -/
def payloadSteps (code n : Nat) : List Nat :=
  if isSheafFmt code then
    let s := sheafSize code (code != 0x18)
    (stepUnits n (stepBytes / s)).map (s * ·)
  else stepUnits (if code = fmtNone then n else n * arrayStride code) stepBytes

/-- Steps placed on the planes in turn: the plane, and what stands for the step (R275). -/
def onPlanes {α : Type} (planes : List Nat) (xs : List α) : List (Nat × α) :=
  if planes.isEmpty then [] else xs.zipIdx.map fun (x, j) => (planes.getD (j % planes.length) 0, x)

/-- The fabric time of S steps over the planes with h hops (R288). -/
def fabricTime (planes s h : Nat) : Q := if planes = 0 then Q.zero else hopTime.mul (Q.ofNat (ceilDiv s planes + h))

/-! ### The work of a command -/

/-- Elements or sheaves a collective's payload counts: the table's sheaves where the operand is one. -/
def Look.collUnits (l : Look) (off : Nat) : Nat :=
  if isSheafFmt (l.f 0x22 1 % 32) then (match l.head (l.at' off) with | .ok t => t.count | _ => ceilDiv (l.f 0x38 8) 4096) else l.f 0x38 8

/-- Bytes of `e` elements of one contribution as a member reads them. -/
def contribBytes (code e : Nat) : Nat := if isSheafFmt code then ceilDiv (16448 * e) 4096 else e * arrayStride code

/-- A chain step of a member as admission counts it: bytes it moves through the port, beats, bytes it reads and bytes it writes in device memory. -/
structure StepCharge where
  wire : Nat
  beats : Nat
  reads : Nat
  writes : Nat
  deriving DecidableEq, Repr

/-- The steps of a collective, each in the bay of the plane it leaves on (R275, R288, R459); a reducing one's sheaves re-execute in 256 beats each (R111; notes/assumptions/7). DEDUCED. -/
def Look.collWork (l : Look) (bays : List Nat) : Work :=
  let op := l.f 0x20 1
  let code := l.f 0x22 1 % 32
  let ms := l.members
  let i := positionIn ms l.dev.devNum
  let alone := ms.length ≤ 1
  let up := l.dev.commandPlanes l.e
  let planes := if alone then (match bays with | b :: _ => [b] | [] => []) else up
  let own := memberContribs (ms.getD i 0)
  let first := i == 0
  let last := i + 1 == ms.length
  let src := l.at' 0x28
  let dst := l.at' 0x30
  let hasDst := l.f 0x30 8 != 0
  let partner := if alone then 0 else if l.f 0x50 4 = 0 then l.dev.setting 0x600007 else l.f 0x50 4
  let form := fun (st : List StepCharge) (h : Nat) =>
    let on := onPlanes planes st
    { Work.none with
        steps := on.map (fun (k, x) => (k, x.beats)), wire := if alone then [] else on.map (fun (k, x) => (k, x.wire)),
        more := on.flatMap (fun (k, x) => (if x.reads = 0 then [] else [⟨k, plainSpan src x.reads⟩]) ++
          (if x.writes = 0 then [] else [⟨k, plainSpan dst x.writes⟩])),
        fabric := if alone then Q.zero else fabricTime up.length st.length h, partner := partner }
  if op = 1 then
    let cont := l.f 0x23 1
    let st := (stepUnits (l.f 0x38 8) 16384).map fun e =>
      let got := if first then 0 else 4 * e
      let out := if last then (if cont = fmtNone then 4 * e else e * arrayStride cont) else if first && own == 1 then contribBytes code e else 4 * e
      { wire := max got (if last then 0 else out), beats := ceilDiv got 64 + 256 * own + ceilDiv out 64, reads := own * contribBytes code e,
        writes := if last && hasDst then out else 0 : StepCharge }
    let w := form st i
    if last && cont == fmtNone && hasDst then
      { w with fallBeats := 256, watched := match l.head dst with | .ok t => [t.count] | _ => [0] }
    else w
  else if op = 0 then
    form ((payloadSteps code (if first then l.collUnits 0x28 else if hasDst then l.collUnits 0x30 else ceilDiv (l.f 0x38 8) (if isSheafFmt code then 4096 else 1))).map fun b =>
      { wire := b, beats := ceilDiv (if first then 0 else b) 64 + ceilDiv b 64, reads := if first then b else 0,
        writes := if first || !hasDst then 0 else b }) i
  else
    let sizes := if op = 2 then List.replicate ms.length (l.f 0x38 8)
      else (List.range ms.length).map fun j => l.dev.mem.nat (l.at' 0x48 + 4 * (64 * i + j)) 4
    form ((sizes.flatMap (payloadSteps code)).map fun b => { wire := b, beats := 2 * ceilDiv b 64, reads := b, writes := if hasDst then b else 0 })
      (if alone then 0 else 1)

/-- A stage message passes one port, that of the plane its number selects among those in service, and the bay of that port reads or writes it (R275, R287, R288). The spec gives the fabric time of a collective only; that of a message counts its steps on its one plane and one hop (notes/assumptions/7). DEDUCED. -/
def Look.stageWork (l : Look) (send : Bool) : Work :=
  let up := l.dev.commandPlanes l.e
  let s := l.f 0x20 1
  let x := l.dev.streams.get Stream.fresh s
  let bytes := if send then (if l.f 0x21 1 % 2 = 1 then sheafBytes (l.f 0x24 4) else l.f 0x24 4) else l.dev.streamObj s 4
  let k := up.getD ((if send then x.nextSend else x.claimed) % max 1 up.length) 0
  { Work.none with steps := [(k, 0)], wire := [(k, bytes)], fabric := fabricTime 1 (stepsOf bytes) 1,
                   more := [⟨k, plainSpan (if send then l.at' 0x28 else l.dev.streamObj s 3) bytes⟩],
                   partner := if l.f 0x30 4 = 0 then l.dev.setting 0x600007 else l.f 0x30 4 }

def Look.arrayWork (l : Look) (encs bays : List Nat) : Work :=
  match arrayCmd l.dev l.win l.e l.x with
  | .error _ => Work.none
  | .ok a =>
    let w := Machine.arrayWork a (encAt encs 0 (qctl a.outCtl).target) bays a.rows a.cols
    { Work.none with ops := w, fallBeats := ceilDiv (4096 * 32 * a.blocks) 512,
                     watched := if a.container = fmtNone ∧ !a.fold.foldOut then [sheafCount a.rows a.cols] else [] }

/-- The time of `b` bytes of sheaf data at 100 GB/s on a far-tier port. Admission does not read table entries (R457), so what a command may move to or from the far tier is charged whole wherever a port is in service (R222; notes/assumptions/7). DEDUCED. -/
def Look.farTime (l : Look) (b : Nat) : Q := if l.dev.farState.toList.any (· == 1) then Q.frac b 100 else Q.zero

/-- What a command charges; the re-execution time of a sheaf that a RECIPE's quantise step or a reducing COLLECTIVE writes, which R111 does not price, is that of QUANTISE, 256 beats (notes/assumptions/7, DEDUCED). `encs` are the formats its quantised outputs are encoded in, in descriptor order. -/
def Look.work (l : Look) (encs bays : List Nat) : Work :=
  let op := opcodeOf l.e
  let tab := fun (off : Nat) => match l.head (l.at' off) with | .ok t => (t.outer * t.inner, t.count, sheafCount t.outer t.inner) | _ => (0, 0, 0)
  let inner := fun (off : Nat) => match l.head (l.at' off) with | .ok t => t.inner | _ => 0
  let q := qctl (l.f 0x38 8)
  let smoothing := fun (n : Nat) => if q.smooth = 0 then [] else [plainSpan (l.at' 0x40) (4 * inner 0x30 * n)]
  let mk := fun (os : List TileOp) (xs : List Span) => { Work.none with ops := withSpans os xs }
  let at' := fun (off bytes : Nat) => plainSpan (l.at' off) bytes
  let sheaves := fun (off n bytes : Nat) => sheafSpan (l.at' off) 0 n bytes
  if isArrayOp op then l.arrayWork encs bays
  else if op = 0x10 then
    let (n, s, _) := tab 0x30
    let ib := n * arrayStride (l.f 0x28 1 % 32)
    let ob := s * outSheaf (encAt encs 0 q.target) q.gutter
    let u := ceilDiv n 4096
    let os := pieces .vector bays (ceilDiv ib 64 + ceilDiv ob 64 + u * (64 + (if q.smooth = 0 then 0 else 64) + rotBeats q.rotCode)) 0
    { mk os ([at' 0x20 ib, sheaves 0x30 s ob] ++ smoothing os.length) with fallBeats := 256, watched := [s] }
  else if op = 0x11 then
    let (n, s, _) := tab 0x20
    let ob := n * arrayStride (l.f 0x30 1 % 32)
    let os := pieces .vector bays (ceilDiv (sheafBytes s) 64 + ceilDiv ob 64 + 64 * ceilDiv n 4096) 0
    mk os [sheaves 0x20 s (sheafBytes s), at' 0x28 ob]
  else if op = 0x12 then
    let n := l.f 0x40 4 * l.f 0x44 4
    let ib := n * arrayStride (l.f 0x28 1 % 32)
    let ob := n * arrayStride (l.f 0x29 1 % 32)
    let os := pieces .vector bays (ceilDiv ib 64 + ceilDiv ob 64 + ceilDiv n 4096 * (if q.rotCode = 0 then 64 else rotBeats q.rotCode)) 0
    mk os [at' 0x20 ib, at' 0x30 ob]
  else if op = 0x13 then
    match readRecipe l.dev (l.at' 0x20) (recipeCode l.e) with
    | .error _ => mk (placeOps bays [heldOpOf .vector 0 0]) []
    | .ok r =>
      let os := placeOps bays (recipePieces (l.f 0x74 4) (r.rowBeats l.e))
      let rows := l.f 0x74 4
      let flow := fun (off code : Nat) =>
        if isSheafFmt code then sheaves off (tab off).2.1 (ceilDiv (sheafBytes r.len * rows) 4096) else at' off (r.len * arrayStride code * rows)
      let ins := (List.range r.inputs).map fun i => flow (0x28 + 8 * i) (l.f (0x68 + i) 1)
      let outs := (List.range r.outputs).map fun i => flow (0x48 + 8 * i) (recipeCode l.e i)
      let cnt : Nat → List Nat := fun i => if isNarrow (recipeCode l.e i) ∧ (i = 0 ∨ l.f 0x50 8 ≠ 0) then [(tab (0x48 + 8 * i)).2.1] else []
      { mk os (ins ++ outs) with fallBeats := 256, watched := cnt 0 ++ cnt 1 }
  else if op = 0x14 then
    let v := l.f 0x2C 4
    let rows := l.f 0x38 4
    let st := arrayStride (l.f 0x28 1 % 32)
    let os := pieces .vector bays (rows * (ceilDiv (v * st) 64 + 16 * ceilDiv v 64 + 10)) 0
    mk os ([at' 0x20 (rows * v * st), at' 0x30 (4 * rows)] ++ (if l.f 0x40 8 = 0 then [] else [at' 0x40 (5 * rows * ceilDiv v 64)]))
  else if op = 0x15 then
    let os := pieces .vector bays (5 * ceilDiv (l.f 0x28 8) 64) 4
    mk os [at' 0x20 (4 * l.f 0x28 8)]
  else if op = 0x20 ∨ op = 0x21 then
    let b := sheafBytes (l.f 0x38 4)
    let os := pieces .transfer bays (ceilDiv b 64) 0
    { mk os [sheaves 0x20 (tab 0x20).2.1 b, sheaves 0x28 (tab 0x28).2.1 b, at' 0x30 (4 * l.f 0x38 4)] with io := l.farTime b }
  else if op = 0x22 then
    let dir := l.f 0x38 1 % 4
    let sheaf := (l.f 0x38 1).testBit 2
    let b := if sheaf then sheafBytes (l.f 0x30 8) else l.f 0x30 8
    let os := pieces .transfer bays (ceilDiv b 64) 0
    let side := fun (off : Nat) => if sheaf then sheaves off (l.f 0x30 8) b else at' off b
    { mk os ((if dir = 1 then [] else [side 0x20]) ++ (if dir = 2 then [] else [side 0x28])) with
      io := if dir = 0 then (if sheaf then l.farTime b else Q.zero) else Q.frac b 100 }
  else if op = 0x42 then
    let (_, s, _) := tab 0x20
    let os := pieces .vector bays (257 * s) 64
    mk os [sheaves 0x20 s (sheafBytes s), at' 0x28 8]
  else if op = 0x43 then
    let (n, s, _) := tab 0x30
    let ob := s * outSheaf (encAt encs 0 q.target) q.gutter
    let host := (l.f 0x28 1).testBit 0
    { Work.none with more := bays.map (fun k => ⟨k, plainSpan (0x1000000000 * k) ob⟩), watched := [s], fallIo := Q.frac 16384 48,
                     io := (Q.frac (4 * n) 48).max (if host then Q.frac (4 * n) 100 else Q.zero) }
  else if op = 0x30 then l.collWork bays
  else if op = 0x31 then l.stageWork true
  else if op = 0x32 then l.stageWork false
  else Work.none

/-! ### Charges by bay (R244, R246) -/

/-- The stream of an access from bay `k` at an address, which is the one in the descriptor or the extension block: admission reads no table entries (R457; notes/assumptions/7). It comes with its rate in bytes per nanosecond: own stack, own die buffer, or the target bay's inbound rate. -/
def Device.streamOf (d : Device) (k addr : Nat) : Nat × Q :=
  match d.region addr with
  | some (.hbm j _) => if j = k then (0, Q.ofNat 1800) else (2 + j, Q.ofNat (d.setting (0x501001 + j)))
  | some (.die j _) => if j = k then (1, (Q.ofNat 1024).mul d.floorQ) else (2 + j, Q.ofNat (d.setting (0x501001 + j)))
  | _ => (0, Q.ofNat 1800)

/-- The time of the most loaded stream that the accesses place on bay `k`. -/
def Device.streamTime (d : Device) (tr : List Traffic) (k : Nat) : Q :=
  let mine := (tr.filter fun t => t.bay == k).map fun t => (d.streamOf k t.span.addr, t.span.bytes)
  (List.range 10).foldl (fun (m : Q) s =>
    let xs := mine.filter fun p => p.1.1 == s
    match xs with
    | [] => m
    | p :: _ => m.max ((Q.ofNat (xs.map (·.2)).sum).div p.1.2)) Q.zero

/-- What a command's work charges bay `k`, with an allowance of `a` sheaves. -/
def Device.chargeOn (d : Device) (w : Work) (a k : Nat) : Charge :=
  let os := w.ops.filter fun o => o.bay == k
  let st := w.steps.filter fun p => p.1 == k
  let cs := os.map (·.charge) ++ st.map (·.2)
  { tile := cs.sum, fall := if cs.isEmpty then 0 else a * w.fallBeats, crit := cs.foldl max 0, mem := d.streamTime w.traffic k,
    port := wireTime ((w.wire.filter fun p => p.1 == k).map (·.2)).sum, ops := cs.length }

end Sys2Proof.Machine
end

