-- ==== Sys2Proof/Machine/Admission.lean ====
section
/-! DEFINITION. Admission (R229, R242 to R247, R301, R302): the promise, the acceptance record, and the 24 rows that admit one opcode each. -/

namespace Sys2Proof.Machine

/-! ### Urgent buckets (R247) -/

/-- The urgent reserve of bay `k` as a share (R245). -/
def Device.reserve (d : Device) (k : Nat) : Q := Q.frac (d.setting (0x701001 + k)) 100
/-- The urgent window in nanoseconds. -/
def Device.windowNs (d : Device) : Nat := 1000 * d.setting 0x701101

def Device.bucketRate (d : Device) (k : Nat) : Q := ((d.reserve k).mul (Q.ofNat (d.tilesInService k))).mul d.floorQ
def Device.bucketDepth (d : Device) (k : Nat) : Q := (d.bucketRate k).mul (Q.ofNat d.windowNs)
/-- The bucket's level now. -/
def Device.bucketNow (d : Device) (k : Nat) : Q :=
  let b := d.bay k
  (b.bucket.add ((d.bucketRate k).mul (Q.ofNat (d.now - b.bucketAt)))).min (d.bucketDepth k)

/-- Every bucket takes its level now, before the rate it fills at changes. -/
def Device.settleBuckets (d : Device) : Device :=
  (List.range 8).foldl (fun d k => d.modBay k fun b => { b with bucket := d.bucketNow k, bucketAt := d.now }) d

/-! ### The promise (R244, R247, R288, R460) -/

/-- A bay in reset adds its remaining reset time (R349). -/
def Device.resetLeft (d : Device) (k : Nat) : Q :=
  if (d.bay k).state == .reset then Q.ofNat (min 2000000 ((d.bay k).resetEnd - d.now)) else Q.zero

/-- A quotient that is 0 for an empty charge. -/
def timeFor (n : Nat) (r : Q) : Q := if n = 0 then Q.zero else (Q.ofNat n).div r

/-- What the promise of one command is formed from. -/
structure Quote where
  urgent : Bool
  budget : Nat
  hop : Q
  dep : Q
  bays : List Nat
  charges : List Charge
  io : Q
  fabric : Q
  partner : Nat

/-- The end of the command's work on bay `k`, bulk and timed (R244). The fabric time of R288 is its own term: like the tiles', a port's reserve lengthens the wait for earlier work and not the command's own term, as the worked example after R292 has it. DEDUCED (notes/assumptions/7). -/
def Device.endOn (d : Device) (x : Quote) (k : Nat) : Q :=
  let b := d.bay k
  let g := x.charges.getD k Charge.none
  let p := d.floorQ
  let rm := Q.one.sub (d.reserve k)
  let rt := ((Q.ofNat (d.tilesInService k)).mul p).mul rm
  let wait := ((timeFor b.tileBacklog rt).max (b.memBacklog.div rm)).add (d.resetLeft k)
  let n := max 1 (min x.budget g.ops)
  let exec := (((timeFor (g.tile + g.fall) ((Q.ofNat n).mul p)).max (timeFor g.crit p)).max (g.mem.div rm)).max x.fabric
  (((Q.ofNat d.now).add wait).max x.dep).add exec

/-- The same for the urgent class (R247); its work is counted from now. -/
def Device.urgentEndOn (d : Device) (x : Quote) (k : Nat) : Q :=
  let b := d.bay k
  let g := x.charges.getD k Charge.none
  let p := d.floorQ
  let short := (Q.ofNat g.tile).sub (d.bucketNow k)
  let twait := if short.isNeg || (d.bucketRate k).isZero then Q.zero else short.div (d.bucketRate k)
  let uwait := (timeFor b.urgentBacklog ((Q.ofNat (d.tilesInService k)).mul p)).add (d.resetLeft k)
  let n := max 1 (min x.budget g.ops)
  let exec := (((timeFor g.tile ((Q.ofNat n).mul p)).max (timeFor g.crit p)).max g.mem).max x.fabric
  (((((Q.ofNat d.now).add uwait).add twait).add (Q.ofNat 720)).add x.hop).add exec

/-- The I/O ledger's term of the loop (R460): no reserve and no tile term. -/
def Device.ioEndOn (d : Device) (x : Quote) : Q :=
  let wait := (Q.ofNat d.now).add d.ioBacklog
  if x.urgent then ((wait.add (Q.ofNat 720)).add x.hop).add x.io else (wait.max x.dep).add x.io

/-- The largest reserve of the bays of the set. -/
def Device.reserveMax (d : Device) (ks : List Nat) : Q := ks.foldl (fun m k => m.max (d.reserve k)) Q.zero

/-- The promise, rounded up to a nanosecond. No term ends before what the command depends on (R238, R240). -/
def Device.promiseOf (d : Device) (x : Quote) : Nat :=
  let e0 := (Q.ofNat d.now).max x.dep
  let e1 := x.bays.foldl (fun m k => m.max (if x.urgent then d.urgentEndOn x k else d.endOn x k)) e0
  let e2 := e1.max (d.ioEndOn x)
  let fixed := if x.urgent then Q.ofNat 41000 else (Q.ofNat 42000).add ((d.reserveMax x.bays).mul (Q.ofNat d.windowNs))
  nsOf ((e2.add fixed).add (Q.ofNat x.partner))

/-! ### Records and refusals (R242, R243) -/

/-- The version tag of the set current now. -/
def Device.weightVersion (d : Device) : Nat := if d.curSet = 0 then d.verA else d.verB

/-- The fields of R243 after the type byte. -/
def acceptanceBytes (d : Device) (f : Fetched) (status tag detail promise : Nat) : List Byte :=
  leBytes 1 status ++ leBytes 2 f.slot ++ leBytes 2 tag ++ leBytes 2 detail ++ leBytes 8 (ent f.entry 0x10 8) ++ leBytes 8 promise ++
  leBytes 8 d.now ++ leBytes 4 d.pace.published ++ leBytes 4 (d.stepCounter.toNat % 2 ^ 32) ++ leBytes 2 d.weightVersion ++ leBytes 1 d.curSet

/-- Writes an acceptance record, with its interrupt where the entry asks for one (R228, R231). -/
def Device.acceptanceRecord (d : Device) (f : Fetched) (status tag detail promise : Nat) : Device :=
  let d1 := d.putRecord f.q.val 1 (acceptanceBytes d f status tag detail promise)
  if (ent f.entry 1 1).testBit 3 then d1.raise (d1.setting ((0x7100 + f.q.val) * 256 + 6)) else d1

/-- A refusal: its record, its count, and the second completion-queue slot freed (R242). -/
def Device.refuse (d : Device) (f : Fetched) (status detail promise : Nat) : Device :=
  ((d.acceptanceRecord f status 0xFFFF detail promise).modQueue f.q.val fun p => { p with reserved := p.reserved - 1 }).count 0x807002 1

/-! ### Acceptance -/

/-- Opens the ledger entries of the outputs' layer keys (R115, R117). -/
def openLedgers (d : Device) (step : Nat) : List Nat → Device × List LedgerUse
  | [] => (d, [])
  | k :: r =>
    let t := ledgerOpen d k step
    let u := openLedgers t.1 step r
    (u.1, t.2 :: u.2)

/-- The FENCEs accepted before in whose scope a pair's next command lies (R240). -/
def Device.fencesFor (d : Device) (q : Nat) : List Cmd :=
  d.cmds.filter fun c => opcodeOf c.entry == 0x41 &&
    (ent c.entry 0x20 1 == 1 || (match c.qp with | some p => p.val == q | none => false))

/-- The commands a FENCE waits for (R240). -/
def Device.fenceScope (d : Device) (q scope : Nat) : List Cmd :=
  d.cmds.filter fun c => scope == 1 || (match c.qp with | some p => p.val == q | none => false)

/-- The command as accepted, but for its charges and its promise. -/
def Device.newCmd (d : Device) (f : Fetched) (x : List Byte) (tag : Nat) : Cmd :=
  { tag := tag, qp := some f.q, slot := f.slot, entry := f.entry, ext := x, settings := d.dict.vals, step := d.stepCounter, wset := d.curSet,
    wver := d.weightVersion, acceptAt := d.now, promise := 0, floor := d.pace.published, order := d.orderNext, urgent := isUrgent f.entry,
    fences := (d.fencesFor f.q.val).map (·.tag),
    waitsFor := if opcodeOf f.entry = 0x41 then (d.fenceScope f.q.val (ent f.entry 0x20 1)).map (·.tag) else [],
    charges := [], io := Q.zero, ops := [], ledger := [], flags := 0, outs := [], lowest := 0xFFFFFFFF, loadSat := 0, loadFlush := 0,
    trips := [], wide0 := [], wide1 := [], late := [], done := false, failure := none, overdue := false, overdueAt := 0, progressAt := d.now,
    interruptions := 0, coll := none, message := 0 }

/-- The promise a command depends on: its wait, its fences, and for a FENCE the commands it waits for (R238, R240). -/
def Device.dependsOn (d : Device) (c : Cmd) : Nat :=
  let ev := ent c.entry 6 2
  let w := if ev = 0xFFFF then 0 else (d.waitPromise ev (ent c.entry 8 4)).getD 0
  (d.cmds.filter fun x => c.fences.contains x.tag || c.waitsFor.contains x.tag).foldl (fun m x => max m x.promise) (max w d.now)

/-- A command's charges enter the ledgers (R244, R247, R460). -/
def Device.charge (d : Device) (c : Cmd) : Device :=
  let d1 := c.charges.zipIdx.foldl (fun (d : Device) (g, k) =>
    if c.urgent then
      if g.tile = 0 then d
      else d.modBay k fun b => { b with bucket := (d.bucketNow k).sub (Q.ofNat g.tile), bucketAt := d.now, urgentBacklog := b.urgentBacklog + g.tile }
    else d.modBay k fun b => { b with tileBacklog := b.tileBacklog + g.tile + g.fall, memBacklog := b.memBacklog.add g.booked }) d
  { d1 with ioBacklog := d1.ioBacklog.add c.io }

/-- What WEIGHT_SWITCH and FENCE change at their acceptance (R236, R240, R301). -/
def Device.acceptEffect (d : Device) (e : List Byte) : Device :=
  if opcodeOf e = 0x44 then
    let s := ent e 0x20 1
    let d1 := if s = 0 then { d with curSet := 0, verA := ent e 0x22 2 } else { d with curSet := 1, verB := ent e 0x22 2 }
    d1.count 0x808001 1
  else if opcodeOf e = 0x41 ∧ (ent e 0x21 1).testBit 0 then { d with stepCounter := BitVec.ofNat 64 (ent e 0x28 8) }
  else d

/-- The number of a stage stream's next message, taken by a STAGE_SEND in acceptance order (R286). -/
def Device.takeMessage (d : Device) (c : Cmd) : Device × Nat :=
  if opcodeOf c.entry = 0x31 then
    let s := ent c.entry 0x20 1
    let x := d.streams.get Stream.fresh s
    ({ d with streams := d.streams.put Stream.fresh s { x with nextSend := x.nextSend + 1 } }, x.nextSend)
  else (d, 0)

/-- A command's charges are booked and it is in flight. -/
def Device.join (d : Device) (c : Cmd) : Device := { d.charge c with cmds := d.cmds ++ [c] }

/-- The command joins those in flight (R242 to R244). -/
def Device.accept (d : Device) (f : Fetched) (c : Cmd) (tags : List Nat) : Device :=
  let d1 := { d.settleTokens with tagsFree := tags, orderNext := d.orderNext + 1 }
  let d2 := d1.acceptEffect f.entry
  let (d3, m) := d2.takeMessage c
  let c1 := { c with step := d3.stepCounter, wset := d3.curSet, wver := d3.weightVersion, message := m,
                     overdueAt := c.promise + 1000 * d.setting 0x401001,
                     coll := if isFabricOp (opcodeOf f.entry) then some ⟨0, 0, d3.commandPlanes f.entry, d3.devNum, [], 0, false, none⟩ else none }
  ((d3.join c1).acceptanceRecord f stAccepted c1.tag 0 c1.promise).count 0x807001 1

/-- The formats a command's quantised outputs are encoded in, in descriptor order (R116). -/
def encodedFmts (d : Device) (c : Cmd) : List Nat :=
  ((outCtls c.entry).zip c.ledger).map fun (o, l) => encodedFmt d c l (qctl (ent c.entry o 8)).target

/-- The sheaves that count toward the allowance: those of outputs encoded narrow (R110, R116). -/
def watchedOf (encs ns : List Nat) : Nat := ((ns.zip encs).map fun (n, f) => if isNarrow f then n else 0).sum

/-- What rules 4 and 5 of R242 judge: the device with the ledgers open, the command with its charges and promise, and whether its urgent tile work is beyond a bucket's depth (R247). -/
structure Bid where
  dev : Device
  cmd : Cmd
  beyond : Bool

/-- Prices an entry that rules 1 to 3 let pass, as the command that would carry `tag` (R244, R247, R460). -/
def Device.bid (d : Device) (f : Fetched) (l : Look) (tag : Nat) : Bid :=
  let bays := baySet d f.entry
  let step := if opcodeOf f.entry = 0x41 then d.stepCounter.toNat else (d.acceptEffect f.entry).stepCounter.toNat
  let (d1, uses) := openLedgers d step (outKeys f.entry)
  let c0 := { d.newCmd f l.x tag with ledger := uses }
  let encs := encodedFmts d c0
  let w := l.work encs bays
  let a := allowanceOf (allowanceCode d c0) c0.urgent (watchedOf encs w.watched)
  let io := w.io.add (w.fallIo.mul (Q.ofNat a))
  let cs := (List.range 8).map (d.chargeOn w a)
  let fab := isFabricOp (opcodeOf f.entry)
  let beyond := c0.urgent && (List.range 8).any fun k => (d.bucketDepth k).lt (Q.ofNat (cs.getD k Charge.none).tile)
  let used := (List.range 8).filter fun k => bays.contains k || (match cs[k]? with | some g => decide (0 < g.ops) | none => false)
  let p := d.promiseOf ⟨c0.urgent, if ent f.entry 4 2 = 0 then 1280 else ent f.entry 4 2, if fab then hopTime else Q.zero,
    Q.ofNat (d.dependsOn c0), used, cs, io, w.fabric, w.partner⟩
  ⟨d1, { c0 with promise := p, charges := cs, io := io, ops := w.ops }, beyond⟩

/-- Rules 4 and 5 of R242, and acceptance. -/
def Device.offer (d : Device) (f : Fetched) (l : Look) (tag : Nat) (tags : List Nat) : Device :=
  let b := d.bid f l tag
  if b.beyond || d.now + 1000000 * d.setting 0x701201 < b.cmd.promise then d.refuse f stNoSlot 0 0
  else if classOf f.entry = 1 ∧ ent f.entry 0x18 8 < b.cmd.promise then d.refuse f stDeadline 0 b.cmd.promise
  else b.dev.accept f b.cmd tags

/-- The extension block admission reads (R235): zeros where an entry names none or it cannot be read. -/
def readExt (d : Device) (w : Win) (e : List Byte) : List Byte × Bool :=
  if !(isArrayOp (opcodeOf e)) || ent e 0x60 8 = 0 then (List.replicate 128 0, true)
  else match d.read (w.resolve none (ent e 0x60 8)) 128 with | .ok b => (b, true) | .error _ => (List.replicate 128 0, false)

/-- The windows and the weight set that addresses resolve by now (R234, R301). -/
def Device.window (d : Device) : Win := ⟨d.setting 0x703001, d.setting 0x703002, d.setting 0x703003, d.curSet⟩

/-- What admission looks at for a fetched entry. -/
def Device.look (d : Device) (f : Fetched) : Look := let x := readExt d d.window f.entry
  ⟨d, d.window, f.entry, x.1, x.2, f.q.val⟩

/-- A bay set or an address that rule 2 of R242 refuses (R349). -/
def Look.bayOut (l : Look) : Bool :=
  let m := l.f 3 1
  let op := opcodeOf l.e
  ((List.range 8).any fun k => m.testBit k && (l.dev.bay k).closed) ||
  ((namedAddrs l.win l.e l.x l.root).any fun p => l.dev.addrClosed p.2) ||
  ((baySet l.dev l.e).isEmpty && op != 0x40 && op != 0x41 && op != 0x44)

/-- Something that admission reads of an entry lies in a paused row: its extension block, a table header or recipe it names, the ledger entries of its keys (R214). -/
def Device.entryHeld (d : Device) (f : Fetched) : Bool :=
  d.pauses &&
  (let l := d.look f
   (isArrayOp (opcodeOf f.entry) && d.held (l.win.resolve none (ent f.entry 0x60 8)) 128) ||
   (namedAddrs l.win f.entry l.x l.root).any (fun p => d.held p.2 (if opcodeOf f.entry = 0x13 ∧ p.1 = 0x20 then 532 else 32)) ||
   (outKeys f.entry).any fun key => key != 0xFFFF && d.held (d.setting 0x205001 + 32 * key) 32)

/-- Admits the entry fetched first. -/
def Device.judge (d0 : Device) (f : Fetched) (rest : List Fetched) : Device :=
  let d := { d0 with fetched := rest }
  let l := d.look f
  match l.invalid with
  | some (off, lock) => (d.refuse f stInvalid off 0).count 0x808002 (if lock then 1 else 0)
  | none =>
    if l.bayOut then d.refuse f stBayOut 0 0
    else
      match d.tagsFree with
      | [] => d.refuse f stNoTag 0 0
      | tag :: tags => d.offer f l tag tags

/-- Which rows of the opcode table an entry belongs to: its opcode, and for COLLECTIVE and EVENT the operation. -/
structure RowOf where
  op : Nat
  sub : Nat
  deriving DecidableEq, Repr

def knownOp (op : Nat) : Bool :=
  [1, 2, 3, 0x10, 0x11, 0x12, 0x13, 0x14, 0x15, 0x20, 0x21, 0x22, 0x30, 0x31, 0x32, 0x40, 0x41, 0x42, 0x43, 0x44].contains op

/-- The entry is this row's; an entry of no row, or with an operation of no row, is admitted (and refused) by whichever row comes. -/
def RowOf.takes (r : RowOf) (e : List Byte) : Bool :=
  let op := opcodeOf e
  if !(knownOp op) then true
  else if op ≠ r.op then false
  else if op = 0x30 then ent e 0x20 1 == r.sub || 3 < ent e 0x20 1
  else if op = 0x40 then ent e 0x22 1 == r.sub || 1 < ent e 0x22 1
  else true

/-- Admission of one row: the entry at the head of those fetched, if it is the row's; commands are admitted only where the device is ready and in D0. -/
def Device.admitRow (d : Device) (r : RowOf) : Device :=
  match d.fetched with
  | [] => d
  | f :: rest => if r.takes f.entry && d.isReady && d.power.powerState == 0 && !(d.entryHeld f) then d.judge f rest else d

/-! ### The rows -/

/-- MATMUL (R233, R234). -/
def execMatmul (s : State) : Host.Outcome State Fault Refusal := .next { s with dev := s.dev.admitRow ⟨0x01, 0⟩ }
/-- ATTENTION (R197, R235). -/
def execAttention (s : State) : Host.Outcome State Fault Refusal := .next { s with dev := s.dev.admitRow ⟨0x02, 0⟩ }
/-- CONV (R144 to R146). -/
def execConv (s : State) : Host.Outcome State Fault Refusal := .next { s with dev := s.dev.admitRow ⟨0x03, 0⟩ }
/-- QUANTISE (R57). -/
def execQuantise (s : State) : Host.Outcome State Fault Refusal := .next { s with dev := s.dev.admitRow ⟨0x10, 0⟩ }
/-- DEQUANTISE (R233). -/
def execDequantise (s : State) : Host.Outcome State Fault Refusal := .next { s with dev := s.dev.admitRow ⟨0x11, 0⟩ }
/-- ROTATE (R461). -/
def execRotate (s : State) : Host.Outcome State Fault Refusal := .next { s with dev := s.dev.admitRow ⟨0x12, 0⟩ }
/-- RECIPE (R185). -/
def execRecipe (s : State) : Host.Outcome State Fault Refusal := .next { s with dev := s.dev.admitRow ⟨0x13, 0⟩ }
/-- SAMPLE (R195, R196). -/
def execSample (s : State) : Host.Outcome State Fault Refusal := .next { s with dev := s.dev.admitRow ⟨0x14, 0⟩ }
/-- RNG_FILL (R193). -/
def execRngFill (s : State) : Host.Outcome State Fault Refusal := .next { s with dev := s.dev.admitRow ⟨0x15, 0⟩ }
/-- GATHER (R233). -/
def execGather (s : State) : Host.Outcome State Fault Refusal := .next { s with dev := s.dev.admitRow ⟨0x20, 0⟩ }
/-- SCATTER (R233). -/
def execScatter (s : State) : Host.Outcome State Fault Refusal := .next { s with dev := s.dev.admitRow ⟨0x21, 0⟩ }
/-- COPY (R233). -/
def execCopy (s : State) : Host.Outcome State Fault Refusal := .next { s with dev := s.dev.admitRow ⟨0x22, 0⟩ }
/-- COLLECTIVE, operation 0 (R273, R277). -/
def execBroadcast (s : State) : Host.Outcome State Fault Refusal := .next { s with dev := s.dev.admitRow ⟨0x30, 0⟩ }
/-- COLLECTIVE, operation 1 (R273, R278). -/
def execReduceToOne (s : State) : Host.Outcome State Fault Refusal := .next { s with dev := s.dev.admitRow ⟨0x30, 1⟩ }
/-- COLLECTIVE, operation 2 (R273, R282). -/
def execAllToAll (s : State) : Host.Outcome State Fault Refusal := .next { s with dev := s.dev.admitRow ⟨0x30, 2⟩ }
/-- COLLECTIVE, operation 3 (R273, R283). -/
def execAllToAllSizeTable (s : State) : Host.Outcome State Fault Refusal := .next { s with dev := s.dev.admitRow ⟨0x30, 3⟩ }
/-- STAGE_SEND (R285, R286). -/
def execStageSend (s : State) : Host.Outcome State Fault Refusal := .next { s with dev := s.dev.admitRow ⟨0x31, 0⟩ }
/-- STAGE_RECV (R285, R286). -/
def execStageRecv (s : State) : Host.Outcome State Fault Refusal := .next { s with dev := s.dev.admitRow ⟨0x32, 0⟩ }
/-- EVENT, operation 0 (R237). -/
def execEventAdd (s : State) : Host.Outcome State Fault Refusal := .next { s with dev := s.dev.admitRow ⟨0x40, 0⟩ }
/-- EVENT, operation 1 (R239). -/
def execEventReset (s : State) : Host.Outcome State Fault Refusal := .next { s with dev := s.dev.admitRow ⟨0x40, 1⟩ }
/-- FENCE (R240). -/
def execFence (s : State) : Host.Outcome State Fault Refusal := .next { s with dev := s.dev.admitRow ⟨0x41, 0⟩ }
/-- DIGEST (R338). -/
def execDigest (s : State) : Host.Outcome State Fault Refusal := .next { s with dev := s.dev.admitRow ⟨0x42, 0⟩ }
/-- CAST (R460). -/
def execCast (s : State) : Host.Outcome State Fault Refusal := .next { s with dev := s.dev.admitRow ⟨0x43, 0⟩ }
/-- WEIGHT_SWITCH (R301). -/
def execWeightSwitch (s : State) : Host.Outcome State Fault Refusal := .next { s with dev := s.dev.admitRow ⟨0x44, 0⟩ }

end Sys2Proof.Machine
end

