-- ==== Sys2Proof/Machine/Compare.lean ====
section
/-! DEFINITION. Comparison mode of an array: two nibble streams, the counters of its lanes, and what the Kilraust reads from them (R147 to R149). -/

namespace Sys2Proof.Machine

/-- The operations of comparison mode. -/
inductive CmpOp where
  | absDiff
  | equal
  | maxDiff
  deriving DecidableEq, Repr

/-- A byte stream as four-bit nibbles, low nibble first. -/
def nibbles (bs : List Byte) : List Nat := bs.flatMap fun b => [b.toNat % 16, b.toNat / 16]

def nibbleDiff (a b : Nat) : Nat := max a b - min a b

/-- A lane's counter after one beat; it stops at 0xFFFF_FFFF. -/
def CmpOp.beat (op : CmpOp) (c a b : Nat) : Nat :=
  match op with
  | .absDiff => stopAdd 32 c (nibbleDiff a b)
  | .equal => if a = b then stopAdd 32 c 1 else c
  | .maxDiff => max c (nibbleDiff a b)

/-- The counter of lane (i, j) after the two streams, 16 nibbles of each a beat; a lane for which a stream has ended does nothing. -/
def CmpOp.lane (op : CmpOp) (xs ys : List Nat) (i j : Nat) : Nat :=
  (List.range (ceilDiv (min xs.length ys.length) 16)).foldl (fun c b =>
    match xs[16 * b + i]?, ys[16 * b + j]? with
    | some x, some y => op.beat c x y
    | _, _ => c) 0

/-- The counters of an array's 256 lanes in row order. -/
def CmpOp.counters (op : CmpOp) (a b : List Byte) : List Nat :=
  (List.range 256).map fun l => op.lane (nibbles a) (nibbles b) (l / 16) (l % 16)

/-- The counters of the diagonal lanes, which compare the streams element by element. -/
def CmpOp.diagonal (op : CmpOp) (a b : List Byte) : List Nat := (List.range 16).map fun i => op.lane (nibbles a) (nibbles b) i i

/-- Equal nibbles of two streams: the sum over the diagonal. -/
def equalNibbles (a b : List Byte) : Nat := ((CmpOp.equal).diagonal a b).sum

/-- Two digests agree: all their 16 nibbles are equal (R149). -/
def digestsAgree (a b : W64) : Bool := equalNibbles (leBytes 8 a.toNat) (leBytes 8 b.toNat) == 16

/-- A spare slate's results agree with its buddy's, nibble for nibble (R149, R352). -/
def resultsAgree (spare buddy : List Byte) : Bool :=
  spare.length == buddy.length && !spare.isEmpty && equalNibbles spare buddy == 2 * spare.length

/-- An array meets a golden pattern: neither operation of the self-test sees a difference (R341). -/
def meetsGolden (golden seen : List Byte) : Bool :=
  golden.length == seen.length && (((CmpOp.absDiff).diagonal golden seen).all (· == 0)) && (((CmpOp.maxDiff).diagonal golden seen).all (· == 0))

/-- An array operates in comparison mode only in these states of its bay (R148). -/
def BayState.compares (s : BayState) : Bool := s == .startUp || s == .test || s == .recovery

/-- The block registers of array 0 hold the counters of a comparison, to be read out as U32 values; the accumulators take no part (R147). -/
def Tile.counted (t : Tile) (cs : List Nat) : Tile := t.eachLane (List.range 256) cs fun l c => { l with block := (c : Int) }

end Sys2Proof.Machine
end

