-- ==== Sys2Proof/Machine/Collective.lean ====
section
/-! DEFINITION. What the members of a collective send, form and write, chain step by chain step (R270 to R283). -/

namespace Sys2Proof.Machine

/-! ### A collective as a member sees it -/

structure Coll where
  op : Nat
  code : Nat
  cont : Nat
  count : Nat
  ms : List Nat
  pos : Nat
  /-- this member's contributions -/
  own : Nat
  src : Nat
  dst : Nat
  hasDst : Bool
  sizeTab : Nat
  deriving DecidableEq, Repr

def Cmd.collOf (d : Device) (c : Cmd) : Coll :=
  let ms := c.members d
  let i := positionIn ms (c.self d)
  let f := ent c.entry
  ⟨f 0x20 1, f 0x22 1 % 32, f 0x23 1, f 0x38 8, ms, i, memberContribs (ms.getD i 0),
   c.addr d 0x28, c.addr d 0x30, f 0x30 8 != 0, c.addr d 0x48⟩

def Coll.last (x : Coll) : Bool := x.pos + 1 == x.ms.length
def Coll.isSheaf (x : Coll) : Bool := isSheafFmt x.code
/-- The device at a position. -/
def Coll.dev (x : Coll) (i : Nat) : Nat := memberDev (x.ms.getD i 0)
/-- The contributions before this member's first. -/
def Coll.before (x : Coll) : Nat := ((x.ms.take x.pos).map memberContribs).sum
/-- The bytes of n units of a plain operand. -/
def Coll.bytes (x : Coll) (n : Nat) : Nat := if x.code = fmtNone then n else n * arrayStride x.code

/-- The size of block (i, j) of an all-to-all (R282, R283). -/
def Coll.block (x : Coll) (d : Device) (i j : Nat) : Nat := if x.op = 2 then x.count else d.mem.nat (x.sizeTab + 4 * (64 * i + j)) 4

/-- The little-endian 32-bit words of a byte string. -/
def words4 : List Byte → List Nat
  | a :: b :: c :: d :: r => leNat [a, b, c, d] :: words4 r
  | _ => []

/-- R283's conditions on the bytes of a size table. -/
def Coll.sizesOk (x : Coll) (bs : List Byte) : Bool :=
  (words4 bs).zipIdx.all fun (v, n) =>
    if n / 64 < x.ms.length ∧ n % 64 < x.ms.length then x.code != fmtNone || v % 64 == 0 else v == 0

/-- The status a member fails with when it reads its size table; none where the table is sound, or the operation has none (R283). -/
def Coll.tableFault (x : Coll) (d : Device) : Option Nat :=
  if x.op ≠ 3 then none
  else match d.read x.sizeTab 16384 with
    | .error s => some s
    | .ok bs => if x.sizesOk bs then none else some csFabric

/-! ### Sheaves on the line (R36, R265, R269, R274) -/

/-- A payload in parts that are cut into frames separately, each with its content code: a sheaf each, or the whole of a step. -/
abbrev Parts := List (Nat × List Byte)

def Parts.bytes (ps : Parts) : List Byte := ps.flatMap (·.2)

/-- The sheaves among frames in order, with their content codes: a narrow sheaf fills one frame, an FP32 sheaf as many as its 16,448 bytes take; `part` is the beginning of one under way (notes/assumptions/25). -/
def joinFrames (part : List Byte) : Parts → Parts
  | [] => if part.isEmpty then [] else [(0x18, part)]
  | (c, b) :: r =>
    if !(isSheafFmt c) || b.isEmpty then joinFrames part r
    else if c = 0x18 then
      let p := part ++ b
      if 16448 ≤ p.length then (0x18, p) :: joinFrames [] r else joinFrames p r
    else (if part.isEmpty then [] else [(0x18, part)]) ++ (c, b) :: joinFrames [] r

def lineSheaves (ps : Parts) : Parts := joinFrames [] ps

/-- The format and gutter bit under which a sheaf of content code `c` travels, known by its length; none where it is no whole sheaf. -/
def lineForm (c n : Nat) : Option (Nat × Bool) :=
  if n = sheafSize c false then some (c, false) else if c ≠ 0x18 ∧ n = sheafSize c true then some (c, true) else none

/-- A received sheaf is whole, and its check holds (R269). -/
def lineSheafOk (s : Nat × List Byte) : Bool := (lineForm s.1 s.2.length).isSome && sheafCheckOk s.2

/-- The frames of a step so far hold a sheaf that ended with the last of them and fails its check, or, at the end of the step, a sheaf cut short. -/
def lineBad (ps : Parts) (last : Bool) : Bool :=
  match (lineSheaves ps).getLast?, ps.getLast? with
  | some s, some f => isSheafFmt f.1 && (last || f.1 != 0x18 || decide (16448 ≤ s.2.length)) && !(lineSheafOk s)
  | _, _ => false

/-- Cuts a row of sheaf sizes into steps of whole sheaves that fit in 65,536 bytes: first sheaf and count of each (R274). -/
def cutSheaves : List Nat → Nat → Nat → Nat → List (Nat × Nat)
  | [], first, n, _ => if n = 0 then [] else [(first, n)]
  | s :: r, first, n, used =>
    if n ≠ 0 ∧ stepBytes < used + s then (first, n) :: cutSheaves r (first + n) 1 s
    else cutSheaves r first (n + 1) (used + s)

/-- Sizes of the sheaves first to first + n − 1 of a table. -/
def entrySizes (d : Device) (w : Win) (t : Table) (first n : Nat) : Except Nat (List Nat) :=
  allOk (fun j => match readEntry d w t j with | .ok e => .ok e.size | .error s => .error s) (List.range' first n)

/-- Some sheaves of a table, each with its own format code (R265). -/
def tableSheaves (d : Device) (w : Win) (verify : Bool) (t : Table) (first n : Nat) : Except Nat Parts :=
  allOk (fun j =>
    match readEntry d w t j with
    | .error s => .error s
    | .ok e =>
      match d.read e.addr e.size with
      | .error s => .error s
      | .ok bs => if verify && !(sheafCheckOk bs) then Except.error csCheck else .ok (e.fmt, bs)) (List.range' first n)

/-- Writes sheaves from entry `first` of a destination table on (R43, R277). -/
def putSheaves (d : Device) (w : Win) (t : Table) : Nat → Parts → Except Nat Device
  | _, [] => .ok d
  | j, (_, bs) :: r =>
    if t.count ≤ j then .error csTable
    else match writeSheafMove d w false t j bs with | .error s => .error s | .ok d1 => putSheaves d1 w t (j + 1) r

/-! ### The shape of a chain's first contribution (notes/assumptions/25) -/

/-- Outer and inner length of a tensor, and its shift bytes, none where it has no shift vector. -/
structure Shape where
  outer : Nat
  inner : Nat
  shifts : List Byte
  deriving DecidableEq, Repr

def Shape.blocks (t : Shape) : Nat := ceilDiv t.inner 32
def Shape.sheaves (t : Shape) : Nat := sheafCount t.outer t.inner

/-- A table's shape, with its shift vector where `shifts` asks for it. -/
def shapeOf (d : Device) (t : Table) (shifts : Bool) : Except Nat Shape :=
  if shifts && t.hasShift then match d.read t.shiftAddr t.outer with | .ok bs => .ok ⟨t.outer, t.inner, bs⟩ | .error s => .error s
  else .ok ⟨t.outer, t.inner, []⟩

/-- The shape as the first frames of step 0 carry it, with content code 0x1F: a receiver can decode x_0, or count the sheaves, by nothing else. The spec gives no field for it. DESIGN CHOICE. -/
def Shape.part (t : Shape) : Nat × List Byte := (fmtNone, leBytes 8 t.outer ++ leBytes 8 t.inner ++ t.shifts)

/-- The shape that the frames of step 0 begin with. -/
def lineShape (ps : Parts) : Option Shape :=
  let bs := Parts.bytes (ps.takeWhile fun p => p.1 == fmtNone)
  let t : Shape := ⟨bytesNat bs 0 8, bytesNat bs 8 8, bs.drop 16⟩
  if bs.length < 16 ∨ t.outer = 0 ∨ t.inner = 0 then none
  else some { t with shifts := if t.shifts.length < t.outer then [] else t.shifts.take t.outer }

/-! ### What a member's source gives (R274, R277, R282) -/

/-- Units `from'` to `from' + n − 1` of a source block as step `j` of that block; none past its last step. -/
def payloadStep (d : Device) (w : Win) (verify : Bool) (x : Coll) (from' n j : Nat) : Except Nat (Option Parts) :=
  if x.isSheaf then
    match readTable d w x.src with
    | .error s => .error s
    | .ok t =>
      match entrySizes d w t from' n with
      | .error s => .error s
      | .ok ss =>
        match (cutSheaves ss 0 0 0)[j]? with
        | none => .ok none
        | some (a, k) => match tableSheaves d w verify t (from' + a) k with | .error s => .error s | .ok ps => .ok (some ps)
  else
    let b := x.bytes n
    if b ≤ j * stepBytes then .ok none
    else match d.read (x.src + x.bytes from' + j * stepBytes) (min stepBytes (b - j * stepBytes)) with
      | .error s => .error s
      | .ok bs => .ok (some [(x.code, bs)])

/-- A step of the root of a broadcast: its source's sheaves, step 0 with their shape before them, or its bytes (R277). -/
def rootStep (d : Device) (w : Win) (verify : Bool) (x : Coll) (j : Nat) : Except Nat (Option Parts) :=
  if x.isSheaf then
    match readTable d w x.src with
    | .error s => .error s
    | .ok t =>
      match payloadStep d w verify x 0 t.count j, shapeOf d t false with
      | .ok (some ps), .ok sh => .ok (some (if j = 0 then sh.part :: ps else ps))
      | .ok none, _ => .ok none
      | .error s, _ => .error s
      | _, .error s => .error s
  else payloadStep d w verify x 0 x.count j

/-! ### Reduce (R278 to R281) -/

/-- A reduce step's elements: first and count. -/
def Coll.elems (x : Coll) (j : Nat) : Nat × Nat := (16384 * j, min 16384 (x.count - 16384 * j))
def Coll.reduceSteps (x : Coll) : Nat := ceilDiv x.count 16384

/-- Elements e to e + n − 1 of a sheaf operand in the order of R274, one block at a time through `blk`. -/
def sheafElems (blk : Nat → Nat → Except Nat (Flagged (List Acc))) (inner : Nat) : Nat → Nat → Nat → Except Nat (Flagged (List Acc))
  | 0, _, _ => .ok ⟨[], 0⟩
  | fuel + 1, e, n =>
    if n = 0 ∨ inner = 0 then .ok ⟨[], 0⟩
    else
      let k := e % inner
      let m := min n (min (32 - k % 32) (inner - k))
      match blk (e / inner) (k / 32) with
      | .error s => .error s
      | .ok b =>
        match sheafElems blk inner fuel (e + m) (n - m) with
        | .error s => .error s
        | .ok r => .ok ⟨(b.v.drop (k % 32)).take m ++ r.v, b.flags ||| r.flags⟩

/-- The value of one plain-array element as a reduce takes it (R278). -/
def reduceElem (code x : Nat) : Acc × Nat :=
  if code = 0x19 then (BitVec.ofNat 36 x, 0)
  else if code = 0x1A then (c24Acc (BitVec.ofNat 32 x), 0)
  else
    let r := f32ToAcc (BitVec.ofNat 32 x)
    (r.acc, flagIf r.sat fAccSat ||| flagIf r.invalid fInvalid)

/-- The values in the bytes of a plain array. -/
def bytesElems (code n : Nat) (bs : List Byte) : Flagged (List Acc) :=
  let k := arrayStride code
  let rs := (List.range n).map fun i => reduceElem code (bytesNat bs (k * i) k)
  ⟨rs.map (·.1), flagsOf (·.2) rs⟩

/-- Elements of one contribution at an address. -/
def contribution (d : Device) (rc : ReadCtx) (code addr e n : Nat) : Except Nat (Flagged (List Acc)) :=
  if isSheafFmt code then
    match readTable d rc.win addr with
    | .error s => .error s
    | .ok t => if t.outer * t.inner < e + n then .error csTable else sheafElems (tensorBlock d rc t) t.inner (n + 1) e n
  else
    let k := arrayStride code
    match d.read (addr + k * e) (k * n) with
    | .error s => .error s
    | .ok bs => .ok (bytesElems code n bs)

/-- The address of a member's contribution i: its source, or an entry of its list, whose tables must hold the count (R273, R274). -/
def contribAddr (d : Device) (w : Win) (x : Coll) (i : Nat) : Except Nat Nat :=
  if x.own ≤ 1 then .ok x.src
  else
    match d.read (x.src + 8 * i) 8 with
    | .error s => .error s
    | .ok b =>
      let a := w.resolve (w.setOf x.src) (leNat b)
      if x.isSheaf then
        match readTable d w a with
        | .error s => .error s
        | .ok t => if t.outer * t.inner = x.count then .ok a else .error csTable
      else .ok a

/-- A carry, which ACC36 holds exactly, its flags, and whether one of this member's own roundings saturated. -/
structure Carry where
  vals : List Acc
  flags : Nat
  sat : Bool
  deriving DecidableEq, Repr

/-- One position: each carry plus its contribution, rounded once into C24 (R278, R280). -/
def carryAdd (c : Carry) (x : Flagged (List Acc)) : Carry :=
  let rs := (c.vals.zip x.v).map fun (a, b) => c24Add a b
  let sat := rs.any (·.2)
  ⟨rs.map fun r => c24Acc r.1, c.flags ||| x.flags ||| flagIf sat fCarry, c.sat || sat⟩

/-- A member's positions in ascending order (R279); a chain that starts here starts with its first contribution, exact. -/
def carryOwn (d : Device) (rc : ReadCtx) (x : Coll) (j : Nat) (start : Option Carry) : List Nat → Except Nat Carry
  | [] => .ok (start.getD ⟨[], 0, false⟩)
  | i :: r =>
    match contribAddr d rc.win x i with
    | .error s => .error s
    | .ok a =>
      match contribution d rc x.code a (x.elems j).1 (x.elems j).2 with
      | .error s => .error s
      | .ok v =>
        match start with
        | some c => carryOwn d rc x j (some (carryAdd c v)) r
        | none => carryOwn d rc x j (some ⟨v.v, v.flags, false⟩) r

/-- A carry as C24 containers. -/
def carryBytes (vals : List Acc) : List Byte := vals.flatMap fun v => leBytes 4 (accC24 v).1.toNat

/-- The sheaves a member in the operand's own form sends with step j: those that hold an element of the step and went with no earlier one (R274). -/
def ownSheaves (t : Table) (e n : Nat) : Nat × Nat :=
  let at' := fun (e : Nat) => (e / t.inner * t.lp + e % t.inner) / 4096
  if n = 0 ∨ t.inner = 0 then (0, 0)
  else
    let lo := if e = 0 then 0 else at' (e - 1) + 1
    let hi := at' (e + n - 1) + 1
    (lo, hi - lo)

/-- Block q of channel c of sheaves received on the line, whole sheaves from number 0 on, by the shape and shifts they came with; zeros of a malformed sheaf (R39, R278, R280). -/
def lineBlock (t : Shape) (ss : Parts) (c q : Nat) : Except Nat (Flagged (List Acc)) :=
  let b := c * t.blocks + q
  let act := activeOf t.inner q
  match ss[b / 128]? with
  | none => .error csFabric
  | some (code, bs) =>
    match lineForm code bs.length with
    | none => .error csFabric
    | some (f, g) =>
      if sheafMalformed f g (bytesNat bs (bs.length - 8) 4) then .ok ⟨List.replicate act accZero, fMalformed⟩
      else if f = 0x18 then
        let rs := (List.range act).map fun i => f32ToAcc (BitVec.ofNat 32 (bytesNat bs (4 * (b % 128 * 32 + i)) 4))
        .ok ⟨rs.map (·.acc), flagIf (rs.any (·.sat)) fAccSat ||| flagIf (rs.any (·.invalid)) fInvalid⟩
      else
        let v := sheafBlock f g bs (b % 128) (t.shifts.getD c 0).toNat act
        .ok ⟨(List.range act).map fun i => (accRound (v.at' i) false).1, flagIf v.invalid fInvalid⟩

/-! ### The result of a reduce (R281) -/

/-- One element of the result in a plain container. -/
def resultBytes (cont : Nat) (v : Acc) : List Byte × Nat × Bool :=
  if cont = 0x1A then let r := accC24 v; (leBytes 4 r.1.toNat, flagIf r.2 fCarry, r.2)
  else let o := arrayBytes cont v; (o.1, o.2, false)

/-- The last member writes a step's results, or gathers them for its output sheaves. -/
def writeResult (d : Device) (c : Cmd) (w : CollWork) (x : Coll) (j : Nat) (r : Carry) : Except Nat (Device × Cmd × CollWork) :=
  if !x.hasDst then .ok (d, c, w)
  else if x.cont = fmtNone then
    let e := (x.elems j).1
    .ok (d, { c with wide0 := c.wide0 ++ r.vals.zipIdx.map fun (v, i) => (e + i, some (Wide.fin (accPlusZero v))) }, w)
  else
    let os := r.vals.map (resultBytes x.cont)
    match d.write (x.dst + arrayStride x.cont * (x.elems j).1) (os.flatMap (·.1)) with
    | .error s => .error s
    | .ok d1 => .ok (d1, { c with flags := c.flags ||| flagsOf (fun o => o.2.1) os }, { w with ownCarrySat := w.ownCarrySat || os.any fun o => o.2.2 })

end Sys2Proof.Machine
end

