-- ==== Sys2Proof/Machine/Chain.lean ====
section
/-! DEFINITION. Chain steps and stage messages on this member: what is ready, what is sent, what a delivered frame does (R269, R272 to R277, R279, R280, R282, R283, R286, R289). -/

namespace Sys2Proof.Machine

/-! ### Keys, flags, frames -/

/-- The key under which a member keeps what it receives of an all-to-all: step `j` of the block from the member at position `p`; what it sends to `p` has the key without 2^40. In a chain, and on a stream, a step's key is its number. -/
def blockKey (p j : Nat) : Nat := p * 2 ^ 20 + j
def recvKey (p j : Nat) : Nat := 2 ^ 40 + blockKey p j

/-- Completion flags as the frames carry them (R265), and back. -/
def lineFlags (f : Nat) : Nat := f % 8 + if f &&& fCarry = 0 then 0 else 8
def ownFlags (f : Nat) : Nat := f % 8 + if f.testBit 3 then fCarry else 0

def CollWork.step (w : CollWork) (k : Nat) : StepWork := w.work.get StepWork.none k
def CollWork.put (w : CollWork) (k : Nat) (s : StepWork) : CollWork := { w with work := w.work.put StepWork.none k s }

/-- A collective's progress is kept. -/
def Device.setColl (d : Device) (tag : Nat) (w : CollWork) : Device :=
  d.modCmd tag fun c => { c with coll := some w, progressAt := d.now }

/-- Changes what a member holds of one step. -/
def Device.modStep (d : Device) (tag key : Nat) (f : StepWork → StepWork) : Device :=
  d.modCmd tag fun c => { c with coll := c.coll.map fun w => w.put key (f (w.step key)) }

/-- A fabric command fails in its own work, and its partners hear of it (R269, R289). -/
def Device.failColl (d : Device) (tag status : Nat) : Device :=
  match d.cmd tag with
  | none => d
  | some c => if c.failure.isSome then d else (d.failWith tag status).abort c

/-- Pieces of at most 8,192 bytes; one, empty, of nothing. -/
def pieces8k : Nat → List Byte → List (List Byte)
  | 0, bs => [bs]
  | n + 1, bs => if bs.length ≤ 8192 then [bs] else bs.take 8192 :: pieces8k n (bs.drop 8192)

/-- A payload with the length of R265, a multiple of 4. -/
def padded4 (bs : List Byte) : List Byte := padTo (roundUp bs.length 4) bs

/-- The frames of a step, each with its own payload's content code; `first` stands in the step field of its first frame (R265, R274, R283). A step without payload is one empty frame. -/
def framesOf (base : Frame) (first : Nat) (ps : Parts) : List Frame :=
  let cs := ps.flatMap fun (c, p) => let b := padded4 p; (pieces8k b.length b).map fun x => (c, x)
  let fs := if cs.isEmpty then [(base.content, [])] else cs
  fs.zipIdx.map fun ((c, b), i) =>
    { base with packet := i % 2 ^ 15, last := i + 1 == fs.length, content := c, payload := b, step := if i = 0 then first else base.step }

/-! ### Tokens (R276) -/

def Port.hasToken (p : Port) (tag key : Nat) (sending : Bool) : Bool := p.tokens.contains ⟨tag, key, sending⟩
def Port.takeToken (p : Port) (tag key : Nat) (sending : Bool) : Port :=
  { p with tokens := p.tokens ++ [⟨tag, key, sending⟩], tokensFree := p.tokensFree - 1 }
def Port.returnToken (p : Port) (tag key : Nat) (sending : Bool) : Port :=
  if p.hasToken tag key sending then { p with tokens := p.tokens.erase ⟨tag, key, sending⟩, tokensFree := p.tokensFree + 1 } else p

/-! ### Cross-bay traffic of steps (R207, R275) -/

/-- The number under which the waiting accesses of a step stand among those of tile operations. -/
def crossOp (key : Nat) : Nat := 2 ^ 20 + key

/-- The accesses of work in bay `k` to other bays take inbound tokens or wait for them; `asked` tells that they have asked before. The device, and whether none waits. -/
def Device.crossAsk (d : Device) (k tag key : Nat) (asked : Bool) (w : Win) (rs : List (Nat × Nat)) : Device × Bool :=
  let d1 := if asked then d else d.crossStart k tag (crossOp key) (d.crossLines w k (rs.map fun r => plainSpan r.1 r.2))
  (d1, !(d1.tokenWait tag (crossOp key)))

/-- The same for step `key` of a command, which remembers that it has asked. -/
def Device.stepAsk (d : Device) (k : Nat) (c : Cmd) (w : CollWork) (key : Nat) (rs : List (Nat × Nat)) : Device × Bool :=
  let t := d.crossAsk k c.tag key (w.step key).asked (c.win d) rs
  (if (w.step key).asked then t.1 else t.1.modStep c.tag key fun s => { s with asked := true }, t.2)

/-- Where units `from'` to `from' + n − 1` of a source or destination lie, or the part of them that is step `j`; a table's sheaves are given by entry. -/
def Coll.rangeOf (x : Coll) (d : Device) (w : Win) (addr from' n j : Nat) : List (Nat × Nat) :=
  if x.isSheaf then
    match rawTable d w addr with
    | none => []
    | some t =>
      match entrySizes d w t from' n with
      | .error _ => []
      | .ok ss => match (cutSheaves ss 0 0 0)[j]? with | none => [] | some (a, m) => entrySpans d w addr (List.range' (from' + a) m)
  else [(addr + x.bytes from' + j * stepBytes, min stepBytes (x.bytes n - j * stepBytes))]

/-- What step `j` of a reduce reads of this member's contributions, and writes of the result. -/
def Coll.reduceRanges (x : Coll) (d : Device) (w : Win) (j : Nat) : List (Nat × Nat) :=
  let (e, n) := x.elems j
  let one := fun (i : Nat) =>
    match contribAddr d w x i with
    | .error _ => []
    | .ok a =>
      if x.isSheaf then (match rawTable d w a with | some t => entrySpans d w a (let r := ownSheaves t e n; List.range' r.1 r.2) | none => [])
      else [(a + arrayStride x.code * e, arrayStride x.code * n)]
  (List.range x.own).flatMap one ++
  (if x.last && x.hasDst && x.cont != fmtNone then [(x.dst + arrayStride x.cont * e, arrayStride x.cont * n)] else [])

/-! ### Forming steps -/

/-- The carry that reaches this member with step `j`, from the frames (R278): the first contribution in the operand's own form, whose step 0 begins with its shape where it is a sheaf table, or C24. -/
def Coll.incoming (x : Coll) (w : CollWork) (j : Nat) : Except Nat Carry :=
  let s := w.step j
  let n := (x.elems j).2
  let fl := ownFlags s.flags
  match if x.before ≤ 1 then lineShape (w.step 0).data else none with
  | some t =>
    if t.outer * t.inner ≠ x.count then .error csFabric
    else
      match sheafElems (lineBlock t (lineSheaves ((List.range (j + 1)).flatMap fun i => (w.step i).data))) t.inner (n + 1) (x.elems j).1 n with
      | .error e => .error e
      | .ok v => .ok ⟨v.v, fl ||| v.flags, false⟩
  | none =>
    let bs := Parts.bytes s.data
    let ok := fun (code : Nat) => (code == 0x1A || (x.before ≤ 1 && (code == 0x19 || code == 0x1B))) && bs.length == roundUp (n * arrayStride code) 4
    match s.data with
    | [] => .error csFabric
    | (code, _) :: _ => if ok code && s.data.all (·.1 == code) then let v := bytesElems code n bs; .ok ⟨v.v, fl ||| v.flags, false⟩ else .error csFabric

/-- What step `j` of a reduce leaves this member as: the operand's own form at position 0 with one contribution, else C24 (R278). -/
def Coll.outgoing (x : Coll) (d : Device) (rc : ReadCtx) (j : Nat) (r : Carry) : Except Nat Parts :=
  if x.pos = 0 ∧ x.own = 1 then
    let (e, n) := x.elems j
    if x.isSheaf then
      match readTable d rc.win x.src with
      | .error s => .error s
      | .ok t =>
        let (a, k) := ownSheaves t e n
        match tableSheaves d rc.win rc.verify t a k, shapeOf d t (j == 0) with
        | .ok ps, .ok sh => .ok (if j = 0 then sh.part :: ps else ps)
        | .error s, _ => .error s
        | _, .error s => .error s
    else match d.read (x.src + x.bytes e) (x.bytes n) with | .error s => .error s | .ok bs => .ok [(x.code, bs)]
  else .ok [(0x1A, carryBytes r.vals)]

/-- What forming a step gives. -/
abbrev Formed := Except Nat (Device × Cmd × CollWork)

/-- Forms step `j` of a reduce on bay `k` (R278 to R281). -/
def formReduce (d : Device) (c : Cmd) (w : CollWork) (x : Coll) (k j : Nat) : Formed :=
  let rc := c.readCtx d k
  let start : Except Nat (Option Carry) := if x.pos = 0 then .ok none else match x.incoming w j with | .error s => .error s | .ok r => .ok (some r)
  match start with
  | .error s => .error s
  | .ok st =>
    match carryOwn d rc x j st (List.range x.own) with
    | .error s => .error s
    | .ok r =>
      let c1 := { c with flags := c.flags ||| r.flags }
      let s := { w.step j with written := true, flags := lineFlags r.flags }
      let w1 := { w with next := w.next + 1, flags := w.flags ||| r.flags, ownCarrySat := w.ownCarrySat || r.sat }
      if x.last then writeResult d c1 (w1.put j s) x j r
      else
        match x.outgoing d rc j r with
        | .error e => .error e
        | .ok ps => .ok (d, c1, w1.put j { s with out := ps, formed := true })

/-- Writes received sheaves from entry `at'` of the destination table on, or bytes at a place of the destination, which must be as many as the members agreed: the device, and the sheaves or bytes. -/
def writePart (d : Device) (win : Win) (x : Coll) (data : Parts) (at' limit off bytes : Nat) : Except Nat (Device × Nat) :=
  if x.isSheaf then
    let ss := lineSheaves data
    if limit < at' + ss.length then .error csFabric
    else if !x.hasDst then .ok (d, ss.length)
    else
      match readTable d win x.dst with
      | .error e => .error e
      | .ok t => match putSheaves d win t at' ss with | .error e => .error e | .ok d1 => .ok (d1, ss.length)
  else
    let bs := Parts.bytes data
    if bs.length ≠ roundUp bytes 4 then .error csFabric
    else if !x.hasDst then .ok (d, bytes)
    else match d.write (x.dst + off) (bs.take bytes) with | .error e => .error e | .ok d1 => .ok (d1, bytes)

/-- Bytes of step `j` of `n` bytes. -/
def stepSize (n j : Nat) : Nat := min stepBytes (n - j * stepBytes)

/-- The sheaves or bytes that a member of a broadcast receives: by the shape that came with step 0, which must hold the count (R273, R274), or the count's bytes. -/
def Coll.expects (x : Coll) (w : CollWork) : Option Nat :=
  if x.isSheaf then
    match lineShape (w.step 0).data with
    | some t => if t.outer * t.inner = x.count then some t.sheaves else none
    | none => none
  else some (x.bytes x.count)

/-- Writes step `next` of a broadcast at a member that received it (R277). -/
def formBroadcast (d : Device) (c : Cmd) (w : CollWork) (x : Coll) : Formed :=
  let j := w.next
  match x.expects w with
  | none => .error csFabric
  | some total =>
    match writePart d (c.win d) x (w.step j).data w.units total (j * stepBytes) (stepSize total j) with
    | .error e => .error e
    | .ok (d1, n) => .ok (d1, c, { (w.put j { w.step j with written := true }) with next := j + 1, units := w.units + n })

/-- The steps of the block from position `p` written so far. -/
def CollWork.writtenOf (w : CollWork) (p : Nat) : Nat :=
  w.work.countP fun s => recvKey p 0 ≤ s.1 && s.1 < recvKey (p + 1) 0 && s.2.written

/-- The sheaves those steps held. -/
def CollWork.sheavesOf (w : CollWork) (p n : Nat) : Nat := ((List.range n).map fun j => (lineSheaves (w.step (recvKey p j)).data).length).sum

/-- Where the block from position `p` starts at this member's destination, in units. -/
def Coll.blockAt (x : Coll) (d : Device) (p : Nat) : Nat := ((List.range p).map fun q => x.block d q x.pos).sum
/-- Where the block to position `p` starts in this member's source. -/
def Coll.blockFrom (x : Coll) (d : Device) (p : Nat) : Nat := ((List.range p).map fun q => x.block d x.pos q).sum

/-- Writes the next step of the block from position `p` (R282). -/
def formBlock (d : Device) (c : Cmd) (w : CollWork) (x : Coll) (p : Nat) : Formed :=
  let j := w.writtenOf p
  let key := recvKey p j
  let base := x.blockAt d p
  let size := x.block d p x.pos
  match writePart d (c.win d) x (w.step key).data (base + w.sheavesOf p j) (base + size) (x.bytes base + j * stepBytes) (stepSize (x.bytes size) j) with
  | .error e => .error e
  | .ok (d1, _) => .ok (d1, c, w.put key { w.step key with written := true })

/-- The key of the next received step whose turn has come, and, in an all-to-all, its sender's position. -/
def Coll.ready (x : Coll) (w : CollWork) : Option (Nat × Nat) :=
  let here := fun key => (w.step key).whole && !(w.step key).written
  if x.op = 0 then if here w.next then some (w.next, 0) else none
  else if x.op = 1 then if 0 < x.pos ∧ here w.next ∧ w.next < x.reduceSteps then some (w.next, 0) else none
  else ((List.range x.ms.length).find? fun p => here (recvKey p (w.writtenOf p))).map fun p => (recvKey p (w.writtenOf p), p)

/-- Forms or writes that step on bay `k`. -/
def Coll.form (x : Coll) (d : Device) (c : Cmd) (w : CollWork) (k p : Nat) : Formed :=
  if x.op = 0 then formBroadcast d c w x else if x.op = 1 then formReduce d c w x k w.next else formBlock d c w x p

/-- The memory that takes part in it. -/
def Coll.formRanges (x : Coll) (d : Device) (w : Win) (v : CollWork) (key p : Nat) : List (Nat × Nat) :=
  let n := (lineSheaves (v.step key).data).length
  let sheaves := fun (first : Nat) => entrySpans d w x.dst (List.range' first n)
  if x.op = 1 then x.reduceRanges d w key
  else if !x.hasDst then []
  else if x.op = 0 then (if x.isSheaf then sheaves v.units else [(x.dst + key * stepBytes, stepSize (x.bytes x.count) key)])
  else
    let j := v.writtenOf p
    if x.isSheaf then sheaves (x.blockAt d p + v.sheavesOf p j)
    else [(x.dst + x.bytes (x.blockAt d p) + j * stepBytes, stepSize (x.bytes (x.block d p x.pos)) j)]

/-- Takes every step whose turn has come, on bay `k`, as far as inbound tokens (R207) and paused rows (R214) allow. -/
def Device.advance (d : Device) (tag k : Nat) : Nat → Device
  | 0 => d
  | n + 1 =>
    match d.cmd tag with
    | none => d
    | some c =>
      match c.coll, c.failure with
      | none, _ => d
      | _, some _ => d
      | some w, none =>
        let x := c.collOf d
        match x.ready w with
        | none => d
        | some (key, p) =>
          let t := d.stepAsk k c w key (x.formRanges d (c.win d) w key p)
          let w1 := w.put key { w.step key with asked := true }
          if !t.2 then t.1
          else
            match x.form t.1 c w1 k p with
            | .error s => if s = csHeld then t.1 else t.1.failColl tag s
            | .ok (d1, c1, w2) => Device.advance (d1.modCmd tag fun _ => { c1 with coll := some w2, progressAt := d1.now }) tag k n

/-! ### What a member has to send -/

/-- The step a key names, and where it goes. -/
def Coll.stepNo (x : Coll) (key : Nat) : Nat := if 2 ≤ x.op then key % 2 ^ 20 else key
def Coll.dest (x : Coll) (key : Nat) : Option Nat :=
  if 2 ≤ x.op then
    let p := key / 2 ^ 20
    if p < x.ms.length ∧ p ≠ x.pos then some (x.dev p) else none
  else if x.last then none else some (x.dev (x.pos + 1))

/-- The step a key names as this member can send it now: nothing where it is not ready, or does not exist. -/
def Coll.offer (x : Coll) (d : Device) (c : Cmd) (w : CollWork) (k key : Nat) : Except Nat (Option Parts) :=
  let rc := c.readCtx d k
  let s := w.step key
  if (x.dest key).isNone then .ok none
  else if s.formed then .ok (some s.out)
  else if x.op = 0 ∧ x.pos = 0 then rootStep d rc.win rc.verify x key
  else if 2 ≤ x.op then
    let p := key / 2 ^ 20
    payloadStep d rc.win rc.verify x (x.blockFrom d p) (x.block d x.pos p) (key % 2 ^ 20)
  else .ok none

/-- The first member of a reduce has still to form the step. -/
def Coll.formsFirst (x : Coll) (w : CollWork) (key : Nat) : Bool := x.op == 1 && x.pos == 0 && decide (key < x.reduceSteps) && !((w.step key).formed)

/-- The step can be sent now. -/
def Coll.due (x : Coll) (d : Device) (c : Cmd) (w : CollWork) (k key : Nat) : Bool :=
  (x.dest key).isSome && !((w.step key).sent) &&
  (x.formsFirst w key || (match x.offer d c w k key with | .ok o => o.isSome | .error _ => true))

/-- The memory that sending the step reads. -/
def Coll.sendRanges (x : Coll) (d : Device) (w : Win) (v : CollWork) (key : Nat) : List (Nat × Nat) :=
  if (v.step key).formed then []
  else if x.op = 1 then x.reduceRanges d w key
  else if x.op = 0 then x.rangeOf d w x.src 0 (if x.isSheaf then (match rawTable d w x.src with | some t => t.count | none => 0) else x.count) key
  else
    let p := key / 2 ^ 20
    x.rangeOf d w x.src (x.blockFrom d p) (x.block d x.pos p) (key % 2 ^ 20)

/-- The message of a STAGE_SEND as parts, each sheaf with its own format code (R265, R285). -/
def stageParts (d : Device) (c : Cmd) (k : Nat) : Except Nat Parts :=
  let n := ent c.entry 0x24 4
  let rc := c.readCtx d k
  if (ent c.entry 0x21 1).testBit 0 then
    match readTable d rc.win (c.addr d 0x28) with
    | .error e => .error e
    | .ok t => tableSheaves d rc.win rc.verify t 0 n
  else match d.read (c.addr d 0x28) n with | .error e => .error e | .ok bs => .ok [(fmtNone, bs)]

/-- Where that message lies. -/
def stageRanges (d : Device) (c : Cmd) : List (Nat × Nat) :=
  let n := ent c.entry 0x24 4
  if (ent c.entry 0x21 1).testBit 0 then entrySpans d (c.win d) (c.addr d 0x28) (List.range n) else [(c.addr d 0x28, n)]

/-- The stream of a stage command, its peer, and this command's turn to send: its slot is granted, its earlier messages are sent (R286). -/
def Cmd.stream (c : Cmd) : Nat := ent c.entry 0x20 1
def Cmd.stagePeer (d : Device) (c : Cmd) : Nat := c.setting d ((0x6200 + c.stream) * 256 + 1)
def Device.sendTurn (d : Device) (c : Cmd) (w : CollWork) : Bool :=
  decide (c.message < (d.streams.get Stream.fresh c.stream).sendCredit) && !((w.step c.message).sent) &&
  d.cmds.all fun o => !(opcodeOf o.entry == 0x31 && o.stream == c.stream && o.message < c.message) || o.failure.isSome ||
    (match o.coll with | some v => (v.step o.message).sent | none => true)

/-- The first key of a member that is unsent and leaves on port `k`, among those that can come next. -/
def Coll.nextKey (x : Coll) (d : Device) (w : CollWork) (k : Nat) : Option Nat :=
  let span := 8 * (w.work.length + 1)
  let fits := fun key => !((w.step key).sent) &&
    (match x.dest key with | some dst => d.planeFor w.planes (x.stepNo key) dst (w.step key).moved == some k | none => false)
  if 2 ≤ x.op then (List.range x.ms.length).findSome? fun p => (List.range span).findSome? fun j => if fits (blockKey p j) then some (blockKey p j) else none
  else (List.range span).find? fits

/-- The command has a step to send on port `k` now (R276). -/
def Device.wantsPort (d : Device) (c : Cmd) (k : Nat) : Bool :=
  match c.coll with
  | none => false
  | some w =>
    if c.failure.isSome || !(d.mayRun c) then false
    else if opcodeOf c.entry = 0x30 then
      let x := c.collOf d
      match x.nextKey d w k with | none => false | some key => x.due d c w k key
    else opcodeOf c.entry == 0x31 && d.sendTurn c w && d.planeFor w.planes c.message (c.stagePeer d) (w.step c.message).moved == some k

/-- A received step of the command waits for a token of port `k`. -/
def Device.stepHeld (d : Device) (c : Cmd) (k : Nat) : Bool :=
  opcodeOf c.entry == 0x30 && c.failure.isNone && d.mayRun c && (d.port k).held.any fun f => f.opId == c.opId && f.packet == 0

/-- The port has a token left for a step of the command after those of the commands that go before it (R276). -/
def Device.portTurn (d : Device) (c : Cmd) (k : Nat) : Bool :=
  decide ((d.cmds.countP fun o => o.tag != c.tag && o.before c && (d.wantsPort o k || d.stepHeld o k)) < (d.port k).tokensFree)

/-! ### When a member is done -/

/-- Steps sent from key `base` on: all of them, and every one ended; `more` says whether a step exists. -/
def sentAll (w : CollWork) (base : Nat) (more : Nat → Bool) : Bool :=
  match (List.range (w.work.length + 1)).find? fun j => !(more (base + j)) with
  | none => false
  | some n => (List.range n).all fun j => (w.step (base + j)).ended

/-- Every frame of the command is sent and acknowledged, everything it receives is written (R277, R278, R282). -/
def Coll.isDone (x : Coll) (d : Device) (c : Cmd) (w : CollWork) : Bool :=
  let exist := fun key => match x.offer d c w 0 key with | .ok o => o.isSome | .error _ => true
  let out := fun (n : Nat) => x.last || (List.range n).all fun j => (w.step j).ended
  if x.ms.length ≤ 1 then true
  else if x.op = 0 then
    if x.pos = 0 then sentAll w 0 exist
    else (match x.expects w with | some n => decide (n ≤ w.units) | none => false) && out w.next
  else if x.op = 1 then w.next == x.reduceSteps && out w.next
  else (List.range x.ms.length).all fun p => p == x.pos ||
    (sentAll w (blockKey p 0) exist &&
      (let size := x.block d p x.pos
       let n := w.writtenOf p
       if x.isSheaf then w.sheavesOf p n == size else n == stepsOf (x.bytes size)))

/-- The member waits for frames of a partner (R289, R335). -/
def Coll.awaitsFrames (x : Coll) (d : Device) (w : CollWork) : Bool :=
  if x.ms.length ≤ 1 then false
  else if x.op = 0 then decide (0 < x.pos) && !((w.step w.next).whole) && (match x.expects w with | some n => decide (w.units < n) | none => true)
  else if x.op = 1 then decide (0 < x.pos) && decide (w.next < x.reduceSteps) && !((w.step w.next).whole)
  else (List.range x.ms.length).any fun p => p != x.pos &&
    (let size := x.block d p x.pos
     let n := w.writtenOf p
     !((w.step (recvKey p n)).whole) && (if x.isSheaf then decide (w.sheavesOf p n < size) else decide (n < stepsOf (x.bytes size))))

/-- A step's own work at a member with no partner, and the local block of an all-to-all (R278, R282). -/
def Device.localWork (d : Device) (tag k : Nat) : Device :=
  match d.cmd tag with
  | none => d
  | some c =>
    if c.coll.isNone then d
    else
      let x := c.collOf d
      if x.op = 1 ∧ x.ms.length ≤ 1 then
        (List.range x.reduceSteps).foldl (fun d _ =>
          match d.cmd tag with
          | none => d
          | some c1 =>
            match c1.coll, c1.failure with
            | some v, none =>
              (match formReduce d c1 v x k v.next with
               | .error s => d.failColl tag s
               | .ok (d1, c2, v1) => d1.modCmd tag fun _ => { c2 with coll := some v1 })
            | _, _ => d) d
      else if x.op < 2 then d
      else if let some e := x.tableFault d then d.failColl tag e
      else if !x.hasDst then d
      else
        let n := x.block d x.pos x.pos
        let src := x.blockFrom d x.pos
        let dst := x.blockAt d x.pos
        if x.isSheaf then
          match readTable d (c.win d) x.src, readTable d (c.win d) x.dst with
          | .ok s, .ok t =>
            (match tableSheaves d (c.win d) (d.bay k).degraded s src n with
             | .error e => d.failColl tag e
             | .ok ps => match putSheaves d (c.win d) t dst ps with | .error e => d.failColl tag e | .ok d1 => d1)
          | .error e, _ => d.failColl tag e
          | _, .error e => d.failColl tag e
        else
          match d.read (x.src + x.bytes src) (x.bytes n) with
          | .error e => d.failColl tag e
          | .ok bs => match d.write (x.dst + x.bytes dst) bs with | .error e => d.failColl tag e | .ok d1 => d1

end Sys2Proof.Machine
end

