-- ==== Sys2Proof/Machine/Transport.lean ====
section
/-! DEFINITION. Sending, receiving and timing of fabric frames, chain-step tokens, stage streams, hellos and links (R262 to R269, R276, R284 to R289, R291). -/

namespace Sys2Proof.Machine

/-! ### Stage streams (R284, R286) -/

def Device.stream (d : Device) (s : Nat) : Stream := d.streams.get Stream.fresh s
def Device.setStream (d : Device) (s : Nat) (x : Stream) : Device := { d with streams := d.streams.put Stream.fresh s x }

/-- Stream `s` receives here, and its stash is configured. -/
def Device.streamReceives (d : Device) (s : Nat) : Bool :=
  let o := d.streamObj s
  o 1 != 0xFF && o 2 == 0 && o 3 != 0 && o 4 != 0 && o 5 != 0

/-- Messages of stream `s` the sender may have started and has not been told of. -/
def Device.streamOwed (d : Device) (s : Nat) : Nat :=
  if d.streamReceives s then d.streamObj s 5 + (d.stream s).released - (d.stream s).granted else 0

/-- Grants a stream's messages to its sender, from the first port that reaches it (R286). -/
def Device.grantStream (d : Device) (s : Nat) : Device :=
  let n := d.streamOwed s
  let peer := d.streamObj s 1
  if n = 0 then d
  else
    match (List.range 8).find? fun k => d.reaches k peer with
    | none => d
    | some k =>
      (d.setStream s { d.stream s with granted := (d.stream s).granted + n }).send k
        { d.frame k ftGrant peer with opId := 0x80000000 + s, credits := n }

/-- Grants what is owed on every stream from device `dev`. -/
def Device.grantStreamsTo (d : Device) (dev : Nat) : Device :=
  (List.range 256).foldl (fun d s => if d.streamObj s 1 = dev then d.grantStream s else d) d

/-- What has arrived of message `m`. -/
def Stream.of (x : Stream) (m : Nat) : Arrival := x.arrived.get Arrival.none m
def Stream.set (x : Stream) (m : Nat) (a : Arrival) : Stream := { x with arrived := x.arrived.put Arrival.none m a }

/-- The oldest message from `claimed` on that no STAGE_RECV has claimed or failed with. -/
def Stream.front (x : Stream) : Nat :=
  ((List.range' x.claimed (x.arrived.length + 1)).find? fun m => !((x.of m).gone)).getD x.claimed

/-- Releases the `n` oldest held messages; a message that could not be taken gives its slot back with those before it (R286). -/
def Stream.release (x : Stream) : Nat → Nat → Stream
  | 0, _ => x
  | fuel + 1, n =>
    if x.claimed ≤ x.released then x
    else if (x.of x.released).gone then Stream.release { (x.set x.released Arrival.none) with released := x.released + 1 } fuel n
    else match n with
      | 0 => x
      | n + 1 => Stream.release { x with released := x.released + 1 } fuel n

/-- The tag under which a port keeps the chain-step tokens of a stream's received messages, which may have no command yet. -/
def streamTag (s : Nat) : Nat := 2 ^ 16 + s

/-- Tells the sender of a stream that message `m` cannot be taken. -/
def Device.abortStream (d : Device) (k s m dst : Nat) : Device := d.send k { d.frame k ftAbort dst with opId := 0x80000000 + s, step := m }

/-- The STAGE_RECV in flight that message `m` of a stream belongs to: they take the messages in order (R286). -/
def Device.receiverOf (d : Device) (s m : Nat) : Option Cmd :=
  let x := d.stream s
  (d.cmds.filter fun c => opcodeOf c.entry == 0x32 && c.stream == s && c.failure.isNone)[(List.range' x.claimed (m - x.claimed)).countP fun i => !((x.of i).gone)]?

/-- The tokens of a received message return to their ports. -/
def Device.dropStream (d : Device) (s m : Nat) : Device := (List.range 8).foldl (fun d i => d.modPort i fun p => p.returnToken (streamTag s) m false) d

/-- The STAGE_RECV that a frame of device `src` is for makes progress, and has heard of it. -/
def Device.streamHeard (d : Device) (s m src : Nat) : Device :=
  match d.receiverOf s m with
  | some c => d.modCmd c.tag fun c => { c with progressAt := d.now, coll := c.coll.map fun w => { w with heard := some (d.now, src) } }
  | none => d

/-- Message `m` of stream `s` cannot be taken: the STAGE_RECV it belongs to fails, now or when it comes to it (R269, R286, R289). -/
def Device.voidMessage (d : Device) (s m status : Nat) : Device :=
  let x := d.stream s
  if m < x.claimed ∨ (x.of m).whole ∨ (x.of m).void ≠ 0 then d
  else
    let d := d.dropStream s m
    let put := fun (d : Device) (gone : Bool) => d.setStream s ((d.stream s).set m { Arrival.none with void := status, gone := gone })
    match d.receiverOf s m with
    | some c => if d.mayRun c then (put d true).failWith c.tag status else put d false
    | none => put d false

/-- What becomes of a delivered frame: it waits in the receive buffer, or its slot is freed. -/
abbrev Taken := Device × Bool

/-- A delivered frame of stream `s` goes to its message's slot (R286): message `m` is a step that holds a token of its port (R276), and writes to another bay take inbound tokens (R207). Each sheaf's check is verified when its last byte has arrived (R269); a message that outgrows its slot, or that fails a check, is not taken. -/
def Device.streamFrame (d : Device) (k s : Nat) (f : Frame) : Taken :=
  let x := d.stream s
  let m := f.step
  let a := x.of m
  let size := d.streamObj s 4
  let base := d.streamObj s 3 + size * (m % max 1 (d.streamObj s 5))
  let p := d.port k
  let has := p.hasToken (streamTag s) m false
  let refuse := fun (d : Device) (status : Nat) => ((d.voidMessage s m status).abortStream k s m f.src, true)
  if !(d.streamReceives s) || d.streamObj s 1 != f.src || x.granted ≤ m || m < x.claimed || a.whole || a.void != 0 then (d, true)
  else if f.packet = 0 ∧ !has ∧ p.tokensFree = 0 then (d, false)
  else if f.packet ≠ 0 ∧ !has then (d, decide (0 < a.packets))
  else if f.packet ≠ 0 ∧ f.packet ≠ a.packets then (d, true)
  else
    let d0 := if has then d else (d.dropStream s m).modPort k fun p => p.takeToken (streamTag s) m false
    let a0 := if f.packet = 0 then { Arrival.none with asked := a.asked } else a
    let n := a0.bytes + f.payload.length
    let rs := [(base + a0.bytes, f.payload.length)]
    let t := d0.crossAsk k (streamTag s) m a0.asked ⟨0, 0, 0, 0⟩ rs
    if size < n then refuse d0 csFabric
    else if !t.2 then (t.1.setStream s (x.set m { a0 with asked := true }), false)
    else
      match t.1.write (base + a0.bytes) f.payload with
      | .error e => if e = csHeld then (t.1.setStream s (x.set m { a0 with asked := true }), false) else refuse t.1 e
      | .ok d1 =>
        let sheaf := isSheafFmt f.content
        let ends := sheaf && (f.content != 0x18 || f.last || decide (16448 ≤ n - a0.part))
        let ok := !ends || (match d1.read (base + a0.part) (n - a0.part) with | .ok bs => lineSheafOk (f.content, bs) | .error _ => false)
        if !ok then refuse d1 csCheck
        else
          let a1 := { a0 with bytes := n, packets := f.packet + 1, part := if ends || !sheaf then n else a0.part, whole := f.last, asked := false }
          let d2 := (d1.setStream s (x.set m a1)).streamHeard s m f.src
          (if f.last then d2.dropStream s m else d2, true)

/-! ### Frames of a collective (R269, R272, R273, R276, R282, R283) -/

/-- Steps that a block of `size` units can have at most: at least three sheaves, or 65,536 bytes, make one. -/
def Coll.blockSteps (x : Coll) (size : Nat) : Nat := if x.isSheaf then ceilDiv size 3 else stepsOf (x.bytes size)

/-- The length of the first frame of step `j` of a block of `size` units, where it is known. -/
def Coll.firstLength (x : Coll) (size j : Nat) : Option Nat := if x.isSheaf then none else some (min 8192 (roundUp (stepSize (x.bytes size) j) 4))

/-- The key of a frame's step at this member; none where the frame cannot belong to the operation as this member sees it (R272, R273, R282, R283). -/
def Coll.keyOf (x : Coll) (d : Device) (f : Frame) : Option Nat :=
  if x.ms.length ≤ 1 ∨ f.digest ≠ groupDigest x.ms then none
  else if x.op ≤ 1 then
    if x.pos = 0 ∨ f.src ≠ x.dev (x.pos - 1) ∨ (x.op = 1 ∧ x.reduceSteps ≤ f.step) then none
    else if x.op = 0 ∧ isSheafFmt f.content ≠ x.isSheaf ∧ f.content ≠ fmtNone then none else some f.step
  else
    match x.ms.findIdx? fun e => memberDev e == f.src with
    | none => none
    | some p =>
      let size := x.block d p x.pos
      if p = x.pos ∨ size = 0 ∨ isSheafFmt f.content ≠ x.isSheaf then none
      else if f.packet ≠ 0 then (if x.blockSteps size ≤ f.step then none else some (recvKey p f.step))
      else
        let j := if f.step = size then 0 else f.step
        if f.step = 0 ∨ x.blockSteps size ≤ j ∨ (x.firstLength size j).any (· != f.payload.length) then none else some (recvKey p j)

/-- Frames of the same step that came before this one wait in the port's receive buffer. -/
def Device.heldFirst (d : Device) (k : Nat) (f : Frame) : Bool :=
  (d.port k).held.any fun h => h.opId == f.opId && h.src == f.src && h.packet == 0

/-- A frame of a collective that this member takes part in and that runs: it joins its step, which holds a token of the port (R276); each sheaf's check is verified when its last byte has arrived (R269). -/
def Device.collFrame (d : Device) (k : Nat) (f : Frame) (c : Cmd) (w : CollWork) : Taken :=
  let x := c.collOf d
  match x.keyOf d f with
  | none => (d.failFabric c.tag k, true)
  | some key =>
    let s := w.step key
    let has := (d.port k).hasToken c.tag key false
    if s.whole then (d, true)
    else if f.packet = 0 ∧ !has ∧ !(d.portTurn c k) then (d, false)
    else if f.packet ≠ 0 ∧ !has then
      (if 0 < s.packets then (d, true) else if d.heldFirst k f then (d, false) else (d.failFabric c.tag k, true))
    else if f.packet ≠ 0 ∧ f.packet ≠ s.packets then (d, true)
    else
      let d1 := if has then d
        else ((List.range 8).foldl (fun d i => d.modPort i fun p => p.returnToken c.tag key false) d).modPort k fun p => p.takeToken c.tag key false
      let data := (if f.packet = 0 then [] else s.data) ++ [(f.content, f.payload)]
      let s1 := { s with data := data, packets := f.packet + 1, flags := (if f.packet = 0 then 0 else s.flags) ||| f.flags, whole := f.last }
      let s2 := if f.last ∧ x.op = 0 ∧ !x.last then { s1 with out := data, formed := true } else s1
      let d2 := (d1.setColl c.tag { w.put key s2 with heard := some (d.now, f.src) }).modCmd c.tag fun c => { c with flags := c.flags ||| ownFlags f.flags }
      if lineBad data f.last then (d2.failCheck c.tag, true)
      else if f.last then (d2.advance c.tag k (w.work.length + 2), true)
      else (d2, true)

/-- The words of a beacon payload after its header (R339). -/
def beaconFrame (d : Device) (f : Frame) : BeaconFrame :=
  let n := bytesNat f.payload 2 2
  ⟨f.src, f.step, bytesNat f.payload 0 2, n, (List.range n).map fun i => BitVec.ofNat 64 (bytesNat f.payload (16 + 8 * i) 8), d.now⟩

/-- A delivered frame is taken by its operation, or waits for it (R276; notes/assumptions/18). A size table that cannot be used fails the operation (R283). -/
def Device.takeFrame (d : Device) (k : Nat) (f : Frame) : Taken :=
  if f.opId = 0xFFFFFFFF then
    (d.withSafety fun s => { s with beacon := { s.beacon with frames := s.beacon.frames ++ [beaconFrame d f] } }, true)
  else if 2 ^ 31 ≤ f.opId then (if f.opId - 2 ^ 31 < 256 then d.streamFrame k (f.opId - 2 ^ 31) f else (d, true))
  else
    match d.cmds.find? fun c => opcodeOf c.entry == 0x30 && c.opId == f.opId with
    | none => (d, false)
    | some c =>
      match c.coll, c.failure with
      | _, some _ => (d, true)
      | none, _ => (d, true)
      | some w, none =>
        if !(d.mayRun c) then (d, false)
        else
          match (c.collOf d).tableFault d with
          | some e => if e = csHeld then (d, false) else (d.failColl c.tag e, true)
          | none => d.collFrame k f c w

/-- Takes what can be taken of a list of delivered frames; those that wait are kept. -/
def Device.takeFrames (d : Device) (k : Nat) : List Frame → Device × List Frame
  | [] => (d, [])
  | f :: r =>
    let t := d.takeFrame k f
    let d1 := if t.2 then t.1.modPort k (·.free f) else t.1
    let u := Device.takeFrames d1 k r
    (u.1, if t.2 then u.2 else f :: u.2)

/-- Received steps that waited for inbound tokens or a paused row are taken up again (R207, R214). -/
def Device.advanceAll (d : Device) (k : Nat) : Device :=
  d.cmds.foldl (fun d c => if opcodeOf c.entry = 0x30 then (match c.coll with | some w => d.advance c.tag k (w.work.length + 2) | none => d) else d) d

/-- The frames in a port's receive buffer are offered to their operations again. -/
def Device.consume (d : Device) (k : Nat) : Device :=
  let u := d.takeFrames k (d.port k).held
  u.1.modPort k fun p => { p with held := u.2 }

/-! ### Chain steps (R274 to R276, R289) -/

/-- A step leaves on port `k`: it takes a token, and its frames join the port's queue. -/
def Device.sendStep (d : Device) (k : Nat) (c : Cmd) (w : CollWork) (key dst first : Nat) (base : Frame) (ps : Parts) : Device :=
  let d1 := (d.setColl c.tag (w.put key { w.step key with sent := true, ended := false, moved := false })).modPort k fun p => p.takeToken c.tag key true
  let fs := framesOf { base with type := ftData, dst := dst, opId := c.opId } first ps
  (d1.modPort k fun p => { p with queue := p.queue ++ fs }).pump k

/-- A collective sends the step that `key` names: from the port of its plane, when the port has a token for it and its reads of other bays have theirs. -/
def Device.collSend (d : Device) (k : Nat) (c : Cmd) (w : CollWork) (key : Nat) : Device :=
  let x := c.collOf d
  if x.ms.length ≤ 1 then d
  else
    match x.tableFault d, x.dest key with
    | some e, _ => d.failColl c.tag e
    | none, none => d
    | none, some dst =>
      if !(x.due d c w k key) then d
      else
        match d.planeFor w.planes (x.stepNo key) dst (w.step key).moved with
        | none => d.failFabric c.tag 0xFF
        | some p =>
          if p ≠ k ∨ !(d.portTurn c k) then d
          else
            let t := d.stepAsk k c w key (x.sendRanges d (c.win d) w key)
            if !t.2 then t.1
            else
              match if x.formsFirst w key then formReduce t.1 c w x k key else .ok (t.1, c, w) with
              | .error s => d.failColl c.tag s
              | .ok (d1, c1, w1) =>
                match x.offer d1 c1 w1 k key with
                | .error s => d.failColl c.tag s
                | .ok none => d
                | .ok (some ps) =>
                  let j := x.stepNo key
                  let first := if 2 ≤ x.op ∧ j = 0 then x.block d x.pos (key / 2 ^ 20) else j
                  (d1.modCmd c.tag fun _ => c1).sendStep k c1 w1 key dst first
                    { d1.frame k ftData dst with step := j, content := x.code, flags := (w1.step key).flags, digest := groupDigest x.ms } ps

/-- A STAGE_SEND starts its message once its slot is granted (R286). -/
def Device.stageSend (d : Device) (k : Nat) (c : Cmd) (w : CollWork) : Device :=
  if !(d.sendTurn c w) then d
  else
    match d.planeFor w.planes c.message (c.stagePeer d) (w.step c.message).moved with
    | none => d.failFabric c.tag 0xFF
    | some p =>
      if p ≠ k ∨ !(d.portTurn c k) then d
      else
        let t := d.stepAsk k c w c.message (stageRanges d c)
        if !t.2 then t.1
        else
          match stageParts t.1 c k with
          | .error s => d.failColl c.tag s
          | .ok ps => t.1.sendStep k c w c.message (c.stagePeer d) c.message { d.frame k ftData 0 with step := c.message, content := fmtNone } ps

/-- Earlier STAGE_RECVs of the stream that still have to release, or to claim. -/
def Device.recvFirst (d : Device) (c : Cmd) (released : Bool) : Bool :=
  d.cmds.all fun o => !(opcodeOf o.entry == 0x32 && o.stream == c.stream && o.order < c.order) ||
    (released && (match o.coll with | some v => v.next == 1 | none => true))

/-- A STAGE_RECV releases the oldest held messages up to its release count, and grants their slots (R286). -/
def Device.stageRelease (d : Device) (c : Cmd) (w : CollWork) : Device :=
  if w.next ≠ 0 ∨ !(d.recvFirst c true) then d
  else
    let s := c.stream
    let x := d.stream s
    ((d.setStream s (x.release (x.claimed - x.released + 1) (ent c.entry 0x22 2))).setColl c.tag { w with next := 1 }).grantStream s

/-- CHAIN_STEP_START: frames and steps that waited are taken, then the step starts if the port is its own. What the bay's paths and buffers find in it is handled first (R326). -/
def Device.stepStartNow (d0 : Device) (k tag key : Nat) (found : List Detected) : Device :=
  let d := ((d0.consume k).advanceAll k).grantOwed k
  match d.cmd tag with
  | none => d
  | some c =>
    match c.coll, c.failure with
    | some w, none =>
      if !(d.mayRun c) || d.power.powerState != 0 || d.struck tag then d
      else
        let d1 := d.detectAll k 0xFFFF tag (pathsOnly found)
        if fatal (pathsOnly found) then d1
        else if opcodeOf c.entry = 0x30 then d1.collSend k c w key
        else if opcodeOf c.entry = 0x31 then d1.stageSend k c w
        else d1.stageRelease c w
    | _, _ => d

/-- The same where no access of it meets a paused row (R214). -/
def Device.stepStart (d : Device) (k tag key : Nat) (found : List Detected) : Device := d.whole fun d => d.stepStartNow k tag key found

def execChainStepStart (port : Fin 8) (tag : Nat) (x : StepStart) (s : State) : Host.Outcome State Fault Refusal :=
  .next { s with dev := s.dev.stepStart port.val tag x.step x.found }

/-- A frame belongs to the step that `key` names at its sender. -/
def Cmd.ownsFrame (d : Device) (c : Cmd) (key : Nat) (f : Frame) : Bool :=
  if f.opId ≠ c.opId ∨ f.type ≠ ftData then false
  else if opcodeOf c.entry = 0x30 then
    let x := c.collOf d
    let j := x.stepNo key
    x.dest key == some f.dst &&
      (if 2 ≤ x.op ∧ f.packet = 0 then f.step == (if j = 0 then x.block d x.pos (key / 2 ^ 20) else j) else f.step == j)
  else f.step == key

/-- Frames of a step that port `k` has still to send or to see acknowledged. -/
def Device.stepOpen (d : Device) (k : Nat) (c : Cmd) (key : Nat) : Bool :=
  let p := d.port k
  p.queue.any (c.ownsFrame d key) || p.peers.any fun x => x.2.kept.any fun y => c.ownsFrame d key y.frame

/-- CHAIN_STEP_END: the token returns once the last frame is acknowledged and the combination is written (R276). -/
def Device.stepEnd (d : Device) (k tag key : Nat) : Device :=
  match d.cmd tag with
  | none => d
  | some c =>
    match c.coll with
    | none => d
    | some w =>
      let p := d.port k
      if p.hasToken tag key true && !(d.stepOpen k c key) then
        (d.modPort k fun p => p.returnToken tag key true).setColl tag (w.put key { w.step key with ended := true })
      else if p.hasToken tag key false && (w.step key).written then d.modPort k fun p => p.returnToken tag key false
      else d

def execChainStepEnd (port : Fin 8) (tag step : Nat) (s : State) : Host.Outcome State Fault Refusal :=
  .next { s with dev := s.dev.stepEnd port.val tag step }

/-! ### A plane lost (R289) -/

/-- Every step of this device with frames open on port `k` toward `dst` is to be sent again from its start, on another plane. -/
def Device.moveSteps (d : Device) (k dst : Nat) : Device :=
  let open' := (d.port k).tokens.filter fun t => t.sending &&
    (match d.cmd t.tag with
     | some c => (d.port k).queue.any (fun f => f.dst == dst && c.ownsFrame d t.step f) ||
                 ((d.port k).peer dst).kept.any (fun y => c.ownsFrame d t.step y.frame)
     | none => false)
  let d1 := open'.foldl (fun d t =>
    match d.cmd t.tag with
    | none => d
    | some c =>
      (d.modPort k fun p => p.returnToken t.tag t.step true).modCmd t.tag fun c' =>
        { c' with coll := c.coll.map fun w => w.put t.step { w.step t.step with sent := false, ended := false, moved := true } }) d
  d1.modPort k fun p =>
    { (p.setPeer dst { p.peer dst with kept := [] }) with queue := p.queue.filter fun f => f.dst != dst || f.type != ftData }

/-- Object 0x8060:05 counts a lost plane, and the log records it (R289, R366). -/
def Device.planeEvent (d : Device) (k dst : Nat) : Device :=
  (d.count 0x806005 1).logEvent { type := 0x0A, bay := k, detail := leBytes 1 k ++ leBytes 1 dst ++ leBytes 1 0 }

/-- The plane becomes unusable toward `dst` (R267). -/
def Device.planeLost (d : Device) (k dst : Nat) : Device :=
  ((d.moveSteps k dst).modPort k fun p => p.setPeer dst { p.peer dst with unusable := true }).planeEvent k dst

/-! ### Resending (R267) -/

/-- `a` is not after `b` among sequence numbers. -/
def seqLe (a b : Nat) : Bool := decide (signed 32 (a + 2 ^ 32 - b) ≤ 0)

/-- The kept frames from sequence `seq` on leave again; the plane is lost where one of them has been sent five times. -/
def Device.resend (d : Device) (k dst seq : Nat) : Device :=
  let p := d.port k
  let x := p.peer dst
  let again := x.kept.filter fun y => seqLe seq y.frame.seq
  if again.isEmpty || p.state != 2 || p.paused d.now p.lossPrio then d
  else if again.any fun y => 5 ≤ y.sends then d.planeLost k dst
  else
    let kept := x.kept.map fun y => if seqLe seq y.frame.seq then { y with sends := y.sends + 1, sentAt := d.now } else y
    (d.modPort k fun p => (again.foldl (fun p y => p.emit k y.frame) p).setPeer dst { x with kept := kept }).count 0x806002 again.length

/-- RETRY_TIMEOUT (R267). -/
def Device.retry (d : Device) (k dst : Nat) : Device :=
  match ((d.port k).peer dst).kept with
  | [] => d
  | y :: _ => if d.now < y.sentAt + (d.port k).retryNs then d else d.resend k dst y.frame.seq

def execRetryTimeout (port : Fin 8) (dst : Fin 64) (s : State) : Host.Outcome State Fault Refusal :=
  .next { s with dev := s.dev.retry port.val dst.val }

/-! ### Receiving -/

/-- What the layers below and the header leave of a received frame for this device (R261, R262, R265, R266). A frame whose FCS, checksum or trailer fails, or that R262 bars, is discarded and counted; one with another hop limit, version or address is discarded. A control frame other than a hello takes a control slot and frees it (R268). -/
def Device.receive (d : Device) (k type : Nat) (r : RxFrame) : Device × Option Frame :=
  let p := d.port k
  if !(p.state == 2 || p.state == 3) then (d, none)
  else if !r.fcsOk || !r.udpOk || !r.portOk || !r.plain || trailerBad r.bytes then (d.count 0x806003 1, none)
  else
    match parseFrame r.bytes with
    | none => (d, none)
    | some f =>
      if f.type ≠ type ∨ r.hop ≠ 1 ∨ 64 ≤ f.src ∨ f.dst ≠ (if type = ftHello then 0xFF else p.devNum) then (d, none)
      else if type = ftHello ∨ type = ftData then (d, some f)
      else if p.ctrlFree = 0 then (d, none)
      else (d.modPort k fun p => p.ctrlTaken f.src (f.returns && f.type == ftGrant && lossOf f.credits == 0), some f)

/-- An acknowledgement of all frames of `src` accepted so far leaves, with the credits owed to it, unless one waits to leave already (R267, R268). -/
def Device.ack (d : Device) (k src : Nat) : Device :=
  if (d.port k).queue.any fun f => f.dst == src && f.type == ftAck then d.pump k else d.send k (d.frame k ftAck src)

/-- A negative acknowledgement left less than 2 µs ago (R267). -/
def Peer.nakRecent (x : Peer) (now : Nat) : Bool := match x.lastNak with | some t => decide (now < t + 2000) | none => false

/-- The command a data frame belongs to, or 0xFFFF. -/
def Device.frameTag (d : Device) (f : Frame) : Nat :=
  match d.cmds.find? fun c => opcodeOf c.entry == 0x30 && c.opId == f.opId with | some c => c.tag | none => 0xFFFF

/-- DATA_FRAME_RECEIVE (R267). A frame in which the bay's paths or buffers find an error is not accepted, and comes again (R326, R328). -/
def Device.dataFrame (d0 : Device) (k : Nat) (r : RxFrame) (found : List Detected) : Device :=
  match d0.receive k ftData r with
  | (d, none) => d
  | (d, some f) =>
    let x := (d.port k).peer f.src
    let dist := signed 32 (f.seq + 2 ^ 32 - x.expect)
    if dist < 0 then (d.count 0x806003 1).ack k f.src
    else if 0 < dist then
      if x.nakRecent d.now then d
      else
        ((d.modPort k fun p => p.setPeer f.src { p.peer f.src with lastNak := some d.now }).send k
          { d.frame k ftNak f.src with ackSeq := x.expect }).count 0x806004 1
    else if (d.port k).lossFree = 0 then d
    else
      let dd := d.detectAll k 0xFFFF (d.frameTag f) (pathsOnly found)
      if fatal (pathsOnly found) then dd
      else
        let d1 := dd.modPort k fun p =>
          { (p.setPeer f.src { x with expect := (x.expect + 1) % 2 ^ 32 }) with lossFree := p.lossFree - 1, held := p.held ++ [f] }
        ((d1.consume k).ack k f.src).grantOwed k

def execDataFrameReceive (port : Fin 8) (x : RxData) (s : State) : Host.Outcome State Fault Refusal :=
  .next { s with dev := s.dev.dataFrame port.val x.frame x.found }

/-- Commands whose frames a partner has acknowledged or granted make progress, and have heard of it. -/
def Device.progress (d : Device) (src : Nat) (fs : List Frame) : Device :=
  { d with cmds := d.cmds.map fun c =>
      if isFabricOp (opcodeOf c.entry) && fs.any (fun f => f.opId == c.opId) then
        { c with progressAt := d.now, coll := c.coll.map fun w => { w with heard := some (d.now, src) } } else c }

/-- Credits that a frame of `src` returns (R268). -/
def Device.credited (d : Device) (k src n : Nat) : Device :=
  d.modPort k fun p =>
    let x := p.peer src
    p.setPeer src { x with credits := min 512 (x.credits + lossOf n), ctrlCredits := min 128 (x.ctrlCredits + ctrlOf n) }

/-- ACK_RECEIVE (R267, R268). -/
def Device.ackFrame (d0 : Device) (k : Nat) (r : RxFrame) : Device :=
  match d0.receive k ftAck r with
  | (d, none) => d
  | (d, some f) =>
    let x := (d.port k).peer f.src
    let done := x.kept.filter fun y => seqLe y.frame.seq f.ackSeq
    let d1 := (d.modPort k fun p => p.setPeer f.src { x with kept := x.kept.filter fun y => !(seqLe y.frame.seq f.ackSeq) }).credited k f.src f.credits
    ((d1.progress f.src (done.map (·.frame))).pump k).grantOwed k

def execAckReceive (port : Fin 8) (f : RxFrame) (s : State) : Host.Outcome State Fault Refusal := .next { s with dev := s.dev.ackFrame port.val f }

/-- NAK_RECEIVE (R267). -/
def Device.nakFrame (d0 : Device) (k : Nat) (r : RxFrame) : Device :=
  match d0.receive k ftNak r with
  | (d, none) => d
  | (d, some f) => (d.resend k f.src f.ackSeq).grantOwed k

def execNakReceive (port : Fin 8) (f : RxFrame) (s : State) : Host.Outcome State Fault Refusal := .next { s with dev := s.dev.nakFrame port.val f }

/-- CREDIT_GRANT_RECEIVE (R268, R286): credits of the port, or messages of a stage stream. -/
def Device.grantFrame (d0 : Device) (k : Nat) (r : RxFrame) : Device :=
  match d0.receive k ftGrant r with
  | (d, none) => d
  | (d, some f) =>
    if 2 ^ 31 ≤ f.opId then
      let s := f.opId - 2 ^ 31
      (if s < 256 ∧ d.streamObj s 2 = 1 ∧ d.streamObj s 1 = f.src then
        (d.setStream s { d.stream s with sendCredit := (d.stream s).sendCredit + f.credits }).progress f.src [f]
      else d).grantOwed k
    else ((d.credited k f.src f.credits).pump k).grantOwed k

def execCreditGrantReceive (port : Fin 8) (f : RxFrame) (s : State) : Host.Outcome State Fault Refusal :=
  .next { s with dev := s.dev.grantFrame port.val f }

/-! ### Hellos and links (R264, R267, R289, R291) -/

/-- More than 1 s has passed since a hello. -/
def silent (now : Nat) (last : Option Nat) : Bool := match last with | some t => decide (t + 1000000000 < now) | none => true

/-- Every credit of a port's buffer is free, or its frame is held (R290). -/
def Device.creditsOk (d : Device) (k : Nat) : Bool := (d.port k).lossFree + (d.port k).held.length == 512 && (d.port k).ctrlFree == 128

/-- The audit of a port's credits after a link retrain (R258, R290). -/
def Device.auditCredits (d : Device) (k : Nat) : Device :=
  if d.creditsOk k || d.bayOut k then d else d.bayDetected k 0x05 13 0xFFFF []

/-- A source is heard of for the first time, after more than 1 s of silence, or after its link was retrained: numbering and credits start again, frames not yet acknowledged are numbered and sent again (R267, R290). -/
def Device.restartPeer (d : Device) (k src ups : Nat) : Device :=
  let p := d.port k
  let x := p.peer src
  let p1 := p.setPeer src { p.freshPeer src with lastHello := some d.now, ups := some ups }
  let d1 := (d.setPort k { p1 with queue := x.kept.map (·.frame) ++ p.queue }).pump k
  ((d1.grantStreamsTo src).grantOwed k).auditCredits k

/-- HELLO_RECEIVE. -/
def Device.helloFrame (d0 : Device) (k : Nat) (r : RxFrame) : Device :=
  match d0.receive k ftHello r with
  | (d, none) => d
  | (d, some f) =>
    let p := d.port k
    if f.src = p.devNum then
      if r.srcMac = fabricMacOf k p.devNum then d
      else
        let d1 := d.modPort k fun p => { p with state := 3, dupMac := r.srcMac, dupAt := d.now }
        let both := leBytes 6 (fabricMacOf k p.devNum).toNat ++ leBytes 6 r.srcMac.toNat
        if p.state = 3 then d1 else d1.logEvent { type := 0x0A, bay := k, detail := leBytes 1 k ++ leBytes 1 f.src ++ leBytes 1 1 ++ both }
    else
      let x := p.peer f.src
      if silent d.now x.lastHello || (x.ups.isSome && x.ups != some f.step) then d.restartPeer k f.src f.step
      else d.modPort k fun p => p.setPeer f.src { x with lastHello := some d.now, ups := some f.step }

def execHelloReceive (port : Fin 8) (f : RxFrame) (s : State) : Host.Outcome State Fault Refusal :=
  .next { s with dev := s.dev.helloFrame port.val f }

/-- HELLO_TIMER: due 100 ms after the last hello sent. -/
def Device.helloTick (d : Device) (k : Nat) : Device :=
  let p := d.port k
  if (p.state = 2 ∨ p.state = 3) ∧ p.helloAt + 100000000 ≤ d.now then
    (((d.modPort k fun p => { p with helloAt := d.now }).hello k).pump k).returnCredits k true
  else d

def execHelloTimer (port : Fin 8) (s : State) : Host.Outcome State Fault Refusal := .next { s with dev := s.dev.helloTick port.val }

/-- HELLO_SILENCE_TIMEOUT: the next hello of a source silent for more than 1 s counts as its first; a duplicate silent as long is gone (notes/assumptions/18). -/
def Device.helloSilence (d : Device) (k src : Nat) : Device :=
  let p := d.port k
  if p.state = 3 ∧ src = p.devNum ∧ p.dupAt + 1000000000 < d.now then d.modPort k fun p => { p with state := 2 }
  else if silent d.now (p.peer src).lastHello then d.modPort k fun p => p.setPeer src { p.peer src with lastHello := none }
  else d

def execHelloSilenceTimeout (port : Fin 8) (src : Fin 64) (s : State) : Host.Outcome State Fault Refusal :=
  .next { s with dev := s.dev.helloSilence port.val src.val }

/-- NEIGHBOR_SOLICITATION (R262). -/
def Device.solicited (d : Device) (k : Nat) (target : BitVec 128) : Device :=
  let p := d.port k
  if p.state = 2 ∧ target = fabricIp p.sysTop k p.devNum then d.modPort k fun p => { p with adverts := target :: p.adverts } else d

def execNeighborSolicitation (port : Fin 8) (target : BitVec 128) (s : State) : Host.Outcome State Fault Refusal :=
  .next { s with dev := s.dev.solicited port.val target }

/-- PFC_FRAME_RECEIVE (R264): each priority the frame names is paused for its own time, or goes on where that is 0; the others are as they were. -/
def Device.pfc (d : Device) (k : Nat) (mask : Byte) (ns : List Nat) : Device :=
  if (d.port k).state = 2 then
    (d.modPort k fun p => { p with pausedUntil := p.pausedUntil.zipIdx.map fun (t, i) => if mask.toNat.testBit i then d.now + ns.getD i 0 else t }).pump k
  else d

def execPfcFrameReceive (port : Fin 8) (mask : Byte) (pauseNs : List Nat) (s : State) : Host.Outcome State Fault Refusal :=
  .next { s with dev := s.dev.pfc port.val mask pauseNs }

/-- FABRIC_LINK_UP (R264, R268, R290, R291): the settings written since the last link-up apply, credits and numbering start afresh, a hello leaves, and the port's credits are audited. -/
def Device.linkUp (d : Device) (k : Nat) : Device :=
  let p := d.port k
  if 1 < p.state ∨ !d.isReady ∨ d.power.powerState ≠ 0 ∨ (d.bay k).closed then d
  else
    ((d.setPort k { Port.fresh with
        state := 2, devNum := d.setting 0x600001, sysTop := d.setting 0x600002 / 2 ^ 16, lossPrio := d.setting 0x600003, ctrlPrio := d.setting 0x600004,
        retryNs := d.setting 0x600005, vlan := d.setting 0x600006, helloAt := d.now, ups := p.ups + 1, sent := p.sent, adverts := p.adverts,
        held := p.held, lossFree := p.lossFree, peers := p.held.foldl (fun m f => m.put Peer.fresh f.src (p.freshPeer f.src)) [] }).hello k).auditCredits k

def execFabricLinkUp (port : Fin 8) (s : State) : Host.Outcome State Fault Refusal := .next { s with dev := s.dev.linkUp port.val }

/-- A port's link is gone: its open steps move to other planes; the frames it has accepted stay in its receive buffer (R268, R289). -/
def Device.portDown (d : Device) (k state : Nat) : Device :=
  let d1 := ((d.port k).peers.map (·.1)).foldl (fun d dst => d.moveSteps k dst) d
  let d2 := ((d1.port k).queue.map (·.dst)).foldl (fun d dst => d.moveSteps k dst) d1
  d2.modPort k fun p => { p with state := state, peers := [], queue := [], tokens := [], tokensFree := 16 }

/-- FABRIC_LINK_DOWN: the port trains its link again (R291; notes/assumptions/18). -/
def Device.linkDown (d : Device) (k : Nat) : Device :=
  let s := (d.port k).state
  if s = 2 ∨ s = 3 then (d.portDown k 1).planeEvent k 0xFF else d

def execFabricLinkDown (port : Fin 8) (s : State) : Host.Outcome State Fault Refusal := .next { s with dev := s.dev.linkDown port.val }

/-! ### Aborts and late partners (R289) -/

/-- The command that an abort names: a collective, or the STAGE_SEND of the message in its step field (notes/assumptions/18). -/
def Device.opCmd (d : Device) (op step : Nat) : Option Cmd :=
  d.cmds.find? fun c => c.failure.isNone && c.opId == op && (opcodeOf c.entry == 0x30 || (opcodeOf c.entry == 0x31 && c.message == step))

/-- ABORT_RECEIVE. -/
def Device.abortFrame (d0 : Device) (k : Nat) (r : RxFrame) : Device :=
  match d0.receive k ftAbort r with
  | (d, none) => d
  | (d, some f) =>
    let s := f.opId - 2 ^ 31
    (if 2 ^ 31 ≤ f.opId ∧ s < 256 ∧ d.streamReceives s ∧ d.streamObj s 1 = f.src then d.voidMessage s f.step csFabric
     else match d.opCmd f.opId f.step with | some c => d.failFabric c.tag k | none => d).grantOwed k

def execAbortReceive (port : Fin 8) (f : RxFrame) (s : State) : Host.Outcome State Fault Refusal := .next { s with dev := s.dev.abortFrame port.val f }

/-- The partner allowance of a fabric command (R273, R285, R291). -/
def Cmd.allowanceNs (d : Device) (c : Cmd) : Nat :=
  let a := if opcodeOf c.entry = 0x30 then ent c.entry 0x50 4 else ent c.entry 0x30 4
  if a = 0 then c.setting d 0x600007 else a

/-- This STAGE_RECV's turn to claim has come, and its message is whole in its slot, or cannot be taken (R286). -/
def Device.claimable (d : Device) (c : Cmd) : Bool :=
  let x := d.stream c.stream
  d.recvFirst c false && ((x.of x.front).whole || (x.of x.front).void != 0)

/-- A fabric command has all that it needs of its partners. -/
def Device.partnersDone (d : Device) (c : Cmd) (w : CollWork) : Bool :=
  if opcodeOf c.entry = 0x30 then (c.collOf d).isDone d c w
  else if opcodeOf c.entry = 0x31 then (w.step c.message).ended
  else w.next == 1 && d.claimable c

/-- Frames of a command that are queued, or not yet acknowledged. -/
def Device.openFrames (d : Device) (c : Cmd) : Bool :=
  let mine := fun (f : Frame) => f.type == ftData && f.opId == c.opId && (opcodeOf c.entry == 0x30 || f.step == c.message)
  (List.range 8).any fun k => (d.port k).queue.any mine || (d.port k).peers.any fun x => x.2.kept.any fun y => mine y.frame

/-- A fabric command that runs and waits for frames or credits of a partner (R289, R335). -/
def Device.awaitsPartner (d : Device) (c : Cmd) : Bool :=
  match c.coll with
  | none => false
  | some w => c.failure.isNone && d.mayRun c && !(d.partnersDone c w) && (d.openFrames c ||
      (if opcodeOf c.entry = 0x30 then (c.collOf d).awaitsFrames d w
       else if opcodeOf c.entry = 0x31 then decide ((d.stream c.stream).sendCredit ≤ c.message)
       else !(d.claimable c)))

/-- PARTNER_TIMEOUT. -/
def Device.partnerTimeout (d : Device) (tag : Nat) : Device :=
  match d.cmd tag with
  | none => d
  | some c => if d.awaitsPartner c && c.progressAt + c.allowanceNs d + 1000000 ≤ d.now then d.failFabric tag 0xFF else d

def execPartnerTimeout (tag : Nat) (s : State) : Host.Outcome State Fault Refusal := .next { s with dev := s.dev.partnerTimeout tag }

end Sys2Proof.Machine
end

