-- ==== Sys2Proof/Machine/Queue.lean ====
section
/-! DEFINITION. Queue pairs: doorbells, fetching, the end of a drain, re-initialisation (R226 to R229, R357). -/

namespace Sys2Proof.Machine

/-- The host reaches the function's registers: it is ready and in D0 (R424, R436). -/
def Device.hostOpen (d : Device) : Bool := d.isReady && d.power.powerState == 0

/-- A doorbell value that is not taken (R227). -/
def Device.doorbellIgnored (d : Device) : Device := d.count 0x807005 1

/-- SQ_TAIL_DOORBELL (R227), after the host's writes of entries and data to its own memory. -/
def Device.sqTail (d0 : Device) (q : Fin 64) (value : W32) (writes : List Host.Cell) : Device :=
  let d := { d0 with host := writes.foldl (fun m c => m.setByte c.1 c.2) d0.host }
  let p := d.queue q.val
  let n := d.sqSize q.val
  let v := value.toNat
  if !d.hostOpen then d
  else if p.state ≠ 1 ∨ n ≤ v then d.doorbellIgnored
  else if (p.sqTail + n - p.sqHead) % n ≤ (v + n - p.sqHead) % n then d.setQueue q.val { p with sqTail := v }
  else d.doorbellIgnored

def execSqTailDoorbell (q : Fin 64) (value : W32) (writes : List Host.Cell) (s : State) : Host.Outcome State Fault Refusal :=
  .next { s with dev := s.dev.sqTail q value writes }

/-- CQ_HEAD_DOORBELL (R227). -/
def Device.cqHeadMove (d : Device) (q : Fin 64) (value : W32) : Device :=
  let p := d.queue q.val
  let n := d.cqSize q.val
  let v := value.toNat
  let step := (v + n - p.cqHead) % n
  if !d.hostOpen then d
  else if p.state = 0 ∨ n ≤ v ∨ step = 0 ∨ p.written < step then d.doorbellIgnored
  else d.setQueue q.val { p with cqHead := v, written := p.written - step }

def execCqHeadDoorbell (q : Fin 64) (value : W32) (s : State) : Host.Outcome State Fault Refusal :=
  .next { s with dev := s.dev.cqHeadMove q value }

/-- The pair's next entry can be fetched (R229). -/
def Device.fetchable (d : Device) (q : Nat) : Bool :=
  let p := d.queue q
  p.state == 1 && p.sqHead != p.sqTail && p.reserved + p.written + 2 ≤ d.cqSize q

/-- The pairs in turn after pair `q`. -/
def turnAfter (q : Nat) : List Nat := (List.range 64).map fun i => (q + 1 + i) % 64

/-- The pair served next: high-priority pairs first, those of each priority in turn after the one served last (R229). -/
def Device.nextPair (d : Device) : Option Nat :=
  match (turnAfter d.lastHigh).find? fun q => d.fetchable q && d.highPair q with
  | some q => some q
  | none => (turnAfter d.lastPair).find? d.fetchable

/-- ENTRY_FETCH (R229). -/
def Device.fetchEntry (d : Device) : Device :=
  if !d.hostOpen then d
  else
    match d.nextPair with
    | none => d
    | some q =>
      if h : q < 64 then
        let p := d.queue q
        let e := d.host.read (d.setting ((0x7100 + q) * 256 + 1) + 128 * p.sqHead) 128
        let d1 := d.setQueue q { p with sqHead := (p.sqHead + 1) % d.sqSize q, reserved := p.reserved + 2 }
        let d2 : Device := { d1 with fetched := d1.fetched ++ [⟨⟨q, h⟩, p.sqHead, e⟩] }
        if d.highPair q then { d2 with lastHigh := q } else { d2 with lastPair := q }
      else d

def execEntryFetch (s : State) : Host.Outcome State Fault Refusal := .next { s with dev := s.dev.fetchEntry }

/-- Accepted commands, or fetched entries, of a pair. -/
def Device.pairBusy (d : Device) (q : Nat) : Bool :=
  d.cmds.any (fun c => match c.qp with | some p => p.val == q | none => false) || d.fetched.any fun f => f.q.val == q

/-- QUEUE_PAIR_DRAIN_END (R227): the pair is disabled, its indices at 0. -/
def Device.drainEnd (d : Device) (q : Nat) : Device :=
  if (d.queue q).state = 2 ∧ !(d.pairBusy q) then d.setQueue q QPair.fresh else d

def execQueuePairDrainEnd (q : Fin 64) (s : State) : Host.Outcome State Fault Refusal := .next { s with dev := s.dev.drainEnd q.val }

/-- QUEUE_PAIR_REINIT (R357). -/
def execQueuePairReinit (q : Fin 64) (s : State) : Host.Outcome State Fault Refusal := .next { s with dev := s.dev.pairReset q.val 0 }

end Sys2Proof.Machine
end

