-- ==== Sys2Proof/Machine/Beacons.lean ====
section
/-! DEFINITION. Beacon rounds (R149, R339, R340, R349, R350). -/

namespace Sys2Proof.Machine

/-- The members of the beacon group; none where no group is set or this device is not in it. -/
def Device.beaconMembers (d : Device) : List Nat :=
  let g := d.setting 0x403001
  let ms := if g < 256 then groupMembers d.setting g else []
  if ms.any fun e => memberDev e == d.devNum then ms else []

/-- The device before, and after, this one in the ring of the members. -/
def Device.beaconNext (d : Device) : Nat :=
  let ms := d.beaconMembers
  memberDev (ms.getD ((positionIn ms d.devNum + 1) % max 1 ms.length) 0)
def Device.beaconPrev (d : Device) : Nat :=
  let ms := d.beaconMembers
  memberDev (ms.getD ((positionIn ms d.devNum + ms.length - 1) % max 1 ms.length) 0)

/-- The addresses of the beacon table's entries (R339). -/
def Device.beaconTable (d : Device) : List Nat :=
  (List.range (d.setting 0x403004)).map fun i => d.mem.nat (d.setting 0x403003 + 8 * i) 6

/-- The entry of the internal command: a digest of one table, bulk, with no wait and no signal. -/
def beaconEntry (table : Nat) : List Byte :=
  padTo 128 (leBytes 1 0x42 ++ leBytes 5 0 ++ leBytes 2 0xFFFF ++ leBytes 4 0 ++ leBytes 2 0xFFFF ++ leBytes 18 0 ++ leBytes 8 table)

/-- The work of a round: the digests of every table (R246, R339). -/
def Device.beaconWork (d : Device) (w : Win) (tables : List Nat) : Work :=
  tables.foldl (fun x t =>
    let e := beaconEntry t
    let y := Look.work ⟨d, w, e, [], true, 0⟩ [] (baySet d e)
    { x with ops := x.ops ++ y.ops.map fun o => { o with spans := o.spans.take 1 } }) Work.none

def Device.setRound (d : Device) (r : Option Round) : Device :=
  d.withSafety fun s => { s with beacon := { s.beacon with round := r } }

/-- Starts a round for step value `s` (R339): its internal command is admitted; where no tag is free the round waits. -/
def Device.startRound (d : Device) (s : W64) : Device :=
  let wait := d.withSafety fun x => { x with beacon := { x.beacon with waiting := s :: x.beacon.waiting } }
  match d.tagsFree with
  | [] => wait
  | tag :: tags =>
    let win := d.window
    let tables := d.beaconTable
    let e := beaconEntry (tables.headD 0)
    let w := d.beaconWork win tables
    let cs := (List.range 8).map (d.chargeOn w 0)
    let used := (List.range 8).filter fun k => match cs[k]? with | some g => 0 < g.ops | none => false
    let p := d.promiseOf ⟨false, 1280, Q.zero, Q.ofNat d.now, used, cs, Q.zero, Q.zero, 0⟩
    let c := { d.newCmd ⟨0, 0, e⟩ [] tag with
      qp := none, fences := [], promise := p, overdueAt := p + 1000 * d.setting 0x401001, charges := cs, ops := w.ops }
    let d1 := (d.charge c).setRound (some ⟨BitVec.ofNat 32 s.toNat, tag, d.weightVersion, tables, [], none, none⟩)
    { d1 with tagsFree := tags, orderNext := d1.orderNext + 1, cmds := d1.cmds ++ [c] }

/-- A round ends; the next one that waits starts (R340). -/
def Device.endRound (d : Device) : Device :=
  let d1 := d.setRound none
  match d1.safety.beacon.waiting with
  | [] => d1
  | s :: r => (d1.withSafety fun x => { x with beacon := { x.beacon with waiting := r } }).startRound s

/-- A beacon point (R339): with beacons enabled a round runs, after those before it. -/
def Device.beaconPoint (d : Device) (s : W64) : Device :=
  if d.setting 0x403001 = 0xFFFF ∨ d.setting 0x403004 = 0 ∨ s.toNat % d.setting 0x403002 ≠ 0 then d
  else if d.safety.beacon.round.isSome then d.withSafety fun x => { x with beacon := { x.beacon with waiting := x.beacon.waiting ++ [s] } }
  else d.startRound s

/-- A beacon event record (R366): s, version, predecessor, kind (0 mismatch, 1 not comparable, 2 no frame), first differing entry. -/
def Device.beaconEvent (d : Device) (s version kind first : Nat) : Device :=
  d.logEvent { type := 0x0B, mech := 0x0C, detail := leBytes 4 s ++ leBytes 2 version ++ leBytes 1 d.beaconPrev ++ leBytes 1 kind ++ leBytes 2 first }

/-- A round skipped (R340). -/
def Device.skipRound (d : Device) (r : Round) (kind : Nat) : Device :=
  ((d.beaconEvent r.s.toNat r.version kind 0xFFFF).count 0x80A00B 1).endRound

/-- The payload of a beacon frame: version tag, entry count, zeros to 16 bytes, the digests (R339). -/
def beaconPayload (r : Round) (ds : List W64) : List Byte :=
  leBytes 2 r.version ++ leBytes 2 r.entries.length ++ leBytes 12 0 ++ ds.flatMap fun x => leBytes 8 x.toNat

/-- The internal command has ended: its digests are taken from the set it was admitted with, and leave for the successor. -/
def Device.roundDigests (d : Device) (c : Cmd) : Device :=
  match d.safety.beacon.round with
  | none => d
  | some r =>
    if r.tag ≠ c.tag ∨ r.readyAt.isSome then d
    else if c.failure.isSome then d.skipRound r 1
    else
      match allOk (fun a => digestOf d (c.readCtx d c.homeBay) ((c.win d).resolve none a)) r.entries with
      | .error e => if e = csHeld then d.failWith c.tag csHeld else d.skipRound r 1
      | .ok ds =>
        let d1 := d.setRound (some { r with digests := ds, readyAt := some d.now })
        if d.beaconMembers.length ≤ 1 then (d1.count 0x80A009 1).endRound
        else
          match d1.planeFor (d1.planesTo [d1.beaconNext]) 0 d1.beaconNext false with
          | none => d1
          | some k =>
            let f := { d1.frame k ftData d1.beaconNext with opId := 0xFFFFFFFF, step := r.s.toNat, content := fmtNone, digest := groupDigest d1.beaconMembers }
            (d1.modPort k fun p => { p with queue := p.queue ++ framesOf f r.s.toNat [(fmtNone, beaconPayload r ds)] }).pump k

/-- The predecessor's frame for the round. -/
def Device.roundFrame (d : Device) (r : Round) : Option BeaconFrame :=
  d.safety.beacon.frames.find? fun f => f.src == d.beaconPrev && f.s == r.s.toNat

def Device.dropFrame (d : Device) (f : BeaconFrame) : Device :=
  d.withSafety fun s => { s with beacon := { s.beacon with frames := s.beacon.frames.erase f } }

/-- A bay in run that can hold the comparison (R349, R350). -/
def Device.testBay (d : Device) : Option Nat := (List.range 8).find? fun k => (d.bay k).state == .run

/-- The first entry whose digests differ: fewer than 16 equal nibbles on the diagonal (R149). -/
def firstDiff (a b : List W64) : Option Nat := (a.zip b).findIdx? fun p => !(digestsAgree p.1 p.2)

/-- The counters that the comparison of the last entry's digests leaves. -/
def lastCounters (a b : List W64) : List Nat :=
  match (a.zip b).getLast? with
  | some p => (CmpOp.equal).counters (leBytes 8 p.1.toNat) (leBytes 8 p.2.toNat)
  | none => []

/-- BEACON_COMPARE (R149, R340): one tile of a bay compares, its bay in test. -/
def Device.compareBeacons (d : Device) : Device :=
  match d.safety.beacon.round with
  | none => d
  | some r =>
    match r.readyAt, d.roundFrame r, r.comparing with
    | some _, some f, none =>
      if f.version ≠ r.version ∨ f.count ≠ r.entries.length then (d.dropFrame f).skipRound r 1
      else
        match d.testBay with
        | none => d
        | some k =>
          ((d.modBay k fun b => { b with state := .test }).setRound (some { r with comparing := some (tileKey k 0) })).modTile (tileKey k 0) fun x =>
            x.counted (lastCounters r.digests f.digests)
    | _, _, _ => d

def execBeaconCompare (s : State) : Host.Outcome State Fault Refusal := .next { s with dev := s.dev.compareBeacons }

/-- What a comparison that was not disturbed found (R340): the round counted, or the mismatch; R366's record has room for the first of the entries that differ (notes/assumptions/31). DESIGN CHOICE. -/
def Device.compared (d : Device) (r : Round) (f : BeaconFrame) : Device :=
  match firstDiff r.digests f.digests with
  | none => d.count 0x80A009 1
  | some i => ((d.beaconEvent r.s.toNat r.version 0 i).count 0x80A00A 1).alert 2

/-- BEACON_COMPARISON_END (R349). Where a fault has taken the bay out of test meanwhile, the comparison is to be repeated from the stored digests (R340, R350). -/
def Device.comparisonEnd (d : Device) : Device :=
  match d.safety.beacon.round with
  | none => d
  | some r =>
    match r.comparing with
    | none => d
    | some key =>
      let d1 := d.modTile key fun x => x.counted (List.replicate 256 0)
      if (d.bay (key / 1280)).state ≠ .test then d1.setRound (some { r with comparing := none })
      else
        let d2 := d1.modBay (key / 1280) fun b => { b with state := .run }
        match d.roundFrame r with
        | none => d2.endRound
        | some f => ((d2.dropFrame f).compared r f).endRound

def execBeaconComparisonEnd (s : State) : Host.Outcome State Fault Refusal := .next { s with dev := s.dev.comparisonEnd }

/-- BEACON_TIMEOUT (R340): 1 s after the local digests, or for a frame that met no local round within 1 s. -/
def Device.beaconTimeout (d : Device) : Device :=
  let late := d.safety.beacon.frames.find? fun f => f.at' + 1000000000 ≤ d.now &&
    (match d.safety.beacon.round with | some r => r.s.toNat != f.s | none => true)
  let stale := match late with
    | some f => ((d.dropFrame f).beaconEvent f.s f.version 2 0xFFFF).count 0x80A00B 1
    | none => d
  match d.safety.beacon.round with
  | none => stale
  | some r =>
    match r.readyAt, r.comparing with
    | some t, none => if t + 1000000000 ≤ d.now ∧ (d.roundFrame r).isNone then d.skipRound r 2 else stale
    | _, _ => stale

def execBeaconTimeout (s : State) : Host.Outcome State Fault Refusal := .next { s with dev := s.dev.beaconTimeout }

end Sys2Proof.Machine
end

