-- ==== Sys2Proof/Machine/Completion.lean ====
section
/-! DEFINITION. The completion of commands, and the timers that end them (R250 to R253, R258, R289, R334, R335). -/

namespace Sys2Proof.Machine

/-- The rest of a command's own work, once its operations have ended: what has no tile operation is performed, narrow outputs are written. -/
def Device.lastWork (d : Device) (c : Cmd) : Device :=
  if c.done then d
  else
    let d1 := if opcodeOf c.entry = 0x30 then d.localWork c.tag c.homeBay else if c.ops.isEmpty then d.perform c.tag c.homeBay else d
    d1.settle c.tag

/-- A fabric command has what it needs of its partners; every other command needs none. -/
def Device.fabricReady (d : Device) (c : Cmd) : Bool :=
  match c.coll with
  | none => true
  | some w => d.partnersDone c w

/-- A STAGE_RECV claims its message (R286). -/
def Device.claimMessage (d : Device) (c : Cmd) : Device :=
  if opcodeOf c.entry = 0x32 then
    let x := d.stream c.stream
    d.setStream c.stream { x.set x.front Arrival.none with claimed := x.front + 1 }
  else d

/-- What a successful completion starts: a beacon point (R339). -/
def Device.afterSuccess (d : Device) (c : Cmd) : Device :=
  if opcodeOf c.entry = 0x41 ∧ ent c.entry 0x20 1 = 1 ∧ (ent c.entry 0x21 1).testBit 0 then d.beaconPoint (BitVec.ofNat 64 (ent c.entry 0x28 8)) else d

/-- A command ends, with its record where it has a queue pair. -/
def Device.endCmd (d : Device) (c : Cmd) : Device :=
  let d1 := if c.qp.isNone then d.roundDigests c else d
  if d1.met then d1
  else
    let d2 := if c.failure.isNone then d1.claimMessage c else d1
    let d3 := d2.finish c.tag
    if c.failure.isNone then d3.afterSuccess c else d3

/-- Everything before the last of a command's own work is over. -/
def Device.canEnd (d : Device) (c : Cmd) : Bool :=
  d.mayRun c && c.opsEnded && c.trips.isEmpty && c.waitsFor.isEmpty && d.fabricReady c

/-- A STAGE_RECV that may run first returns its message's slot (R286). -/
def Device.freeSlot (d : Device) (c : Cmd) : Device :=
  match c.coll with
  | some w => if opcodeOf c.entry = 0x32 ∧ d.mayRun c then d.stageRelease c w else d
  | none => d

/-- A STAGE_RECV whose message cannot be taken fails with it (R269, R286). -/
def Device.voidTurn (d : Device) (c : Cmd) : Device :=
  let x := d.stream c.stream
  let a := x.of x.front
  if opcodeOf c.entry = 0x32 ∧ a.void ≠ 0 then (d.setStream c.stream (x.set x.front { a with gone := true })).failWith c.tag a.void else d

/-- A command without failure ends, where everything before its last own work is over and that work trips no sheaf. -/
def Device.endIfDone (d : Device) (tag : Nat) : Device :=
  match d.cmd tag with
  | none => d
  | some c =>
    if !(d.canEnd c) then d
    else
      let d1 := (d.voidTurn c).lastWork c
      match d1.cmd tag with
      | none => d1
      | some c1 => if d1.met then d1 else if c1.failure.isSome || c1.trips.isEmpty then d1.endCmd c1 else d1

/-- A ledger entry that the command's completion writes lies in a paused row (R118, R214). -/
def Device.ledgerHeld (d : Device) (c : Cmd) : Bool :=
  ((outKeys c.entry).zip c.ledger).any fun (key, l) => l.usable && d.held (c.setting d 0x205001 + 32 * key) 32

/-- COMMAND_COMPLETE (R250). A command without failure ends only once every detection in its work is handled, those of its last work among them (R326). -/
def Device.completeCmdNow (d : Device) (tag : Nat) (found : List Detected) : Device :=
  match d.cmd tag with
  | none => d
  | some c =>
    if !d.hostOpen || d.ledgerHeld c then d
    else if c.failure.isSome then d.endCmd c
    else if d.struck tag then d
    else
      let d0 := d.detectAll c.homeBay 0xFFFF tag (pathsOnly found)
      if fatal (pathsOnly found) then d0 else (d0.freeSlot c).endIfDone tag

/-- The same where no access of it meets a paused row (R214). -/
def Device.completeCmd (d : Device) (tag : Nat) (found : List Detected) : Device := d.whole fun d => d.completeCmdNow tag found

def execCommandComplete (w : WorkEnd) (s : State) : Host.Outcome State Fault Refusal := .next { s with dev := s.dev.completeCmd w.tag w.found }

/-! ### The promise timer (R335) -/

/-- PROMISE_EXPIRY. -/
def Device.promiseExpiry (d : Device) (tag : Nat) : Device :=
  match d.cmd tag with
  | none => d
  | some c =>
    if d.now < c.promise ∨ c.overdue then d
    else
      let d1 := (d.modCmd tag fun c => { c with overdue := true }).count 0x80A007 1
      (d1.alert 4).logEvent { type := 0x10, tag := tag, qp := match c.qp with | some q => q.val | none => 0xFF, mech := 0x0A,
                              detail := leBytes 8 c.promise ++ leBytes 1 0 }

def execPromiseExpiry (tag : Nat) (s : State) : Host.Outcome State Fault Refusal := .next { s with dev := s.dev.promiseExpiry tag }

/-- A wedged bay is reset, or its handling escalates (R334, R335, R360). -/
def Device.wedged (d : Device) (k mech tag : Nat) : Device :=
  if d.bayOut k then d else (if d.log.state = 2 then emberAdd d 1 else d).bayDetected k 0x04 mech tag []

/-- The bays that hold work of a command: tile operations, or chain steps of its ports. -/
def Device.holders (d : Device) (c : Cmd) : List Nat :=
  (List.range 8).filter fun k => c.holdsBay k || (d.port k).tokens.any fun t => t.tag == c.tag

/-- OVERDUE_LIMIT_EXPIRY. -/
def Device.overdueExpiry (d : Device) (tag : Nat) : Device :=
  match d.cmd tag with
  | none => d
  | some c =>
    let limit := 1000 * d.setting 0x401001
    if d.now < c.overdueAt ∨ c.failure.isSome then d
    else if isFabricOp (opcodeOf c.entry) && (d.awaitsPartner c || decide (d.now < c.progressAt + limit)) then
      d.modCmd tag fun c => { c with overdueAt := c.overdueAt + limit }
    else
      let ks := d.holders c
      let d1 := d.logEvent { type := 0x10, tag := tag, qp := match c.qp with | some q => q.val | none => 0xFF, mech := 0x0A,
                             detail := leBytes 8 c.promise ++ leBytes 1 1 }
      match ks with
      | [] => (d1.failCmd tag csAborted 0 0xFF).abort c
      | k :: _ => (ks.foldl (fun d k => d.wedged k 10 tag) ((d1.failCmd tag csBayReset 0x04 k).abortBut c k))

def execOverdueLimitExpiry (tag : Nat) (s : State) : Host.Outcome State Fault Refusal := .next { s with dev := s.dev.overdueExpiry tag }

/-- HANDSHAKE_STALL (R334). -/
def Device.stall (d : Device) (k : Nat) : Device :=
  let b := d.bay k
  if b.closed then d else (d.count 0x80A006 1).wedged k 9 0xFFFF

def execHandshakeStall (bay : Fin 8) (s : State) : Host.Outcome State Fault Refusal := .next { s with dev := s.dev.stall bay.val }

/-! ### Host memory (R252) -/

/-- The command reads or writes host memory. -/
def Cmd.usesHost (c : Cmd) : Bool :=
  (opcodeOf c.entry == 0x22 && ent c.entry 0x38 1 % 4 != 0) || (opcodeOf c.entry == 0x43 && (ent c.entry 0x28 1).testBit 0)

/-- HOST_DMA_TIMEOUT: an access of a command that runs. -/
def Device.hostTimeout (d : Device) (tag : Nat) : Device :=
  match d.cmd tag with
  | none => d
  | some c =>
    let runs := if c.ops.isEmpty then d.mayRun c && !c.done else c.ops.any fun o => o.state == .running
    if c.usesHost && runs && c.failure.isNone then d.failWith tag csHostDma else d

def execHostDmaTimeout (tag : Nat) (s : State) : Host.Outcome State Fault Refusal := .next { s with dev := s.dev.hostTimeout tag }

/-! ### The books (R257, R258) -/

/-- Tile operations of a bay that hold a tally tag. -/
def Device.taggedOps (d : Device) (k : Nat) : Nat := (d.cmds.map fun c => c.ops.countP fun o => o.bay == k && o.tally.isSome).sum

/-- Free plus held equals the total. -/
def Device.bookOk (d : Device) : Book → Bool
  | .sqSlots q => let p := d.queue q.val; p.state == 0 || (decide (p.sqHead < d.sqSize q.val) && decide (p.sqTail < d.sqSize q.val))
  | .cqSlots q =>
    let p := d.queue q.val
    let mine := fun (c : Cmd) => match c.qp with | some x => x == q | none => false
    p.reserved == d.cmds.countP mine + 2 * d.fetched.countP (fun f => f.q == q) && decide (p.state = 0 ∨ p.reserved + p.written ≤ d.cqSize q.val)
  | .commandTags => d.tagsFree.length + d.cmds.length == 8192
  | .tileTags k => (d.bay k.val).tallyFree.length + (d.bay k.val).tallyUrgentFree.length + d.taggedOps k.val == 16384
  | .tileSlots k => (d.bay k.val).slotsFree + ((d.tiles.filter fun t => t.1 / 1280 == k.val).map fun t => t.2.slots.length).sum == 20480
  | .dieTokens k => (d.bay k.val).dieTokens == dieBanks
  | .hbmTokens k => (d.bay k.val).hbmTokens == hbmQueues
  | .fabricCredits k => d.creditsOk k.val
  | .chainTokens k => (d.port k.val).tokensFree + (d.port k.val).tokens.length == 16
  | .urgentBucket k => (d.bucketNow k.val).le (d.bucketDepth k.val)

/-- The domain of a book. -/
inductive BookOwner where
  | bay (k : Nat)
  | pair (q : Nat)
  | device
  deriving DecidableEq, Repr

def bookOwner : Book → BookOwner
  | .sqSlots q => .pair q.val
  | .cqSlots q => .pair q.val
  | .commandTags => .device
  | .tileTags k => .bay k.val
  | .tileSlots k => .bay k.val
  | .dieTokens k => .bay k.val
  | .hbmTokens k => .bay k.val
  | .fabricCredits k => .bay k.val
  | .chainTokens k => .bay k.val
  | .urgentBucket k => .bay k.val

/-- The pairs that hold command tags. -/
def Device.tagPairs (d : Device) : List Nat :=
  (List.range 64).filter fun q => d.cmds.any fun c => match c.qp with | some p => p.val == q | none => false

/-- The command-tag book out of balance: the pairs that hold tags are re-initialised and the book is audited again; a second failure within 1 s leads to rung 3. -/
def Device.tagBook (d : Device) : Device :=
  if (match d.safety.tagAuditAt with | some t => decide (d.now ≤ t + 1000000000) | none => false) then d.rung3 .self 2 ⟨13, 0, 0xFFFF, []⟩
  else
    let d1 := d.tagPairs.foldl (fun d q => d.pairReset q 13) (d.withSafety fun s => { s with tagAuditAt := some d.now })
    if d1.bookOk .commandTags then d1 else d1.rung3 .self 2 ⟨13, 0, 0xFFFF, []⟩

/-- BOOK_AUDIT (R258). -/
def Device.auditBook (d : Device) (b : Book) : Device :=
  if !d.isReady || d.bookOk b then d
  else
    match bookOwner b with
    | .pair q => d.pairReset q 13
    | .device => d.tagBook
    | .bay k => if d.bayOut k then d else d.bayDetected k 0x05 13 0xFFFF []

def execBookAudit (book : Book) (s : State) : Host.Outcome State Fault Refusal := .next { s with dev := s.dev.auditBook book }

end Sys2Proof.Machine
end

