-- ==== Sys2Proof/Machine/Ladder.lean ====
section
/-! DEFINITION. The recovery ladder's events: the error handler, take-overs, rollbacks, re-initialisations (R333, R349 to R361). -/

namespace Sys2Proof.Machine

/-! ### Repeating a tile's work (R160, R161, R187, R352, R355) -/

/-- An operation of a group has passed its first snapshot point (R354). -/
def Device.pastSnapshot (d : Device) (m : Member) (course : Nat) : Bool :=
  match d.pieceOf m with
  | .error _ => false
  | .ok p => decide (p.arr.fold.c0 / p.stride < (p.arr.fold.c0 + course) / p.stride)

/-- The members of a group placed again, each from its start. -/
def Device.placeAgain (d : Device) (k t bank : Nat) : List Member → Except (Nat × Nat) (Device × List Member)
  | [] => .ok (d, [])
  | m :: ms =>
    match d.pieceOf m with
    | .error s => .error (m.cmd, s)
    | .ok p =>
      match d.place k t (p.cmd.readCtx d k) p.arr m.cmd m.op p.op m.base bank with
      | .error s => .error (m.cmd, s)
      | .ok (d1, x) => match d1.placeAgain k t bank ms with | .error s => .error s | .ok (d2, xs) => .ok (d2, x :: xs)

/-- A group as its repetition starts: from its newest record, or from its start (R160, R163). -/
def Device.rewound (d : Device) (k t : Nat) (g : ArrayGroup) : Except (Nat × Nat) (Device × ArrayGroup) :=
  match d.groupRecord k t (some g), g.members with
  | some s, m :: _ =>
    match d.pieceOf m with
    | .error e => .error (m.cmd, e)
    | .ok p => .ok (d, d.recorded k t s p.arr.fold.c0 p.arr.courseAt fun x => g.members.any fun y => y.hit x.cmd x.op)
  | _, ms =>
    match d.placeAgain k t g.bank ms with
    | .error e => .error e
    | .ok (d1, xs) => .ok (d1, { members := xs, pos := 0, course := 0, bank := g.bank, gens := 0 })

/-- A command's work was repeated: fault recovered, one more interruption (R250, R251). -/
def Device.interrupt (d : Device) (tags : List Nat) : Device := tags.eraseDups.foldl (fun d tag => d.modCmd tag (·.interrupted)) d

/-- The operations on the drain path wait to start again. -/
def Device.rewindDrains (d : Device) (key : Nat) : Device :=
  let tl := d.tile key
  (tl.drains.map (·.mem)).foldl (fun d m => d.withOp m.cmd m.op fun o => { o with state := .waiting }) (d.setTile key { tl with drains := [] })

/-- The group on the arrays is taken back to where it is repeated from. -/
def Device.rewindArr (d : Device) (k t : Nat) : Device :=
  match (d.tile (tileKey k t)).arr with
  | none => d
  | some g =>
    match d.rewound k t g with
    | .error s => d.failWith s.1 s.2
    | .ok (d1, g1) => d1.modTile (tileKey k t) fun x =>
        Tile.settleStart { (x.eachLane allLanes allLanes fun l _ => { l with block := 0, course := accZero }) with arr := some g1 }

/-- The pre-empted group is taken back, and what it resumes with goes into the save area of the tile that now holds it. -/
def Device.rewindPre (d : Device) (k t : Nat) : Device :=
  match (d.tile (tileKey k t)).pre with
  | none => d
  | some g =>
    match d.rewound k t g with
    | .error s => d.failWith s.1 s.2
    | .ok (d1, g1) =>
      (d1.putBytes (saveArea k t) (accBytes (allLanes.map fun _ => accZero) ++ accBytes (Tile.idle.groupRuns g1))).modTile (tileKey k t) fun x =>
        { x with pre := some { g1 with members := g1.members.map fun m => { m with start := none } } }

/-- The vector piece of a tile starts again, from its newest row-state record or whole; its check is verified before it is used (R187, R332). -/
def Device.rewindVu (d : Device) (k t : Nat) : Device :=
  let tl := d.tile (tileKey k t)
  match tl.vu with
  | none => d
  | some v =>
    match d.cmd v.cmd with
    | none => d
    | some c =>
      match c.recipe d, c.ops[v.op]? with
      | .error s, _ => d.failWith v.cmd s
      | _, none => d
      | .ok r, some o =>
        match tl.rowRecs.find? fun r => r.cmd == v.cmd && r.op == v.op with
        | none => d.setTile (tileKey k t) { tl with vu := some { startVu r v.cmd v.op o with copy := v.copy } }
        | some rr =>
          let a := rowSlot k t rr.slot
          if d.held a 2112 then d.failWith v.cmd csHeld
          else if d.poisoned a 2112 then d.failWith v.cmd (csData + 0x10000 * d.firstPoison a 2112)
          else if crc32c (d.mem.read a 2108) ≠ d.mem.nat (a + 2108) 4 then d.failWith v.cmd csCheck
          else d.setTile (tileKey k t) { tl with vu := some { (startVu r v.cmd v.op o).recalled rr (d.mem.read a 2108) with copy := v.copy } }

/-- The commands whose operations run, or are pre-empted, on a tile. -/
def Device.runningTags (d : Device) (key : Nat) : List Nat :=
  ((d.tile key).slots.filter fun s =>
    d.slotIs s .running || d.slotIs s .preempted).map (·.cmd)

/-- Everything that runs on a logical tile is taken back to where it is repeated from. -/
def Device.repeatTile (d : Device) (k t : Nat) : Device :=
  let tags := d.runningTags (tileKey k t)
  let d1 := (d.rewindDrains (tileKey k t)).rewindArr k t
  ((d1.rewindPre k t).rewindVu k t).interrupt tags

/-! ### The error handler (R351, R355, R360, R361) -/

/-- A take-over starts: the physical tile is retired, the bay is in recovery (R351, R352). The records that the retired tile's scratchpad held of its buddy are lost with it (R353). -/
def Device.startTakeOver (d : Device) (k t mech tag : Nat) : Device :=
  let p := (d.bay k).physOf t
  let d1 := (d.retireTile k p).modBay k fun b =>
    { b with state := .recovery, takeOver := some ⟨t, p, none, .containing, 0, d.now, 0, 0, 0, mech, tag⟩ }
  (d1.modTile (tileKey k (buddyOf t)) fun x => { x with snaps := [], snapDue := true }).rungSeen 1

/-- A repeat in place on a bay path (R333, R355): no tile is retired; the third within 1 s begins degraded coverage. Work that no tile does is repeated by the step that met the error. -/
def Device.repeatInPlace (d : Device) (k t path tag : Nat) : Device :=
  let d1 := (if t < 1280 then d.repeatTile k t else d).modBay k fun b =>
    { b with nesting := b.nesting - 1, pathHits := (path, d.now) :: b.pathHits.filter fun h => d.now < h.2 + 1000000000 }
  let n := (d1.bay k).pathHits.countP fun h => h.1 == path
  let d2 := (d1.logEvent { type := 0x03, rung := 1, bay := k, tile := t, tag := tag, mech := 1, detail := leBytes 1 path ++ leBytes 4 n }).rungSeen 1
  if 3 ≤ n then d2.degrade k path 1 else d2

/-- A detection in a bay under handling: the tile it blames is retired all the same (R351), and the bay escalates, or goes out of service where no spare slate is left for it (R358, R360). -/
def Device.nestedError (d : Device) (e : ErrRec) : Device :=
  let w : Blame := ⟨detMech e.found, e.nesting, e.tag, []⟩
  if detBlamesTile e.found then
    let d1 := d.retireTile e.bay ((d.bay e.bay).physOf e.tile)
    if (d1.bay e.bay).lacksSpare then d1.outOfService e.bay 0 w else d1.escalateBay e.bay w
  else d.escalateBay e.bay w

/-- ERROR_RECORD_HANDLE: the oldest error record's action. -/
def Device.handleErrorNow (d0 : Device) : Device :=
  match d0.safety.errors with
  | [] => d0
  | e :: r =>
    let d := d0.withSafety fun s => { s with errors := r }
    if d.bayOut e.bay then d
    else if 1 ≤ e.nesting ∨ (d.bay e.bay).state = .reset then d.nestedError e
    else
      match e.found with
      | .dieDouble _ => d.bayReset e.bay 0x01 ⟨detMech e.found, 0, e.tag, []⟩
      | .dieCorrected _ => d
      | .pathParity p => d.repeatInPlace e.bay e.tile p.val e.tag
      | f => if detBlamesTile f then d.startTakeOver e.bay e.tile (detMech f) e.tag else d

/-- The same where no access of it meets a paused row (R214). -/
def Device.handleError (d : Device) : Device := d.whole (·.handleErrorNow)

def execErrorRecordHandle (s : State) : Host.Outcome State Fault Refusal := .next { s with dev := s.dev.handleError }

/-! ### Take-over (R352 to R354) -/

/-- The lowest-numbered spare slate of a bay is fetched next; without one the bay goes out of service (R352, R358). -/
def Device.nextSpare (d : Device) (k : Nat) (x : TakeOver) : Device :=
  match (d.bay k).spares with
  | [] => d.outOfService k 0 ⟨x.mech, 0, x.tag, []⟩
  | p :: ps =>
    let s := ps.foldl min p
    d.modBay k fun b => { b with takeOver := some { x with spare := some s, stage := .fetching } }

/-- CONTAINMENT_END. -/
def Device.contained (d : Device) (k : Nat) : Device :=
  match (d.bay k).takeOver with
  | none => d
  | some x => if x.stage = .containing then d.nextSpare k x else d

def execContainmentEnd (bay : Fin 8) (s : State) : Host.Outcome State Fault Refusal := .next { s with dev := s.dev.contained bay.val }

/-- The scratchpad of a spare slate that takes a logical number: what the spec brings into it is the array state, the rest is not stated. -/
def Device.freshScratchpad (d : Device) (k t : Nat) : Device :=
  let base := 0xF800000000 + k * 2 ^ 32 + t * 2 ^ 20
  (d.store base ((List.range 0x30000).map fun i => Config.freeByte (d.drawn + i))).drew 0x30000

/-- A rung-1 action that cannot complete counts as a second detection (R354, R360). -/
def Device.takeOverFails (d : Device) (k : Nat) (x : TakeOver) : Device :=
  (d.modBay k fun b => { b with nesting := b.nesting + 1 }).escalateBay k ⟨x.mech, min 2 (d.bay k).nesting, x.tag, []⟩

/-- An operation of the tile has passed a snapshot point and has no valid record (R354). -/
def Device.lacksRecord (d : Device) (k t : Nat) : Bool :=
  let tl := d.tile (tileKey k t)
  let lacks := fun (m : Member) (c : Nat) => d.pastSnapshot m c && (d.snapRecord k t m.cmd m.op).isNone
  ([tl.arr, tl.pre].any fun o => match o with | some g => g.members.any fun m => lacks m g.course | none => false) ||
  tl.drains.any fun r => match d.pieceOf r.mem with | .ok p => lacks r.mem p.arr.courses | .error _ => false

/-- The key of a physical tile that holds no logical number. -/
def slateKey (k p : Nat) : Nat := tileKey 8 (2048 * k + p)

/-- The parts of a spare slate take a logical tile's place, and those of the retired tile leave it: lanes and port are the slate's own. -/
def Device.swapSlate (d : Device) (k t old new : Nat) : Device :=
  let tl := d.tile (tileKey k t)
  let sl := d.tile (slateKey k new)
  let d1 := d.setTile (slateKey k old) { Tile.idle with lanes := tl.lanes }
  (d1.setTile (slateKey k new) Tile.idle).setTile (tileKey k t) { tl with lanes := sl.lanes, port := [], lost := [], reads := [] }

/-- A validated spare takes the logical number, reads the mirrors of its homes, and the tile's work goes back to its records (R352). -/
def Device.spareTakes (d : Device) (k : Nat) (x : TakeOver) (s : Nat) : Device :=
  if d.lacksRecord k x.tile then d.takeOverFails k x
  else
    let tl := d.tile (tileKey k x.tile)
    let rec' := d.groupRecord k x.tile tl.arr
    let c0 := match tl.arr with
      | some g => (match g.members with | m :: _ => (match d.pieceOf m with | .ok p => p.arr.fold.c0 | .error _ => 0) | [] => 0)
      | none => 0
    let first := match rec' with | some r => d.recordNext k x.tile r | none => c0
    let cnt := match tl.arr with | some g => c0 + g.course + 1 - first | none => 0
    let d1 := d.modBay k fun b => { b with
      phys := b.phys.set x.tile s, spares := b.spares.erase s,
      takeOver := some { x with stage := .repeating, seq := (match rec' with | some r => r.seq | none => 0), first := first, repeated := cnt } }
    (((d1.swapSlate k x.tile x.oldPhys s).freshScratchpad k x.tile).fetchMirrors k x.tile).repeatTile k x.tile

/-- SPARE_VALIDATION (R148, R149, R352): in the bay's recovery state the spare and the buddy run one golden pattern, and their results are compared. -/
def Device.validatedNow (d : Device) (k : Nat) (spare buddy : List Byte) : Device :=
  match (d.bay k).takeOver with
  | none => d
  | some x =>
    match x.stage, x.spare with
    | .fetching, some s =>
      if !((d.bay k).state.compares) then d
      else if resultsAgree spare buddy then d.spareTakes k x s
      else
        let d1 := (d.retireTile k s).logEvent
          { type := 0x02, rung := 1, bay := k, tile := x.tile, phys := s, tag := x.tag, mech := x.mech, detail := leBytes 2 s ++ leBytes 2 (x.fails + 1) }
        if x.fails = 0 then d1.nextSpare k { x with fails := 1 } else d1.takeOverFails k x
    | _, _ => d

/-- The same where no access of it meets a paused row (R214). -/
def Device.validated (d : Device) (k : Nat) (spare buddy : List Byte) : Device := d.whole fun d => d.validatedNow k spare buddy

def execSpareValidation (bay : Fin 8) (r : SpareRun) (s : State) : Host.Outcome State Fault Refusal :=
  .next { s with dev := s.dev.validated bay.val r.spare r.buddy }

/-- TAKE_OVER_RESUME. -/
def Device.takeOverResume (d : Device) (k : Nat) : Device :=
  match (d.bay k).takeOver with
  | none => d
  | some x =>
    if x.stage = .repeating then
      let s := x.spare.getD 0xFFFF
      let d1 := (d.modBay k fun b => { b with takeOver := some { x with stage := .protecting } }).modTile (tileKey k x.tile) fun t => { t with snapDue := true }
      d1.logEvent { type := 0x01, rung := 1, bay := k, tile := x.tile, phys := x.oldPhys, tag := x.tag, mech := x.mech,
                    detail := leBytes 2 s ++ leBytes 4 x.seq ++ leBytes 4 x.first ++ leBytes 4 x.repeated }
    else d

def execTakeOverResume (bay : Fin 8) (s : State) : Host.Outcome State Fault Refusal := .next { s with dev := s.dev.takeOverResume bay.val }

/-- A tile's fresh snapshot is written, or it runs no array operation that needs one. -/
def Tile.protected' (t : Tile) : Bool := !t.snapDue || t.arr.isNone

/-- RE_PROTECTION. -/
def Device.reProtect (d : Device) (k : Nat) : Device :=
  match (d.bay k).takeOver with
  | none => d
  | some x =>
    let mine := tileKey k x.tile
    let other := tileKey k (buddyOf x.tile)
    if x.stage = .protecting ∧ (d.tile mine).protected' ∧ (d.tile other).protected' then
      let clear := fun (t : Tile) => { t with snapDue := false }
      ((d.modBay k fun b => { b with state := .run, takeOver := none, nesting := 0 }).modTile mine clear).modTile other clear
    else d

def execReProtection (bay : Fin 8) (s : State) : Host.Outcome State Fault Refusal := .next { s with dev := s.dev.reProtect bay.val }

/-! ### The device domain (R355, R360) -/

/-- The device is ready, or at rung 3. -/
def Device.poweredUp (d : Device) : Bool := d.isReady || decide (2 ≤ d.safety.devHandling)

/-- LOCKSTEP_ROLLBACK: a mismatch of a pair in the I/O die. -/
def Device.rollback (d : Device) : Device :=
  if d.poweredUp then
    let d1 := d.count 0x80A004 1
    (if d1.log.state = 2 then emberAdd d1 1 else d1).deviceDetected
  else d

def execLockstepRollback (s : State) : Host.Outcome State Fault Refusal := .next { s with dev := s.dev.rollback }

/-- LOCKSTEP_ROLLBACK_END. -/
def execLockstepRollbackEnd (s : State) : Host.Outcome State Fault Refusal :=
  .next { s with dev := if s.dev.safety.devHandling = 1 then s.dev.withSafety fun x => { x with devHandling := 0 } else s.dev }

/-! ### Rung 2 and rung 3 (R357) -/

/-- The row of R327's table that a cause of R250 speaks of. -/
def reinitBlame (cause : Nat) : Blame := { mech := if cause = 1 ∨ cause = 2 then 7 else if cause = 4 then 9 else 0 }

/-- BAY_REINIT: the cause names the mechanism behind it. -/
def execBayReinit (bay : Fin 8) (cause : Nat) (s : State) : Host.Outcome State Fault Refusal :=
  .next { s with dev := if (s.dev.bay bay.val).closed || (s.dev.bay bay.val).state == .reset then s.dev else s.dev.bayReset bay.val cause (reinitBlame cause) }

/-- BAY_REINIT_END: tests done, tiles that fail them and tiles retired before give their numbers to spare slates, and the bay returns to run (R357 steps 4 and 5). -/
def Device.bayReinitEnd (d : Device) (k : Nat) (r : ReinitResult) : Device :=
  if (d.bay k).state ≠ .reset then d
  else if !r.trained then d.outOfService k 2 {}
  else
    let d1 := (r.failTiles.foldl (fun d p => d.retireTile k p) d).renumber k
    let d2 := if r.pathFault then d1.degrade k 4 0 else d1
    d2.modBay k fun b => if b.state = .reset then { b with state := .run, nesting := 0, resetEnd := 0, paused := [], retries := [] } else b

def execBayReinitEnd (bay : Fin 8) (r : ReinitResult) (s : State) : Host.Outcome State Fault Refusal :=
  .next { s with dev := s.dev.bayReinitEnd bay.val r }

/-- DEVICE_RESET. -/
def execDeviceReset (origin : ResetOrigin) (s : State) : Host.Outcome State Fault Refusal :=
  .next { s with dev := if s.dev.poweredUp then s.dev.rung3 origin 2 {} else s.dev }

end Sys2Proof.Machine
end

