-- ==== Sys2Proof/Machine/Memories.lean ====
section
/-! DEFINITION. Events of the stacks, the inbound regulators and the far tier (R207 to R223). -/

namespace Sys2Proof.Machine

/-! ### Rows and remapping (R213 to R217) -/

def rowsPerPc : Nat := 62500
def rowKey (pc row : Nat) : Nat := pc * rowsPerPc + row

/-- The lowest free reserve row of a pseudo-channel. -/
def Bay.freeReserve (b : Bay) (pc : Nat) : Option Nat :=
  (List.range' 62436 64).find? fun r => !(b.remaps.any fun e => e.pc == pc && e.reserve == r) && !(b.badReserve.contains (pc, r))

/-- The row serves addresses: an unmapped source row, or a reserve row that a table entry names. -/
def Bay.rowInUse (b : Bay) (pc row : Nat) : Bool :=
  if row < 62436 then !(b.remaps.any fun e => e.pc == pc && e.row == row) else b.remaps.any fun e => e.pc == pc && e.reserve == row

/-- Row `row` moves to reserve row `to'`: a new table entry, or a rewritten one for a reserve row, which is then unusable (R217). -/
def Bay.moveRow (b : Bay) (pc row to' now : Nat) : Bay :=
  let b1 : Bay := if b.remaps.any (fun e => e.pc == pc && e.reserve == row) then
      { b with remaps := b.remaps.map (fun e => if e.pc = pc ∧ e.reserve = row then { e with reserve := to' } else e), badReserve := (pc, row) :: b.badReserve }
    else { b with remaps := b.remaps ++ [⟨pc, row, to'⟩] }
  { b1 with remapDirty := some (b.remapDirty.getD now), paused := b.paused.filter (· != (pc, row)) }

/-- A reserve row that no entry names is not taken for a row any more (notes/assumptions/12). -/
def Device.rowUnusable (d : Device) (k pc row : Nat) : Device :=
  if row < 62436 ∨ (d.bay k).badReserve.contains (pc, row) then d
  else (d.modBay k fun b => { b with badReserve := (pc, row) :: b.badReserve, remapDirty := some (b.remapDirty.getD d.now) }).touch (0x503001 + k)

/-- A corrected error of a row (R210, R214): at the threshold accesses to the row are paused for its copy, where a reserve row is free. -/
def Device.correctedError (d : Device) (k pc row : Nat) : Device :=
  let d1 := (d.count 0x805001 1).modBay k fun b => { b with rowErrors := b.rowErrors.upd 0 (rowKey pc row) (· + 1) }
  let b := d1.bay k
  if b.rowErrors.get 0 (rowKey pc row) < d1.setting 0x502001 ∨ b.paused.contains (pc, row) then d1
  else if !(b.rowInUse pc row) then d1.rowUnusable k pc row
  else
    match b.freeReserve pc with
    | some _ => (d1.modBay k fun b => { b with paused := b.paused ++ [(pc, row)] }).rungSeen 1
    | none => d1.memoryEvent k pc row 0 0 3

/-- ROW_REMAP: a corrected error in a row, which at the threshold pauses the row (notes/assumptions/12). -/
def Device.rowRemap (d : Device) (k pc row : Nat) : Device :=
  if (d.bay k).closed ∨ rowsPerPc ≤ row then d else d.correctedError k pc row

def execRowRemap (bay : Fin 8) (pc : Fin 64) (row : Nat) (s : State) : Host.Outcome State Fault Refusal :=
  .next { s with dev := s.dev.rowRemap bay.val pc.val row }

/-- A reserve row is free for a row in use (R213, R217). -/
def Device.canMove (d : Device) (k pc row : Nat) : Bool := (d.bay k).rowInUse pc row && ((d.bay k).freeReserve pc).isSome

/-- The copy is done and the table entry written, where the row is in use and a reserve row is free. -/
def Device.rowMoved (d : Device) (k pc row : Nat) : Device :=
  if !((d.bay k).rowInUse pc row) then d.rowUnusable k pc row
  else
    match (d.bay k).freeReserve pc with
    | none => d
    | some r => ((d.modBay k fun b => b.moveRow pc row r d.now).count 0x805003 1).touch (0x503001 + k)

/-- ROW_REMAP_END: the row is remapped; where another row has taken the last reserve row meanwhile, it goes on serving (R217). -/
def Device.rowRemapEnd (d : Device) (k pc row : Nat) : Device :=
  if (d.bay k).paused.contains (pc, row) then
    ((d.rowMoved k pc row).modBay k fun b => { b with paused := b.paused.filter (· != (pc, row)) }).memoryEvent k pc row 0 0 (if d.canMove k pc row then 0 else 3)
  else d

def execRowRemapEnd (bay : Fin 8) (pc : Fin 64) (row : Nat) (s : State) : Host.Outcome State Fault Refusal :=
  .next { s with dev := s.dev.rowRemapEnd bay.val pc.val row }

/-- Lines of a row that are lost are poisoned, by the addresses they serve (R215). -/
def Device.poisonLines (d : Device) (k pc row : Nat) (cs : List Nat) : Device :=
  let r := (d.bay k).logicalRow pc row
  let new := ((cs.filter (· < 250)).map fun c => k * 2 ^ 30 + lineOfRow pc r c).filter fun l => !(d.poison.contains l)
  { d with poison := d.poison ++ new }

/-- The row, its lost lines, and what is recorded of them, without the reset of the bay. -/
def Device.loseLines (d : Device) (k pc row : Nat) (cs : List Nat) : Device :=
  let d1 := ((d.poisonLines k pc row cs).rowMoved k pc row).count 0x805002 (max 1 cs.length)
  d1.memoryEvent k pc row (cs.foldl min 249) cs.length 1

/-- UNCORRECTABLE_ERROR (R215): the bay is reset with the uncorrectable cause, or its handling escalates (R360). -/
def Device.uncorrectable (d : Device) (k pc row : Nat) (cs : List Nat) : Device :=
  if (d.bay k).closed ∨ rowsPerPc ≤ row then d
  else
    (d.loseLines k pc row cs).bayDetected k 0x01 7 0xFFFF (leBytes 1 pc)

def execUncorrectableError (bay : Fin 8) (pc : Fin 64) (row : Nat) (lost : List Nat) (s : State) : Host.Outcome State Fault Refusal :=
  .next { s with dev := s.dev.uncorrectable bay.val pc.val row lost }

/-! ### Interface retries and the scrub (R211, R212) -/

/-- INTERFACE_RETRY: a retry that succeeds is counted; the fourth that fails in a row resets the bay. -/
def Device.interfaceRetry (d : Device) (k pc : Nat) (ok : Bool) : Device :=
  if (d.bay k).closed || (d.bay k).state == .reset then d
  else
    let fails := (d.bay k).retries.get 0 pc + 1
    if ok then (d.count 0x805004 1).modBay k fun b => { b with retries := b.retries.put 0 pc 0 }
    else if fails < 4 then d.modBay k fun b => { b with retries := b.retries.put 0 pc fails }
    else (d.modBay k fun b => { b with retries := b.retries.put 0 pc 0 }).bayDetected k 0x02 7 0xFFFF (leBytes 1 pc)

def execInterfaceRetry (bay : Fin 8) (pc : Fin 64) (ok : Bool) (s : State) : Host.Outcome State Fault Refusal :=
  .next { s with dev := s.dev.interfaceRetry bay.val pc.val ok }

/-- PATROL_SCRUB: the stack's next line is read; a poisoned one is passed over, at its own address or at that of the reserve row that holds it (R216), and a line of a paused row waits for its release (R214). -/
def Device.patrolScrub (d : Device) (k : Nat) (found : EccOutcome) : Device :=
  if (d.bay k).closed || (d.bay k).state == .reset then d
  else
    let n := (d.bay k).scrubNext
    let (pc, row, c) := rowOfLine n
    let d1 := d.modBay k fun b => { b with scrubNext := (n + 1) % 1000000000 }
    let at' := (d.bay k).physRow pc row
    if (d.bay k).paused.contains (pc, at') then d
    else if d.poison.contains (k * 2 ^ 30 + lineOfRow pc ((d.bay k).logicalRow pc at') c) then d1
    else
      match found with
      | .clean => d1
      | .corrected => d1.correctedError k pc at'
      | .lost => d1.uncorrectable k pc at' [c]

def execPatrolScrub (bay : Fin 8) (found : EccOutcome) (s : State) : Host.Outcome State Fault Refusal :=
  .next { s with dev := s.dev.patrolScrub bay.val found }

/-- REMAP_TABLE_PERSIST (R218). -/
def Device.persistRemaps (d : Device) (k : Nat) : Device :=
  if (d.bay k).remapDirty.isSome then
    { (d.modBay k fun b => { b with remapDirty := none }) with
      flash := { d.flash with remaps := d.flash.remaps.setIfInBounds k (d.bay k).remaps, badRows := d.flash.badRows.setIfInBounds k (d.bay k).badReserve } }
  else d

def execRemapTablePersist (bay : Fin 8) (s : State) : Host.Outcome State Fault Refusal := .next { s with dev := s.dev.persistRemaps bay.val }

/-! ### Inbound tokens (R207, R208) -/

/-- The waiting access served next: round-robin by source bay, after the one served last. -/
def Bay.nextWait (b : Bay) : Option TokenWait :=
  ((List.range 8).map fun i => (b.lastServed + 1 + i) % 8).findSome? fun s => b.waits.find? fun w => w.src == s

/-- INBOUND_TOKEN_GRANT: one line of a waiting access takes its 64 tokens. -/
def Device.grantToken (d : Device) (k : Nat) : Device :=
  match (d.bay k).nextWait with
  | none => d
  | some w =>
    if (d.tokensNow k).lt (Q.ofNat 64) then d
    else (d.takeTokens k 1).modBay k fun b =>
      { b with lastServed := w.src, waits := if w.lines ≤ 1 then b.waits.erase w else b.waits.map fun x => if x = w then { x with lines := x.lines - 1 } else x }

def execInboundTokenGrant (bay : Fin 8) (s : State) : Host.Outcome State Fault Refusal := .next { s with dev := s.dev.grantToken bay.val }

/-! ### The far tier (R220, R223) -/

/-- The command moves sheaves that a table of its own places behind CXL port `p` (R220). -/
def Cmd.usesPort (d : Device) (c : Cmd) (p : Nat) : Bool :=
  ((c.movedSpans d).1 ++ (c.movedSpans d).2).any fun r => match d.region r.1 with | some (.far q _) => q == p | _ => false

/-- The command's operations run. -/
def Cmd.running (c : Cmd) : Bool := c.failure.isNone && c.ops.any fun o => o.state == .running

/-- FAR_TIER_TIMEOUT. -/
def Device.farTimeout (d : Device) (p tag : Nat) : Device :=
  match d.cmd tag with
  | none => d
  | some c => if c.running && c.usesPort d p then d.failWith tag csFarTier else d

def execFarTierTimeout (port : Fin 2) (tag : Nat) (s : State) : Host.Outcome State Fault Refusal :=
  .next { s with dev := s.dev.farTimeout port.val tag }

/-- FAR_TIER_LINK_DOWN: the port is out of service until the next power-on, and the commands in flight that use it fail. -/
def Device.farDown (d : Device) (p : Nat) : Device :=
  if d.farState[p]?.getD 0 = 1 then
    let hit := d.cmds.filter fun c => c.failure.isNone && c.usesPort d p
    let d1 := hit.foldl (fun d c => d.failWith c.tag csFarTier) d
    { d1 with farState := d1.farState.setIfInBounds p 2 }
  else d

def execFarTierLinkDown (port : Fin 2) (s : State) : Host.Outcome State Fault Refusal := .next { s with dev := s.dev.farDown port.val }

end Sys2Proof.Machine
end

