-- ==== Sys2Proof/Machine/Scratchpads.lean ====
section
/-! DEFINITION. Scratchpad accesses: windows, regions, the port and its priority, bit-set, bit-clear and rotate (R150 to R158). -/

namespace Sys2Proof.Machine

/-- The priority of a requester, 1 the highest (R153). -/
def priorityOf : Requester → Nat
  | .arrayFeed => 1
  | .dma => 2
  | .buddy => 2
  | .vectorUnit => 3
  | .sequencer => 4
  | .recovery => 4
  | .remote => 5

/-- The number under which a tile counts a requester's lost beats. -/
def requesterNum : Requester → Nat
  | .arrayFeed => 0
  | .dma => 1
  | .buddy => 2
  | .vectorUnit => 3
  | .sequencer => 4
  | .remote => 5
  | .recovery => 6

/-- The rank of a request in this port beat: array feed, then those that have lost 16 beats, then the others, by priority (R153, R154). -/
def Tile.rank (t : Tile) (r : Requester) : Nat :=
  let p := priorityOf r
  if p = 1 then 0 else if 16 ≤ t.lost.get 0 (requesterNum r) then p else 16 + p

/-- Bytes `off` to `off + size − 1` of the window lie in a region open to the requester (R151). -/
def regionOpen (who : Requester) (off size : Nat) (write : Bool) : Bool :=
  if off + size ≤ 0x2C000 then true
  else decide (off + size ≤ 0x30000) && decide (0x2C000 ≤ off) && (if write then who == .buddy else who == .recovery)

/-- The smallest power of two that is not below the size. -/
def naturalAlign (size : Nat) : Nat :=
  if size ≤ 1 then 1 else if size ≤ 2 then 2 else if size ≤ 4 then 4 else if size ≤ 8 then 8 else if size ≤ 16 then 16
  else if size ≤ 32 then 32 else 64

/-- The device address of a scratchpad byte (R201). -/
def scratchAddr (t : TileRef) (off : Nat) : Nat := padBase t.bay.val t.tile.val + off

/-! ### The four windows (R150) -/

inductive Window where
  | plain
  | bitSet
  | bitClear
  | rotate
  deriving DecidableEq, Repr

/-- Where a window begins in the tile's local address space. -/
def Window.base : Window → Nat
  | .plain => 0x00000
  | .bitSet => 0x40000
  | .bitClear => 0x80000
  | .rotate => 0xC0000

/-- The window of a local address. -/
def windowAt (a : Nat) : Option Window :=
  if a < 0x40000 then some .plain else if a < 0x80000 then some .bitSet else if a < 0xC0000 then some .bitClear
  else if a < 0x100000 then some .rotate else none

/-- Sizes and alignment of a window (R150), and the region (R151). -/
def windowLegal (w : Window) (who : Requester) (off size : Nat) (write : Bool) : Bool :=
  (match w with
   | .plain => decide (1 ≤ size) && decide (size ≤ 64) && off % naturalAlign size == 0
   | .bitSet => (size == 4 || size == 8) && off % size == 0
   | .bitClear => (size == 4 || size == 8) && off % size == 0
   | .rotate => decide (1 ≤ size) && decide (size ≤ 64)) && regionOpen who off size write

/-- What an access asks of the port: one access, or under the rotate path one for each line it touches and the further port beat (R153, R158). -/
def padJobs (w : Window) (who : Requester) (off size : Nat) (data : Option (List Byte)) : List PortJob :=
  let one := fun (k : PadKind) => [(⟨who, k, off, size, data.map fun bs => padTo size (bs.take size), false⟩ : PortJob)]
  match w with
  | .plain => one .plain
  | .bitSet => one .bitSet
  | .bitClear => one .bitClear
  | .rotate =>
    let turn : PortJob := ⟨who, .rotation, off, 0, none, false⟩
    if off % 64 + size ≤ 64 then one .plain ++ [turn]
    else
      let n := 64 - off % 64
      [⟨who, .plain, off, n, data.map fun bs => padTo n (bs.take n), false⟩,
       ⟨who, .plain, off + n, size - n, data.map fun bs => padTo (size - n) ((bs.drop n).take (size - n)), true⟩, turn]

/-! ### One port beat (R153, R154, R156, R157) -/

/-- Performs an access: a write, a bit-set or bit-clear of a word, or a read into the requester's data. -/
def Device.performJob (d : Device) (t : TileRef) (j : PortJob) : Device :=
  let a := scratchAddr t j.off
  match j.kind, j.data with
  | .rotation, _ => d
  | .plain, some bs => { d with mem := d.mem.write a bs }
  | .bitSet, some bs => { d with mem := d.mem.write a (leBytes j.size (d.mem.nat a j.size ||| leNat bs)) }
  | .bitClear, some bs => { d with mem := d.mem.write a (leBytes j.size (d.mem.nat a j.size &&& (leNat bs ^^^ (2 ^ (8 * j.size) - 1)))) }
  | _, none => d.modTile (refKey t) fun x => { x with reads := x.reads.upd [] (requesterNum j.who) fun old => (if j.more then old else []) ++ d.mem.read a j.size }

/-- The oldest waiting access of each requester, in order of arrival: a requester's accesses are performed in the order it issues them (R170). -/
def portHeads : List PortJob → List Nat → List PortJob
  | [], _ => []
  | j :: js, seen => if seen.contains (requesterNum j.who) then portHeads js seen else j :: portHeads js (requesterNum j.who :: seen)

/-- The head that wins the port beat: the highest rank, and among equals the first to arrive. -/
def Tile.winner (t : Tile) : Option PortJob :=
  (portHeads t.port []).foldl (fun (m : Option PortJob) j => match m with
    | some b => if t.rank j.who < t.rank b.who then some j else m
    | none => some j) none

/-- Requesters that lose the beat count it (R154). -/
def Tile.losers (t : Tile) (won : Option Nat) : Tile :=
  { t with lost := (portHeads t.port []).foldl (fun m j =>
      let n := requesterNum j.who
      if won = some n then m.put 0 n 0 else m.upd 0 n (· + 1)) t.lost }

/-- One port beat: the winner's access is performed, the others stall and retry. -/
def Device.portBeat (d : Device) (t : TileRef) : Device :=
  let x := d.tile (refKey t)
  match x.winner with
  | none => d
  | some j => (d.setTile (refKey t) { (x.losers (some (requesterNum j.who))) with port := x.port.erase j }).performJob t j

/-- Port beats until no access waits. -/
def Device.runPort (d : Device) (t : TileRef) : Nat → Device
  | 0 => d
  | n + 1 => (d.portBeat t).runPort t n

/-- A rival that has no access waiting here, and outranks every one that waits. -/
def Tile.outranked (t : Tile) (rivals : List Requester) : Bool :=
  match t.winner with
  | none => false
  | some j => rivals.any fun r => !(t.port.any fun k => k.who == r) && t.rank r < t.rank j.who

/-- Accesses arrive at the port. Where a rival wins the beat they stall, and wait for the next access to bring the port further; else the port performs what waits (notes/assumptions/41). -/
def Device.portArrive (d : Device) (t : TileRef) (js : List PortJob) (rivals : List Requester) : Device :=
  let x := d.tile (refKey t)
  let y := { x with port := x.port ++ js }
  if y.outranked rivals then d.setTile (refKey t) (y.losers none)
  else (d.setTile (refKey t) y).runPort t y.port.length

/-- An access at tile-local address `addr`, made through window `w`: one the window or the region forbids fails the operation that made it (R151), and bytes whose parity fails are not used (R328). -/
def Device.padAccess (d : Device) (t : TileRef) (a : PortRequest) (w : Window) (addr size : Nat) (data : Option (List Byte)) : Device :=
  if !(d.tileRuns t.bay.val t.tile.val) then d
  else if windowAt addr != some w || !(windowLegal w a.who (addr % 0x40000) size data.isSome) then
    (match a.cmd with | some tag => d.failWith tag csScratchpad | none => d)
  else if a.upset then d.detect t.bay.val t.tile.val (a.cmd.getD 0xFFFF) .tileParity
  else d.portArrive t (padJobs w a.who (addr % 0x40000) size data) a.rivals

/-- SCRATCHPAD_ACCESS (R150, R151, R153, R154). -/
def execScratchpadAccess (t : TileRef) (a : PortRequest) (off size : Nat) (data : Option (List Byte)) (s : State) : Host.Outcome State Fault Refusal :=
  .next { s with dev := s.dev.padAccess t a .plain (Window.base .plain + off) size data }

def wordSize (wide : Bool) : Nat := if wide then 8 else 4
def wordBytes (wide : Bool) (data : Option W64) : Option (List Byte) := data.map fun w => leBytes (wordSize wide) w.toNat

/-- SCRATCHPAD_BIT_SET (R156). -/
def execScratchpadBitSet (t : TileRef) (a : PortRequest) (off : Nat) (wide : Bool) (data : Option W64) (s : State) : Host.Outcome State Fault Refusal :=
  .next { s with dev := s.dev.padAccess t a .bitSet (Window.base .bitSet + off) (wordSize wide) (wordBytes wide data) }

/-- SCRATCHPAD_BIT_CLEAR (R156). -/
def execScratchpadBitClear (t : TileRef) (a : PortRequest) (off : Nat) (wide : Bool) (data : Option W64) (s : State) : Host.Outcome State Fault Refusal :=
  .next { s with dev := s.dev.padAccess t a .bitClear (Window.base .bitClear + off) (wordSize wide) (wordBytes wide data) }

/-- BYTE_LANE_ROTATE (R158). -/
def execByteLaneRotate (t : TileRef) (a : PortRequest) (off size : Nat) (data : Option (List Byte)) (s : State) : Host.Outcome State Fault Refusal :=
  .next { s with dev := s.dev.padAccess t a .rotate (Window.base .rotate + off) size data }

end Sys2Proof.Machine
end

