-- ==== Sys2Proof/Machine/Pacing.lean ====
section
/-! DEFINITION. The pacer, the power limiter, thermal limits, candle gauges and the plan (R320, R323, R336, R371 to R389, R453). -/

namespace Sys2Proof.Machine

/-! ### The power model (R377) -/

/-- A value in 65,536ths. -/
def activity (n : Nat) : Q := Q.frac n 65536

/-- Leakage in W at `mv` millivolts and `t` tenths of a degree. -/
def leakage (mv : Nat) (t : Int) : Q :=
  let a := Q.frac mv 700
  ((Q.ofNat 150).mul (exp2Q (Q.frac (t - 600) 450))).mul ((a.mul a).mul a)

/-- Dynamic W for each G-beat/s. -/
def dynamicPer (mv : Nat) (uArr uVec : Q) : Q :=
  let a := Q.frac mv 700
  (((Q.ofNat 1200).mul uArr).add ((Q.ofNat 240).mul uVec)).mul (a.mul a)

def fixedPower (uHbm : Q) : Q := ((Q.ofNat 200).mul uHbm).add (Q.ofNat 150)

/-- Module input power in W at `f` M-beats/s. -/
def inputPower (f mv : Nat) (t : Int) (uArr uVec uHbm : Q) : Q :=
  (((((dynamicPer mv uArr uVec).mul (Q.frac f 1000)).add (leakage mv t)).add (fixedPower uHbm)).mul (Q.ofNat 100)).div (Q.ofNat 94)

/-! ### Gauges (R336, R382 to R384) -/

/-- The number of a gauge. -/
def gaugeNum : GaugeRef → Nat
  | .tile k p => k.val * 1344 + p.val
  | .link k => 10752 + k.val
  | .ioDie k => 10816 + k.val

/-- The gauges of one group: a bay's tiles (0 to 7), the links (8), the I/O die (9). -/
def gaugeGroup (g : Nat) : List Nat :=
  if g < 8 then List.range' (g * 1344) 1344 else if g = 8 then List.range' 10752 64 else List.range' 10816 16

def groupOfGauge (n : Nat) : Nat := if n < 10752 then n / 1344 else if n < 10816 then 8 else 9

/-- The normalised reading in k-beats/s of a reading `g` in k-beats/s, at the voltage and temperature now (R382). -/
def Device.normalise (d : Device) (g : Nat) (t : Int) : Nat :=
  let v := Q.frac ((d.pace.setpoint : Int) - 350) 350
  let h := Q.one.sub (Q.frac (t - 600) 10000)
  ((Q.ofNat g).div (v.mul h)).floor.toNat

def Device.gauge (d : Device) (n : Nat) : Option Gauge := d.pace.gauges.get none n
def Device.baseline (d : Device) (n : Nat) : Nat := d.flash.baseline.get 0 n

/-- Plausible readings of a group. -/
def Device.goodReadings (d : Device) (g : Nat) : List (Nat × Nat) :=
  (gaugeGroup g).filterMap fun n => match d.gauge n with | some x => if x.implausible then none else some (n, x.gn) | none => none

/-- A list in ascending order. -/
def insertNat (x : Nat) : List Nat → List Nat
  | [] => [x]
  | y :: r => if x ≤ y then x :: y :: r else y :: insertNat x r
def sortNat (xs : List Nat) : List Nat := xs.foldl (fun r x => insertNat x r) []

/-- Twice the median of a list that is not empty. -/
def median2 (xs : List Nat) : Nat :=
  let s := sortNat xs
  let n := s.length
  s.getD ((n - 1) / 2) 0 + s.getD (n / 2) 0

/-- The readings of the gauges of `n`'s group other than `n`, of all that have been measured. -/
def Device.otherReadings (d : Device) (n : Nat) : List Nat := ((gaugeGroup (groupOfGauge n)).filter (· != n)).filterMap fun i => (d.gauge i).map (·.gn)

/-- One reading passes the tests of R336 against its baseline and the median of the others of its group. -/
def Device.readingOk (d : Device) (n gn : Nat) : Bool :=
  let base := d.baseline n
  let others := d.otherReadings n
  let m2 := median2 others
  let gap := fun (a b : Nat) => if a ≤ b then b - a else a - b
  (base == 0 || decide (100 * gn ≤ 102 * base)) && (others.isEmpty || decide (100 * gap (2 * gn) m2 ≤ 8 * m2))

/-- The two readings of a measurement, 1 ms apart, pass the tests of R336. -/
def Device.plausible (d : Device) (n gn gn0 : Nat) : Bool :=
  let gap := fun (a b : Nat) => if a ≤ b then b - a else a - b
  d.readingOk n gn0 && d.readingOk n gn && decide (1000 * gap gn gn0 ≤ 5 * gn0)

/-- The first reading of a gauge becomes its baseline (R382). -/
def Device.baseGauge (d : Device) (n b : Nat) : Device :=
  if d.baseline n = 0 then { d with flash := { d.flash with baseline := d.flash.baseline.put 0 n b } } else d

/-- An implausible gauge found: counter, alert and record (R336). -/
def Device.gaugeSuspect (d : Device) (n b : Nat) : Device :=
  ((d.count 0x80A008 1).alert 3).logEvent { type := 0x0C, mech := 0x0B, detail := leBytes 4 n ++ leBytes 4 b ++ leBytes 4 (d.baseline n) }

def Device.gaugeWas (d : Device) (n : Nat) : Bool := match d.gauge n with | some x => x.implausible | none => false

/-- The two readings of gauge `n`, normalised: `a` the first, `b` the second, which is the reading kept (R336, R382). -/
def Device.readGauge (d : Device) (n a b : Nat) : Device :=
  let was := d.gaugeWas n
  let bad := was || !((d.baseGauge n b).plausible n b a)
  let e := ((d.baseGauge n b).withPace fun p => { p with gauges := p.gauges.put none n (some ⟨b, d.now, bad⟩), planDue := p.planDue || (bad && !was) }).touch (0x303001 + groupOfGauge n)
  if bad && !was then e.gaugeSuspect n b else e

/-- GAUGE_MEASUREMENT (R336, R383): `g1` and `g2` are gauge paces in k-beats/s, 1 ms apart. -/
def Device.measure (d : Device) (g : GaugeRef) (g1 g2 : Nat) (t : Int) : Device :=
  let retired := match g with | .tile k p => (d.bay k.val).retired.contains p.val | _ => false
  if retired || !d.power.pwrgd then d
  else d.readGauge (gaugeNum g) (d.normalise g1 t) (d.normalise g2 t)

def execGaugeMeasurement (g : GaugeRef) (g1 g2 : Nat) (temp : Int) (s : State) : Host.Outcome State Fault Refusal :=
  .next { s with dev := s.dev.measure g g1 g2 temp }

/-- The slowest plausible reading of a group, with its gauge; less 3 % where it stands in for an implausible one (R336). -/
def Device.groupMin (d : Device) (g : Nat) : Option (Nat × Q) :=
  let bad := (gaugeGroup g).any fun n => match d.gauge n with | some x => x.implausible | none => false
  match d.goodReadings g with
  | [] => none
  | x :: r =>
    let m := r.foldl (fun (m : Nat × Nat) y => if y.2 < m.2 then y else m) x
    some (m.1, if bad then (Q.ofNat m.2).mul (Q.frac 97 100) else Q.ofNat m.2)

/-- The slowest gauge of the module in k-beats/s; 0 where none has been measured. -/
def Device.slowest (d : Device) : Nat × Q :=
  ((List.range 10).filterMap d.groupMin).foldl (fun (m : Option (Nat × Q)) y => match m with | some x => if y.2.lt x.2 then some y else m | none => some y) none
    |>.getD (0, Q.zero)

/-! ### The pacer ceiling (R373, R374, R379, R381) -/

/-- The floors that must be kept: those of commands in flight, and the published one. -/
def Device.protectedFloor (d : Device) : Nat := d.cmds.foldl (fun m c => max m c.floor) d.pace.published

/-- 0.95 of the slowest gauge's pace, at the lower voltage of a step under way (R373, R386). -/
def Device.siliconCeiling (d : Device) : Nat :=
  let mv := if d.pace.target < d.pace.setpoint then d.pace.setpoint - 5 else d.pace.setpoint
  let v := Q.frac ((mv : Int) - 350) 350
  let h := Q.one.sub (Q.frac (d.pace.hottest - 600) 10000)
  ((((d.slowest.2.mul v).mul h).mul (Q.frac 95 100)).div (Q.ofNat 1000)).floor.toNat

/-- The mean of the estimates of the last second, in mW. -/
def meanOf (xs : List Nat) : Nat := if xs.isEmpty then 0 else xs.sum / xs.length

/-- The power ceiling (R379). -/
def Device.powerCeilingOf (d : Device) (w : WindowSample) (avg : Nat) (silicon : Nat) : Nat :=
  let p := d.pace
  let lim := (if (Q.frac avg 1000).lt ((Q.ofNat p.sustainedNow).mul (Q.frac 98 100)) then Q.ofNat p.shortNow else Q.ofNat p.sustainedNow).mul (Q.frac 98 100)
  let room := ((lim.mul (Q.frac 94 100)).sub (leakage p.setpoint w.hottest)).sub (fixedPower (activity w.uHbm))
  let per := if w.issued = 0 then Q.zero else dynamicPer p.setpoint (activity w.uArr) (activity w.uVec)
  let c := if Q.zero.lt per then (room.div per).mul (Q.ofNat 1000) else Q.ofNat silicon
  let prev := Q.ofNat p.powerCeiling
  let c1 := if prev.lt c then c.min (prev.mul (Q.frac 101 100)) else c
  c1.floor.toNat

/-- The thermal term: no beat at 110 °C (R381). -/
def Pace.thermalTerm (p : Pace) : Option Nat := if 1100 ≤ p.hottest then some 0 else p.thermalCeiling

/-- The hottest sensor is read: the thermal alert, THERM# low, begins at 100 °C, is a wake reason, and ends below 95 °C (R381, R439, R445). -/
def Device.sensed (d : Device) (t : Int) : Device :=
  let low := if 1000 ≤ t then true else if t < 950 then false else d.power.thermLow
  let d1 := (d.withPace fun p => { p with hottest := t }).withPower fun p => { p with thermLow := low }
  if low && !d.power.thermLow then d1.wakeReason 2 else d1

/-- The limits in force: a higher one at once, a lower one when every command accepted before its write has completed (R380). -/
def Device.limitsInForce (d : Device) : Device :=
  let clear := d.cmds.all fun c => d.pace.limitOrder ≤ c.order
  let pick := fun (now set : Nat) => if now ≤ set ∨ clear then set else now
  d.withPace fun p => { p with sustainedNow := pick p.sustainedNow (d.setting 0x301001), shortNow := pick p.shortNow (d.setting 0x301002) }

/-- The bay's ceiling cut of R376 ends after 1 ms. -/
def Bay.cutEnds (now : Nat) (b : Bay) : Bay := { b with ceilCut := b.ceilCut.filter fun c => now < c.2 }

def Device.cutsEnd (d : Device) : Device := { d with bays := d.bays.map (Bay.cutEnds d.now) }

/-- The estimates of the last second, the newest first (R378). -/
def Device.windowEstimates (d : Device) (w : WindowSample) : List Nat :=
  let p := d.pace
  ((((inputPower w.issued p.setpoint w.hottest (activity w.uArr) (activity w.uVec) (activity w.uHbm)).mul (Q.ofNat 1000)).floor.toNat) :: p.windows).take 500000

/-- The power ceiling that a window's end sets (R379). -/
def Device.nextPower (d : Device) (w : WindowSample) : Nat := d.powerCeilingOf w (meanOf (d.windowEstimates w)) d.siliconCeiling

/-- Steady pace is on (R374). -/
def Device.steadyOn (d : Device) : Bool := d.setting 0x300001 == 1

/-- The steady setting as a ceiling; without steady pace, the silicon's. -/
def Device.steadyTerm (d : Device) : Nat := if d.steadyOn then min (d.setting 0x300002) d.pace.planned else d.siliconCeiling

/-- The least of the silicon, power and steady ceilings. -/
def Device.lowTerm (d : Device) (w : WindowSample) : Nat := min (min d.siliconCeiling (d.nextPower w)) d.steadyTerm

/-- The pace state as a window's end leaves it: no ceiling is below the protected floor but the thermal one (R373, R381). -/
def Device.windowPace (d : Device) (w : WindowSample) : Pace :=
  let base := max (d.lowTerm w) d.protectedFloor
  let p1 := { d.pace with thermalCeiling := if w.hottest < 1000 then (d.pace.thermalCeiling.map fun c => c + max 1 (c / 100)).filter (· < base) else d.pace.thermalCeiling }
  let hist := (w.issued :: d.pace.paceHist).take 500
  { p1 with
    ceiling := match p1.thermalTerm with | some t => min t base | none => base
    powerCeiling := d.nextPower w, powerEst := (d.windowEstimates w).headD 0, windows := d.windowEstimates w, power1s := meanOf (d.windowEstimates w), sensorW := w.sensorW
    paceHist := hist, pace1ms := meanOf hist, windowAt := d.now }

/-- Windows that power or heat held down, and steady departures, of block `d` are counted (R323, R379, R381). -/
def Device.countWindow (x : Device) (d : Device) (w : WindowSample) : Device :=
  let pow := d.nextPower w
  let sil := d.siliconCeiling
  let therm := x.pace.thermalTerm
  let left := decide (d.pace.ceiling < d.setting 0x300002) || !w.madeUp
  let x1 := if decide (pow < sil) && (!d.steadyOn || decide (pow < d.steadyTerm)) && (match therm with | some t => decide (pow < t) | none => true) then x.count 0x803003 1 else x
  let x2 := if (match therm with | some t => decide (t < d.lowTerm w) | none => false) then x1.count 0x803004 1 else x1
  if d.steadyOn && left then (x2.count 0x809001 1).count 0x809002 2000 else x2

/-- PACE_WINDOW_END (R323, R373, R374, R378, R379, R381): due 2 µs after the last. -/
def Device.windowEnd (d0 : Device) (w : WindowSample) : Device :=
  if !d0.isReady ∨ d0.now < d0.pace.windowAt + 2000 then d0
  else
    let d := (d0.sensed w.hottest).limitsInForce
    ((d.withPace fun _ => d.windowPace w).countWindow d w).cutsEnd

def execPaceWindowEnd (w : WindowSample) (s : State) : Host.Outcome State Fault Refusal := .next { s with dev := s.dev.windowEnd w }

/-- THERMAL_CEILING_STEP (R381): due every 10 µs while the hottest junction is at 100 °C or above and rises. -/
def Device.thermalStep (d : Device) (t : Int) : Device :=
  let rising := decide (d.pace.hottest < t)
  let d1 := d.sensed t
  if !d.isReady || !rising || t < 1000 || 1100 ≤ t || d.now < d.pace.thermalAt + 10000 then d1
  else
    let least := if t < 1050 then d.protectedFloor else 400
    d1.withPace fun p =>
      let c := p.thermalCeiling.getD p.ceiling
      let n := max least (c * 98 / 100)
      { p with thermalCeiling := some n, thermalAt := d.now, ceiling := min p.ceiling n }

def execThermalCeilingStep (hottest : Int) (s : State) : Host.Outcome State Fault Refusal := .next { s with dev := s.dev.thermalStep hottest }

/-! ### Flicker holds (R376) -/

/-- FLICKER_HOLD. -/
def Device.flicker (d : Device) : Rail → Device
  | .bay k =>
    if (d.bay k.val).holdSince.isSome ∨ !d.power.pwrgd then d else (d.modBay k.val fun b => { b with holdSince := some d.now }).count 0x803001 1
  | .ioDie =>
    if d.pace.ioHold.isSome ∨ !d.power.pwrgd then d else (d.withPace fun p => { p with ioHold := some d.now }).count 0x803001 1

def execFlickerHold (r : Rail) (s : State) : Host.Outcome State Fault Refusal := .next { s with dev := s.dev.flicker r }

/-- FLICKER_HOLD_END: on recovery, or after 2 µs, which lowers the bay's ceiling to 90 % for 1 ms, not below the protected floor. -/
def Device.flickerEnd (d : Device) (recovered : Bool) : Rail → Device
  | .bay k =>
    (match (d.bay k.val).holdSince with
     | none => d
     | some t =>
       let full := decide (t + 2000 ≤ d.now)
       if !(recovered || full) then d
       else
         let d1 := d.modBay k.val fun b => { b with holdSince := none }
         if full then (d1.modBay k.val fun b => { b with ceilCut := some (max (d.pace.ceiling * 9 / 10) d.protectedFloor, d.now + 1000000) }).count 0x803002 1 else d1)
  | .ioDie =>
    (match d.pace.ioHold with
     | none => d
     | some t =>
       let full := decide (t + 2000 ≤ d.now)
       if !(recovered || full) then d
       else let d1 := d.withPace fun p => { p with ioHold := none }; if full then d1.count 0x803002 1 else d1)

def execFlickerHoldEnd (r : Rail) (recovered : Bool) (s : State) : Host.Outcome State Fault Refusal :=
  .next { s with dev := s.dev.flickerEnd recovered r }

/-! ### The plan (R384 to R387) -/

/-- Powered hours (R384). -/
def Device.ageHours (d : Device) : Nat := (d.flash.ageNs + d.now) / 3600000000000

/-- A list of fractions in ascending order. -/
def insertQ (x : Q) : List Q → List Q
  | [] => [x]
  | y :: r => if x.le y then x :: y :: r else y :: insertQ x r

/-- The median of a list of fractions; 0 for none. -/
def medianQ (xs : List Q) : Q :=
  let s := xs.foldl (fun r x => insertQ x r) []
  ((s.getD ((s.length - 1) / 2) Q.zero).add (s.getD (s.length / 2) Q.zero)).div (Q.ofNat 2)

/-- The median of the slowdowns 1 − g_n / g_base of all plausible gauges (R384). -/
def Device.medianSlowdown (d : Device) : Q :=
  medianQ ((List.range 10).flatMap fun g => (d.goodReadings g).filterMap fun (n, gn) =>
    if d.baseline n = 0 then none else some (Q.one.sub (Q.frac gn (d.baseline n))))

/-- The hourly rate r of R384. -/
def Device.ageRate (d : Device) : Q :=
  let age := d.ageHours
  let slow := (Q.frac 5 1000).div (Q.ofNat 8760)
  if age < 720 then (Q.frac 2 100).div (Q.ofNat 8760)
  else
    let h := d.pace.medianHist
    match (h.find? fun e => e.1 + 720 ≤ age).orElse fun _ => h.getLast? with
    | none => slow
    | some e =>
      if age ≤ e.1 then slow
      else slow.max (((Q.ofNat 2).mul (d.medianSlowdown.sub e.2)).div (Q.ofNat (age - e.1)))

/-- The end-of-life pace of a gauge pace (R384). -/
def Device.eol (d : Device) (g : Q) : Q := g.mul (Q.one.sub (d.ageRate.mul (Q.ofNat (43800 - d.ageHours))))

/-- q(g, v) of R385 in M-beats/s, for g in k-beats/s. -/
def usablePace (g : Q) (mv : Nat) : Q :=
  (((g.mul (Q.frac ((mv : Int) - 350) 350)).mul (Q.frac 95 100)).mul (Q.frac 955 1000)).div (Q.ofNat 1000)

/-- The voltages searched. -/
def planVolts : List Nat := (List.range 21).map fun i => 700 + 5 * i

/-- The lowest voltage at which a gauge pace gives `f` M-beats/s. -/
def voltFor (g : Q) (f : Nat) : Option Nat := planVolts.find? fun v => (Q.ofNat f).le (usablePace g v)

/-- The floor and the setpoint a plan takes. -/
def planOf (now eol : Q) (sustained : Nat) : Nat × Nat :=
  let fits := fun (f : Nat) => match voltFor now f, voltFor eol f with
    | some _, some v => (inputPower f v 1050 Q.one Q.one Q.one).le ((Q.ofNat sustained).mul (Q.frac 98 100))
    | _, _ => false
  match ((List.range 56).map fun i => 950 - 10 * i).find? fits with
  | some f => (f, (voltFor now f).getD 800)
  | none => (400, (voltFor now 400).getD 800)

/-- The published floor of a planned one (R374). -/
def Device.publishedOf (d : Device) (planned : Nat) : Nat := if d.setting 0x300001 = 1 then min planned (d.setting 0x300002) else planned

/-- A new published floor, counted where it moves (R389). -/
def Device.publish (d : Device) (f : Nat) : Device :=
  let old := d.pace.published
  let d1 := d.settleBuckets.withPace fun p => { p with published := f }
  if !d.power.planned then d1 else if old < f then d1.count 0x803006 1 else if f < old then d1.count 0x803007 1 else d1

/-- PLAN (R385, R386): floor and setpoint are published together. -/
def Device.plan (d : Device) (sensorW : Nat) : Device :=
  if !(d.isReady || d.power.phase == .tested) then d
  else
    let (g, gmin) := d.slowest
    let ge := d.eol gmin
    let (f, v) := planOf gmin ge (d.setting 0x301001)
    let base := d.baseline g
    let slow := if base = 0 then 0 else ((Q.one.sub (ge.div (Q.ofNat base))).mul (Q.ofNat 10000)).floor.toNat
    let m := d.medianSlowdown
    let d1 := d.withPace fun p =>
      { p with planned := f, target := v, lastPlan := d.now, slowdown := slow, below := decide (f < 800), sensorW := sensorW, planDue := false,
               plans := (d.now, f, v) :: p.plans, medianHist := (d.ageHours, m) :: p.medianHist }
    ((d1.publish (d1.publishedOf f)).count 0x803005 1).withPower fun p => { p with planned := true }

def execPlan (sensorW : Nat) (s : State) : Host.Outcome State Fault Refusal := .next { s with dev := s.dev.plan sensorW }

/-- The setpoint that commands in flight hold (R386): that of the plan in force when each was accepted. -/
def Device.heldSetpoint (d : Device) : Nat :=
  d.cmds.foldl (fun m c => max m (match d.pace.plans.find? fun p => p.1 ≤ c.acceptAt with | some p => p.2.2 | none => 0)) 0

/-- SETPOINT_STEP (R386): 5 mV toward the target, at most every 100 µs. -/
def Device.setpointStep (d : Device) : Device :=
  let p := d.pace
  if d.now < p.stepAt + 100000 ∨ !d.power.pwrgd then d
  else if p.setpoint < p.target then d.withPace fun p => { p with setpoint := p.setpoint + 5, stepAt := d.now }
  else if p.target < p.setpoint ∧ d.heldSetpoint + 5 ≤ p.setpoint then d.withPace fun p => { p with setpoint := p.setpoint - 5, stepAt := d.now }
  else d

def execSetpointStep (s : State) : Host.Outcome State Fault Refusal := .next { s with dev := s.dev.setpointStep }

/-! ### The inlet (R320, R453) -/

/-- The coolant class of a mean of tenths of a degree (R320). -/
def classOfInlet (sum : Int) (n : Nat) : Nat :=
  let ge := fun (t : Int) => decide (t * n ≤ sum)
  if !(ge 170) then 4 else if !(ge 270) then 1 else if !(ge 360) then 2 else if sum ≤ 450 * n then 3 else 5

/-- INLET_SENSOR_READ. -/
def Device.inletRead (d : Device) (t : Int) : Device :=
  if d.power.pwrgd then
    let h := (t :: d.pace.inletHist).take 10
    d.withPace fun p => { p with inlet := t, inletHist := h, coolClass := classOfInlet h.sum h.length }
  else d

def execInletSensorRead (temp : Int) (s : State) : Host.Outcome State Fault Refusal := .next { s with dev := s.dev.inletRead temp }

end Sys2Proof.Machine
end

