-- ==== Sys2Proof/Machine/Images.lean ====
section
/-! DEFINITION. Firmware images: slots, validity, the manifest, programming and security floors (R425 to R432). -/

namespace Sys2Proof.Machine

/-! ### Slots and headers (R425) -/

/-- The slot size of slot number (kind − 1) × 2 + slot. -/
def slotSize (t : Nat) : Nat := [8 * 2 ^ 20, 4 * 2 ^ 20, 2 * 2 ^ 20, 2 ^ 18].getD (t / 2) 0

def ImageSlot.empty : ImageSlot := ⟨[], 1, false⟩
def Device.slot (d : Device) (t : Nat) : ImageSlot := d.flash.slots[t]?.getD ImageSlot.empty
def Device.setSlot (d : Device) (t : Nat) (x : ImageSlot) : Device :=
  ({ d with flash := { d.flash with slots := d.flash.slots.setIfInBounds t x } }).touch (0xA00101 + t)

def ImageSlot.header (x : ImageSlot) : List Byte := x.data.read 0 256
def hdrEpoch (h : List Byte) : Nat := bytesNat h 0x06 2
def hdrVersion (h : List Byte) : Nat := bytesNat h 0x08 4
def hdrLen (h : List Byte) : Nat := bytesNat h 0x0C 4
def hdrKey (h : List Byte) : Nat := bytesNat h 0x10 1
def hdrSecurity (h : List Byte) : Nat := bytesNat h 0x12 2
def ImageSlot.body (x : ImageSlot) : List Byte := x.data.read 0x100 (hdrLen x.header)

/-- The header's fields are in range. -/
def headerOk (t : Nat) (h : List Byte) : Bool :=
  bytesNat h 0 4 == 0x4F51494D && bytesNat h 4 1 == 1 && bytesNat h 5 1 == t / 2 + 1 && hdrEpoch h != 0 &&
  hdrLen h % 64 == 0 && decide (hdrLen h + 256 ≤ slotSize t) && decide (hdrKey h < 4) && decide (hdrSecurity h < 64) &&
  bytesNat h 0x11 1 == 0 && bytesNat h 0x14 12 == 0 && bytesNat h 0xB0 80 == 0

/-- Bytes of the public key at the end of a body: the two coordinates of a P-384 point (notes/assumptions/26). -/
def keyBytes : Nat := 96

/-- The validity byte of object 0xA001, by the tests of R425 in its own order; a slot cut short is invalid until it is loaded again (R432). -/
def Device.imageVerdict (d : Device) (t : Nat) : Nat :=
  let x := d.slot t
  let h := x.header
  if x.data.isEmpty then 1
  else if x.cut || !(headerOk t h) then 2
  else
    let b := x.body
    let key := b.drop (b.length - keyBytes)
    if sha384 b ≠ slice h 0x20 48 then 2
    else if sha384 key ≠ slice Config.fuseBytes (48 * hdrKey h) 48 ∨ !(Config.ecdsaOk key (sha384 (slice h 0 0x50)) (slice h 0x50 96)) then 3
    else if d.flash.revoked.testBit (hdrKey h) then 4
    else if hdrSecurity h < d.flash.floors[t / 2]?.getD 0 then 5
    else 0

/-- A slot is verified: its validity byte is set. -/
def Device.verifySlot (d : Device) (t : Nat) : Device :=
  let v := d.imageVerdict t
  if (d.slot t).verdict = v then d else d.setSlot t { d.slot t with verdict := v }

/-- The slot of the image that runs of kind `k + 1`; none where none runs. -/
def Device.runningSlot (d : Device) (k : Nat) : Option Nat :=
  if d.images.present.testBit k then some (2 * k + (if d.images.running.testBit k then 1 else 0)) else none

/-- The image in slot `t` is the one of its kind that runs. -/
def Device.runs (d : Device) (k t : Nat) : Device :=
  let im := d.images
  { d with images := { im with present := im.present ||| 2 ^ k, running := if t % 2 = 1 then im.running ||| 2 ^ k else im.running &&& (0xF ^^^ 2 ^ k) } }

/-- The boot slot of a kind (object 0xA000:01 to 03). -/
def Device.bootSlot (d : Device) (k : Nat) : Nat := 2 * k + d.setting (0xA00001 + k) % 2

/-- A fall-back to the other slot of a kind is logged (R426, R427). -/
def Device.logFallback (d : Device) (k t : Nat) : Device :=
  d.logEvent { type := Config.fallbackType, detail := leBytes 1 (k + 1) ++ leBytes 1 (t % 2) }

/-- The boot slot's image runs if it is valid, else the other slot's (R426, R427). -/
def Device.pickImage (d : Device) (k : Nat) : Device :=
  let t := d.bootSlot k
  let o := t ^^^ 1
  let d1 := d.verifySlot t
  if (d1.slot t).verdict = 0 then d1.runs k t
  else
    let d2 := d1.verifySlot o
    if (d2.slot o).verdict = 0 then (d2.runs k o).logFallback k o else d2

/-! ### The manifest (R427, R428) -/

def manifestVersion (b : List Byte) : Nat := bytesNat b 0 4
def manifestCount (b : List Byte) : Nat := bytesNat b 4 2
def manifestRevokes (b : List Byte) : Nat := bytesNat b 6 1 % 16

/-- The valid manifest with the higher version runs. -/
def Device.pickManifest (d : Device) : Device :=
  let d1 := (d.verifySlot 6).verifySlot 7
  let v := fun t => if (d1.slot t).verdict = 0 then some (manifestVersion (d1.slot t).body) else none
  match v 6, v 7 with
  | some a, some b => d1.runs 3 (if a < b then 7 else 6)
  | some _, none => d1.runs 3 6
  | none, some _ => d1.runs 3 7
  | none, none => d1

def Device.runningHeader (d : Device) (k : Nat) : List Byte :=
  match d.runningSlot k with | some t => (d.slot t).header | none => []
def Device.runningBody (d : Device) (k : Nat) : List Byte :=
  match d.runningSlot k with | some t => (d.slot t).body | none => []

/-- An entry of the running manifest carries the epoch and the three running versions. -/
def Device.tested (d : Device) : Bool :=
  let b := d.runningBody 3
  let e := hdrEpoch (d.runningHeader 0)
  (List.range (manifestCount b)).any fun i =>
    let o := 0x10 + 16 * i
    bytesNat b o 2 == e && (List.range 3).all fun k => bytesNat b (o + 4 + 4 * k) 4 == hdrVersion (d.runningHeader k)

/-- The cause of restricted service (object 0xA010:01); 0 for none. A missing image is named before the combination is judged. -/
def Device.restrictedCause (d : Device) : Nat :=
  let has := d.images.present.testBit
  let e := fun k => hdrEpoch (d.runningHeader k)
  if !(has 1) then 3 else if !(has 2) then 4 else if !(has 3) then 5
  else if e 0 ≠ e 1 ∨ e 0 ≠ e 2 then 2
  else if d.tested then 0 else 1

/-! ### Loading (R431, R432) -/

def Device.withImages (d : Device) (f : Images → Images) : Device := { d with images := f d.images }

/-- A new load target ends any programming; what it had written stays without a valid image. -/
def Device.stopLoading (d : Device) : Device := d.withImages fun im => { im with loadState := 0, loading := none }

/-- Load data is buffered for the target slot; offset 0 erases the slot first. -/
def Device.startLoad (d : Device) (bs : List Byte) : Device :=
  let t := d.setting 0xA00201
  let o := d.setting 0xA00202
  let d1 := d.setSlot t (if o = 0 then ImageSlot.empty else { d.slot t with verdict := 2 })
  d1.withImages fun im => { im with loadState := 1, loading := some (t, o, bs) }

/-- Verification of the target slot starts. -/
def Device.startVerify (d : Device) : Device := d.withImages fun im => { im with loadState := 2, loading := none }

/-- IMAGE_PROGRAMMING_END: the buffered bytes are in the slot, or its verification is decided. -/
def Device.loadEnd (d : Device) : Device :=
  let im := d.images
  if im.loadState = 1 then
    match im.loading with
    | some (t, o, bs) =>
      (d.setSlot t { d.slot t with data := (d.slot t).data.write o bs, verdict := 2 }).withImages fun im => { im with loadState := 0, loading := none }
    | none => d.stopLoading
  else if im.loadState = 2 then
    let t := d.setting 0xA00201
    let d1 := d.verifySlot t
    d1.withImages fun im => { im with loadState := if (d1.slot t).verdict = 0 then 3 else 4 }
  else d

def execImageProgrammingEnd (s : State) : Host.Outcome State Fault Refusal := .next { s with dev := s.dev.loadEnd }

/-- The floors rise to the running images' security versions, and the keys the running manifest names are revoked (R431). -/
def Device.commitSecurity (d : Device) : Device :=
  let f := d.flash
  let raise := fun (k x : Nat) => if d.images.present.testBit k then max x (hdrSecurity (d.runningHeader k)) else x
  let fl := f.floors.mapIdx fun k x => raise k x
  { d with flash := { f with floors := fl, revoked := f.revoked ||| (if d.images.present.testBit 3 then manifestRevokes (d.runningBody 3) else 0) } }

end Sys2Proof.Machine
end

