-- ==== Sys2Proof/Machine/Values.lean ====
section
/-! DEFINITION. What a read of each dictionary object returns (R390 to R402 and the object tables of every chapter), and the service of a read. -/

namespace Sys2Proof.Machine

/-! ### Status codes (R397) -/

def dsOk : Nat := 0x00
def dsNoObject : Nat := 0x01
def dsNoSubindex : Nat := 0x02
def dsReadOnly : Nat := 0x03
def dsWriteOnly : Nat := 0x04
def dsTypeLength : Nat := 0x05
def dsValueRange : Nat := 0x06
def dsNotOwner : Nat := 0x07
def dsInterlock : Nat := 0x08
def dsLocked : Nat := 0x09
def dsState : Nat := 0x0A
def dsFlash : Nat := 0x0B
def dsMalformed : Nat := 0x0C
def dsBadSequence : Nat := 0x0D
def dsNoSession : Nat := 0x0E
def dsSessionLimit : Nat := 0x0F
def dsPending : Nat := 0x10

/-! ### Values -/

/-- "Oxqualith" and "OQ-KT4" in ASCII (R2). -/
def vendorName : List Byte := [0x4F, 0x78, 0x71, 0x75, 0x61, 0x6C, 0x69, 0x74, 0x68]
def partNumber : List Byte := [0x4F, 0x51, 0x2D, 0x4B, 0x54, 0x34]

/-- Big-endian bytes of an IPv6 address, as the network carries them. -/
def ipBytes (a : BitVec 128) : List Byte := beBytes 16 a.toNat

/-- Object 0x1101:k (R401). -/
def Device.sessionState (d : Device) (k : Nat) : List Byte :=
  let s := d.dict.sessions[k]?.getD Session.closed
  let seg := match (d.dict.brynuoPaths[k]?.getD PathState.fresh).seg with | some g => g.data.length | none => 0
  ipBytes s.peer ++ leBytes 8 s.openedAt ++ leBytes 2 s.lastSeq ++ leBytes 8 s.lastReq ++ leBytes 4 seg

/-- One gauge in objects 0x3030:01 to 0A: g_n and g_base in M-beats/s, time, plausibility; zeros before its first measurement. -/
def Device.gaugeBytes (d : Device) (n : Nat) : List Byte :=
  match d.gauge n with
  | some g => leBytes 2 (g.gn / 1000) ++ leBytes 2 (d.baseline n / 1000) ++ leBytes 8 g.at' ++ leBytes 1 (if g.implausible then 0 else 1)
  | none => leBytes 2 0 ++ leBytes 2 (d.baseline n / 1000) ++ leBytes 8 0 ++ leBytes 1 1

/-- Object 0x4000:01 (R343). -/
def Device.safetyState (d : Device) : Nat :=
  if d.power.phase = .restricted ∨ d.power.phase = .romRecovery then 3
  else if d.bays.toList.all fun b => b.state == .out then 2
  else if d.bays.toList.any fun b => b.degraded || b.state == .out then 1 else 0

/-- Objects 0x4001 and 0x4022 (R343, R362). -/
def Bay.coverage (b : Bay) : Nat := if b.state = .out then 2 else if b.degraded then 1 else 0
def bayStateCode : BayState → Nat
  | .startUp => 0
  | .run => 1
  | .test => 2
  | .recovery => 3
  | .reset => 4
  | .out => 5

/-- One pseudo-channel of object 0x5030: free reserve rows, then 64 entries of source row, reserve row and state (0 free, 1 in use, 2 unusable reserve row). -/
def Bay.remapBytes (b : Bay) (pc : Nat) : List Byte :=
  let used := (b.remaps.filter fun e => e.pc == pc).map fun e => (e.row, e.reserve, 1)
  let bad := (b.badReserve.filter fun e => e.1 == pc).map fun e => (0, e.2, 2)
  let rows := (used ++ bad).take 64
  let fill := List.replicate (64 - rows.length) (0, 0, 0)
  leBytes 1 (64 - rows.length) ++ (rows ++ fill).flatMap fun (r : Nat × Nat × Nat) => leBytes 2 r.1 ++ leBytes 2 r.2.1 ++ leBytes 1 r.2.2

/-- A log record's 64 bytes (R365). -/
def LogRec.bytes (r : LogRec) : List Byte :=
  let b := leBytes 4 r.seq ++ leBytes 1 r.type ++ leBytes 1 r.rung ++ leBytes 1 r.nesting ++ leBytes 1 r.bay ++ leBytes 8 r.time ++
    leBytes 2 r.tile ++ leBytes 2 r.phys ++ leBytes 2 r.tag ++ leBytes 1 r.qp ++ leBytes 1 r.mech ++ leBytes 4 r.step ++
    (padTo 32 r.detail).take 32
  b ++ leBytes 4 (crc32c b)

/-- The records of the ring copy that reads are served from, newest first (R364, R367). -/
def Log.records (l : Log) : List LogRec :=
  if l.state = 2 then [] else if l.state = 1 ∧ l.badCopy = 0 then l.copyB else l.copyA

/-- The record at a cursor; zeros where it lies outside the ring (R369). -/
def Log.at' (l : Log) (seq : Nat) : List Byte :=
  match l.records.find? fun r => r.seq == seq with
  | some r => r.bytes
  | none => List.replicate 64 0#8

/-- Objects whose value the device keeps as a number: those of state, not of settings. -/
def Device.number (d : Device) (p : Path) (a : Nat) : Option Nat :=
  let i := a / 256
  let s := a % 256
  let k := s - 1
  let bay := d.bay k
  let x := d.pace
  if a = 0x100004 then some d.images.mgmtVersion
  else if a = 0x100006 then some d.power.straps.toNat
  else if a = 0x110001 then some d.dict.owner
  else if a = 0x110004 then some d.dict.ownerSince
  else if a = 0x120001 then some Config.managementMac.toNat
  else if a = 0x300101 then some x.published
  else if a = 0x300102 then some x.planned
  else if a = 0x300103 then some x.setpoint
  else if a = 0x300104 then some x.ceiling
  else if a = 0x300105 then some x.pace1ms
  else if a = 0x300106 then some (if x.below then 1 else 0)
  else if a = 0x300107 then some x.lastPlan
  else if a = 0x300108 then some x.slowdown
  else if a = 0x301003 then some (x.powerEst / 1000)
  else if a = 0x301004 then some (x.power1s / 1000)
  else if a = 0x301005 then some x.sensorW
  else if a = 0x302001 then some (unsigned 16 x.hottest)
  else if a = 0x302002 then some (unsigned 16 x.inlet)
  else if a = 0x30300D then some d.ageHours
  else if a = 0x304003 then some d.power.wakeReasons.toNat
  else if a = 0x304004 then some d.power.powerState
  else if a = 0x400001 then some d.safetyState
  else if a = 0x400002 then some d.safety.alert.toNat
  else if i = 0x4001 then some bay.coverage
  else if i = 0x4020 then some bay.spares.length
  else if i = 0x4021 then some bay.retired.length
  else if i = 0x4022 then some (bayStateCode bay.state)
  else if a = 0x405004 then some (if d.safety.powerCycle then 1 else 0)
  else if a = 0x405005 then some d.safety.highestRung
  else if i = 0x5040 ∧ s ≤ 2 then some (d.farCap[k]?.getD 0)
  else if i = 0x5040 then some (d.farState[s - 3]?.getD 0)
  else if i = 0x6001 then some (d.port k).state
  else if 0x6100 ≤ i ∧ i < 0x6200 ∧ s = 0x42 then some (match groupMembers d.setting (i - 0x6100) with | [] => 0 | ms => groupDigest ms)
  else if a = 0x700101 then some d.now
  else if a = 0x700201 then some d.stepCounter.toNat
  else if a = 0x703004 then some d.curSet
  else if a = 0x703005 then some d.verA
  else if a = 0x703006 then some d.verB
  else if 0x7100 ≤ i ∧ i < 0x7140 ∧ s = 7 then some (if (d.queue (i - 0x7100)).state = 1 then 1 else 0)
  else if 0x7100 ≤ i ∧ i < 0x7140 ∧ s = 8 then some (d.queue (i - 0x7100)).state
  else if a = 0x809003 then some x.coolClass
  else if 0x8000 ≤ i ∧ i < 0x9000 then some (d.counter a)
  else if a = 0x900001 then some (match d.log.records.getLast? with | some r => r.seq | none => d.log.next)
  else if a = 0x900002 then some (match d.log.records.head? with | some r => r.seq | none => d.log.next)
  else if a = 0x900003 then some d.log.overwritten
  else if a = 0x900004 then some d.log.state
  else if a = 0x900101 then some (d.dict.path p).cursor
  else if a = 0x900202 then some d.log.summaries
  else if i = 0x9003 then some (d.emberWord k)
  else if a = 0xA00004 then some d.images.running
  else if a = 0xA00204 then some d.images.loadState
  else if i = 0xA003 then some (d.flash.floors[k]?.getD 0)
  else if a = 0xA01001 then some d.images.cause
  else if a = 0xA01002 then some d.images.manifest
  else none

/-- The values that are byte strings. -/
def Device.string (d : Device) (p : Path) (a : Nat) : List Byte :=
  let i := a / 256
  let k := a % 256 - 1
  if a = 0x100001 then vendorName
  else if a = 0x100002 then partNumber
  else if a = 0x100005 then Config.serialNumber.take 64
  else if i = 0x1101 then d.sessionState k
  else if a = 0x301006 then Config.activityBytes.take 65536
  else if i = 0x3030 then (gaugeGroup k).flatMap d.gaugeBytes
  else if i = 0x5030 then (List.range 64).flatMap (d.bay k).remapBytes
  else if a = 0x900102 then d.log.at' (d.dict.path p).cursor
  else if i = 0xA001 then (d.slot k).header ++ leBytes 1 (d.slot k).verdict
  else []

/-- The bytes of an object's value, read over path `p`. -/
def Device.valueOf (d : Device) (p : Path) (a : Nat) : List Byte :=
  if a % 256 = 0 then leBytes 1 (objHighest (a / 256))
  else
    match objRow a with
    | none => []
    | some r =>
      match r.ty.size with
      | some n => leBytes n ((d.number p a).getD (d.setting a))
      | none => d.string p a

/-- The generation of an object on a path (R394, R402). -/
def Device.genOf (d : Device) (p : Path) (a : Nat) : W32 :=
  if a = 0x900101 then (d.dict.path p).cursorGen
  else if a = 0x900102 then (d.dict.path p).recordGen
  else d.dict.gens.get 0 a

/-! ### The service of a read -/

/-- The ROM recovery service answers for three ranges alone (R426). -/
def Device.romOnly (d : Device) (a : Nat) : Bool :=
  let i := a / 256
  d.power.phase == .romRecovery && !(decide (0x1000 ≤ i) && decide (i < 0x1200)) && !(decide (0xA000 ≤ i) && decide (i < 0xB000))

/-- The status of an address alone: locked, unknown (R397, R398). -/
def addressStatus (a : Nat) : Nat :=
  if 0xF000 ≤ a / 256 then dsLocked
  else if !(objIndexExists (a / 256)) then dsNoObject
  else if a % 256 ≠ 0 ∧ (objRow a).isNone then dsNoSubindex
  else dsOk

def isWriteOnly (a : Nat) : Bool := match objRow a with | some r => r.acc == .wo | none => false

/-- The status of a read from offset `off`. -/
def Device.readStatus (d : Device) (p : Path) (a off : Nat) : Nat :=
  let st := addressStatus a
  if st ≠ dsOk then st
  else if isWriteOnly a then dsWriteOnly
  else if (d.valueOf p a).length < off then dsTypeLength
  else if d.romOnly a then dsState
  else dsOk

/-- A signed value's upper bytes are copies of its sign in an SPI data word (R391). -/
def spiExtend (a : Nat) (bs : List Byte) : List Byte :=
  match objRow a with
  | some r =>
    (match r.ty with
     | .i16 => leBytes 4 (unsigned 32 (signed 16 (leNat bs)))
     | _ => padTo (roundUp bs.length 4) bs)
  | none => padTo (roundUp bs.length 4) bs

/-- Reads up to `n` bytes (0: as many as fit in `most`); over SPI the value stands in words. -/
def Device.serveRead (d : Device) (p : Path) (a off n most : Nat) : DictResult :=
  let st := d.readStatus p a off
  let v := match p with | .spi => spiExtend a (d.valueOf p a) | _ => d.valueOf p a
  let bs := slice v off (if n = 0 then most else min n most)
  if st = dsOk then ⟨st, a, bs, decide (v.length ≤ off + bs.length), d.genOf p a⟩ else ⟨st, a, [], false, d.genOf p a⟩

/-! ### Reads of the log that meet ECC errors (R367, R368) -/

/-- Both copies fail: the log is lost. -/
def Device.logLost (d : Device) : Device :=
  let l := d.log
  ({ d with log := { l with state := 2, ember := (l.ember.setIfInBounds 0 (emberZero 2 d.now)).setIfInBounds 5 (BitVec.ofNat 32 (l.next + 2 ^ 32 - 1)) } }).alert 5

/-- One copy fails: its record is rewritten from the other, or the log runs on the other alone. In single-copy state an error of the good copy loses the log. -/
def Device.copyFails (d : Device) (c : Nat) (repaired : Bool) : Device :=
  let l := d.log
  if l.state = 2 ∨ (l.state = 1 ∧ l.badCopy = c) then d
  else if l.state = 1 then d.logLost
  else if repaired then (emberAdd d 7).logEvent { type := 0x0E, detail := leBytes 1 c ++ leBytes 4 1 }
  else { d with log := { l with state := 1, badCopy := c, ember := l.ember.setIfInBounds 0 (emberZero 1 d.now) } }

/-- What ECC found while the ring was read. -/
def Device.ringRead (d : Device) : RingRead → Device
  | .good => d
  | .commitFails => d
  | .badCopy c r => d.copyFails c.val r
  | .badBoth => if d.log.state = 2 then d else d.logLost

end Sys2Proof.Machine
end

