-- ==== Sys2Proof/Machine/Writing.lean ====
section
/-! DEFINITION. The service of a write: which writes are refused, and what each accepted write does (R390 to R404, R411, and the object tables of every chapter). -/

namespace Sys2Proof.Machine

/-! ### Segments (R411) -/

def Device.path (d : Device) (p : Path) : PathState := d.dict.path p
def Device.modPath (d : Device) (p : Path) (f : PathState → PathState) : Device := d.withDict fun x => x.setPath p (f (x.path p))

/-- A path's pending segmented write is given up. -/
def Device.dropSeg (d : Device) (p : Path) : Device := d.withDict fun x => x.dropSeg p

/-- A BOOL object. -/
def isBool (a : Nat) : Bool := match objRow a with | some r => r.ty == .bool | none => false
/-- A STRING, DOMAIN or TABLE object. -/
def isLong (a : Nat) : Bool := match objRow a with | some r => r.ty.size.isNone | none => false

/-! ### What a value may be (R397): the object's own condition -/

def isPow2 (v : Nat) : Bool := v != 0 && v == 2 ^ v.log2
def within (lo hi v : Nat) : Bool := decide (lo ≤ v) && decide (v ≤ hi)

/-- The condition on a value that its object's row or rule states without naming another object. -/
def valueOk (a v : Nat) : Bool :=
  let i := a / 256
  let s := a % 256
  if isBool a ∧ 1 < v then false
  else if a = 0x110002 then within 0 2 v
  else if a = 0x120002 then within 1 16 v
  else if a = 0x120003 then within 1 255 v
  else if a = 0x120004 then within 1000 60000 v
  else if a = 0x120006 then within 0 66 v || v == 0xFFFF
  else if a = 0x120007 ∨ a = 0x30300C ∨ a = 0x304002 ∨ i = 0x4002 ∨ a = 0x405003 then v == 1
  else if a = 0x204001 ∨ a = 0x205001 ∨ a = 0x403003 then v % 64 == 0
  else if a = 0x204002 then within 16 255 v
  else if a = 0x205002 then within 1 0xC8 v || v == 0xFF
  else if i = 0x2051 ∨ i = 0x2052 then within 0 896 v || v == 0xFFFF
  else if i = 0x2053 ∨ i = 0x2054 then v == fmtNone || v == 0x18 || (isNarrow v && (fmtReach (s - 1)).lt (fmtReach v))
  else if a = 0x300001 ∨ a = 0x404001 then within 0 1 v
  else if a = 0x300002 then decide (400 ≤ v) && v % 10 == 0
  else if a = 0x301001 then within 1400 2000 v
  else if a = 0x301002 then decide (v ≤ 2400)
  else if a = 0x30300B then within 10 60 v
  else if a = 0x304005 ∨ a = 0x400003 then within 0 66 v
  else if a = 0x403001 then within 0 255 v || v == 0xFFFF
  else if a = 0x403002 then within 1 16 v
  else if a = 0x403004 then within 0 1022 v
  else if a = 0x405001 then within 0 7 v
  else if a = 0x405002 then within 0 63 v
  else if i = 0x5010 then within 16 2048 v
  else if i = 0x5011 then within 4096 16777216 v && v % 64 == 0
  else if a = 0x502001 then within 1 255 v
  else if a = 0x502002 then within 1 720 v
  else if a = 0x600001 then within 0 63 v
  else if a = 0x600002 then v % 65536 == 0
  else if a = 0x600003 ∨ a = 0x600004 then within 0 7 v
  else if a = 0x600005 then within 2000 30000 v
  else if a = 0x600006 then within 0 4094 v
  else if 0x6100 ≤ i ∧ i < 0x6200 then (if s = 1 then within 0 64 v else v &&& 0xF0C0 == 0)
  else if 0x6200 ≤ i ∧ i < 0x6300 then
    (if s = 1 then within 0 63 v || v == 0xFF else if s = 2 then within 0 1 v
     else if s = 3 then v % 64 == 0 && decide (v % 2 ^ 36 < softwareBytes) && decide (v < 8 * 2 ^ 36)
     else if s = 4 then v % 64 == 0 else v == 0 || within 2 64 v)
  else if i = 0x7010 then within 0 50 v
  else if a = 0x701101 then within 10 10000 v
  else if a = 0x701201 then within 1 60000 v
  else if a = 0x703001 ∨ a = 0x703002 then v % 64 == 0 && decide (v % 2 ^ 36 < softwareBytes) && decide (v < 8 * 2 ^ 36)
  else if a = 0x703003 then v % 64 == 0
  else if 0x7100 ≤ i ∧ i < 0x7140 then
    (if s = 1 ∨ s = 3 then v % 4096 == 0 else if s = 2 then isPow2 v && within 16 4096 v else if s = 4 then isPow2 v && decide (v ≤ 8192)
     else if s = 5 then within 0 1 v else if s = 6 then within 0 66 v else true)
  else if a = 0x900201 then within 1 3600 v
  else if i = 0xA000 then within 0 1 v
  else if a = 0xA00201 then within 0 7 v || v == 0xFF
  else if a = 0xA00202 then v % 65536 == 0
  else true

/-- A claim over a path (R402): the code of R401 must be free, or the path's own. -/
def Device.claimStatus (d : Device) (p : Path) (v : Nat) : Nat :=
  let mine := pathCode p
  if v = 1 then (if d.dict.owner = 0 ∨ d.dict.owner = mine then dsOk else dsNotOwner)
  else if v = 0 then (if d.dict.owner = mine then dsOk else dsNotOwner)
  else if v = 2 then (if p = .spi then (if d.setting 0x110003 = 1 then dsOk else dsNotOwner) else dsValueRange)
  else dsValueRange

/-- Refusals that depend on the state of the device, a bay or a pair (R226, R362, R400, R431). -/
def Device.stateBars (d : Device) (a v : Nat) : Bool :=
  let i := a / 256
  let s := a % 256
  let pair := decide (0x7100 ≤ i) && decide (i < 0x7140)
  let q := (d.queue (i - 0x7100)).state
  let served := d.power.phase == .restricted && (i / 0x1000 == 2 || i / 0x1000 == 5 || i / 0x1000 == 6 || i / 0x1000 == 7)
  let banked := d.power.powerState != 0 && (decide (a = 0x30300C ∧ v = 1) || decide (a = 0x405001) || (pair && s == 7 && v == 1))
  let cfg := pair && decide (s ≤ 6) && (q == 1 || q == 2)
  let drain := pair && s == 7 && v == 1 && q == 2
  let out := a == 0x405001 && decide (v < 8) && (d.bay v).closed
  d.romOnly a || served || banked || cfg || drain || out || (a == 0xA00305 && d.images.cause != 0)

/-- The set regions after a write of object 0x7030:s (R297). -/
def Device.regionsBar (d : Device) (s v : Nat) : Bool :=
  let get := fun (n : Nat) => if n = s then v else d.setting (0x703000 + n)
  let a := get 1
  let b := get 2
  let n := get 3
  let inside := fun (x : Nat) => decide (x % 2 ^ 36 + n ≤ softwareBytes)
  d.setInUse (fun _ => true) 0 || d.setInUse (fun _ => true) 1 ||
  (n != 0 && (!(inside a) || !(inside b) || (decide (a < b + n) && decide (b < a + n))))

/-- The stash of a stream after a write of object 0x6200 + s lies in one software region (R284). -/
def Device.stashBar (d : Device) (st sub v : Nat) : Bool :=
  let get := fun (n : Nat) => if n = sub then v else d.streamObj st n
  let base := get 3
  let bytes := get 4 * get 5
  base != 0 && bytes != 0 && decide (softwareBytes < base % 2 ^ 36 + bytes)

/-- Refusals that depend on commands in flight, a beacon round or another object's value (R397). -/
def Device.interlock (d : Device) (a v len : Nat) : Bool :=
  let i := a / 256
  let s := a % 256
  let q := i - 0x7100
  if a = 0x120007 then (List.range 64).any fun q => (d.queue q).state != 0
  else if a = 0x300002 then decide (d.pace.planned < v)
  else if a = 0x301001 then decide (d.setting 0x301002 < v)
  else if a = 0x301002 then decide (v < d.setting 0x301001)
  else if i = 0x4030 then d.safety.beacon.round.isSome
  else if a = 0x600003 then v == d.setting 0x600004
  else if a = 0x600004 then v == d.setting 0x600003
  else if 0x6100 ≤ i ∧ i < 0x6200 then d.cmds.any fun c => opcodeOf c.entry == 0x30 && ent c.entry 0x21 1 == i - 0x6100
  else if 0x6200 ≤ i ∧ i < 0x6300 then
    (d.cmds.any fun c => (opcodeOf c.entry == 0x31 || opcodeOf c.entry == 0x32) && ent c.entry 0x20 1 == i - 0x6200) ||
    (s == 1 && v == d.devNum) || d.stashBar (i - 0x6200) s v
  else if i = 0x7030 then d.regionsBar s v
  else if 0x7100 ≤ i ∧ i < 0x7140 ∧ s = 7 then v == 1 && decide (d.cqSize q < 2 * d.sqSize q)
  else if a = 0xA00201 then (List.range 4).any fun k => d.runningSlot k == some v
  else if a = 0xA00203 then d.setting 0xA00201 == 0xFF || decide (slotSize (d.setting 0xA00201) < d.setting 0xA00202 + len)
  else if a = 0xA00205 then v == 1 && d.setting 0xA00201 == 0xFF
  else false

/-- The object takes its value from `len` bytes (R391, R411). -/
def lengthOk (a len : Nat) : Bool :=
  match objRow a with
  | some r => (match r.ty.size with | some n => len == n | none => decide (len ≤ 65536))
  | none => false

/-- The commits of the last hour have reached their limit (R393). -/
def Device.commitsFull (d : Device) : Bool := decide (600 ≤ d.dict.commits.countP fun t => decide (d.now < t + 3600000000000))

def needsCommit (a : Nat) : Bool := a == 0x120007 || (match objRow a with | some r => r.acc == .rwp | none => false)

/-- The access right of an object; CONST where there is none. -/
def accessOf (a : Nat) : OAccess := match objRow a with | some r => r.acc | none => .const

/-- The first status that a complete write meets, in the order of R397 from LOCKED on; `form` is what the path's own form of the value has met. -/
def Device.writeStatus (d : Device) (p : Path) (a : Nat) (bs : List Byte) (form : Nat) : Nat :=
  let v := leNat bs
  let acc := accessOf a
  if addressStatus a ≠ dsOk then addressStatus a
  else if acc = .ro ∨ acc = .const then dsReadOnly
  else if a ≠ 0x110002 ∧ a ≠ 0x900101 ∧ d.dict.owner ≠ pathCode p then dsNotOwner
  else if form = dsTypeLength ∨ !(lengthOk a bs.length) then dsTypeLength
  else if a = 0x110002 ∧ d.claimStatus p v = dsNotOwner then dsNotOwner
  else if d.stateBars a v then dsState
  else if form = dsValueRange ∨ !(valueOk a v) ∨ (a = 0x110002 ∧ d.claimStatus p v ≠ dsOk) then dsValueRange
  else if d.interlock a v bs.length then dsInterlock
  else if (a = 0xA00203 ∨ (a = 0xA00205 ∧ v = 1)) ∧ (d.images.loadState = 1 ∨ d.images.loadState = 2) then dsPending
  else if needsCommit a ∧ d.commitsFull then dsFlash
  else dsOk

/-! ### The commit (R393) -/

/-- The persisted set goes to the older of the two copies. -/
def Device.commit (d : Device) : Device :=
  let f := d.flash
  let c : FlashCopy := ⟨max f.copyA.seq f.copyB.seq + 1, true, d.dict.vals.filter keptVal⟩
  { (d.withDict fun x => { x with commits := d.now :: x.commits.filter fun t => decide (d.now < t + 3600000000000) }) with
    flash := if f.copyA.seq ≤ f.copyB.seq then { f with copyA := c } else { f with copyB := c } }

/-! ### Effects -/

/-- A claim, a release or a force claim that is granted (R402). -/
def Device.claimEffect (d : Device) (p : Path) (v : Nat) : Device :=
  if v = 0 then d.setOwner 0 else if v = 1 then d.setOwner (pathCode p) else (d.setOwner (pathCode p)).count 0x80B007 1

/-- The settings of pace and power act (R374, R380): the published floor at once, the limits in their order, and a plan is due after a limit. -/
def Device.paceSet (d : Device) (limit : Bool) : Device :=
  let d1 := d.publish (d.publishedOf d.pace.planned)
  if limit then d1.withPace fun p => { p with limitOrder := d.orderNext, planDue := true } else d1

/-- Bits of the alert cause word that a write clears: those whose condition does not hold (R344). -/
def Device.alertClear (d : Device) (v : Nat) : Device :=
  let held := (if d.bays.toList.any fun b => b.state == .out then 1 else 0) + (if d.bays.toList.any (·.degraded) then 2 else 0)
  d.withSafety fun s => { s with alert := s.alert &&& ~~~(BitVec.ofNat 32 v &&& ~~~(BitVec.ofNat 32 held)) }

def Device.wakeClear (d : Device) (v : Nat) : Device :=
  d.withPower fun p => { p with wakeReasons := p.wakeReasons &&& ~~~(BitVec.ofNat 8 v) }

/-- A pair is enabled with fresh indices, or starts its drain (R226, R227). -/
def Device.pairSet (d : Device) (q v : Nat) : Device :=
  let s := (d.queue q).state
  if v = 1 ∧ s = 0 then d.setQueue q { QPair.fresh with state := 1 }
  else if v = 0 ∧ s = 1 then d.modQueue q fun x => { x with state := 2 }
  else d

/-- Buckets take their levels before a setting that their rates follow can change (R208, R247). -/
def Device.ratesMove (d : Device) : Device := d.settleTokens.settleBuckets

/-- Every RWP object takes its default in one commit (R404). -/
def Device.restoreAll (d : Device) : Device :=
  let moved := d.dict.vals.filter fun e => keptVal e && e.2 != some (objDefault d.power.straps.toNat e.1)
  let d1 := d.ratesMove.withDict fun x => { x with vals := x.vals.filter fun e => !(keptVal e) }
  let d2 := moved.foldl (fun d e => d.touch e.1) d1
  d2.commit.paceSet (moved.any fun e => e.1 / 256 == 0x3010)

/-- The power-cycle request (R362). -/
def Device.askCycle (d : Device) : Device :=
  (d.withSafety fun s => { s with powerCycle := true }).logEvent { type := 0x08, rung := 4, detail := leBytes 1 0 }

/-- Rung 2 for a bay that software asks for (R357, R362): a bay under handling escalates (R360). -/
def Device.askBayReset (d : Device) (k : Nat) : Device :=
  if (d.bay k).state = .reset then d else d.bayReset k 0x05 {}

/-- The path's own cursor moves (R402). -/
def Device.cursorSet (d : Device) (p : Path) (v : Nat) : Device :=
  d.modPath p fun x => { x with cursor := v, cursorGen := x.cursorGen + 1, recordGen := if x.cursor = v then x.recordGen else x.recordGen + 1 }

/-- What an accepted write does beside storing its value, by object. -/
def Device.writeEffect (d : Device) (p : Path) (a : Nat) (bs : List Byte) : Device :=
  let v := leNat bs
  let i := a / 256
  if a = 0x110002 then d.claimEffect p v
  else if a = 0x120002 then d.withDict fun x => { x with plcaStopped := false, collisions := [] }
  else if a = 0x120005 then (if v = 0 then [0, 1, 2, 3].foldl (fun d k => d.closeSession k) d else d)
  else if a = 0x120007 then d.restoreAll
  else if i = 0x3000 then d.paceSet false
  else if i = 0x3010 then d.paceSet true
  else if a = 0x30300C then d.withPace fun x => { x with planDue := true }
  else if a = 0x304002 then d.wakeReason 0
  else if a = 0x304003 then d.wakeClear v
  else if a = 0x400002 then d.alertClear v
  else if i = 0x4002 then d.outOfService (a % 256 - 1) 3 {}
  else if a = 0x405001 then d.askBayReset v
  else if a = 0x405002 then d.pairReset v 0
  else if a = 0x405003 then d.askCycle
  else if 0x6200 ≤ i ∧ i < 0x6300 then d.grantStream (i - 0x6200)
  else if 0x7100 ≤ i ∧ i < 0x7140 ∧ a % 256 = 7 then d.pairSet (i - 0x7100) v
  else if a = 0x900101 then d.cursorSet p v
  else if a = 0xA00201 then d.stopLoading
  else if a = 0xA00203 then d.startLoad bs
  else if a = 0xA00205 then (if v = 1 then d.startVerify else d)
  else if a = 0xA00305 then (if v = 1 then d.commitSecurity else d)
  else d

/-- A settable object's value is one that the dictionary keeps. -/
def Device.keeps (d : Device) (p : Path) (a : Nat) : Bool :=
  (match objRow a with | some r => (r.acc == .rw || r.acc == .rwp) && r.ty.size.isSome | none => false) && (d.number p a).isNone

/-- What an accepted write stores: the object's generation advances (R394), a kept value is kept, and an RWP object is committed (R393). -/
def Device.storeValue (d : Device) (p : Path) (a : Nat) (bs : List Byte) : Device :=
  let d1 := if a = 0x900101 then d else d.ratesMove.touch a
  let d2 := if d1.keeps p a then d1.withDict fun x => { x with vals := x.vals.put none a (some (leNat bs)) } else d1
  if needsCommit a && a != 0x120007 then d2.commit else d2

/-- An accepted write: the value is stored and acts. -/
def Device.applyWrite (d : Device) (p : Path) (a : Nat) (bs : List Byte) : Device := (d.storeValue p a bs).writeEffect p a bs

/-! ### A write request (R411) -/

/-- The value an SPI write's words stand for, and what their form meets: a scalar's word count, and zeros above its size (R391, R415). -/
def spiValue (a : Nat) (bs : List Byte) : List Byte × Nat :=
  match objRow a with
  | some r =>
    (match r.ty.size with
     | some n => (bs.take n, if bs.length ≠ roundUp n 4 then dsTypeLength else if (bs.drop n).any (· != 0) then dsValueRange else dsOk)
     | none => (bs, dsTypeLength))
  | none => (bs, dsOk)

/-- A whole value arrives: it is checked and applied. -/
def Device.writeWhole (d : Device) (p : Path) (a : Nat) (bs : List Byte) (form : Nat) : Device × Nat :=
  let st := d.writeStatus p a bs form
  if st = dsOk then (d.applyWrite p a bs, dsOk) else (d, st)

/-- The state of a path's Brynuo session has changed (R394, R401). -/
def Device.touchSession (d : Device) : Path → Device
  | .brynuo k => d.touch (0x110101 + k.val)
  | .inband => d
  | .spi => d

/-- A segment that is not the last: kept, if nothing but its length could refuse the write. -/
def Device.keepSegment (d : Device) (p : Path) (a : Nat) (have' bs : List Byte) : Device × Nat :=
  let all := have' ++ bs
  let st := d.writeStatus p a all (if isLong a then dsOk else dsTypeLength)
  if st = dsOk then ((d.modPath p fun x => { x with seg := some ⟨a, all, d.now⟩ }).touchSession p, dsOk)
  else (d.dropSeg p, st)

/-- The service of a write request with its offset and last mark. -/
def Device.serveWrite (d0 : Device) (p : Path) (a off : Nat) (bs : List Byte) (last : Bool) : Device × Nat :=
  let old := (d0.path p).seg
  let d := match old with | some g => if g.addr = a then d0 else d0.dropSeg p | none => d0
  match (d.path p).seg with
  | some g =>
    if off ≠ g.data.length then (d.dropSeg p, dsMalformed)
    else if last then (d.dropSeg p).writeWhole p a (g.data ++ bs) dsOk
    else d.keepSegment p a g.data bs
  | none =>
    if off ≠ 0 then (d, dsMalformed)
    else if last then d.writeWhole p a bs dsOk
    else d.keepSegment p a [] bs

/-- A write over SPI, by words. -/
def Device.serveSpiWrite (d : Device) (a : Nat) (bs : List Byte) : Device × Nat :=
  let v := spiValue a bs
  d.writeWhole .spi a v.1 v.2

end Sys2Proof.Machine
end

