-- ==== Sys2Proof/Machine/Server.lean ====
section
/-! DEFINITION. The dictionary server, the in-band window and the SPI sideband (R395, R413 to R419). -/

namespace Sys2Proof.Machine

/-! ### Where the dictionary is reachable (R413, R421, R426) -/

/-- The management image runs: SPI and Brynuo reach the dictionary (R421 step 5). -/
def Device.dictUp (d : Device) : Bool :=
  match d.power.phase with
  | .off => false
  | .powering => false
  | .regulated => false
  | .romRecovery => false
  | .service => true
  | .verified => true
  | .trained => true
  | .tested => true
  | .ready => true
  | .restricted => true
  | .resetting => true

/-- The path reaches the server now; a Brynuo path is an open session. -/
def Device.pathOpen (d : Device) : Path → Bool
  | .inband => d.hostOpen
  | .spi => d.dictUp
  | .brynuo k => (d.dictUp || d.power.phase == .romRecovery) && (d.dict.sessions[k]).live

/-! ### Answers -/

/-- A path keeps what its last request answered. -/
def Device.record (d : Device) (p : Path) (r : DictResult) : Device := d.modPath p fun x => { x with result := r }

/-- The in-band request ends: its result is in place and the vector of object 0x1200:06 is raised (R413, R414). -/
def Device.inbandEnd (d : Device) (r : DictResult) : Device :=
  let d1 := d.withDict fun x => { x with inband := { x.inband with
    busy := false, status := r.status, last := r.last, retLen := r.data.length, gen := r.gen, data := x.inband.data.write 0 r.data } }
  d1.raise (d1.setting 0x120006)

/-- The words of an SPI result. -/
def wordsOf : Nat → List Byte → List W32
  | 0, _ => []
  | n + 1, bs => BitVec.ofNat 32 (leNat (bs.take 4)) :: wordsOf n (bs.drop 4)

/-- The SPI request has its result (R415). -/
def Device.spiEnd (d : Device) (r : DictResult) : Device :=
  d.withDict fun x => { x with spi := { x.spi with ready := true, addr := r.addr, status := r.status, words := wordsOf (ceilDiv r.data.length 4) r.data } }

/-- Brynuo operation codes (R408). -/
def opOpen : Nat := 0x01
def opClose : Nat := 0x02
def opKeepalive : Nat := 0x03
def opRead : Nat := 0x10
def opWrite : Nat := 0x11
def opClaim : Nat := 0x20
def opRelease : Nat := 0x21
def opNotice : Nat := 0x30

/-- A response is sent, counted, and kept for the case that its request comes again (R408, R410). -/
def Device.respond (d : Device) (k : Nat) (m : BrMsg) : Device :=
  let d1 := (d.count 0x80B001 1).transmit m
  match d1.dict.sessions[k]? with
  | some s =>
    if s.live ∧ s.nonce = m.nonce ∧ s.lastSeq = m.seq then
      d1.withDict fun x => { x with sessions := x.sessions.setIfInBounds k { s with cached := some m, busy := false } }
    else d1
  | none => d1

/-- The response to a served Brynuo request, if its session is still open (R395, R407). -/
def Device.brynuoEnd (d : Device) (k : Nat) (q : DictReq) (r : DictResult) : Device :=
  match d.dict.sessions[k]? with
  | some s =>
    if s.live ∧ s.nonce = q.nonce then
      let rw := q.op = opRead ∨ q.op = opWrite
      d.respond k ⟨2, q.op, k, q.seq, q.nonce, if rw then q.addr else 0, if rw then q.off else 0, r.status, !q.write && r.last, if rw then r.gen else 0, r.data, s.peer⟩
    else d
  | none => d

/-- The answer goes out on the request's path. -/
def Device.answer (d : Device) (q : DictReq) (r : DictResult) : Device :=
  let d1 := d.record q.path r
  match q.path with
  | .inband => d1.inbandEnd r
  | .spi => d1.spiEnd r
  | .brynuo k => d1.brynuoEnd k.val q r

/-! ### Service in order (R395) -/

/-- Bytes a path can carry of a value. -/
def pathMost : Path → Nat
  | .inband => 4096
  | .spi => 256
  | .brynuo _ => 1024

/-- The service of a write request by the form of its path. -/
def Device.serveForm (d : Device) (q : DictReq) : Device × Nat :=
  match q.path with
  | .spi => d.serveSpiWrite q.addr q.data
  | .inband => d.serveWrite q.path q.addr q.off q.data q.last
  | .brynuo _ => d.serveWrite q.path q.addr q.off q.data q.last

/-- A whole write whose commit fails: nothing is applied, and the answer is FLASH (R393). -/
def Device.serveChecked (d : Device) (q : DictReq) (ring : RingRead) : Device × Nat :=
  let x := d.serveForm q
  if ring = .commitFails ∧ q.last ∧ needsCommit q.addr ∧ x.2 = dsOk then (d.dropSeg q.path, dsFlash) else x

/-- One request is served. -/
def Device.serveOne (d : Device) (q : DictReq) (ring : RingRead) : Device :=
  if q.write then
    let x := d.serveChecked q ring
    x.1.answer q ⟨x.2, q.addr, [], false, x.1.genOf q.path q.addr⟩
  else
    let d1 := if q.addr = 0x900102 then d.ringRead ring else d
    d1.answer q (d1.serveRead q.path q.addr q.off q.len (pathMost q.path))

/-- SPI before in-band before Brynuo sessions, within one microsecond. -/
def pathRank : Path → Nat
  | .spi => 0
  | .inband => 1
  | .brynuo k => 2 + k.val

def DictReq.before (a b : DictReq) : Bool :=
  decide (a.at' / 1000 < b.at' / 1000) || (a.at' / 1000 == b.at' / 1000 && decide (pathRank a.path < pathRank b.path))

/-- The first request of a list in the order of service. -/
def firstReq : List DictReq → Option DictReq
  | [] => none
  | q :: r => match firstReq r with | some x => if x.before q then some x else some q | none => some q

/-- The requests that can be served now: the ROM recovery service serves Brynuo alone. -/
def Device.waiting (d : Device) : List DictReq :=
  d.dict.requests.filter fun q => match q.path with
    | .inband => d.dictUp
    | .spi => d.dictUp
    | .brynuo _ => d.dictUp || d.power.phase == .romRecovery

/-- A request leaves the queue. -/
def Device.takeRequest (d : Device) (q : DictReq) : Device := d.withDict fun x => { x with requests := x.requests.erase q }

/-- The next request is served. -/
def Device.serveNext (d : Device) (ring : RingRead) : Device :=
  match firstReq d.waiting with
  | none => d
  | some q => (d.takeRequest q).serveOne q ring

def execDictionaryService (ring : RingRead) (s : State) : Host.Outcome State Fault Refusal := .next { s with dev := s.dev.serveNext ring }

/-- Serves as many requests as wait. -/
def Device.serveMany : Nat → Device → Device
  | 0, d => d
  | n + 1, d => Device.serveMany n (d.serveNext .good)

/-- A request arrives over a path: over Brynuo it is counted and renews the session's lease (R408, R409). -/
def Device.arrives (d : Device) (p : Path) : Device :=
  match p with
  | .brynuo k => (d.count 0x80B001 1).withDict fun x => { x with sessions := x.sessions.set k { x.sessions[k] with lastReq := d.now } }
  | .inband => d
  | .spi => d

/-- The service of a write request that carries a whole value; the words of SPI carry no STRING, DOMAIN or TABLE (R391). -/
def Device.wholeWrite (d : Device) (p : Path) (a : Nat) (bs : List Byte) : Device × Nat :=
  if p = .spi then d.writeWhole p a bs (if isLong a then dsTypeLength else dsOk) else d.serveWrite p a 0 bs true

/-- The service of a whole write that arrives over a path after every waiting request: the meaning shared by the rows that name one write (notes/assumptions/13). -/
def Device.directWrite (d : Device) (p : Path) (a : Nat) (bs : List Byte) : Device :=
  if d.pathOpen p then
    let x := ((Device.serveMany d.dict.requests.length d).arrives p).wholeWrite p a bs
    x.1.record p ⟨x.2, a, [], false, x.1.genOf p a⟩
  else d

/-! ### The in-band window (R413, R414) -/

/-- An access that arrives while the window is busy is discarded and counted. -/
def Device.overrun (d : Device) : Device :=
  (d.withDict fun x => { x with inband := { x.inband with overrun := true } }).count 0x80B008 1

/-- A DICT_ARG word that does not follow R413. -/
def argBad (write : Bool) (arg : Nat) : Bool := field arg 14 13 != 0 || decide (4096 < field arg 12 0) || (write && field arg 12 0 == 0)

/-- The request a DICT_CMD write starts. -/
def Device.dictRequest (d : Device) (write : Bool) (addr : Nat) : DictReq :=
  let arg := d.dict.inband.arg.toNat
  let len := field arg 12 0
  ⟨.inband, 0, write, addr, field arg 31 16, len, if write then d.dict.inband.data.read 0 len else [], arg.testBit 15, d.now, 0, 0⟩

/-- The window is busy with the command of a DICT_CMD value. -/
def Device.cmdBusy (d : Device) (v : W32) : Device := d.withDict fun x => { x with inband := { x.inband with busy := true, cmd := v } }

/-- The window is busy with a read or a write. -/
def Device.dictBusy (d : Device) (write : Bool) (addr : Nat) : Device :=
  d.cmdBusy (BitVec.ofNat 32 ((if write then 0x11 else 0x10) * 2 ^ 24 + addr))

/-- A DICT_CMD write: the request starts, or ends at once where DICT_ARG does not follow R413. -/
def Device.dictCmd (d : Device) (write : Bool) (addr : Nat) : Device :=
  if !d.hostOpen then d
  else if d.dict.inband.busy then d.overrun
  else if argBad write d.dict.inband.arg.toNat then (d.dictBusy write addr).inbandEnd ⟨dsMalformed, addr, [], false, d.genOf .inband addr⟩
  else (d.dictBusy write addr).withDict fun x => { x with requests := x.requests ++ [d.dictRequest write addr] }

/-- DICT_READ. -/
def execDictRead (addr : BitVec 24) (s : State) : Host.Outcome State Fault Refusal := .next { s with dev := s.dev.dictCmd false addr.toNat }
/-- DICT_WRITE. -/
def execDictWrite (addr : BitVec 24) (s : State) : Host.Outcome State Fault Refusal := .next { s with dev := s.dev.dictCmd true addr.toNat }

/-- DICT_STATUS_CLEAR. -/
def Device.statusClear (d : Device) (v : W32) : Device :=
  if d.hostOpen && v.toNat.testBit 30 then d.withDict fun x => { x with inband := { x.inband with overrun := false } } else d

def execDictStatusClear (value : W32) (s : State) : Host.Outcome State Fault Refusal := .next { s with dev := s.dev.statusClear value }

/-- A word access of DICT_DATA: 32 or 64 bits, aligned, inside the window. -/
def dataAccessOk (off : Nat) (bs : List Byte) : Bool := (bs.length == 4 || bs.length == 8) && off % bs.length == 0 && decide (off + bs.length ≤ 4096)

/-- A host write of a register of the in-band window (R413). -/
def Device.windowWrite (d : Device) (w : BarWrite) : Device :=
  if !d.hostOpen then d
  else if d.dict.inband.busy then d.overrun
  else
    match w with
    | .arg v => d.withDict fun x => { x with inband := { x.inband with arg := v } }
    | .cmd v =>
      if v.toNat / 2 ^ 24 = 0x10 ∨ v.toNat / 2 ^ 24 = 0x11 then d.dictCmd (v.toNat / 2 ^ 24 == 0x11) (v.toNat % 2 ^ 24)
      else (d.cmdBusy v).inbandEnd ⟨dsMalformed, v.toNat % 2 ^ 24, [], false, d.genOf .inband (v.toNat % 2 ^ 24)⟩
    | .data off bs => if dataAccessOk off bs then d.withDict fun x => { x with inband := { x.inband with data := x.inband.data.write off bs } } else d
    | .msix _ => d

/-- DICT_ARG_DATA_WRITE: a host write of a register of the window; or of MSI-X, once configuration requests complete normally (R228, R424). -/
def Device.argData (d : Device) : BarWrite → Device
  | .msix m => if d.power.linkUp && d.isReady then d.withOut fun o => o.configure m else d
  | w => d.windowWrite w

def execDictArgDataWrite (reg : BarWrite) (s : State) : Host.Outcome State Fault Refusal := .next { s with dev := s.dev.argData reg }

/-- The DICT_STATUS register (R413). -/
def Inband.statusWord (x : Inband) : W32 :=
  BitVec.ofNat 32 ((if x.busy then 2 ^ 31 else 0) + (if x.overrun then 2 ^ 30 else 0) + (if x.last then 2 ^ 29 else 0) + x.retLen * 2 ^ 16 + x.status)

/-! ### The SPI sideband (R415, R416, R419) -/

/-- The status register (R416). -/
def Device.spiStatus (d : Device) : Byte :=
  let x := d.dict.spi
  let bit := fun (b : Bool) (n : Nat) => if b then 2 ^ n else 0
  BitVec.ofNat 8 (bit x.ready 7 + bit x.aborted 6 + bit x.rejected 5 + bit x.busyRefused 4 + bit (d.dict.owner == 2) 3 +
    bit (d.safety.alert != 0) 2 + bit d.dictUp 1)

/-- What a FETCH frame clocks out after byte 0. -/
def SpiState.resultBytes (x : SpiState) : List Byte :=
  let st := if !x.applied then dsMalformed else if x.ready then x.status else dsPending
  let ws := if x.applied && x.ready then x.words else []
  let b := leBytes 1 st ++ leBytes 3 (if x.applied then x.addr else 0) ++ leBytes 1 ws.length ++ ws.flatMap fun w => leBytes 4 w.toNat
  b ++ [crc8 b]

def Device.withSpi (d : Device) (f : SpiState → SpiState) : Device := d.withDict fun x => { x with spi := f x.spi }

/-- A frame ends early: nothing is applied (R419). -/
def Device.spiAbort (d : Device) : Device := (d.withSpi fun x => { x with aborted := true }).count 0x80B003 1

/-- A frame that fails its CRC, or has an unknown opcode (R419). -/
def Device.spiReject (d : Device) : Device := (d.withSpi fun x => { x with rejected := true }).count 0x80B005 1

/-- A READ or WRITE frame is applied: its request is received, unless the one before has no result yet. -/
def Device.spiRequest (d : Device) (q : DictReq) : Device :=
  if d.dict.spi.applied && !d.dict.spi.ready then d.withSpi fun x => { x with busyRefused := true }
  else
    (d.withSpi fun x => { x with applied := true, ready := false, addr := q.addr, words := [] }).withDict fun x => { x with requests := x.requests ++ [q] }

/-- A READ frame whose control word breaks its layout is answered MALFORMED at once. -/
def Device.spiMalformed (d : Device) (addr : Nat) : Device :=
  if d.dict.spi.applied && !d.dict.spi.ready then d.withSpi fun x => { x with busyRefused := true }
  else d.withSpi fun x => { x with applied := true, ready := true, addr := addr, status := dsMalformed, words := [] }

/-- A whole frame that passes its CRC. -/
def Device.spiApply (d : Device) (op : Nat) (bs : List Byte) : Device :=
  let addr := bytesNat bs 1 3
  if op = 0x02 then d.spiRequest ⟨.spi, op, true, addr, 0, 4, slice bs 4 4, true, d.now, 0, 0⟩
  else if op = 0x06 then d.spiRequest ⟨.spi, op, true, addr, 0, 8, slice bs 4 8, true, d.now, 0, 0⟩
  else if op = 0x03 then
    let c := bytesNat bs 4 4
    if field c 7 0 ≠ 0 ∨ 64 < field c 15 8 then d.spiMalformed addr
    else d.spiRequest ⟨.spi, op, false, addr, field c 31 16, 4 * field c 15 8, [], true, d.now, 0, 0⟩
  else d.withSpi fun x => { x with aborted := false, rejected := false, busyRefused := false }

/-- Bytes of a frame with its CRC; 0 for an unknown opcode. -/
def spiLength (op : Nat) : Nat :=
  if op = 0x02 then 9 else if op = 0x06 then 13 else if op = 0x03 then 9 else if op = 0x05 then 2 else 0

/-- A FETCH frame. -/
def Device.spiFetchFrame (d : Device) (n extra : Nat) : Device :=
  let r := d.dict.spi.resultBytes
  let pad := if r.length ≤ n then 8 * (n - r.length) + extra else 0
  (d.withSpi fun x => { x with miso := d.spiStatus :: padTo n (r.take n) }).count 0x80B004 pad

/-- A frame from the fall of SPI_CS# to its rise. -/
def Device.spiFrame (d : Device) (f : SpiFrame) : Device :=
  if !d.power.pwrgd then d
  else
    let d1 := d.withSpi fun x => { x with miso := [d.spiStatus] }
    match f.bytes with
    | [] => d.spiAbort
    | b :: r =>
      let op := b.toNat
      let n := spiLength op
      if op = 0x0F then d.spiFetchFrame r.length f.extra
      else if n = 0 then d1.spiReject
      else if f.bytes.length < n then d1.spiAbort
      else
        let d2 := d1.count 0x80B004 (8 * (f.bytes.length - n) + f.extra)
        if crc8 (f.bytes.take (n - 1)) = f.bytes.getD (n - 1) 0 then d2.spiApply op f.bytes else d2.spiReject

/-- WRITE1. -/
def execWrite1 (f : SpiFrame) (s : State) : Host.Outcome State Fault Refusal := .next { s with dev := s.dev.spiFrame f }
/-- WRITE2. -/
def execWrite2 (f : SpiFrame) (s : State) : Host.Outcome State Fault Refusal := .next { s with dev := s.dev.spiFrame f }
/-- SPI_READ. -/
def execSpiRead (f : SpiFrame) (s : State) : Host.Outcome State Fault Refusal := .next { s with dev := s.dev.spiFrame f }
/-- FETCH. -/
def execSpiFetch (f : SpiFrame) (s : State) : Host.Outcome State Fault Refusal := .next { s with dev := s.dev.spiFrame f }
/-- CLEAR_STATUS. -/
def execClearStatus (f : SpiFrame) (s : State) : Host.Outcome State Fault Refusal := .next { s with dev := s.dev.spiFrame f }

/-- SPI_FRAME_ABORT. -/
def execSpiFrameAbort (s : State) : Host.Outcome State Fault Refusal :=
  .next { s with dev := if s.dev.power.pwrgd then s.dev.spiAbort else s.dev }

/-- SPI_FRAME_TIMEOUT: the frame is aborted at once (R419). -/
def execSpiFrameTimeout (s : State) : Host.Outcome State Fault Refusal :=
  .next { s with dev := if s.dev.power.pwrgd then s.dev.spiAbort else s.dev }

end Sys2Proof.Machine
end

