-- ==== Sys2Proof/Machine/Brynuo.lean ====
section
/-! DEFINITION. Brynuo: messages, sessions, notifications and the management port (R401 to R412). -/

namespace Sys2Proof.Machine

/-! ### Messages (R406, R407) -/

/-- A request or acknowledgement as its header says. -/
structure BrHead where
  kind : Nat
  op : Nat
  session : Nat
  seq : Nat
  nonce : W32
  addr : Nat
  off : Nat
  len : Nat
  status : Nat
  flags : Nat
  payload : List Byte
  peer : BitVec 128
  deriving DecidableEq, Repr

/-- The message of a datagram, if its magic, version, length and trailer are right. A READ request's length field is the length it asks for, and it carries no payload (notes/assumptions/27). -/
def parseBr (f : BrFrame) : Option BrHead :=
  let b := f.bytes
  let n := b.length - 4
  let op := bytesNat b 4 1
  let len := bytesNat b 0x14 2
  let own := if bytesNat b 3 1 = 1 ∧ op = opRead then 0 else len
  if 32 ≤ b.length ∧ bytesNat b 0 2 = 0x4E59 ∧ bytesNat b 2 1 = 1 ∧ len ≤ 1024 ∧ b.length = 32 + own ∧ bytesNat b n 4 = crc32c (b.take n) then
    some ⟨bytesNat b 3 1, op, bytesNat b 5 1, bytesNat b 6 2, BitVec.ofNat 32 (bytesNat b 8 4), bytesNat b 0x0C 4, bytesNat b 0x10 4, len,
      bytesNat b 0x16 1, bytesNat b 0x17 1, slice b 28 own, f.peer⟩
  else none

/-- The management port listens: its link is up, a management service runs, Brynuo is enabled. -/
def Device.listens (d : Device) : Bool := d.dict.mgmtUp && (d.dictUp || d.power.phase == .romRecovery) && d.setting 0x120005 == 1

/-- A response with no value. -/
def plainAnswer (m : BrHead) (status : Nat) : BrMsg := ⟨2, m.op, m.session, m.seq, m.nonce, 0, 0, status, false, 0, [], m.peer⟩

/-- An answer outside the sequence of a session: sent and counted, not kept. -/
def Device.reply (d : Device) (m : BrHead) (status : Nat) : Device := (d.count 0x80B001 1).transmit (plainAnswer m status)

/-- The operations a request may name (R408). -/
def requestOps : List Nat := [opOpen, opClose, opKeepalive, opRead, opWrite, opClaim, opRelease]

/-- A received datagram: discarded with a count (R406, R407), given to its row's handler where it is of the row's kind and operation, or, a request of no operation of R408, answered MALFORMED (R397). -/
def Device.brynuoFrame (d : Device) (f : BrFrame) (kind op : Nat) (h : Device → BrHead → Device) : Device :=
  if !d.listens then d
  else if !(f.linkLocal && f.hop == 255 && f.plain && f.udpOk) then d.count 0x80B009 1
  else
    match parseBr f with
    | none => d.count 0x80B009 1
    | some m => if m.kind = kind ∧ m.op = op then h d m else if m.kind = 1 ∧ !(requestOps.contains m.op) then d.reply m dsMalformed else d

/-- Fields that R407 says are 0. -/
def BrHead.clean (m : BrHead) : Bool := decide (m.addr < 2 ^ 24) && m.status == 0 && decide (m.flags < 2)

/-! ### Sessions (R409, R410) -/

def Device.session (d : Device) (k : Nat) : Session := d.dict.sessions[k]?.getD Session.closed
def Device.modSession (d : Device) (k : Nat) (f : Session → Session) : Device :=
  d.withDict fun x => { x with sessions := x.sessions.setIfInBounds k (f (d.session k)) }

/-- A request in a session: malformed, without a session, repeated, out of sequence, or executed by `h`. -/
def Device.inSession (d : Device) (m : BrHead) (h : Device → Nat → Device) : Device :=
  if !m.clean then d.reply m dsMalformed
  else
    let s := d.session m.session
    if !s.live ∨ s.nonce ≠ m.nonce then d.reply m dsNoSession
    else
      let d1 := (d.modSession m.session fun s => { s with lastReq := d.now }).touch (0x110101 + m.session)
      if m.seq = s.lastSeq ∧ (s.cached.isSome ∨ s.busy) then
        match s.cached with
        | some c => (d1.count 0x80B002 1).transmit c
        | none => d1
      else if m.seq = (s.lastSeq + 1) % 65536 then
        h (d1.modSession m.session fun s => { s with lastSeq := m.seq, cached := none, busy := true }) m.session
      else d1.reply m dsBadSequence

/-- A dictionary request of a session joins the server's queue. -/
def Device.brynuoRequest (d : Device) (m : BrHead) (write : Bool) (addr : Nat) (data : List Byte) (last : Bool) : Device :=
  if h : m.session < 4 then
    d.withDict fun x => { x with requests := x.requests ++ [⟨.brynuo ⟨m.session, h⟩, m.op, write, addr, m.off, m.len, data, last, d.now, m.nonce, m.seq⟩] }
  else d

/-- The sessions a peer holds close (R409). -/
def Device.dropPeer (d : Device) (peer : BitVec 128) : Device :=
  [0, 1, 2, 3].foldl (fun d k => if (d.session k).live ∧ (d.session k).peer = peer then d.closeSession k else d) d

/-- OPEN (R408, R409). -/
def Device.openReq (d0 : Device) (m : BrHead) : Device :=
  if !m.clean ∨ m.session ≠ 0xFF ∨ m.seq ≠ 0 then d0.reply m dsMalformed
  else
    let d := d0.dropPeer m.peer
    match [0, 1, 2, 3].find? fun k => !(d.session k).live with
    | none => d.reply m dsSessionLimit
    | some k =>
      let n := Config.nonce d.dict.nonceCount
      let s : Session := { Session.closed with live := true, peer := m.peer, openedAt := d.now, lastReq := d.now, nonce := n, leaseMs := d.setting 0x120004 }
      let d1 := (d.withDict fun x => { x with sessions := x.sessions.setIfInBounds k s, nonceCount := x.nonceCount + 1,
                                              brynuoPaths := x.brynuoPaths.setIfInBounds k PathState.fresh }).touch (0x110101 + k)
      (d1.count 0x80B001 1).transmit ⟨2, opOpen, k, 0, n, 0, 0, dsOk, false, 0, [], m.peer⟩

def execOpenSession (f : BrFrame) (s : State) : Host.Outcome State Fault Refusal := .next { s with dev := s.dev.brynuoFrame f 1 opOpen Device.openReq }

/-- CLOSE: the session ends after the response. -/
def Device.closeReq (d : Device) (m : BrHead) : Device :=
  d.inSession m fun d k => (d.respond k (plainAnswer m dsOk)).closeSession k

def execCloseSession (f : BrFrame) (s : State) : Host.Outcome State Fault Refusal := .next { s with dev := s.dev.brynuoFrame f 1 opClose Device.closeReq }

/-- KEEPALIVE. -/
def Device.keepaliveReq (d : Device) (m : BrHead) : Device := d.inSession m fun d k => d.respond k (plainAnswer m dsOk)

def execKeepalive (f : BrFrame) (s : State) : Host.Outcome State Fault Refusal := .next { s with dev := s.dev.brynuoFrame f 1 opKeepalive Device.keepaliveReq }

/-- READ. -/
def Device.readReq (d : Device) (m : BrHead) : Device := d.inSession m fun d _ => d.brynuoRequest m false m.addr [] true

def execRead (f : BrFrame) (s : State) : Host.Outcome State Fault Refusal := .next { s with dev := s.dev.brynuoFrame f 1 opRead Device.readReq }

/-- WRITE. -/
def Device.writeReq (d : Device) (m : BrHead) : Device := d.inSession m fun d _ => d.brynuoRequest m true m.addr m.payload (m.flags % 2 == 1)

def execWrite (f : BrFrame) (s : State) : Host.Outcome State Fault Refusal := .next { s with dev := s.dev.brynuoFrame f 1 opWrite Device.writeReq }

/-! ### Ownership (R402) -/

/-- A CLAIM or RELEASE message stands for a write of object 0x1100:02. -/
def Device.ownerReq (v : Byte) (d : Device) (m : BrHead) : Device :=
  d.inSession m fun d _ => d.brynuoRequest { m with off := 0 } true 0x110002 [v] true

/-- CLAIM. -/
def execClaim (v : ClaimVia) (s : State) : Host.Outcome State Fault Refusal :=
  .next { s with dev := match v with | .message f => s.dev.brynuoFrame f 1 opClaim (Device.ownerReq 1) | .object p => s.dev.directWrite p 0x110002 [1] }

/-- RELEASE. -/
def execRelease (v : ClaimVia) (s : State) : Host.Outcome State Fault Refusal :=
  .next { s with dev := match v with | .message f => s.dev.brynuoFrame f 1 opRelease (Device.ownerReq 0) | .object p => s.dev.directWrite p 0x110002 [0] }

/-- FORCE_CLAIM. -/
def execForceClaim (p : Path) (s : State) : Host.Outcome State Fault Refusal := .next { s with dev := s.dev.directWrite p 0x110002 [2] }

/-! ### Notifications, leases, segments (R409, R411, R412) -/

/-- NOTIFICATION_ACK. -/
def Device.ackReq (d : Device) (m : BrHead) : Device :=
  let s := d.session m.session
  if s.live ∧ s.nonce = m.nonce then d.modSession m.session fun s => { s with notices := s.notices.filter fun n => n.seq != m.seq } else d

def execNotificationAck (f : BrFrame) (s : State) : Host.Outcome State Fault Refusal := .next { s with dev := s.dev.brynuoFrame f 4 opNotice Device.ackReq }

/-- A notification is 100 ms old since it was last sent. -/
def Notice.due (n : Notice) (now : Nat) : Bool := decide (n.lastAt + 100000000 ≤ now)

/-- Notifications of a session that are 100 ms old since they were last sent, and have been resent less than three times, go out again; after that they are given up. -/
def Device.resendNotices (d : Device) (k : Nat) : Device :=
  let s := d.session k
  if s.live then
    let again := s.notices.filter fun n => n.due d.now && decide (n.resends < 3)
    let kept := (s.notices.filter fun n => !(n.due d.now) || decide (n.resends < 3)).map fun n =>
      if n.due d.now then { n with resends := n.resends + 1, lastAt := d.now } else n
    again.foldl (fun d n => d.transmit (noticeMsg k n.seq s n.word)) (d.modSession k fun s => { s with notices := kept })
  else d

def execNotificationResend (k : Fin 4) (s : State) : Host.Outcome State Fault Refusal := .next { s with dev := s.dev.resendNotices k.val }

/-- SESSION_LEASE_EXPIRY. -/
def Device.leaseExpiry (d : Device) (k : Nat) : Device :=
  let s := d.session k
  if s.live ∧ s.lastReq + 1000000 * s.leaseMs ≤ d.now then d.closeSession k else d

def execSessionLeaseExpiry (k : Fin 4) (s : State) : Host.Outcome State Fault Refusal := .next { s with dev := s.dev.leaseExpiry k.val }

/-- SEGMENT_TIMEOUT. -/
def Device.segTimeout (d : Device) (p : Path) : Device :=
  match (d.path p).seg with
  | some g => if g.lastAt + 1000000000 ≤ d.now then d.dropSeg p else d
  | none => d

def execSegmentTimeout (p : Path) (s : State) : Host.Outcome State Fault Refusal := .next { s with dev := s.dev.segTimeout p }

/-! ### The management port (R404 to R406) -/

/-- MGMT_NEIGHBOR_SOLICITATION. -/
def Device.mgmtSolicited (d : Device) (target : BitVec 128) : Device :=
  let own := linkLocalOf Config.managementMac.toNat
  if d.dict.mgmtUp && !d.dict.plcaStopped && target == own then d.withOut fun o => { o with mgmtAdverts := own :: o.mgmtAdverts } else d

def execMgmtNeighborSolicitation (target : BitVec 128) (s : State) : Host.Outcome State Fault Refusal :=
  .next { s with dev := s.dev.mgmtSolicited target }

/-- MANAGEMENT_LINK_UP: the settings written since the last link-up apply. -/
def Device.mgmtLinkUp (d : Device) : Device :=
  if d.dictUp || d.power.phase == .romRecovery then
    d.withDict fun x => { x with mgmtUp := true, plcaNode := d.setting 0x120002, plcaTimer := d.setting 0x120003 }
  else d

def execManagementLinkUp (s : State) : Host.Outcome State Fault Refusal := .next { s with dev := s.dev.mgmtLinkUp }

/-- PLCA_COLLISION: the sixteenth within one second stops transmission. -/
def Device.collision (d : Device) : Device :=
  if d.dict.mgmtUp && !d.dict.plcaStopped then
    let c := d.now :: d.dict.collisions.filter fun t => decide (d.now < t + 1000000000)
    d.withDict fun x => { x with collisions := c, plcaStopped := decide (16 ≤ c.length) }
  else d

def execPlcaCollision (s : State) : Host.Outcome State Fault Refusal := .next { s with dev := s.dev.collision }

end Sys2Proof.Machine
end

