-- ==== Sys2Proof/Machine/Settings.lean ====
section
/-! DEFINITION. The rows that name a write of one object: each is the service of that write over a path (R226, R227, R343, R344, R362, R388, R396, R404, R431, R439). -/

namespace Sys2Proof.Machine

/-- The address of sub-index `s` of queue pair `q`'s object. -/
def pairObj (q s : Nat) : Nat := (0x7100 + q) * 256 + s

/-- QUEUE_PAIR_ENABLE. -/
def execQueuePairEnable (p : Path) (q : Fin 64) (s : State) : Host.Outcome State Fault Refusal :=
  .next { s with dev := s.dev.directWrite p (pairObj q.val 7) [1] }
/-- QUEUE_PAIR_DISABLE. -/
def execQueuePairDisable (p : Path) (q : Fin 64) (s : State) : Host.Outcome State Fault Refusal :=
  .next { s with dev := s.dev.directWrite p (pairObj q.val 7) [0] }
/-- BAY_WITHDRAWAL. -/
def execBayWithdrawal (p : Path) (bay : Fin 8) (s : State) : Host.Outcome State Fault Refusal :=
  .next { s with dev := s.dev.directWrite p (0x400201 + bay.val) [1] }
/-- BAY_REINIT_REQUEST. -/
def execBayReinitRequest (p : Path) (value : Byte) (s : State) : Host.Outcome State Fault Refusal :=
  .next { s with dev := s.dev.directWrite p 0x405001 [value] }
/-- QUEUE_PAIR_REINIT_REQUEST. -/
def execQueuePairReinitRequest (p : Path) (value : Byte) (s : State) : Host.Outcome State Fault Refusal :=
  .next { s with dev := s.dev.directWrite p 0x405002 [value] }
/-- POWER_CYCLE_REQUEST. -/
def execPowerCycleRequest (p : Path) (s : State) : Host.Outcome State Fault Refusal := .next { s with dev := s.dev.directWrite p 0x405003 [1] }
/-- ALERT_CAUSE_CLEAR. -/
def execAlertCauseClear (p : Path) (value : W32) (s : State) : Host.Outcome State Fault Refusal :=
  .next { s with dev := s.dev.directWrite p 0x400002 (leBytes 4 value.toNat) }
/-- PLAN_REQUEST. -/
def execPlanRequest (p : Path) (s : State) : Host.Outcome State Fault Refusal := .next { s with dev := s.dev.directWrite p 0x30300C [1] }
/-- RESTORE_DEFAULTS. -/
def execRestoreDefaults (p : Path) (s : State) : Host.Outcome State Fault Refusal := .next { s with dev := s.dev.directWrite p 0x120007 [1] }
/-- LOAD_TARGET. -/
def execLoadTarget (p : Path) (value : Byte) (s : State) : Host.Outcome State Fault Refusal :=
  .next { s with dev := s.dev.directWrite p 0xA00201 [value] }
/-- LOAD_DATA. -/
def execLoadData (p : Path) (data : List Byte) (s : State) : Host.Outcome State Fault Refusal :=
  .next { s with dev := s.dev.directWrite p 0xA00203 data }
/-- VERIFY. -/
def execVerify (p : Path) (s : State) : Host.Outcome State Fault Refusal := .next { s with dev := s.dev.directWrite p 0xA00205 [1] }
/-- COMMIT_SECURITY. -/
def execCommitSecurity (p : Path) (s : State) : Host.Outcome State Fault Refusal := .next { s with dev := s.dev.directWrite p 0xA00305 [1] }
/-- WAKE_REQUEST. -/
def execWakeRequest (p : Path) (s : State) : Host.Outcome State Fault Refusal := .next { s with dev := s.dev.directWrite p 0x304002 [1] }
/-- WAKE_REASON_CLEAR. -/
def execWakeReasonClear (p : Path) (value : Byte) (s : State) : Host.Outcome State Fault Refusal :=
  .next { s with dev := s.dev.directWrite p 0x304003 [value] }
/-- OBJECT_WRITE. -/
def execObjectWrite (p : Path) (addr : BitVec 24) (data : List Byte) (s : State) : Host.Outcome State Fault Refusal :=
  .next { s with dev := s.dev.directWrite p addr.toNat data }

end Sys2Proof.Machine
end

