-- ==== Sys2Proof/Machine/Startup.lean ====
section
/-! DEFINITION. Power, start-up, readiness and the board controller's pins (R341, R342, R359, R367, R421 to R430, R447 to R453), and the summary block (R370). -/

namespace Sys2Proof.Machine

/-! ### What losing power, or a restart from step 3, leaves (R392, R447, R450) -/

/-- Everything volatile takes its value at power-on, the configuration of MSI-X included. Serial flash, the ember registers until the start-up record carries them, the pins and what has been put out stay; a bay's degraded coverage stays until a full self-test, and holds its alert cause (R333, R344). -/
def Device.blank (d : Device) (now : Nat) (power : PowerDom) : Device :=
  { Device.reset with
    now := now, power := power, host := d.host, out := d.out.msixReset, drawn := d.drawn,
    dict := { Dict.fresh with nonceCount := d.dict.nonceCount },
    bays := d.bays.map fun b => { Bay.fresh with degraded := b.degraded },
    safety := { Safety.fresh with alert := if d.bays.toList.any (·.degraded) then 2 else 0 },
    log := { Log.fresh with state := d.log.state, badCopy := d.log.badCopy, next := d.flash.logSeq, summaryAt := now,
                            ember := d.log.ember.setIfInBounds 4 (BitVec.ofNat 32 (d.emberWord 4)) },
    flash := d.flash.cutShort d.loadingSlot }

/-- The regulators switch off and PWRGD falls (R447, R453). -/
def Device.powerOff (d : Device) (lock : Bool) : Device :=
  let p := d.power
  let d1 := d.blank 0 { PowerDom.unpowered with ovLock := lock, bcLow := p.bcLow, perstLow := p.perstLow, straps := p.straps, rung4 := p.rung4 || d.safety.powerCycle }
  { d1 with flash := { d1.flash with ageNs := d1.flash.ageNs + d.now } }

/-- INPUT_RISE: regulation starts, unless an overvoltage turn-off holds the module. -/
def Device.inputRise (d : Device) : Device :=
  if d.power.phase = .off ∧ !d.power.ovLock then d.withPower fun p => { p with phase := .powering } else d

def execInputRise (s : State) : Host.Outcome State Fault Refusal := .next { s with dev := s.dev.inputRise }

/-- UNDERVOLTAGE_OFF. -/
def execUndervoltageOff (s : State) : Host.Outcome State Fault Refusal :=
  .next { s with dev := if s.dev.power.phase = .off then s.dev else s.dev.powerOff false }

/-- OVERVOLTAGE_OFF: the module stays off until the input falls below 10 V. -/
def execOvervoltageOff (s : State) : Host.Outcome State Fault Refusal :=
  .next { s with dev := if s.dev.power.phase = .off then s.dev else s.dev.powerOff true }

/-- INPUT_FALLS_BELOW_10_V. -/
def execInputFallsBelow10V (s : State) : Host.Outcome State Fault Refusal :=
  .next { s with dev := s.dev.withPower fun p => { p with ovLock := false } }

/-- THERMAL_TRIP: a junction at 120 °C, or an inlet above 60 °C. -/
def execThermalTrip (junction inlet : Int) (s : State) : Host.Outcome State Fault Refusal :=
  .next { s with dev := if s.dev.power.phase ≠ .off ∧ (1200 ≤ junction ∨ 600 < inlet) then s.dev.powerOff false else s.dev }

/-- POWER_GOOD. -/
def execPowerGood (s : State) : Host.Outcome State Fault Refusal :=
  .next { s with dev := if s.dev.power.phase = .powering then s.dev.withPower fun p => { p with phase := .regulated, pwrgd := true } else s.dev }

/-- BC_RESET: a pulse below 100 µs is ignored, one of 1 ms restarts from step 3, and between the two the spec leaves it open. -/
def Device.bcReset (d : Device) (held : Nat) : Device :=
  if !d.power.pwrgd ∨ held < 100000 ∨ (held < 1000000 ∧ !(Config.bcShortPulse held)) then d
  else d.blank d.now { PowerDom.unpowered with phase := .regulated, pwrgd := true, bcLow := true, perstLow := d.power.perstLow, straps := d.power.straps, rung4 := d.power.rung4 }

def execBcReset (heldNs : Nat) (s : State) : Host.Outcome State Fault Refusal := .next { s with dev := s.dev.bcReset heldNs }

/-- BC_RST_DEASSERT. -/
def execBcRstDeassert (s : State) : Host.Outcome State Fault Refusal :=
  .next { s with dev := s.dev.withPower fun p => { p with bcLow := false } }

/-! ### Steps 3 to 6 (R393, R426 to R429) -/

/-- The persisted set of the newest copy whose check is good; none where neither is (R393). -/
def Flash.persisted (f : Flash) : Store (Option Nat) :=
  if f.copyA.good ∧ (!f.copyB.good ∨ f.copyB.seq ≤ f.copyA.seq) then f.copyA.vals else if f.copyB.good then f.copyB.vals else []

/-- The log of a new session: out of single copy or log lost it starts with the record that carries ember registers 1 to 6, which are then cleared (R367, R368). -/
def Device.startLog (d : Device) : Device :=
  let l := d.log
  let det := emberDetail fun i => (l.ember[i]?.getD 0).toNat
  let d1 := { d with log := { l with state := 0, badCopy := 0, ember := Vector.replicate 8 0 } }
  if l.state = 0 then d1 else d1.logEvent { type := 0x0E, detail := det }

/-- MASK_ROM_BOOT: the straps are sampled, and the first valid management image starts; without one the recovery service runs. -/
def Device.romBoot (d : Device) (straps : BitVec 6) : Device :=
  if d.power.phase ≠ .regulated ∨ d.power.bcLow then d
  else
    let d1 := ((d.withPower fun p => { p with straps := straps }).withDict fun x => { x with vals := d.flash.persisted }).startLog.pickImage 0
    if d1.images.present.testBit 0 then
      (d1.withPower fun p => { p with phase := .service }).withImages fun im => { im with mgmtVersion := hdrVersion (d1.runningHeader 0) }
    else (d1.withPower fun p => { p with phase := .romRecovery }).withImages fun im => { im with cause := 6 }

def execMaskRomBoot (straps : BitVec 6) (s : State) : Host.Outcome State Fault Refusal := .next { s with dev := s.dev.romBoot straps }

/-- The wake vector of every reason that waits for readiness or D0, once for each (R441). -/
def Device.wakeDeliver (d : Device) : Device :=
  let n := (List.range 8).countP fun i => d.power.wakeVec.toNat.testBit i
  let v := d.setting 0x304005
  (List.range n).foldl (fun d _ => d.raise v) (d.withPower fun p => { p with wakeVec := 0 })

/-- The link can train: step 6 is past, a SerDes image runs, PERST# is high (R424, R429). -/
def Device.linkMayTrain (d : Device) : Bool :=
  d.images.present.testBit 2 && !d.power.perstLow &&
  (match d.power.phase with
   | .verified => true
   | .trained => true
   | .tested => true
   | .ready => true
   | .restricted => true
   | .resetting => true
   | .off => false
   | .powering => false
   | .regulated => false
   | .service => false
   | .romRecovery => false)

def Device.trainLink (d : Device) : Device := if d.linkMayTrain then d.withPower fun p => { p with linkUp := true } else d

/-- IMAGE_VERIFY: step 6. -/
def Device.imageVerify (d : Device) : Device :=
  if d.power.phase ≠ .service then d
  else
    let d1 := ((d.pickImage 1).pickImage 2).pickManifest
    let c := d1.restrictedCause
    let d2 := d1.withImages fun im => { im with cause := c, manifest := manifestVersion (d1.runningBody 3) }
    let d3 := (d2.withPower fun p => { p with phase := if c = 0 then .verified else .restricted, cxlRun := c == 0 }).trainLink
    if c = 0 then d3 else d3.wakeDeliver

def execImageVerify (s : State) : Host.Outcome State Fault Refusal := .next { s with dev := s.dev.imageVerify }

/-! ### Steps 7 and 8 (R218, R341, R342, R423) -/

/-- What serial flash holds of bay `k`: its remapped rows and retired tiles. -/
def Device.recallBay (d : Device) (k : Nat) : Device :=
  d.modBay k fun b => { b with remaps := d.flash.remaps[k]?.getD [], badReserve := d.flash.badRows[k]?.getD [], retired := d.flash.retired[k]?.getD [] }

/-- Bay `k` at the end of training: bit k of `trained` says that its stack trained. -/
def Device.bayTrained (d : Device) (trained : Byte) (k : Nat) : Device :=
  if trained.toNat.testBit k then d.recallBay k else (d.recallBay k).outOfService k 2 {}

/-- HBM_TRAINING_END. -/
def Device.trainingEnd (d : Device) (trained : Byte) : Device :=
  if d.power.phase ≠ .verified then d
  else ((List.range 8).foldl (fun d k => d.bayTrained trained k) d).withPower fun p => { p with phase := .trained }

def execHbmTrainingEnd (trained : Byte) (s : State) : Host.Outcome State Fault Refusal := .next { s with dev := s.dev.trainingEnd trained }

/-- The self-test is the full one: object 0x4040:01 selects it, or the power cycle is one of rung 4. -/
def Device.fullTest (d : Device) : Bool := d.setting 0x404001 == 1 || d.power.rung4

/-- A full test re-admits the retired tiles that pass, and ends degraded coverage. -/
def Device.readmit (d : Device) (k : Nat) (fails : List (Nat × Nat)) : Device :=
  let r := (d.bay k).retired.filter fun p => fails.contains (k, p)
  { (d.modBay k fun b => { b with retired := r, degraded := false }) with flash := { d.flash with retired := d.flash.retired.setIfInBounds k r } }

/-- A row that fails the test is remapped, its lost lines poisoned; no bay is reset. A row that serves no address, remapped before, is passed over. -/
def Device.testRow (d : Device) (r : Nat × Nat × Nat × List Nat) : Device :=
  let (k, pc, row, lost) := r
  if d.bayOut k || (!((d.bay k).rowInUse pc row) && decide (row < 62436)) then d
  else if lost.isEmpty then (d.rowMoved k pc row).memoryEvent k pc row 0 0 (if d.canMove k pc row then 0 else 3)
  else d.loseLines k pc row lost

/-- The physical tiles that fail: an array misses a golden pattern in comparison mode (R147, R149, R341), or another test of the tile fails. -/
def testFails (r : SelfTestResult) : List (Nat × Nat) :=
  ((r.patterns.filter fun p => !(meetsGolden p.2.2.1 p.2.2.2)).map fun p => (p.1, p.2.1)) ++ r.failTiles

/-- SELF_TEST_END: step 8 of start-up, or the quick test of a rung-3 reset, which tests no HBM row. -/
def Device.selfTestEnd (d : Device) (r : SelfTestResult) : Device :=
  let start := decide (d.power.phase = .trained)
  if !start ∧ d.power.phase ≠ .resetting then d
  else if d.images.cause ≠ 0 then d
  else
    let d1 := if start && d.fullTest then (List.range 8).foldl (fun d k => d.readmit k (testFails r)) d else d
    let d2 := (testFails r).foldl (fun d p => d.retireTile p.1 p.2) d1
    let d3 := r.badPaths.foldl (fun d k => d.degrade k 4 0) d2
    let d4 := if start then r.failRows.foldl (fun d x => d.testRow x) d3 else d3
    d4.withPower fun p => { p with phase := .tested, rung4 := false }

def execSelfTestEnd (r : SelfTestResult) (s : State) : Host.Outcome State Fault Refusal := .next { s with dev := s.dev.selfTestEnd r }

/-! ### Readiness (R359, R421 step 10, R423, R435) -/

/-- The capacity used of a port: rounded down to 256 MiB, at most 2 TiB (R219). -/
def farCapacity (n : Nat) : Nat := min (2 ^ 41) (n / 2 ^ 28 * 2 ^ 28)

/-- The CXL ports are enumerated. -/
def Device.enumerateFar (d : Device) : Device :=
  let c := fun p => farCapacity (Config.farDevice p)
  { d with farCap := #v[c 0, c 1], farState := #v[if c 0 = 0 then 0 else 1, if c 1 = 0 then 0 else 1] }

/-- A bay enters run with its logical numbers assigned, or stays out of service with fewer than 1,280 tiles. -/
def Device.bayEnter (d : Device) (k : Nat) : Device :=
  if d.bayOut k then d
  else
    let b := (d.bay k).assign
    if b.phys.length < 1280 then (d.setBay k b).outOfService k 4 {} else d.setBay k { b with state := .run }

/-- What must be over before readiness: the steps before it, and PERST# or BC_RST# held. -/
def Device.mayBeReady (d : Device) : Bool :=
  let reset := decide (2 ≤ d.safety.devHandling)
  !(reset && d.power.origin == .perst && d.power.perstLow) &&
  (if d.images.cause = 0 then d.power.phase == .tested && d.power.planned else d.power.phase == .resetting)

/-- From readiness on the ports of the bays in service train their links (R291; notes/assumptions/18). -/
def Device.trainPorts (d : Device) : Device := { d with ports := d.ports.map fun p => if p.state = 0 then { p with state := 1 } else p }

/-- READY. -/
def Device.becomeReady (d : Device) : Device :=
  if !d.mayBeReady then d
  else if d.images.cause ≠ 0 then
    ((d.withSafety fun s => { s with devHandling := 0 }).withPower fun p => { p with phase := .restricted }).trainLink.wakeDeliver
  else
    let fresh := decide (d.safety.devHandling < 2)
    let d1 := (List.range 8).foldl (fun d k => d.bayEnter k) (if fresh then d.enumerateFar else d)
    let d2 := (d1.withSafety fun s => { s with devHandling := 0 }).withPower fun p => { p with phase := .ready }
    d2.trainPorts.trainLink.wakeDeliver

def execReady (s : State) : Host.Outcome State Fault Refusal := .next { s with dev := s.dev.becomeReady }

/-! ### The summary block (R370) -/

/-- The domain of a record: its bay, or 8 for the device domain. -/
def LogRec.domain (r : LogRec) : Nat := if r.bay < 8 then r.bay else 8

/-- The 576 bytes of counts, by type and domain. -/
def summaryCounts (rs : List LogRec) : List Byte :=
  (List.range 16).flatMap fun t => (List.range 9).flatMap fun k => leBytes 4 (rs.countP fun r => r.type == t + 1 && r.domain == k)

/-- The block of a list of records, newest first. -/
def Device.summaryBlock (d : Device) (rs : List LogRec) : List Byte :=
  let old := rs.reverse
  let chosen := ((old.filter fun r => decide (2 ≤ r.rung)) ++ old.filter fun r => decide (r.rung < 2)).take 54
  let head := leBytes 4 (match old.head? with | some r => r.seq | none => 0) ++ leBytes 4 (match rs.head? with | some r => r.seq | none => 0) ++
    leBytes 8 d.now ++ ((List.range 8).flatMap fun i => leBytes 4 (d.emberWord i)) ++ leBytes 12 0
  padTo 4096 (head ++ leBytes 4 (crc32c head) ++ summaryCounts rs ++ chosen.flatMap LogRec.bytes)

/-- SUMMARY_WRITE: at the end of a summary interval. -/
def Device.summaryWrite (d : Device) : Device :=
  let l := d.log
  if !d.dictUp ∨ d.now < l.summaryAt + 1000000000 * d.setting 0x900201 then d
  else if l.sinceSummary.isEmpty then { d with log := { l with summaryAt := d.now } }
  else
    { d with log := { l with summaryAt := d.now, sinceSummary := [], summaries := l.summaries + 1 },
             flash := { d.flash with summaries := (d.summaryBlock l.sinceSummary :: d.flash.summaries).take 4096, logSeq := l.next } }

def execSummaryWrite (s : State) : Host.Outcome State Fault Refusal := .next { s with dev := s.dev.summaryWrite }

end Sys2Proof.Machine
end

