-- ==== Sys2Proof/Machine/Resets.lean ====
section
/-! DEFINITION. The PCIe link's resets, the banked state and wakes (R403, R424, R435 to R441). -/

namespace Sys2Proof.Machine

/-- CONFIG_REQUEST: completed normally, or with Request Retry Status (true) before readiness (R424, R435). -/
def execConfigRequest (s : State) : Host.Outcome State Fault Refusal :=
  .next { s with dev := if s.dev.power.linkUp then s.dev.withOut fun o => { o with config := (!s.dev.isReady) :: o.config } else s.dev }

/-- The PCIe link is lost: in-band ownership ends (R403). -/
def Device.linkLost (d : Device) : Device :=
  let d1 := d.withPower fun p => { p with linkUp := false }
  if d1.dict.owner = 1 then d1.setOwner 0 else d1

/-- PCIE_LINK_DOWN. -/
def execPcieLinkDown (s : State) : Host.Outcome State Fault Refusal := .next { s with dev := s.dev.linkLost }

/-- PERST_ASSERT: the pin, the link and WAKE# at once; after readiness, or during a rung-3 reset, a conventional reset begins. BC_RST# low governs (R451). -/
def Device.perstAssert (d : Device) : Device :=
  let d1 := d.linkLost.withPower fun p => { p with perstLow := true, wakeLow := false }
  if d1.poweredUp then d1.rung3 .perst 2 {} else d1

def execPerstAssert (s : State) : Host.Outcome State Fault Refusal := .next { s with dev := s.dev.perstAssert }

/-- PERST_DEASSERT. -/
def execPerstDeassert (s : State) : Host.Outcome State Fault Refusal :=
  .next { s with dev := (s.dev.withPower fun p => { p with perstLow := false }).trainLink }

/-- HOT_RESET: from a trained link; the link trains again. -/
def execHotReset (s : State) : Host.Outcome State Fault Refusal :=
  .next { s with dev := if s.dev.power.linkUp && s.dev.poweredUp then s.dev.rung3 .hot 2 {} else s.dev }

/-- FUNCTION_LEVEL_RESET: a configuration write that a ready function takes. -/
def execFunctionLevelReset (s : State) : Host.Outcome State Fault Refusal :=
  .next { s with dev := if s.dev.power.linkUp && s.dev.isReady then s.dev.rung3 .functionLevel 2 {} else s.dev }

/-! ### The banked state (R436 to R438) -/

/-- D3HOT_ENTRY: pairs still enabled or draining are re-initialised, and entry begins. -/
def Device.d3hot (d : Device) : Device :=
  let p := d.power
  if !(d.isReady && p.linkUp) ∨ p.powerState = 1 ∨ p.powerState = 2 then d
  else
    let d1 := (List.range 64).foldl (fun d q => if (d.queue q).state = 1 ∨ (d.queue q).state = 2 then d.pairReset q 0 else d) d
    d1.withPower fun p => { p with powerState := 1 }

def execD3hotEntry (s : State) : Host.Outcome State Fault Refusal := .next { s with dev := s.dev.d3hot }

/-- BANKED_ENTRY_END: tiles and die buffers lose their contents, fabric ports go down, a beacon round under way ends. -/
def Device.bankedEntryEnd (d : Device) : Device :=
  if d.power.powerState ≠ 1 then d
  else
    let d1 := (d.abortCmds fun _ => true).withSafety fun s => { s with beacon := ⟨none, [], []⟩ }
    let d2 := (List.range 8).foldl (fun d k => (d.clearSram k).clearTiles k) d1
    let d3 := (List.range 8).foldl (fun d k => if (d.port k).state = 4 then d else d.portDown k 0) d2
    d3.withPower fun p => { p with powerState := 2 }

def execBankedEntryEnd (s : State) : Host.Outcome State Fault Refusal := .next { s with dev := s.dev.bankedEntryEnd }

/-- D0_ENTRY: the exit begins; a wake not yet handed to the link layer is not sent, unless entry into the banked state comes again before the exit ends (R441). -/
def Device.d0Entry (d : Device) : Device :=
  if d.isReady ∧ (d.power.powerState = 1 ∨ d.power.powerState = 2) then d.withPower fun p => { p with powerState := 3, l23 := false } else d

def execD0Entry (s : State) : Host.Outcome State Fault Refusal := .next { s with dev := s.dev.d0Entry }

/-- BANKED_EXIT_END: D0 again; the fabric ports train (R438), and the reasons that wait raise the wake vector (R441). -/
def Device.bankedExitEnd (d : Device) : Device :=
  if d.power.powerState = 3 then ((d.withPower fun p => { p with powerState := 0, wakeDue := false }).trainPorts).wakeDeliver else d

def execBankedExitEnd (s : State) : Host.Outcome State Fault Refusal := .next { s with dev := s.dev.bankedExitEnd }

/-- PME_TURN_OFF: the host takes the link to L2/L3 Ready. -/
def execPmeTurnOff (s : State) : Host.Outcome State Fault Refusal :=
  .next { s with dev := if s.dev.isReady && s.dev.power.linkUp then s.dev.withPower fun p => { p with l23 := true } else s.dev }

/-- WAKE_SIGNAL: in the banked state a due wake goes out once, as a PM_PME message or as WAKE# (R440). -/
def Device.wakeSignal (d : Device) : Device :=
  let p := d.power
  if !p.wakeDue ∨ p.powerState ≠ 2 then d
  else if p.l23 then d.withPower fun p => { p with wakeDue := false, wakeLow := true }
  else (d.withPower fun p => { p with wakeDue := false, pmeStatus := true }).withOut fun o => { o with pme := o.pme + 1 }

def execWakeSignal (s : State) : Host.Outcome State Fault Refusal := .next { s with dev := s.dev.wakeSignal }

end Sys2Proof.Machine
end

