-- ==== Sys2Proof/Machine/Attest.lean ====
section
/-! DEFINITION. Attestation through the DOE mailbox (R433, R434). Message layouts are those of DMTF SPDM 1.2 and the PCIe DOE data objects, which the spec names and does not give (notes/assumptions/28). PRESUMED. -/

namespace Sys2Proof.Machine

/-- Sends a DOE data object. -/
def Device.doe (d : Device) (bs : List Byte) : Device := d.withOut fun o => { o with doe := bs :: o.doe }

/-- The mailbox answers: from readiness, over a trained link. -/
def Device.doeOpen (d : Device) : Bool := d.isReady && d.power.linkUp

/-- DOE_DISCOVERY: DOE Discovery (type 0), CMA/SPDM (type 1), no more. -/
def Device.discover (d : Device) (index : Byte) : Device :=
  if d.doeOpen then
    d.doe (if index = 0 then [0x01, 0x00, 0x00, 0x01] else if index = 1 then [0x01, 0x00, 0x01, 0x00] else [0xFF, 0xFF, 0x00, 0x00])
  else d

def execDoeDiscovery (index : Byte) (s : State) : Host.Outcome State Fault Refusal := .next { s with dev := s.dev.discover index }

/-- An SPDM message of version 1.2. -/
def spdm (code p1 p2 : Nat) (rest : List Byte) : List Byte := [0x12, BitVec.ofNat 8 code, BitVec.ofNat 8 p1, BitVec.ofNat 8 p2] ++ rest
/-- An ERROR response. -/
def spdmError (code : Nat) : List Byte := spdm 0x7F code 0 []
def errInvalid : Nat := 0x01
def errUnexpected : Nat := 0x04
def errVersion : Nat := 0x41

/-- A request of code `code` in stage `need` or later, answered by `h`; another code is no request of this row. -/
def Device.spdmReq (d : Device) (req : List Byte) (code need : Nat) (h : Device → Device) : Device :=
  if !d.doeOpen ∨ bytesNat req 1 1 ≠ code then d
  else if bytesNat req 0 1 ≠ (if code = 0x84 then 0x10 else 0x12) then d.doe (spdmError errVersion)
  else if d.spdmStage < need then d.doe (spdmError errUnexpected)
  else h d

/-- GET_VERSION: version 1.2 alone; a new exchange begins. -/
def execGetVersion (req : List Byte) (s : State) : Host.Outcome State Fault Refusal :=
  .next { s with dev := s.dev.spdmReq req 0x84 0 fun d => { d.doe [0x10, 0x04, 0x00, 0x00, 0x00, 0x01, 0x00, 0x12] with spdmStage := 1 } }

/-- GET_CAPABILITIES: certificates, challenge, signed measurements; nothing else (R433). -/
def execGetCapabilities (req : List Byte) (s : State) : Host.Outcome State Fault Refusal :=
  .next { s with dev := s.dev.spdmReq req 0xE1 1 fun d =>
    let x := padTo 9 (Config.spdmLimits.take 9)
    { d.doe (spdm 0x61 0 0 ([0#8] ++ x.take 1 ++ [0#8, 0#8] ++ leBytes 4 0x16 ++ x.drop 1)) with spdmStage := max d.spdmStage 2 } }

/-- NEGOTIATE_ALGORITHMS: P-384 signatures, SHA-384, measurements by SHA-384. -/
def execNegotiateAlgorithms (req : List Byte) (s : State) : Host.Outcome State Fault Refusal :=
  .next { s with dev := s.dev.spdmReq req 0xE3 2 fun d =>
    { d.doe (spdm 0x63 0 0 (leBytes 2 36 ++ [1#8, 0#8] ++ leBytes 4 4 ++ leBytes 4 0x80 ++ leBytes 4 2 ++ leBytes 16 0)) with spdmStage := max d.spdmStage 3 } }

/-- GET_DIGESTS: the digest of the slot-0 certificate chain. -/
def execGetDigests (req : List Byte) (s : State) : Host.Outcome State Fault Refusal :=
  .next { s with dev := s.dev.spdmReq req 0x81 3 fun d => d.doe (spdm 0x01 0 1 (sha384 Config.certificateChain)) }

/-- GET_CERTIFICATE: a portion of the slot-0 chain. -/
def Device.certificate (d : Device) (req : List Byte) : Device :=
  let c := Config.certificateChain
  let off := bytesNat req 4 2
  let p := slice c off (bytesNat req 6 2)
  if bytesNat req 2 1 ≠ 0 ∨ c.length < off then d.doe (spdmError errInvalid)
  else d.doe (spdm 0x02 0 0 (leBytes 2 p.length ++ leBytes 2 (c.length - off - p.length) ++ p))

def execGetCertificate (req : List Byte) (s : State) : Host.Outcome State Fault Refusal :=
  .next { s with dev := s.dev.spdmReq req 0x82 3 fun d => d.certificate req }

/-- The bytes of measurement block `i` (R434). -/
def Device.measured (d : Device) (i : Nat) : List Byte :=
  if i = 1 then Config.romBytes
  else if i = 6 then (d.flash.floors.toList.flatMap (leBytes 1)) ++ leBytes 1 d.flash.revoked ++ leBytes 1 d.images.cause
  else d.runningHeader (i - 2) ++ d.runningBody (i - 2)

/-- A measurement block: index, DMTF form, and the SHA-384 of what it measures. -/
def Device.measureBlock (d : Device) (i : Nat) : List Byte :=
  leBytes 1 i ++ [1#8] ++ leBytes 2 51 ++ leBytes 1 (if i = 1 then 0 else if i = 6 then 2 else 1) ++ leBytes 2 48 ++ sha384 (d.measured i)

/-- A random nonce of 32 bytes. -/
def Device.spdmNonce (d : Device) : List Byte := padTo 32 ((Config.randomBytes d.drawn).take 32)

/-- A signed response: what is signed is the request with the response's body; the signature is 96 bytes. -/
def signedBody (req body : List Byte) : List Byte := body ++ padTo 96 ((Config.attestSign (sha384 (req ++ body))).take 96)

/-- CHALLENGE: slot 0 alone, and a summary of no measurement (0), of the trusted base (1) or of all (0xFF); both summaries are of the six blocks (notes/assumptions/28). -/
def Device.challenged (d : Device) (req : List Byte) : Device :=
  if bytesNat req 2 1 ≠ 0 ∨ !([0, 1, 0xFF].contains (bytesNat req 3 1)) then d.doe (spdmError errInvalid)
  else
    let all := if bytesNat req 3 1 = 0 then [] else sha384 ((List.range 6).flatMap fun i => d.measureBlock (i + 1))
    (d.doe (signedBody req (spdm 0x03 0 1 (sha384 Config.certificateChain ++ d.spdmNonce ++ all ++ leBytes 2 0)))).drew 1

def execChallenge (req : List Byte) (s : State) : Host.Outcome State Fault Refusal :=
  .next { s with dev := s.dev.spdmReq req 0x83 3 fun d => d.challenged req }

/-- GET_MEASUREMENTS: the number of blocks, one block, or all six; signed where the request asks, by the certificate of slot 0 alone, which a signed request names in byte 36 (R433). -/
def Device.measurements (d : Device) (req : List Byte) : Device :=
  let op := bytesNat req 3 1
  let is := if op = 0 then [] else if op = 0xFF then [1, 2, 3, 4, 5, 6] else [op]
  if (6 < op ∧ op ≠ 0xFF) ∨ (bytesNat req 2 1 % 2 = 1 ∧ bytesNat req 36 1 % 16 ≠ 0) then d.doe (spdmError errInvalid)
  else
    let rec' := is.flatMap d.measureBlock
    let body := spdm 0x60 (if op = 0 then 6 else 0) 0 (leBytes 1 is.length ++ leBytes 3 rec'.length ++ rec' ++ d.spdmNonce ++ leBytes 2 0)
    (d.doe (if bytesNat req 2 1 % 2 = 1 then signedBody req body else body)).drew 1

def execGetMeasurements (req : List Byte) (s : State) : Host.Outcome State Fault Refusal :=
  .next { s with dev := s.dev.spdmReq req 0xE0 3 fun d => d.measurements req }

end Sys2Proof.Machine
end

