-- ==== Sys2Proof/Machine/Dispatch.lean ====
section
/-! DEFINITION. One arm for each command and event of spec/opcode_table.json, in the table's order. -/

namespace Sys2Proof.Machine

-- exec acts on everything but the queue of waiting commands.
def exec (i : Instr) (s : State) : Host.Outcome State Fault Refusal :=
  match i with
  | .sqTailDoorbell q value writes => Sys2Proof.Machine.execSqTailDoorbell q value writes s
  | .cqHeadDoorbell q value => Sys2Proof.Machine.execCqHeadDoorbell q value s
  | .entryFetch => Sys2Proof.Machine.execEntryFetch s
  | .matmul => Sys2Proof.Machine.execMatmul s
  | .attention => Sys2Proof.Machine.execAttention s
  | .conv => Sys2Proof.Machine.execConv s
  | .quantise => Sys2Proof.Machine.execQuantise s
  | .dequantise => Sys2Proof.Machine.execDequantise s
  | .rotate => Sys2Proof.Machine.execRotate s
  | .recipe => Sys2Proof.Machine.execRecipe s
  | .sample => Sys2Proof.Machine.execSample s
  | .rngFill => Sys2Proof.Machine.execRngFill s
  | .gather => Sys2Proof.Machine.execGather s
  | .scatter => Sys2Proof.Machine.execScatter s
  | .copy => Sys2Proof.Machine.execCopy s
  | .broadcast => Sys2Proof.Machine.execBroadcast s
  | .reduceToOne => Sys2Proof.Machine.execReduceToOne s
  | .allToAll => Sys2Proof.Machine.execAllToAll s
  | .allToAllSizeTable => Sys2Proof.Machine.execAllToAllSizeTable s
  | .stageSend => Sys2Proof.Machine.execStageSend s
  | .stageRecv => Sys2Proof.Machine.execStageRecv s
  | .eventAdd => Sys2Proof.Machine.execEventAdd s
  | .eventReset => Sys2Proof.Machine.execEventReset s
  | .fence => Sys2Proof.Machine.execFence s
  | .digest => Sys2Proof.Machine.execDigest s
  | .cast => Sys2Proof.Machine.execCast s
  | .weightSwitch => Sys2Proof.Machine.execWeightSwitch s
  | .tileOpDeliver t => Sys2Proof.Machine.execTileOpDeliver t s
  | .tileOpStart t k => Sys2Proof.Machine.execTileOpStart t k s
  | .blockEnd t upsets found => Sys2Proof.Machine.execBlockEnd t upsets found s
  | .courseEnd t found => Sys2Proof.Machine.execCourseEnd t found s
  | .preemptionPoint t => Sys2Proof.Machine.execPreemptionPoint t s
  | .preemptedResume t => Sys2Proof.Machine.execPreemptedResume t s
  | .tileOpEnd t k found => Sys2Proof.Machine.execTileOpEnd t k found s
  | .sheafReexecute w => Sys2Proof.Machine.execSheafReexecute w s
  | .pieceBoundary t => Sys2Proof.Machine.execPieceBoundary t s
  | .commandComplete w => Sys2Proof.Machine.execCommandComplete w s
  | .beaconCompare => Sys2Proof.Machine.execBeaconCompare s
  | .beaconTimeout => Sys2Proof.Machine.execBeaconTimeout s
  | .promiseExpiry tag => Sys2Proof.Machine.execPromiseExpiry tag s
  | .overdueLimitExpiry tag => Sys2Proof.Machine.execOverdueLimitExpiry tag s
  | .handshakeStall bay => Sys2Proof.Machine.execHandshakeStall bay s
  | .bookAudit book => Sys2Proof.Machine.execBookAudit book s
  | .errorRecordHandle => Sys2Proof.Machine.execErrorRecordHandle s
  | .containmentEnd bay => Sys2Proof.Machine.execContainmentEnd bay s
  | .spareValidation bay r => Sys2Proof.Machine.execSpareValidation bay r s
  | .takeOverResume bay => Sys2Proof.Machine.execTakeOverResume bay s
  | .reProtection bay => Sys2Proof.Machine.execReProtection bay s
  | .lockstepRollback => Sys2Proof.Machine.execLockstepRollback s
  | .bayReinit bay cause => Sys2Proof.Machine.execBayReinit bay cause s
  | .bayReinitEnd bay r => Sys2Proof.Machine.execBayReinitEnd bay r s
  | .queuePairReinit q => Sys2Proof.Machine.execQueuePairReinit q s
  | .deviceReset origin => Sys2Proof.Machine.execDeviceReset origin s
  | .interfaceRetry bay pc ok => Sys2Proof.Machine.execInterfaceRetry bay pc ok s
  | .rowRemap bay pc row => Sys2Proof.Machine.execRowRemap bay pc row s
  | .rowRemapEnd bay pc row => Sys2Proof.Machine.execRowRemapEnd bay pc row s
  | .uncorrectableError bay pc row lost => Sys2Proof.Machine.execUncorrectableError bay pc row lost s
  | .patrolScrub bay found => Sys2Proof.Machine.execPatrolScrub bay found s
  | .remapTablePersist bay => Sys2Proof.Machine.execRemapTablePersist bay s
  | .inboundTokenGrant bay => Sys2Proof.Machine.execInboundTokenGrant bay s
  | .farTierTimeout port tag => Sys2Proof.Machine.execFarTierTimeout port tag s
  | .farTierLinkDown port => Sys2Proof.Machine.execFarTierLinkDown port s
  | .scratchpadAccess t a off size data => Sys2Proof.Machine.execScratchpadAccess t a off size data s
  | .scratchpadBitSet t a off wide data => Sys2Proof.Machine.execScratchpadBitSet t a off wide data s
  | .scratchpadBitClear t a off wide data => Sys2Proof.Machine.execScratchpadBitClear t a off wide data s
  | .byteLaneRotate t a off size data => Sys2Proof.Machine.execByteLaneRotate t a off size data s
  | .nop t w upset => Sys2Proof.Machine.execNop t w upset s
  | .add t w upset => Sys2Proof.Machine.execAdd t w upset s
  | .sub t w upset => Sys2Proof.Machine.execSub t w upset s
  | .mul t w upset => Sys2Proof.Machine.execMul t w upset s
  | .fma t w upset => Sys2Proof.Machine.execFma t w upset s
  | .div t w upset => Sys2Proof.Machine.execDiv t w upset s
  | .sqrt t w upset => Sys2Proof.Machine.execSqrt t w upset s
  | .min t w upset => Sys2Proof.Machine.execMin t w upset s
  | .max t w upset => Sys2Proof.Machine.execMax t w upset s
  | .abs t w upset => Sys2Proof.Machine.execAbs t w upset s
  | .neg t w upset => Sys2Proof.Machine.execNeg t w upset s
  | .scale t w upset => Sys2Proof.Machine.execScale t w upset s
  | .roundi t w upset => Sys2Proof.Machine.execRoundi t w upset s
  | .cvtI2f t w upset => Sys2Proof.Machine.execCvtI2f t w upset s
  | .cvtF2i t w upset => Sys2Proof.Machine.execCvtF2i t w upset s
  | .andW t w upset => Sys2Proof.Machine.execAndW t w upset s
  | .orW t w upset => Sys2Proof.Machine.execOrW t w upset s
  | .xorW t w upset => Sys2Proof.Machine.execXorW t w upset s
  | .cmpLt t w upset => Sys2Proof.Machine.execCmpLt t w upset s
  | .cmpLe t w upset => Sys2Proof.Machine.execCmpLe t w upset s
  | .cmpEq t w upset => Sys2Proof.Machine.execCmpEq t w upset s
  | .cmpNan t w upset => Sys2Proof.Machine.execCmpNan t w upset s
  | .select t w upset => Sys2Proof.Machine.execSelect t w upset s
  | .mand t w upset => Sys2Proof.Machine.execMand t w upset s
  | .mor t w upset => Sys2Proof.Machine.execMor t w upset s
  | .mnot t w upset => Sys2Proof.Machine.execMnot t w upset s
  | .tanh t w upset => Sys2Proof.Machine.execTanh t w upset s
  | .logistic t w upset => Sys2Proof.Machine.execLogistic t w upset s
  | .exp2 t w upset => Sys2Proof.Machine.execExp2 t w upset s
  | .log2 t w upset => Sys2Proof.Machine.execLog2 t w upset s
  | .rcp t w upset => Sys2Proof.Machine.execRcp t w upset s
  | .rsqrt t w upset => Sys2Proof.Machine.execRsqrt t w upset s
  | .rowSum t w upset => Sys2Proof.Machine.execRowSum t w upset s
  | .rowSumsq t w upset => Sys2Proof.Machine.execRowSumsq t w upset s
  | .rowMax t w upset => Sys2Proof.Machine.execRowMax t w upset s
  | .rowMin t w upset => Sys2Proof.Machine.execRowMin t w upset s
  | .pass t w upset => Sys2Proof.Machine.execPass t w upset s
  | .load t w upset => Sys2Proof.Machine.execLoad t w upset s
  | .store t w upset => Sys2Proof.Machine.execStore t w upset s
  | .qstore t w upset => Sys2Proof.Machine.execQstore t w upset s
  | .index t w upset => Sys2Proof.Machine.execIndex t w upset s
  | .randBits t w upset => Sys2Proof.Machine.execRandBits t w upset s
  | .randU01 t w upset => Sys2Proof.Machine.execRandU01 t w upset s
  | .fenceStore t w upset => Sys2Proof.Machine.execFenceStore t w upset s
  | .fenceFull t w upset => Sys2Proof.Machine.execFenceFull t w upset s
  | .chainStepStart port tag x => Sys2Proof.Machine.execChainStepStart port tag x s
  | .chainStepEnd port tag step => Sys2Proof.Machine.execChainStepEnd port tag step s
  | .dataFrameReceive port x => Sys2Proof.Machine.execDataFrameReceive port x s
  | .ackReceive port f => Sys2Proof.Machine.execAckReceive port f s
  | .nakReceive port f => Sys2Proof.Machine.execNakReceive port f s
  | .creditGrantReceive port f => Sys2Proof.Machine.execCreditGrantReceive port f s
  | .helloReceive port f => Sys2Proof.Machine.execHelloReceive port f s
  | .abortReceive port f => Sys2Proof.Machine.execAbortReceive port f s
  | .helloTimer port => Sys2Proof.Machine.execHelloTimer port s
  | .helloSilenceTimeout port src => Sys2Proof.Machine.execHelloSilenceTimeout port src s
  | .retryTimeout port dst => Sys2Proof.Machine.execRetryTimeout port dst s
  | .neighborSolicitation port target => Sys2Proof.Machine.execNeighborSolicitation port target s
  | .pfcFrameReceive port mask pauseNs => Sys2Proof.Machine.execPfcFrameReceive port mask pauseNs s
  | .fabricLinkUp port => Sys2Proof.Machine.execFabricLinkUp port s
  | .fabricLinkDown port => Sys2Proof.Machine.execFabricLinkDown port s
  | .partnerTimeout tag => Sys2Proof.Machine.execPartnerTimeout tag s
  | .paceWindowEnd w => Sys2Proof.Machine.execPaceWindowEnd w s
  | .thermalCeilingStep hottest => Sys2Proof.Machine.execThermalCeilingStep hottest s
  | .flickerHold r => Sys2Proof.Machine.execFlickerHold r s
  | .flickerHoldEnd r recovered => Sys2Proof.Machine.execFlickerHoldEnd r recovered s
  | .gaugeMeasurement g g1 g2 temp => Sys2Proof.Machine.execGaugeMeasurement g g1 g2 temp s
  | .plan sensorW => Sys2Proof.Machine.execPlan sensorW s
  | .setpointStep => Sys2Proof.Machine.execSetpointStep s
  | .inletSensorRead temp => Sys2Proof.Machine.execInletSensorRead temp s
  | .thermalTrip junction inlet => Sys2Proof.Machine.execThermalTrip junction inlet s
  | .inputRise => Sys2Proof.Machine.execInputRise s
  | .undervoltageOff => Sys2Proof.Machine.execUndervoltageOff s
  | .overvoltageOff => Sys2Proof.Machine.execOvervoltageOff s
  | .powerGood => Sys2Proof.Machine.execPowerGood s
  | .maskRomBoot straps => Sys2Proof.Machine.execMaskRomBoot straps s
  | .imageVerify => Sys2Proof.Machine.execImageVerify s
  | .hbmTrainingEnd trained => Sys2Proof.Machine.execHbmTrainingEnd trained s
  | .selfTestEnd r => Sys2Proof.Machine.execSelfTestEnd r s
  | .ready => Sys2Proof.Machine.execReady s
  | .configRequest => Sys2Proof.Machine.execConfigRequest s
  | .perstAssert => Sys2Proof.Machine.execPerstAssert s
  | .perstDeassert => Sys2Proof.Machine.execPerstDeassert s
  | .hotReset => Sys2Proof.Machine.execHotReset s
  | .functionLevelReset => Sys2Proof.Machine.execFunctionLevelReset s
  | .pcieLinkDown => Sys2Proof.Machine.execPcieLinkDown s
  | .bcReset heldNs => Sys2Proof.Machine.execBcReset heldNs s
  | .d3hotEntry => Sys2Proof.Machine.execD3hotEntry s
  | .d0Entry => Sys2Proof.Machine.execD0Entry s
  | .pmeTurnOff => Sys2Proof.Machine.execPmeTurnOff s
  | .wakeSignal => Sys2Proof.Machine.execWakeSignal s
  | .doeDiscovery index => Sys2Proof.Machine.execDoeDiscovery index s
  | .getVersion req => Sys2Proof.Machine.execGetVersion req s
  | .getCapabilities req => Sys2Proof.Machine.execGetCapabilities req s
  | .negotiateAlgorithms req => Sys2Proof.Machine.execNegotiateAlgorithms req s
  | .getDigests req => Sys2Proof.Machine.execGetDigests req s
  | .getCertificate req => Sys2Proof.Machine.execGetCertificate req s
  | .challenge req => Sys2Proof.Machine.execChallenge req s
  | .getMeasurements req => Sys2Proof.Machine.execGetMeasurements req s
  | .openSession f => Sys2Proof.Machine.execOpenSession f s
  | .closeSession f => Sys2Proof.Machine.execCloseSession f s
  | .keepalive f => Sys2Proof.Machine.execKeepalive f s
  | .read f => Sys2Proof.Machine.execRead f s
  | .write f => Sys2Proof.Machine.execWrite f s
  | .claim v => Sys2Proof.Machine.execClaim v s
  | .release v => Sys2Proof.Machine.execRelease v s
  | .forceClaim p => Sys2Proof.Machine.execForceClaim p s
  | .notificationAck f => Sys2Proof.Machine.execNotificationAck f s
  | .notificationResend k => Sys2Proof.Machine.execNotificationResend k s
  | .sessionLeaseExpiry k => Sys2Proof.Machine.execSessionLeaseExpiry k s
  | .segmentTimeout p => Sys2Proof.Machine.execSegmentTimeout p s
  | .mgmtNeighborSolicitation target => Sys2Proof.Machine.execMgmtNeighborSolicitation target s
  | .dictionaryService ring => Sys2Proof.Machine.execDictionaryService ring s
  | .dictRead addr => Sys2Proof.Machine.execDictRead addr s
  | .dictWrite addr => Sys2Proof.Machine.execDictWrite addr s
  | .dictStatusClear value => Sys2Proof.Machine.execDictStatusClear value s
  | .write1 f => Sys2Proof.Machine.execWrite1 f s
  | .write2 f => Sys2Proof.Machine.execWrite2 f s
  | .spiRead f => Sys2Proof.Machine.execSpiRead f s
  | .spiFetch f => Sys2Proof.Machine.execSpiFetch f s
  | .clearStatus f => Sys2Proof.Machine.execClearStatus f s
  | .spiFrameAbort => Sys2Proof.Machine.execSpiFrameAbort s
  | .spiFrameTimeout => Sys2Proof.Machine.execSpiFrameTimeout s
  | .queuePairEnable p q => Sys2Proof.Machine.execQueuePairEnable p q s
  | .queuePairDisable p q => Sys2Proof.Machine.execQueuePairDisable p q s
  | .queuePairDrainEnd q => Sys2Proof.Machine.execQueuePairDrainEnd q s
  | .bayWithdrawal p bay => Sys2Proof.Machine.execBayWithdrawal p bay s
  | .bayReinitRequest p value => Sys2Proof.Machine.execBayReinitRequest p value s
  | .queuePairReinitRequest p value => Sys2Proof.Machine.execQueuePairReinitRequest p value s
  | .powerCycleRequest p => Sys2Proof.Machine.execPowerCycleRequest p s
  | .alertCauseClear p value => Sys2Proof.Machine.execAlertCauseClear p value s
  | .planRequest p => Sys2Proof.Machine.execPlanRequest p s
  | .restoreDefaults p => Sys2Proof.Machine.execRestoreDefaults p s
  | .loadTarget p value => Sys2Proof.Machine.execLoadTarget p value s
  | .loadData p data => Sys2Proof.Machine.execLoadData p data s
  | .imageProgrammingEnd => Sys2Proof.Machine.execImageProgrammingEnd s
  | .verify p => Sys2Proof.Machine.execVerify p s
  | .commitSecurity p => Sys2Proof.Machine.execCommitSecurity p s
  | .wakeRequest p => Sys2Proof.Machine.execWakeRequest p s
  | .wakeReasonClear p value => Sys2Proof.Machine.execWakeReasonClear p value s
  | .objectWrite p addr data => Sys2Proof.Machine.execObjectWrite p addr data s
  | .summaryWrite => Sys2Proof.Machine.execSummaryWrite s
  | .hostDmaTimeout tag => Sys2Proof.Machine.execHostDmaTimeout tag s
  | .inputFallsBelow10V => Sys2Proof.Machine.execInputFallsBelow10V s
  | .bcRstDeassert => Sys2Proof.Machine.execBcRstDeassert s
  | .lockstepRollbackEnd => Sys2Proof.Machine.execLockstepRollbackEnd s
  | .bankedEntryEnd => Sys2Proof.Machine.execBankedEntryEnd s
  | .bankedExitEnd => Sys2Proof.Machine.execBankedExitEnd s
  | .managementLinkUp => Sys2Proof.Machine.execManagementLinkUp s
  | .plcaCollision => Sys2Proof.Machine.execPlcaCollision s
  | .dictArgDataWrite reg => Sys2Proof.Machine.execDictArgDataWrite reg s
  | .beaconComparisonEnd => Sys2Proof.Machine.execBeaconComparisonEnd s

end Sys2Proof.Machine
end

