-- ==== Sys2Proof/Safety.lean ====
section
/-! DEFINITION. What counts as safe: the safe states of R325, and the conditions that every step keeps. -/

namespace Sys2Proof.Machine

/-- Command `c` completes at `s` with an effect on the block that leaves it as `d`, and leaves the queue alone. -/
def Runs (c : Instr) (s : State) (d : Device) : Prop := exec c s = .next { s with dev := d }

/-- Command `c` completes at `s` and leaves the block as `d`; where its accesses meet a paused row it is not performed, and leaves the block as it was (R214; notes/assumptions/12). -/
def RunsWhole (c : Instr) (s : State) (d : Device) : Prop :=
  (s.dev.pauses = false ∨ d.met = false → Runs c s d) ∧ (s.dev.pauses = true → d.met = true → Runs c s s.dev)

/-! ### Safe states (R325) -/

/-- The safe state of a bay: out of service. -/
def Device.baySafe (d : Device) (k : Nat) : Prop := (d.bay k).state = .out

/-- The safe state of the module: every bay out of service. -/
def Device.moduleSafe (d : Device) : Prop := ∀ k, k < 8 → d.baySafe k

/-! ### Admission (R242) -/

/-- Host memory after a list of byte writes. -/
def hostAfter (m : Mem) (ws : List Host.Cell) : Mem := ws.foldl (fun m c => m.setByte c.1 c.2) m

/-- The rows of the opcode table that admit a submission entry, each with its opcode and, for COLLECTIVE and EVENT, its operation. -/
def admissionRows : List (Instr × RowOf) :=
  [(.matmul, ⟨0x01, 0⟩), (.attention, ⟨0x02, 0⟩), (.conv, ⟨0x03, 0⟩), (.quantise, ⟨0x10, 0⟩), (.dequantise, ⟨0x11, 0⟩), (.rotate, ⟨0x12, 0⟩),
   (.recipe, ⟨0x13, 0⟩), (.sample, ⟨0x14, 0⟩), (.rngFill, ⟨0x15, 0⟩), (.gather, ⟨0x20, 0⟩), (.scatter, ⟨0x21, 0⟩), (.copy, ⟨0x22, 0⟩),
   (.broadcast, ⟨0x30, 0⟩), (.reduceToOne, ⟨0x30, 1⟩), (.allToAll, ⟨0x30, 2⟩), (.allToAllSizeTable, ⟨0x30, 3⟩), (.stageSend, ⟨0x31, 0⟩),
   (.stageRecv, ⟨0x32, 0⟩), (.eventAdd, ⟨0x40, 0⟩), (.eventReset, ⟨0x40, 1⟩), (.fence, ⟨0x41, 0⟩), (.digest, ⟨0x42, 0⟩), (.cast, ⟨0x43, 0⟩),
   (.weightSwitch, ⟨0x44, 0⟩)]

/-- Entry `f` is the next to be admitted, the entries of `rest` after it, and it is one of row `r`; the device is ready and in D0, and nothing that admission reads of `f` lies in a paused row (R214, R424, R437). -/
structure NextEntry (d : Device) (r : RowOf) (f : Fetched) (rest : List Fetched) : Prop where
  head : d.fetched = f :: rest
  mine : r.takes f.entry = true
  ready : d.isReady = true
  working : d.power.powerState = 0
  open' : d.entryHeld f = false

/-- `f` breaks no condition of rules 1 and 2 of R242. -/
structure Judged (d : Device) (f : Fetched) : Prop where
  sound : (d.look f).invalid = none
  baysIn : (d.look f).bayOut = false

/-- What a refused entry leaves (R242, R259): its acceptance record in host memory, one completion-queue slot more, one refusal counted, and everything that commands hold as before. -/
structure Refused (d0 d : Device) (f : Fetched) (rest : List Fetched) (status detail promise : Nat) : Prop where
  taken : d.fetched = rest
  record : d.host = (d0.acceptanceRecord f status 0xFFFF detail promise).host
  counted : d.counter 0x807002 = stopAdd 64 (d0.counter 0x807002) 1
  slot : (d.queue f.q.val).reserved = (d0.queue f.q.val).reserved - 2
  cmds : d.cmds = d0.cmds
  tags : d.tagsFree = d0.tagsFree
  events : d.events = d0.events
  mem : d.mem = d0.mem
  step : d.stepCounter = d0.stepCounter
  bays : d.bays = d0.bays

/-! ### Completion (R250 to R252) -/

/-- Command `c` of block `d` ends when it is completed now: it has failed, or everything it waits for is there, no detection in its work waits for its handling, and its last own work leaves the block as `d1` and the command as `c1`; nothing that this reads or writes lies in a paused row (R214, R250, R326). A STAGE_RECV first frees its message's slot and is not of this form. -/
structure EndsAs (d : Device) (c : Cmd) (d1 : Device) (c1 : Cmd) : Prop where
  working : d.hostOpen = true
  flows : d1.met = false
  ledger : d.ledgerHeld c = false
  held : d.cmd c.tag = some c
  same : c1.entry = c.entry ∧ c1.qp = c.qp
  ended : (c.failure.isSome = true ∧ d1 = d ∧ c1 = c) ∨
    (c.failure = none ∧ d.struck c.tag = false ∧ opcodeOf c.entry ≠ 0x32 ∧ d.canEnd c = true ∧ d1 = d.lastWork c ∧ d1.cmd c.tag = some c1 ∧ c1.tag = c.tag ∧
      (c1.failure.isSome = true ∨ c1.trips = []))

/-- What a command without failure adds to event `k` at its completion: its own signal, and for EVENT what the operation does (R237, R239). -/
def eventAfter (c : Cmd) (k : Nat) (v : W32) : W32 :=
  let v1 := if opcodeOf c.entry = 0x40 ∧ c.failure = none ∧ ent c.entry 0x20 2 = k then
    (if ent c.entry 0x22 1 = 0 then v + BitVec.ofNat 32 (ent c.entry 0x24 4) else 0) else v
  if ent c.entry 0x0C 2 = k then v1 + 1 else v1

/-! ### Scratchpad ports (R150 to R158) -/

/-- The port of tile `t` between `d0` and `d`: tile `t` stands as `x`, every other tile as before, and beside tiles and device memory nothing has changed. -/
structure PortServed (d0 d : Device) (t : TileRef) (x : Tile) : Prop where
  mine : d.tile (refKey t) = x
  others : ∀ k, k ≠ refKey t → d.tile k = d0.tile k
  rest : d = { d0 with tiles := d.tiles, mem := d.mem }

/-- The bytes `bs` stand from address `a` up, and no byte outside them has changed. -/
structure BytesWritten (d0 d : Device) (a : Nat) (bs : List Byte) : Prop where
  written : d.mem.read a bs.length = bs
  others : ∀ k, (k < a ∨ a + bs.length ≤ k) → d.mem.byte k = d0.mem.byte k

/-- Tile `x` after requester `who` has won a beat of its port: its count of lost beats starts again. -/
def Tile.beatWon (x : Tile) (who : Requester) : Tile := { x with lost := x.lost.put 0 (requesterNum who) 0 }

/-- Tile `x` with the accesses `js` waiting at its idle port, after their requester has lost a beat. -/
def Tile.beatLost (x : Tile) (who : Requester) (js : List PortJob) : Tile :=
  { x with port := js, lost := x.lost.upd 0 (requesterNum who) (· + 1) }

/-- The rows of the opcode table for a plain and for a rotated access, each with its window and, of an access of `size` bytes at `off`, the bytes it touches first. -/
def padRows : List ((TileRef → PortRequest → Nat → Nat → Option (List Byte) → Instr) × Window) :=
  [(.scratchpadAccess, .plain), (.byteLaneRotate, .rotate)]

/-- An access of tile `t`, with none waiting at its port, that wins every beat it needs: no rival outranks it (R153, R154). -/
structure FreePort (d : Device) (t : TileRef) (a : PortRequest) : Prop where
  runs : d.tileRuns t.bay.val t.tile.val = true
  idle : (d.tile (refKey t)).port = []
  sound : a.upset = false
  first : ∀ r, r ∈ a.rivals → r = a.who ∨ (d.tile (refKey t)).rank a.who ≤ (d.tile (refKey t)).rank r

/-- An access of tile `t`, with none waiting at its port, that loses the beat to a rival. -/
structure LostPort (d : Device) (t : TileRef) (a : PortRequest) : Prop where
  runs : d.tileRuns t.bay.val t.tile.val = true
  idle : (d.tile (refKey t)).port = []
  sound : a.upset = false
  second : ∃ r, r ∈ a.rivals ∧ r ≠ a.who ∧ (d.tile (refKey t)).rank r < (d.tile (refKey t)).rank a.who

/-! ### Tile operations (R124 to R126, R255) -/

/-- Command `c` has an operation that a slot of tile `t` of bay `k` could take now (R125, R248). -/
structure Deliverable (d : Device) (k t : Nat) (c : Cmd) : Prop where
  flying : c ∈ d.cmds
  sound : c.failure = none
  free : d.mayRun c = true
  budget : c.budgetAllows k t = true
  waits : (c.heldOp k).isSome = true

/-- Bay `k` takes operations: it runs, is in test or in recovery, and the module is in D0. -/
def Device.bayWorks (d : Device) (k : Nat) : Prop :=
  ((d.bay k).state = .run ∨ (d.bay k).state = .test ∨ (d.bay k).state = .recovery) ∧ d.power.powerState = 0

/-- Slot `sl` of tile `t` holds operation `o` of command `c`, the next of its kind to start, on a tile that runs and repeats nothing. -/
structure StartsNext (d : Device) (t : TileRef) (k : OpKind) (sl : Slot) (c : Cmd) (o : TileOp) : Prop where
  runs : d.tileRuns t.bay.val t.tile.val = true
  fresh : d.repeats t.bay.val t.tile.val = false
  next : d.nextSlot t k = some sl
  cmd : d.cmd sl.cmd = some c
  op : c.ops[sl.op]? = some o

/-- The operation of slot `sl` runs, and its lines to other bays take tokens or wait for them (R207). -/
def Device.opStarted (d : Device) (t : TileRef) (sl : Slot) (c : Cmd) (o : TileOp) : Device :=
  (d.withOp c.tag sl.op fun x => { x with state := .running }).crossStart t.bay.val c.tag sl.op (d.crossLines (c.win d) t.bay.val o.spans)

/-! ### The vector unit between two steps (R182 to R186) -/

/-- The vector unit of tile `t` runs recipe piece `v` of command `c` and stands at step `w` of opcode `op`, and no command of the block has met a paused row that still waits (R214). -/
structure AtStep (s : State) (t : TileRef) (op : Nat) (w : StepWord) (v : VuCtx) (c : Cmd) : Prop where
  flows : s.dev.met = false
  work : s.dev.vuWork t = some (v, c)
  unfinished : v.finished = false
  place : v.steps[v.pc]? = some (op, w)

/-- The block with the piece of tile `t` as `v`, one place further. -/
def Device.stepped (d : Device) (t : TileRef) (v : VuCtx) : Device := d.modTile (refKey t) fun x => { x with vu := some v.advance }

/-- `v'` is `v` with result `f l` in the step's destination register of each lane `l` the step acts in, the flags of those results raised, and nothing else changed. -/
structure LanesWritten (v v' : VuCtx) (w : StepWord) (f : Nat → VRes) : Prop where
  written : ∀ l, l ∈ v.lanes w → v'.regs.get 0 (l * 16 + w.dst.toNat) = (f l).w
  others : ∀ k, (∀ l, l ∈ v.lanes w → k ≠ l * 16 + w.dst.toNat) → v'.regs.get 0 k = v.regs.get 0 k
  raised : v'.flags = (v.lanes w).foldl (fun x l => x ||| (f l).flags) v.flags
  rest : v' = { v with regs := v'.regs, flags := v'.flags }

/-- `v'` is `v` with bit `f l` in the step's destination mask of each lane `l` the step acts in, and nothing else changed. -/
structure MasksWritten (v v' : VuCtx) (w : StepWord) (f : Nat → Bool) : Prop where
  written : ∀ l, l ∈ v.lanes w → v'.mask l (w.dst.toNat - 28) = f l
  others : ∀ k, (∀ l, l ∈ v.lanes w → k ≠ l * 4 + (w.dst.toNat - 28)) → v'.masks.get false k = v.masks.get false k
  rest : v' = { v with masks := v'.masks }

/-- `v'` is `v` with the partial of each lane the step acts in joined with that lane's value of source a, the flags of those additions raised, and nothing else changed. -/
structure PartialsTaken (v v' : VuCtx) (op : Nat) (w : StepWord) : Prop where
  written : ∀ l, l ∈ v.lanes w → v'.parts.get none (v.pc * 64 + l) = some (redOp op ((v.parts.get none (v.pc * 64 + l)).getD (redId op)) (v.src w l w.a)).w
  others : ∀ k, (∀ l, l ∈ v.lanes w → k ≠ v.pc * 64 + l) → v'.parts.get none k = v.parts.get none k
  rest : v' = { v with parts := v'.parts, flags := v'.flags }

/-- Step `i` of opcode `op` writes `f` of its three sources lane by lane. -/
def WritesLanes (i : TileRef → StepWord → Bool → Instr) (op : Nat) (f : W32 → W32 → W32 → VRes) : Prop :=
  ∀ (t : TileRef) (w : StepWord) (s : State) (v : VuCtx) (c : Cmd), AtStep s t op w v c →
    ∃ v', Runs (i t w false) s (s.dev.stepped t v') ∧ LanesWritten v v' w fun l => f (v.src w l w.a) (v.src w l w.b) (v.src w l w.c)

/-- Step `i` of opcode `op` writes `f v w l`, of lane `l`, into that lane's mask. -/
def WritesMasks (i : TileRef → StepWord → Bool → Instr) (op : Nat) (f : VuCtx → StepWord → Nat → Bool) : Prop :=
  ∀ (t : TileRef) (w : StepWord) (s : State) (v : VuCtx) (c : Cmd), AtStep s t op w v c →
    ∃ v', Runs (i t w false) s (s.dev.stepped t v') ∧ MasksWritten v v' w (f v w)

/-- Step `i` of opcode `op` takes the values of its lanes into the lanes' partials. -/
def TakesPartials (i : TileRef → StepWord → Bool → Instr) (op : Nat) : Prop :=
  ∀ (t : TileRef) (w : StepWord) (s : State) (v : VuCtx) (c : Cmd), AtStep s t op w v c →
    ∃ v', Runs (i t w false) s (s.dev.stepped t v') ∧ PartialsTaken v v' op w

/-- Step `i` of opcode `op` changes nothing but the unit's place. -/
def OnlySteps (i : TileRef → StepWord → Bool → Instr) (op : Nat) : Prop :=
  ∀ (t : TileRef) (w : StepWord) (s : State) (v : VuCtx) (c : Cmd), AtStep s t op w v c → Runs (i t w false) s (s.dev.stepped t v)

/-! ### Frames of the fabric (R261 to R268) -/

/-- A frame of type `ty` reaches port `k` in the bytes of `r` as `f`: the port is up, nothing of R261, R262, R265 and R266 discards it, and a control slot is free for it where it needs one (R268). -/
structure FrameArrives (d : Device) (k ty : Nat) (r : RxFrame) (f : Frame) : Prop where
  up : (d.port k).state = 2 ∨ (d.port k).state = 3
  clean : r.fcsOk = true ∧ r.udpOk = true ∧ r.portOk = true ∧ r.plain = true
  hop : r.hop = 1
  parsed : parseFrame r.bytes = some f
  type : f.type = ty
  src : f.src < 64
  dst : f.dst = if ty = ftHello then 0xFF else (d.port k).devNum
  slot : ty = ftHello ∨ ty = ftData ∨ (d.port k).ctrlFree ≠ 0

/-! ### Rung 2 (R357) -/

/-- Rung 2 of bay `k` has begun (R357): the bay is in reset for 2 ms, its tags, slots and tokens are all free, its tiles hold no work, its die buffer and scratchpads read zero, and every command that used the bay has failed; the other bays are in the state they were in. -/
structure ResetBegun (d0 d : Device) (k : Nat) : Prop where
  state : (d.bay k).state = .reset
  due : (d.bay k).resetEnd = d0.now + 2000000
  tags : (d.bay k).tallyFree = tallyNormal ∧ (d.bay k).tallyUrgentFree = tallyUrgent
  slots : (d.bay k).slotsFree = 20480
  tokens : (d.bay k).dieTokens = dieBanks ∧ (d.bay k).hbmTokens = hbmQueues
  idle : ∀ t, t < 1280 → d.tile (tileKey k t) = Tile.idle
  dieBuffer : ∀ a, a < 2 ^ 26 → d.mem.byte (0xF000000000 + k * 2 ^ 26 + a) = 0
  scratchpads : ∀ a, a < 2 ^ 32 → d.mem.byte (0xF800000000 + k * 2 ^ 32 + a) = 0
  failed : ∀ c, c ∈ d0.cmds → d0.cmd c.tag = some c → c.usesBay d0 k = true → ∃ x, d.cmd c.tag = some x ∧ x.failure.isSome = true
  others : ∀ j, j ≠ k → (d.bay j).state = (d0.bay j).state

/-- Bay `k` has gone out of service (R358): its tags, slots and tokens are free, its tiles hold no work, its fabric port is in state 4, every command that used it has failed, and alert bit 0 is set; the other bays are in the state they were in. -/
structure BayGone (d0 d : Device) (k : Nat) : Prop where
  state : (d.bay k).state = .out
  slots : (d.bay k).slotsFree = 20480
  idle : ∀ t, t < 1280 → d.tile (tileKey k t) = Tile.idle
  port : (d.port k).state = 4
  alert : d.safety.alert.toNat.testBit 0 = true
  failed : ∀ c, c ∈ d0.cmds → d0.cmd c.tag = some c → c.usesBay d0 k = true → ∃ x, d.cmd c.tag = some x ∧ x.failure.isSome = true
  others : ∀ j, j ≠ k → (d.bay j).state = (d0.bay j).state

/-- What rung 2 of a queue pair leaves (R357). -/
structure PairReset (d : Device) (q : Fin 64) : Prop where
  disabled : d.queue q.val = QPair.fresh
  entries : ∀ f, f ∈ d.fetched → f.q ≠ q
  commands : ∀ c, c ∈ d.cmds → c.qp ≠ some q

/-- Rung 3 has begun (R357): no command, no fetched entry and no event is left, every queue pair is disabled, all command tags are free, the step counter is 0, no path owns the dictionary, the module is in D0, and every bay in service is in start-up again. -/
structure RungThree (d : Device) : Prop where
  commands : d.cmds = []
  entries : d.fetched = []
  events : d.events = []
  pairs : d.queues = Vector.replicate 64 QPair.fresh
  tags : d.tagsFree = List.range 8192
  step : d.stepCounter = 0
  owner : d.dict.owner = 0
  phase : d.power.phase = .resetting
  powerState : d.power.powerState = 0
  bays : ∀ k, k < 8 → (d.bay k).state = .out ∨ (d.bay k).state = .startUp

/-- How a bay enters service at readiness (R359): a bay out of service stays so, one with fewer than 1,280 tiles goes out of service, and any other runs on its first 1,280 tiles, the rest its spare slates. -/
structure BayEntered (b0 b : Bay) : Prop where
  stays : b0.state = .out → b.state = .out
  few : b0.goodTiles.length < 1280 → b.state = .out
  runs : b0.state ≠ .out → 1280 ≤ b0.goodTiles.length → b.state = .run ∧ b.phys = b0.goodTiles.take 1280 ∧ b.spares = b0.goodTiles.drop 1280

/-! ### Brynuo (R406 to R410) -/

/-- Datagram `f` reaches a listening management port and holds message `m` of this kind and operation (R406, R407). -/
structure Received (d : Device) (f : BrFrame) (kind op : Nat) (m : BrHead) : Prop where
  listens : d.listens = true
  sound : (f.linkLocal && f.hop == 255 && f.plain && f.udpOk) = true
  parsed : parseBr f = some m
  kind : m.kind = kind
  op : m.op = op

/-- Message `m` is the next request of session `k`, which is live (R410). -/
structure NextInSession (d : Device) (m : BrHead) (k : Fin 4) : Prop where
  clean : m.clean = true
  which : m.session = k.val
  live : (d.session k.val).live = true
  nonce : (d.session k.val).nonce = m.nonce
  seq : m.seq = ((d.session k.val).lastSeq + 1) % 65536

/-- A session after its next request is taken up: renewed, and busy with it (R409, R410). -/
def Session.taken (s : Session) (now seq : Nat) : Session := { s with lastReq := now, lastSeq := seq, cached := none, busy := true }

/-- A session after a request in it is answered at once: the answer is kept for the case that the request comes again (R410). -/
def Session.answered (s : Session) (now seq : Nat) (m : BrMsg) : Session := { s with lastReq := now, lastSeq := seq, cached := some m, busy := false }

/-! ### SPI frames (R415, R419) -/

/-- An SPI frame has applied nothing: requests, values, ownership, commands and device memory are as before. -/
structure SpiKept (d0 d : Device) : Prop where
  requests : d.dict.requests = d0.dict.requests
  vals : d.dict.vals = d0.dict.vals
  owner : d.dict.owner = d0.dict.owner
  cmds : d.cmds = d0.cmds
  mem : d.mem = d0.mem

/-- The frame of `i` brings request `q`: it joins the queue and the last result is gone, unless the request before has no result yet, when it is refused as busy. -/
def SpiTakes (i : Instr) (s : State) (q : DictReq) : Prop :=
  ∃ d, Runs i s d ∧ if (s.dev.dict.spi.applied && !s.dev.dict.spi.ready) = true then SpiKept s.dev d ∧ d.dict.spi.busyRefused = true
    else d.dict.requests = s.dev.dict.requests ++ [q] ∧ d.dict.spi.ready = false ∧ d.dict.vals = s.dev.dict.vals ∧ d.mem = s.dev.mem

/-! ### Writes of objects (R391, R395, R397) -/

/-- The rows that name a write of one object, each with the object's address and the value's bytes. -/
def writeRows (p : Path) (q : Fin 64) (k : Fin 8) (v : Byte) (w : W32) (a : BitVec 24) (bs : List Byte) : List (Instr × Nat × List Byte) :=
  [(.queuePairEnable p q, pairObj q.val 7, [1]), (.queuePairDisable p q, pairObj q.val 7, [0]), (.bayWithdrawal p k, 0x400201 + k.val, [1]),
   (.bayReinitRequest p v, 0x405001, [v]), (.queuePairReinitRequest p v, 0x405002, [v]), (.powerCycleRequest p, 0x405003, [1]),
   (.alertCauseClear p w, 0x400002, leBytes 4 w.toNat), (.planRequest p, 0x30300C, [1]), (.restoreDefaults p, 0x120007, [1]),
   (.loadTarget p v, 0xA00201, [v]), (.loadData p bs, 0xA00203, bs), (.verify p, 0xA00205, [1]), (.commitSecurity p, 0xA00305, [1]),
   (.wakeRequest p, 0x304002, [1]), (.wakeReasonClear p v, 0x304003, [v]), (.objectWrite p a bs, a.toNat, bs),
   (.claim (.object p), 0x110002, [1]), (.release (.object p), 0x110002, [0]), (.forceClaim p, 0x110002, [2])]

/-- A whole value of object `a` arrives over an open path with no request waiting and no segment pending, and the checks of R397 answer `st`. -/
structure Judges (d : Device) (p : Path) (a : Nat) (bs : List Byte) (st : Nat) : Prop where
  reaches : d.pathOpen p = true
  first : d.dict.requests = []
  whole : (d.path p).seg = none
  answer : (d.arrives p).writeStatus p a bs (if p = .spi ∧ isLong a = true then dsTypeLength else dsOk) = st

/-- `i` completes, its path's result is OK, and what it leaves has `P`. -/
def Grants (i : Instr) (s : State) (p : Path) (P : Device → Prop) : Prop := ∃ d, Runs i s d ∧ (d.path p).result.status = dsOk ∧ P d

/-- What loss of power, or a restart from step 3, leaves (R392, R447, R450): nothing volatile, but host memory, what has been put out, the fuses and what serial flash keeps of rows and tiles. -/
structure PoweredDown (d0 d : Device) : Prop where
  cmds : d.cmds = []
  entries : d.fetched = []
  events : d.events = []
  queues : d.queues = Vector.replicate 64 QPair.fresh
  counters : d.safety.counters = []
  mem : d.mem = []
  step : d.stepCounter = 0
  host : d.host = d0.host
  out : d.out = d0.out.msixReset
  floors : d.flash.floors = d0.flash.floors
  revoked : d.flash.revoked = d0.flash.revoked
  remaps : d.flash.remaps = d0.flash.remaps
  retired : d.flash.retired = d0.flash.retired

/-! ### What every step keeps -/

/-- Device memory and host memory are in canonical form: addresses strictly rising, no entry equal to what an unlisted address reads as. -/
def Device.MemOk (d : Device) : Prop := d.mem.wf = true ∧ d.host.wf = true

/-- `d` can come after `d0`: a canonical memory stays canonical, a security floor in fuses never falls and a blown revocation fuse stays blown (R431). -/
structure Device.After (d0 d : Device) : Prop where
  mem : d0.mem.wf = true → d.mem.wf = true
  host : d0.host.wf = true → d.host.wf = true
  floors : ∀ k : Nat, (d0.flash.floors[k]?.getD 0) ≤ (d.flash.floors[k]?.getD 0)
  revoked : ∀ k : Nat, d0.flash.revoked.testBit k = true → d.flash.revoked.testBit k = true

/-- The parts of the block's state, one for each field of `Device`. -/
inductive Part where
  | now
  | stepCounter
  | power
  | dict
  | queues
  | fetched
  | lastPair
  | lastHigh
  | tagsFree
  | cmds
  | orderNext
  | events
  | ioBacklog
  | tiles
  | mem
  | poison
  | host
  | bays
  | farCap
  | farState
  | ports
  | streams
  | curSet
  | verA
  | verB
  | pace
  | log
  | safety
  | flash
  | images
  | spdmStage
  | out
  | drawn
  deriving DecidableEq, Repr

/-- `d` has this part of `d0` unchanged. -/
def Part.same (d0 d : Device) : Part → Prop
  | .now => d.now = d0.now
  | .stepCounter => d.stepCounter = d0.stepCounter
  | .power => d.power = d0.power
  | .dict => d.dict = d0.dict
  | .queues => d.queues = d0.queues
  | .fetched => d.fetched = d0.fetched
  | .lastPair => d.lastPair = d0.lastPair
  | .lastHigh => d.lastHigh = d0.lastHigh
  | .tagsFree => d.tagsFree = d0.tagsFree
  | .cmds => d.cmds = d0.cmds
  | .orderNext => d.orderNext = d0.orderNext
  | .events => d.events = d0.events
  | .ioBacklog => d.ioBacklog = d0.ioBacklog
  | .tiles => d.tiles = d0.tiles
  | .mem => d.mem = d0.mem
  | .poison => d.poison = d0.poison
  | .host => d.host = d0.host
  | .bays => d.bays = d0.bays
  | .farCap => d.farCap = d0.farCap
  | .farState => d.farState = d0.farState
  | .ports => d.ports = d0.ports
  | .streams => d.streams = d0.streams
  | .curSet => d.curSet = d0.curSet
  | .verA => d.verA = d0.verA
  | .verB => d.verB = d0.verB
  | .pace => d.pace = d0.pace
  | .log => d.log = d0.log
  | .safety => d.safety = d0.safety
  | .flash => d.flash = d0.flash
  | .images => d.images = d0.images
  | .spdmStage => d.spdmStage = d0.spdmStage
  | .out => d.out = d0.out
  | .drawn => d.drawn = d0.drawn

/-- A set of parts, as the number with their bits set. -/
def partSet (l : List Part) : Nat := l.foldl (fun m p => m ||| 2 ^ p.ctorIdx) 0

/-- `d` can come after `d0`, and every part of the state that the set `ps` lacks is the one of `d0`. -/
structure Device.Within (ps : Nat) (d0 d : Device) : Prop where
  after : Device.After d0 d
  same : ∀ p : Part, ps.testBit p.ctorIdx = true ∨ Part.same d0 d p

/-! ### What each command can touch -/

/-- Everything the power supply carries, and what a restart from step 3 sets again (R447, R450). -/
def offParts : Nat := partSet [.now, .stepCounter, .power, .dict, .queues, .fetched, .lastPair, .lastHigh, .tagsFree, .cmds, .orderNext, .events, .ioBacklog, .tiles, .mem, .poison, .bays, .farCap, .farState, .ports, .streams, .curSet, .verA, .verB, .pace, .log, .safety, .flash, .images, .spdmStage, .out]

/-- What a rung-3 reset can reach (R357). -/
def rung3Parts : Nat := partSet [.stepCounter, .power, .dict, .queues, .fetched, .lastPair, .lastHigh, .tagsFree, .cmds, .events, .ioBacklog, .tiles, .mem, .poison, .host, .bays, .ports, .streams, .curSet, .verA, .verB, .log, .safety, .flash, .images, .spdmStage, .out, .drawn]

/-- The parts of the state that a command can touch; it leaves every other part as it was. -/
def touchedBy : Instr → Nat
  | .inputRise | .powerGood | .perstDeassert | .d0Entry | .pmeTurnOff | .inputFallsBelow10V | .bcRstDeassert => partSet [.power]
  | .segmentTimeout _ | .dictStatusClear _ | .managementLinkUp | .plcaCollision => partSet [.dict]
  | .queuePairDrainEnd _ => partSet [.queues]
  | .inboundTokenGrant _ => partSet [.bays]
  | .helloSilenceTimeout _ _ | .neighborSolicitation _ _ => partSet [.ports]
  | .setpointStep | .inletSensorRead _ => partSet [.pace]
  | .lockstepRollbackEnd => partSet [.safety]
  | .configRequest | .doeDiscovery _ | .getDigests _ | .getCertificate _ | .mgmtNeighborSolicitation _ => partSet [.out]
  | .preemptedResume _ => partSet [.cmds, .tiles]
  | .reProtection _ => partSet [.tiles, .bays]
  | .chainStepEnd _ _ _ => partSet [.cmds, .ports]
  | .write1 _ | .write2 _ | .spiRead _ | .spiFetch _ | .clearStatus _ | .spiFrameAbort | .spiFrameTimeout => partSet [.dict, .safety]
  | .cqHeadDoorbell _ _ => partSet [.queues, .safety]
  | .helloTimer _ | .pfcFrameReceive _ _ _ => partSet [.ports, .safety]
  | .remapTablePersist _ => partSet [.bays, .flash]
  | .summaryWrite => partSet [.log, .flash]
  | .wakeSignal => partSet [.power, .out]
  | .notificationResend _ => partSet [.dict, .out]
  | .getVersion _ | .getCapabilities _ | .negotiateAlgorithms _ => partSet [.spdmStage, .out]
  | .challenge _ | .getMeasurements _ => partSet [.out, .drawn]
  | .pieceBoundary _ => partSet [.tiles, .mem, .poison]
  | .sqTailDoorbell _ _ _ => partSet [.queues, .host, .safety]
  | .ackReceive _ _ => partSet [.cmds, .ports, .safety]
  | .flickerHold _ | .flickerHoldEnd _ _ => partSet [.bays, .pace, .safety]
  | .imageProgrammingEnd => partSet [.dict, .flash, .images]
  | .bankedExitEnd => partSet [.power, .ports, .out]
  | .thermalCeilingStep _ => partSet [.power, .pace, .out]
  | .keepalive _ | .read _ | .write _ | .notificationAck _ | .dictRead _ | .dictWrite _ | .dictArgDataWrite _ => partSet [.dict, .safety, .out]
  | .entryFetch => partSet [.queues, .fetched, .lastPair, .lastHigh]
  | .preemptionPoint _ => partSet [.cmds, .tiles, .mem, .poison]
  | .takeOverResume _ => partSet [.dict, .tiles, .bays, .log]
  | .creditGrantReceive _ _ => partSet [.cmds, .ports, .streams, .safety]
  | .plan _ => partSet [.power, .bays, .pace, .safety]
  | .rowRemap _ _ _ | .rowRemapEnd _ _ _ => partSet [.dict, .bays, .log, .safety]
  | .sessionLeaseExpiry _ => partSet [.dict, .safety, .flash, .images]
  | .nakReceive _ _ | .retryTimeout _ _ | .fabricLinkDown _ => partSet [.dict, .cmds, .ports, .log, .safety]
  | .maskRomBoot _ => partSet [.power, .dict, .log, .flash, .images]
  | .pcieLinkDown => partSet [.power, .dict, .safety, .flash, .images]
  | .paceWindowEnd _ => partSet [.power, .bays, .pace, .safety, .out]
  | .openSession _ | .closeSession _ => partSet [.dict, .safety, .flash, .images, .out]
  | .tileOpDeliver _ | .farTierTimeout _ _ | .hostDmaTimeout _ => partSet [.dict, .cmds, .tiles, .bays, .log, .safety]
  | .promiseExpiry _ => partSet [.power, .dict, .cmds, .log, .safety, .out]
  | .imageVerify => partSet [.power, .dict, .log, .flash, .images, .out]
  | .farTierLinkDown _ => partSet [.dict, .cmds, .tiles, .bays, .farState, .log, .safety]
  | .partnerTimeout _ => partSet [.dict, .cmds, .tiles, .bays, .ports, .log, .safety]
  | .gaugeMeasurement _ _ _ _ => partSet [.power, .dict, .pace, .log, .safety, .flash, .out]
  | .beaconTimeout => partSet [.dict, .tagsFree, .cmds, .orderNext, .ioBacklog, .bays, .log, .safety]
  | .tileOpStart _ _ => partSet [.dict, .cmds, .tiles, .mem, .poison, .bays, .log, .safety]
  | .abortReceive _ _ => partSet [.dict, .cmds, .tiles, .bays, .ports, .streams, .log, .safety]
  | .selfTestEnd _ => partSet [.power, .dict, .poison, .bays, .log, .safety, .flash, .out]
  | .beaconCompare => partSet [.dict, .tagsFree, .cmds, .orderNext, .ioBacklog, .tiles, .bays, .log, .safety]
  | .bayReinit _ _ => partSet [.dict, .cmds, .tiles, .mem, .poison, .bays, .ports, .log, .safety]
  | .containmentEnd _ | .hbmTrainingEnd _ => partSet [.power, .dict, .cmds, .tiles, .bays, .ports, .log, .safety, .out]
  | .bayReinitEnd _ _ => partSet [.power, .dict, .cmds, .tiles, .bays, .ports, .log, .safety, .flash, .out]
  | .beaconComparisonEnd => partSet [.power, .dict, .tagsFree, .cmds, .orderNext, .ioBacklog, .tiles, .bays, .log, .safety, .out]
  | .blockEnd _ _ _ | .courseEnd _ _ | .sheafReexecute _ | .overdueLimitExpiry _ | .handshakeStall _ | .interfaceRetry _ _ _
  | .uncorrectableError _ _ _ _ | .patrolScrub _ _ | .scratchpadAccess _ _ _ _ _ | .scratchpadBitSet _ _ _ _ _ | .scratchpadBitClear _ _ _ _ _
  | .byteLaneRotate _ _ _ _ _ | .nop _ _ _ | .add _ _ _ | .sub _ _ _ | .mul _ _ _ | .fma _ _ _ | .div _ _ _ | .sqrt _ _ _ | .min _ _ _ | .max _ _ _
  | .abs _ _ _ | .neg _ _ _ | .scale _ _ _ | .roundi _ _ _ | .cvtI2f _ _ _ | .cvtF2i _ _ _ | .andW _ _ _ | .orW _ _ _ | .xorW _ _ _ | .cmpLt _ _ _
  | .cmpLe _ _ _ | .cmpEq _ _ _ | .cmpNan _ _ _ | .select _ _ _ | .mand _ _ _ | .mor _ _ _ | .mnot _ _ _ | .tanh _ _ _ | .logistic _ _ _ | .exp2 _ _ _
  | .log2 _ _ _ | .rcp _ _ _ | .rsqrt _ _ _ | .rowSum _ _ _ | .rowSumsq _ _ _ | .rowMax _ _ _ | .rowMin _ _ _ | .pass _ _ _ | .load _ _ _
  | .store _ _ _ | .qstore _ _ _ | .index _ _ _ | .randBits _ _ _ | .randU01 _ _ _ | .fenceStore _ _ _ | .fenceFull _ _ _ | .fabricLinkUp _ => partSet [.power, .dict, .cmds, .tiles, .mem, .poison, .bays, .ports, .log, .safety, .out]
  | .ready => partSet [.power, .dict, .cmds, .tiles, .bays, .farCap, .farState, .ports, .log, .safety, .out]
  | .chainStepStart _ _ _ | .dataFrameReceive _ _ | .helloReceive _ _ => partSet [.power, .dict, .cmds, .tiles, .mem, .poison, .bays, .ports, .streams, .log, .safety, .out]
  | .errorRecordHandle => partSet [.power, .dict, .cmds, .tiles, .mem, .poison, .bays, .ports, .log, .safety, .flash, .out]
  | .tileOpEnd _ _ _ => partSet [.power, .dict, .cmds, .tiles, .mem, .poison, .host, .bays, .ports, .log, .safety, .out, .drawn]
  | .spareValidation _ _ => partSet [.power, .dict, .cmds, .tiles, .mem, .poison, .bays, .ports, .log, .safety, .flash, .out, .drawn]
  | .matmul | .attention | .conv | .quantise | .dequantise | .rotate | .recipe | .sample | .rngFill | .gather | .scatter | .copy | .broadcast
  | .reduceToOne | .allToAll | .allToAllSizeTable | .stageSend | .stageRecv | .eventAdd | .eventReset | .fence | .digest | .cast | .weightSwitch => partSet [.stepCounter, .queues, .fetched, .tagsFree, .cmds, .orderNext, .ioBacklog, .mem, .poison, .host, .bays, .streams, .curSet, .verA, .verB, .safety, .out]
  | .bankedEntryEnd => partSet [.power, .dict, .queues, .tagsFree, .cmds, .events, .ioBacklog, .tiles, .mem, .poison, .host, .bays, .ports, .log, .safety, .out, .drawn]
  | .queuePairReinit _ => partSet [.dict, .queues, .fetched, .tagsFree, .cmds, .events, .ioBacklog, .tiles, .mem, .poison, .host, .bays, .ports, .log, .safety, .out, .drawn]
  | .d3hotEntry => partSet [.power, .dict, .queues, .fetched, .tagsFree, .cmds, .events, .ioBacklog, .tiles, .mem, .poison, .host, .bays, .ports, .log, .safety, .out, .drawn]
  | .commandComplete _ => partSet [.power, .dict, .queues, .tagsFree, .cmds, .orderNext, .events, .ioBacklog, .tiles, .mem, .poison, .host, .bays, .ports, .streams, .log, .safety, .out, .drawn]
  | .claim _ | .release _ | .forceClaim _ | .dictionaryService _ | .queuePairEnable _ _ | .queuePairDisable _ _ | .bayWithdrawal _ _
  | .bayReinitRequest _ _ | .queuePairReinitRequest _ _ | .powerCycleRequest _ | .alertCauseClear _ _ | .planRequest _ | .restoreDefaults _
  | .loadTarget _ _ | .loadData _ _ | .verify _ | .commitSecurity _ | .wakeRequest _ | .wakeReasonClear _ _ | .objectWrite _ _ _ => partSet [.power, .dict, .queues, .fetched, .tagsFree, .cmds, .events, .ioBacklog, .tiles, .mem, .poison, .host, .bays, .ports, .streams, .pace, .log, .safety, .flash, .images, .out, .drawn]
  | .bookAudit _ | .lockstepRollback | .deviceReset _ | .perstAssert | .hotReset | .functionLevelReset => rung3Parts
  | .thermalTrip _ _ | .undervoltageOff | .overvoltageOff | .bcReset _ => offParts

/-- The invariant of the machine. -/
def State.MemOk (s : State) : Prop := s.dev.MemOk

end Sys2Proof.Machine
end

