-- ==== Sys2Proof/Certificates/Slice0/Obligations.lean ====
section
/-! DEFINITION. The statements about the block, each citing the rules of spec/ it rests on. -/

open Sys2Proof Sys2Proof.Machine

/-- A step takes the command at the front of the queue and runs it with the queue's rest (the model's own frame; notes/assumptions/1). -/
def Obligations.StepRunsFrontCommand : Prop :=
  ∀ (c : Instr) (rest : List Instr) (s : State), step { s with pending := c :: rest } = exec c { s with pending := rest }

/-- No command stops the machine: each has an effect, and every error of the spec is a status, a flag, a counter or a record. An empty queue stands for one nanosecond of device time (R230; the unit of an idle step is the model's choice, notes/assumptions/2). -/
def Obligations.EveryStepAnswersNext : Prop :=
  ∀ s : State, (∃ d : Device, step s = .next ⟨d, s.pending.tail⟩) ∧ (s.pending = [] → step s = .next { s with dev := { s.dev with now := s.dev.now + 1 } })

/-- The memories stay in canonical form through every step, from every state, whatever command is in front. -/
def Obligations.StepKeepsMemoriesCanonical : Prop :=
  ∀ s t : State, s.MemOk → step s = .next t → t.MemOk

/-- The machine right after reset meets the invariant of StepKeepsMemoriesCanonical. -/
def Obligations.ResetMemoriesCanonical : Prop :=
  State.reset.MemOk ∧ State.reset.dev.mem = [] ∧ State.reset.dev.host = [] ∧ State.reset.pending = []

/-- Fuses only move one way: security floors never fall and revocations are never undone (R431). -/
def Obligations.FusesNeverGoBack : Prop :=
  ∀ s t : State, step s = .next t →
    (∀ k : Nat, (s.dev.flash.floors[k]?.getD 0) ≤ (t.dev.flash.floors[k]?.getD 0)) ∧
    (∀ k : Nat, s.dev.flash.revoked.testBit k = true → t.dev.flash.revoked.testBit k = true)

/-- The two doorbells of a queue pair (R227): what is taken, and what is ignored and counted. A doorbell of a disabled pair is ignored by the model's choice (notes/assumptions/19). -/
def Obligations.DoorbellsMoveForwardOnly : Prop :=
  ∀ (q : Fin 64) (v : W32) (ws : List Host.Cell) (s : State), s.dev.hostOpen = true →
    let p := s.dev.queue q.val
    let d : Device := { s.dev with host := hostAfter s.dev.host ws }
    let n := s.dev.sqSize q.val
    let m := s.dev.cqSize q.val
    let step := (v.toNat + m - p.cqHead) % m
    (p.state = 1 → v.toNat < n → (p.sqTail + n - p.sqHead) % n ≤ (v.toNat + n - p.sqHead) % n →
      Runs (.sqTailDoorbell q v ws) s { d with queues := d.queues.set q.val { p with sqTail := v.toNat } }) ∧
    (p.state ≠ 1 ∨ n ≤ v.toNat ∨ (v.toNat + n - p.sqHead) % n < (p.sqTail + n - p.sqHead) % n →
      Runs (.sqTailDoorbell q v ws) s (d.count 0x807005 1)) ∧
    (p.state ≠ 0 → v.toNat < m → 0 < step → step ≤ p.written →
      Runs (.cqHeadDoorbell q v) s { s.dev with queues := s.dev.queues.set q.val { p with cqHead := v.toNat, written := p.written - step } }) ∧
    (p.state = 0 ∨ m ≤ v.toNat ∨ step = 0 ∨ p.written < step → Runs (.cqHeadDoorbell q v) s (s.dev.count 0x807005 1))

/-- Who is fetched from next (R229). The round-robin keeps one pointer for each priority: the model's reading, notes/assumptions/6. -/
def Obligations.FetchServesPairsInTurn : Prop :=
  ∀ (d : Device), d.lastPair < 64 → d.lastHigh < 64 →
    (∀ q, d.nextPair = some q →
      q < 64 ∧ (d.queue q).state = 1 ∧ (d.queue q).sqHead ≠ (d.queue q).sqTail ∧
      (d.queue q).reserved + (d.queue q).written + 2 ≤ d.cqSize q ∧
      (∀ r, r < 64 → d.fetchable r = true → d.highPair r = true → d.highPair q = true) ∧
      (d.highPair q = true → ∀ r, r < 64 → d.fetchable r = true → d.highPair r = true → (q + 63 - d.lastHigh) % 64 ≤ (r + 63 - d.lastHigh) % 64) ∧
      (d.highPair q = false → ∀ r, r < 64 → d.fetchable r = true → (q + 63 - d.lastPair) % 64 ≤ (r + 63 - d.lastPair) % 64)) ∧
    (d.nextPair = none → ∀ q, q < 64 → d.fetchable q = false)

/-- What ENTRY_FETCH takes and reserves (R229), and the end of a drain (R227). -/
def Obligations.FetchTakesOneEntry : Prop :=
  (∀ (q : Fin 64) (s : State), s.dev.hostOpen = true → s.dev.nextPair = some q.val →
    ∃ d, Runs .entryFetch s d ∧
      d.fetched = s.dev.fetched ++ [⟨q, (s.dev.queue q.val).sqHead,
        s.dev.host.read (s.dev.setting ((0x7100 + q.val) * 256 + 1) + 128 * (s.dev.queue q.val).sqHead) 128⟩] ∧
      d.queues = s.dev.queues.set q.val { s.dev.queue q.val with
        sqHead := ((s.dev.queue q.val).sqHead + 1) % s.dev.sqSize q.val, reserved := (s.dev.queue q.val).reserved + 2 } ∧
      d.lastHigh = (if s.dev.highPair q.val then q.val else s.dev.lastHigh) ∧
      d.lastPair = (if s.dev.highPair q.val then s.dev.lastPair else q.val)) ∧
  (∀ (q : Fin 64) (s : State), (s.dev.queue q.val).state = 2 → s.dev.pairBusy q.val = false →
    Runs (.queuePairDrainEnd q) s { s.dev with queues := s.dev.queues.set q.val QPair.fresh })

/-- Each arithmetic step of R183 completes, writes its result in every lane it acts in and changes no other lane, register or mask. -/
def Obligations.ArithmeticStepsWriteTheirLanes : Prop :=
  WritesLanes .add 0x01 (fun a b _ => vAdd a b) ∧ WritesLanes .sub 0x02 (fun a b _ => vSub a b) ∧
  WritesLanes .mul 0x03 (fun a b _ => vMul a b) ∧ WritesLanes .fma 0x04 vFma ∧
  WritesLanes .div 0x05 (fun a b _ => vDiv a b) ∧ WritesLanes .sqrt 0x06 (fun a _ _ => vSqrt a) ∧
  WritesLanes .min 0x07 (fun a b _ => vMin a b) ∧ WritesLanes .max 0x08 (fun a b _ => vMax a b) ∧
  WritesLanes .abs 0x09 (fun a _ _ => vAbs a) ∧ WritesLanes .neg 0x0A (fun a _ _ => vNeg a) ∧
  (∀ (t : TileRef) (w : StepWord) (s : State) (v : VuCtx) (c : Cmd), AtStep s t 0x0B w v c →
    ∃ v', Runs (.scale t w false) s (s.dev.stepped t v') ∧ LanesWritten v v' w fun l => vScale (v.src w l w.a) w.imm) ∧
  WritesLanes .roundi 0x0C (fun a _ _ => vRoundi a) ∧ WritesLanes .cvtI2f 0x0D (fun a _ _ => vI2f a) ∧
  WritesLanes .cvtF2i 0x0E (fun a _ _ => vF2i a)

/-- Each remaining step that writes a V register completes, writes its result in every lane it acts in and changes no other lane, register or mask. -/
def Obligations.WordStepsWriteTheirLanes : Prop :=
  WritesLanes .andW 0x0F (fun a b _ => ⟨a &&& b, 0⟩) ∧ WritesLanes .orW 0x10 (fun a b _ => ⟨a ||| b, 0⟩) ∧
  WritesLanes .xorW 0x11 (fun a b _ => ⟨a ^^^ b, 0⟩) ∧
  WritesLanes .tanh 0x20 (fun a _ _ => vTanh a) ∧ WritesLanes .logistic 0x21 (fun a _ _ => vLogistic a) ∧
  WritesLanes .exp2 0x22 (fun a _ _ => vExp2 a) ∧ WritesLanes .log2 0x23 (fun a _ _ => vLog2 a) ∧
  WritesLanes .rcp 0x24 (fun a _ _ => vRcp a) ∧ WritesLanes .rsqrt 0x25 (fun a _ _ => vRsqrt a) ∧
  (∀ (t : TileRef) (w : StepWord) (s : State) (v : VuCtx) (c : Cmd),
    (AtStep s t 0x18 w v c → ∃ v', Runs (.select t w false) s (s.dev.stepped t v') ∧
      LanesWritten v v' w fun l => ⟨if v.mask l w.pmask.toNat then v.src w l w.a else v.src w l w.b, 0⟩) ∧
    (AtStep s t 0x33 w v c → ∃ v', Runs (.index t w false) s (s.dev.stepped t v') ∧
      LanesWritten v v' w fun l => ⟨(f32Round (Q.ofNat (64 * v.group + l)) false).1, 0⟩) ∧
    (AtStep s t 0x34 w v c → ∃ v', Runs (.randBits t w false) s (s.dev.stepped t v') ∧
      LanesWritten v v' w fun l => ⟨vuDraw s.dev c v l, 0⟩) ∧
    (AtStep s t 0x35 w v c → ∃ v', Runs (.randU01 t w false) s (s.dev.stepped t v') ∧
      LanesWritten v v' w fun l => ⟨uniformBits (vuDraw s.dev c v l), 0⟩))

/-- Each compare step and each mask step completes, writes its bit in every lane it acts in and changes nothing else of the piece. -/
def Obligations.MaskStepsWriteTheirLanes : Prop :=
  WritesMasks .cmpLt 0x14 (fun v w l => !(f32IsNaN (v.src w l w.a) || f32IsNaN (v.src w l w.b)) && f32Lt (v.src w l w.a) (v.src w l w.b)) ∧
  WritesMasks .cmpLe 0x15 (fun v w l => !(f32IsNaN (v.src w l w.a) || f32IsNaN (v.src w l w.b)) && !(f32Lt (v.src w l w.b) (v.src w l w.a))) ∧
  WritesMasks .cmpEq 0x16 (fun v w l => !(f32IsNaN (v.src w l w.a) || f32IsNaN (v.src w l w.b)) && f32Eq (v.src w l w.a) (v.src w l w.b)) ∧
  WritesMasks .cmpNan 0x17 (fun v w l => f32IsNaN (v.src w l w.a)) ∧
  WritesMasks .mand 0x19 (fun v w l => v.mask l (w.a.toNat - 28) && v.mask l (w.b.toNat - 28)) ∧
  WritesMasks .mor 0x1A (fun v w l => v.mask l (w.a.toNat - 28) || v.mask l (w.b.toNat - 28)) ∧
  WritesMasks .mnot 0x1B (fun v w l => !(v.mask l (w.a.toNat - 28)))

/-- Each reduction step completes, takes every lane it acts in into that lane's partial and no other lane. -/
def Obligations.ReductionStepsTakeTheirLanes : Prop :=
  TakesPartials .rowSum 0x28 ∧ TakesPartials .rowSumsq 0x29 ∧ TakesPartials .rowMax 0x2A ∧ TakesPartials .rowMin 0x2B

/-- The steps that compute nothing: NOP and PASS only move the unit, a fence after a QSTORE makes later STOREs wait for it (R171); and where PASS takes the unit (R185). -/
def Obligations.IdleStepsOnlyMoveTheUnit : Prop :=
  OnlySteps .nop 0x00 ∧ OnlySteps .pass 0x2C ∧
  (∀ x ∈ [(Instr.fenceStore, 0x38), (.fenceFull, 0x39)], ∀ (t : TileRef) (w : StepWord) (s : State) (v : VuCtx) (c : Cmd), AtStep s t x.2 w v c →
    Runs (x.1 t w false) s (s.dev.stepped t { v with fenced := if v.fenced = 1 then 2 else v.fenced })) ∧
  ∀ (v : VuCtx) (w : StepWord), v.steps[v.pc]? = some (0x2C, w) →
    (64 * (v.group + 1) < v.len → v.advance = { v with group := v.group + 1, pc := v.passStart, regs := [], masks := [] }) ∧
    (v.len ≤ 64 * (v.group + 1) → v.pc + 1 < v.steps.length →
      v.advance = { v.combine with pass := v.pass + 1, group := 0, pc := v.pc + 1, regs := [], masks := [] })

/-- The memory steps of a recipe: what each lane moves, and for STORE that no byte outside the stored positions changes. A LOAD reads the copy of what its piece has overwritten (R161); after a fence that follows a QSTORE the STORE's bytes are kept to be written after the narrow output (R171). -/
def Obligations.MemoryStepsMoveTheirLanes : Prop :=
  ∀ (t : TileRef) (w : StepWord) (s : State) (v : VuCtx) (c : Cmd),
    (∀ r : Nat → VRes, AtStep s t 0x30 w v c →
      (∀ l, l ∈ v.lanes w → loadElem (v.view s.dev) c t.bay.val v w.stream.toNat (64 * v.group + l) = .ok (r l)) →
      ∃ v', Runs (.load t w false) s (s.dev.stepped t v') ∧ LanesWritten v v' w r) ∧
    (∀ k : Nat, isSheafFmt (recipeCode c.entry w.stream.toNat) = false → storeAddr s.dev c v w.stream.toNat k =
      .ok (c.addr s.dev (0x48 + 8 * w.stream.toNat) + arrayStride (recipeCode c.entry w.stream.toNat) * (v.row * v.len + k))) ∧
    (AtStep s t 0x31 w v c → ∀ at' : Nat → Nat, ∀ bytes : Nat → List Byte,
      (∀ l, l ∈ v.lanes w → storeAddr s.dev c v w.stream.toNat (64 * v.group + l) = .ok (at' l)) →
      (∀ l, bytes l = (storeBytes (recipeCode c.entry w.stream.toNat) (v.src w l w.a)).1) →
      let v1 := { v with flags := v.flags ||| flagsOf (fun l => (storeBytes (recipeCode c.entry w.stream.toNat) (v.src w l w.a)).2) (v.lanes w) }
      (v.fenced = 2 → Runs (.store t w false) s (s.dev.stepped t { v1 with late := v.late ++ (v.lanes w).map fun l => (at' l, bytes l) })) ∧
      (v.fenced ≠ 2 → (∀ l, l ∈ v.lanes w → s.dev.open' (at' l) (bytes l).length = true ∧ s.dev.served (at' l) = true ∧ s.dev.held (at' l) (bytes l).length = false) →
        ∃ d : Device, Runs (.store t w false) s (d.stepped t
            { v1 with copy := ((v.lanes w).map fun l => (at' l, s.dev.mem.read (at' l) (bytes l).length)).reverse ++ v.copy }) ∧
          d.mem = (v.lanes w).foldl (fun m l => m.write (at' l) (bytes l)) s.dev.mem ∧
          (∀ a, (∀ l, l ∈ v.lanes w → a < at' l ∨ at' l + (bytes l).length ≤ a) → d.mem.byte a = s.dev.mem.byte a) ∧
          d = { s.dev with mem := d.mem, poison := d.poison })) ∧
    (AtStep s t 0x32 w v c →
      Runs (.qstore t w false) s ((s.dev.modCmd c.tag fun x =>
        let vs := (v.lanes w).map fun l => (v.row * v.len + 64 * v.group + l, wideOfF32 (v.src w l w.a))
        if w.stream = 0 then { x with wide0 := gather x.wide0 vs } else { x with wide1 := gather x.wide1 vs }).stepped t { v with fenced := max 1 v.fenced }))

/-- Acceptance, for all 24 rows that admit an entry (R242, R243). That the first free tag is taken is the model's choice, notes/assumptions/6. -/
def Obligations.SoundEntriesAreAccepted : Prop :=
  ∀ x, x ∈ admissionRows → ∀ (f : Fetched) (rest : List Fetched) (s : State) (tag : Nat) (tags : List Nat),
    NextEntry s.dev x.2 f rest →
    let d : Device := { s.dev with fetched := rest }
    let b := d.bid f (d.look f) tag
    Judged d f → d.tagsFree = tag :: tags → b.beyond = false → b.cmd.promise ≤ d.now + 1000000 * d.setting 0x701201 →
    (classOf f.entry = 1 → b.cmd.promise ≤ ent f.entry 0x18 8) →
    ∃ t c, Runs x.1 s t ∧
      t.cmds = s.dev.cmds ++ [c] ∧ c.tag = tag ∧ c.entry = f.entry ∧ c.qp = some f.q ∧ c.slot = f.slot ∧ c.promise = b.cmd.promise ∧
      c.acceptAt = s.dev.now ∧ c.floor = s.dev.pace.published ∧ c.order = s.dev.orderNext ∧ c.done = false ∧ c.failure = none ∧
      t.tagsFree = tags ∧ t.fetched = rest ∧ t.orderNext = s.dev.orderNext + 1 ∧
      t.counter 0x807001 = stopAdd 64 (s.dev.counter 0x807001) 1 ∧
      t.host = s.dev.host.write (s.dev.setting ((0x7100 + f.q.val) * 256 + 3) + 64 * (s.dev.queue f.q.val).cqTail)
        (padTo 64 (BitVec.ofNat 8 (1 + if (s.dev.queue f.q.val).phase then 0x80 else 0) :: acceptanceBytes t f 0x00 tag 0 b.cmd.promise)) ∧
      t.dict = s.dev.dict ∧ t.events = s.dev.events ∧ t.mem = b.dev.mem

/-- The refusals of R242 in their order, and what a refused entry leaves. -/
def Obligations.FirstFailedCheckDecides : Prop :=
  ∀ x, x ∈ admissionRows → ∀ (f : Fetched) (rest : List Fetched) (s : State), NextEntry s.dev x.2 f rest →
    let d : Device := { s.dev with fetched := rest }
    let l := d.look f
    ∃ t, Runs x.1 s t ∧
      (∀ off lock, l.invalid = some (off, lock) → Refused d t f rest 0x04 off 0) ∧
      (l.invalid = none →
        (l.bayOut = true → Refused d t f rest 0x05 0 0) ∧
        (l.bayOut = false →
          (d.tagsFree = [] → Refused d t f rest 0x03 0 0) ∧
          (∀ tag tags, d.tagsFree = tag :: tags →
            let b := d.bid f l tag
            (b.beyond = true ∨ d.now + 1000000 * d.setting 0x701201 < b.cmd.promise → Refused d t f rest 0x02 0 0) ∧
            (b.beyond = false → b.cmd.promise ≤ d.now + 1000000 * d.setting 0x701201 →
              classOf f.entry = 1 → ent f.entry 0x18 8 < b.cmd.promise → Refused d t f rest 0x01 0 b.cmd.promise))))

/-- What acceptance itself changes (R236): the step counter by FENCE, the working-copy set by WEIGHT_SWITCH, a stage stream's next number by STAGE_SEND, and nothing of these by any other opcode. -/
def Obligations.AcceptanceEffects : Prop :=
  ∀ (d : Device) (f : Fetched) (c : Cmd) (tags : List Nat), c.entry = f.entry →
    let t := d.accept f c tags
    let e := f.entry
    (opcodeOf e = 0x41 → (ent e 0x21 1).testBit 0 = true → t.stepCounter = BitVec.ofNat 64 (ent e 0x28 8)) ∧
    (¬(opcodeOf e = 0x41 ∧ (ent e 0x21 1).testBit 0 = true) → t.stepCounter = d.stepCounter) ∧
    (opcodeOf e = 0x44 → ent e 0x20 1 = 0 → t.curSet = 0 ∧ t.verA = ent e 0x22 2 ∧ t.verB = d.verB ∧ t.counter 0x808001 = stopAdd 64 (d.counter 0x808001) 1) ∧
    (opcodeOf e = 0x44 → ent e 0x20 1 ≠ 0 → t.curSet = 1 ∧ t.verA = d.verA ∧ t.verB = ent e 0x22 2 ∧ t.counter 0x808001 = stopAdd 64 (d.counter 0x808001) 1) ∧
    (opcodeOf e ≠ 0x44 → t.curSet = d.curSet ∧ t.verA = d.verA ∧ t.verB = d.verB ∧ t.counter 0x808001 = d.counter 0x808001) ∧
    (opcodeOf e = 0x31 → (t.streams.get Stream.fresh (ent e 0x20 1)).nextSend = (d.streams.get Stream.fresh (ent e 0x20 1)).nextSend + 1 ∧
      ∀ k, k ≠ ent e 0x20 1 → t.streams.get Stream.fresh k = d.streams.get Stream.fresh k) ∧
    (opcodeOf e ≠ 0x31 → t.streams = d.streams)

/-- Entries are admitted one at a time in fetch order, each by its own row (R229, R233); one whose tables lie in a paused row waits (R214; how such an access waits is the model's reading, notes/assumptions/12). -/
def Obligations.EachEntryHasOneRow : Prop :=
  (∀ x, x ∈ admissionRows → ∀ s : State,
    (s.dev.fetched = [] → Runs x.1 s s.dev) ∧ (s.dev.isReady = false ∨ s.dev.power.powerState ≠ 0 → Runs x.1 s s.dev) ∧
    (∀ f rest, s.dev.fetched = f :: rest → x.2.takes f.entry = false ∨ s.dev.entryHeld f = true → Runs x.1 s s.dev)) ∧
  (∀ e : List Byte, knownOp (opcodeOf e) = true → (opcodeOf e = 0x30 → ent e 0x20 1 ≤ 3) → (opcodeOf e = 0x40 → ent e 0x22 1 ≤ 1) →
    (admissionRows.filter fun x => x.2.takes e).length = 1)

/-- What the completion of a command leaves (R250): its record, its event, its tag. -/
def Obligations.CompletionWritesItsRecord : Prop :=
  ∀ (s : State) (c c1 : Cmd) (d1 : Device) (q : Fin 64), EndsAs s.dev c d1 c1 → c.qp = some q →
    opcodeOf c.entry ≠ 0x32 → ¬(opcodeOf c.entry = 0x41 ∧ ent c.entry 0x20 1 = 1 ∧ (ent c.entry 0x21 1).testBit 0 = true) →
    ∃ t, RunsWhole (.commandComplete ⟨c.tag, []⟩) s t ∧
      t.cmds.map (·.tag) = (d1.cmds.map (·.tag)).filter (· != c.tag) ∧
      t.tagsFree = insertTag c.tag s.dev.tagsFree ∧
      (∃ flags more, t.host.read (d1.setting ((0x7100 + q.val) * 256 + 3) + 64 * (s.dev.queue q.val).cqTail) 64 =
        BitVec.ofNat 8 (2 + if (s.dev.queue q.val).phase then 0x80 else 0) ::
          (leBytes 1 (match c1.failure with | some f => f.status | none => 0x00) ++ leBytes 2 c.tag ++ leBytes 4 flags ++
            leBytes 8 (ent c.entry 0x10 8) ++ leBytes 8 s.dev.now ++ more)) ∧
      ∀ k, k < 4096 → t.events.get 0 k = eventAfter c1 k (s.dev.events.get 0 k)

/-- R239: EVENT with operation reset sets the counter to 0; admission refuses it while a command waits on the event or signals it. -/
def Obligations.EventResetSetsTheCounter : Prop :=
  (∀ (s : State) (c c1 : Cmd) (d1 : Device) (q : Fin 64), EndsAs s.dev c d1 c1 → c.qp = some q → c1.failure = none →
    opcodeOf c.entry = 0x40 → ent c.entry 0x22 1 = 1 → ent c.entry 0x20 2 < 4096 →
    ∃ t, RunsWhole (.commandComplete ⟨c.tag, []⟩) s t ∧
      t.events.get 0 (ent c.entry 0x20 2) = if ent c.entry 0x0C 2 = ent c.entry 0x20 2 then 1 else 0) ∧
  (∀ (s : State) (f : Fetched) (rest : List Fetched) (c : Cmd), s.dev.isReady = true → s.dev.power.powerState = 0 → s.dev.entryHeld f = false → s.dev.fetched = f :: rest →
    opcodeOf f.entry = 0x40 → ent f.entry 0x22 1 = 1 → c ∈ s.dev.cmds →
    (ent c.entry 6 2 = ent f.entry 0x20 2 ∨ (ent c.entry 0x0C 2 = ent f.entry 0x20 2 ∧ ent c.entry 0x0C 2 ≠ 0xFFFF) ∨
      (opcodeOf c.entry = 0x40 ∧ ent c.entry 0x20 2 = ent f.entry 0x20 2)) →
    ∃ t off, Runs .eventReset s t ∧ Refused { s.dev with fetched := rest } t f rest 0x04 off 0)

/-- Plain and rotated scratchpad accesses at an idle port: performed, stalled or refused; bytes whose parity fails are not used. The alignment of a size that is no power of two is the model's choice (notes/assumptions/12), and so is how a stalled access waits (notes/assumptions/41). -/
def Obligations.ScratchpadAccessMovesItsBytes : Prop :=
  ∀ (t : TileRef) (a : PortRequest) (off size : Nat) (s : State), ∀ x ∈ padRows,
    let tl := s.dev.tile (refKey t)
    let legal := fun (write : Bool) => off < 0x40000 ∧ windowLegal x.2 a.who off size write = true
    (FreePort s.dev t a →
      (∀ bs : List Byte, bs.length = size → legal true →
        ∃ d, Runs (x.1 t a off size (some bs)) s d ∧ PortServed s.dev d t (tl.beatWon a.who) ∧ BytesWritten s.dev d (scratchAddr t off) bs) ∧
      (legal false →
        ∃ d, Runs (x.1 t a off size none) s d ∧ d.mem = s.dev.mem ∧
          PortServed s.dev d t { tl.beatWon a.who with reads := tl.reads.put [] (requesterNum a.who) (s.dev.mem.read (scratchAddr t off) size) })) ∧
    (∀ data : Option (List Byte), legal data.isSome →
      (LostPort s.dev t a → Runs (x.1 t a off size data) s (s.dev.setTile (refKey t) (tl.beatLost a.who (padJobs x.2 a.who off size data)))) ∧
      (s.dev.tileRuns t.bay.val t.tile.val = true → a.upset = true →
        Runs (x.1 t a off size data) s (s.dev.detect t.bay.val t.tile.val (a.cmd.getD 0xFFFF) .tileParity))) ∧
    (∀ data : Option (List Byte), s.dev.tileRuns t.bay.val t.tile.val = true → ¬ legal data.isSome →
      Runs (x.1 t a off size data) s (match a.cmd with | some tag => s.dev.failWith tag csScratchpad | none => s.dev))

/-- The aliases of R156, bit by bit, at an idle port whose beat the request takes; a read through either returns the word unchanged. -/
def Obligations.AliasesChangeTheirBits : Prop :=
  ∀ (t : TileRef) (a : PortRequest) (off : Nat) (wide : Bool) (s : State),
    let n := if wide then 8 else 4
    let at' := scratchAddr t off
    let tl := s.dev.tile (refKey t)
    FreePort s.dev t a → off % n = 0 →
    (∀ data : W64, regionOpen a.who off n true = true →
      (∃ d, Runs (.scratchpadBitSet t a off wide (some data)) s d ∧ PortServed s.dev d t (tl.beatWon a.who) ∧
        (∀ i, i < 8 * n → (d.mem.nat at' n).testBit i = ((s.dev.mem.nat at' n).testBit i || data.toNat.testBit i)) ∧
        ∀ k, (k < at' ∨ at' + n ≤ k) → d.mem.byte k = s.dev.mem.byte k) ∧
      (∃ d, Runs (.scratchpadBitClear t a off wide (some data)) s d ∧ PortServed s.dev d t (tl.beatWon a.who) ∧
        (∀ i, i < 8 * n → (d.mem.nat at' n).testBit i = ((s.dev.mem.nat at' n).testBit i && !data.toNat.testBit i)) ∧
        ∀ k, (k < at' ∨ at' + n ≤ k) → d.mem.byte k = s.dev.mem.byte k)) ∧
    (regionOpen a.who off n false = true → ∀ x ∈ [Instr.scratchpadBitSet, .scratchpadBitClear],
      ∃ d, Runs (x t a off wide none) s d ∧ d.mem = s.dev.mem ∧
        PortServed s.dev d t { tl.beatWon a.who with reads := tl.reads.put [] (requesterNum a.who) (s.dev.mem.read at' n) })

/-- R154: who takes the next beat of a scratchpad port. -/
def Obligations.SixteenLostBeatsTakeTheNext : Prop :=
  ∀ (t : TileRef) (a : PortRequest) (s : State), s.dev.tileRuns t.bay.val t.tile.val = true → a.upset = false → (s.dev.tile (refKey t)).port = [] →
    let tl := s.dev.tile (refKey t)
    let lost := fun r => tl.lost.get 0 (requesterNum r)
    (a.who = .arrayFeed ∨
      (16 ≤ lost a.who ∧ .arrayFeed ∉ a.rivals ∧ ∀ r, r ∈ a.rivals → 16 ≤ lost r → priorityOf a.who ≤ priorityOf r) →
      (∀ x ∈ padRows, ∀ off size, off < 0x40000 →
        (∀ bs : List Byte, bs.length = size → windowLegal x.2 a.who off size true = true →
          ∃ d, Runs (x.1 t a off size (some bs)) s d ∧ PortServed s.dev d t (tl.beatWon a.who) ∧ BytesWritten s.dev d (scratchAddr t off) bs) ∧
        (windowLegal x.2 a.who off size false = true →
          ∃ d, Runs (x.1 t a off size none) s d ∧ d.mem = s.dev.mem ∧
            PortServed s.dev d t { tl.beatWon a.who with reads := tl.reads.put [] (requesterNum a.who) (s.dev.mem.read (scratchAddr t off) size) })) ∧
      (∀ x ∈ [(Instr.scratchpadBitSet, Window.bitSet), (.scratchpadBitClear, .bitClear)], ∀ off wide (data : Option W64),
        windowLegal x.2 a.who off (if wide then 8 else 4) data.isSome = true →
        ∃ d y, Runs (x.1 t a off wide data) s d ∧ PortServed s.dev d t y ∧ y.port = [] ∧ y.lost = (tl.beatWon a.who).lost)) ∧
    (a.who ≠ .arrayFeed → .arrayFeed ∈ a.rivals ∨ (∃ r, r ∈ a.rivals ∧ r ≠ a.who ∧ 16 ≤ lost r ∧ priorityOf r < priorityOf a.who) →
      ∀ x ∈ padRows, ∀ off size data, off < 0x40000 → windowLegal x.2 a.who off size data.isSome = true →
        Runs (x.1 t a off size data) s (s.dev.setTile (refKey t) (tl.beatLost a.who (padJobs x.2 a.who off size data))))

/-- Whose operation a free slot takes (R248). -/
def Obligations.SlotsGoByClassPromiseAndOrder : Prop :=
  ∀ (d : Device) (k t : Nat),
    (∀ c, d.nextDelivery k t = some c → Deliverable d k t c ∧ ∀ x, Deliverable d k t x →
      (x.urgent = true → c.urgent = true) ∧
      (c.urgent = true → x.urgent = true → c.order ≤ x.order) ∧
      (c.urgent = false → c.promise ≤ x.promise ∧ (c.promise = x.promise → c.order ≤ x.order))) ∧
    (d.nextDelivery k t = none → ∀ x, ¬ Deliverable d k t x)

/-- Delivery of a tile operation (R125, R255): it takes a slot and a tag; with no slot it waits, with a slot and no tag it is held and counted once. -/
def Obligations.DeliveryTakesSlotAndTag : Prop :=
  ∀ (t : TileRef) (s : State) (c : Cmd) (i : Nat) (o : TileOp), s.dev.bayWorks t.bay.val →
    s.dev.nextDelivery t.bay.val t.tile.val = some c → c.heldOp t.bay.val = some i → c.ops[i]? = some o →
    (∀ e, c.badRecipe s.dev = some e → RunsWhole (.tileOpDeliver t) s (s.dev.failWith c.tag e)) ∧
    (c.badRecipe s.dev = none →
      (slotFree (s.dev.tile (refKey t)) c.urgent = false → Runs (.tileOpDeliver t) s s.dev) ∧
      (slotFree (s.dev.tile (refKey t)) c.urgent = true →
        (∀ tag b, (s.dev.bay t.bay.val).takeTally c.urgent = some (tag, b) →
          RunsWhole (.tileOpDeliver t) s (((s.dev.setBay t.bay.val { b with slotsFree := b.slotsFree - 1 }).withOp c.tag i fun x =>
            { x with state := .waiting, tile := t.tile.val, tally := some tag }).modTile (refKey t) fun x =>
            { x with slots := x.slots ++ [⟨c.tag, i, o.kind, c.urgent⟩] })) ∧
        ((s.dev.bay t.bay.val).takeTally c.urgent = none →
          (o.counted = false → RunsWhole (.tileOpDeliver t) s ((s.dev.count 0x807004 1).withOp c.tag i fun x => { x with counted := true })) ∧
          (o.counted = true → Runs (.tileOpDeliver t) s s.dev))))

/-- The start of a tile operation of each kind (R124, R126), alone on idle arrays or in a co-issued group (R136). -/
def Obligations.OperationsStartOnFreeUnits : Prop :=
  ∀ (t : TileRef) (s : State) (sl : Slot) (c : Cmd) (o : TileOp),
    (StartsNext s.dev t .transfer sl c o → RunsWhole (.tileOpStart t .transfer) s (s.dev.opStarted t sl c o)) ∧
    (StartsNext s.dev t .vector sl c o →
      (s.dev.kindRuns t .vector = true ∨ s.dev.attRuns t = true → Runs (.tileOpStart t .vector) s s.dev) ∧
      (s.dev.kindRuns t .vector = false → s.dev.attRuns t = false →
        (opcodeOf c.entry ≠ 0x13 → RunsWhole (.tileOpStart t .vector) s (s.dev.opStarted t sl c o)) ∧
        (∀ r, opcodeOf c.entry = 0x13 → c.recipe s.dev = .ok r → RunsWhole (.tileOpStart t .vector) s
          ((s.dev.modTile (refKey t) fun x => { x with vu := some (startVu r c.tag sl.op o) }).opStarted t sl c o)))) ∧
    (∀ a, StartsNext s.dev t .array sl c o → c.arrayCmd s.dev = .ok a →
      let n := t.tile.val
      let x := s.dev.tile (refKey t)
      (((x.pre.isSome = true ∧ c.urgent = false) ∨ (a.isAtt = true ∧ s.dev.kindRuns t .vector = true)) → Runs (.tileOpStart t .array) s s.dev) ∧
      ((x.pre = none ∨ c.urgent = true) → (a.isAtt = true → s.dev.kindRuns t .vector = false) →
        (x.arr = none →
          let d0 := if c.urgent then s.dev.freeLanes t.bay.val n else s.dev
          let bank := match (d0.tile (refKey t)).pre with | some g => 1 - g.bank | none => 0
          d0.snapRecord t.bay.val n c.tag sl.op = none →
          ∀ d1 m, d0.place t.bay.val n (c.readCtx s.dev t.bay.val) a c.tag sl.op o 0 bank = .ok (d1, m) →
            RunsWhole (.tileOpStart t .array) s ((d1.modTile (refKey t) fun y => Tile.settleStart { y with arr := some ⟨[m], 0, 0, bank, 0⟩ }).opStarted t sl c o)) ∧
        (∀ g m0 p, x.arr = some g → g.members.head? = some m0 → s.dev.pieceOf m0 = .ok p →
          (¬(g.pos = 0 ∧ g.course = 0 ∧ p.joins c o a = true) ∨ g.freeBase (arraysOf a.b.cls o.shapeN) = none → Runs (.tileOpStart t .array) s s.dev) ∧
          (∀ base d1 m, g.pos = 0 → g.course = 0 → p.joins c o a = true → g.freeBase (arraysOf a.b.cls o.shapeN) = some base →
            s.dev.place t.bay.val n (c.readCtx s.dev t.bay.val) a c.tag sl.op o base g.bank = .ok (d1, m) →
            RunsWhole (.tileOpStart t .array) s
              ((d1.modTile (refKey t) fun y => Tile.settleStart { y with arr := some { g with members := g.members ++ [m] } }).opStarted t sl c o)))))

/-- The block, course and pre-emption boundaries of the operations on a tile's arrays (R129, R139, R140, R142, R160). -/
def Obligations.ArrayWorkAdvances : Prop :=
  ∀ (t : TileRef) (s : State) (g : ArrayGroup) (p : Piece) (ps : List Piece), s.dev.arrayWork t = some (g, p :: ps) →
    let k := t.bay.val
    let n := t.tile.val
    (∀ ups outs, g.pos < p.arr.courseAt g.course → eachPiece (fun q => pieceBlock s.dev t q g.pos ups) (p :: ps) = .ok outs →
      ((∀ b ∈ outs, ∀ l ∈ b.lanes, l.2 = true) → RunsWhole (.blockEnd t ups []) s (s.dev.modTile (refKey t) fun x =>
        { (x.closed outs true) with arr := some { (g.put (outs.map (·.mem))) with pos := g.pos + 1 } })) ∧
      ((∃ b ∈ outs, ∃ l ∈ b.lanes, l.2 = false) → RunsWhole (.blockEnd t ups []) s
        ((s.dev.modTile (refKey t) fun x => { (x.closed outs false) with arr := some g }).detect k n p.cmd.tag .residue))) ∧
    ((∃ m ∈ g.members, m.start.isSome = true) ∨ g.pos < p.arr.courseAt g.course → Runs (.courseEnd t []) s s.dev) ∧
    (g.course < p.arr.courses → p.arr.courseAt g.course ≤ g.pos → (∀ m ∈ g.members, m.start = none) →
      (p.tree = true → s.dev.homesHeld k n p.dep g.bank = false) →
      let c := p.arr.fold.c0 + g.course
      let pushed := if p.tree = true ∧ p.pops c = 0 ∧ 0 < p.depth c then s.dev.pushHome k n p.dep (p.depth c - 1) g else (s.dev, g)
      ∀ outs, eachPiece (fun q => pushed.1.foldMember k n pushed.2 q c) (p :: ps) = .ok outs →
        let g1 := { (pushed.2.put (outs.map (·.2))) with course := g.course + 1 }
        let d1 := pushed.1.modTile (refKey t) fun x => { (outs.foldl (fun x o => x.folded o.2 o.1) x) with arr := some g1 }
        let d2 := if (c + 1) % p.stride = 0 ∨ (d1.tile (refKey t)).snapDue = true then d1.snapshot k n g1 (c + 1) p.tree else d1
        (g.course + 1 < p.arr.courses → RunsWhole (.courseEnd t []) s d2) ∧
        (g.course + 1 = p.arr.courses → RunsWhole (.courseEnd t []) s (d2.finishGroup k n g1 (p :: ps)))) ∧
    (∀ sl, s.dev.nextSlot t .array = some sl → sl.urgent = true → (∀ q ∈ p :: ps, q.cmd.urgent = false) → (s.dev.tile (refKey t)).pre = none →
      ∃ d, Runs (.preemptionPoint t) s d ∧ (d.tile (refKey t)).arr = none ∧
        (d.tile (refKey t)).pre = some { g with members := g.members.map fun m => { m with start := none } } ∧
        d.mem.read (saveArea k n) 10240 = accBytes (allLanes.map fun i => ((s.dev.tile (refKey t)).lane i).course) ++ accBytes ((s.dev.tile (refKey t)).groupRuns g) ∧
        ∀ m ∈ g.members, ∀ x o, d.cmd m.cmd = some x → x.ops[m.op]? = some o → o.state = .preempted)

/-- The end of a tile operation (R141, R161, R255). -/
def Obligations.OperationsEndAndReturn : Prop :=
  (∀ (t : TileRef) (s : State) (k : OpKind) (sl : Slot) (c : Cmd), (k = .vector ∨ k = .transfer) →
    s.dev.tileRuns t.bay.val t.tile.val = true → s.dev.runningOp t k = some sl → s.dev.cmd sl.cmd = some c → opcodeOf c.entry ≠ 0x13 →
    s.dev.tokenWait c.tag sl.op = false →
    let last := c.ops.zipIdx.all fun p => p.2 == sl.op || p.1.state == .ended
    RunsWhole (.tileOpEnd t k []) s (((if last then s.dev.perform c.tag t.bay.val else s.dev).endOp c.tag sl.op).settle c.tag)) ∧
  (∀ (t : TileRef) (s : State) (sl : Slot) (c : Cmd) (v : VuCtx),
    s.dev.tileRuns t.bay.val t.tile.val = true → s.dev.runningOp t .vector = some sl → s.dev.cmd sl.cmd = some c → opcodeOf c.entry = 0x13 →
    (s.dev.tile (refKey t)).vu = some v → v.cmd = c.tag → v.op = sl.op → s.dev.tokenWait c.tag sl.op = false →
    let d1 := s.dev.modCmd c.tag fun x => { x with flags := x.flags ||| v.flags, late := x.late ++ v.late }
    let last := c.ops.zipIdx.all fun p => p.2 == sl.op || p.1.state == .ended
    (v.finished = true →
      RunsWhole (.tileOpEnd t .vector []) s (((if last then d1.perform c.tag t.bay.val else d1).endOp c.tag sl.op).settle c.tag)) ∧
    (v.finished = false → Runs (.tileOpEnd t .vector []) s s.dev)) ∧
  (∀ (t : TileRef) (s : State) (r : Drain) (p : Piece) (d1 : Device) (vs : List (Nat × Wide)) (fl : Nat),
    s.dev.tileRuns t.bay.val t.tile.val = true → s.dev.nextDrain t = some r → s.dev.pieceOf r.mem = .ok p → s.dev.tokenWait p.cmd.tag r.mem.op = false →
    drainArray s.dev (p.cmd.readCtx s.dev t.bay.val) p.arr p.op (drainLanes r (s.dev.drainRuns t.bay.val t.tile.val r)) = .ok (d1, vs, fl) →
    RunsWhole (.tileOpEnd t .array []) s (((d1.modCmd p.cmd.tag fun x =>
      { x with flags := x.flags ||| fl, wide0 := gather x.wide0 vs, loadSat := x.loadSat + r.mem.loadSat, loadFlush := x.loadFlush + r.mem.loadFlush }).endOp
        p.cmd.tag r.mem.op).settle p.cmd.tag)) ∧
  (∀ (d : Device) (c : Cmd) (i : Nat) (o : TileOp) (tag : Nat), d.cmd c.tag = some c → c.ops[i]? = some o → o.state = .running → o.tally = some tag → o.bay < 8 →
    let t := d.endOp c.tag i
    t.cmd c.tag = some { c with ops := c.ops.modify i fun x => { x with state := .ended, tally := none }, progressAt := d.now } ∧
    (t.bay o.bay).slotsFree = (d.bay o.bay).slotsFree + 1 ∧
    (tag < 13824 → (t.bay o.bay).tallyFree = tag :: (d.bay o.bay).tallyFree) ∧
    (13824 ≤ tag → (t.bay o.bay).tallyUrgentFree = tag :: (d.bay o.bay).tallyUrgentFree) ∧
    (c.urgent = true → (t.bay o.bay).urgentBacklog = (d.bay o.bay).urgentBacklog - o.charge) ∧
    (c.urgent = false → (t.bay o.bay).tileBacklog = (d.bay o.bay).tileBacklog - o.charge) ∧
    t.tile (tileKey o.bay o.tile) = (d.tile (tileKey o.bay o.tile)).forget c.tag i)

/-- Resuming a saved array group (R140), and the row-state records of a vector piece (R187, their field order by notes/assumptions/40). -/
def Obligations.SavedWorkComesBack : Prop :=
  (∀ (t : TileRef) (s : State) (g : ArrayGroup), s.dev.tileRuns t.bay.val t.tile.val = true → (s.dev.tile (refKey t)).pre = some g →
    (s.dev.tile (refKey t)).arr = none → (∀ sl, s.dev.nextSlot t .array = some sl → sl.urgent = false) →
    (g.members.any s.dev.isAttention = true → s.dev.kindRuns t .vector = false) →
    ∃ d g1, Runs (.preemptedResume t) s d ∧ (d.tile (refKey t)).pre = none ∧ (d.tile (refKey t)).arr = some g1 ∧
      g1.pos = g.pos ∧ g1.course = g.course ∧ g1.members.map (fun m => (m.cmd, m.op)) = g.members.map (fun m => (m.cmd, m.op)) ∧
      (∀ i, i < 1024 → ((d.tile (refKey t)).lane i).course = s.dev.accAt (saveArea t.bay.val t.tile.val) i) ∧
      ((s.dev.tile (refKey t)).drainsLanes = false → ∀ m ∈ g.members, ∀ i ∈ m.lanes,
        ((d.tile (refKey t)).lane i).run = s.dev.accAt (saveArea t.bay.val t.tile.val + 5120) i) ∧
      (∀ m ∈ g.members, ∀ x o, d.cmd m.cmd = some x → x.ops[m.op]? = some o → o.state = .running) ∧ d.mem = s.dev.mem) ∧
  (∀ (t : TileRef) (s : State) (v : VuCtx) (c : Cmd), s.dev.vuWork t = some (v, c) → v.finished = false → v.pc = v.passStart → (0 < v.group ∨ 0 < v.pass) →
    (∀ n, n < 2 → s.dev.held (rowSlot t.bay.val t.tile.val n) 2112 = false) →
    ∃ d, Runs (.pieceBoundary t) s d ∧ (d.tile (refKey t)).vu = some { v with copy := [] } ∧
      (∀ slot, (∃ r more, (s.dev.tile (refKey t)).rowRecs = r :: more ∧ slot = 1 - r.slot) ∨ ((s.dev.tile (refKey t)).rowRecs = [] ∧ slot = 0) →
        d.mem.read (rowSlot t.bay.val t.tile.val slot) v.record.length = v.record ∧
        (d.tile (refKey t)).rowRecs = ⟨slot, v.cmd, v.op, v.flags, v.fenced, v.late⟩ :: (s.dev.tile (refKey t)).rowRecs.filter fun r => r.slot != slot))

/-- What a detection does to the work and to the error queue (R327, R331, R361). -/
def Obligations.DetectionsStopWork : Prop :=
  (∀ (t : TileRef) (s : State) (ups : List (Nat × Nat)) (found : List Detected) (g : ArrayGroup) (p : Piece) (ps : List Piece),
    s.dev.arrayWork t = some (g, p :: ps) → fatal found = true →
    RunsWhole (.blockEnd t ups found) s (s.dev.detectAll t.bay.val t.tile.val p.cmd.tag found) ∧
    RunsWhole (.courseEnd t found) s (s.dev.detectAll t.bay.val t.tile.val p.cmd.tag found)) ∧
  (∀ (t : TileRef) (w : StepWord) (s : State) (v : VuCtx) (c : Cmd),
    (AtStep s t 0x01 w v c → RunsWhole (.add t w true) s (s.dev.detect t.bay.val t.tile.val c.tag .vectorCheck)) ∧
    (AtStep s t 0x20 w v c → RunsWhole (.tanh t w true) s (s.dev.detect t.bay.val t.tile.val c.tag .vectorCheck)) ∧
    (AtStep s t 0x28 w v c → RunsWhole (.rowSum t w true) s (s.dev.detect t.bay.val t.tile.val c.tag .vectorCheck)) ∧
    (AtStep s t 0x0F w v c → RunsWhole (.andW t w true) s (s.dev.detect t.bay.val t.tile.val c.tag .tileParity)) ∧
    (AtStep s t 0x14 w v c → RunsWhole (.cmpLt t w true) s (s.dev.detect t.bay.val t.tile.val c.tag .tileParity)) ∧
    (AtStep s t 0x30 w v c → RunsWhole (.load t w true) s (s.dev.detect t.bay.val t.tile.val c.tag .tileParity))) ∧
  (∀ (d : Device) (k tile tag a : Nat) (f : Detected), k < 8 → (∀ b, f ≠ .dieCorrected b) → detCounter f = some a → (d.bay k).state ≠ .out →
    d.safety.errors.length < 256 → d.log.state ≠ 2 →
    let e := d.detect k tile tag f
    e.safety.errors = d.safety.errors ++ [⟨k, tile, tag, f, d.now, min (d.bay k).nesting 2⟩] ∧
    (e.bay k).nesting = (d.bay k).nesting + 1 ∧ e.counter a = stopAdd 64 (d.counter a) 1 ∧ e.tiles = d.tiles ∧ e.cmds = d.cmds ∧ e.mem = d.mem) ∧
  (∀ (d : Device) (k tile tag : Nat) (b : Fin 8), d.detect k tile tag (.dieCorrected b) = d.count 0x805006 1) ∧
  (∀ (d : Device) (k tile tag : Nat) (b : Fin 8), (d.bay b.val).state ≠ .out → d.safety.errors.length < 256 → d.log.state ≠ 2 →
    let e := d.detect k tile tag (.dieDouble b)
    e.safety.errors = d.safety.errors ++ [⟨b.val, 0xFFFF, tag, .dieDouble b, d.now, min (d.bay b.val).nesting 2⟩] ∧
    (e.bay b.val).nesting = (d.bay b.val).nesting + 1 ∧ e.safety.counters = d.safety.counters ∧ e.cmds = d.cmds ∧ e.mem = d.mem)

/-- R104: when a watched sheaf trips. -/
def Obligations.SheafTripsAboveItsThresholds : Prop :=
  ∀ (d : Device) (c : Cmd) (f sat flush : Nat),
    let ts := c.setting d (0x205101 + f)
    let tf := c.setting d (0x205201 + f)
    (trips d c f sat flush = true ↔ (ts ≠ 0xFFFF ∧ ts < sat) ∨ (tf ≠ 0xFFFF ∧ tf < flush)) ∧
    (ts = 0 → trips d c f 1 flush = true) ∧ (tf = 0 → trips d c f sat 1 = true) ∧
    (ts = 0xFFFF → tf = 0xFFFF → trips d c f sat flush = false)

/-- R107: a re-executed sheaf is watched again, and re-executed only once. After the command's last one the writes that a fence orders behind its narrow outputs follow (R171). -/
def Obligations.ReexecutedSheafIsWatchedAgain : Prop :=
  ∀ (s : State) (tag : Nat) (c : Cmd) (tr : Trip) (rest : List Trip) (os : List OutSpec) (o : OutSpec) (d1 : Device) (st : OutStat),
    s.dev.cmd tag = some c → c.tag = tag → c.trips = tr :: rest → c.outSpecs s.dev = .ok os → os[tr.out]? = some o → c.outs[tr.out]? = some st →
    s.dev.struck tag = false →
    let g := (qctl o.ctl).gutter && isNarrow tr.fmt
    let z := encodeSheaf tr.fmt g (gutterRatio (qctl o.ctl) (c.setting s.dev 0x204002)) tr.bins
    let again := isNarrow tr.fmt && trips s.dev c tr.fmt z.sat z.flush
    writeSheaf s.dev (c.readCtx s.dev c.homeBay) o.tab tr.sheaf tr.fmt g z.bytes = .ok d1 →
    ∃ (t : Device) (c1 : Cmd), RunsWhole (.sheafReexecute ⟨tag, []⟩) s (t.writeLate tag) ∧ (rest ≠ [] → t.writeLate tag = t) ∧
      t.cmds = d1.cmds.map (fun x => if x.tag = tag then c1 else x) ∧ t.mem = d1.mem ∧
      t.counter 0x804002 = stopAdd 64 (d1.counter 0x804002) 1 ∧ c1.trips = rest ∧
      c1.flags = c.flags ||| z.flags ||| (if again then 0x80 else 0) ∧
      (∃ st1, c1.outs[tr.out]? = some st1 ∧ st1.reexec = st.reexec + 1 ∧ st1.after = (st.after || again) ∧ st1.excess = st.excess)

/-- The start and end of rung 2 for a bay (R357), and a second detection in a bay under handling (R351, R360). At the end of the reset numbers without a tile go to spare slates (notes/assumptions/32, DEDUCED). -/
def Obligations.RungTwoClearsTheBay : Prop :=
  (∀ (k : Fin 8) (cause : Nat) (s : State), (s.dev.bay k.val).closed = false → (s.dev.bay k.val).state ≠ .reset →
    ∃ d, Runs (.bayReinit k cause) s d ∧ ResetBegun s.dev d k.val) ∧
  (∀ (k : Fin 8) (s : State), (s.dev.bay k.val).closed = false → (s.dev.bay k.val).nesting = 0 →
    ∃ d, Runs (.handshakeStall k) s d ∧ ResetBegun s.dev d k.val ∧ d.counter 0x80A006 = stopAdd 64 (s.dev.counter 0x80A006) 1) ∧
  (∀ (s : State) (e : ErrRec) (rest : List ErrRec) (b : Fin 8), s.dev.safety.errors = e :: rest → e.bay < 8 → e.found = .dieDouble b → e.nesting = 0 →
    s.dev.bayOut e.bay = false → (s.dev.bay e.bay).state ≠ .reset →
    ∃ d, RunsWhole .errorRecordHandle s d ∧ ResetBegun s.dev d e.bay ∧ d.safety.errors = rest) ∧
  (∀ (s : State) (e : ErrRec) (rest : List ErrRec), s.dev.safety.errors = e :: rest → e.bay < 8 → detBlamesTile e.found = true → e.nesting = 1 →
    s.dev.bayOut e.bay = false → (s.dev.bay e.bay).state ≠ .reset →
    let p := (s.dev.bay e.bay).physOf e.tile
    let short := ((s.dev.retireTile e.bay p).bay e.bay).lacksSpare
    ∃ d, RunsWhole .errorRecordHandle s d ∧ p ∈ (d.bay e.bay).retired ∧ d.safety.errors = rest ∧
      (short = false → ResetBegun s.dev d e.bay) ∧ (short = true → BayGone s.dev d e.bay)) ∧
  (∀ (k : Fin 8) (s : State), (s.dev.bay k.val).state = .reset →
    ((s.dev.bay k.val).lacksSpare = false →
      ∃ d, Runs (.bayReinitEnd k ⟨[], false, true⟩) s d ∧ (d.bay k.val).state = .run ∧ (d.bay k.val).nesting = 0 ∧ (d.bay k.val).resetEnd = 0 ∧ d.cmds = s.dev.cmds ∧ d.mem = s.dev.mem ∧
        ((s.dev.bay k.val).phys.length = 1280 → (∀ p, p ∈ (s.dev.bay k.val).spares → p ∉ (s.dev.bay k.val).retired) →
          ∀ t, t < 1280 → (d.bay k.val).physOf t ∉ (d.bay k.val).retired)) ∧
    ((s.dev.bay k.val).lacksSpare = true → ∃ d, Runs (.bayReinitEnd k ⟨[], false, true⟩) s d ∧ BayGone s.dev d k.val) ∧
    (∀ fs p, ∃ d, Runs (.bayReinitEnd k ⟨fs, p, false⟩) s d ∧ BayGone s.dev d k.val))

/-- A take-over (R352 to R354). -/
def Obligations.TakeOverReplacesATile : Prop :=
  (∀ (s : State) (e : ErrRec) (rest : List ErrRec), s.dev.safety.errors = e :: rest → e.bay < 8 → detBlamesTile e.found = true → e.nesting = 0 →
    s.dev.bayOut e.bay = false → (s.dev.bay e.bay).state ≠ .reset →
    ∃ d, RunsWhole .errorRecordHandle s d ∧ d.safety.errors = rest ∧ (d.bay e.bay).state = .recovery ∧
      (d.bay e.bay).takeOver = some ⟨e.tile, (s.dev.bay e.bay).physOf e.tile, none, .containing, 0, s.dev.now, 0, 0, 0, detMech e.found, e.tag⟩ ∧
      (s.dev.bay e.bay).physOf e.tile ∈ (d.bay e.bay).retired ∧ (d.tile (tileKey e.bay (buddyOf e.tile))).snaps = [] ∧ d.cmds = s.dev.cmds ∧ d.mem = s.dev.mem) ∧
  (∀ (k : Fin 8) (s : State) (x : TakeOver), (s.dev.bay k.val).takeOver = some x → x.stage = .containing → s.dev.bayOut k.val = false →
    ((s.dev.bay k.val).spares = [] → ∃ d, Runs (.containmentEnd k) s d ∧ BayGone s.dev d k.val) ∧
    (∀ p ps, (s.dev.bay k.val).spares = p :: ps →
      Runs (.containmentEnd k) s (s.dev.modBay k.val fun b => { b with takeOver := some { x with spare := some (ps.foldl min p), stage := .fetching } }))) ∧
  (∀ (k : Fin 8) (s : State) (x : TakeOver) (p : Nat) (spare buddy : List Byte), (s.dev.bay k.val).takeOver = some x → x.stage = .fetching → x.spare = some p →
    (s.dev.bay k.val).state = .recovery → resultsAgree spare buddy = false → x.fails = 0 → ∀ q qs, (s.dev.bay k.val).spares.erase p = q :: qs →
    ∃ d, RunsWhole (.spareValidation k ⟨spare, buddy⟩) s d ∧ p ∈ (d.bay k.val).retired ∧
      (d.bay k.val).takeOver = some { x with fails := 1, spare := some (qs.foldl min q), stage := .fetching }) ∧
  (∀ (k : Fin 8) (s : State) (x : TakeOver), (s.dev.bay k.val).takeOver = some x → x.stage = .protecting →
    (s.dev.tile (tileKey k.val x.tile)).protected' = true → (s.dev.tile (tileKey k.val (buddyOf x.tile))).protected' = true →
    ∃ d, Runs (.reProtection k) s d ∧ (d.bay k.val).state = .run ∧ (d.bay k.val).takeOver = none ∧ (d.bay k.val).nesting = 0) ∧
  (∀ (k : Fin 8) (s : State) (x : TakeOver), (s.dev.bay k.val).takeOver = some x → x.stage = .repeating →
    ∃ d, Runs (.takeOverResume k) s d ∧ (d.bay k.val).takeOver = some { x with stage := .protecting } ∧ (d.tile (tileKey k.val x.tile)).snapDue = true)

/-- A spare whose results agree with its buddy's takes the logical number, and the mirrors of the tile's homes are read back (R149, R352). -/
def Obligations.ValidatedSpareTakesTheNumber : Prop :=
  ∀ (k : Fin 8) (s : State) (x : TakeOver) (p : Nat) (spare buddy : List Byte), (s.dev.bay k.val).takeOver = some x → x.stage = .fetching → x.spare = some p →
    x.tile < 1280 → (s.dev.bay k.val).state = .recovery → resultsAgree spare buddy = true → (s.dev.bay k.val).phys.length = 1280 →
    (s.dev.tile (tileKey k.val x.tile)).slots = [] → (s.dev.tile (tileKey k.val x.tile)).arr = none → (s.dev.tile (tileKey k.val x.tile)).pre = none →
    (s.dev.tile (tileKey k.val x.tile)).drains = [] → (s.dev.tile (tileKey k.val x.tile)).vu = none →
    ∃ d, RunsWhole (.spareValidation k ⟨spare, buddy⟩) s d ∧ (d.bay k.val).physOf x.tile = p ∧ (d.bay k.val).spares = (s.dev.bay k.val).spares.erase p ∧
      (d.tile (tileKey k.val x.tile)).lanes = (s.dev.tile (slateKey k.val p)).lanes ∧
      d.mem.read (ownHomes k.val x.tile) homesBytes = s.dev.mem.read (mirrorHomes k.val (buddyOf x.tile)) homesBytes ∧
      (∃ y, (d.bay k.val).takeOver = some y ∧ y.stage = .repeating ∧ y.tile = x.tile) ∧ d.cmds = s.dev.cmds

/-- The device domain (R355, R360), and what rung 3 clears (R357). -/
def Obligations.DeviceDomainRollsBackThenResets : Prop :=
  (∀ s : State, s.dev.isReady = true → s.dev.safety.devHandling = 0 →
    ∃ d, Runs .lockstepRollback s d ∧ d.counter 0x80A004 = stopAdd 64 (s.dev.counter 0x80A004) 1 ∧ d.safety.devHandling = 1 ∧
      d.safety.alert.toNat.testBit 6 = true ∧ d.cmds = s.dev.cmds ∧ d.mem = s.dev.mem ∧ d.bays = s.dev.bays) ∧
  (∀ s : State, s.dev.safety.devHandling = 1 → Runs .lockstepRollbackEnd s (s.dev.withSafety fun x => { x with devHandling := 0 })) ∧
  (∀ (c : Instr) (s : State), s.dev.isReady = true → ((∃ o, c = .deviceReset o) ∨ (c = .lockstepRollback ∧ s.dev.safety.devHandling = 1)) →
    ∃ d, Runs c s d ∧ RungThree d)

/-- The promise timer (R335) and host accesses (R252). -/
def Obligations.PromisesAreWatched : Prop :=
  (∀ (tag : Nat) (s : State) (c : Cmd), s.dev.cmd tag = some c → c.overdue = false →
    (s.dev.now < c.promise → Runs (.promiseExpiry tag) s s.dev) ∧
    (c.promise ≤ s.dev.now → ∃ d, Runs (.promiseExpiry tag) s d ∧ d.cmd tag = some { c with overdue := true } ∧
      d.counter 0x80A007 = stopAdd 64 (s.dev.counter 0x80A007) 1 ∧ d.safety.alert.toNat.testBit 4 = true ∧ d.mem = s.dev.mem)) ∧
  (∀ (tag : Nat) (s : State) (c : Cmd), s.dev.cmd tag = some c → c.failure = none → c.overdueAt ≤ s.dev.now →
    (isFabricOp (opcodeOf c.entry) = true → s.dev.awaitsPartner c = true →
      Runs (.overdueLimitExpiry tag) s (s.dev.modCmd tag fun c => { c with overdueAt := c.overdueAt + 1000 * s.dev.setting 0x401001 })) ∧
    (isFabricOp (opcodeOf c.entry) = false ∨ (s.dev.awaitsPartner c = false ∧ c.progressAt + 1000 * s.dev.setting 0x401001 ≤ s.dev.now) → s.dev.holders c = [] →
      ∃ d x, Runs (.overdueLimitExpiry tag) s d ∧ d.cmd tag = some x ∧ x.failure = some ⟨csAborted, 0, 0xFF⟩)) ∧
  (∀ (tag : Nat) (s : State) (c : Cmd) (o : TileOp), s.dev.cmd tag = some c → c.failure = none → c.usesHost = true → o ∈ c.ops → o.state = .running →
    ∃ d x, Runs (.hostDmaTimeout tag) s d ∧ d.cmd tag = some x ∧ x.failure = some ⟨csHostDma, 0, 0xFF⟩)

/-- Rung 2 of a queue pair, and audits of the books (R258, R357). -/
def Obligations.BooksOutOfBalanceAreHandled : Prop :=
  (∀ (q : Fin 64) (s : State), ∃ d, Runs (.queuePairReinit q) s d ∧ PairReset d q) ∧
  (∀ (b : Book) (s : State), s.dev.bookOk b = true → Runs (.bookAudit b) s s.dev) ∧
  (∀ (k : Fin 8) (s : State), Runs (.bookAudit (.urgentBucket k)) s s.dev) ∧
  (∀ (b : Book) (s : State), s.dev.isReady = true → s.dev.bookOk b = false →
    (∀ q : Fin 64, b = .sqSlots q ∨ b = .cqSlots q → ∃ d, Runs (.bookAudit b) s d ∧ PairReset d q) ∧
    (∀ k : Fin 8, b = .tileTags k ∨ b = .tileSlots k ∨ b = .dieTokens k ∨ b = .hbmTokens k ∨ b = .fabricCredits k ∨ b = .chainTokens k →
      s.dev.bayOut k.val = false → (s.dev.bay k.val).nesting = 0 → ∃ d, Runs (.bookAudit b) s d ∧ ResetBegun s.dev d k.val) ∧
    (∀ t, b = .commandTags → s.dev.safety.tagAuditAt = some t → s.dev.now ≤ t + 1000000000 → ∃ d, Runs (.bookAudit b) s d ∧ d.power.phase = .resetting ∧ d.cmds = []))

/-- Beacon rounds (R340). -/
def Obligations.BeaconRoundsCompareDigests : Prop :=
  (∀ (s : State) (r : Round) (f : BeaconFrame) (t k : Nat), s.dev.safety.beacon.round = some r → r.readyAt = some t → r.comparing = none →
    s.dev.roundFrame r = some f → f.version = r.version → f.count = r.entries.length → s.dev.testBay = some k → k < 8 →
    ∃ d, Runs .beaconCompare s d ∧ (d.bay k).state = .test ∧ d.safety.beacon.round = some { r with comparing := some (tileKey k 0) } ∧ d.mem = s.dev.mem ∧
      d.safety.counters = s.dev.safety.counters ∧ d.safety.beacon.frames = s.dev.safety.beacon.frames ∧
      (r.digests ≠ [] → f.digests ≠ [] → ∀ l, l < 256 → ((d.tile (tileKey k 0)).lane l).block = Int.ofNat ((lastCounters r.digests f.digests).getD l 0))) ∧
  (∀ (s : State) (r : Round) (f : BeaconFrame) (t : Nat), s.dev.safety.beacon.round = some r → r.readyAt = some t → r.comparing = none →
    s.dev.roundFrame r = some f → (f.version ≠ r.version ∨ f.count ≠ r.entries.length) → s.dev.safety.beacon.waiting = [] →
    ∃ d, Runs .beaconCompare s d ∧ d.safety.beacon.round = none ∧ d.counter 0x80A00B = stopAdd 64 (s.dev.counter 0x80A00B) 1) ∧
  (∀ (s : State) (r : Round) (f : BeaconFrame) (k : Nat), s.dev.safety.beacon.round = some r → r.comparing = some (tileKey k 0) → k < 8 →
    ((s.dev.bay k).state = .test → s.dev.roundFrame r = some f → s.dev.safety.beacon.waiting = [] →
      ∃ d, Runs .beaconComparisonEnd s d ∧ (d.bay k).state = .run ∧ d.safety.beacon.round = none ∧
        (firstDiff r.digests f.digests = none → d.counter 0x80A009 = stopAdd 64 (s.dev.counter 0x80A009) 1) ∧
        (∀ i, firstDiff r.digests f.digests = some i → d.counter 0x80A00A = stopAdd 64 (s.dev.counter 0x80A00A) 1 ∧ d.safety.alert.toNat.testBit 2 = true)) ∧
    ((s.dev.bay k).state ≠ .test →
      ∃ d, Runs .beaconComparisonEnd s d ∧ d.bays = s.dev.bays ∧ d.safety.beacon = { s.dev.safety.beacon with round := some { r with comparing := none } })) ∧
  (∀ (s : State) (r : Round) (t : Nat), s.dev.safety.beacon.round = some r → r.readyAt = some t → r.comparing = none → t + 1000000000 ≤ s.dev.now →
    s.dev.roundFrame r = none → s.dev.safety.beacon.waiting = [] →
    ∃ d, Runs .beaconTimeout s d ∧ d.safety.beacon.round = none ∧ d.counter 0x80A00B = stopAdd 64 (s.dev.counter 0x80A00B) 1)

/-- Row remapping (R213, R214, R217, R218). That the event of the row stands for one corrected error, that a reserve row not in use becomes unusable, and that a step whose write meets a paused row waits by leaving the block as it is are the model's readings, notes/assumptions/12. -/
def Obligations.RowsMoveAtTheThreshold : Prop :=
  (∀ (k : Fin 8) (pc : Fin 64) (row : Nat) (s : State), (s.dev.bay k.val).closed = false → row < 62500 →
    let n := (s.dev.bay k.val).rowErrors.get 0 (rowKey pc.val row) + 1
    ∃ d, Runs (.rowRemap k pc row) s d ∧ (d.bay k.val).rowErrors.get 0 (rowKey pc.val row) = n ∧
      d.counter 0x805001 = stopAdd 64 (s.dev.counter 0x805001) 1 ∧ d.mem = s.dev.mem ∧ d.cmds = s.dev.cmds ∧
      (n < s.dev.setting 0x502001 → (d.bay k.val).paused = (s.dev.bay k.val).paused) ∧
      (s.dev.setting 0x502001 ≤ n → (pc.val, row) ∉ (s.dev.bay k.val).paused →
        ((s.dev.bay k.val).rowInUse pc.val row = true → ((s.dev.bay k.val).freeReserve pc.val).isSome = true →
          (d.bay k.val).paused = (s.dev.bay k.val).paused ++ [(pc.val, row)]) ∧
        ((s.dev.bay k.val).rowInUse pc.val row = true → (s.dev.bay k.val).freeReserve pc.val = none → (d.bay k.val).paused = (s.dev.bay k.val).paused) ∧
        ((s.dev.bay k.val).rowInUse pc.val row = false → (d.bay k.val).paused = (s.dev.bay k.val).paused ∧ (d.bay k.val).remaps = (s.dev.bay k.val).remaps ∧
          (62436 ≤ row → (pc.val, row) ∈ (d.bay k.val).badReserve)))) ∧
  (∀ (k : Fin 8) (pc : Fin 64) (row r : Nat) (s : State), (pc.val, row) ∈ (s.dev.bay k.val).paused → (s.dev.bay k.val).rowInUse pc.val row = true →
    (s.dev.bay k.val).freeReserve pc.val = some r →
    ∃ d, Runs (.rowRemapEnd k pc row) s d ∧ (pc.val, row) ∉ (d.bay k.val).paused ∧
      (d.bay k.val).remapDirty.isSome = true ∧ d.mem = s.dev.mem ∧ d.counter 0x805003 = stopAdd 64 (s.dev.counter 0x805003) 1 ∧
      (row < 62436 → (∀ e, e ∈ (s.dev.bay k.val).remaps → e.pc = pc.val → e.reserve ≠ row) →
        (d.bay k.val).physRow pc.val row = r ∧ (d.bay k.val).remaps = (s.dev.bay k.val).remaps ++ [⟨pc.val, row, r⟩]) ∧
      (62436 ≤ row → (pc.val, row) ∈ (d.bay k.val).badReserve ∧
        (d.bay k.val).remaps = (s.dev.bay k.val).remaps.map fun e => if e.pc = pc.val ∧ e.reserve = row then { e with reserve := r } else e)) ∧
  (∀ (k : Fin 8) (s : State), (s.dev.bay k.val).remapDirty.isSome = true →
    ∃ d, Runs (.remapTablePersist k) s d ∧ d.flash = { s.dev.flash with
        remaps := s.dev.flash.remaps.setIfInBounds k.val (s.dev.bay k.val).remaps
        badRows := s.dev.flash.badRows.setIfInBounds k.val (s.dev.bay k.val).badReserve } ∧
      (d.bay k.val).remapDirty = none ∧ (d.bay k.val).remaps = (s.dev.bay k.val).remaps) ∧
  (∀ (t : TileRef) (w : StepWord) (s : State) (v : VuCtx) (c : Cmd), AtStep s t 0x31 w v c → v.fenced ≠ 2 → ∀ at' : Nat → Nat, ∀ bytes : Nat → List Byte,
    (∀ l, l ∈ v.lanes w → storeAddr s.dev c v w.stream.toNat (64 * v.group + l) = .ok (at' l)) →
    (∀ l, bytes l = (storeBytes (recipeCode c.entry w.stream.toNat) (v.src w l w.a)).1) →
    (∀ l, l ∈ v.lanes w → s.dev.open' (at' l) (bytes l).length = true ∧ s.dev.served (at' l) = true) →
    (∃ l, l ∈ v.lanes w ∧ s.dev.held (at' l) (bytes l).length = true) → Runs (.store t w false) s s.dev)

/-- Errors of a stack (R211, R215) and the patrol scrub (R212, R216). -/
def Obligations.StackErrorsResetTheBay : Prop :=
  (∀ (k : Fin 8) (pc : Fin 64) (row : Nat) (cs : List Nat) (s : State), (s.dev.bay k.val).closed = false → (s.dev.bay k.val).nesting = 0 → row < 62500 →
    ∃ d, Runs (.uncorrectableError k pc row cs) s d ∧ ResetBegun s.dev d k.val ∧ d.counter 0x805002 = stopAdd 64 (s.dev.counter 0x805002) (max 1 cs.length) ∧
      ∀ c, c ∈ cs → c < 250 → k.val * 2 ^ 30 + lineOfRow pc.val ((s.dev.bay k.val).logicalRow pc.val row) c < 2 ^ 33 →
        k.val * 2 ^ 30 + lineOfRow pc.val ((s.dev.bay k.val).logicalRow pc.val row) c ∈ d.poison) ∧
  (∀ (k : Fin 8) (pc : Fin 64) (s : State), (s.dev.bay k.val).closed = false → (s.dev.bay k.val).state ≠ .reset →
    let n := (s.dev.bay k.val).retries.get 0 pc.val
    (∃ d, Runs (.interfaceRetry k pc true) s d ∧ (d.bay k.val).retries.get 0 pc.val = 0 ∧ d.counter 0x805004 = stopAdd 64 (s.dev.counter 0x805004) 1 ∧ d.cmds = s.dev.cmds) ∧
    (n < 3 → ∃ d, Runs (.interfaceRetry k pc false) s d ∧ (d.bay k.val).retries.get 0 pc.val = n + 1 ∧ d.cmds = s.dev.cmds ∧ d.counter 0x805004 = s.dev.counter 0x805004) ∧
    (3 ≤ n → (s.dev.bay k.val).nesting = 0 → ∃ d, Runs (.interfaceRetry k pc false) s d ∧ ResetBegun s.dev d k.val)) ∧
  (∀ (k : Fin 8) (f : EccOutcome) (s : State), (s.dev.bay k.val).closed = false → (s.dev.bay k.val).state ≠ .reset →
    let b := s.dev.bay k.val
    let x := rowOfLine b.scrubNext
    let row := b.physRow x.1 x.2.1
    ((x.1, row) ∈ b.paused → Runs (.patrolScrub k f) s s.dev) ∧
    ((x.1, row) ∉ b.paused → f = .clean ∨ k.val * 2 ^ 30 + lineOfRow x.1 (b.logicalRow x.1 row) x.2.2 ∈ s.dev.poison →
      Runs (.patrolScrub k f) s (s.dev.modBay k.val fun b => { b with scrubNext := (b.scrubNext + 1) % 1000000000 })))

/-- The inbound regulator (R207, R208) and the far tier (R223). -/
def Obligations.TokensAndFarTier : Prop :=
  (∀ (k : Fin 8) (s : State) (w : TokenWait), (s.dev.bay k.val).nextWait = some w →
    ((s.dev.tokensNow k.val).lt (Q.ofNat 64) = true → Runs (.inboundTokenGrant k) s s.dev) ∧
    ((s.dev.tokensNow k.val).lt (Q.ofNat 64) = false → ∃ d, Runs (.inboundTokenGrant k) s d ∧ (d.bay k.val).lastServed = w.src ∧
      (d.bay k.val).tokens = (s.dev.tokensNow k.val).sub (Q.ofNat 64) ∧
      (w.lines ≤ 1 → (d.bay k.val).waits = (s.dev.bay k.val).waits.erase w) ∧
      (1 < w.lines → (d.bay k.val).waits = (s.dev.bay k.val).waits.map fun x => if x = w then { x with lines := x.lines - 1 } else x))) ∧
  (∀ (b : Bay) (w : TokenWait), b.nextWait = some w → w ∈ b.waits ∧
    ∀ i, i < 8 → (∃ x, x ∈ b.waits ∧ x.src = (b.lastServed + 1 + i) % 8) → ∃ j, j ≤ i ∧ w.src = (b.lastServed + 1 + j) % 8) ∧
  (∀ (p : Fin 2) (tag : Nat) (s : State) (c : Cmd), s.dev.cmd tag = some c → c.running = true → c.usesPort s.dev p.val = true →
    ∃ d x, Runs (.farTierTimeout p tag) s d ∧ d.cmd tag = some x ∧ x.failure = some ⟨csFarTier, 0, 0xFF⟩) ∧
  (∀ (p : Fin 2) (s : State), s.dev.farState[p.val]?.getD 0 = 1 →
    ∃ d, Runs (.farTierLinkDown p) s d ∧ d.farState[p.val]?.getD 0 = 2 ∧
      ∀ c, c ∈ s.dev.cmds → s.dev.cmd c.tag = some c → c.usesPort s.dev p.val = true → ∃ x, d.cmd c.tag = some x ∧ x.failure.isSome = true)

/-- The receiver of fabric frames (R266 to R268). -/
def Obligations.FramesAreTakenInOrder : Prop :=
  (∀ (k : Fin 8) (c : Instr) (ty : Nat) (r : RxFrame) (s : State),
    (c, ty) ∈ [(Instr.dataFrameReceive k ⟨r, []⟩, ftData), (.ackReceive k r, ftAck), (.nakReceive k r, ftNak), (.creditGrantReceive k r, ftGrant), (.helloReceive k r, ftHello), (.abortReceive k r, ftAbort)] →
    (s.dev.port k.val).state = 2 ∨ (s.dev.port k.val).state = 3 →
    (r.fcsOk = false ∨ r.udpOk = false ∨ r.portOk = false ∨ r.plain = false ∨ trailerBad r.bytes = true → Runs c s (s.dev.count 0x806003 1)) ∧
    (∀ f, r.fcsOk = true → r.udpOk = true → r.portOk = true → r.plain = true → parseFrame r.bytes = some f →
      (r.hop ≠ 1 ∨ f.dst ≠ (if ty = ftHello then 0xFF else (s.dev.port k.val).devNum)) → Runs c s s.dev)) ∧
  (∀ (k : Fin 8) (r : RxFrame) (f : Frame) (s : State), FrameArrives s.dev k.val ftData r f →
    let d := s.dev
    let x := (d.port k.val).peer f.src
    let dist := signed 32 (f.seq + 2 ^ 32 - x.expect)
    (dist = 0 → 0 < (d.port k.val).lossFree →
      ∃ d1 : Device, Runs (.dataFrameReceive k ⟨r, []⟩) s (((d1.consume k.val).ack k.val f.src).grantOwed k.val) ∧
        ((d1.port k.val).peer f.src) = { x with expect := (x.expect + 1) % 2 ^ 32 } ∧ (d1.port k.val).lossFree = (d.port k.val).lossFree - 1 ∧
        (d1.port k.val).held = (d.port k.val).held ++ [f]) ∧
    (dist = 0 → (d.port k.val).lossFree = 0 → Runs (.dataFrameReceive k ⟨r, []⟩) s d) ∧
    (dist < 0 → Runs (.dataFrameReceive k ⟨r, []⟩) s ((d.count 0x806003 1).ack k.val f.src)) ∧
    (0 < dist → x.nakRecent d.now = false →
      Runs (.dataFrameReceive k ⟨r, []⟩) s (((d.modPort k.val fun p => p.setPeer f.src { p.peer f.src with lastNak := some d.now }).send k.val { d.frame k.val ftNak f.src with ackSeq := x.expect }).count 0x806004 1)) ∧
    (0 < dist → x.nakRecent d.now = true → Runs (.dataFrameReceive k ⟨r, []⟩) s d))

/-- The sender of fabric frames (R267, R268). How a credit field holds credits of both kinds is the model's reading, notes/assumptions/18. -/
def Obligations.UnacknowledgedFramesAreResent : Prop :=
  (∀ (k : Fin 8) (r : RxFrame) (f : Frame) (s : State), FrameArrives s.dev k.val ftAck r f →
    ∃ (d1 : Device) (x : Peer), Runs (.ackReceive k r) s ((d1.pump k.val).grantOwed k.val) ∧ (d1.port k.val).peer f.src = x ∧
      x.kept = ((s.dev.port k.val).peer f.src).kept.filter (fun y => !(seqLe y.frame.seq f.ackSeq)) ∧
      x.credits = min 512 (((s.dev.port k.val).peer f.src).credits + lossOf f.credits) ∧
      x.ctrlCredits = min 128 (((s.dev.port k.val).peer f.src).ctrlCredits + ctrlOf f.credits)) ∧
  (∀ (k : Fin 8) (r : RxFrame) (f : Frame) (s : State), FrameArrives s.dev k.val ftGrant r f →
    (f.opId < 2 ^ 31 → ∃ d1 : Device, Runs (.creditGrantReceive k r) s ((d1.pump k.val).grantOwed k.val) ∧
      ((d1.port k.val).peer f.src).credits = min 512 (((s.dev.port k.val).peer f.src).credits + lossOf f.credits) ∧
      ((d1.port k.val).peer f.src).ctrlCredits = min 128 (((s.dev.port k.val).peer f.src).ctrlCredits + ctrlOf f.credits)) ∧
    (2 ^ 31 ≤ f.opId → f.opId - 2 ^ 31 < 256 → s.dev.streamObj (f.opId - 2 ^ 31) 2 = 1 → s.dev.streamObj (f.opId - 2 ^ 31) 1 = f.src →
      ∃ d1 : Device, Runs (.creditGrantReceive k r) s d1 ∧ (d1.stream (f.opId - 2 ^ 31)).sendCredit = (s.dev.stream (f.opId - 2 ^ 31)).sendCredit + f.credits)) ∧
  (∀ (k : Fin 8) (r : RxFrame) (f : Frame) (s : State) (d : Device), s.dev.receive k.val ftNak r = (d, some f) →
    Runs (.nakReceive k r) s ((d.resend k.val f.src f.ackSeq).grantOwed k.val)) ∧
  (∀ (k : Fin 8) (dst : Fin 64) (s : State) (y : Kept) (ys : List Kept), ((s.dev.port k.val).peer dst.val).kept = y :: ys →
    (s.dev.now < y.sentAt + (s.dev.port k.val).retryNs → Runs (.retryTimeout k dst) s s.dev) ∧
    (y.sentAt + (s.dev.port k.val).retryNs ≤ s.dev.now → Runs (.retryTimeout k dst) s (s.dev.resend k.val dst.val y.frame.seq))) ∧
  (∀ (d : Device) (k : Fin 8) (dst seq : Nat), (d.port k.val).state = 2 → (d.port k.val).paused d.now (d.port k.val).lossPrio = false →
    let again := ((d.port k.val).peer dst).kept.filter fun y => seqLe seq y.frame.seq
    again ≠ [] →
    ((∀ y, y ∈ again → y.sends < 5) →
      (d.resend k.val dst seq).counter 0x806002 = stopAdd 64 (d.counter 0x806002) again.length ∧
      (((d.resend k.val dst seq).port k.val).peer dst).kept.map (·.frame) = ((d.port k.val).peer dst).kept.map (·.frame)) ∧
    ((∃ y, y ∈ again ∧ 5 ≤ y.sends) → d.resend k.val dst seq = d.planeLost k.val dst))

/-- Links, hellos and the layers below (R261, R262, R264, R268, R289 to R291). The link-up count in a hello, when a duplicate state ends and that a link that is down trains again are the model's choices, notes/assumptions/18. -/
def Obligations.LinksAndHellos : Prop :=
  (∀ (k : Fin 8) (s : State), (s.dev.port k.val).state ≤ 1 → s.dev.isReady = true → s.dev.power.powerState = 0 → (s.dev.bay k.val).closed = false →
    let p := s.dev.port k.val
    (p.lossFree + p.held.length = 512 →
      ∃ d, Runs (.fabricLinkUp k) s d ∧ (d.port k.val).state = 2 ∧ (d.port k.val).tokensFree = 16 ∧ (d.port k.val).held = p.held ∧ (d.port k.val).lossFree = p.lossFree ∧
        (∀ dev, (∀ f ∈ p.held, f.src ≠ dev) → (d.port k.val).peer dev = Peer.fresh) ∧ (d.port k.val).ups = p.ups + 1 ∧
        (d.port k.val).devNum = s.dev.setting 0x600001 ∧ (d.port k.val).lossPrio = s.dev.setting 0x600003 ∧ (d.port k.val).retryNs = s.dev.setting 0x600005 ∧
        (d.port k.val).helloAt = s.dev.now ∧ ∃ x, (d.port k.val).sent = x :: p.sent ∧ x.frame.type = ftHello ∧ x.dstMac = 0xFFFFFFFFFFFF ∧ x.hop = 1) ∧
    (p.lossFree + p.held.length ≠ 512 → (s.dev.bay k.val).nesting = 0 → ∃ d, Runs (.fabricLinkUp k) s d ∧ (d.bay k.val).state = .reset)) ∧
  (∀ (k : Fin 8) (s : State), (s.dev.port k.val).state = 2 ∨ (s.dev.port k.val).state = 3 →
    ∃ d, Runs (.fabricLinkDown k) s d ∧ (d.port k.val).state = 1 ∧ (d.port k.val).peers = [] ∧
      (d.port k.val).queue = [] ∧ (d.port k.val).held = (s.dev.port k.val).held ∧ (d.port k.val).tokens = [] ∧ (d.port k.val).tokensFree = 16) ∧
  (∀ (k : Fin 8) (r : RxFrame) (f : Frame) (s : State), FrameArrives s.dev k.val ftHello r f →
    let p := s.dev.port k.val
    let x := p.peer f.src
    (f.src = p.devNum → r.srcMac ≠ fabricMacOf k.val p.devNum → ∃ e, Runs (.helloReceive k r) s e ∧ (e.port k.val).state = 3 ∧ (e.port k.val).dupMac = r.srcMac) ∧
    (f.src ≠ p.devNum → silent s.dev.now x.lastHello = false → (x.ups = none ∨ x.ups = some f.step) →
      Runs (.helloReceive k r) s (s.dev.modPort k.val fun p => p.setPeer f.src { x with lastHello := some s.dev.now, ups := some f.step })) ∧
    (f.src ≠ p.devNum → (silent s.dev.now x.lastHello = true ∨ ∃ n, x.ups = some n ∧ n ≠ f.step) →
      Runs (.helloReceive k r) s (s.dev.restartPeer k.val f.src f.step))) ∧
  (∀ (k : Fin 8) (src : Fin 64) (s : State), (s.dev.port k.val).state = 3 → src.val = (s.dev.port k.val).devNum → (s.dev.port k.val).dupAt + 1000000000 < s.dev.now →
    Runs (.helloSilenceTimeout k src) s (s.dev.modPort k.val fun p => { p with state := 2 })) ∧
  (∀ (k : Fin 8) (s : State), s.dev.now < (s.dev.port k.val).helloAt + 100000000 → Runs (.helloTimer k) s s.dev) ∧
  (∀ (k : Fin 8) (s : State), (s.dev.port k.val).state = 2 ∨ (s.dev.port k.val).state = 3 → (s.dev.port k.val).helloAt + 100000000 ≤ s.dev.now →
    Runs (.helloTimer k) s ((((s.dev.modPort k.val fun p => { p with helloAt := s.dev.now }).hello k.val).pump k.val).returnCredits k.val true)) ∧
  (∀ (k : Fin 8) (a : BitVec 128) (s : State), (s.dev.port k.val).state = 2 →
    (a = fabricIp (s.dev.port k.val).sysTop k.val (s.dev.port k.val).devNum → Runs (.neighborSolicitation k a) s (s.dev.modPort k.val fun p => { p with adverts := a :: p.adverts })) ∧
    (a ≠ fabricIp (s.dev.port k.val).sysTop k.val (s.dev.port k.val).devNum → Runs (.neighborSolicitation k a) s s.dev)) ∧
  (∀ (k : Fin 8) (m : Byte) (ns : List Nat) (s : State), (s.dev.port k.val).state = 2 →
    ∃ d1 ps, Runs (.pfcFrameReceive k m ns) s (d1.pump k.val) ∧ d1 = (s.dev.modPort k.val fun p => { p with pausedUntil := ps }) ∧
      ∀ i, i < (s.dev.port k.val).pausedUntil.length →
        ps[i]? = if m.toNat.testBit i = true then some (s.dev.now + ns.getD i 0) else (s.dev.port k.val).pausedUntil[i]?)

/-- Chain steps and stage messages (R274 to R276, R285, R286), and what ends their commands (R289). CHAIN_STEP_START first takes the frames and steps that wait at the port, which leaves the block as `d`. -/
def Obligations.ChainStepsUseTokens : Prop :=
  (∀ (k : Fin 8) (tag key : Nat) (s : State) (c : Cmd) (w : CollWork), s.dev.pauses = false →
    let d := ((s.dev.consume k.val).advanceAll k.val).grantOwed k.val
    d.cmd tag = some c → c.coll = some w → c.failure = none → d.mayRun c = true → d.power.powerState = 0 → d.struck tag = false →
    let x := c.collOf d
    let t := d.stepAsk k.val c w key (x.sendRanges d (c.win d) w key)
    (opcodeOf c.entry = 0x30 → 1 < x.ms.length → x.tableFault d = none → ∀ dst, x.dest key = some dst → x.due d c w k.val key = true →
      d.planeFor w.planes (x.stepNo key) dst (w.step key).moved = some k.val →
      (d.portTurn c k.val = false → Runs (.chainStepStart k tag ⟨key, []⟩) s d) ∧
      (d.portTurn c k.val = true → t.2 = false → Runs (.chainStepStart k tag ⟨key, []⟩) s t.1) ∧
      (d.portTurn c k.val = true → t.2 = true → ∀ d1 c1 w1 ps,
        (if x.formsFirst w key = true then formReduce t.1 c w x k.val key else .ok (t.1, c, w)) = .ok (d1, c1, w1) →
        x.offer d1 c1 w1 k.val key = .ok (some ps) →
        ∃ e first base, Runs (.chainStepStart k tag ⟨key, []⟩) s e ∧ e = (d1.modCmd tag fun _ => c1).sendStep k.val c1 w1 key dst first base ps ∧
          base.step = x.stepNo key ∧ base.content = x.code ∧ base.flags = (w1.step key).flags ∧ base.digest = groupDigest x.ms ∧
          (e.port k.val).hasToken c1.tag key true = true ∧ (e.port k.val).tokensFree = (d1.port k.val).tokensFree - 1)) ∧
    (opcodeOf c.entry = 0x31 → d.sendTurn c w = true → d.planeFor w.planes c.message (c.stagePeer d) (w.step c.message).moved = some k.val →
      d.portTurn c k.val = true →
      let u := d.stepAsk k.val c w c.message (stageRanges d c)
      (u.2 = false → Runs (.chainStepStart k tag ⟨key, []⟩) s u.1) ∧
      (u.2 = true → ∀ ps, stageParts u.1 c k.val = .ok ps →
        ∃ e, Runs (.chainStepStart k tag ⟨key, []⟩) s e ∧
          e = u.1.sendStep k.val c w c.message (c.stagePeer d) c.message { d.frame k.val ftData 0 with step := c.message, content := fmtNone } ps ∧
          (e.port k.val).hasToken c.tag c.message true = true ∧ (e.port k.val).tokensFree = (u.1.port k.val).tokensFree - 1)) ∧
    (opcodeOf c.entry = 0x32 → w.next = 0 → d.recvFirst c true = true →
      ∃ e, Runs (.chainStepStart k tag ⟨key, []⟩) s e ∧ e.cmd tag = some { c with coll := some { w with next := 1 }, progressAt := d.now } ∧
        (e.stream c.stream).released = ((d.stream c.stream).release ((d.stream c.stream).claimed - (d.stream c.stream).released + 1) (ent c.entry 0x22 2)).released)) ∧
  (∀ (k : Fin 8) (tag key : Nat) (s : State) (c : Cmd) (w : CollWork), s.dev.cmd tag = some c → c.coll = some w →
    ((s.dev.port k.val).hasToken tag key true = true → s.dev.stepOpen k.val c key = false →
      ∃ d, Runs (.chainStepEnd k tag key) s d ∧ (d.port k.val).tokensFree = (s.dev.port k.val).tokensFree + 1 ∧
        d.cmd tag = some { c with coll := some (w.put key { w.step key with ended := true }), progressAt := s.dev.now }) ∧
    ((s.dev.port k.val).hasToken tag key true = false → (s.dev.port k.val).hasToken tag key false = true → (w.step key).written = true →
      ∃ d, Runs (.chainStepEnd k tag key) s d ∧ (d.port k.val).tokensFree = (s.dev.port k.val).tokensFree + 1 ∧ d.cmds = s.dev.cmds) ∧
    (s.dev.stepOpen k.val c key = true → (s.dev.port k.val).hasToken tag key false = false → Runs (.chainStepEnd k tag key) s s.dev)) ∧
  (∀ (tag : Nat) (s : State) (c : Cmd), s.dev.cmd tag = some c →
    (s.dev.awaitsPartner c = false ∨ s.dev.now < c.progressAt + c.allowanceNs s.dev + 1000000 → Runs (.partnerTimeout tag) s s.dev) ∧
    (s.dev.awaitsPartner c = true → c.progressAt + c.allowanceNs s.dev + 1000000 ≤ s.dev.now →
      ∃ d x, Runs (.partnerTimeout tag) s d ∧ d.cmd tag = some x ∧ x.failure = some ⟨csFabric, 0, 0xFF⟩)) ∧
  (∀ (k : Fin 8) (r : RxFrame) (f : Frame) (s : State) (c : Cmd), FrameArrives s.dev k.val ftAbort r f → s.dev.cmd c.tag = some c →
    let n := f.opId - 2 ^ 31
    let mine := 2 ^ 31 ≤ f.opId ∧ n < 256 ∧ s.dev.streamReceives n = true ∧ s.dev.streamObj n 1 = f.src
    (¬ mine → s.dev.opCmd f.opId f.step = some c →
      ∃ e x, Runs (.abortReceive k r) s e ∧ e.cmd c.tag = some x ∧ x.failure = some ⟨csFabric, 0, k.val⟩) ∧
    (mine → (s.dev.stream n).claimed ≤ f.step → ((s.dev.stream n).of f.step).whole = false → ((s.dev.stream n).of f.step).void = 0 →
      s.dev.receiverOf n f.step = some c → s.dev.mayRun c = true →
      ∃ e x, Runs (.abortReceive k r) s e ∧ e.cmd c.tag = some x ∧ x.failure = some ⟨csFabric, 0, 0xFF⟩))

/-- R249: what a change of the published floor leaves alone. -/
def Obligations.PlansKeepPromises : Prop :=
  ∀ (w : Nat) (s : State), (s.dev.isReady = true ∨ s.dev.power.phase = .tested) →
    ∃ d f, Runs (.plan w) s d ∧ d.pace.planned = f ∧ d.pace.published = s.dev.publishedOf f ∧ d.pace.lastPlan = s.dev.now ∧ d.power.planned = true ∧
      d.cmds = s.dev.cmds ∧ d.ioBacklog = s.dev.ioBacklog ∧ d.curSet = s.dev.curSet ∧
      ∀ k, k < 8 → (d.bay k).tileBacklog = (s.dev.bay k).tileBacklog ∧ (d.bay k).memBacklog = (s.dev.bay k).memBacklog ∧ (d.bay k).urgentBacklog = (s.dev.bay k).urgentBacklog

/-- The pacer's ceilings (R373, R379, R381). -/
def Obligations.CeilingsKeepTheFloor : Prop :=
  (∀ (w : WindowSample) (s : State), s.dev.isReady = true → s.dev.pace.windowAt + 2000 ≤ s.dev.now →
    ∃ d, Runs (.paceWindowEnd w) s d ∧ d.pace.windowAt = s.dev.now ∧ d.pace.hottest = w.hottest ∧ d.cmds = s.dev.cmds ∧ d.mem = s.dev.mem ∧
      (w.hottest < 1000 → s.dev.pace.thermalCeiling = none → s.dev.protectedFloor ≤ d.pace.ceiling) ∧ (1100 ≤ w.hottest → d.pace.ceiling = 0)) ∧
  (∀ (w : WindowSample) (s : State), s.dev.now < s.dev.pace.windowAt + 2000 → Runs (.paceWindowEnd w) s s.dev) ∧
  (∀ (t : Int) (s : State), s.dev.isReady = true → s.dev.pace.hottest < t → s.dev.pace.thermalAt + 10000 ≤ s.dev.now →
    (1000 ≤ t → t < 1050 → ∃ d c, Runs (.thermalCeilingStep t) s d ∧ d.pace.thermalCeiling = some c ∧ s.dev.protectedFloor ≤ c ∧ d.pace.ceiling ≤ s.dev.pace.ceiling ∧ d.pace.hottest = t) ∧
    (1050 ≤ t → t < 1100 → ∃ d c, Runs (.thermalCeilingStep t) s d ∧ d.pace.thermalCeiling = some c ∧ 400 ≤ c ∧ d.pace.ceiling ≤ s.dev.pace.ceiling ∧ d.pace.hottest = t))

/-- Flicker holds (R376), the setpoint (R386), gauges (R336, R382) and the inlet (R320, R453). -/
def Obligations.PacerSensorsAndHolds : Prop :=
  (∀ (k : Fin 8) (s : State), s.dev.power.pwrgd = true → (s.dev.bay k.val).holdSince = none →
    ∃ d, Runs (.flickerHold (.bay k)) s d ∧ (d.bay k.val).holdSince = some s.dev.now ∧ d.counter 0x803001 = stopAdd 64 (s.dev.counter 0x803001) 1 ∧ d.cmds = s.dev.cmds) ∧
  (∀ (k : Fin 8) (s : State) (t : Nat), (s.dev.bay k.val).holdSince = some t →
    (s.dev.now < t + 2000 → Runs (.flickerHoldEnd (.bay k) false) s s.dev) ∧
    (s.dev.now < t + 2000 → Runs (.flickerHoldEnd (.bay k) true) s (s.dev.modBay k.val fun b => { b with holdSince := none })) ∧
    (t + 2000 ≤ s.dev.now → ∀ r, ∃ d, Runs (.flickerHoldEnd (.bay k) r) s d ∧ (d.bay k.val).holdSince = none ∧
      (d.bay k.val).ceilCut = some (max (s.dev.pace.ceiling * 9 / 10) s.dev.protectedFloor, s.dev.now + 1000000) ∧ d.counter 0x803002 = stopAdd 64 (s.dev.counter 0x803002) 1)) ∧
  (∀ s : State, (s.dev.now < s.dev.pace.stepAt + 100000 → Runs .setpointStep s s.dev) ∧
    (s.dev.pace.stepAt + 100000 ≤ s.dev.now → s.dev.power.pwrgd = true → s.dev.pace.setpoint < s.dev.pace.target →
      Runs .setpointStep s (s.dev.withPace fun p => { p with setpoint := p.setpoint + 5, stepAt := s.dev.now }))) ∧
  (∀ (t : Int) (s : State), s.dev.power.pwrgd = true → ∃ d, Runs (.inletSensorRead t) s d ∧ d.pace.inlet = t ∧ d.pace.inletHist = (t :: s.dev.pace.inletHist).take 10 ∧
    d.pace.coolClass = classOfInlet d.pace.inletHist.sum d.pace.inletHist.length) ∧
  (∀ (k : Fin 8) (p : Fin 1344) (g1 g2 : Nat) (t : Int) (s : State), s.dev.power.pwrgd = true → p.val ∉ (s.dev.bay k.val).retired →
    let n := gaugeNum (.tile k p)
    ∃ d x, Runs (.gaugeMeasurement (.tile k p) g1 g2 t) s d ∧ d.gauge n = some x ∧ x.gn = s.dev.normalise g2 t ∧ x.at' = s.dev.now ∧
      (s.dev.baseline n = 0 → d.baseline n = s.dev.normalise g2 t) ∧ (s.dev.baseline n ≠ 0 → d.baseline n = s.dev.baseline n) ∧
      (∀ y, s.dev.gauge n = some y → y.implausible = true → x.implausible = true))

/-- Start-up (R421, R426 to R429, R447). Before MASK_ROM_BOOT no image runs, which the first conjunct of its hypothesis says. -/
def Obligations.StartUpStepsInOrder : Prop :=
  (∀ s : State, (s.dev.power.phase = .off → s.dev.power.ovLock = false → Runs .inputRise s (s.dev.withPower fun p => { p with phase := .powering })) ∧
    (s.dev.power.phase ≠ .off ∨ s.dev.power.ovLock = true → Runs .inputRise s s.dev)) ∧
  (∀ s : State, (s.dev.power.phase = .powering → Runs .powerGood s (s.dev.withPower fun p => { p with phase := .regulated, pwrgd := true })) ∧
    (s.dev.power.phase ≠ .powering → Runs .powerGood s s.dev)) ∧
  (∀ (m : BitVec 6) (s : State), (s.dev.images.present.testBit 0 = false → s.dev.power.phase = .regulated → s.dev.power.bcLow = false →
      ∃ d, Runs (.maskRomBoot m) s d ∧ d.power.straps = m ∧ d.dict.vals = s.dev.flash.persisted ∧ d.mem = s.dev.mem ∧
        ((d.power.phase = .service ∧ d.images.present.testBit 0 = true) ∨
         (d.power.phase = .romRecovery ∧ d.images.present.testBit 0 = false ∧ d.images.cause = 6))) ∧
    (s.dev.power.phase ≠ .regulated ∨ s.dev.power.bcLow = true → Runs (.maskRomBoot m) s s.dev)) ∧
  (∀ s : State, (s.dev.power.phase = .service →
      ∃ d, Runs .imageVerify s d ∧ ((d.images.cause = 0 ∧ d.power.phase = .verified ∧ d.power.cxlRun = true) ∨
        (1 ≤ d.images.cause ∧ d.images.cause ≤ 5 ∧ d.power.phase = .restricted ∧ d.power.cxlRun = false))) ∧
    (s.dev.power.phase ≠ .service → Runs .imageVerify s s.dev)) ∧
  (∀ (m : Byte) (s : State), (s.dev.power.phase = .verified → ∃ d, Runs (.hbmTrainingEnd m) s d ∧ d.power.phase = .trained ∧
      ∀ k, k < 8 → (m.toNat.testBit k = false → (d.bay k).state = .out) ∧ (m.toNat.testBit k = true → (d.bay k).state = (s.dev.bay k).state)) ∧
    (s.dev.power.phase ≠ .verified → Runs (.hbmTrainingEnd m) s s.dev)) ∧
  (∀ s : State, (s.dev.power.phase = .trained → s.dev.images.cause = 0 → s.dev.fullTest = false →
      Runs (.selfTestEnd ⟨[], [], [], []⟩) s (s.dev.withPower fun p => { p with phase := .tested, rung4 := false })) ∧
    (∀ r, s.dev.power.phase ≠ .trained → s.dev.power.phase ≠ .resetting → Runs (.selfTestEnd r) s s.dev)) ∧
  (∀ s : State, (s.dev.mayBeReady = true → s.dev.images.cause = 0 → ∃ d, Runs .ready s d ∧ d.power.phase = .ready ∧
      ∀ k, k < 8 → BayEntered (s.dev.bay k) (d.bay k)) ∧
    (s.dev.mayBeReady = false → Runs .ready s s.dev))

/-- Power loss and the board controller's reset (R447, R450, R453); what stays is what serial flash and fuses hold (R342, R392). -/
def Obligations.PowerLossLeavesPowerOn : Prop :=
  (∀ (c : Instr) (s : State),
    (s.dev.power.phase ≠ .off ∧ (c = .undervoltageOff ∨ c = .overvoltageOff ∨ ∃ j i, c = .thermalTrip j i ∧ (1200 ≤ j ∨ 600 < i))) ∨
      (s.dev.power.pwrgd = true ∧ ∃ n, c = .bcReset n ∧ 1000000 ≤ n) →
    ∃ d, Runs c s d ∧ PoweredDown s.dev d ∧
      ((∃ n, c = .bcReset n) → d.power.phase = .regulated ∧ d.power.pwrgd = true ∧ d.power.bcLow = true ∧ d.now = s.dev.now) ∧
      ((∀ n, c ≠ .bcReset n) → d.power.phase = .off ∧ d.power.pwrgd = false ∧ d.now = 0 ∧ d.flash.ageNs = s.dev.flash.ageNs + s.dev.now ∧
        (d.power.ovLock = true ↔ c = .overvoltageOff))) ∧
  (∀ (j i : Int) (s : State), j < 1200 → i ≤ 600 → Runs (.thermalTrip j i) s s.dev) ∧
  (∀ (j i : Int) (s : State), s.dev.power.phase = .off → Runs .undervoltageOff s s.dev ∧ Runs .overvoltageOff s s.dev ∧ Runs (.thermalTrip j i) s s.dev) ∧
  (∀ (n : Nat) (s : State), n < 100000 → Runs (.bcReset n) s s.dev) ∧
  (∀ s : State, Runs .bcRstDeassert s (s.dev.withPower fun p => { p with bcLow := false })) ∧
  (∀ s : State, Runs .inputFallsBelow10V s (s.dev.withPower fun p => { p with ovLock := false }))

/-- Configuration requests (R424), the masks of MSI-X that the host writes (R228), and PCIe link events (R403, R435); rung 3 is the one of R357. -/
def Obligations.LinkEventsAndHostResets : Prop :=
  (∀ s : State, s.dev.power.linkUp = true → Runs .configRequest s (s.dev.withOut fun o => { o with config := (!s.dev.isReady) :: o.config })) ∧
  (∀ s : State, s.dev.power.linkUp = false → Runs .configRequest s s.dev) ∧
  (∀ (m : MsixWrite) (s : State), s.dev.power.linkUp = true → s.dev.isReady = true →
    ∃ d, Runs (.dictArgDataWrite (.msix m)) s d ∧ d = { s.dev with out := d.out } ∧ d.out.config = s.dev.out.config ∧
      (∀ en all, m = .control en all → d.out.msixOn = en ∧ d.out.msixMaskAll = all ∧ d.out.msixMasked = s.dev.out.msixMasked) ∧
      (∀ v mk, m = .entry v mk → (v.val ∈ d.out.msixMasked ↔ mk = true) ∧ ∀ u, u ≠ v.val → (u ∈ d.out.msixMasked ↔ u ∈ s.dev.out.msixMasked)) ∧
      (∀ v, v < 67 → v ∈ s.dev.out.msixPending →
        (d.out.msixOpen v = true → v ∈ d.out.msix ∧ v ∉ d.out.msixPending) ∧ (d.out.msixOpen v = false → v ∈ d.out.msixPending))) ∧
  (∀ (m : MsixWrite) (s : State), s.dev.power.linkUp = false ∨ s.dev.isReady = false → Runs (.dictArgDataWrite (.msix m)) s s.dev) ∧
  (∀ s : State, ∃ d, Runs .pcieLinkDown s d ∧ d.power.linkUp = false ∧ d.dict.owner = (if s.dev.dict.owner = 1 then 0 else s.dev.dict.owner) ∧ d.cmds = s.dev.cmds ∧ d.mem = s.dev.mem) ∧
  (∀ s : State, ∃ d, Runs .perstAssert s d ∧ d.power.perstLow = true ∧ d.power.linkUp = false ∧ d.power.wakeLow = false ∧
    (s.dev.isReady = true → RungThree d) ∧ (s.dev.isReady = false → s.dev.safety.devHandling < 2 → d.power.phase = s.dev.power.phase ∧ d.cmds = s.dev.cmds)) ∧
  (∀ (c : Instr) (s : State), c = .hotReset ∨ c = .functionLevelReset → s.dev.isReady = true → s.dev.power.linkUp = true →
    ∃ d, Runs c s d ∧ RungThree d ∧ d.power.linkUp = true) ∧
  (∀ (c : Instr) (s : State), c = .hotReset ∨ c = .functionLevelReset → s.dev.power.linkUp = false → Runs c s s.dev) ∧
  (∀ s : State, ∃ d, Runs .perstDeassert s d ∧ d.power.perstLow = false ∧ (s.dev.images.present.testBit 2 = true → s.dev.isReady = true → d.power.linkUp = true) ∧
    (s.dev.power.phase = .service → d.power.linkUp = s.dev.power.linkUp) ∧ d.cmds = s.dev.cmds ∧ d.mem = s.dev.mem)

/-- The banked state (R436 to R438) and wakes (R440, R441; a message of a masked vector stays pending by R228). That the fabric ports train on the way out is the model's choice, notes/assumptions/39. -/
def Obligations.BankedStateAndWakes : Prop :=
  (∀ s : State, s.dev.isReady = true → s.dev.power.linkUp = true → s.dev.power.powerState = 0 →
    ∃ d, Runs .d3hotEntry s d ∧ d.power.powerState = 1 ∧ ∀ q : Fin 64, (d.queue q.val).state ≠ 1 ∧ (d.queue q.val).state ≠ 2) ∧
  (∀ s : State, s.dev.power.powerState = 1 → ∃ d, Runs .bankedEntryEnd s d ∧ d.power.powerState = 2 ∧ d.cmds = [] ∧ d.safety.beacon = ⟨none, [], []⟩) ∧
  (∀ s : State, s.dev.power.powerState ≠ 1 → Runs .bankedEntryEnd s s.dev) ∧
  (∀ s : State, s.dev.isReady = true → s.dev.power.powerState = 1 ∨ s.dev.power.powerState = 2 →
    Runs .d0Entry s (s.dev.withPower fun p => { p with powerState := 3, l23 := false })) ∧
  (∀ s : State, s.dev.power.powerState = 3 → let v := s.dev.setting 0x304005
    let n := (List.range 8).countP fun i => s.dev.power.wakeVec.toNat.testBit i
    ∃ d, Runs .bankedExitEnd s d ∧ d.power = { s.dev.power with powerState := 0, wakeDue := false, wakeVec := 0 } ∧
    d.out.msix = (if v ≤ 66 ∧ s.dev.out.msixOpen v = true then List.replicate n v else []) ++ s.dev.out.msix ∧
    (v ≤ 66 → s.dev.out.msixOpen v = false → 0 < n → v ∈ d.out.msixPending) ∧
    d.ports = s.dev.ports.map (fun p => if p.state = 0 then { p with state := 1 } else p) ∧
    d.cmds = s.dev.cmds ∧ d.bays = s.dev.bays ∧ d.mem = s.dev.mem ∧ d.events = s.dev.events ∧ d.stepCounter = s.dev.stepCounter ∧ d.dict = s.dev.dict ∧ d.pace = s.dev.pace) ∧
  (∀ s : State, s.dev.isReady = true → s.dev.power.linkUp = true → Runs .pmeTurnOff s (s.dev.withPower fun p => { p with l23 := true })) ∧
  (∀ s : State, s.dev.power.wakeDue = true → s.dev.power.powerState = 2 →
    (s.dev.power.l23 = true → Runs .wakeSignal s (s.dev.withPower fun p => { p with wakeDue := false, wakeLow := true })) ∧
    (s.dev.power.l23 = false → Runs .wakeSignal s ((s.dev.withPower fun p => { p with wakeDue := false, pmeStatus := true }).withOut fun o => { o with pme := o.pme + 1 }))) ∧
  (∀ s : State, s.dev.power.wakeDue = false ∨ s.dev.power.powerState ≠ 2 → Runs .wakeSignal s s.dev)

/-- Attestation (R433, R434), with the message layouts of notes/assumptions/28. -/
def Obligations.AttestationAnswersInStages : Prop :=
  (∀ x ∈ [(Instr.getVersion, 0x84, 0), (.getCapabilities, 0xE1, 1), (.negotiateAlgorithms, 0xE3, 2), (.getDigests, 0x81, 3), (.getCertificate, 0x82, 3), (.challenge, 0x83, 3), (.getMeasurements, 0xE0, 3)],
    ∀ (req : List Byte) (s : State),
      (s.dev.doeOpen = false → Runs (x.1 req) s s.dev) ∧
      (s.dev.doeOpen = true → bytesNat req 1 1 = x.2.1 →
        ∃ d m, Runs (x.1 req) s d ∧ d.out.doe = m :: s.dev.out.doe ∧ d.mem = s.dev.mem ∧ d.cmds = s.dev.cmds ∧
          (bytesNat req 0 1 ≠ (if x.2.1 = 0x84 then 0x10 else 0x12) → m = [0x12, 0x7F, 0x41, 0x00] ∧ d.spdmStage = s.dev.spdmStage) ∧
          (bytesNat req 0 1 = (if x.2.1 = 0x84 then 0x10 else 0x12) → s.dev.spdmStage < x.2.2 → m = [0x12, 0x7F, 0x04, 0x00] ∧ d.spdmStage = s.dev.spdmStage) ∧
          (bytesNat req 0 1 = (if x.2.1 = 0x84 then 0x10 else 0x12) → x.2.2 ≤ s.dev.spdmStage →
            d.spdmStage = (if x.2.1 = 0x84 then 1 else if x.2.1 = 0xE1 then max s.dev.spdmStage 2 else if x.2.1 = 0xE3 then max s.dev.spdmStage 3 else s.dev.spdmStage) ∧
            (x.2.1 = 0x81 → m = [0x12, 0x01, 0x00, 0x01] ++ sha384 Config.certificateChain) ∧
            (x.2.1 = 0x83 → bytesNat req 2 1 ≠ 0 ∨ bytesNat req 3 1 ∉ [0, 1, 0xFF] → m = [0x12, 0x7F, 0x01, 0x00]) ∧
            (x.2.1 = 0xE0 → bytesNat req 2 1 % 2 = 1 → bytesNat req 36 1 % 16 ≠ 0 → m = [0x12, 0x7F, 0x01, 0x00]) ∧
            (x.2.1 = 0xE0 → bytesNat req 2 1 % 2 = 0 ∨ bytesNat req 36 1 % 16 = 0 → ∀ i, 1 ≤ i → i ≤ 6 → bytesNat req 3 1 = i → ∃ u v, m = u ++ s.dev.measureBlock i ++ v)))) ∧
  (∀ (i : Byte) (s : State), s.dev.doeOpen = true →
    Runs (.doeDiscovery i) s (s.dev.doe (if i = 0 then [0x01, 0x00, 0x00, 0x01] else if i = 1 then [0x01, 0x00, 0x01, 0x00] else [0xFF, 0xFF, 0x00, 0x00]))) ∧
  (∀ (i : Byte) (s : State), s.dev.doeOpen = false → Runs (.doeDiscovery i) s s.dev)

/-- Brynuo requests (R406 to R412). A READ request's length field, and that a request of no operation of R408 is answered MALFORMED, are read as notes/assumptions/27 says. -/
def Obligations.BrynuoRequestsInSequence : Prop :=
  (∀ x ∈ [Instr.openSession, .closeSession, .keepalive, .read, .write, fun f => .claim (.message f), fun f => .release (.message f), .notificationAck],
    ∀ (f : BrFrame) (s : State), s.dev.listens = true → ((f.linkLocal && f.hop == 255 && f.plain && f.udpOk) = false ∨ parseBr f = none) →
      Runs (x f) s (s.dev.count 0x80B009 1)) ∧
  (∀ x ∈ [Instr.openSession, .closeSession, .keepalive, .read, .write, fun f => .claim (.message f), fun f => .release (.message f), .notificationAck],
    ∀ (f : BrFrame) (m : BrHead) (s : State), Received s.dev f 1 m.op m → requestOps.contains m.op = false → Runs (x f) s (s.dev.reply m dsMalformed)) ∧
  (∀ (f : BrFrame) (m : BrHead) (s : State), Received s.dev f 1 opOpen m → m.clean = true → m.session = 0xFF → m.seq = 0 →
    let gone := fun k => (s.dev.session k).live = true ∧ (s.dev.session k).peer = m.peer
    (∀ k, k < 4 → ((s.dev.session k).live = false ∨ gone k) → (∀ j, j < k → (s.dev.session j).live = true ∧ ¬ gone j) →
      ∃ d, Runs (.openSession f) s d ∧ d.session k = { Session.closed with live := true, peer := m.peer, openedAt := s.dev.now, lastReq := s.dev.now, nonce := Config.nonce s.dev.dict.nonceCount, leaseMs := s.dev.setting 0x120004 } ∧
        d.dict.nonceCount = s.dev.dict.nonceCount + 1 ∧
        d.dict.requests = (s.dev.dict.requests.filter fun q => [0, 1, 2, 3].all fun j => !((s.dev.session j).live && (s.dev.session j).peer == m.peer && pathIsSession j q.path)) ∧
        ∀ j, j < 4 → j ≠ k → (gone j → d.session j = Session.closed) ∧ (¬ gone j → d.session j = s.dev.session j)) ∧
    ((∀ k, k < 4 → (s.dev.session k).live = true ∧ ¬ gone k) → Runs (.openSession f) s (s.dev.reply m dsSessionLimit))) ∧
  (∀ (f : BrFrame) (m : BrHead) (k : Fin 4) (s : State), NextInSession s.dev m k →
    (Received s.dev f 1 opKeepalive m → ∃ d, Runs (.keepalive f) s d ∧ d.session k.val = (s.dev.session k.val).answered s.dev.now m.seq (plainAnswer m dsOk) ∧
      d.out.brynuo = (if s.dev.dict.plcaStopped then s.dev.out.brynuo else (plainAnswer m dsOk).wire :: s.dev.out.brynuo) ∧ d.dict.requests = s.dev.dict.requests) ∧
    (Received s.dev f 1 opClose m → ∃ d, Runs (.closeSession f) s d ∧ d.session k.val = Session.closed ∧
      d.dict.owner = (if s.dev.dict.owner = 0x10 + k.val then 0 else s.dev.dict.owner) ∧ d.dict.requests = s.dev.dict.requests.filter fun q => !(pathIsSession k.val q.path)) ∧
    ∀ x ∈ [(Instr.read f, opRead, false, m.addr, m.off, ([] : List Byte), true), (.write f, opWrite, true, m.addr, m.off, m.payload, m.flags % 2 == 1),
        (.claim (.message f), opClaim, true, 0x110002, 0, [1], true), (.release (.message f), opRelease, true, 0x110002, 0, [0], true)],
      Received s.dev f 1 x.2.1 m → ∃ d, Runs x.1 s d ∧ d.session k.val = (s.dev.session k.val).taken s.dev.now m.seq ∧ d.out = s.dev.out ∧ d.cmds = s.dev.cmds ∧
        d.dict.requests = s.dev.dict.requests ++ [⟨.brynuo k, x.2.1, x.2.2.1, x.2.2.2.1, x.2.2.2.2.1, m.len, x.2.2.2.2.2.1, x.2.2.2.2.2.2, s.dev.now, m.nonce, m.seq⟩]) ∧
  (∀ x ∈ [(Instr.closeSession, opClose), (.keepalive, opKeepalive), (.read, opRead), (.write, opWrite), (fun f => .claim (.message f), opClaim), (fun f => .release (.message f), opRelease)],
    ∀ (f : BrFrame) (m : BrHead) (s : State), Received s.dev f 1 x.2 m → m.clean = true →
      ((s.dev.session m.session).live = false ∨ (s.dev.session m.session).nonce ≠ m.nonce → Runs (x.1 f) s (s.dev.reply m dsNoSession)) ∧
      (∀ k : Fin 4, m.session = k.val → (s.dev.session k.val).live = true → (s.dev.session k.val).nonce = m.nonce →
        (∀ c, m.seq = (s.dev.session k.val).lastSeq → (s.dev.session k.val).cached = some c → ∃ d, Runs (x.1 f) s d ∧ d.counter 0x80B002 = stopAdd 64 (s.dev.counter 0x80B002) 1 ∧
          d.out.brynuo = (if s.dev.dict.plcaStopped then s.dev.out.brynuo else c.wire :: s.dev.out.brynuo) ∧ d.dict.requests = s.dev.dict.requests ∧
          d.session k.val = { s.dev.session k.val with lastReq := s.dev.now }) ∧
        (m.seq ≠ (s.dev.session k.val).lastSeq → m.seq ≠ ((s.dev.session k.val).lastSeq + 1) % 65536 → ∃ d, Runs (x.1 f) s d ∧
          d.session k.val = { s.dev.session k.val with lastReq := s.dev.now } ∧ d.dict.requests = s.dev.dict.requests ∧ d.dict.owner = s.dev.dict.owner))) ∧
  (∀ (f : BrFrame) (m : BrHead) (s : State), Received s.dev f 4 opNotice m →
    ((s.dev.session m.session).live = true → (s.dev.session m.session).nonce = m.nonce →
      Runs (.notificationAck f) s (s.dev.modSession m.session fun x => { x with notices := x.notices.filter fun n => n.seq != m.seq })) ∧
    ((s.dev.session m.session).live = false ∨ (s.dev.session m.session).nonce ≠ m.nonce → Runs (.notificationAck f) s s.dev))

/-- Timers of the dictionary (R409, R411, R412), the management port (R404 to R406) and the summary block (R370). -/
def Obligations.ManagementTimersAndPort : Prop :=
  (∀ (k : Fin 4) (s : State), (s.dev.session k.val).live = true → ∃ d, Runs (.notificationResend k) s d ∧
    d.session k.val = { s.dev.session k.val with notices := (s.dev.session k.val).notices.filterMap fun n => if n.due s.dev.now = false then some n else if n.resends < 3 then some { n with resends := n.resends + 1, lastAt := s.dev.now } else none } ∧
    d.out.brynuo = (if s.dev.dict.mgmtUp && !s.dev.dict.plcaStopped then
      (((s.dev.session k.val).notices.filter fun n => n.due s.dev.now && decide (n.resends < 3)).map fun n => (noticeMsg k.val n.seq (s.dev.session k.val) n.word).wire).reverse else []) ++ s.dev.out.brynuo ∧
    d.dict.requests = s.dev.dict.requests) ∧
  (∀ (k : Fin 4) (s : State), (s.dev.session k.val).live = false → Runs (.notificationResend k) s s.dev ∧ Runs (.sessionLeaseExpiry k) s s.dev) ∧
  (∀ (k : Fin 4) (s : State), (s.dev.session k.val).live = true →
    (s.dev.now < (s.dev.session k.val).lastReq + 1000000 * (s.dev.session k.val).leaseMs → Runs (.sessionLeaseExpiry k) s s.dev) ∧
    ((s.dev.session k.val).lastReq + 1000000 * (s.dev.session k.val).leaseMs ≤ s.dev.now →
      ∃ d, Runs (.sessionLeaseExpiry k) s d ∧ d.session k.val = Session.closed ∧ d.dict.owner = (if s.dev.dict.owner = 0x10 + k.val then 0 else s.dev.dict.owner) ∧
        d.dict.requests = s.dev.dict.requests.filter fun q => !(pathIsSession k.val q.path))) ∧
  (∀ (p : Path) (s : State), (∀ g, (s.dev.path p).seg = some g → s.dev.now < g.lastAt + 1000000000) → Runs (.segmentTimeout p) s s.dev) ∧
  (∀ (p : Path) (g : PendingSeg) (s : State), (s.dev.path p).seg = some g → g.lastAt + 1000000000 ≤ s.dev.now →
    ∃ d, Runs (.segmentTimeout p) s d ∧ d.path p = { s.dev.path p with seg := none } ∧ d.dict.vals = s.dev.dict.vals ∧ d.dict.owner = s.dev.dict.owner) ∧
  (∀ (a : BitVec 128) (s : State),
    (s.dev.dict.mgmtUp = true → s.dev.dict.plcaStopped = false → a = linkLocalOf Config.managementMac.toNat → Runs (.mgmtNeighborSolicitation a) s (s.dev.withOut fun o => { o with mgmtAdverts := a :: o.mgmtAdverts })) ∧
    (a ≠ linkLocalOf Config.managementMac.toNat → Runs (.mgmtNeighborSolicitation a) s s.dev)) ∧
  (∀ s : State, s.dev.dictUp = true → Runs .managementLinkUp s (s.dev.withDict fun x => { x with mgmtUp := true, plcaNode := s.dev.setting 0x120002, plcaTimer := s.dev.setting 0x120003 })) ∧
  (∀ s : State, s.dev.dict.mgmtUp = true → s.dev.dict.plcaStopped = false → ∃ d, Runs .plcaCollision s d ∧
    d.dict.collisions = s.dev.now :: s.dev.dict.collisions.filter (fun t => decide (s.dev.now < t + 1000000000)) ∧
    (d.dict.plcaStopped = true ↔ 15 ≤ (s.dev.dict.collisions.filter fun t => decide (s.dev.now < t + 1000000000)).length)) ∧
  (∀ s : State, s.dev.dictUp = true → s.dev.log.summaryAt + 1000000000 * s.dev.setting 0x900201 ≤ s.dev.now →
    ∃ d, Runs .summaryWrite s d ∧ d.log.summaryAt = s.dev.now ∧ d.log.sinceSummary = [] ∧
      (s.dev.log.sinceSummary = [] → d.flash = s.dev.flash ∧ d.log.summaries = s.dev.log.summaries) ∧
      (s.dev.log.sinceSummary ≠ [] → d.log.summaries = s.dev.log.summaries + 1 ∧ d.flash.summaries = (s.dev.summaryBlock s.dev.log.sinceSummary :: s.dev.flash.summaries).take 4096)) ∧
  (∀ s : State, s.dev.now < s.dev.log.summaryAt + 1000000000 * s.dev.setting 0x900201 → Runs .summaryWrite s s.dev)

/-- The in-band window (R413, R414), the SPI sideband (R415, R416, R419) and the server (R393, R395). -/
def Obligations.RequestsEnterAndAreServed : Prop :=
  (∀ x ∈ [(Instr.dictRead, false), (.dictWrite, true)], ∀ (a : BitVec 24) (s : State), s.dev.hostOpen = true →
    let arg := s.dev.dict.inband.arg.toNat
    let n := field arg 12 0
    (s.dev.dict.inband.busy = true → Runs (x.1 a) s s.dev.overrun) ∧
    (s.dev.dict.inband.busy = false → field arg 14 13 = 0 → n ≤ 4096 → (x.2 = true → n ≠ 0) → ∃ d, Runs (x.1 a) s d ∧ d.dict.inband.busy = true ∧ d.dict.inband.data = s.dev.dict.inband.data ∧
      d.dict.requests = s.dev.dict.requests ++ [⟨.inband, 0, x.2, a.toNat, field arg 31 16, n, if x.2 = true then s.dev.dict.inband.data.read 0 n else [], arg.testBit 15, s.dev.now, 0, 0⟩])) ∧
  (∀ (v : W32) (s : State), s.dev.hostOpen = true →
    (s.dev.dict.inband.busy = false → Runs (.dictArgDataWrite (.arg v)) s (s.dev.withDict fun x => { x with inband := { x.inband with arg := v } })) ∧
    (∀ w, s.dev.dict.inband.busy = true → (∀ m, w ≠ .msix m) → Runs (.dictArgDataWrite w) s s.dev.overrun) ∧
    (∀ (a : BitVec 24), s.dev.dict.inband.busy = false →
      (v.toNat = 0x10 * 2 ^ 24 + a.toNat → exec (.dictArgDataWrite (.cmd v)) s = exec (.dictRead a) s) ∧
      (v.toNat = 0x11 * 2 ^ 24 + a.toNat → exec (.dictArgDataWrite (.cmd v)) s = exec (.dictWrite a) s)) ∧
    (s.dev.dict.inband.busy = false → v.toNat / 2 ^ 24 ≠ 0x10 → v.toNat / 2 ^ 24 ≠ 0x11 →
      ∃ d, Runs (.dictArgDataWrite (.cmd v)) s d ∧ d.dict.inband.busy = false ∧ d.dict.inband.status = dsMalformed ∧ d.dict.requests = s.dev.dict.requests ∧ d.dict.vals = s.dev.dict.vals) ∧
    (∀ o bs, s.dev.dict.inband.busy = false → dataAccessOk o bs = true → Runs (.dictArgDataWrite (.data o bs)) s (s.dev.withDict fun x => { x with inband := { x.inband with data := x.inband.data.write o bs } })) ∧
    (v.toNat.testBit 30 = true → Runs (.dictStatusClear v) s (s.dev.withDict fun x => { x with inband := { x.inband with overrun := false } })) ∧
    (v.toNat.testBit 30 = false → Runs (.dictStatusClear v) s s.dev)) ∧
  (∀ x ∈ [(Instr.write1, 0x02, 9), (.write2, 0x06, 13), (.spiRead, 0x03, 9), (.clearStatus, 0x05, 2)], ∀ (f : SpiFrame) (r : List Byte) (s : State), s.dev.power.pwrgd = true → f.bytes = BitVec.ofNat 8 x.2.1 :: r →
    (f.bytes.length < x.2.2 → ∃ d, Runs (x.1 f) s d ∧ SpiKept s.dev d ∧ d.dict.spi.aborted = true ∧ d.counter 0x80B003 = stopAdd 64 (s.dev.counter 0x80B003) 1) ∧
    (x.2.2 ≤ f.bytes.length → crc8 (f.bytes.take (x.2.2 - 1)) ≠ f.bytes.getD (x.2.2 - 1) 0 →
      ∃ d, Runs (x.1 f) s d ∧ SpiKept s.dev d ∧ d.dict.spi.rejected = true ∧ d.counter 0x80B005 = stopAdd 64 (s.dev.counter 0x80B005) 1)) ∧
  (∀ (f : SpiFrame) (r : List Byte) (s : State), s.dev.power.pwrgd = true → f.bytes = 0x05 :: r → 2 ≤ f.bytes.length → crc8 (f.bytes.take 1) = f.bytes.getD 1 0 →
    ∃ d, Runs (.clearStatus f) s d ∧ SpiKept s.dev d ∧ d.dict.spi.aborted = false ∧ d.dict.spi.rejected = false ∧ d.dict.spi.busyRefused = false) ∧
  (∀ x ∈ [(Instr.write1, 0x02, 9, 4), (.write2, 0x06, 13, 8)], ∀ (f : SpiFrame) (r : List Byte) (s : State), s.dev.power.pwrgd = true → f.bytes = BitVec.ofNat 8 x.2.1 :: r → x.2.2.1 ≤ f.bytes.length →
    crc8 (f.bytes.take (x.2.2.1 - 1)) = f.bytes.getD (x.2.2.1 - 1) 0 → SpiTakes (x.1 f) s ⟨.spi, x.2.1, true, bytesNat f.bytes 1 3, 0, x.2.2.2, slice f.bytes 4 x.2.2.2, true, s.dev.now, 0, 0⟩) ∧
  (∀ (f : SpiFrame) (r : List Byte) (s : State), s.dev.power.pwrgd = true → f.bytes = 0x03 :: r → 9 ≤ f.bytes.length → crc8 (f.bytes.take 8) = f.bytes.getD 8 0 →
    let c := bytesNat f.bytes 4 4
    field c 7 0 = 0 → field c 15 8 ≤ 64 → SpiTakes (.spiRead f) s ⟨.spi, 3, false, bytesNat f.bytes 1 3, field c 31 16, 4 * field c 15 8, [], true, s.dev.now, 0, 0⟩) ∧
  (∀ (f : SpiFrame) (r : List Byte) (s : State), s.dev.power.pwrgd = true → f.bytes = 0x0F :: r →
    ∃ d, Runs (.spiFetch f) s d ∧ SpiKept s.dev d ∧ d.dict.spi = { s.dev.dict.spi with miso := s.dev.spiStatus :: padTo r.length (s.dev.dict.spi.resultBytes.take r.length) }) ∧
  (∀ (c : Instr) (s : State), c = .spiFrameAbort ∨ c = .spiFrameTimeout → s.dev.power.pwrgd = true →
    Runs c s ((s.dev.withSpi fun x => { x with aborted := true }).count 0x80B003 1)) ∧
  (∀ (g : RingRead) (s : State), s.dev.waiting = [] → Runs (.dictionaryService g) s s.dev) ∧
  (∀ (q : DictReq) (s : State), firstReq s.dev.waiting = some q → q.write = true → q.last = true → needsCommit q.addr = true → ((s.dev.takeRequest q).serveForm q).2 = dsOk →
    ∃ d, Runs (.dictionaryService .commitFails) s d ∧ (d.path q.path).result.status = dsFlash ∧ d.dict.vals = s.dev.dict.vals ∧ d.flash = s.dev.flash ∧
      d.dict.requests = s.dev.dict.requests.erase q ∧ d.cmds = s.dev.cmds ∧ d.mem = s.dev.mem ∧ d.bays = s.dev.bays) ∧
  (∀ (g : RingRead) (q : DictReq) (s : State), firstReq s.dev.waiting = some q → q.write = false → q.addr ≠ 0x900102 →
    ∃ d, Runs (.dictionaryService g) s d ∧ d.dict.requests = s.dev.dict.requests.erase q ∧ d.dict.vals = s.dev.dict.vals ∧ d.cmds = s.dev.cmds ∧ d.mem = s.dev.mem ∧ d.bays = s.dev.bays ∧
      (d.path q.path).result = (s.dev.takeRequest q).serveRead q.path q.addr q.off q.len (pathMost q.path) ∧
      (q.path = .inband → d.dict.inband.busy = false ∧ d.dict.inband.status = (d.path .inband).result.status))

/-- The rows of writeRows on pairs (R226, R227), bays (R343, R362), alerts (R344), plans (R388) and wakes (R439), and every refused write (R397). -/
def Obligations.WrittenObjectsAct : Prop :=
  ∀ (p : Path) (s : State),
    (∀ q : Fin 64, Judges s.dev p (pairObj q.val 7) [1] dsOk → (s.dev.queue q.val).state = 0 → Grants (.queuePairEnable p q) s p fun d => d.queue q.val = { QPair.fresh with state := 1 }) ∧
    (∀ q : Fin 64, Judges s.dev p (pairObj q.val 7) [0] dsOk → (s.dev.queue q.val).state = 1 → Grants (.queuePairDisable p q) s p fun d => d.queue q.val = { s.dev.queue q.val with state := 2 }) ∧
    (∀ k : Fin 8, Judges s.dev p (0x400201 + k.val) [1] dsOk → Grants (.bayWithdrawal p k) s p fun d => (d.bay k.val).state = .out) ∧
    (∀ k : Fin 8, Judges s.dev p 0x405001 [BitVec.ofNat 8 k.val] dsOk → (s.dev.bay k.val).state ≠ .out → Grants (.bayReinitRequest p (BitVec.ofNat 8 k.val)) s p fun d => (d.bay k.val).state = .reset) ∧
    (∀ q : Fin 64, Judges s.dev p 0x405002 [BitVec.ofNat 8 q.val] dsOk → Grants (.queuePairReinitRequest p (BitVec.ofNat 8 q.val)) s p fun d => PairReset d q) ∧
    (Judges s.dev p 0x405003 [1] dsOk → Grants (.powerCycleRequest p) s p fun d => d.safety.powerCycle = true) ∧
    (∀ w : W32, Judges s.dev p 0x400002 (leBytes 4 w.toNat) dsOk → Grants (.alertCauseClear p w) s p fun d => ∀ i, 2 ≤ i → i < 32 → d.safety.alert.getLsbD i = (s.dev.safety.alert.getLsbD i && !w.getLsbD i)) ∧
    (Judges s.dev p 0x30300C [1] dsOk → Grants (.planRequest p) s p fun d => d.pace = { s.dev.pace with planDue := true }) ∧
    (Judges s.dev p 0x304002 [1] dsOk → Grants (.wakeRequest p) s p fun d => d.power.wakeReasons.getLsbD 0 = true) ∧
    (∀ v : Byte, Judges s.dev p 0x304003 [v] dsOk → Grants (.wakeReasonClear p v) s p fun d => d.power = { s.dev.power with wakeReasons := s.dev.power.wakeReasons &&& ~~~v }) ∧
    (∀ q k v w a bs, ∀ x ∈ writeRows p q k v w a bs, ∀ st, st ≠ dsOk → Judges s.dev p x.2.1 x.2.2 st → ∃ d, Runs x.1 s d ∧ (d.path p).result.status = st ∧
      d.dict.vals = s.dev.dict.vals ∧ d.dict.owner = s.dev.dict.owner ∧ d.queues = s.dev.queues ∧ d.bays = s.dev.bays ∧ d.cmds = s.dev.cmds ∧ d.mem = s.dev.mem ∧
      d.power = s.dev.power ∧ d.pace = s.dev.pace ∧ d.images = s.dev.images ∧ d.flash = s.dev.flash)

/-- The frame of every command: what `touchedBy` does not list stays as it was, from every state (the rules of spec/95_what_each_step_holds.md by command; R431 for the fuses). -/
def Obligations.StepTouchesOnlyItsParts : Prop :=
  ∀ (c : Instr) (s : State), ∃ d, Runs c s d ∧ Device.Within (touchedBy c) s.dev d

/-- The rows of writeRows on ownership (R402), kept values (R391, R397), defaults (R404) and images (R431, R432), and the end of programming (R432). -/
def Obligations.OwnersValuesAndImages : Prop :=
  ∀ (p : Path) (s : State),
    (Judges s.dev p 0x110002 [1] dsOk → Grants (.claim (.object p)) s p fun d => d.dict.owner = pathCode p) ∧
    (Judges s.dev p 0x110002 [0] dsOk → Grants (.release (.object p)) s p fun d => d.dict.owner = 0) ∧
    (Judges s.dev p 0x110002 [2] dsOk → p = .spi ∧ Grants (.forceClaim p) s p fun d => d.dict.owner = pathCode p ∧ d.counter 0x80B007 = stopAdd 64 (s.dev.counter 0x80B007) 1) ∧
    (∀ (a : BitVec 24) (bs : List Byte), Judges s.dev p a.toNat bs dsOk → s.dev.keeps p a.toNat = true → Grants (.objectWrite p a bs) s p fun d => d.setting a.toNat = leNat bs) ∧
    (Judges s.dev p 0x120007 [1] dsOk → Grants (.restoreDefaults p) s p fun d => ∀ a, accessOf a = .rwp → d.setting a = objDefault s.dev.power.straps.toNat a) ∧
    (∀ v : Byte, Judges s.dev p 0xA00201 [v] dsOk → Grants (.loadTarget p v) s p fun d => d.setting 0xA00201 = v.toNat ∧ d.images = { s.dev.images with loadState := 0, loading := none }) ∧
    (∀ bs, Judges s.dev p 0xA00203 bs dsOk → Grants (.loadData p bs) s p fun d => d.images = { s.dev.images with loadState := 1, loading := some (s.dev.setting 0xA00201, s.dev.setting 0xA00202, bs) } ∧
      (s.dev.setting 0xA00202 = 0 → d.slot (s.dev.setting 0xA00201) = ImageSlot.empty)) ∧
    (Judges s.dev p 0xA00205 [1] dsOk → Grants (.verify p) s p fun d => d.images = { s.dev.images with loadState := 2, loading := none }) ∧
    (Judges s.dev p 0xA00305 [1] dsOk → Grants (.commitSecurity p) s p fun d => (∀ k : Fin 4, d.flash.floors[k] = if s.dev.images.present.testBit k.val then max s.dev.flash.floors[k] (hdrSecurity (s.dev.runningHeader k.val)) else s.dev.flash.floors[k]) ∧
      d.flash.revoked = if s.dev.images.present.testBit 3 then s.dev.flash.revoked ||| manifestRevokes (s.dev.runningBody 3) else s.dev.flash.revoked) ∧
    (∀ t o bs, t < 8 → s.dev.images.loadState = 1 → s.dev.images.loading = some (t, o, bs) →
      ∃ d, Runs .imageProgrammingEnd s d ∧ d.slot t = { s.dev.slot t with data := (s.dev.slot t).data.write o bs, verdict := 2 } ∧ (∀ j, j ≠ t → d.slot j = s.dev.slot j) ∧ d.images = { s.dev.images with loadState := 0, loading := none }) ∧
    (s.dev.images.loadState = 2 → s.dev.setting 0xA00201 < 8 →
      ∃ d, Runs .imageProgrammingEnd s d ∧ d.slot (s.dev.setting 0xA00201) = { s.dev.slot (s.dev.setting 0xA00201) with verdict := s.dev.imageVerdict (s.dev.setting 0xA00201) } ∧
        d.images = { s.dev.images with loadState := if s.dev.imageVerdict (s.dev.setting 0xA00201) = 0 then 3 else 4 }) ∧
    (s.dev.images.loadState ≠ 1 → s.dev.images.loadState ≠ 2 → Runs .imageProgrammingEnd s s.dev)
end

