-- ==== Sys2Proof/Laws/Store.lean ====
section
/-! SUPPORT. Sparse data: what a read after a write gives, and that every operation keeps the canonical form. -/

namespace Sys2Proof.Machine

set_option Elab.async false

variable {α : Type} [DecidableEq α] {d v : α} {m : Store α} {k j b n : Nat}

theorem Store.get_without_same : (m.without k).get d k = d := by
  induction m with
  | nil => rfl
  | cons e r ih =>
    simp only [Store.without, List.filter] at *
    split
    · next h => simp only [bne_iff_ne, ne_eq] at h; simp only [Store.get, if_neg h]; exact ih
    · exact ih

theorem Store.get_without_other (h : j ≠ k) : (m.without k).get d j = m.get d j := by
  induction m with
  | nil => rfl
  | cons e r ih =>
    simp only [Store.without, List.filter] at *
    split
    · simp only [Store.get, ih]
    · next he => simp only [bne_eq_false_iff_eq] at he; simp only [Store.get, he, if_neg (Ne.symm h)]; exact ih

/-- A read after a write to the same key gives the value written. -/
theorem Store.get_put_same : (m.put d k v).get d k = v := by
  induction m with
  | nil => unfold Store.put; split <;> simp_all [Store.get]
  | cons e r ih =>
    obtain ⟨j, x⟩ := e
    simp only [Store.put]
    split
    · split
      · next hv => rw [hv]; exact Store.get_without_same
      · simp [Store.get]
    · split
      · split
        · next hv => rw [hv]; exact Store.get_without_same
        · simp [Store.get]
      · next hk => simp only [Store.get, if_neg (Ne.symm hk)]; exact ih

/-- A write leaves every other key alone. -/
theorem Store.get_put_other (h : j ≠ k) : (m.put d k v).get d j = m.get d j := by
  induction m with
  | nil => unfold Store.put; split <;> simp [Store.get, Ne.symm h]
  | cons e r ih =>
    obtain ⟨i, x⟩ := e
    simp only [Store.put]
    split
    · split
      · exact Store.get_without_other h
      · simp [Store.get, Ne.symm h]
    · split
      · next hk => subst hk; split <;> simp [Store.get, Ne.symm h, Store.get_without_other h]
      · simp only [Store.get]; split <;> simp_all

theorem Store.wfFrom_mono (h : b ≤ n) (w : Store.wfFrom d n m = true) : Store.wfFrom d b m = true := by
  cases m with
  | nil => rfl
  | cons e r =>
    simp only [Store.wfFrom, Bool.and_eq_true, decide_eq_true_eq] at *
    exact ⟨⟨by omega, w.1.2⟩, w.2⟩

theorem Store.filter_wfFrom {p : Nat × α → Bool} : ∀ (m : Store α) (b : Nat), Store.wfFrom d b m = true → Store.wfFrom d b (m.filter p) = true := by
  intro m
  induction m with
  | nil => intro _ _; rfl
  | cons e r ih =>
    intro b h
    simp only [Store.wfFrom, Bool.and_eq_true, decide_eq_true_eq] at h
    simp only [List.filter]
    split
    · simp only [Store.wfFrom, Bool.and_eq_true, decide_eq_true_eq]; exact ⟨h.1, ih _ h.2⟩
    · exact Store.wfFrom_mono (by omega) (ih _ h.2)

theorem Store.put_wfFrom : ∀ (m : Store α) (b : Nat), b ≤ k → Store.wfFrom d b m = true → Store.wfFrom d b (m.put d k v) = true := by
  intro m
  induction m with
  | nil => intro b hb _; unfold Store.put; split <;> simp_all [Store.wfFrom]
  | cons e r ih =>
    obtain ⟨j, x⟩ := e
    intro b hb h
    have h' := h
    simp only [Store.wfFrom, Bool.and_eq_true, decide_eq_true_eq] at h
    simp only [Store.put]
    split
    · split
      · exact Store.filter_wfFrom _ _ h'
      · next hk hv =>
        simp only [Store.wfFrom, Bool.and_eq_true, decide_eq_true_eq]
        exact ⟨⟨hb, hv⟩, ⟨by omega, h.1.2⟩, h.2⟩
    · split
      · next hk hkj =>
        split
        · exact Store.filter_wfFrom _ _ (Store.wfFrom_mono (by omega) h.2)
        · next hv =>
          simp only [Store.wfFrom, Bool.and_eq_true, decide_eq_true_eq]
          exact ⟨⟨hb, hv⟩, by rw [hkj]; exact h.2⟩
      · simp only [Store.wfFrom, Bool.and_eq_true, decide_eq_true_eq]
        exact ⟨h.1, ih (j + 1) (by omega) h.2⟩

/-- A write keeps the canonical form. -/
theorem Store.put_wf (h : Store.wf d m = true) : Store.wf d (m.put d k v) = true := Store.put_wfFrom m 0 (Nat.zero_le _) h

theorem Store.upd_wf {f : α → α} (h : Store.wf d m = true) : Store.wf d (m.upd d k f) = true := Store.put_wf h

/-- Dropping entries keeps the canonical form. -/
theorem Store.filter_wf {p : Nat × α → Bool} (h : Store.wf d m = true) : Store.wf d (m.filter p) = true := Store.filter_wfFrom m 0 h

theorem Mem.setByte_wf {m : Mem} {a : Nat} {x : Byte} (h : m.wf = true) : (m.setByte a x).wf = true := Store.put_wf h

/-- A write of bytes keeps the canonical form. -/
theorem Mem.write_wf : ∀ (bs : List Byte) (m : Mem) (a : Nat), m.wf = true → (m.write a bs).wf = true
  | [], _, _, h => h
  | _ :: bs, m, a, h => Mem.write_wf bs (m.setByte a _) (a + 1) (Mem.setByte_wf h)

theorem Mem.filter_wf {m : Mem} {p : Nat × Byte → Bool} (h : m.wf = true) : Mem.wf (m.filter p) = true := Store.filter_wf h

/-- A byte outside the bytes written reads as before. -/
theorem Mem.byte_write_other : ∀ (bs : List Byte) (m : Mem) (a x : Nat), (x < a ∨ a + bs.length ≤ x) → (m.write a bs).byte x = m.byte x
  | [], _, _, _, _ => rfl
  | b :: bs, m, a, x, h => by
    simp only [List.length_cons] at h
    have hx : x ≠ a := by omega
    simp only [Mem.write]
    rw [Mem.byte_write_other bs _ _ _ (by omega)]
    exact Store.get_put_other hx

/-- A byte written reads as what was written. -/
theorem Mem.byte_write_same : ∀ (bs : List Byte) (m : Mem) (a i : Nat), (h : i < bs.length) → (m.write a bs).byte (a + i) = bs[i]
  | [], _, _, _, h => absurd h (Nat.not_lt_zero _)
  | b :: bs, m, a, 0, _ => by
    simp only [Mem.write, List.getElem_cons_zero, Nat.add_zero]
    rw [Mem.byte_write_other bs _ _ _ (by omega)]
    exact Store.get_put_same
  | b :: bs, m, a, i + 1, h => by
    simp only [Mem.write, List.getElem_cons_succ]
    have := Mem.byte_write_same bs (m.setByte a b) (a + 1) i (by simpa using h)
    rw [show a + (i + 1) = a + 1 + i by omega]
    exact this

/-- What is read where bytes were written is what was written. -/
theorem Mem.read_write_same (m : Mem) (a : Nat) (bs : List Byte) : (m.write a bs).read a bs.length = bs := by
  have key : ∀ (n i : Nat), i + n = bs.length → (m.write a bs).read (a + i) n = bs.drop i := by
    intro n
    induction n with
    | zero => intro i h; simp [Mem.read, List.drop_of_length_le (show bs.length ≤ i by omega)]
    | succ n ih =>
      intro i h
      have hi : i < bs.length := by omega
      rw [Mem.read, Mem.byte_write_same bs m a i hi, show a + i + 1 = a + (i + 1) by omega, ih (i + 1) (by omega)]
      exact (List.drop_eq_getElem_cons hi).symm
  simpa using key bs.length 0 (by omega)

theorem leBytes_length : ∀ (n x : Nat), (leBytes n x).length = n
  | 0, _ => rfl
  | n + 1, x => by simp [leBytes, leBytes_length n]

/-- The little-endian bytes of a number give it back, as far as they reach. -/
theorem leNat_leBytes : ∀ (n x : Nat), leNat (leBytes n x) = x % 256 ^ n
  | 0, x => by simp [leBytes, leNat, Nat.mod_one]
  | n + 1, x => by
    rw [leBytes, leNat, leNat_leBytes n, BitVec.toNat_ofNat, show (2 : Nat) ^ 8 = 256 from rfl, Nat.pow_succ', Nat.mod_mul]

end Sys2Proof.Machine
end

