-- ==== Sys2Proof/Laws/State.lean ====
section
/-! SUPPORT. What each update of the device leaves of each field. -/

namespace Sys2Proof.Machine

set_option Elab.async false

variable (d : Device)

/-! ### setBay -/

@[simp] theorem Device.setBay_now (k : Nat) (b : Bay) : (d.setBay k b).now = d.now := rfl
@[simp] theorem Device.setBay_stepCounter (k : Nat) (b : Bay) : (d.setBay k b).stepCounter = d.stepCounter := rfl
@[simp] theorem Device.setBay_power (k : Nat) (b : Bay) : (d.setBay k b).power = d.power := rfl
@[simp] theorem Device.setBay_dict (k : Nat) (b : Bay) : (d.setBay k b).dict = d.dict := rfl
@[simp] theorem Device.setBay_queues (k : Nat) (b : Bay) : (d.setBay k b).queues = d.queues := rfl
@[simp] theorem Device.setBay_fetched (k : Nat) (b : Bay) : (d.setBay k b).fetched = d.fetched := rfl
@[simp] theorem Device.setBay_lastPair (k : Nat) (b : Bay) : (d.setBay k b).lastPair = d.lastPair := rfl
@[simp] theorem Device.setBay_lastHigh (k : Nat) (b : Bay) : (d.setBay k b).lastHigh = d.lastHigh := rfl
@[simp] theorem Device.setBay_tagsFree (k : Nat) (b : Bay) : (d.setBay k b).tagsFree = d.tagsFree := rfl
@[simp] theorem Device.setBay_cmds (k : Nat) (b : Bay) : (d.setBay k b).cmds = d.cmds := rfl
@[simp] theorem Device.setBay_orderNext (k : Nat) (b : Bay) : (d.setBay k b).orderNext = d.orderNext := rfl
@[simp] theorem Device.setBay_events (k : Nat) (b : Bay) : (d.setBay k b).events = d.events := rfl
@[simp] theorem Device.setBay_ioBacklog (k : Nat) (b : Bay) : (d.setBay k b).ioBacklog = d.ioBacklog := rfl
@[simp] theorem Device.setBay_tiles (k : Nat) (b : Bay) : (d.setBay k b).tiles = d.tiles := rfl
@[simp] theorem Device.setBay_mem (k : Nat) (b : Bay) : (d.setBay k b).mem = d.mem := rfl
@[simp] theorem Device.setBay_poison (k : Nat) (b : Bay) : (d.setBay k b).poison = d.poison := rfl
@[simp] theorem Device.setBay_host (k : Nat) (b : Bay) : (d.setBay k b).host = d.host := rfl
@[simp] theorem Device.setBay_bays (k : Nat) (b : Bay) : (d.setBay k b).bays = d.bays.setIfInBounds k b := rfl
@[simp] theorem Device.setBay_farCap (k : Nat) (b : Bay) : (d.setBay k b).farCap = d.farCap := rfl
@[simp] theorem Device.setBay_farState (k : Nat) (b : Bay) : (d.setBay k b).farState = d.farState := rfl
@[simp] theorem Device.setBay_ports (k : Nat) (b : Bay) : (d.setBay k b).ports = d.ports := rfl
@[simp] theorem Device.setBay_streams (k : Nat) (b : Bay) : (d.setBay k b).streams = d.streams := rfl
@[simp] theorem Device.setBay_curSet (k : Nat) (b : Bay) : (d.setBay k b).curSet = d.curSet := rfl
@[simp] theorem Device.setBay_verA (k : Nat) (b : Bay) : (d.setBay k b).verA = d.verA := rfl
@[simp] theorem Device.setBay_verB (k : Nat) (b : Bay) : (d.setBay k b).verB = d.verB := rfl
@[simp] theorem Device.setBay_pace (k : Nat) (b : Bay) : (d.setBay k b).pace = d.pace := rfl
@[simp] theorem Device.setBay_log (k : Nat) (b : Bay) : (d.setBay k b).log = d.log := rfl
@[simp] theorem Device.setBay_safety (k : Nat) (b : Bay) : (d.setBay k b).safety = d.safety := rfl
@[simp] theorem Device.setBay_flash (k : Nat) (b : Bay) : (d.setBay k b).flash = d.flash := rfl
@[simp] theorem Device.setBay_images (k : Nat) (b : Bay) : (d.setBay k b).images = d.images := rfl
@[simp] theorem Device.setBay_spdmStage (k : Nat) (b : Bay) : (d.setBay k b).spdmStage = d.spdmStage := rfl
@[simp] theorem Device.setBay_out (k : Nat) (b : Bay) : (d.setBay k b).out = d.out := rfl
@[simp] theorem Device.setBay_drawn (k : Nat) (b : Bay) : (d.setBay k b).drawn = d.drawn := rfl

/-! ### modBay -/

@[simp] theorem Device.modBay_now (k : Nat) (f : Bay → Bay) : (d.modBay k f).now = d.now := rfl
@[simp] theorem Device.modBay_stepCounter (k : Nat) (f : Bay → Bay) : (d.modBay k f).stepCounter = d.stepCounter := rfl
@[simp] theorem Device.modBay_power (k : Nat) (f : Bay → Bay) : (d.modBay k f).power = d.power := rfl
@[simp] theorem Device.modBay_dict (k : Nat) (f : Bay → Bay) : (d.modBay k f).dict = d.dict := rfl
@[simp] theorem Device.modBay_queues (k : Nat) (f : Bay → Bay) : (d.modBay k f).queues = d.queues := rfl
@[simp] theorem Device.modBay_fetched (k : Nat) (f : Bay → Bay) : (d.modBay k f).fetched = d.fetched := rfl
@[simp] theorem Device.modBay_lastPair (k : Nat) (f : Bay → Bay) : (d.modBay k f).lastPair = d.lastPair := rfl
@[simp] theorem Device.modBay_lastHigh (k : Nat) (f : Bay → Bay) : (d.modBay k f).lastHigh = d.lastHigh := rfl
@[simp] theorem Device.modBay_tagsFree (k : Nat) (f : Bay → Bay) : (d.modBay k f).tagsFree = d.tagsFree := rfl
@[simp] theorem Device.modBay_cmds (k : Nat) (f : Bay → Bay) : (d.modBay k f).cmds = d.cmds := rfl
@[simp] theorem Device.modBay_orderNext (k : Nat) (f : Bay → Bay) : (d.modBay k f).orderNext = d.orderNext := rfl
@[simp] theorem Device.modBay_events (k : Nat) (f : Bay → Bay) : (d.modBay k f).events = d.events := rfl
@[simp] theorem Device.modBay_ioBacklog (k : Nat) (f : Bay → Bay) : (d.modBay k f).ioBacklog = d.ioBacklog := rfl
@[simp] theorem Device.modBay_tiles (k : Nat) (f : Bay → Bay) : (d.modBay k f).tiles = d.tiles := rfl
@[simp] theorem Device.modBay_mem (k : Nat) (f : Bay → Bay) : (d.modBay k f).mem = d.mem := rfl
@[simp] theorem Device.modBay_poison (k : Nat) (f : Bay → Bay) : (d.modBay k f).poison = d.poison := rfl
@[simp] theorem Device.modBay_host (k : Nat) (f : Bay → Bay) : (d.modBay k f).host = d.host := rfl
@[simp] theorem Device.modBay_bays (k : Nat) (f : Bay → Bay) : (d.modBay k f).bays = d.bays.setIfInBounds k (f (d.bay k)) := rfl
@[simp] theorem Device.modBay_farCap (k : Nat) (f : Bay → Bay) : (d.modBay k f).farCap = d.farCap := rfl
@[simp] theorem Device.modBay_farState (k : Nat) (f : Bay → Bay) : (d.modBay k f).farState = d.farState := rfl
@[simp] theorem Device.modBay_ports (k : Nat) (f : Bay → Bay) : (d.modBay k f).ports = d.ports := rfl
@[simp] theorem Device.modBay_streams (k : Nat) (f : Bay → Bay) : (d.modBay k f).streams = d.streams := rfl
@[simp] theorem Device.modBay_curSet (k : Nat) (f : Bay → Bay) : (d.modBay k f).curSet = d.curSet := rfl
@[simp] theorem Device.modBay_verA (k : Nat) (f : Bay → Bay) : (d.modBay k f).verA = d.verA := rfl
@[simp] theorem Device.modBay_verB (k : Nat) (f : Bay → Bay) : (d.modBay k f).verB = d.verB := rfl
@[simp] theorem Device.modBay_pace (k : Nat) (f : Bay → Bay) : (d.modBay k f).pace = d.pace := rfl
@[simp] theorem Device.modBay_log (k : Nat) (f : Bay → Bay) : (d.modBay k f).log = d.log := rfl
@[simp] theorem Device.modBay_safety (k : Nat) (f : Bay → Bay) : (d.modBay k f).safety = d.safety := rfl
@[simp] theorem Device.modBay_flash (k : Nat) (f : Bay → Bay) : (d.modBay k f).flash = d.flash := rfl
@[simp] theorem Device.modBay_images (k : Nat) (f : Bay → Bay) : (d.modBay k f).images = d.images := rfl
@[simp] theorem Device.modBay_spdmStage (k : Nat) (f : Bay → Bay) : (d.modBay k f).spdmStage = d.spdmStage := rfl
@[simp] theorem Device.modBay_out (k : Nat) (f : Bay → Bay) : (d.modBay k f).out = d.out := rfl
@[simp] theorem Device.modBay_drawn (k : Nat) (f : Bay → Bay) : (d.modBay k f).drawn = d.drawn := rfl

/-! ### setPort -/

@[simp] theorem Device.setPort_now (k : Nat) (p : Port) : (d.setPort k p).now = d.now := rfl
@[simp] theorem Device.setPort_stepCounter (k : Nat) (p : Port) : (d.setPort k p).stepCounter = d.stepCounter := rfl
@[simp] theorem Device.setPort_power (k : Nat) (p : Port) : (d.setPort k p).power = d.power := rfl
@[simp] theorem Device.setPort_dict (k : Nat) (p : Port) : (d.setPort k p).dict = d.dict := rfl
@[simp] theorem Device.setPort_queues (k : Nat) (p : Port) : (d.setPort k p).queues = d.queues := rfl
@[simp] theorem Device.setPort_fetched (k : Nat) (p : Port) : (d.setPort k p).fetched = d.fetched := rfl
@[simp] theorem Device.setPort_lastPair (k : Nat) (p : Port) : (d.setPort k p).lastPair = d.lastPair := rfl
@[simp] theorem Device.setPort_lastHigh (k : Nat) (p : Port) : (d.setPort k p).lastHigh = d.lastHigh := rfl
@[simp] theorem Device.setPort_tagsFree (k : Nat) (p : Port) : (d.setPort k p).tagsFree = d.tagsFree := rfl
@[simp] theorem Device.setPort_cmds (k : Nat) (p : Port) : (d.setPort k p).cmds = d.cmds := rfl
@[simp] theorem Device.setPort_orderNext (k : Nat) (p : Port) : (d.setPort k p).orderNext = d.orderNext := rfl
@[simp] theorem Device.setPort_events (k : Nat) (p : Port) : (d.setPort k p).events = d.events := rfl
@[simp] theorem Device.setPort_ioBacklog (k : Nat) (p : Port) : (d.setPort k p).ioBacklog = d.ioBacklog := rfl
@[simp] theorem Device.setPort_tiles (k : Nat) (p : Port) : (d.setPort k p).tiles = d.tiles := rfl
@[simp] theorem Device.setPort_mem (k : Nat) (p : Port) : (d.setPort k p).mem = d.mem := rfl
@[simp] theorem Device.setPort_poison (k : Nat) (p : Port) : (d.setPort k p).poison = d.poison := rfl
@[simp] theorem Device.setPort_host (k : Nat) (p : Port) : (d.setPort k p).host = d.host := rfl
@[simp] theorem Device.setPort_bays (k : Nat) (p : Port) : (d.setPort k p).bays = d.bays := rfl
@[simp] theorem Device.setPort_farCap (k : Nat) (p : Port) : (d.setPort k p).farCap = d.farCap := rfl
@[simp] theorem Device.setPort_farState (k : Nat) (p : Port) : (d.setPort k p).farState = d.farState := rfl
@[simp] theorem Device.setPort_ports (k : Nat) (p : Port) : (d.setPort k p).ports = d.ports.setIfInBounds k p := rfl
@[simp] theorem Device.setPort_streams (k : Nat) (p : Port) : (d.setPort k p).streams = d.streams := rfl
@[simp] theorem Device.setPort_curSet (k : Nat) (p : Port) : (d.setPort k p).curSet = d.curSet := rfl
@[simp] theorem Device.setPort_verA (k : Nat) (p : Port) : (d.setPort k p).verA = d.verA := rfl
@[simp] theorem Device.setPort_verB (k : Nat) (p : Port) : (d.setPort k p).verB = d.verB := rfl
@[simp] theorem Device.setPort_pace (k : Nat) (p : Port) : (d.setPort k p).pace = d.pace := rfl
@[simp] theorem Device.setPort_log (k : Nat) (p : Port) : (d.setPort k p).log = d.log := rfl
@[simp] theorem Device.setPort_safety (k : Nat) (p : Port) : (d.setPort k p).safety = d.safety := rfl
@[simp] theorem Device.setPort_flash (k : Nat) (p : Port) : (d.setPort k p).flash = d.flash := rfl
@[simp] theorem Device.setPort_images (k : Nat) (p : Port) : (d.setPort k p).images = d.images := rfl
@[simp] theorem Device.setPort_spdmStage (k : Nat) (p : Port) : (d.setPort k p).spdmStage = d.spdmStage := rfl
@[simp] theorem Device.setPort_out (k : Nat) (p : Port) : (d.setPort k p).out = d.out := rfl
@[simp] theorem Device.setPort_drawn (k : Nat) (p : Port) : (d.setPort k p).drawn = d.drawn := rfl

/-! ### modPort -/

@[simp] theorem Device.modPort_now (k : Nat) (f : Port → Port) : (d.modPort k f).now = d.now := rfl
@[simp] theorem Device.modPort_stepCounter (k : Nat) (f : Port → Port) : (d.modPort k f).stepCounter = d.stepCounter := rfl
@[simp] theorem Device.modPort_power (k : Nat) (f : Port → Port) : (d.modPort k f).power = d.power := rfl
@[simp] theorem Device.modPort_dict (k : Nat) (f : Port → Port) : (d.modPort k f).dict = d.dict := rfl
@[simp] theorem Device.modPort_queues (k : Nat) (f : Port → Port) : (d.modPort k f).queues = d.queues := rfl
@[simp] theorem Device.modPort_fetched (k : Nat) (f : Port → Port) : (d.modPort k f).fetched = d.fetched := rfl
@[simp] theorem Device.modPort_lastPair (k : Nat) (f : Port → Port) : (d.modPort k f).lastPair = d.lastPair := rfl
@[simp] theorem Device.modPort_lastHigh (k : Nat) (f : Port → Port) : (d.modPort k f).lastHigh = d.lastHigh := rfl
@[simp] theorem Device.modPort_tagsFree (k : Nat) (f : Port → Port) : (d.modPort k f).tagsFree = d.tagsFree := rfl
@[simp] theorem Device.modPort_cmds (k : Nat) (f : Port → Port) : (d.modPort k f).cmds = d.cmds := rfl
@[simp] theorem Device.modPort_orderNext (k : Nat) (f : Port → Port) : (d.modPort k f).orderNext = d.orderNext := rfl
@[simp] theorem Device.modPort_events (k : Nat) (f : Port → Port) : (d.modPort k f).events = d.events := rfl
@[simp] theorem Device.modPort_ioBacklog (k : Nat) (f : Port → Port) : (d.modPort k f).ioBacklog = d.ioBacklog := rfl
@[simp] theorem Device.modPort_tiles (k : Nat) (f : Port → Port) : (d.modPort k f).tiles = d.tiles := rfl
@[simp] theorem Device.modPort_mem (k : Nat) (f : Port → Port) : (d.modPort k f).mem = d.mem := rfl
@[simp] theorem Device.modPort_poison (k : Nat) (f : Port → Port) : (d.modPort k f).poison = d.poison := rfl
@[simp] theorem Device.modPort_host (k : Nat) (f : Port → Port) : (d.modPort k f).host = d.host := rfl
@[simp] theorem Device.modPort_bays (k : Nat) (f : Port → Port) : (d.modPort k f).bays = d.bays := rfl
@[simp] theorem Device.modPort_farCap (k : Nat) (f : Port → Port) : (d.modPort k f).farCap = d.farCap := rfl
@[simp] theorem Device.modPort_farState (k : Nat) (f : Port → Port) : (d.modPort k f).farState = d.farState := rfl
@[simp] theorem Device.modPort_ports (k : Nat) (f : Port → Port) : (d.modPort k f).ports = d.ports.setIfInBounds k (f (d.port k)) := rfl
@[simp] theorem Device.modPort_streams (k : Nat) (f : Port → Port) : (d.modPort k f).streams = d.streams := rfl
@[simp] theorem Device.modPort_curSet (k : Nat) (f : Port → Port) : (d.modPort k f).curSet = d.curSet := rfl
@[simp] theorem Device.modPort_verA (k : Nat) (f : Port → Port) : (d.modPort k f).verA = d.verA := rfl
@[simp] theorem Device.modPort_verB (k : Nat) (f : Port → Port) : (d.modPort k f).verB = d.verB := rfl
@[simp] theorem Device.modPort_pace (k : Nat) (f : Port → Port) : (d.modPort k f).pace = d.pace := rfl
@[simp] theorem Device.modPort_log (k : Nat) (f : Port → Port) : (d.modPort k f).log = d.log := rfl
@[simp] theorem Device.modPort_safety (k : Nat) (f : Port → Port) : (d.modPort k f).safety = d.safety := rfl
@[simp] theorem Device.modPort_flash (k : Nat) (f : Port → Port) : (d.modPort k f).flash = d.flash := rfl
@[simp] theorem Device.modPort_images (k : Nat) (f : Port → Port) : (d.modPort k f).images = d.images := rfl
@[simp] theorem Device.modPort_spdmStage (k : Nat) (f : Port → Port) : (d.modPort k f).spdmStage = d.spdmStage := rfl
@[simp] theorem Device.modPort_out (k : Nat) (f : Port → Port) : (d.modPort k f).out = d.out := rfl
@[simp] theorem Device.modPort_drawn (k : Nat) (f : Port → Port) : (d.modPort k f).drawn = d.drawn := rfl

/-! ### setQueue -/

@[simp] theorem Device.setQueue_now (q : Nat) (x : QPair) : (d.setQueue q x).now = d.now := rfl
@[simp] theorem Device.setQueue_stepCounter (q : Nat) (x : QPair) : (d.setQueue q x).stepCounter = d.stepCounter := rfl
@[simp] theorem Device.setQueue_power (q : Nat) (x : QPair) : (d.setQueue q x).power = d.power := rfl
@[simp] theorem Device.setQueue_dict (q : Nat) (x : QPair) : (d.setQueue q x).dict = d.dict := rfl
@[simp] theorem Device.setQueue_queues (q : Nat) (x : QPair) : (d.setQueue q x).queues = d.queues.setIfInBounds q x := rfl
@[simp] theorem Device.setQueue_fetched (q : Nat) (x : QPair) : (d.setQueue q x).fetched = d.fetched := rfl
@[simp] theorem Device.setQueue_lastPair (q : Nat) (x : QPair) : (d.setQueue q x).lastPair = d.lastPair := rfl
@[simp] theorem Device.setQueue_lastHigh (q : Nat) (x : QPair) : (d.setQueue q x).lastHigh = d.lastHigh := rfl
@[simp] theorem Device.setQueue_tagsFree (q : Nat) (x : QPair) : (d.setQueue q x).tagsFree = d.tagsFree := rfl
@[simp] theorem Device.setQueue_cmds (q : Nat) (x : QPair) : (d.setQueue q x).cmds = d.cmds := rfl
@[simp] theorem Device.setQueue_orderNext (q : Nat) (x : QPair) : (d.setQueue q x).orderNext = d.orderNext := rfl
@[simp] theorem Device.setQueue_events (q : Nat) (x : QPair) : (d.setQueue q x).events = d.events := rfl
@[simp] theorem Device.setQueue_ioBacklog (q : Nat) (x : QPair) : (d.setQueue q x).ioBacklog = d.ioBacklog := rfl
@[simp] theorem Device.setQueue_tiles (q : Nat) (x : QPair) : (d.setQueue q x).tiles = d.tiles := rfl
@[simp] theorem Device.setQueue_mem (q : Nat) (x : QPair) : (d.setQueue q x).mem = d.mem := rfl
@[simp] theorem Device.setQueue_poison (q : Nat) (x : QPair) : (d.setQueue q x).poison = d.poison := rfl
@[simp] theorem Device.setQueue_host (q : Nat) (x : QPair) : (d.setQueue q x).host = d.host := rfl
@[simp] theorem Device.setQueue_bays (q : Nat) (x : QPair) : (d.setQueue q x).bays = d.bays := rfl
@[simp] theorem Device.setQueue_farCap (q : Nat) (x : QPair) : (d.setQueue q x).farCap = d.farCap := rfl
@[simp] theorem Device.setQueue_farState (q : Nat) (x : QPair) : (d.setQueue q x).farState = d.farState := rfl
@[simp] theorem Device.setQueue_ports (q : Nat) (x : QPair) : (d.setQueue q x).ports = d.ports := rfl
@[simp] theorem Device.setQueue_streams (q : Nat) (x : QPair) : (d.setQueue q x).streams = d.streams := rfl
@[simp] theorem Device.setQueue_curSet (q : Nat) (x : QPair) : (d.setQueue q x).curSet = d.curSet := rfl
@[simp] theorem Device.setQueue_verA (q : Nat) (x : QPair) : (d.setQueue q x).verA = d.verA := rfl
@[simp] theorem Device.setQueue_verB (q : Nat) (x : QPair) : (d.setQueue q x).verB = d.verB := rfl
@[simp] theorem Device.setQueue_pace (q : Nat) (x : QPair) : (d.setQueue q x).pace = d.pace := rfl
@[simp] theorem Device.setQueue_log (q : Nat) (x : QPair) : (d.setQueue q x).log = d.log := rfl
@[simp] theorem Device.setQueue_safety (q : Nat) (x : QPair) : (d.setQueue q x).safety = d.safety := rfl
@[simp] theorem Device.setQueue_flash (q : Nat) (x : QPair) : (d.setQueue q x).flash = d.flash := rfl
@[simp] theorem Device.setQueue_images (q : Nat) (x : QPair) : (d.setQueue q x).images = d.images := rfl
@[simp] theorem Device.setQueue_spdmStage (q : Nat) (x : QPair) : (d.setQueue q x).spdmStage = d.spdmStage := rfl
@[simp] theorem Device.setQueue_out (q : Nat) (x : QPair) : (d.setQueue q x).out = d.out := rfl
@[simp] theorem Device.setQueue_drawn (q : Nat) (x : QPair) : (d.setQueue q x).drawn = d.drawn := rfl

/-! ### modQueue -/

@[simp] theorem Device.modQueue_now (q : Nat) (f : QPair → QPair) : (d.modQueue q f).now = d.now := rfl
@[simp] theorem Device.modQueue_stepCounter (q : Nat) (f : QPair → QPair) : (d.modQueue q f).stepCounter = d.stepCounter := rfl
@[simp] theorem Device.modQueue_power (q : Nat) (f : QPair → QPair) : (d.modQueue q f).power = d.power := rfl
@[simp] theorem Device.modQueue_dict (q : Nat) (f : QPair → QPair) : (d.modQueue q f).dict = d.dict := rfl
@[simp] theorem Device.modQueue_queues (q : Nat) (f : QPair → QPair) : (d.modQueue q f).queues = d.queues.setIfInBounds q (f (d.queue q)) := rfl
@[simp] theorem Device.modQueue_fetched (q : Nat) (f : QPair → QPair) : (d.modQueue q f).fetched = d.fetched := rfl
@[simp] theorem Device.modQueue_lastPair (q : Nat) (f : QPair → QPair) : (d.modQueue q f).lastPair = d.lastPair := rfl
@[simp] theorem Device.modQueue_lastHigh (q : Nat) (f : QPair → QPair) : (d.modQueue q f).lastHigh = d.lastHigh := rfl
@[simp] theorem Device.modQueue_tagsFree (q : Nat) (f : QPair → QPair) : (d.modQueue q f).tagsFree = d.tagsFree := rfl
@[simp] theorem Device.modQueue_cmds (q : Nat) (f : QPair → QPair) : (d.modQueue q f).cmds = d.cmds := rfl
@[simp] theorem Device.modQueue_orderNext (q : Nat) (f : QPair → QPair) : (d.modQueue q f).orderNext = d.orderNext := rfl
@[simp] theorem Device.modQueue_events (q : Nat) (f : QPair → QPair) : (d.modQueue q f).events = d.events := rfl
@[simp] theorem Device.modQueue_ioBacklog (q : Nat) (f : QPair → QPair) : (d.modQueue q f).ioBacklog = d.ioBacklog := rfl
@[simp] theorem Device.modQueue_tiles (q : Nat) (f : QPair → QPair) : (d.modQueue q f).tiles = d.tiles := rfl
@[simp] theorem Device.modQueue_mem (q : Nat) (f : QPair → QPair) : (d.modQueue q f).mem = d.mem := rfl
@[simp] theorem Device.modQueue_poison (q : Nat) (f : QPair → QPair) : (d.modQueue q f).poison = d.poison := rfl
@[simp] theorem Device.modQueue_host (q : Nat) (f : QPair → QPair) : (d.modQueue q f).host = d.host := rfl
@[simp] theorem Device.modQueue_bays (q : Nat) (f : QPair → QPair) : (d.modQueue q f).bays = d.bays := rfl
@[simp] theorem Device.modQueue_farCap (q : Nat) (f : QPair → QPair) : (d.modQueue q f).farCap = d.farCap := rfl
@[simp] theorem Device.modQueue_farState (q : Nat) (f : QPair → QPair) : (d.modQueue q f).farState = d.farState := rfl
@[simp] theorem Device.modQueue_ports (q : Nat) (f : QPair → QPair) : (d.modQueue q f).ports = d.ports := rfl
@[simp] theorem Device.modQueue_streams (q : Nat) (f : QPair → QPair) : (d.modQueue q f).streams = d.streams := rfl
@[simp] theorem Device.modQueue_curSet (q : Nat) (f : QPair → QPair) : (d.modQueue q f).curSet = d.curSet := rfl
@[simp] theorem Device.modQueue_verA (q : Nat) (f : QPair → QPair) : (d.modQueue q f).verA = d.verA := rfl
@[simp] theorem Device.modQueue_verB (q : Nat) (f : QPair → QPair) : (d.modQueue q f).verB = d.verB := rfl
@[simp] theorem Device.modQueue_pace (q : Nat) (f : QPair → QPair) : (d.modQueue q f).pace = d.pace := rfl
@[simp] theorem Device.modQueue_log (q : Nat) (f : QPair → QPair) : (d.modQueue q f).log = d.log := rfl
@[simp] theorem Device.modQueue_safety (q : Nat) (f : QPair → QPair) : (d.modQueue q f).safety = d.safety := rfl
@[simp] theorem Device.modQueue_flash (q : Nat) (f : QPair → QPair) : (d.modQueue q f).flash = d.flash := rfl
@[simp] theorem Device.modQueue_images (q : Nat) (f : QPair → QPair) : (d.modQueue q f).images = d.images := rfl
@[simp] theorem Device.modQueue_spdmStage (q : Nat) (f : QPair → QPair) : (d.modQueue q f).spdmStage = d.spdmStage := rfl
@[simp] theorem Device.modQueue_out (q : Nat) (f : QPair → QPair) : (d.modQueue q f).out = d.out := rfl
@[simp] theorem Device.modQueue_drawn (q : Nat) (f : QPair → QPair) : (d.modQueue q f).drawn = d.drawn := rfl

/-! ### setTile -/

@[simp] theorem Device.setTile_now (k : Nat) (t : Tile) : (d.setTile k t).now = d.now := rfl
@[simp] theorem Device.setTile_stepCounter (k : Nat) (t : Tile) : (d.setTile k t).stepCounter = d.stepCounter := rfl
@[simp] theorem Device.setTile_power (k : Nat) (t : Tile) : (d.setTile k t).power = d.power := rfl
@[simp] theorem Device.setTile_dict (k : Nat) (t : Tile) : (d.setTile k t).dict = d.dict := rfl
@[simp] theorem Device.setTile_queues (k : Nat) (t : Tile) : (d.setTile k t).queues = d.queues := rfl
@[simp] theorem Device.setTile_fetched (k : Nat) (t : Tile) : (d.setTile k t).fetched = d.fetched := rfl
@[simp] theorem Device.setTile_lastPair (k : Nat) (t : Tile) : (d.setTile k t).lastPair = d.lastPair := rfl
@[simp] theorem Device.setTile_lastHigh (k : Nat) (t : Tile) : (d.setTile k t).lastHigh = d.lastHigh := rfl
@[simp] theorem Device.setTile_tagsFree (k : Nat) (t : Tile) : (d.setTile k t).tagsFree = d.tagsFree := rfl
@[simp] theorem Device.setTile_cmds (k : Nat) (t : Tile) : (d.setTile k t).cmds = d.cmds := rfl
@[simp] theorem Device.setTile_orderNext (k : Nat) (t : Tile) : (d.setTile k t).orderNext = d.orderNext := rfl
@[simp] theorem Device.setTile_events (k : Nat) (t : Tile) : (d.setTile k t).events = d.events := rfl
@[simp] theorem Device.setTile_ioBacklog (k : Nat) (t : Tile) : (d.setTile k t).ioBacklog = d.ioBacklog := rfl
@[simp] theorem Device.setTile_tiles (k : Nat) (t : Tile) : (d.setTile k t).tiles = d.tiles.put Tile.idle k t := rfl
@[simp] theorem Device.setTile_mem (k : Nat) (t : Tile) : (d.setTile k t).mem = d.mem := rfl
@[simp] theorem Device.setTile_poison (k : Nat) (t : Tile) : (d.setTile k t).poison = d.poison := rfl
@[simp] theorem Device.setTile_host (k : Nat) (t : Tile) : (d.setTile k t).host = d.host := rfl
@[simp] theorem Device.setTile_bays (k : Nat) (t : Tile) : (d.setTile k t).bays = d.bays := rfl
@[simp] theorem Device.setTile_farCap (k : Nat) (t : Tile) : (d.setTile k t).farCap = d.farCap := rfl
@[simp] theorem Device.setTile_farState (k : Nat) (t : Tile) : (d.setTile k t).farState = d.farState := rfl
@[simp] theorem Device.setTile_ports (k : Nat) (t : Tile) : (d.setTile k t).ports = d.ports := rfl
@[simp] theorem Device.setTile_streams (k : Nat) (t : Tile) : (d.setTile k t).streams = d.streams := rfl
@[simp] theorem Device.setTile_curSet (k : Nat) (t : Tile) : (d.setTile k t).curSet = d.curSet := rfl
@[simp] theorem Device.setTile_verA (k : Nat) (t : Tile) : (d.setTile k t).verA = d.verA := rfl
@[simp] theorem Device.setTile_verB (k : Nat) (t : Tile) : (d.setTile k t).verB = d.verB := rfl
@[simp] theorem Device.setTile_pace (k : Nat) (t : Tile) : (d.setTile k t).pace = d.pace := rfl
@[simp] theorem Device.setTile_log (k : Nat) (t : Tile) : (d.setTile k t).log = d.log := rfl
@[simp] theorem Device.setTile_safety (k : Nat) (t : Tile) : (d.setTile k t).safety = d.safety := rfl
@[simp] theorem Device.setTile_flash (k : Nat) (t : Tile) : (d.setTile k t).flash = d.flash := rfl
@[simp] theorem Device.setTile_images (k : Nat) (t : Tile) : (d.setTile k t).images = d.images := rfl
@[simp] theorem Device.setTile_spdmStage (k : Nat) (t : Tile) : (d.setTile k t).spdmStage = d.spdmStage := rfl
@[simp] theorem Device.setTile_out (k : Nat) (t : Tile) : (d.setTile k t).out = d.out := rfl
@[simp] theorem Device.setTile_drawn (k : Nat) (t : Tile) : (d.setTile k t).drawn = d.drawn := rfl

/-! ### modTile -/

@[simp] theorem Device.modTile_now (k : Nat) (f : Tile → Tile) : (d.modTile k f).now = d.now := rfl
@[simp] theorem Device.modTile_stepCounter (k : Nat) (f : Tile → Tile) : (d.modTile k f).stepCounter = d.stepCounter := rfl
@[simp] theorem Device.modTile_power (k : Nat) (f : Tile → Tile) : (d.modTile k f).power = d.power := rfl
@[simp] theorem Device.modTile_dict (k : Nat) (f : Tile → Tile) : (d.modTile k f).dict = d.dict := rfl
@[simp] theorem Device.modTile_queues (k : Nat) (f : Tile → Tile) : (d.modTile k f).queues = d.queues := rfl
@[simp] theorem Device.modTile_fetched (k : Nat) (f : Tile → Tile) : (d.modTile k f).fetched = d.fetched := rfl
@[simp] theorem Device.modTile_lastPair (k : Nat) (f : Tile → Tile) : (d.modTile k f).lastPair = d.lastPair := rfl
@[simp] theorem Device.modTile_lastHigh (k : Nat) (f : Tile → Tile) : (d.modTile k f).lastHigh = d.lastHigh := rfl
@[simp] theorem Device.modTile_tagsFree (k : Nat) (f : Tile → Tile) : (d.modTile k f).tagsFree = d.tagsFree := rfl
@[simp] theorem Device.modTile_cmds (k : Nat) (f : Tile → Tile) : (d.modTile k f).cmds = d.cmds := rfl
@[simp] theorem Device.modTile_orderNext (k : Nat) (f : Tile → Tile) : (d.modTile k f).orderNext = d.orderNext := rfl
@[simp] theorem Device.modTile_events (k : Nat) (f : Tile → Tile) : (d.modTile k f).events = d.events := rfl
@[simp] theorem Device.modTile_ioBacklog (k : Nat) (f : Tile → Tile) : (d.modTile k f).ioBacklog = d.ioBacklog := rfl
@[simp] theorem Device.modTile_tiles (k : Nat) (f : Tile → Tile) : (d.modTile k f).tiles = d.tiles.put Tile.idle k (f (d.tile k)) := rfl
@[simp] theorem Device.modTile_mem (k : Nat) (f : Tile → Tile) : (d.modTile k f).mem = d.mem := rfl
@[simp] theorem Device.modTile_poison (k : Nat) (f : Tile → Tile) : (d.modTile k f).poison = d.poison := rfl
@[simp] theorem Device.modTile_host (k : Nat) (f : Tile → Tile) : (d.modTile k f).host = d.host := rfl
@[simp] theorem Device.modTile_bays (k : Nat) (f : Tile → Tile) : (d.modTile k f).bays = d.bays := rfl
@[simp] theorem Device.modTile_farCap (k : Nat) (f : Tile → Tile) : (d.modTile k f).farCap = d.farCap := rfl
@[simp] theorem Device.modTile_farState (k : Nat) (f : Tile → Tile) : (d.modTile k f).farState = d.farState := rfl
@[simp] theorem Device.modTile_ports (k : Nat) (f : Tile → Tile) : (d.modTile k f).ports = d.ports := rfl
@[simp] theorem Device.modTile_streams (k : Nat) (f : Tile → Tile) : (d.modTile k f).streams = d.streams := rfl
@[simp] theorem Device.modTile_curSet (k : Nat) (f : Tile → Tile) : (d.modTile k f).curSet = d.curSet := rfl
@[simp] theorem Device.modTile_verA (k : Nat) (f : Tile → Tile) : (d.modTile k f).verA = d.verA := rfl
@[simp] theorem Device.modTile_verB (k : Nat) (f : Tile → Tile) : (d.modTile k f).verB = d.verB := rfl
@[simp] theorem Device.modTile_pace (k : Nat) (f : Tile → Tile) : (d.modTile k f).pace = d.pace := rfl
@[simp] theorem Device.modTile_log (k : Nat) (f : Tile → Tile) : (d.modTile k f).log = d.log := rfl
@[simp] theorem Device.modTile_safety (k : Nat) (f : Tile → Tile) : (d.modTile k f).safety = d.safety := rfl
@[simp] theorem Device.modTile_flash (k : Nat) (f : Tile → Tile) : (d.modTile k f).flash = d.flash := rfl
@[simp] theorem Device.modTile_images (k : Nat) (f : Tile → Tile) : (d.modTile k f).images = d.images := rfl
@[simp] theorem Device.modTile_spdmStage (k : Nat) (f : Tile → Tile) : (d.modTile k f).spdmStage = d.spdmStage := rfl
@[simp] theorem Device.modTile_out (k : Nat) (f : Tile → Tile) : (d.modTile k f).out = d.out := rfl
@[simp] theorem Device.modTile_drawn (k : Nat) (f : Tile → Tile) : (d.modTile k f).drawn = d.drawn := rfl

/-! ### modCmd -/

@[simp] theorem Device.modCmd_now (tag : Nat) (f : Cmd → Cmd) : (d.modCmd tag f).now = d.now := rfl
@[simp] theorem Device.modCmd_stepCounter (tag : Nat) (f : Cmd → Cmd) : (d.modCmd tag f).stepCounter = d.stepCounter := rfl
@[simp] theorem Device.modCmd_power (tag : Nat) (f : Cmd → Cmd) : (d.modCmd tag f).power = d.power := rfl
@[simp] theorem Device.modCmd_dict (tag : Nat) (f : Cmd → Cmd) : (d.modCmd tag f).dict = d.dict := rfl
@[simp] theorem Device.modCmd_queues (tag : Nat) (f : Cmd → Cmd) : (d.modCmd tag f).queues = d.queues := rfl
@[simp] theorem Device.modCmd_fetched (tag : Nat) (f : Cmd → Cmd) : (d.modCmd tag f).fetched = d.fetched := rfl
@[simp] theorem Device.modCmd_lastPair (tag : Nat) (f : Cmd → Cmd) : (d.modCmd tag f).lastPair = d.lastPair := rfl
@[simp] theorem Device.modCmd_lastHigh (tag : Nat) (f : Cmd → Cmd) : (d.modCmd tag f).lastHigh = d.lastHigh := rfl
@[simp] theorem Device.modCmd_tagsFree (tag : Nat) (f : Cmd → Cmd) : (d.modCmd tag f).tagsFree = d.tagsFree := rfl
@[simp] theorem Device.modCmd_cmds (tag : Nat) (f : Cmd → Cmd) : (d.modCmd tag f).cmds = d.cmds.map fun c => if c.tag = tag then f c else c := rfl
@[simp] theorem Device.modCmd_orderNext (tag : Nat) (f : Cmd → Cmd) : (d.modCmd tag f).orderNext = d.orderNext := rfl
@[simp] theorem Device.modCmd_events (tag : Nat) (f : Cmd → Cmd) : (d.modCmd tag f).events = d.events := rfl
@[simp] theorem Device.modCmd_ioBacklog (tag : Nat) (f : Cmd → Cmd) : (d.modCmd tag f).ioBacklog = d.ioBacklog := rfl
@[simp] theorem Device.modCmd_tiles (tag : Nat) (f : Cmd → Cmd) : (d.modCmd tag f).tiles = d.tiles := rfl
@[simp] theorem Device.modCmd_mem (tag : Nat) (f : Cmd → Cmd) : (d.modCmd tag f).mem = d.mem := rfl
@[simp] theorem Device.modCmd_poison (tag : Nat) (f : Cmd → Cmd) : (d.modCmd tag f).poison = d.poison := rfl
@[simp] theorem Device.modCmd_host (tag : Nat) (f : Cmd → Cmd) : (d.modCmd tag f).host = d.host := rfl
@[simp] theorem Device.modCmd_bays (tag : Nat) (f : Cmd → Cmd) : (d.modCmd tag f).bays = d.bays := rfl
@[simp] theorem Device.modCmd_farCap (tag : Nat) (f : Cmd → Cmd) : (d.modCmd tag f).farCap = d.farCap := rfl
@[simp] theorem Device.modCmd_farState (tag : Nat) (f : Cmd → Cmd) : (d.modCmd tag f).farState = d.farState := rfl
@[simp] theorem Device.modCmd_ports (tag : Nat) (f : Cmd → Cmd) : (d.modCmd tag f).ports = d.ports := rfl
@[simp] theorem Device.modCmd_streams (tag : Nat) (f : Cmd → Cmd) : (d.modCmd tag f).streams = d.streams := rfl
@[simp] theorem Device.modCmd_curSet (tag : Nat) (f : Cmd → Cmd) : (d.modCmd tag f).curSet = d.curSet := rfl
@[simp] theorem Device.modCmd_verA (tag : Nat) (f : Cmd → Cmd) : (d.modCmd tag f).verA = d.verA := rfl
@[simp] theorem Device.modCmd_verB (tag : Nat) (f : Cmd → Cmd) : (d.modCmd tag f).verB = d.verB := rfl
@[simp] theorem Device.modCmd_pace (tag : Nat) (f : Cmd → Cmd) : (d.modCmd tag f).pace = d.pace := rfl
@[simp] theorem Device.modCmd_log (tag : Nat) (f : Cmd → Cmd) : (d.modCmd tag f).log = d.log := rfl
@[simp] theorem Device.modCmd_safety (tag : Nat) (f : Cmd → Cmd) : (d.modCmd tag f).safety = d.safety := rfl
@[simp] theorem Device.modCmd_flash (tag : Nat) (f : Cmd → Cmd) : (d.modCmd tag f).flash = d.flash := rfl
@[simp] theorem Device.modCmd_images (tag : Nat) (f : Cmd → Cmd) : (d.modCmd tag f).images = d.images := rfl
@[simp] theorem Device.modCmd_spdmStage (tag : Nat) (f : Cmd → Cmd) : (d.modCmd tag f).spdmStage = d.spdmStage := rfl
@[simp] theorem Device.modCmd_out (tag : Nat) (f : Cmd → Cmd) : (d.modCmd tag f).out = d.out := rfl
@[simp] theorem Device.modCmd_drawn (tag : Nat) (f : Cmd → Cmd) : (d.modCmd tag f).drawn = d.drawn := rfl

/-! ### withDict -/

@[simp] theorem Device.withDict_now (f : Dict → Dict) : (d.withDict f).now = d.now := rfl
@[simp] theorem Device.withDict_stepCounter (f : Dict → Dict) : (d.withDict f).stepCounter = d.stepCounter := rfl
@[simp] theorem Device.withDict_power (f : Dict → Dict) : (d.withDict f).power = d.power := rfl
@[simp] theorem Device.withDict_dict (f : Dict → Dict) : (d.withDict f).dict = f d.dict := rfl
@[simp] theorem Device.withDict_queues (f : Dict → Dict) : (d.withDict f).queues = d.queues := rfl
@[simp] theorem Device.withDict_fetched (f : Dict → Dict) : (d.withDict f).fetched = d.fetched := rfl
@[simp] theorem Device.withDict_lastPair (f : Dict → Dict) : (d.withDict f).lastPair = d.lastPair := rfl
@[simp] theorem Device.withDict_lastHigh (f : Dict → Dict) : (d.withDict f).lastHigh = d.lastHigh := rfl
@[simp] theorem Device.withDict_tagsFree (f : Dict → Dict) : (d.withDict f).tagsFree = d.tagsFree := rfl
@[simp] theorem Device.withDict_cmds (f : Dict → Dict) : (d.withDict f).cmds = d.cmds := rfl
@[simp] theorem Device.withDict_orderNext (f : Dict → Dict) : (d.withDict f).orderNext = d.orderNext := rfl
@[simp] theorem Device.withDict_events (f : Dict → Dict) : (d.withDict f).events = d.events := rfl
@[simp] theorem Device.withDict_ioBacklog (f : Dict → Dict) : (d.withDict f).ioBacklog = d.ioBacklog := rfl
@[simp] theorem Device.withDict_tiles (f : Dict → Dict) : (d.withDict f).tiles = d.tiles := rfl
@[simp] theorem Device.withDict_mem (f : Dict → Dict) : (d.withDict f).mem = d.mem := rfl
@[simp] theorem Device.withDict_poison (f : Dict → Dict) : (d.withDict f).poison = d.poison := rfl
@[simp] theorem Device.withDict_host (f : Dict → Dict) : (d.withDict f).host = d.host := rfl
@[simp] theorem Device.withDict_bays (f : Dict → Dict) : (d.withDict f).bays = d.bays := rfl
@[simp] theorem Device.withDict_farCap (f : Dict → Dict) : (d.withDict f).farCap = d.farCap := rfl
@[simp] theorem Device.withDict_farState (f : Dict → Dict) : (d.withDict f).farState = d.farState := rfl
@[simp] theorem Device.withDict_ports (f : Dict → Dict) : (d.withDict f).ports = d.ports := rfl
@[simp] theorem Device.withDict_streams (f : Dict → Dict) : (d.withDict f).streams = d.streams := rfl
@[simp] theorem Device.withDict_curSet (f : Dict → Dict) : (d.withDict f).curSet = d.curSet := rfl
@[simp] theorem Device.withDict_verA (f : Dict → Dict) : (d.withDict f).verA = d.verA := rfl
@[simp] theorem Device.withDict_verB (f : Dict → Dict) : (d.withDict f).verB = d.verB := rfl
@[simp] theorem Device.withDict_pace (f : Dict → Dict) : (d.withDict f).pace = d.pace := rfl
@[simp] theorem Device.withDict_log (f : Dict → Dict) : (d.withDict f).log = d.log := rfl
@[simp] theorem Device.withDict_safety (f : Dict → Dict) : (d.withDict f).safety = d.safety := rfl
@[simp] theorem Device.withDict_flash (f : Dict → Dict) : (d.withDict f).flash = d.flash := rfl
@[simp] theorem Device.withDict_images (f : Dict → Dict) : (d.withDict f).images = d.images := rfl
@[simp] theorem Device.withDict_spdmStage (f : Dict → Dict) : (d.withDict f).spdmStage = d.spdmStage := rfl
@[simp] theorem Device.withDict_out (f : Dict → Dict) : (d.withDict f).out = d.out := rfl
@[simp] theorem Device.withDict_drawn (f : Dict → Dict) : (d.withDict f).drawn = d.drawn := rfl

/-! ### withPower -/

@[simp] theorem Device.withPower_now (f : PowerDom → PowerDom) : (d.withPower f).now = d.now := rfl
@[simp] theorem Device.withPower_stepCounter (f : PowerDom → PowerDom) : (d.withPower f).stepCounter = d.stepCounter := rfl
@[simp] theorem Device.withPower_power (f : PowerDom → PowerDom) : (d.withPower f).power = f d.power := rfl
@[simp] theorem Device.withPower_dict (f : PowerDom → PowerDom) : (d.withPower f).dict = d.dict := rfl
@[simp] theorem Device.withPower_queues (f : PowerDom → PowerDom) : (d.withPower f).queues = d.queues := rfl
@[simp] theorem Device.withPower_fetched (f : PowerDom → PowerDom) : (d.withPower f).fetched = d.fetched := rfl
@[simp] theorem Device.withPower_lastPair (f : PowerDom → PowerDom) : (d.withPower f).lastPair = d.lastPair := rfl
@[simp] theorem Device.withPower_lastHigh (f : PowerDom → PowerDom) : (d.withPower f).lastHigh = d.lastHigh := rfl
@[simp] theorem Device.withPower_tagsFree (f : PowerDom → PowerDom) : (d.withPower f).tagsFree = d.tagsFree := rfl
@[simp] theorem Device.withPower_cmds (f : PowerDom → PowerDom) : (d.withPower f).cmds = d.cmds := rfl
@[simp] theorem Device.withPower_orderNext (f : PowerDom → PowerDom) : (d.withPower f).orderNext = d.orderNext := rfl
@[simp] theorem Device.withPower_events (f : PowerDom → PowerDom) : (d.withPower f).events = d.events := rfl
@[simp] theorem Device.withPower_ioBacklog (f : PowerDom → PowerDom) : (d.withPower f).ioBacklog = d.ioBacklog := rfl
@[simp] theorem Device.withPower_tiles (f : PowerDom → PowerDom) : (d.withPower f).tiles = d.tiles := rfl
@[simp] theorem Device.withPower_mem (f : PowerDom → PowerDom) : (d.withPower f).mem = d.mem := rfl
@[simp] theorem Device.withPower_poison (f : PowerDom → PowerDom) : (d.withPower f).poison = d.poison := rfl
@[simp] theorem Device.withPower_host (f : PowerDom → PowerDom) : (d.withPower f).host = d.host := rfl
@[simp] theorem Device.withPower_bays (f : PowerDom → PowerDom) : (d.withPower f).bays = d.bays := rfl
@[simp] theorem Device.withPower_farCap (f : PowerDom → PowerDom) : (d.withPower f).farCap = d.farCap := rfl
@[simp] theorem Device.withPower_farState (f : PowerDom → PowerDom) : (d.withPower f).farState = d.farState := rfl
@[simp] theorem Device.withPower_ports (f : PowerDom → PowerDom) : (d.withPower f).ports = d.ports := rfl
@[simp] theorem Device.withPower_streams (f : PowerDom → PowerDom) : (d.withPower f).streams = d.streams := rfl
@[simp] theorem Device.withPower_curSet (f : PowerDom → PowerDom) : (d.withPower f).curSet = d.curSet := rfl
@[simp] theorem Device.withPower_verA (f : PowerDom → PowerDom) : (d.withPower f).verA = d.verA := rfl
@[simp] theorem Device.withPower_verB (f : PowerDom → PowerDom) : (d.withPower f).verB = d.verB := rfl
@[simp] theorem Device.withPower_pace (f : PowerDom → PowerDom) : (d.withPower f).pace = d.pace := rfl
@[simp] theorem Device.withPower_log (f : PowerDom → PowerDom) : (d.withPower f).log = d.log := rfl
@[simp] theorem Device.withPower_safety (f : PowerDom → PowerDom) : (d.withPower f).safety = d.safety := rfl
@[simp] theorem Device.withPower_flash (f : PowerDom → PowerDom) : (d.withPower f).flash = d.flash := rfl
@[simp] theorem Device.withPower_images (f : PowerDom → PowerDom) : (d.withPower f).images = d.images := rfl
@[simp] theorem Device.withPower_spdmStage (f : PowerDom → PowerDom) : (d.withPower f).spdmStage = d.spdmStage := rfl
@[simp] theorem Device.withPower_out (f : PowerDom → PowerDom) : (d.withPower f).out = d.out := rfl
@[simp] theorem Device.withPower_drawn (f : PowerDom → PowerDom) : (d.withPower f).drawn = d.drawn := rfl

/-! ### withSafety -/

@[simp] theorem Device.withSafety_now (f : Safety → Safety) : (d.withSafety f).now = d.now := rfl
@[simp] theorem Device.withSafety_stepCounter (f : Safety → Safety) : (d.withSafety f).stepCounter = d.stepCounter := rfl
@[simp] theorem Device.withSafety_power (f : Safety → Safety) : (d.withSafety f).power = d.power := rfl
@[simp] theorem Device.withSafety_dict (f : Safety → Safety) : (d.withSafety f).dict = d.dict := rfl
@[simp] theorem Device.withSafety_queues (f : Safety → Safety) : (d.withSafety f).queues = d.queues := rfl
@[simp] theorem Device.withSafety_fetched (f : Safety → Safety) : (d.withSafety f).fetched = d.fetched := rfl
@[simp] theorem Device.withSafety_lastPair (f : Safety → Safety) : (d.withSafety f).lastPair = d.lastPair := rfl
@[simp] theorem Device.withSafety_lastHigh (f : Safety → Safety) : (d.withSafety f).lastHigh = d.lastHigh := rfl
@[simp] theorem Device.withSafety_tagsFree (f : Safety → Safety) : (d.withSafety f).tagsFree = d.tagsFree := rfl
@[simp] theorem Device.withSafety_cmds (f : Safety → Safety) : (d.withSafety f).cmds = d.cmds := rfl
@[simp] theorem Device.withSafety_orderNext (f : Safety → Safety) : (d.withSafety f).orderNext = d.orderNext := rfl
@[simp] theorem Device.withSafety_events (f : Safety → Safety) : (d.withSafety f).events = d.events := rfl
@[simp] theorem Device.withSafety_ioBacklog (f : Safety → Safety) : (d.withSafety f).ioBacklog = d.ioBacklog := rfl
@[simp] theorem Device.withSafety_tiles (f : Safety → Safety) : (d.withSafety f).tiles = d.tiles := rfl
@[simp] theorem Device.withSafety_mem (f : Safety → Safety) : (d.withSafety f).mem = d.mem := rfl
@[simp] theorem Device.withSafety_poison (f : Safety → Safety) : (d.withSafety f).poison = d.poison := rfl
@[simp] theorem Device.withSafety_host (f : Safety → Safety) : (d.withSafety f).host = d.host := rfl
@[simp] theorem Device.withSafety_bays (f : Safety → Safety) : (d.withSafety f).bays = d.bays := rfl
@[simp] theorem Device.withSafety_farCap (f : Safety → Safety) : (d.withSafety f).farCap = d.farCap := rfl
@[simp] theorem Device.withSafety_farState (f : Safety → Safety) : (d.withSafety f).farState = d.farState := rfl
@[simp] theorem Device.withSafety_ports (f : Safety → Safety) : (d.withSafety f).ports = d.ports := rfl
@[simp] theorem Device.withSafety_streams (f : Safety → Safety) : (d.withSafety f).streams = d.streams := rfl
@[simp] theorem Device.withSafety_curSet (f : Safety → Safety) : (d.withSafety f).curSet = d.curSet := rfl
@[simp] theorem Device.withSafety_verA (f : Safety → Safety) : (d.withSafety f).verA = d.verA := rfl
@[simp] theorem Device.withSafety_verB (f : Safety → Safety) : (d.withSafety f).verB = d.verB := rfl
@[simp] theorem Device.withSafety_pace (f : Safety → Safety) : (d.withSafety f).pace = d.pace := rfl
@[simp] theorem Device.withSafety_log (f : Safety → Safety) : (d.withSafety f).log = d.log := rfl
@[simp] theorem Device.withSafety_safety (f : Safety → Safety) : (d.withSafety f).safety = f d.safety := rfl
@[simp] theorem Device.withSafety_flash (f : Safety → Safety) : (d.withSafety f).flash = d.flash := rfl
@[simp] theorem Device.withSafety_images (f : Safety → Safety) : (d.withSafety f).images = d.images := rfl
@[simp] theorem Device.withSafety_spdmStage (f : Safety → Safety) : (d.withSafety f).spdmStage = d.spdmStage := rfl
@[simp] theorem Device.withSafety_out (f : Safety → Safety) : (d.withSafety f).out = d.out := rfl
@[simp] theorem Device.withSafety_drawn (f : Safety → Safety) : (d.withSafety f).drawn = d.drawn := rfl

/-! ### withPace -/

@[simp] theorem Device.withPace_now (f : Pace → Pace) : (d.withPace f).now = d.now := rfl
@[simp] theorem Device.withPace_stepCounter (f : Pace → Pace) : (d.withPace f).stepCounter = d.stepCounter := rfl
@[simp] theorem Device.withPace_power (f : Pace → Pace) : (d.withPace f).power = d.power := rfl
@[simp] theorem Device.withPace_dict (f : Pace → Pace) : (d.withPace f).dict = d.dict := rfl
@[simp] theorem Device.withPace_queues (f : Pace → Pace) : (d.withPace f).queues = d.queues := rfl
@[simp] theorem Device.withPace_fetched (f : Pace → Pace) : (d.withPace f).fetched = d.fetched := rfl
@[simp] theorem Device.withPace_lastPair (f : Pace → Pace) : (d.withPace f).lastPair = d.lastPair := rfl
@[simp] theorem Device.withPace_lastHigh (f : Pace → Pace) : (d.withPace f).lastHigh = d.lastHigh := rfl
@[simp] theorem Device.withPace_tagsFree (f : Pace → Pace) : (d.withPace f).tagsFree = d.tagsFree := rfl
@[simp] theorem Device.withPace_cmds (f : Pace → Pace) : (d.withPace f).cmds = d.cmds := rfl
@[simp] theorem Device.withPace_orderNext (f : Pace → Pace) : (d.withPace f).orderNext = d.orderNext := rfl
@[simp] theorem Device.withPace_events (f : Pace → Pace) : (d.withPace f).events = d.events := rfl
@[simp] theorem Device.withPace_ioBacklog (f : Pace → Pace) : (d.withPace f).ioBacklog = d.ioBacklog := rfl
@[simp] theorem Device.withPace_tiles (f : Pace → Pace) : (d.withPace f).tiles = d.tiles := rfl
@[simp] theorem Device.withPace_mem (f : Pace → Pace) : (d.withPace f).mem = d.mem := rfl
@[simp] theorem Device.withPace_poison (f : Pace → Pace) : (d.withPace f).poison = d.poison := rfl
@[simp] theorem Device.withPace_host (f : Pace → Pace) : (d.withPace f).host = d.host := rfl
@[simp] theorem Device.withPace_bays (f : Pace → Pace) : (d.withPace f).bays = d.bays := rfl
@[simp] theorem Device.withPace_farCap (f : Pace → Pace) : (d.withPace f).farCap = d.farCap := rfl
@[simp] theorem Device.withPace_farState (f : Pace → Pace) : (d.withPace f).farState = d.farState := rfl
@[simp] theorem Device.withPace_ports (f : Pace → Pace) : (d.withPace f).ports = d.ports := rfl
@[simp] theorem Device.withPace_streams (f : Pace → Pace) : (d.withPace f).streams = d.streams := rfl
@[simp] theorem Device.withPace_curSet (f : Pace → Pace) : (d.withPace f).curSet = d.curSet := rfl
@[simp] theorem Device.withPace_verA (f : Pace → Pace) : (d.withPace f).verA = d.verA := rfl
@[simp] theorem Device.withPace_verB (f : Pace → Pace) : (d.withPace f).verB = d.verB := rfl
@[simp] theorem Device.withPace_pace (f : Pace → Pace) : (d.withPace f).pace = f d.pace := rfl
@[simp] theorem Device.withPace_log (f : Pace → Pace) : (d.withPace f).log = d.log := rfl
@[simp] theorem Device.withPace_safety (f : Pace → Pace) : (d.withPace f).safety = d.safety := rfl
@[simp] theorem Device.withPace_flash (f : Pace → Pace) : (d.withPace f).flash = d.flash := rfl
@[simp] theorem Device.withPace_images (f : Pace → Pace) : (d.withPace f).images = d.images := rfl
@[simp] theorem Device.withPace_spdmStage (f : Pace → Pace) : (d.withPace f).spdmStage = d.spdmStage := rfl
@[simp] theorem Device.withPace_out (f : Pace → Pace) : (d.withPace f).out = d.out := rfl
@[simp] theorem Device.withPace_drawn (f : Pace → Pace) : (d.withPace f).drawn = d.drawn := rfl

/-! ### withOut -/

@[simp] theorem Device.withOut_now (f : Outputs → Outputs) : (d.withOut f).now = d.now := rfl
@[simp] theorem Device.withOut_stepCounter (f : Outputs → Outputs) : (d.withOut f).stepCounter = d.stepCounter := rfl
@[simp] theorem Device.withOut_power (f : Outputs → Outputs) : (d.withOut f).power = d.power := rfl
@[simp] theorem Device.withOut_dict (f : Outputs → Outputs) : (d.withOut f).dict = d.dict := rfl
@[simp] theorem Device.withOut_queues (f : Outputs → Outputs) : (d.withOut f).queues = d.queues := rfl
@[simp] theorem Device.withOut_fetched (f : Outputs → Outputs) : (d.withOut f).fetched = d.fetched := rfl
@[simp] theorem Device.withOut_lastPair (f : Outputs → Outputs) : (d.withOut f).lastPair = d.lastPair := rfl
@[simp] theorem Device.withOut_lastHigh (f : Outputs → Outputs) : (d.withOut f).lastHigh = d.lastHigh := rfl
@[simp] theorem Device.withOut_tagsFree (f : Outputs → Outputs) : (d.withOut f).tagsFree = d.tagsFree := rfl
@[simp] theorem Device.withOut_cmds (f : Outputs → Outputs) : (d.withOut f).cmds = d.cmds := rfl
@[simp] theorem Device.withOut_orderNext (f : Outputs → Outputs) : (d.withOut f).orderNext = d.orderNext := rfl
@[simp] theorem Device.withOut_events (f : Outputs → Outputs) : (d.withOut f).events = d.events := rfl
@[simp] theorem Device.withOut_ioBacklog (f : Outputs → Outputs) : (d.withOut f).ioBacklog = d.ioBacklog := rfl
@[simp] theorem Device.withOut_tiles (f : Outputs → Outputs) : (d.withOut f).tiles = d.tiles := rfl
@[simp] theorem Device.withOut_mem (f : Outputs → Outputs) : (d.withOut f).mem = d.mem := rfl
@[simp] theorem Device.withOut_poison (f : Outputs → Outputs) : (d.withOut f).poison = d.poison := rfl
@[simp] theorem Device.withOut_host (f : Outputs → Outputs) : (d.withOut f).host = d.host := rfl
@[simp] theorem Device.withOut_bays (f : Outputs → Outputs) : (d.withOut f).bays = d.bays := rfl
@[simp] theorem Device.withOut_farCap (f : Outputs → Outputs) : (d.withOut f).farCap = d.farCap := rfl
@[simp] theorem Device.withOut_farState (f : Outputs → Outputs) : (d.withOut f).farState = d.farState := rfl
@[simp] theorem Device.withOut_ports (f : Outputs → Outputs) : (d.withOut f).ports = d.ports := rfl
@[simp] theorem Device.withOut_streams (f : Outputs → Outputs) : (d.withOut f).streams = d.streams := rfl
@[simp] theorem Device.withOut_curSet (f : Outputs → Outputs) : (d.withOut f).curSet = d.curSet := rfl
@[simp] theorem Device.withOut_verA (f : Outputs → Outputs) : (d.withOut f).verA = d.verA := rfl
@[simp] theorem Device.withOut_verB (f : Outputs → Outputs) : (d.withOut f).verB = d.verB := rfl
@[simp] theorem Device.withOut_pace (f : Outputs → Outputs) : (d.withOut f).pace = d.pace := rfl
@[simp] theorem Device.withOut_log (f : Outputs → Outputs) : (d.withOut f).log = d.log := rfl
@[simp] theorem Device.withOut_safety (f : Outputs → Outputs) : (d.withOut f).safety = d.safety := rfl
@[simp] theorem Device.withOut_flash (f : Outputs → Outputs) : (d.withOut f).flash = d.flash := rfl
@[simp] theorem Device.withOut_images (f : Outputs → Outputs) : (d.withOut f).images = d.images := rfl
@[simp] theorem Device.withOut_spdmStage (f : Outputs → Outputs) : (d.withOut f).spdmStage = d.spdmStage := rfl
@[simp] theorem Device.withOut_out (f : Outputs → Outputs) : (d.withOut f).out = f d.out := rfl
@[simp] theorem Device.withOut_drawn (f : Outputs → Outputs) : (d.withOut f).drawn = d.drawn := rfl

/-! ### withImages -/

@[simp] theorem Device.withImages_now (f : Images → Images) : (d.withImages f).now = d.now := rfl
@[simp] theorem Device.withImages_stepCounter (f : Images → Images) : (d.withImages f).stepCounter = d.stepCounter := rfl
@[simp] theorem Device.withImages_power (f : Images → Images) : (d.withImages f).power = d.power := rfl
@[simp] theorem Device.withImages_dict (f : Images → Images) : (d.withImages f).dict = d.dict := rfl
@[simp] theorem Device.withImages_queues (f : Images → Images) : (d.withImages f).queues = d.queues := rfl
@[simp] theorem Device.withImages_fetched (f : Images → Images) : (d.withImages f).fetched = d.fetched := rfl
@[simp] theorem Device.withImages_lastPair (f : Images → Images) : (d.withImages f).lastPair = d.lastPair := rfl
@[simp] theorem Device.withImages_lastHigh (f : Images → Images) : (d.withImages f).lastHigh = d.lastHigh := rfl
@[simp] theorem Device.withImages_tagsFree (f : Images → Images) : (d.withImages f).tagsFree = d.tagsFree := rfl
@[simp] theorem Device.withImages_cmds (f : Images → Images) : (d.withImages f).cmds = d.cmds := rfl
@[simp] theorem Device.withImages_orderNext (f : Images → Images) : (d.withImages f).orderNext = d.orderNext := rfl
@[simp] theorem Device.withImages_events (f : Images → Images) : (d.withImages f).events = d.events := rfl
@[simp] theorem Device.withImages_ioBacklog (f : Images → Images) : (d.withImages f).ioBacklog = d.ioBacklog := rfl
@[simp] theorem Device.withImages_tiles (f : Images → Images) : (d.withImages f).tiles = d.tiles := rfl
@[simp] theorem Device.withImages_mem (f : Images → Images) : (d.withImages f).mem = d.mem := rfl
@[simp] theorem Device.withImages_poison (f : Images → Images) : (d.withImages f).poison = d.poison := rfl
@[simp] theorem Device.withImages_host (f : Images → Images) : (d.withImages f).host = d.host := rfl
@[simp] theorem Device.withImages_bays (f : Images → Images) : (d.withImages f).bays = d.bays := rfl
@[simp] theorem Device.withImages_farCap (f : Images → Images) : (d.withImages f).farCap = d.farCap := rfl
@[simp] theorem Device.withImages_farState (f : Images → Images) : (d.withImages f).farState = d.farState := rfl
@[simp] theorem Device.withImages_ports (f : Images → Images) : (d.withImages f).ports = d.ports := rfl
@[simp] theorem Device.withImages_streams (f : Images → Images) : (d.withImages f).streams = d.streams := rfl
@[simp] theorem Device.withImages_curSet (f : Images → Images) : (d.withImages f).curSet = d.curSet := rfl
@[simp] theorem Device.withImages_verA (f : Images → Images) : (d.withImages f).verA = d.verA := rfl
@[simp] theorem Device.withImages_verB (f : Images → Images) : (d.withImages f).verB = d.verB := rfl
@[simp] theorem Device.withImages_pace (f : Images → Images) : (d.withImages f).pace = d.pace := rfl
@[simp] theorem Device.withImages_log (f : Images → Images) : (d.withImages f).log = d.log := rfl
@[simp] theorem Device.withImages_safety (f : Images → Images) : (d.withImages f).safety = d.safety := rfl
@[simp] theorem Device.withImages_flash (f : Images → Images) : (d.withImages f).flash = d.flash := rfl
@[simp] theorem Device.withImages_images (f : Images → Images) : (d.withImages f).images = f d.images := rfl
@[simp] theorem Device.withImages_spdmStage (f : Images → Images) : (d.withImages f).spdmStage = d.spdmStage := rfl
@[simp] theorem Device.withImages_out (f : Images → Images) : (d.withImages f).out = d.out := rfl
@[simp] theorem Device.withImages_drawn (f : Images → Images) : (d.withImages f).drawn = d.drawn := rfl

/-! ### drew -/

@[simp] theorem Device.drew_now (n : Nat) : (d.drew n).now = d.now := rfl
@[simp] theorem Device.drew_stepCounter (n : Nat) : (d.drew n).stepCounter = d.stepCounter := rfl
@[simp] theorem Device.drew_power (n : Nat) : (d.drew n).power = d.power := rfl
@[simp] theorem Device.drew_dict (n : Nat) : (d.drew n).dict = d.dict := rfl
@[simp] theorem Device.drew_queues (n : Nat) : (d.drew n).queues = d.queues := rfl
@[simp] theorem Device.drew_fetched (n : Nat) : (d.drew n).fetched = d.fetched := rfl
@[simp] theorem Device.drew_lastPair (n : Nat) : (d.drew n).lastPair = d.lastPair := rfl
@[simp] theorem Device.drew_lastHigh (n : Nat) : (d.drew n).lastHigh = d.lastHigh := rfl
@[simp] theorem Device.drew_tagsFree (n : Nat) : (d.drew n).tagsFree = d.tagsFree := rfl
@[simp] theorem Device.drew_cmds (n : Nat) : (d.drew n).cmds = d.cmds := rfl
@[simp] theorem Device.drew_orderNext (n : Nat) : (d.drew n).orderNext = d.orderNext := rfl
@[simp] theorem Device.drew_events (n : Nat) : (d.drew n).events = d.events := rfl
@[simp] theorem Device.drew_ioBacklog (n : Nat) : (d.drew n).ioBacklog = d.ioBacklog := rfl
@[simp] theorem Device.drew_tiles (n : Nat) : (d.drew n).tiles = d.tiles := rfl
@[simp] theorem Device.drew_mem (n : Nat) : (d.drew n).mem = d.mem := rfl
@[simp] theorem Device.drew_poison (n : Nat) : (d.drew n).poison = d.poison := rfl
@[simp] theorem Device.drew_host (n : Nat) : (d.drew n).host = d.host := rfl
@[simp] theorem Device.drew_bays (n : Nat) : (d.drew n).bays = d.bays := rfl
@[simp] theorem Device.drew_farCap (n : Nat) : (d.drew n).farCap = d.farCap := rfl
@[simp] theorem Device.drew_farState (n : Nat) : (d.drew n).farState = d.farState := rfl
@[simp] theorem Device.drew_ports (n : Nat) : (d.drew n).ports = d.ports := rfl
@[simp] theorem Device.drew_streams (n : Nat) : (d.drew n).streams = d.streams := rfl
@[simp] theorem Device.drew_curSet (n : Nat) : (d.drew n).curSet = d.curSet := rfl
@[simp] theorem Device.drew_verA (n : Nat) : (d.drew n).verA = d.verA := rfl
@[simp] theorem Device.drew_verB (n : Nat) : (d.drew n).verB = d.verB := rfl
@[simp] theorem Device.drew_pace (n : Nat) : (d.drew n).pace = d.pace := rfl
@[simp] theorem Device.drew_log (n : Nat) : (d.drew n).log = d.log := rfl
@[simp] theorem Device.drew_safety (n : Nat) : (d.drew n).safety = d.safety := rfl
@[simp] theorem Device.drew_flash (n : Nat) : (d.drew n).flash = d.flash := rfl
@[simp] theorem Device.drew_images (n : Nat) : (d.drew n).images = d.images := rfl
@[simp] theorem Device.drew_spdmStage (n : Nat) : (d.drew n).spdmStage = d.spdmStage := rfl
@[simp] theorem Device.drew_out (n : Nat) : (d.drew n).out = d.out := rfl
@[simp] theorem Device.drew_drawn (n : Nat) : (d.drew n).drawn = d.drawn + n := rfl

/-! ### count -/

@[simp] theorem Device.count_now (a n : Nat) : (d.count a n).now = d.now := rfl
@[simp] theorem Device.count_stepCounter (a n : Nat) : (d.count a n).stepCounter = d.stepCounter := rfl
@[simp] theorem Device.count_power (a n : Nat) : (d.count a n).power = d.power := rfl
@[simp] theorem Device.count_dict (a n : Nat) : (d.count a n).dict = d.dict := rfl
@[simp] theorem Device.count_queues (a n : Nat) : (d.count a n).queues = d.queues := rfl
@[simp] theorem Device.count_fetched (a n : Nat) : (d.count a n).fetched = d.fetched := rfl
@[simp] theorem Device.count_lastPair (a n : Nat) : (d.count a n).lastPair = d.lastPair := rfl
@[simp] theorem Device.count_lastHigh (a n : Nat) : (d.count a n).lastHigh = d.lastHigh := rfl
@[simp] theorem Device.count_tagsFree (a n : Nat) : (d.count a n).tagsFree = d.tagsFree := rfl
@[simp] theorem Device.count_cmds (a n : Nat) : (d.count a n).cmds = d.cmds := rfl
@[simp] theorem Device.count_orderNext (a n : Nat) : (d.count a n).orderNext = d.orderNext := rfl
@[simp] theorem Device.count_events (a n : Nat) : (d.count a n).events = d.events := rfl
@[simp] theorem Device.count_ioBacklog (a n : Nat) : (d.count a n).ioBacklog = d.ioBacklog := rfl
@[simp] theorem Device.count_tiles (a n : Nat) : (d.count a n).tiles = d.tiles := rfl
@[simp] theorem Device.count_mem (a n : Nat) : (d.count a n).mem = d.mem := rfl
@[simp] theorem Device.count_poison (a n : Nat) : (d.count a n).poison = d.poison := rfl
@[simp] theorem Device.count_host (a n : Nat) : (d.count a n).host = d.host := rfl
@[simp] theorem Device.count_bays (a n : Nat) : (d.count a n).bays = d.bays := rfl
@[simp] theorem Device.count_farCap (a n : Nat) : (d.count a n).farCap = d.farCap := rfl
@[simp] theorem Device.count_farState (a n : Nat) : (d.count a n).farState = d.farState := rfl
@[simp] theorem Device.count_ports (a n : Nat) : (d.count a n).ports = d.ports := rfl
@[simp] theorem Device.count_streams (a n : Nat) : (d.count a n).streams = d.streams := rfl
@[simp] theorem Device.count_curSet (a n : Nat) : (d.count a n).curSet = d.curSet := rfl
@[simp] theorem Device.count_verA (a n : Nat) : (d.count a n).verA = d.verA := rfl
@[simp] theorem Device.count_verB (a n : Nat) : (d.count a n).verB = d.verB := rfl
@[simp] theorem Device.count_pace (a n : Nat) : (d.count a n).pace = d.pace := rfl
@[simp] theorem Device.count_log (a n : Nat) : (d.count a n).log = d.log := rfl
@[simp] theorem Device.count_safety (a n : Nat) : (d.count a n).safety = { d.safety with counters := d.safety.counters.upd 0 a fun v => stopAdd 64 v n } := rfl
@[simp] theorem Device.count_flash (a n : Nat) : (d.count a n).flash = d.flash := rfl
@[simp] theorem Device.count_images (a n : Nat) : (d.count a n).images = d.images := rfl
@[simp] theorem Device.count_spdmStage (a n : Nat) : (d.count a n).spdmStage = d.spdmStage := rfl
@[simp] theorem Device.count_out (a n : Nat) : (d.count a n).out = d.out := rfl
@[simp] theorem Device.count_drawn (a n : Nat) : (d.count a n).drawn = d.drawn := rfl

/-! ### touch -/

@[simp] theorem Device.touch_now (a : Nat) : (d.touch a).now = d.now := rfl
@[simp] theorem Device.touch_stepCounter (a : Nat) : (d.touch a).stepCounter = d.stepCounter := rfl
@[simp] theorem Device.touch_power (a : Nat) : (d.touch a).power = d.power := rfl
@[simp] theorem Device.touch_dict (a : Nat) : (d.touch a).dict = { d.dict with gens := d.dict.gens.upd 0 a (· + 1) } := rfl
@[simp] theorem Device.touch_queues (a : Nat) : (d.touch a).queues = d.queues := rfl
@[simp] theorem Device.touch_fetched (a : Nat) : (d.touch a).fetched = d.fetched := rfl
@[simp] theorem Device.touch_lastPair (a : Nat) : (d.touch a).lastPair = d.lastPair := rfl
@[simp] theorem Device.touch_lastHigh (a : Nat) : (d.touch a).lastHigh = d.lastHigh := rfl
@[simp] theorem Device.touch_tagsFree (a : Nat) : (d.touch a).tagsFree = d.tagsFree := rfl
@[simp] theorem Device.touch_cmds (a : Nat) : (d.touch a).cmds = d.cmds := rfl
@[simp] theorem Device.touch_orderNext (a : Nat) : (d.touch a).orderNext = d.orderNext := rfl
@[simp] theorem Device.touch_events (a : Nat) : (d.touch a).events = d.events := rfl
@[simp] theorem Device.touch_ioBacklog (a : Nat) : (d.touch a).ioBacklog = d.ioBacklog := rfl
@[simp] theorem Device.touch_tiles (a : Nat) : (d.touch a).tiles = d.tiles := rfl
@[simp] theorem Device.touch_mem (a : Nat) : (d.touch a).mem = d.mem := rfl
@[simp] theorem Device.touch_poison (a : Nat) : (d.touch a).poison = d.poison := rfl
@[simp] theorem Device.touch_host (a : Nat) : (d.touch a).host = d.host := rfl
@[simp] theorem Device.touch_bays (a : Nat) : (d.touch a).bays = d.bays := rfl
@[simp] theorem Device.touch_farCap (a : Nat) : (d.touch a).farCap = d.farCap := rfl
@[simp] theorem Device.touch_farState (a : Nat) : (d.touch a).farState = d.farState := rfl
@[simp] theorem Device.touch_ports (a : Nat) : (d.touch a).ports = d.ports := rfl
@[simp] theorem Device.touch_streams (a : Nat) : (d.touch a).streams = d.streams := rfl
@[simp] theorem Device.touch_curSet (a : Nat) : (d.touch a).curSet = d.curSet := rfl
@[simp] theorem Device.touch_verA (a : Nat) : (d.touch a).verA = d.verA := rfl
@[simp] theorem Device.touch_verB (a : Nat) : (d.touch a).verB = d.verB := rfl
@[simp] theorem Device.touch_pace (a : Nat) : (d.touch a).pace = d.pace := rfl
@[simp] theorem Device.touch_log (a : Nat) : (d.touch a).log = d.log := rfl
@[simp] theorem Device.touch_safety (a : Nat) : (d.touch a).safety = d.safety := rfl
@[simp] theorem Device.touch_flash (a : Nat) : (d.touch a).flash = d.flash := rfl
@[simp] theorem Device.touch_images (a : Nat) : (d.touch a).images = d.images := rfl
@[simp] theorem Device.touch_spdmStage (a : Nat) : (d.touch a).spdmStage = d.spdmStage := rfl
@[simp] theorem Device.touch_out (a : Nat) : (d.touch a).out = d.out := rfl
@[simp] theorem Device.touch_drawn (a : Nat) : (d.touch a).drawn = d.drawn := rfl

/-! ### rungSeen -/

@[simp] theorem Device.rungSeen_now (n : Nat) : (d.rungSeen n).now = d.now := rfl
@[simp] theorem Device.rungSeen_stepCounter (n : Nat) : (d.rungSeen n).stepCounter = d.stepCounter := rfl
@[simp] theorem Device.rungSeen_power (n : Nat) : (d.rungSeen n).power = d.power := rfl
@[simp] theorem Device.rungSeen_dict (n : Nat) : (d.rungSeen n).dict = d.dict := rfl
@[simp] theorem Device.rungSeen_queues (n : Nat) : (d.rungSeen n).queues = d.queues := rfl
@[simp] theorem Device.rungSeen_fetched (n : Nat) : (d.rungSeen n).fetched = d.fetched := rfl
@[simp] theorem Device.rungSeen_lastPair (n : Nat) : (d.rungSeen n).lastPair = d.lastPair := rfl
@[simp] theorem Device.rungSeen_lastHigh (n : Nat) : (d.rungSeen n).lastHigh = d.lastHigh := rfl
@[simp] theorem Device.rungSeen_tagsFree (n : Nat) : (d.rungSeen n).tagsFree = d.tagsFree := rfl
@[simp] theorem Device.rungSeen_cmds (n : Nat) : (d.rungSeen n).cmds = d.cmds := rfl
@[simp] theorem Device.rungSeen_orderNext (n : Nat) : (d.rungSeen n).orderNext = d.orderNext := rfl
@[simp] theorem Device.rungSeen_events (n : Nat) : (d.rungSeen n).events = d.events := rfl
@[simp] theorem Device.rungSeen_ioBacklog (n : Nat) : (d.rungSeen n).ioBacklog = d.ioBacklog := rfl
@[simp] theorem Device.rungSeen_tiles (n : Nat) : (d.rungSeen n).tiles = d.tiles := rfl
@[simp] theorem Device.rungSeen_mem (n : Nat) : (d.rungSeen n).mem = d.mem := rfl
@[simp] theorem Device.rungSeen_poison (n : Nat) : (d.rungSeen n).poison = d.poison := rfl
@[simp] theorem Device.rungSeen_host (n : Nat) : (d.rungSeen n).host = d.host := rfl
@[simp] theorem Device.rungSeen_bays (n : Nat) : (d.rungSeen n).bays = d.bays := rfl
@[simp] theorem Device.rungSeen_farCap (n : Nat) : (d.rungSeen n).farCap = d.farCap := rfl
@[simp] theorem Device.rungSeen_farState (n : Nat) : (d.rungSeen n).farState = d.farState := rfl
@[simp] theorem Device.rungSeen_ports (n : Nat) : (d.rungSeen n).ports = d.ports := rfl
@[simp] theorem Device.rungSeen_streams (n : Nat) : (d.rungSeen n).streams = d.streams := rfl
@[simp] theorem Device.rungSeen_curSet (n : Nat) : (d.rungSeen n).curSet = d.curSet := rfl
@[simp] theorem Device.rungSeen_verA (n : Nat) : (d.rungSeen n).verA = d.verA := rfl
@[simp] theorem Device.rungSeen_verB (n : Nat) : (d.rungSeen n).verB = d.verB := rfl
@[simp] theorem Device.rungSeen_pace (n : Nat) : (d.rungSeen n).pace = d.pace := rfl
@[simp] theorem Device.rungSeen_log (n : Nat) : (d.rungSeen n).log = d.log := rfl
@[simp] theorem Device.rungSeen_safety (n : Nat) : (d.rungSeen n).safety = { d.safety with highestRung := max d.safety.highestRung n } := rfl
@[simp] theorem Device.rungSeen_flash (n : Nat) : (d.rungSeen n).flash = d.flash := rfl
@[simp] theorem Device.rungSeen_images (n : Nat) : (d.rungSeen n).images = d.images := rfl
@[simp] theorem Device.rungSeen_spdmStage (n : Nat) : (d.rungSeen n).spdmStage = d.spdmStage := rfl
@[simp] theorem Device.rungSeen_out (n : Nat) : (d.rungSeen n).out = d.out := rfl
@[simp] theorem Device.rungSeen_drawn (n : Nat) : (d.rungSeen n).drawn = d.drawn := rfl

/-! ### clearTiles -/

@[simp] theorem Device.clearTiles_now (k : Nat) : (d.clearTiles k).now = d.now := rfl
@[simp] theorem Device.clearTiles_stepCounter (k : Nat) : (d.clearTiles k).stepCounter = d.stepCounter := rfl
@[simp] theorem Device.clearTiles_power (k : Nat) : (d.clearTiles k).power = d.power := rfl
@[simp] theorem Device.clearTiles_dict (k : Nat) : (d.clearTiles k).dict = d.dict := rfl
@[simp] theorem Device.clearTiles_queues (k : Nat) : (d.clearTiles k).queues = d.queues := rfl
@[simp] theorem Device.clearTiles_fetched (k : Nat) : (d.clearTiles k).fetched = d.fetched := rfl
@[simp] theorem Device.clearTiles_lastPair (k : Nat) : (d.clearTiles k).lastPair = d.lastPair := rfl
@[simp] theorem Device.clearTiles_lastHigh (k : Nat) : (d.clearTiles k).lastHigh = d.lastHigh := rfl
@[simp] theorem Device.clearTiles_tagsFree (k : Nat) : (d.clearTiles k).tagsFree = d.tagsFree := rfl
@[simp] theorem Device.clearTiles_cmds (k : Nat) : (d.clearTiles k).cmds = d.cmds := rfl
@[simp] theorem Device.clearTiles_orderNext (k : Nat) : (d.clearTiles k).orderNext = d.orderNext := rfl
@[simp] theorem Device.clearTiles_events (k : Nat) : (d.clearTiles k).events = d.events := rfl
@[simp] theorem Device.clearTiles_ioBacklog (k : Nat) : (d.clearTiles k).ioBacklog = d.ioBacklog := rfl
@[simp] theorem Device.clearTiles_tiles (k : Nat) : (d.clearTiles k).tiles = d.tiles.filter fun p => p.1 / 1280 != k := rfl
@[simp] theorem Device.clearTiles_mem (k : Nat) : (d.clearTiles k).mem = d.mem := rfl
@[simp] theorem Device.clearTiles_poison (k : Nat) : (d.clearTiles k).poison = d.poison := rfl
@[simp] theorem Device.clearTiles_host (k : Nat) : (d.clearTiles k).host = d.host := rfl
@[simp] theorem Device.clearTiles_bays (k : Nat) : (d.clearTiles k).bays = d.bays := rfl
@[simp] theorem Device.clearTiles_farCap (k : Nat) : (d.clearTiles k).farCap = d.farCap := rfl
@[simp] theorem Device.clearTiles_farState (k : Nat) : (d.clearTiles k).farState = d.farState := rfl
@[simp] theorem Device.clearTiles_ports (k : Nat) : (d.clearTiles k).ports = d.ports := rfl
@[simp] theorem Device.clearTiles_streams (k : Nat) : (d.clearTiles k).streams = d.streams := rfl
@[simp] theorem Device.clearTiles_curSet (k : Nat) : (d.clearTiles k).curSet = d.curSet := rfl
@[simp] theorem Device.clearTiles_verA (k : Nat) : (d.clearTiles k).verA = d.verA := rfl
@[simp] theorem Device.clearTiles_verB (k : Nat) : (d.clearTiles k).verB = d.verB := rfl
@[simp] theorem Device.clearTiles_pace (k : Nat) : (d.clearTiles k).pace = d.pace := rfl
@[simp] theorem Device.clearTiles_log (k : Nat) : (d.clearTiles k).log = d.log := rfl
@[simp] theorem Device.clearTiles_safety (k : Nat) : (d.clearTiles k).safety = d.safety := rfl
@[simp] theorem Device.clearTiles_flash (k : Nat) : (d.clearTiles k).flash = d.flash := rfl
@[simp] theorem Device.clearTiles_images (k : Nat) : (d.clearTiles k).images = d.images := rfl
@[simp] theorem Device.clearTiles_spdmStage (k : Nat) : (d.clearTiles k).spdmStage = d.spdmStage := rfl
@[simp] theorem Device.clearTiles_out (k : Nat) : (d.clearTiles k).out = d.out := rfl
@[simp] theorem Device.clearTiles_drawn (k : Nat) : (d.clearTiles k).drawn = d.drawn := rfl

/-! ### takeTokens -/

@[simp] theorem Device.takeTokens_now (k n : Nat) : (d.takeTokens k n).now = d.now := rfl
@[simp] theorem Device.takeTokens_stepCounter (k n : Nat) : (d.takeTokens k n).stepCounter = d.stepCounter := rfl
@[simp] theorem Device.takeTokens_power (k n : Nat) : (d.takeTokens k n).power = d.power := rfl
@[simp] theorem Device.takeTokens_dict (k n : Nat) : (d.takeTokens k n).dict = d.dict := rfl
@[simp] theorem Device.takeTokens_queues (k n : Nat) : (d.takeTokens k n).queues = d.queues := rfl
@[simp] theorem Device.takeTokens_fetched (k n : Nat) : (d.takeTokens k n).fetched = d.fetched := rfl
@[simp] theorem Device.takeTokens_lastPair (k n : Nat) : (d.takeTokens k n).lastPair = d.lastPair := rfl
@[simp] theorem Device.takeTokens_lastHigh (k n : Nat) : (d.takeTokens k n).lastHigh = d.lastHigh := rfl
@[simp] theorem Device.takeTokens_tagsFree (k n : Nat) : (d.takeTokens k n).tagsFree = d.tagsFree := rfl
@[simp] theorem Device.takeTokens_cmds (k n : Nat) : (d.takeTokens k n).cmds = d.cmds := rfl
@[simp] theorem Device.takeTokens_orderNext (k n : Nat) : (d.takeTokens k n).orderNext = d.orderNext := rfl
@[simp] theorem Device.takeTokens_events (k n : Nat) : (d.takeTokens k n).events = d.events := rfl
@[simp] theorem Device.takeTokens_ioBacklog (k n : Nat) : (d.takeTokens k n).ioBacklog = d.ioBacklog := rfl
@[simp] theorem Device.takeTokens_tiles (k n : Nat) : (d.takeTokens k n).tiles = d.tiles := rfl
@[simp] theorem Device.takeTokens_mem (k n : Nat) : (d.takeTokens k n).mem = d.mem := rfl
@[simp] theorem Device.takeTokens_poison (k n : Nat) : (d.takeTokens k n).poison = d.poison := rfl
@[simp] theorem Device.takeTokens_host (k n : Nat) : (d.takeTokens k n).host = d.host := rfl
@[simp] theorem Device.takeTokens_bays (k n : Nat) : (d.takeTokens k n).bays = d.bays.setIfInBounds k { d.bay k with tokens := (d.tokensNow k).sub (Q.ofNat (64 * n)), tokensAt := d.now } := rfl
@[simp] theorem Device.takeTokens_farCap (k n : Nat) : (d.takeTokens k n).farCap = d.farCap := rfl
@[simp] theorem Device.takeTokens_farState (k n : Nat) : (d.takeTokens k n).farState = d.farState := rfl
@[simp] theorem Device.takeTokens_ports (k n : Nat) : (d.takeTokens k n).ports = d.ports := rfl
@[simp] theorem Device.takeTokens_streams (k n : Nat) : (d.takeTokens k n).streams = d.streams := rfl
@[simp] theorem Device.takeTokens_curSet (k n : Nat) : (d.takeTokens k n).curSet = d.curSet := rfl
@[simp] theorem Device.takeTokens_verA (k n : Nat) : (d.takeTokens k n).verA = d.verA := rfl
@[simp] theorem Device.takeTokens_verB (k n : Nat) : (d.takeTokens k n).verB = d.verB := rfl
@[simp] theorem Device.takeTokens_pace (k n : Nat) : (d.takeTokens k n).pace = d.pace := rfl
@[simp] theorem Device.takeTokens_log (k n : Nat) : (d.takeTokens k n).log = d.log := rfl
@[simp] theorem Device.takeTokens_safety (k n : Nat) : (d.takeTokens k n).safety = d.safety := rfl
@[simp] theorem Device.takeTokens_flash (k n : Nat) : (d.takeTokens k n).flash = d.flash := rfl
@[simp] theorem Device.takeTokens_images (k n : Nat) : (d.takeTokens k n).images = d.images := rfl
@[simp] theorem Device.takeTokens_spdmStage (k n : Nat) : (d.takeTokens k n).spdmStage = d.spdmStage := rfl
@[simp] theorem Device.takeTokens_out (k n : Nat) : (d.takeTokens k n).out = d.out := rfl
@[simp] theorem Device.takeTokens_drawn (k n : Nat) : (d.takeTokens k n).drawn = d.drawn := rfl

/-! ### Reading back -/

theorem Device.bay_setBay_same {k : Nat} (h : k < 8) (b : Bay) : (d.setBay k b).bay k = b := by
  simp [Device.bay, Vector.getElem?_setIfInBounds, h]

theorem Device.bay_setBay_other {j k : Nat} (h : j ≠ k) (b : Bay) : (d.setBay k b).bay j = d.bay j := by
  simp [Device.bay, Vector.getElem?_setIfInBounds, Ne.symm h]

theorem Device.bay_modBay_same {k : Nat} (h : k < 8) (f : Bay → Bay) : (d.modBay k f).bay k = f (d.bay k) := d.bay_setBay_same h _

theorem Device.bay_modBay_other {j k : Nat} (h : j ≠ k) (f : Bay → Bay) : (d.modBay k f).bay j = d.bay j := d.bay_setBay_other h _

theorem Device.port_setPort_same {k : Nat} (h : k < 8) (p : Port) : (d.setPort k p).port k = p := by
  simp [Device.port, Vector.getElem?_setIfInBounds, h]

theorem Device.port_setPort_other {j k : Nat} (h : j ≠ k) (p : Port) : (d.setPort k p).port j = d.port j := by
  simp [Device.port, Vector.getElem?_setIfInBounds, Ne.symm h]

theorem Device.port_modPort_same {k : Nat} (h : k < 8) (f : Port → Port) : (d.modPort k f).port k = f (d.port k) := d.port_setPort_same h _

theorem Device.queue_setQueue_same {q : Nat} (h : q < 64) (x : QPair) : (d.setQueue q x).queue q = x := by
  simp [Device.queue, Vector.getElem?_setIfInBounds, h]

theorem Device.queue_setQueue_other {p q : Nat} (h : p ≠ q) (x : QPair) : (d.setQueue q x).queue p = d.queue p := by
  simp [Device.queue, Vector.getElem?_setIfInBounds, Ne.symm h]

theorem Device.tile_setTile_other {j k : Nat} (h : j ≠ k) (t : Tile) : (d.setTile k t).tile j = d.tile j := Store.get_put_other h

theorem Device.tile_setTile_same {k : Nat} (t : Tile) : (d.setTile k t).tile k = t := Store.get_put_same

/-- A counter counted stops at its largest value, and no other counter moves. -/
theorem Device.counter_count_same (a n : Nat) : (d.count a n).counter a = stopAdd 64 (d.counter a) n := Store.get_put_same

theorem Device.counter_count_other {a b : Nat} (h : b ≠ a) (n : Nat) : (d.count a n).counter b = d.counter b := Store.get_put_other h

theorem Device.counter_count (a b n : Nat) : (d.count a n).counter b = if a = b then stopAdd 64 (d.counter a) n else d.counter b := by
  by_cases h : a = b
  · rw [if_pos h, ← h]; exact d.counter_count_same a n
  · rw [if_neg h]; exact d.counter_count_other (Ne.symm h) n

/-! ### Records and vectors -/

@[simp] theorem Device.putRecord_host (q kind : Nat) (rest : List Byte) : (d.putRecord q kind rest).host =
    d.host.write (d.setting ((0x7100 + q) * 256 + 3) + 64 * (d.queue q).cqTail)
      (padTo 64 (BitVec.ofNat 8 (kind + if (d.queue q).phase then 0x80 else 0) :: rest)) := by simp only [Device.putRecord, Device.setQueue_host]

theorem Device.raise_only (v : Nat) : d.raise v = { d with out := (d.raise v).out } := by unfold Device.raise; split <;> rfl

end Sys2Proof.Machine
end

