-- ==== Sys2Proof/Laws/Within.lean ====
section
/-! SUPPORT. What each operation of the device can do (Device.Within): which parts of the state it touches, and that memories stay canonical and fuses never go back. -/

namespace Sys2Proof.Machine

set_option Elab.async false

theorem subset_mono {l m p : Nat} (hp : m &&& p = m) (h : l &&& m = l) : l &&& p = l := by
  rw [← h, Nat.and_assoc, hp]

theorem testBit_of_sub {l m i : Nat} (h : l &&& m = l) (hx : l.testBit i = true) : m.testBit i = true := by
  rw [← h, Nat.testBit_and, Bool.and_eq_true] at hx; exact hx.2

theorem Part.same_trans {a b c : Device} {p : Part} (h : Part.same a b p) (g : Part.same b c p) : Part.same a c p := by
  cases p <;> exact Eq.trans g h

/-- A result, where there is one, has a property. -/
def OkHolds {ε α : Type} (P : α → Prop) : Except ε α → Prop
  | .ok r => P r
  | .error _ => True

theorem OkHolds.get {ε α : Type} {P : α → Prop} {e : Except ε α} {r : α} (h : OkHolds P e) (he : e = .ok r) : P r := by subst he; exact h

theorem OkHolds.ok {ε α : Type} {P : α → Prop} {r : α} (h : P r) : OkHolds P (Except.ok (ε := ε) r) := h
theorem OkHolds.err {ε α : Type} {P : α → Prop} (e : ε) : OkHolds P (.error e) := trivial
theorem OkHolds.ite {ε α : Type} {P : α → Prop} {c : Prop} [Decidable c] {a b : Except ε α} (ha : c → OkHolds P a) (hb : ¬c → OkHolds P b) :
    OkHolds P (if c then a else b) := by split; exact ha ‹_›; exact hb ‹_›
theorem OkHolds.get1 {ε β : Type} {P : Nat} {d₀ d : Device} {b : β} {e : Except ε (Device × β)}
    (h : OkHolds (fun r => Device.Within P d₀ r.1) e) (he : e = .ok (d, b)) : Device.Within P d₀ d := by subst he; exact h
theorem OkHolds.get12 {ε β γ : Type} {P : Nat} {d₀ d : Device} {b : β} {c : γ} {e : Except ε (Device × β × γ)}
    (h : OkHolds (fun r => Device.Within P d₀ r.1) e) (he : e = .ok (d, b, c)) : Device.Within P d₀ d := by subst he; exact h
theorem OkHolds.getW {P : Nat} {d₀ : Device} {w : WorkOut} {e : Except ε WorkOut}
    (h : OkHolds (fun r => Device.Within P d₀ r.dev) e) (he : e = .ok w) : Device.Within P d₀ w.dev := by subst he; exact h
theorem Device.Within.pair {β : Type} {P : Nat} {d₀ d : Device} {b : β} {e : Device × β} (h : Device.Within P d₀ e.1) (he : e = (d, b)) :
    Device.Within P d₀ d := by subst he; exact h

theorem Device.After.refl (d : Device) : Device.After d d := ⟨id, id, fun _ => Nat.le_refl _, fun _ h => h⟩

theorem Device.After.trans {a b c : Device} (h : Device.After a b) (g : Device.After b c) : Device.After a c :=
  ⟨fun x => g.mem (h.mem x), fun x => g.host (h.host x), fun k => Nat.le_trans (h.floors k) (g.floors k), fun k x => g.revoked k (h.revoked k x)⟩

theorem Device.Within.refl (P : Nat) (d : Device) : Device.Within P d d := ⟨Device.After.refl d, fun p => Or.inr (by cases p <;> rfl)⟩

/-- A device whose named parts differ, and whose memories and fuses move as they may. -/
theorem Device.Within.move {P ps : Nat} {d₀ b d : Device} (h : Device.Within P d₀ b) (ha : Device.After b d)
    (hs : ∀ p : Part, ps.testBit p.ctorIdx = true ∨ Part.same b d p) (hp : ps &&& P = ps) : Device.Within P d₀ d :=
  ⟨h.after.trans ha, fun p => (hs p).elim (fun m => Or.inl (testBit_of_sub hp m)) fun e => (h.same p).elim Or.inl fun g => Or.inr (Part.same_trans g e)⟩

theorem Device.Within.mono {P Q : Nat} {d₀ d : Device} (h : Device.Within P d₀ d) (hp : P &&& Q = P) : Device.Within Q d₀ d :=
  ⟨h.after, fun p => (h.same p).elim (fun m => Or.inl (testBit_of_sub hp m)) Or.inr⟩

/-- A device that differs outside the memories and the security fuses. -/
theorem Device.Within.upd {P ps : Nat} {d₀ b : Device} {now stepCounter power dict queues fetched lastPair lastHigh tagsFree cmds orderNext events
    ioBacklog tiles poison bays farCap farState ports streams curSet verA verB pace log safety} {flash : Flash} {images spdmStage out drawn}
    (h : Device.Within P d₀ b) (hf : flash.floors = b.flash.floors) (hr : flash.revoked = b.flash.revoked)
    (hs : ∀ p : Part, ps.testBit p.ctorIdx = true ∨ Part.same b (Device.mk now stepCounter power dict queues fetched lastPair lastHigh tagsFree cmds orderNext events ioBacklog
      tiles b.mem poison b.host bays farCap farState ports streams curSet verA verB pace log safety flash images spdmStage out drawn) p)
    (hp : ps &&& P = ps) :
    Device.Within P d₀ (Device.mk now stepCounter power dict queues fetched lastPair lastHigh tagsFree cmds orderNext events ioBacklog tiles b.mem poison b.host
      bays farCap farState ports streams curSet verA verB pace log safety flash images spdmStage out drawn) :=
  h.move ⟨id, id, fun _ => Nat.le_of_eq (by rw [hf]), fun _ x => by rw [hr]; exact x⟩ hs hp

theorem Device.Within.ite {P : Nat} {d₀ a b : Device} {c : Prop} [Decidable c] (ha : c → Device.Within P d₀ a) (hb : ¬c → Device.Within P d₀ b) :
    Device.Within P d₀ (if c then a else b) := by split; exact ha ‹_›; exact hb ‹_›

theorem Device.Within.foldl {α : Type} {P : Nat} {d₀ d : Device} {f : Device → α → Device} {l : List α} (h : Device.Within P d₀ d)
    (hf : ∀ (x : Device) (a : α), Device.Within P d₀ x → Device.Within P d₀ (f x a)) : Device.Within P d₀ (l.foldl f d) := by
  induction l generalizing d with
  | nil => exact h
  | cons a l ih => exact ih (hf d a h)

theorem Device.Within.memWrite {P : Nat} {d₀ d : Device} {m : Mem} {poison : List Nat} (h : Device.Within P d₀ d) (hm : d.mem.wf = true → m.wf = true)
    (hp : 49152 &&& P = 49152) : Device.Within P d₀ { d with mem := m, poison := poison } :=
  h.move ⟨hm, id, fun _ => Nat.le_refl _, fun _ x => x⟩ (by intro p; cases p <;> first | exact Or.inr rfl | exact Or.inl (by decide)) hp
theorem Device.Within.hostWrite {P : Nat} {d₀ d : Device} {m : Mem} (h : Device.Within P d₀ d) (hm : d.host.wf = true → m.wf = true)
    (hp : 65536 &&& P = 65536) : Device.Within P d₀ { d with host := m } :=
  h.move ⟨id, hm, fun _ => Nat.le_refl _, fun _ x => x⟩ (by intro p; cases p <;> first | exact Or.inr rfl | exact Or.inl (by decide)) hp

theorem Device.Within.memSet {P : Nat} {d₀ d : Device} {m : Mem} (h : Device.Within P d₀ d) (hm : d.mem.wf = true → m.wf = true)
    (hp : 16384 &&& P = 16384) : Device.Within P d₀ { d with mem := m } :=
  h.move ⟨hm, id, fun _ => Nat.le_refl _, fun _ x => x⟩ (by intro p; cases p <;> first | exact Or.inr rfl | exact Or.inl (by decide)) hp
theorem Device.Within.ite1 {β : Type} {P : Nat} {d₀ : Device} {a b : Device × β} {c : Prop} [Decidable c] (ha : c → Device.Within P d₀ a.1)
    (hb : ¬c → Device.Within P d₀ b.1) : Device.Within P d₀ (if c then a else b).1 := by split; exact ha ‹_›; exact hb ‹_›

/-- A result, where there is one and it is no error, has a property. -/
def SomeOk {α : Type} (P : α → Prop) : Option (Except Nat α) → Prop
  | some r => OkHolds P r
  | none => True

theorem SomeOk.absent {α : Type} {P : α → Prop} : SomeOk P Option.none := trivial
theorem SomeOk.intro {α : Type} {P : α → Prop} {r : Except Nat α} (h : OkHolds P r) : SomeOk P (Option.some r) := h
theorem SomeOk.get {α : Type} {P : α → Prop} {o : Option (Except Nat α)} {e : Except Nat α} {r : α} (h : SomeOk P o) (ho : o = Option.some e) (he : e = .ok r) : P r := by
  subst ho; subst he; exact h
theorem SomeOk.part {α : Type} {P : α → Prop} {o : Option (Except Nat α)} {e : Except Nat α} (h : SomeOk P o) (ho : o = Option.some e) : OkHolds P e := by
  subst ho; exact h
theorem SomeOk.done {α : Type} {P : α → Prop} {o : Option (Except Nat α)} {r : α} (h : SomeOk P o) (ho : o = Option.some (.ok r)) : P r := by
  subst ho; exact h



/-! ### Ops -/

theorem Device.setBay_within {P : Nat} {d₀ : Device} (d : Device) (k : Nat) (b : Bay) (h : Device.Within P d₀ d) (hp : 131072 &&& P = 131072 := by exact subset_mono (by assumption) rfl) : Device.Within P d₀ (Device.setBay d k b) := by
  unfold Device.setBay
  try dsimp only
  repeat' (first | with_reducible exact subset_mono (by assumption) rfl | with_reducible assumption | with_reducible refine Device.Within.foldl ?_ ?_ | split | (with_reducible refine Device.Within.upd (ps := 131072) ?_ ?_ ?_ ?_ ?_) | rfl | (intro p; cases p <;> first | exact Or.inl rfl | exact Or.inr rfl) | intro _ | dsimp only)

theorem Device.modBay_within {P : Nat} {d₀ : Device} (d : Device) (k : Nat) (f : Bay → Bay) (h : Device.Within P d₀ d) (hp : 131072 &&& P = 131072 := by exact subset_mono (by assumption) rfl) : Device.Within P d₀ (Device.modBay d k f) := by
  unfold Device.modBay
  try dsimp only
  repeat' (first | with_reducible exact subset_mono (by assumption) rfl | with_reducible assumption | with_reducible apply Device.setBay_within | with_reducible refine Device.Within.foldl ?_ ?_ | split | intro _ | dsimp only)

theorem Device.setPort_within {P : Nat} {d₀ : Device} (d : Device) (k : Nat) (p : Port) (h : Device.Within P d₀ d) (hp : 1048576 &&& P = 1048576 := by exact subset_mono (by assumption) rfl) : Device.Within P d₀ (Device.setPort d k p) := by
  unfold Device.setPort
  try dsimp only
  repeat' (first | with_reducible exact subset_mono (by assumption) rfl | with_reducible assumption | with_reducible refine Device.Within.foldl ?_ ?_ | split | (with_reducible refine Device.Within.upd (ps := 1048576) ?_ ?_ ?_ ?_ ?_) | rfl | (intro p; cases p <;> first | exact Or.inl rfl | exact Or.inr rfl) | intro _ | dsimp only)

theorem Device.modPort_within {P : Nat} {d₀ : Device} (d : Device) (k : Nat) (f : Port → Port) (h : Device.Within P d₀ d) (hp : 1048576 &&& P = 1048576 := by exact subset_mono (by assumption) rfl) : Device.Within P d₀ (Device.modPort d k f) := by
  unfold Device.modPort
  try dsimp only
  repeat' (first | with_reducible exact subset_mono (by assumption) rfl | with_reducible assumption | with_reducible apply Device.setPort_within | with_reducible refine Device.Within.foldl ?_ ?_ | split | intro _ | dsimp only)

theorem Device.setQueue_within {P : Nat} {d₀ : Device} (d : Device) (q : Nat) (x : QPair) (h : Device.Within P d₀ d) (hp : 16 &&& P = 16 := by exact subset_mono (by assumption) rfl) : Device.Within P d₀ (Device.setQueue d q x) := by
  unfold Device.setQueue
  try dsimp only
  repeat' (first | with_reducible exact subset_mono (by assumption) rfl | with_reducible assumption | with_reducible refine Device.Within.foldl ?_ ?_ | split | (with_reducible refine Device.Within.upd (ps := 16) ?_ ?_ ?_ ?_ ?_) | rfl | (intro p; cases p <;> first | exact Or.inl rfl | exact Or.inr rfl) | intro _ | dsimp only)

theorem Device.modQueue_within {P : Nat} {d₀ : Device} (d : Device) (q : Nat) (f : QPair → QPair) (h : Device.Within P d₀ d) (hp : 16 &&& P = 16 := by exact subset_mono (by assumption) rfl) : Device.Within P d₀ (Device.modQueue d q f) := by
  unfold Device.modQueue
  try dsimp only
  repeat' (first | with_reducible exact subset_mono (by assumption) rfl | with_reducible assumption | with_reducible apply Device.setQueue_within | with_reducible refine Device.Within.foldl ?_ ?_ | split | intro _ | dsimp only)

theorem Device.setTile_within {P : Nat} {d₀ : Device} (d : Device) (key : Nat) (t : Tile) (h : Device.Within P d₀ d) (hp : 8192 &&& P = 8192 := by exact subset_mono (by assumption) rfl) : Device.Within P d₀ (Device.setTile d key t) := by
  unfold Device.setTile
  try dsimp only
  repeat' (first | with_reducible exact subset_mono (by assumption) rfl | with_reducible assumption | with_reducible refine Device.Within.foldl ?_ ?_ | split | (with_reducible refine Device.Within.upd (ps := 8192) ?_ ?_ ?_ ?_ ?_) | rfl | (intro p; cases p <;> first | exact Or.inl rfl | exact Or.inr rfl) | intro _ | dsimp only)

theorem Device.modCmd_within {P : Nat} {d₀ : Device} (d : Device) (tag : Nat) (f : Cmd → Cmd) (h : Device.Within P d₀ d) (hp : 512 &&& P = 512 := by exact subset_mono (by assumption) rfl) : Device.Within P d₀ (Device.modCmd d tag f) := by
  unfold Device.modCmd
  try dsimp only
  repeat' (first | with_reducible exact subset_mono (by assumption) rfl | with_reducible assumption | with_reducible refine Device.Within.foldl ?_ ?_ | split | (with_reducible refine Device.Within.upd (ps := 512) ?_ ?_ ?_ ?_ ?_) | rfl | (intro p; cases p <;> first | exact Or.inl rfl | exact Or.inr rfl) | intro _ | dsimp only)

theorem Device.withDict_within {P : Nat} {d₀ : Device} (d : Device) (f : Dict → Dict) (h : Device.Within P d₀ d) (hp : 8 &&& P = 8 := by exact subset_mono (by assumption) rfl) : Device.Within P d₀ (Device.withDict d f) := by
  unfold Device.withDict
  try dsimp only
  repeat' (first | with_reducible exact subset_mono (by assumption) rfl | with_reducible assumption | with_reducible refine Device.Within.foldl ?_ ?_ | split | (with_reducible refine Device.Within.upd (ps := 8) ?_ ?_ ?_ ?_ ?_) | rfl | (intro p; cases p <;> first | exact Or.inl rfl | exact Or.inr rfl) | intro _ | dsimp only)

theorem Device.withPower_within {P : Nat} {d₀ : Device} (d : Device) (f : PowerDom → PowerDom) (h : Device.Within P d₀ d) (hp : 4 &&& P = 4 := by exact subset_mono (by assumption) rfl) : Device.Within P d₀ (Device.withPower d f) := by
  unfold Device.withPower
  try dsimp only
  repeat' (first | with_reducible exact subset_mono (by assumption) rfl | with_reducible assumption | with_reducible refine Device.Within.foldl ?_ ?_ | split | (with_reducible refine Device.Within.upd (ps := 4) ?_ ?_ ?_ ?_ ?_) | rfl | (intro p; cases p <;> first | exact Or.inl rfl | exact Or.inr rfl) | intro _ | dsimp only)

theorem Device.withSafety_within {P : Nat} {d₀ : Device} (d : Device) (f : Safety → Safety) (h : Device.Within P d₀ d) (hp : 134217728 &&& P = 134217728 := by exact subset_mono (by assumption) rfl) : Device.Within P d₀ (Device.withSafety d f) := by
  unfold Device.withSafety
  try dsimp only
  repeat' (first | with_reducible exact subset_mono (by assumption) rfl | with_reducible assumption | with_reducible refine Device.Within.foldl ?_ ?_ | split | (with_reducible refine Device.Within.upd (ps := 134217728) ?_ ?_ ?_ ?_ ?_) | rfl | (intro p; cases p <;> first | exact Or.inl rfl | exact Or.inr rfl) | intro _ | dsimp only)

theorem Device.withPace_within {P : Nat} {d₀ : Device} (d : Device) (f : Pace → Pace) (h : Device.Within P d₀ d) (hp : 33554432 &&& P = 33554432 := by exact subset_mono (by assumption) rfl) : Device.Within P d₀ (Device.withPace d f) := by
  unfold Device.withPace
  try dsimp only
  repeat' (first | with_reducible exact subset_mono (by assumption) rfl | with_reducible assumption | with_reducible refine Device.Within.foldl ?_ ?_ | split | (with_reducible refine Device.Within.upd (ps := 33554432) ?_ ?_ ?_ ?_ ?_) | rfl | (intro p; cases p <;> first | exact Or.inl rfl | exact Or.inr rfl) | intro _ | dsimp only)

theorem Device.withOut_within {P : Nat} {d₀ : Device} (d : Device) (f : Outputs → Outputs) (h : Device.Within P d₀ d) (hp : 2147483648 &&& P = 2147483648 := by exact subset_mono (by assumption) rfl) : Device.Within P d₀ (Device.withOut d f) := by
  unfold Device.withOut
  try dsimp only
  repeat' (first | with_reducible exact subset_mono (by assumption) rfl | with_reducible assumption | with_reducible refine Device.Within.foldl ?_ ?_ | split | (with_reducible refine Device.Within.upd (ps := 2147483648) ?_ ?_ ?_ ?_ ?_) | rfl | (intro p; cases p <;> first | exact Or.inl rfl | exact Or.inr rfl) | intro _ | dsimp only)

theorem Device.drew_within {P : Nat} {d₀ : Device} (d : Device) (n : Nat) (h : Device.Within P d₀ d) (hp : 4294967296 &&& P = 4294967296 := by exact subset_mono (by assumption) rfl) : Device.Within P d₀ (Device.drew d n) := by
  unfold Device.drew
  try dsimp only
  repeat' (first | with_reducible exact subset_mono (by assumption) rfl | with_reducible assumption | with_reducible refine Device.Within.foldl ?_ ?_ | split | (with_reducible refine Device.Within.upd (ps := 4294967296) ?_ ?_ ?_ ?_ ?_) | rfl | (intro p; cases p <;> first | exact Or.inl rfl | exact Or.inr rfl) | intro _ | dsimp only)

theorem Device.count_within {P : Nat} {d₀ : Device} (d : Device) (a : Nat) (n : Nat) (h : Device.Within P d₀ d) (hp : 134217728 &&& P = 134217728 := by exact subset_mono (by assumption) rfl) : Device.Within P d₀ (Device.count d a n) := by
  unfold Device.count
  try dsimp only
  repeat' (first | with_reducible exact subset_mono (by assumption) rfl | with_reducible assumption | with_reducible apply Device.withSafety_within | with_reducible refine Device.Within.foldl ?_ ?_ | split | intro _ | dsimp only)

theorem Device.raise_within {P : Nat} {d₀ : Device} (d : Device) (v : Nat) (h : Device.Within P d₀ d) (hp : 2147483648 &&& P = 2147483648 := by exact subset_mono (by assumption) rfl) : Device.Within P d₀ (Device.raise d v) := by
  unfold Device.raise
  try dsimp only
  repeat' (first | with_reducible exact subset_mono (by assumption) rfl | with_reducible assumption | with_reducible apply Device.withOut_within | with_reducible refine Device.Within.foldl ?_ ?_ | split | intro _ | dsimp only)

theorem Device.wakeReason_within {P : Nat} {d₀ : Device} (d : Device) (bit : Nat) (h : Device.Within P d₀ d) (hp : 2147483652 &&& P = 2147483652 := by exact subset_mono (by assumption) rfl) : Device.Within P d₀ (Device.wakeReason d bit) := by
  unfold Device.wakeReason
  try dsimp only
  repeat' (first | with_reducible exact subset_mono (by assumption) rfl | with_reducible assumption | with_reducible apply Device.withPower_within | with_reducible apply Device.raise_within | with_reducible refine Device.Within.foldl ?_ ?_ | split | intro _ | dsimp only)

theorem Device.transmit_within {P : Nat} {d₀ : Device} (d : Device) (m : BrMsg) (h : Device.Within P d₀ d) (hp : 2147483648 &&& P = 2147483648 := by exact subset_mono (by assumption) rfl) : Device.Within P d₀ (Device.transmit d m) := by
  unfold Device.transmit
  try dsimp only
  repeat' (first | with_reducible exact subset_mono (by assumption) rfl | with_reducible assumption | with_reducible apply Device.withOut_within | with_reducible refine Device.Within.foldl ?_ ?_ | split | intro _ | dsimp only)

theorem Device.touch_within {P : Nat} {d₀ : Device} (d : Device) (a : Nat) (h : Device.Within P d₀ d) (hp : 8 &&& P = 8 := by exact subset_mono (by assumption) rfl) : Device.Within P d₀ (Device.touch d a) := by
  unfold Device.touch
  try dsimp only
  repeat' (first | with_reducible exact subset_mono (by assumption) rfl | with_reducible assumption | with_reducible apply Device.withDict_within | with_reducible refine Device.Within.foldl ?_ ?_ | split | intro _ | dsimp only)

theorem Device.notify_within {P : Nat} {d₀ : Device} (d : Device) (k : Nat) (word : W32) (h : Device.Within P d₀ d) (hp : 2147483656 &&& P = 2147483656 := by exact subset_mono (by assumption) rfl) : Device.Within P d₀ (Device.notify d k word) := by
  unfold Device.notify
  try dsimp only
  repeat' (first | with_reducible exact subset_mono (by assumption) rfl | with_reducible assumption | with_reducible apply Device.withDict_within | with_reducible apply Device.transmit_within | with_reducible refine Device.Within.foldl ?_ ?_ | split | intro _ | dsimp only)

theorem Device.alert_within {P : Nat} {d₀ : Device} (d : Device) (bit : Nat) (h : Device.Within P d₀ d) (hp : 2281701388 &&& P = 2281701388 := by exact subset_mono (by assumption) rfl) : Device.Within P d₀ (Device.alert d bit) := by
  unfold Device.alert
  try dsimp only
  repeat' (first | with_reducible exact subset_mono (by assumption) rfl | with_reducible assumption | with_reducible apply Device.raise_within | with_reducible apply Device.withSafety_within | with_reducible apply Device.wakeReason_within | with_reducible apply Device.notify_within | with_reducible refine Device.Within.foldl ?_ ?_ | split | intro _ | dsimp only)

theorem emberAdd_within {P : Nat} {d₀ : Device} (d : Device) (n : Nat) (h : Device.Within P d₀ d) (hp : 67108864 &&& P = 67108864 := by exact subset_mono (by assumption) rfl) : Device.Within P d₀ (emberAdd d n) := by
  unfold emberAdd
  try dsimp only
  repeat' (first | with_reducible exact subset_mono (by assumption) rfl | with_reducible assumption | with_reducible refine Device.Within.foldl ?_ ?_ | split | (with_reducible refine Device.Within.upd (ps := 67108864) ?_ ?_ ?_ ?_ ?_) | rfl | (intro p; cases p <;> first | exact Or.inl rfl | exact Or.inr rfl) | intro _ | dsimp only)

theorem Device.pushRec_within {P : Nat} {d₀ : Device} (d : Device) (r : LogRec) (h : Device.Within P d₀ d) (hp : 67108872 &&& P = 67108872 := by exact subset_mono (by assumption) rfl) : Device.Within P d₀ (Device.pushRec d r) := by
  unfold Device.pushRec
  try dsimp only
  repeat' (first | with_reducible exact subset_mono (by assumption) rfl | with_reducible assumption | with_reducible apply Device.withDict_within | with_reducible refine Device.Within.foldl ?_ ?_ | split | (with_reducible refine Device.Within.upd (ps := 67108864) ?_ ?_ ?_ ?_ ?_) | rfl | (intro p; cases p <;> first | exact Or.inl rfl | exact Or.inr rfl) | intro _ | dsimp only)

theorem Device.logEvent_within {P : Nat} {d₀ : Device} (d : Device) (e : Event) (h : Device.Within P d₀ d) (hp : 67108872 &&& P = 67108872 := by exact subset_mono (by assumption) rfl) : Device.Within P d₀ (Device.logEvent d e) := by
  unfold Device.logEvent
  try dsimp only
  repeat' (first | with_reducible exact subset_mono (by assumption) rfl | with_reducible assumption | with_reducible apply emberAdd_within | with_reducible apply Device.pushRec_within | with_reducible refine Device.Within.foldl ?_ ?_ | split | intro _ | dsimp only)

theorem Device.rungSeen_within {P : Nat} {d₀ : Device} (d : Device) (n : Nat) (h : Device.Within P d₀ d) (hp : 134217728 &&& P = 134217728 := by exact subset_mono (by assumption) rfl) : Device.Within P d₀ (Device.rungSeen d n) := by
  unfold Device.rungSeen
  try dsimp only
  repeat' (first | with_reducible exact subset_mono (by assumption) rfl | with_reducible assumption | with_reducible apply Device.withSafety_within | with_reducible refine Device.Within.foldl ?_ ?_ | split | intro _ | dsimp only)

theorem Device.whole_within {P : Nat} {d₀ : Device} (d : Device) (f : Device → Device) (hf : ∀ x, Device.Within P d₀ x → Device.Within P d₀ (f x)) (h : Device.Within P d₀ d) (hp : 0 &&& P = 0 := by exact subset_mono (by assumption) rfl) : Device.Within P d₀ (Device.whole d f) := by
  unfold Device.whole
  try dsimp only
  repeat' (first | with_reducible exact subset_mono (by assumption) rfl | with_reducible assumption | with_reducible apply hf | with_reducible refine Device.Within.foldl ?_ ?_ | split | intro _ | dsimp only)

theorem Device.store_within {P : Nat} {d₀ : Device} (d : Device) (a : Nat) (bs : List Byte) (h : Device.Within P d₀ d) (hp : 49152 &&& P = 49152 := by exact subset_mono (by assumption) rfl) : Device.Within P d₀ (Device.store d a bs) :=
  Device.Within.memWrite h (fun x => Mem.write_wf _ _ _ x) hp

theorem Device.write_within {P : Nat} {d₀ : Device} (d : Device) (a : Nat) (bs : List Byte) (h : Device.Within P d₀ d) (hp : 49152 &&& P = 49152 := by exact subset_mono (by assumption) rfl) : OkHolds (Device.Within P d₀) (Device.write d a bs) := by
  unfold Device.write
  try dsimp only
  repeat' (first | with_reducible exact subset_mono (by assumption) rfl | with_reducible assumption | with_reducible apply Device.store_within | with_reducible exact OkHolds.err _ | with_reducible apply OkHolds.ok | with_reducible refine Device.Within.foldl ?_ ?_ | split | intro _ | dsimp only | with_reducible apply OkHolds.ite)

theorem writeAll_within {P : Nat} {d₀ : Device} (d : Device) (a : List (Nat × List Byte)) (h : Device.Within P d₀ d) (hp : 49152 &&& P = 49152 := by exact subset_mono (by assumption) rfl) : OkHolds (Device.Within P d₀) (writeAll d a) := by
  induction a generalizing d with
  | nil => unfold writeAll; try dsimp only
           repeat' (first | with_reducible exact subset_mono (by assumption) rfl | with_reducible assumption | with_reducible apply Device.write_within | with_reducible exact OkHolds.err _ | with_reducible apply OkHolds.ok | with_reducible refine Device.Within.foldl ?_ ?_ | split | (with_reducible refine OkHolds.get (P := Device.Within P d₀) ?_ (by assumption)) | intro _ | dsimp only | with_reducible apply OkHolds.ite)
  | cons x r ih =>
    unfold writeAll
    try dsimp only
    repeat' (first | with_reducible apply ih | with_reducible exact subset_mono (by assumption) rfl | with_reducible assumption | with_reducible apply Device.write_within | with_reducible exact OkHolds.err _ | with_reducible apply OkHolds.ok | with_reducible refine Device.Within.foldl ?_ ?_ | split | (with_reducible refine OkHolds.get (P := Device.Within P d₀) ?_ (by assumption)) | intro _ | dsimp only | with_reducible apply OkHolds.ite | (with_reducible refine OkHolds.get (P := Device.Within P d₀) (ih _ ?_) (by assumption)))

theorem allWrites_within {P : Nat} {d₀ : Device} (d : Device) (ws : List (Nat × List Byte)) (h : Device.Within P d₀ d) (hp : 49152 &&& P = 49152 := by exact subset_mono (by assumption) rfl) : OkHolds (Device.Within P d₀) (allWrites d ws) := by
  unfold allWrites
  try dsimp only
  repeat' (first | with_reducible exact subset_mono (by assumption) rfl | with_reducible assumption | with_reducible apply writeAll_within | with_reducible exact OkHolds.err _ | with_reducible apply OkHolds.ok | with_reducible refine Device.Within.foldl ?_ ?_ | split | (with_reducible refine OkHolds.get (P := Device.Within P d₀) ?_ (by assumption)) | (with_reducible refine Device.Within.upd (ps := 32768) ?_ ?_ ?_ ?_ ?_) | rfl | (intro p; cases p <;> first | exact Or.inl rfl | exact Or.inr rfl) | intro _ | dsimp only | with_reducible apply OkHolds.ite)

theorem Device.writeMove_within {P : Nat} {d₀ : Device} (d : Device) (a : Nat) (bs : List Byte) (h : Device.Within P d₀ d) (hp : 49152 &&& P = 49152 := by exact subset_mono (by assumption) rfl) : OkHolds (Device.Within P d₀) (Device.writeMove d a bs) := by
  unfold Device.writeMove
  try dsimp only
  repeat' (first | with_reducible exact subset_mono (by assumption) rfl | with_reducible assumption | with_reducible apply Device.store_within | with_reducible apply Device.write_within | with_reducible exact OkHolds.err _ | with_reducible apply OkHolds.ok | with_reducible refine Device.Within.foldl ?_ ?_ | split | (with_reducible refine OkHolds.get (P := Device.Within P d₀) ?_ (by assumption)) | intro _ | dsimp only | with_reducible apply OkHolds.ite)

theorem Device.scramble_within {P : Nat} {d₀ : Device} (d : Device) (r : Nat × Nat) (h : Device.Within P d₀ d) (hp : 4295016448 &&& P = 4295016448 := by exact subset_mono (by assumption) rfl) : Device.Within P d₀ (Device.scramble d r) := by
  unfold Device.scramble
  try dsimp only
  repeat' (first | with_reducible exact subset_mono (by assumption) rfl | with_reducible assumption | with_reducible apply Device.drew_within | with_reducible apply Device.store_within | with_reducible refine Device.Within.foldl ?_ ?_ | split | intro _ | dsimp only)

theorem Device.memoryEvent_within {P : Nat} {d₀ : Device} (d : Device) (k : Nat) (pc : Nat) (row : Nat) (first : Nat) (lost : Nat) (kind : Nat) (h : Device.Within P d₀ d) (hp : 67108872 &&& P = 67108872 := by exact subset_mono (by assumption) rfl) : Device.Within P d₀ (Device.memoryEvent d k pc row first lost kind) := by
  unfold Device.memoryEvent
  try dsimp only
  repeat' (first | with_reducible exact subset_mono (by assumption) rfl | with_reducible assumption | with_reducible apply Device.logEvent_within | with_reducible refine Device.Within.foldl ?_ ?_ | split | intro _ | dsimp only)

theorem Device.poisonEvent_within {P : Nat} {d₀ : Device} (d : Device) (l : Nat) (h : Device.Within P d₀ d) (hp : 67108872 &&& P = 67108872 := by exact subset_mono (by assumption) rfl) : Device.Within P d₀ (Device.poisonEvent d l) := by
  unfold Device.poisonEvent
  try dsimp only
  repeat' (first | with_reducible exact subset_mono (by assumption) rfl | with_reducible assumption | with_reducible apply Device.memoryEvent_within | with_reducible refine Device.Within.foldl ?_ ?_ | split | intro _ | dsimp only)

theorem Device.takeTokens_within {P : Nat} {d₀ : Device} (d : Device) (k : Nat) (n : Nat) (h : Device.Within P d₀ d) (hp : 131072 &&& P = 131072 := by exact subset_mono (by assumption) rfl) : Device.Within P d₀ (Device.takeTokens d k n) := by
  unfold Device.takeTokens
  try dsimp only
  repeat' (first | with_reducible exact subset_mono (by assumption) rfl | with_reducible assumption | with_reducible apply Device.modBay_within | with_reducible refine Device.Within.foldl ?_ ?_ | split | intro _ | dsimp only)

theorem Device.settleTokens_within {P : Nat} {d₀ : Device} (d : Device) (h : Device.Within P d₀ d) (hp : 131072 &&& P = 131072 := by exact subset_mono (by assumption) rfl) : Device.Within P d₀ (Device.settleTokens d) := by
  unfold Device.settleTokens
  try dsimp only
  repeat' (first | with_reducible exact subset_mono (by assumption) rfl | with_reducible assumption | with_reducible apply Device.takeTokens_within | with_reducible refine Device.Within.foldl ?_ ?_ | split | intro _ | dsimp only)

theorem Device.crossStart_within {P : Nat} {d₀ : Device} (d : Device) (src : Nat) (tag : Nat) (op : Nat) (cross : List (Nat × Nat)) (h : Device.Within P d₀ d) (hp : 131072 &&& P = 131072 := by exact subset_mono (by assumption) rfl) : Device.Within P d₀ (Device.crossStart d src tag op cross) := by
  unfold Device.crossStart
  try dsimp only
  repeat' (first | with_reducible exact subset_mono (by assumption) rfl | with_reducible assumption | with_reducible apply Device.takeTokens_within | with_reducible apply Device.modBay_within | with_reducible refine Device.Within.foldl ?_ ?_ | split | intro _ | dsimp only)

theorem Device.dropWaits_within {P : Nat} {d₀ : Device} (d : Device) (tag : Nat) (op : Nat) (h : Device.Within P d₀ d) (hp : 131072 &&& P = 131072 := by exact subset_mono (by assumption) rfl) : Device.Within P d₀ (Device.dropWaits d tag op) := by
  unfold Device.dropWaits
  try dsimp only
  repeat' (first | with_reducible exact subset_mono (by assumption) rfl | with_reducible assumption | with_reducible refine Device.Within.foldl ?_ ?_ | split | (with_reducible refine Device.Within.upd (ps := 131072) ?_ ?_ ?_ ?_ ?_) | rfl | (intro p; cases p <;> first | exact Or.inl rfl | exact Or.inr rfl) | intro _ | dsimp only)

theorem Device.putRecord_within {P : Nat} {d₀ : Device} (d : Device) (q : Nat) (kind : Nat) (rest : List Byte) (h : Device.Within P d₀ d) (hp : 65552 &&& P = 65552 := by exact subset_mono (by assumption) rfl) : Device.Within P d₀ (Device.putRecord d q kind rest) :=
  Device.setQueue_within _ _ _ (Device.Within.hostWrite h (fun x => Mem.write_wf _ _ _ x) (subset_mono hp rfl))

theorem Device.addEvent_within {P : Nat} {d₀ : Device} (d : Device) (e : Nat) (n : Nat) (h : Device.Within P d₀ d) (hp : 2048 &&& P = 2048 := by exact subset_mono (by assumption) rfl) : Device.Within P d₀ (Device.addEvent d e n) := by
  unfold Device.addEvent
  try dsimp only
  repeat' (first | with_reducible exact subset_mono (by assumption) rfl | with_reducible assumption | with_reducible refine Device.Within.foldl ?_ ?_ | split | (with_reducible refine Device.Within.upd (ps := 2048) ?_ ?_ ?_ ?_ ?_) | rfl | (intro p; cases p <;> first | exact Or.inl rfl | exact Or.inr rfl) | intro _ | dsimp only)


/-! ### Operands -/

theorem writeEntryForm_within {P : Nat} {d₀ : Device} (d : Device) (t : Table) (j : Nat) (fmt : Nat) (gutter : Bool) (h : Device.Within P d₀ d) (hp : 49152 &&& P = 49152 := by exact subset_mono (by assumption) rfl) : OkHolds (Device.Within P d₀) (writeEntryForm d t j fmt gutter) := by
  unfold writeEntryForm
  try dsimp only
  repeat' (first | with_reducible exact subset_mono (by assumption) rfl | with_reducible assumption | with_reducible apply Device.write_within | with_reducible exact OkHolds.err _ | with_reducible apply OkHolds.ok | with_reducible refine Device.Within.foldl ?_ ?_ | split | (with_reducible refine OkHolds.get (P := Device.Within P d₀) ?_ (by assumption)) | intro _ | dsimp only | with_reducible apply OkHolds.ite)


/-! ### Output -/

theorem ledgerOpen_within {P : Nat} {d₀ : Device} (d : Device) (key : Nat) (step : Nat) (h : Device.Within P d₀ d) (hp : 49152 &&& P = 49152 := by exact subset_mono (by assumption) rfl) : Device.Within P d₀ (ledgerOpen d key step).1 := by
  unfold ledgerOpen
  try dsimp only
  repeat' (first | with_reducible exact subset_mono (by assumption) rfl | with_reducible assumption | with_reducible apply Device.store_within | with_reducible refine Device.Within.foldl ?_ ?_ | split | intro _ | dsimp only)

theorem ledgerClose_within {P : Nat} {d₀ : Device} (d : Device) (c : Cmd) (key : Nat) (l : LedgerUse) (o : OutStat) (h : Device.Within P d₀ d) (hp : 134266880 &&& P = 134266880 := by exact subset_mono (by assumption) rfl) : Device.Within P d₀ (ledgerClose d c key l o).1 := by
  unfold ledgerClose
  try dsimp only
  repeat' (first | with_reducible exact subset_mono (by assumption) rfl | with_reducible assumption | with_reducible apply Device.store_within | with_reducible apply Device.count_within | with_reducible refine Device.Within.foldl ?_ ?_ | split | intro _ | dsimp only)

theorem recordStats_within {P : Nat} {d₀ : Device} (d : Device) (x : ReadCtx) (key : Nat) (outer : Nat) (amax : List Q) (h : Device.Within P d₀ d) (hp : 49152 &&& P = 49152 := by exact subset_mono (by assumption) rfl) : OkHolds (fun r => Device.Within P d₀ r.1) (recordStats d x key outer amax) := by
  unfold recordStats
  try dsimp only
  repeat' (first | with_reducible exact subset_mono (by assumption) rfl | with_reducible assumption | with_reducible apply Device.write_within | with_reducible apply Device.store_within | with_reducible exact OkHolds.err _ | with_reducible apply OkHolds.ok | with_reducible refine Device.Within.foldl ?_ ?_ | split | (with_reducible refine OkHolds.get (P := Device.Within P d₀) ?_ (by assumption)) | intro _ | dsimp only | with_reducible apply OkHolds.ite)

theorem writeSheaf_within {P : Nat} {d₀ : Device} (d : Device) (x : ReadCtx) (t : Table) (j : Nat) (f : Nat) (gutter : Bool) (bytes : List Byte) (h : Device.Within P d₀ d) (hp : 49152 &&& P = 49152 := by exact subset_mono (by assumption) rfl) : OkHolds (Device.Within P d₀) (writeSheaf d x t j f gutter bytes) := by
  unfold writeSheaf
  try dsimp only
  repeat' (first | with_reducible exact subset_mono (by assumption) rfl | with_reducible assumption | with_reducible apply Device.write_within | with_reducible apply writeEntryForm_within | with_reducible exact OkHolds.err _ | with_reducible apply OkHolds.ok | with_reducible refine Device.Within.foldl ?_ ?_ | split | (with_reducible refine OkHolds.get (P := Device.Within P d₀) ?_ (by assumption)) | intro _ | dsimp only | with_reducible apply OkHolds.ite)

theorem writeSheaves_within {P : Nat} {d₀ : Device} (d : Device) (x : ReadCtx) (t : Table) (f : Nat) (gutter : Bool) (a : List (SheafOut × Nat)) (h : Device.Within P d₀ d) (hp : 49152 &&& P = 49152 := by exact subset_mono (by assumption) rfl) : OkHolds (Device.Within P d₀) (writeSheaves d x t f gutter a) := by
  induction a generalizing d with
  | nil => unfold writeSheaves; try dsimp only
           repeat' (first | with_reducible exact subset_mono (by assumption) rfl | with_reducible assumption | with_reducible apply writeSheaf_within | with_reducible exact OkHolds.err _ | with_reducible apply OkHolds.ok | with_reducible refine Device.Within.foldl ?_ ?_ | split | (with_reducible refine OkHolds.get (P := Device.Within P d₀) ?_ (by assumption)) | intro _ | dsimp only | with_reducible apply OkHolds.ite)
  | cons x r ih =>
    unfold writeSheaves
    try dsimp only
    repeat' (first | with_reducible apply ih | with_reducible exact subset_mono (by assumption) rfl | with_reducible assumption | with_reducible apply writeSheaf_within | with_reducible exact OkHolds.err _ | with_reducible apply OkHolds.ok | with_reducible refine Device.Within.foldl ?_ ?_ | split | (with_reducible refine OkHolds.get (P := Device.Within P d₀) ?_ (by assumption)) | intro _ | dsimp only | with_reducible apply OkHolds.ite | (with_reducible refine OkHolds.get (P := Device.Within P d₀) (ih _ ?_) (by assumption)))

theorem writeOutput_within {P : Nat} {d₀ : Device} (d : Device) (x : ReadCtx) (c : Cmd) (oi : Nat) (allow : Nat) (o : OutSpec) (h : Device.Within P d₀ d) (hp : 134266880 &&& P = 134266880 := by exact subset_mono (by assumption) rfl) : OkHolds (fun r => Device.Within P d₀ r.1) (writeOutput d x c oi allow o) := by
  unfold writeOutput
  try dsimp only
  repeat' (first | with_reducible exact subset_mono (by assumption) rfl | with_reducible assumption | with_reducible apply Device.write_within | with_reducible apply writeSheaves_within | with_reducible apply recordStats_within | with_reducible apply Device.count_within | with_reducible exact OkHolds.err _ | with_reducible apply OkHolds.ok | with_reducible refine Device.Within.foldl ?_ ?_ | split | (with_reducible refine OkHolds.get (P := Device.Within P d₀) ?_ (by assumption)) | (with_reducible refine OkHolds.get1 ?_ (by assumption)) | intro _ | dsimp only | with_reducible apply OkHolds.ite)

theorem writeOutputsFrom_within {P : Nat} {d₀ : Device} (d : Device) (x : ReadCtx) (c : Cmd) (allow : Nat) (a : List (OutSpec × Nat)) (h : Device.Within P d₀ d) (hp : 134266880 &&& P = 134266880 := by exact subset_mono (by assumption) rfl) : OkHolds (fun r => Device.Within P d₀ r.1) (writeOutputsFrom d x c allow a) := by
  induction a generalizing d c with
  | nil => unfold writeOutputsFrom; try dsimp only
           repeat' (first | with_reducible exact subset_mono (by assumption) rfl | with_reducible assumption | with_reducible apply writeOutput_within | with_reducible exact OkHolds.err _ | with_reducible apply OkHolds.ok | with_reducible refine Device.Within.foldl ?_ ?_ | split | (with_reducible refine OkHolds.get1 ?_ (by assumption)) | intro _ | dsimp only | with_reducible apply OkHolds.ite)
  | cons x r ih =>
    unfold writeOutputsFrom
    try dsimp only
    repeat' (first | with_reducible apply ih | with_reducible exact subset_mono (by assumption) rfl | with_reducible assumption | with_reducible apply writeOutput_within | with_reducible exact OkHolds.err _ | with_reducible apply OkHolds.ok | with_reducible refine Device.Within.foldl ?_ ?_ | split | (with_reducible refine OkHolds.get1 ?_ (by assumption)) | intro _ | dsimp only | with_reducible apply OkHolds.ite | (with_reducible refine OkHolds.get1 (ih _ _ ?_) (by assumption)))

theorem writeOutputs_within {P : Nat} {d₀ : Device} (d : Device) (x : ReadCtx) (c : Cmd) (os : List OutSpec) (h : Device.Within P d₀ d) (hp : 134266880 &&& P = 134266880 := by exact subset_mono (by assumption) rfl) : OkHolds (fun r => Device.Within P d₀ r.1) (writeOutputs d x c os) := by
  unfold writeOutputs
  try dsimp only
  repeat' (first | with_reducible exact subset_mono (by assumption) rfl | with_reducible assumption | with_reducible apply writeOutputsFrom_within | with_reducible exact OkHolds.err _ | with_reducible apply OkHolds.ok | with_reducible refine Device.Within.foldl ?_ ?_ | split | (with_reducible refine OkHolds.get1 ?_ (by assumption)) | intro _ | dsimp only | with_reducible apply OkHolds.ite)

theorem reexecute_within {P : Nat} {d₀ : Device} (d : Device) (x : ReadCtx) (c : Cmd) (t : Trip) (o : OutSpec) (h : Device.Within P d₀ d) (hp : 134266880 &&& P = 134266880 := by exact subset_mono (by assumption) rfl) : OkHolds (fun r => Device.Within P d₀ r.1) (reexecute d x c t o) := by
  unfold reexecute
  try dsimp only
  repeat' (first | with_reducible exact subset_mono (by assumption) rfl | with_reducible assumption | with_reducible apply writeSheaf_within | with_reducible apply Device.count_within | with_reducible exact OkHolds.err _ | with_reducible apply OkHolds.ok | with_reducible refine Device.Within.foldl ?_ ?_ | split | (with_reducible refine OkHolds.get (P := Device.Within P d₀) ?_ (by assumption)) | intro _ | dsimp only | with_reducible apply OkHolds.ite)


/-! ### Lifecycle -/

theorem Device.endOp_within {P : Nat} {d₀ : Device} (d : Device) (tag : Nat) (i : Nat) (h : Device.Within P d₀ d) (hp : 139776 &&& P = 139776 := by exact subset_mono (by assumption) rfl) : Device.Within P d₀ (Device.endOp d tag i) := by
  unfold Device.endOp
  try dsimp only
  repeat' (first | with_reducible exact subset_mono (by assumption) rfl | with_reducible assumption | with_reducible apply Device.dropWaits_within | with_reducible apply Device.setTile_within | with_reducible apply Device.modCmd_within | with_reducible apply Device.modBay_within | with_reducible refine Device.Within.foldl ?_ ?_ | split | intro _ | dsimp only)

theorem Device.dropOps_within {P : Nat} {d₀ : Device} (d : Device) (tag : Nat) (h : Device.Within P d₀ d) (hp : 139776 &&& P = 139776 := by exact subset_mono (by assumption) rfl) : Device.Within P d₀ (Device.dropOps d tag) := by
  unfold Device.dropOps
  try dsimp only
  repeat' (first | with_reducible exact subset_mono (by assumption) rfl | with_reducible assumption | with_reducible apply Device.endOp_within | with_reducible refine Device.Within.foldl ?_ ?_ | split | intro _ | dsimp only)

theorem Device.failCmd_within {P : Nat} {d₀ : Device} (d : Device) (tag : Nat) (status : Nat) (cause : Nat) (bay : Nat) (h : Device.Within P d₀ d) (hp : 201466376 &&& P = 201466376 := by exact subset_mono (by assumption) rfl) : Device.Within P d₀ (Device.failCmd d tag status cause bay) := by
  unfold Device.failCmd
  try dsimp only
  repeat' (first | with_reducible exact subset_mono (by assumption) rfl | with_reducible assumption | with_reducible apply Device.modCmd_within | with_reducible apply Device.dropOps_within | with_reducible apply Device.poisonEvent_within | with_reducible apply Device.count_within | with_reducible refine Device.Within.foldl ?_ ?_ | split | intro _ | dsimp only)

theorem Device.failWith_within {P : Nat} {d₀ : Device} (d : Device) (tag : Nat) (status : Nat) (h : Device.Within P d₀ d) (hp : 201466376 &&& P = 201466376 := by exact subset_mono (by assumption) rfl) : Device.Within P d₀ (Device.failWith d tag status) := by
  unfold Device.failWith
  try dsimp only
  repeat' (first | with_reducible exact subset_mono (by assumption) rfl | with_reducible assumption | with_reducible apply Device.failCmd_within | with_reducible refine Device.Within.foldl ?_ ?_ | split | intro _ | dsimp only)


/-! ### Desc -/

theorem sealWords_within {P : Nat} {d₀ : Device} (d : Device) (x : ReadCtx) (t : Table) (a : List Nat) (h : Device.Within P d₀ d) (hp : 49152 &&& P = 49152 := by exact subset_mono (by assumption) rfl) : OkHolds (Device.Within P d₀) (sealWords d x t a) := by
  induction a generalizing d with
  | nil => unfold sealWords; try dsimp only
           repeat' (first | with_reducible exact subset_mono (by assumption) rfl | with_reducible assumption | with_reducible apply writeSheaf_within | with_reducible exact OkHolds.err _ | with_reducible apply OkHolds.ok | with_reducible refine Device.Within.foldl ?_ ?_ | split | (with_reducible refine OkHolds.get (P := Device.Within P d₀) ?_ (by assumption)) | intro _ | dsimp only | with_reducible apply OkHolds.ite)
  | cons x r ih =>
    unfold sealWords
    try dsimp only
    repeat' (first | with_reducible apply ih | with_reducible exact subset_mono (by assumption) rfl | with_reducible assumption | with_reducible apply writeSheaf_within | with_reducible exact OkHolds.err _ | with_reducible apply OkHolds.ok | with_reducible refine Device.Within.foldl ?_ ?_ | split | (with_reducible refine OkHolds.get (P := Device.Within P d₀) ?_ (by assumption)) | intro _ | dsimp only | with_reducible apply OkHolds.ite | (with_reducible refine OkHolds.get (P := Device.Within P d₀) (ih _ ?_) (by assumption)))

theorem sealTables_within {P : Nat} {d₀ : Device} (d : Device) (x : ReadCtx) (a : List Table) (h : Device.Within P d₀ d) (hp : 49152 &&& P = 49152 := by exact subset_mono (by assumption) rfl) : OkHolds (Device.Within P d₀) (sealTables d x a) := by
  induction a generalizing d with
  | nil => unfold sealTables; try dsimp only
           repeat' (first | with_reducible exact subset_mono (by assumption) rfl | with_reducible assumption | with_reducible apply sealWords_within | with_reducible exact OkHolds.err _ | with_reducible apply OkHolds.ok | with_reducible refine Device.Within.foldl ?_ ?_ | split | (with_reducible refine OkHolds.get (P := Device.Within P d₀) ?_ (by assumption)) | intro _ | dsimp only | with_reducible apply OkHolds.ite)
  | cons x r ih =>
    unfold sealTables
    try dsimp only
    repeat' (first | with_reducible apply ih | with_reducible exact subset_mono (by assumption) rfl | with_reducible assumption | with_reducible apply sealWords_within | with_reducible exact OkHolds.err _ | with_reducible apply OkHolds.ok | with_reducible refine Device.Within.foldl ?_ ?_ | split | (with_reducible refine OkHolds.get (P := Device.Within P d₀) ?_ (by assumption)) | intro _ | dsimp only | with_reducible apply OkHolds.ite | (with_reducible refine OkHolds.get (P := Device.Within P d₀) (ih _ ?_) (by assumption)))

theorem Device.writeLate_within {P : Nat} {d₀ : Device} (d : Device) (tag : Nat) (h : Device.Within P d₀ d) (hp : 201515528 &&& P = 201515528 := by exact subset_mono (by assumption) rfl) : Device.Within P d₀ (Device.writeLate d tag) := by
  unfold Device.writeLate
  try dsimp only
  repeat' (first | with_reducible exact subset_mono (by assumption) rfl | with_reducible assumption | with_reducible apply allWrites_within | with_reducible apply Device.failWith_within | with_reducible apply sealTables_within | with_reducible apply Device.modCmd_within | with_reducible refine Device.Within.foldl ?_ ?_ | split | (with_reducible refine OkHolds.get (P := Device.Within P d₀) ?_ (by assumption)) | intro _ | dsimp only)

theorem Device.settle_within {P : Nat} {d₀ : Device} (d : Device) (tag : Nat) (h : Device.Within P d₀ d) (hp : 201515528 &&& P = 201515528 := by exact subset_mono (by assumption) rfl) : Device.Within P d₀ (Device.settle d tag) := by
  unfold Device.settle
  try dsimp only
  repeat' (first | with_reducible exact subset_mono (by assumption) rfl | with_reducible assumption | with_reducible apply Device.failWith_within | with_reducible apply writeOutputs_within | with_reducible apply Device.writeLate_within | with_reducible apply Device.modCmd_within | with_reducible refine Device.Within.foldl ?_ ?_ | split | (with_reducible refine OkHolds.get1 ?_ (by assumption)) | intro _ | dsimp only)

theorem Device.scrambleHost_within {P : Nat} {d₀ : Device} (d : Device) (r : Nat × Nat) (h : Device.Within P d₀ d) (hp : 4295032832 &&& P = 4295032832 := by exact subset_mono (by assumption) rfl) : Device.Within P d₀ (Device.scrambleHost d r) :=
  Device.drew_within _ _ (Device.Within.hostWrite h (fun x => Mem.write_wf _ _ _ x) (subset_mono hp rfl))

theorem Device.unpaused_within {P : Nat} {d₀ : Device} (d : Device) (h : Device.Within P d₀ d) (hp : 131072 &&& P = 131072 := by exact subset_mono (by assumption) rfl) : Device.Within P d₀ (Device.unpaused d) := by
  unfold Device.unpaused
  try dsimp only
  repeat' (first | with_reducible exact subset_mono (by assumption) rfl | with_reducible assumption | with_reducible refine Device.Within.foldl ?_ ?_ | split | (with_reducible refine Device.Within.upd (ps := 131072) ?_ ?_ ?_ ?_ ?_) | rfl | (intro p; cases p <;> first | exact Or.inl rfl | exact Or.inr rfl) | intro _ | dsimp only)

theorem Device.spoil_within {P : Nat} {d₀ : Device} (d : Device) (c : Cmd) (h : Device.Within P d₀ d) (hp : 4295213056 &&& P = 4295213056 := by exact subset_mono (by assumption) rfl) : Device.Within P d₀ (Device.spoil d c) := by
  unfold Device.spoil
  try dsimp only
  repeat' (first | with_reducible exact subset_mono (by assumption) rfl | with_reducible assumption | with_reducible apply Device.scrambleHost_within | with_reducible apply Device.scramble_within | with_reducible apply Device.unpaused_within | with_reducible refine Device.Within.foldl ?_ ?_ | split | intro _ | dsimp only)


/-! ### Homes -/

theorem Device.putBytes_within {P : Nat} {d₀ : Device} (d : Device) (a : Nat) (bs : List Byte) (h : Device.Within P d₀ d) (hp : 49152 &&& P = 49152 := by exact subset_mono (by assumption) rfl) : Device.Within P d₀ (Device.putBytes d a bs) := by
  unfold Device.putBytes
  try dsimp only
  repeat' (first | with_reducible exact subset_mono (by assumption) rfl | with_reducible assumption | with_reducible apply Device.store_within | with_reducible refine Device.Within.foldl ?_ ?_ | split | intro _ | dsimp only)

theorem Device.putHome_within {P : Nat} {d₀ : Device} (d : Device) (k : Nat) (t : Nat) (dep : Nat) (bank : Nat) (pos : Nat) (slot : Nat) (vs : List (Nat × Acc)) (h : Device.Within P d₀ d) (hp : 49152 &&& P = 49152 := by exact subset_mono (by assumption) rfl) : Device.Within P d₀ (Device.putHome d k t dep bank pos slot vs) := by
  unfold Device.putHome
  try dsimp only
  repeat' (first | with_reducible exact subset_mono (by assumption) rfl | with_reducible assumption | with_reducible apply Device.putBytes_within | with_reducible refine Device.Within.foldl ?_ ?_ | split | intro _ | dsimp only)

theorem Device.pushHome_within {P : Nat} {d₀ : Device} (d : Device) (k : Nat) (t : Nat) (dep : Nat) (pos : Nat) (g : ArrayGroup) (h : Device.Within P d₀ d) (hp : 49152 &&& P = 49152 := by exact subset_mono (by assumption) rfl) : Device.Within P d₀ (Device.pushHome d k t dep pos g).1 := by
  unfold Device.pushHome
  try dsimp only
  repeat' (first | with_reducible exact subset_mono (by assumption) rfl | with_reducible assumption | with_reducible apply Device.putHome_within | with_reducible refine Device.Within.foldl ?_ ?_ | split | intro _ | dsimp only)

theorem Device.rewriteMirrors_within {P : Nat} {d₀ : Device} (d : Device) (k : Nat) (t : Nat) (h : Device.Within P d₀ d) (hp : 49152 &&& P = 49152 := by exact subset_mono (by assumption) rfl) : Device.Within P d₀ (Device.rewriteMirrors d k t) := by
  unfold Device.rewriteMirrors
  try dsimp only
  repeat' (first | with_reducible exact subset_mono (by assumption) rfl | with_reducible assumption | with_reducible apply Device.putBytes_within | with_reducible refine Device.Within.foldl ?_ ?_ | split | intro _ | dsimp only)

theorem Device.fetchMirrors_within {P : Nat} {d₀ : Device} (d : Device) (k : Nat) (t : Nat) (h : Device.Within P d₀ d) (hp : 49152 &&& P = 49152 := by exact subset_mono (by assumption) rfl) : Device.Within P d₀ (Device.fetchMirrors d k t) := by
  unfold Device.fetchMirrors
  try dsimp only
  repeat' (first | with_reducible exact subset_mono (by assumption) rfl | with_reducible assumption | with_reducible apply Device.putBytes_within | with_reducible refine Device.Within.foldl ?_ ?_ | split | intro _ | dsimp only)

theorem Device.saveGroup_within {P : Nat} {d₀ : Device} (d : Device) (k : Nat) (t : Nat) (g : ArrayGroup) (h : Device.Within P d₀ d) (hp : 49152 &&& P = 49152 := by exact subset_mono (by assumption) rfl) : Device.Within P d₀ (Device.saveGroup d k t g) := by
  unfold Device.saveGroup
  try dsimp only
  repeat' (first | with_reducible exact subset_mono (by assumption) rfl | with_reducible assumption | with_reducible apply Device.putBytes_within | with_reducible refine Device.Within.foldl ?_ ?_ | split | intro _ | dsimp only)

theorem Device.freeLanes_within {P : Nat} {d₀ : Device} (d : Device) (k : Nat) (t : Nat) (h : Device.Within P d₀ d) (hp : 57344 &&& P = 57344 := by exact subset_mono (by assumption) rfl) : Device.Within P d₀ (Device.freeLanes d k t) := by
  unfold Device.freeLanes
  try dsimp only
  repeat' (first | with_reducible exact subset_mono (by assumption) rfl | with_reducible assumption | with_reducible apply Device.putBytes_within | with_reducible apply Device.setTile_within | with_reducible refine Device.Within.foldl ?_ ?_ | split | intro _ | dsimp only)

theorem Device.snapshot_within {P : Nat} {d₀ : Device} (d : Device) (k : Nat) (t : Nat) (g : ArrayGroup) (next : Nat) (tree : Bool) (h : Device.Within P d₀ d) (hp : 57344 &&& P = 57344 := by exact subset_mono (by assumption) rfl) : Device.Within P d₀ (Device.snapshot d k t g next tree) := by
  unfold Device.snapshot
  try dsimp only
  repeat' (first | with_reducible exact subset_mono (by assumption) rfl | with_reducible assumption | with_reducible apply Device.putBytes_within | with_reducible apply Device.rewriteMirrors_within | with_reducible apply Device.setTile_within | with_reducible refine Device.Within.foldl ?_ ?_ | split | intro _ | dsimp only)


/-! ### Net -/

theorem Device.pump_within {P : Nat} {d₀ : Device} (d : Device) (k : Nat) (h : Device.Within P d₀ d) (hp : 135266304 &&& P = 135266304 := by exact subset_mono (by assumption) rfl) : Device.Within P d₀ (Device.pump d k) := by
  unfold Device.pump
  try dsimp only
  repeat' (first | with_reducible exact subset_mono (by assumption) rfl | with_reducible assumption | with_reducible apply Device.count_within | with_reducible apply Device.setPort_within | with_reducible refine Device.Within.foldl ?_ ?_ | split | intro _ | dsimp only)

theorem Device.send_within {P : Nat} {d₀ : Device} (d : Device) (k : Nat) (f : Frame) (h : Device.Within P d₀ d) (hp : 135266304 &&& P = 135266304 := by exact subset_mono (by assumption) rfl) : Device.Within P d₀ (Device.send d k f) := by
  unfold Device.send
  try dsimp only
  repeat' (first | with_reducible exact subset_mono (by assumption) rfl | with_reducible assumption | with_reducible apply Device.pump_within | with_reducible apply Device.modPort_within | with_reducible refine Device.Within.foldl ?_ ?_ | split | intro _ | dsimp only)

theorem Device.hello_within {P : Nat} {d₀ : Device} (d : Device) (k : Nat) (h : Device.Within P d₀ d) (hp : 1048576 &&& P = 1048576 := by exact subset_mono (by assumption) rfl) : Device.Within P d₀ (Device.hello d k) := by
  unfold Device.hello
  try dsimp only
  repeat' (first | with_reducible exact subset_mono (by assumption) rfl | with_reducible assumption | with_reducible apply Device.modPort_within | with_reducible refine Device.Within.foldl ?_ ?_ | split | intro _ | dsimp only)

theorem Device.returnCredits_within {P : Nat} {d₀ : Device} (d : Device) (k : Nat) (all' : Bool) (h : Device.Within P d₀ d) (hp : 135266304 &&& P = 135266304 := by exact subset_mono (by assumption) rfl) : Device.Within P d₀ (Device.returnCredits d k all') := by
  unfold Device.returnCredits
  try dsimp only
  repeat' (first | with_reducible exact subset_mono (by assumption) rfl | with_reducible assumption | with_reducible apply Device.send_within | with_reducible refine Device.Within.foldl ?_ ?_ | split | intro _ | dsimp only)

theorem Device.grantOwed_within {P : Nat} {d₀ : Device} (d : Device) (k : Nat) (h : Device.Within P d₀ d) (hp : 135266304 &&& P = 135266304 := by exact subset_mono (by assumption) rfl) : Device.Within P d₀ (Device.grantOwed d k) := by
  unfold Device.grantOwed
  try dsimp only
  repeat' (first | with_reducible exact subset_mono (by assumption) rfl | with_reducible assumption | with_reducible apply Device.returnCredits_within | with_reducible refine Device.Within.foldl ?_ ?_ | split | intro _ | dsimp only)

theorem Device.abortBut_within {P : Nat} {d₀ : Device} (d : Device) (c : Cmd) (skip : Nat) (h : Device.Within P d₀ d) (hp : 135266304 &&& P = 135266304 := by exact subset_mono (by assumption) rfl) : Device.Within P d₀ (Device.abortBut d c skip) := by
  unfold Device.abortBut
  try dsimp only
  repeat' (first | with_reducible exact subset_mono (by assumption) rfl | with_reducible assumption | with_reducible apply Device.send_within | with_reducible refine Device.Within.foldl ?_ ?_ | split | intro _ | dsimp only)

theorem Device.abort_within {P : Nat} {d₀ : Device} (d : Device) (c : Cmd) (h : Device.Within P d₀ d) (hp : 135266304 &&& P = 135266304 := by exact subset_mono (by assumption) rfl) : Device.Within P d₀ (Device.abort d c) := by
  unfold Device.abort
  try dsimp only
  repeat' (first | with_reducible exact subset_mono (by assumption) rfl | with_reducible assumption | with_reducible apply Device.abortBut_within | with_reducible refine Device.Within.foldl ?_ ?_ | split | intro _ | dsimp only)

theorem Device.failFabric_within {P : Nat} {d₀ : Device} (d : Device) (tag : Nat) (bay : Nat) (h : Device.Within P d₀ d) (hp : 202514952 &&& P = 202514952 := by exact subset_mono (by assumption) rfl) : Device.Within P d₀ (Device.failFabric d tag bay) := by
  unfold Device.failFabric
  try dsimp only
  repeat' (first | with_reducible exact subset_mono (by assumption) rfl | with_reducible assumption | with_reducible apply Device.abort_within | with_reducible apply Device.failCmd_within | with_reducible refine Device.Within.foldl ?_ ?_ | split | intro _ | dsimp only)

theorem Device.failCheck_within {P : Nat} {d₀ : Device} (d : Device) (tag : Nat) (h : Device.Within P d₀ d) (hp : 202514952 &&& P = 202514952 := by exact subset_mono (by assumption) rfl) : Device.Within P d₀ (Device.failCheck d tag) := by
  unfold Device.failCheck
  try dsimp only
  repeat' (first | with_reducible exact subset_mono (by assumption) rfl | with_reducible assumption | with_reducible apply Device.abort_within | with_reducible apply Device.failWith_within | with_reducible refine Device.Within.foldl ?_ ?_ | split | intro _ | dsimp only)

theorem Device.dropAllWaits_within {P : Nat} {d₀ : Device} (d : Device) (tag : Nat) (h : Device.Within P d₀ d) (hp : 131072 &&& P = 131072 := by exact subset_mono (by assumption) rfl) : Device.Within P d₀ (Device.dropAllWaits d tag) := by
  unfold Device.dropAllWaits
  try dsimp only
  repeat' (first | with_reducible exact subset_mono (by assumption) rfl | with_reducible assumption | with_reducible refine Device.Within.foldl ?_ ?_ | split | (with_reducible refine Device.Within.upd (ps := 131072) ?_ ?_ ?_ ?_ ?_) | rfl | (intro p; cases p <;> first | exact Or.inl rfl | exact Or.inr rfl) | intro _ | dsimp only)

theorem Device.stopPort_within {P : Nat} {d₀ : Device} (d : Device) (k : Nat) (h : Device.Within P d₀ d) (hp : 1049088 &&& P = 1049088 := by exact subset_mono (by assumption) rfl) : Device.Within P d₀ (Device.stopPort d k) := by
  unfold Device.stopPort
  try dsimp only
  repeat' (first | with_reducible exact subset_mono (by assumption) rfl | with_reducible assumption | with_reducible apply Device.modCmd_within | with_reducible apply Device.modPort_within | with_reducible refine Device.Within.foldl ?_ ?_ | split | intro _ | dsimp only)

theorem Device.dropTokens_within {P : Nat} {d₀ : Device} (d : Device) (tag : Nat) (h : Device.Within P d₀ d) (hp : 1048576 &&& P = 1048576 := by exact subset_mono (by assumption) rfl) : Device.Within P d₀ (Device.dropTokens d tag) := by
  unfold Device.dropTokens
  try dsimp only
  repeat' (first | with_reducible exact subset_mono (by assumption) rfl | with_reducible assumption | with_reducible apply Device.modPort_within | with_reducible refine Device.Within.foldl ?_ ?_ | split | intro _ | dsimp only)


/-! ### Records -/

theorem Device.writeCompletion_within {P : Nat} {d₀ : Device} (d : Device) (c : Cmd) (h : Device.Within P d₀ d) (hp : 6442516496 &&& P = 6442516496 := by exact subset_mono (by assumption) rfl) : Device.Within P d₀ (Device.writeCompletion d c) := by
  unfold Device.writeCompletion
  try dsimp only
  repeat' (first | with_reducible exact subset_mono (by assumption) rfl | with_reducible assumption | with_reducible apply Device.drew_within | with_reducible apply Device.putRecord_within | with_reducible apply Device.raise_within | with_reducible refine Device.Within.foldl ?_ ?_ | split | intro _ | dsimp only)

theorem closeLedgers_within {P : Nat} {d₀ : Device} (d : Device) (c : Cmd) (a : List (Nat × LedgerUse × OutStat)) (h : Device.Within P d₀ d) (hp : 134266880 &&& P = 134266880 := by exact subset_mono (by assumption) rfl) : Device.Within P d₀ (closeLedgers d c a).1 := by
  induction a generalizing d with
  | nil => unfold closeLedgers; try dsimp only
           repeat' (first | with_reducible exact subset_mono (by assumption) rfl | with_reducible assumption | with_reducible apply ledgerClose_within | with_reducible refine Device.Within.foldl ?_ ?_ | split | (with_reducible refine Device.Within.pair ?_ (by assumption)) | intro _ | dsimp only)
  | cons x r ih =>
    unfold closeLedgers
    try dsimp only
    repeat' (first | with_reducible apply ih | with_reducible exact subset_mono (by assumption) rfl | with_reducible assumption | with_reducible apply ledgerClose_within | with_reducible refine Device.Within.foldl ?_ ?_ | split | (with_reducible refine Device.Within.pair ?_ (by assumption)) | intro _ | dsimp only)

theorem Device.release_within {P : Nat} {d₀ : Device} (d : Device) (c : Cmd) (h : Device.Within P d₀ d) (hp : 135168 &&& P = 135168 := by exact subset_mono (by assumption) rfl) : Device.Within P d₀ (Device.release d c) := by
  unfold Device.release
  try dsimp only
  repeat' (first | with_reducible exact subset_mono (by assumption) rfl | with_reducible assumption | with_reducible apply Device.modBay_within | with_reducible refine Device.Within.foldl ?_ ?_ | split | (with_reducible refine Device.Within.upd (ps := 4096) ?_ ?_ ?_ ?_ ?_) | rfl | (intro p; cases p <;> first | exact Or.inl rfl | exact Or.inr rfl) | intro _ | dsimp only)

theorem Device.eventEffect_within {P : Nat} {d₀ : Device} (d : Device) (c : Cmd) (h : Device.Within P d₀ d) (hp : 2048 &&& P = 2048 := by exact subset_mono (by assumption) rfl) : Device.Within P d₀ (Device.eventEffect d c) := by
  unfold Device.eventEffect
  try dsimp only
  repeat' (first | with_reducible exact subset_mono (by assumption) rfl | with_reducible assumption | with_reducible apply Device.addEvent_within | with_reducible refine Device.Within.foldl ?_ ?_ | split | (with_reducible refine Device.Within.upd (ps := 2048) ?_ ?_ ?_ ?_ ?_) | rfl | (intro p; cases p <;> first | exact Or.inl rfl | exact Or.inr rfl) | intro _ | dsimp only)

theorem Device.purgeFrames_within {P : Nat} {d₀ : Device} (d : Device) (c : Cmd) (h : Device.Within P d₀ d) (hp : 1048576 &&& P = 1048576 := by exact subset_mono (by assumption) rfl) : Device.Within P d₀ (Device.purgeFrames d c) := by
  unfold Device.purgeFrames
  try dsimp only
  repeat' (first | with_reducible exact subset_mono (by assumption) rfl | with_reducible assumption | with_reducible apply Device.modPort_within | with_reducible refine Device.Within.foldl ?_ ?_ | split | intro _ | dsimp only)

theorem Device.wakeFabric_within {P : Nat} {d₀ : Device} (d0 : Device) (d1 : Device) (h : Device.Within P d₀ d1) (hp : 512 &&& P = 512 := by exact subset_mono (by assumption) rfl) : Device.Within P d₀ (Device.wakeFabric d0 d1) := by
  unfold Device.wakeFabric
  try dsimp only
  repeat' (first | with_reducible exact subset_mono (by assumption) rfl | with_reducible assumption | with_reducible refine Device.Within.foldl ?_ ?_ | split | (with_reducible refine Device.Within.upd (ps := 512) ?_ ?_ ?_ ?_ ?_) | rfl | (intro p; cases p <;> first | exact Or.inl rfl | exact Or.inr rfl) | intro _ | dsimp only)

theorem Device.closeOut_within {P : Nat} {d₀ : Device} (d : Device) (c : Cmd) (h : Device.Within P d₀ d) (hp : 4429430784 &&& P = 4429430784 := by exact subset_mono (by assumption) rfl) : Device.Within P d₀ (Device.closeOut d c).1 := by
  unfold Device.closeOut
  try dsimp only
  repeat' (first | with_reducible exact subset_mono (by assumption) rfl | with_reducible assumption | with_reducible apply Device.spoil_within | with_reducible apply closeLedgers_within | with_reducible refine Device.Within.foldl ?_ ?_ | split | (with_reducible refine Device.Within.pair ?_ (by assumption)) | intro _ | dsimp only)

theorem Device.report_within {P : Nat} {d₀ : Device} (d : Device) (c : Cmd) (h : Device.Within P d₀ d) (hp : 6643843096 &&& P = 6643843096 := by exact subset_mono (by assumption) rfl) : Device.Within P d₀ (Device.report d c) := by
  unfold Device.report
  try dsimp only
  repeat' (first | with_reducible exact subset_mono (by assumption) rfl | with_reducible assumption | with_reducible apply Device.count_within | with_reducible apply Device.writeCompletion_within | with_reducible apply Device.logEvent_within | with_reducible refine Device.Within.foldl ?_ ?_ | split | intro _ | dsimp only)

theorem Device.signal_within {P : Nat} {d₀ : Device} (d : Device) (c : Cmd) (h : Device.Within P d₀ d) (hp : 2048 &&& P = 2048 := by exact subset_mono (by assumption) rfl) : Device.Within P d₀ (Device.signal d c) := by
  unfold Device.signal
  try dsimp only
  repeat' (first | with_reducible exact subset_mono (by assumption) rfl | with_reducible assumption | with_reducible apply Device.addEvent_within | with_reducible apply Device.eventEffect_within | with_reducible refine Device.Within.foldl ?_ ?_ | split | intro _ | dsimp only)

theorem Device.giveBack_within {P : Nat} {d₀ : Device} (d : Device) (c : Cmd) (h : Device.Within P d₀ d) (hp : 1183744 &&& P = 1183744 := by exact subset_mono (by assumption) rfl) : Device.Within P d₀ (Device.giveBack d c) := by
  unfold Device.giveBack
  try dsimp only
  repeat' (first | with_reducible exact subset_mono (by assumption) rfl | with_reducible assumption | with_reducible apply Device.release_within | with_reducible apply Device.dropAllWaits_within | with_reducible apply Device.dropTokens_within | with_reducible apply Device.purgeFrames_within | with_reducible refine Device.Within.foldl ?_ ?_ | split | intro _ | dsimp only)

theorem Device.drop_within {P : Nat} {d₀ : Device} (d : Device) (tag : Nat) (h : Device.Within P d₀ d) (hp : 768 &&& P = 768 := by exact subset_mono (by assumption) rfl) : Device.Within P d₀ (Device.drop d tag) := by
  unfold Device.drop
  try dsimp only
  repeat' (first | with_reducible exact subset_mono (by assumption) rfl | with_reducible assumption | with_reducible refine Device.Within.foldl ?_ ?_ | split | (with_reducible refine Device.Within.upd (ps := 768) ?_ ?_ ?_ ?_ ?_) | rfl | (intro p; cases p <;> first | exact Or.inl rfl | exact Or.inr rfl) | intro _ | dsimp only)

theorem Device.finish_within {P : Nat} {d₀ : Device} (d : Device) (tag : Nat) (h : Device.Within P d₀ d) (hp : 6645078808 &&& P = 6645078808 := by exact subset_mono (by assumption) rfl) : Device.Within P d₀ (Device.finish d tag) := by
  unfold Device.finish
  try dsimp only
  repeat' (first | with_reducible exact subset_mono (by assumption) rfl | with_reducible assumption | with_reducible apply Device.closeOut_within | with_reducible apply Device.settleTokens_within | with_reducible apply Device.wakeFabric_within | with_reducible apply Device.drop_within | with_reducible apply Device.giveBack_within | with_reducible apply Device.signal_within | with_reducible apply Device.report_within | with_reducible refine Device.Within.foldl ?_ ?_ | split | (with_reducible refine Device.Within.pair ?_ (by assumption)) | intro _ | dsimp only)


/-! ### Recovery -/

theorem Device.degrade_within {P : Nat} {d₀ : Device} (d : Device) (k : Nat) (path : Nat) (mech : Nat) (h : Device.Within P d₀ d) (hp : 2348941324 &&& P = 2348941324 := by exact subset_mono (by assumption) rfl) : Device.Within P d₀ (Device.degrade d k path mech) := by
  unfold Device.degrade
  try dsimp only
  repeat' (first | with_reducible exact subset_mono (by assumption) rfl | with_reducible assumption | with_reducible apply Device.alert_within | with_reducible apply Device.logEvent_within | with_reducible apply Device.modBay_within | with_reducible refine Device.Within.foldl ?_ ?_ | split | intro _ | dsimp only)

theorem Device.failBay_within {P : Nat} {d₀ : Device} (d : Device) (k : Nat) (cause : Nat) (h : Device.Within P d₀ d) (hp : 202514952 &&& P = 202514952 := by exact subset_mono (by assumption) rfl) : Device.Within P d₀ (Device.failBay d k cause) := by
  unfold Device.failBay
  try dsimp only
  repeat' (first | with_reducible exact subset_mono (by assumption) rfl | with_reducible assumption | with_reducible apply Device.abortBut_within | with_reducible apply Device.failCmd_within | with_reducible refine Device.Within.foldl ?_ ?_ | split | intro _ | dsimp only)

theorem Device.clearTiles_within {P : Nat} {d₀ : Device} (d : Device) (k : Nat) (h : Device.Within P d₀ d) (hp : 8192 &&& P = 8192 := by exact subset_mono (by assumption) rfl) : Device.Within P d₀ (Device.clearTiles d k) := by
  unfold Device.clearTiles
  try dsimp only
  repeat' (first | with_reducible exact subset_mono (by assumption) rfl | with_reducible assumption | with_reducible refine Device.Within.foldl ?_ ?_ | split | (with_reducible refine Device.Within.upd (ps := 8192) ?_ ?_ ?_ ?_ ?_) | rfl | (intro p; cases p <;> first | exact Or.inl rfl | exact Or.inr rfl) | intro _ | dsimp only)

theorem Device.clearSram_within {P : Nat} {d₀ : Device} (d : Device) (k : Nat) (h : Device.Within P d₀ d) (hp : 49152 &&& P = 49152 := by exact subset_mono (by assumption) rfl) : Device.Within P d₀ (Device.clearSram d k) :=
  Device.Within.memWrite h (fun x => Mem.filter_wf x) (subset_mono hp rfl)

theorem Device.outOfService_within {P : Nat} {d₀ : Device} (d : Device) (k : Nat) (reason : Nat) (w : Blame) (h : Device.Within P d₀ d) (hp : 2349998604 &&& P = 2349998604 := by exact subset_mono (by assumption) rfl) : Device.Within P d₀ (Device.outOfService d k reason w) := by
  unfold Device.outOfService
  try dsimp only
  repeat' (first | with_reducible exact subset_mono (by assumption) rfl | with_reducible assumption | with_reducible apply Device.clearTiles_within | with_reducible apply Device.failBay_within | with_reducible apply Device.modBay_within | with_reducible apply Device.alert_within | with_reducible apply Device.logEvent_within | with_reducible apply Device.stopPort_within | with_reducible refine Device.Within.foldl ?_ ?_ | split | intro _ | dsimp only)

theorem Device.bayReset_within {P : Nat} {d₀ : Device} (d : Device) (k : Nat) (cause : Nat) (w : Blame) (h : Device.Within P d₀ d) (hp : 202564104 &&& P = 202564104 := by exact subset_mono (by assumption) rfl) : Device.Within P d₀ (Device.bayReset d k cause w) := by
  unfold Device.bayReset
  try dsimp only
  repeat' (first | with_reducible exact subset_mono (by assumption) rfl | with_reducible assumption | with_reducible apply Device.modBay_within | with_reducible apply Device.clearSram_within | with_reducible apply Device.clearTiles_within | with_reducible apply Device.failBay_within | with_reducible apply Device.rungSeen_within | with_reducible apply Device.logEvent_within | with_reducible apply Device.modPort_within | with_reducible refine Device.Within.foldl ?_ ?_ | split | intro _ | dsimp only)

theorem Device.retireTile_within {P : Nat} {d₀ : Device} (d : Device) (k : Nat) (p : Nat) (h : Device.Within P d₀ d) (hp : 268566528 &&& P = 268566528 := by exact subset_mono (by assumption) rfl) : Device.Within P d₀ (Device.retireTile d k p) := by
  unfold Device.retireTile
  try dsimp only
  repeat' (first | with_reducible exact subset_mono (by assumption) rfl | with_reducible assumption | with_reducible apply Device.setBay_within | with_reducible refine Device.Within.foldl ?_ ?_ | split | (with_reducible refine Device.Within.upd (ps := 268435456) ?_ ?_ ?_ ?_ ?_) | rfl | (intro p; cases p <;> first | exact Or.inl rfl | exact Or.inr rfl) | intro _ | dsimp only)

theorem Device.renumber_within {P : Nat} {d₀ : Device} (d : Device) (k : Nat) (h : Device.Within P d₀ d) (hp : 2349998604 &&& P = 2349998604 := by exact subset_mono (by assumption) rfl) : Device.Within P d₀ (Device.renumber d k) := by
  unfold Device.renumber
  split
  · with_reducible apply Device.outOfService_within <;> first | assumption | exact subset_mono (by assumption) rfl
  · with_reducible apply Device.modBay_within <;> first | assumption | exact subset_mono (by assumption) rfl

theorem Device.escalateBay_within {P : Nat} {d₀ : Device} (d : Device) (k : Nat) (w : Blame) (h : Device.Within P d₀ d) (hp : 2350047756 &&& P = 2350047756 := by exact subset_mono (by assumption) rfl) : Device.Within P d₀ (Device.escalateBay d k w) := by
  unfold Device.escalateBay
  try dsimp only
  repeat' (first | with_reducible exact subset_mono (by assumption) rfl | with_reducible assumption | with_reducible apply Device.outOfService_within | with_reducible apply Device.bayReset_within | with_reducible refine Device.Within.foldl ?_ ?_ | split | intro _ | dsimp only)

theorem Device.bayDetected_within {P : Nat} {d₀ : Device} (d : Device) (k : Nat) (cause : Nat) (mech : Nat) (tag : Nat) (extra : List Byte) (h : Device.Within P d₀ d) (hp : 2350047756 &&& P = 2350047756 := by exact subset_mono (by assumption) rfl) : Device.Within P d₀ (Device.bayDetected d k cause mech tag extra) := by
  unfold Device.bayDetected
  try dsimp only
  repeat' (first | with_reducible exact subset_mono (by assumption) rfl | with_reducible assumption | with_reducible apply Device.modBay_within | with_reducible apply Device.bayReset_within | with_reducible apply Device.escalateBay_within | with_reducible refine Device.Within.foldl ?_ ?_ | split | intro _ | dsimp only)

theorem Device.abortCmds_within {P : Nat} {d₀ : Device} (d : Device) (which : Cmd → Bool) (h : Device.Within P d₀ d) (hp : 6645087000 &&& P = 6645087000 := by exact subset_mono (by assumption) rfl) : Device.Within P d₀ (Device.abortCmds d which) := by
  unfold Device.abortCmds
  try dsimp only
  repeat' (first | with_reducible exact subset_mono (by assumption) rfl | with_reducible assumption | with_reducible apply Device.finish_within | with_reducible apply Device.abort_within | with_reducible apply Device.failCmd_within | with_reducible refine Device.Within.foldl ?_ ?_ | split | intro _ | dsimp only)

theorem Device.pairReset_within {P : Nat} {d₀ : Device} (d : Device) (q : Nat) (mech : Nat) (h : Device.Within P d₀ d) (hp : 6645087032 &&& P = 6645087032 := by exact subset_mono (by assumption) rfl) : Device.Within P d₀ (Device.pairReset d q mech) := by
  unfold Device.pairReset
  try dsimp only
  repeat' (first | with_reducible exact subset_mono (by assumption) rfl | with_reducible assumption | with_reducible apply Device.abortCmds_within | with_reducible apply Device.rungSeen_within | with_reducible apply Device.logEvent_within | with_reducible apply Device.setQueue_within | with_reducible refine Device.Within.foldl ?_ ?_ | split | (with_reducible refine Device.Within.upd (ps := 32) ?_ ?_ ?_ ?_ ?_) | rfl | (intro p; cases p <;> first | exact Or.inl rfl | exact Or.inr rfl) | intro _ | dsimp only)

theorem Flash.cutShort_floors (f : Flash) (t : Option Nat) : (f.cutShort t).floors = f.floors := by unfold Flash.cutShort; split <;> rfl
theorem Flash.cutShort_revoked (f : Flash) (t : Option Nat) : (f.cutShort t).revoked = f.revoked := by unfold Flash.cutShort; split <;> rfl

theorem Device.loadCut_within {P : Nat} {d₀ : Device} (d : Device) (h : Device.Within P d₀ d) (hp : 805306376 &&& P = 805306376 := by exact subset_mono (by assumption) rfl) : Device.Within P d₀ (Device.loadCut d) := by
  unfold Device.loadCut
  split
  · rename_i t _
    refine (Device.touch_within d _ h (subset_mono hp rfl)).move (ps := 805306368) ⟨id, id, fun k => ?_, fun k x => ?_⟩ (by intro p; cases p <;> first | exact Or.inl rfl | exact Or.inr rfl) (subset_mono hp rfl)
    · show _ ≤ ((d.flash.cutShort (some t)).floors[k]?.getD 0); exact Nat.le_of_eq (by rw [Flash.cutShort_floors]; rfl)
    · show (d.flash.cutShort (some t)).revoked.testBit k = true; rw [Flash.cutShort_revoked]; exact x
  · exact h

theorem Device.setOwner_within {P : Nat} {d₀ : Device} (d : Device) (o : Nat) (h : Device.Within P d₀ d) (hp : 939524104 &&& P = 939524104 := by exact subset_mono (by assumption) rfl) : Device.Within P d₀ (Device.setOwner d o) := by
  unfold Device.setOwner
  try dsimp only
  repeat' (first | with_reducible exact subset_mono (by assumption) rfl | with_reducible assumption | with_reducible apply Device.loadCut_within | with_reducible apply Device.count_within | with_reducible apply Device.withDict_within | with_reducible refine Device.Within.foldl ?_ ?_ | split | (with_reducible refine Device.Within.upd (ps := 805306368) ?_ ?_ ?_ ?_ ?_) | rfl | (intro p; cases p <;> first | exact Or.inl rfl | exact Or.inr rfl) | intro _ | dsimp only)

theorem Device.closeSession_within {P : Nat} {d₀ : Device} (d : Device) (k : Nat) (h : Device.Within P d₀ d) (hp : 939524104 &&& P = 939524104 := by exact subset_mono (by assumption) rfl) : Device.Within P d₀ (Device.closeSession d k) := by
  unfold Device.closeSession
  try dsimp only
  repeat' (first | with_reducible exact subset_mono (by assumption) rfl | with_reducible assumption | with_reducible apply Device.setOwner_within | with_reducible apply Device.touch_within | with_reducible apply Device.withDict_within | with_reducible refine Device.Within.foldl ?_ ?_ | split | intro _ | dsimp only)

theorem Device.clearWork_within {P : Nat} {d₀ : Device} (d : Device) (h : Device.Within P d₀ d) (hp : 1240660986 &&& P = 1240660986 := by exact subset_mono (by assumption) rfl) : Device.Within P d₀ (Device.clearWork d) := by
  unfold Device.clearWork
  try dsimp only
  repeat' (first | with_reducible exact subset_mono (by assumption) rfl | with_reducible assumption | with_reducible apply Device.clearTiles_within | with_reducible apply Device.clearSram_within | with_reducible refine Device.Within.foldl ?_ ?_ | split | (with_reducible refine Device.Within.upd (ps := 1240603642) ?_ ?_ ?_ ?_ ?_) | rfl | (intro p; cases p <;> first | exact Or.inl rfl | exact Or.inr rfl) | intro _ | dsimp only)

theorem Device.rebuildLog_within {P : Nat} {d₀ : Device} (d : Device) (h : Device.Within P d₀ d) (hp : 67108872 &&& P = 67108872 := by exact subset_mono (by assumption) rfl) : Device.Within P d₀ (Device.rebuildLog d) := by
  unfold Device.rebuildLog
  try dsimp only
  repeat' (first | with_reducible exact subset_mono (by assumption) rfl | with_reducible assumption | with_reducible apply Device.logEvent_within | with_reducible refine Device.Within.foldl ?_ ?_ | split | (with_reducible refine Device.Within.upd (ps := 67108864) ?_ ?_ ?_ ?_ ?_) | rfl | (intro p; cases p <;> first | exact Or.inl rfl | exact Or.inr rfl) | intro _ | dsimp only)

theorem Device.rung3_within {P : Nat} {d₀ : Device} (d : Device) (o : ResetOrigin) (handling : Nat) (w : Blame) (h : Device.Within P d₀ d) (hp : 8555592702 &&& P = 8555592702 := by exact subset_mono (by assumption) rfl) : Device.Within P d₀ (Device.rung3 d o handling w) := by
  unfold Device.rung3
  try dsimp only
  repeat' (first | with_reducible exact subset_mono (by assumption) rfl | with_reducible assumption | with_reducible apply Device.setOwner_within | with_reducible apply Device.abortCmds_within | with_reducible apply Device.closeSession_within | with_reducible apply Device.withPower_within | with_reducible apply Device.clearWork_within | with_reducible apply Device.withOut_within | with_reducible apply Device.withSafety_within | with_reducible apply Device.rungSeen_within | with_reducible apply Device.logEvent_within | with_reducible apply Device.rebuildLog_within | with_reducible refine Device.Within.foldl ?_ ?_ | split | intro _ | dsimp only)

theorem Device.safeState_within {P : Nat} {d₀ : Device} (d : Device) (h : Device.Within P d₀ d) (hp : 2349998604 &&& P = 2349998604 := by exact subset_mono (by assumption) rfl) : Device.Within P d₀ (Device.safeState d) := by
  unfold Device.safeState
  try dsimp only
  repeat' (first | with_reducible exact subset_mono (by assumption) rfl | with_reducible assumption | with_reducible apply Device.outOfService_within | with_reducible refine Device.Within.foldl ?_ ?_ | split | intro _ | dsimp only)

theorem Device.deviceDetected_within {P : Nat} {d₀ : Device} (d : Device) (h : Device.Within P d₀ d) (hp : 8555592702 &&& P = 8555592702 := by exact subset_mono (by assumption) rfl) : Device.Within P d₀ (Device.deviceDetected d) := by
  unfold Device.deviceDetected
  try dsimp only
  repeat' (first | with_reducible exact subset_mono (by assumption) rfl | with_reducible assumption | with_reducible apply Device.alert_within | with_reducible apply Device.rungSeen_within | with_reducible apply Device.withSafety_within | with_reducible apply Device.rung3_within | with_reducible apply Device.safeState_within | with_reducible apply Device.logEvent_within | with_reducible refine Device.Within.foldl ?_ ?_ | split | intro _ | dsimp only)

theorem Device.pushError_within {P : Nat} {d₀ : Device} (d : Device) (k : Nat) (tile : Nat) (tag : Nat) (f : Detected) (h : Device.Within P d₀ d) (hp : 2350047756 &&& P = 2350047756 := by exact subset_mono (by assumption) rfl) : Device.Within P d₀ (Device.pushError d k tile tag f) := by
  unfold Device.pushError
  try dsimp only
  repeat' (first | with_reducible exact subset_mono (by assumption) rfl | with_reducible assumption | with_reducible apply Device.modBay_within | with_reducible apply emberAdd_within | with_reducible apply Device.withSafety_within | with_reducible apply Device.escalateBay_within | with_reducible apply Device.logEvent_within | with_reducible refine Device.Within.foldl ?_ ?_ | split | intro _ | dsimp only)

theorem Device.detect_within {P : Nat} {d₀ : Device} (d : Device) (k : Nat) (tile : Nat) (tag : Nat) (f : Detected) (h : Device.Within P d₀ d) (hp : 2350047756 &&& P = 2350047756 := by exact subset_mono (by assumption) rfl) : Device.Within P d₀ (Device.detect d k tile tag f) := by
  unfold Device.detect
  try dsimp only
  repeat' (first | with_reducible exact subset_mono (by assumption) rfl | with_reducible assumption | with_reducible apply Device.count_within | with_reducible apply Device.pushError_within | with_reducible refine Device.Within.foldl ?_ ?_ | split | intro _ | dsimp only)

theorem Device.detectAll_within {P : Nat} {d₀ : Device} (d : Device) (k : Nat) (tile : Nat) (tag : Nat) (fs : List Detected) (h : Device.Within P d₀ d) (hp : 2350047756 &&& P = 2350047756 := by exact subset_mono (by assumption) rfl) : Device.Within P d₀ (Device.detectAll d k tile tag fs) := by
  unfold Device.detectAll
  try dsimp only
  repeat' (first | with_reducible exact subset_mono (by assumption) rfl | with_reducible assumption | with_reducible apply Device.detect_within | with_reducible refine Device.Within.foldl ?_ ?_ | split | intro _ | dsimp only)


/-! ### Array -/

theorem Device.putStacks_within {P : Nat} {d₀ : Device} (d : Device) (k : Nat) (t : Nat) (dep : Nat) (bank : Nat) (lanes : List Nat) (entries : List (List Acc)) (h : Device.Within P d₀ d) (hp : 49152 &&& P = 49152 := by exact subset_mono (by assumption) rfl) : Device.Within P d₀ (Device.putStacks d k t dep bank lanes entries) := by
  unfold Device.putStacks
  try dsimp only
  repeat' (first | with_reducible exact subset_mono (by assumption) rfl | with_reducible assumption | with_reducible apply Device.putHome_within | with_reducible refine Device.Within.foldl ?_ ?_ | split | intro _ | dsimp only)

theorem Device.place_within {P : Nat} {d₀ : Device} (d : Device) (k : Nat) (t : Nat) (x : ReadCtx) (a : ArrayCmd) (tag : Nat) (i : Nat) (o : TileOp) (base : Nat) (bank : Nat) (h : Device.Within P d₀ d) (hp : 57344 &&& P = 57344 := by exact subset_mono (by assumption) rfl) : OkHolds (fun r => Device.Within P d₀ r.1) (Device.place d k t x a tag i o base bank) := by
  unfold Device.place
  try dsimp only
  repeat' (first | with_reducible exact subset_mono (by assumption) rfl | with_reducible assumption | with_reducible apply Device.putStacks_within | with_reducible apply Device.setTile_within | with_reducible exact OkHolds.err _ | with_reducible apply OkHolds.ok | with_reducible refine Device.Within.foldl ?_ ?_ | split | intro _ | dsimp only | with_reducible apply OkHolds.ite)

theorem Device.toDrain_within {P : Nat} {d₀ : Device} (d : Device) (k : Nat) (t : Nat) (g : ArrayGroup) (p : Piece) (h : Device.Within P d₀ d) (hp : 201466376 &&& P = 201466376 := by exact subset_mono (by assumption) rfl) : Device.Within P d₀ (Device.toDrain d k t g p) := by
  unfold Device.toDrain
  try dsimp only
  repeat' (first | with_reducible exact subset_mono (by assumption) rfl | with_reducible assumption | with_reducible apply Device.failWith_within | with_reducible apply Device.setTile_within | with_reducible refine Device.Within.foldl ?_ ?_ | split | intro _ | dsimp only)

theorem Device.finishGroup_within {P : Nat} {d₀ : Device} (d : Device) (k : Nat) (t : Nat) (g : ArrayGroup) (ps : List Piece) (h : Device.Within P d₀ d) (hp : 201466376 &&& P = 201466376 := by exact subset_mono (by assumption) rfl) : Device.Within P d₀ (Device.finishGroup d k t g ps) := by
  unfold Device.finishGroup
  try dsimp only
  repeat' (first | with_reducible exact subset_mono (by assumption) rfl | with_reducible assumption | with_reducible apply Device.toDrain_within | with_reducible refine Device.Within.foldl ?_ ?_ | split | intro _ | dsimp only)

theorem drainArray_within {P : Nat} {d₀ : Device} (d : Device) (x : ReadCtx) (a : ArrayCmd) (o : TileOp) (ls : List Folded) (h : Device.Within P d₀ d) (hp : 49152 &&& P = 49152 := by exact subset_mono (by assumption) rfl) : OkHolds (fun r => Device.Within P d₀ r.1) (drainArray d x a o ls) := by
  unfold drainArray
  try dsimp only
  repeat' (first | with_reducible exact subset_mono (by assumption) rfl | with_reducible assumption | with_reducible apply allWrites_within | with_reducible exact OkHolds.err _ | with_reducible apply OkHolds.ok | with_reducible refine Device.Within.foldl ?_ ?_ | split | (with_reducible refine OkHolds.get (P := Device.Within P d₀) ?_ (by assumption)) | intro _ | dsimp only | with_reducible apply OkHolds.ite)

theorem Device.modTile_within {P : Nat} {d₀ : Device} (d : Device) (key : Nat) (f : Tile → Tile) (h : Device.Within P d₀ d) (hp : 8192 &&& P = 8192 := by exact subset_mono (by assumption) rfl) : Device.Within P d₀ (Device.modTile d key f) := by
  unfold Device.modTile
  try dsimp only
  repeat' (first | with_reducible exact subset_mono (by assumption) rfl | with_reducible assumption | with_reducible apply Device.setTile_within | with_reducible refine Device.Within.foldl ?_ ?_ | split | intro _ | dsimp only)

theorem Device.withOp_within {P : Nat} {d₀ : Device} (d : Device) (tag : Nat) (i : Nat) (f : TileOp → TileOp) (h : Device.Within P d₀ d) (hp : 512 &&& P = 512 := by exact subset_mono (by assumption) rfl) : Device.Within P d₀ (Device.withOp d tag i f) := by
  unfold Device.withOp
  try dsimp only
  repeat' (first | with_reducible exact subset_mono (by assumption) rfl | with_reducible assumption | with_reducible apply Device.modCmd_within | with_reducible refine Device.Within.foldl ?_ ?_ | split | intro _ | dsimp only)

theorem Device.closeGroup_within {P : Nat} {d₀ : Device} (d : Device) (t : TileRef) (g : ArrayGroup) (ps : List Piece) (upsets : List (Nat × Nat)) (h : Device.Within P d₀ d) (hp : 2350047756 &&& P = 2350047756 := by exact subset_mono (by assumption) rfl) : Device.Within P d₀ (Device.closeGroup d t g ps upsets) := by
  unfold Device.closeGroup
  try dsimp only
  repeat' (first | with_reducible exact subset_mono (by assumption) rfl | with_reducible assumption | with_reducible apply Device.failWith_within | with_reducible apply Device.modTile_within | with_reducible apply Device.detect_within | with_reducible refine Device.Within.foldl ?_ ?_ | split | intro _ | dsimp only)

theorem Device.blockEndNow_within {P : Nat} {d₀ : Device} (d : Device) (t : TileRef) (upsets : List (Nat × Nat)) (found : List Detected) (h : Device.Within P d₀ d) (hp : 2350047756 &&& P = 2350047756 := by exact subset_mono (by assumption) rfl) : Device.Within P d₀ (Device.blockEndNow d t upsets found) := by
  unfold Device.blockEndNow
  try dsimp only
  repeat' (first | with_reducible exact subset_mono (by assumption) rfl | with_reducible assumption | with_reducible apply Device.failWith_within | with_reducible apply Device.detectAll_within | with_reducible apply Device.closeGroup_within | with_reducible refine Device.Within.foldl ?_ ?_ | split | intro _ | dsimp only)

theorem Device.blockEnd_within {P : Nat} {d₀ : Device} (d : Device) (t : TileRef) (upsets : List (Nat × Nat)) (found : List Detected) (h : Device.Within P d₀ d) (hp : 2350047756 &&& P = 2350047756 := by exact subset_mono (by assumption) rfl) : Device.Within P d₀ (Device.blockEnd d t upsets found) := by
  unfold Device.blockEnd
  try dsimp only
  repeat' (first | with_reducible exact subset_mono (by assumption) rfl | with_reducible assumption | with_reducible apply Device.whole_within | with_reducible apply Device.blockEndNow_within | with_reducible refine Device.Within.foldl ?_ ?_ | split | intro _ | dsimp only)

theorem Device.foldGroup_within {P : Nat} {d₀ : Device} (d : Device) (t : TileRef) (g : ArrayGroup) (p : Piece) (ps : List Piece) (h : Device.Within P d₀ d) (hp : 201515528 &&& P = 201515528 := by exact subset_mono (by assumption) rfl) : Device.Within P d₀ (Device.foldGroup d t g p ps) := by
  unfold Device.foldGroup
  try dsimp only
  repeat' (first | with_reducible exact subset_mono (by assumption) rfl | with_reducible assumption | with_reducible apply Device.pushHome_within | with_reducible apply Device.failWith_within | with_reducible apply Device.modTile_within | with_reducible apply Device.snapshot_within | with_reducible apply Device.finishGroup_within | with_reducible refine Device.Within.foldl ?_ ?_ | split | (with_reducible refine Device.Within.pair ?_ (by assumption)) | intro _ | dsimp only)

theorem Device.courseEndNow_within {P : Nat} {d₀ : Device} (d : Device) (t : TileRef) (found : List Detected) (h : Device.Within P d₀ d) (hp : 2350047756 &&& P = 2350047756 := by exact subset_mono (by assumption) rfl) : Device.Within P d₀ (Device.courseEndNow d t found) := by
  unfold Device.courseEndNow
  try dsimp only
  repeat' (first | with_reducible exact subset_mono (by assumption) rfl | with_reducible assumption | with_reducible apply Device.failWith_within | with_reducible apply Device.detectAll_within | with_reducible apply Device.foldGroup_within | with_reducible refine Device.Within.foldl ?_ ?_ | split | intro _ | dsimp only)

theorem Device.courseEnd_within {P : Nat} {d₀ : Device} (d : Device) (t : TileRef) (found : List Detected) (h : Device.Within P d₀ d) (hp : 2350047756 &&& P = 2350047756 := by exact subset_mono (by assumption) rfl) : Device.Within P d₀ (Device.courseEnd d t found) := by
  unfold Device.courseEnd
  try dsimp only
  repeat' (first | with_reducible exact subset_mono (by assumption) rfl | with_reducible assumption | with_reducible apply Device.whole_within | with_reducible apply Device.courseEndNow_within | with_reducible refine Device.Within.foldl ?_ ?_ | split | intro _ | dsimp only)

theorem Device.preempt_within {P : Nat} {d₀ : Device} (d : Device) (t : TileRef) (h : Device.Within P d₀ d) (hp : 57856 &&& P = 57856 := by exact subset_mono (by assumption) rfl) : Device.Within P d₀ (Device.preempt d t) := by
  unfold Device.preempt
  try dsimp only
  repeat' (first | with_reducible exact subset_mono (by assumption) rfl | with_reducible assumption | with_reducible apply Device.freeLanes_within | with_reducible apply Device.saveGroup_within | with_reducible apply Device.modTile_within | with_reducible apply Device.withOp_within | with_reducible refine Device.Within.foldl ?_ ?_ | split | intro _ | dsimp only)

theorem Device.resume_within {P : Nat} {d₀ : Device} (d : Device) (t : TileRef) (h : Device.Within P d₀ d) (hp : 8704 &&& P = 8704 := by exact subset_mono (by assumption) rfl) : Device.Within P d₀ (Device.resume d t) := by
  unfold Device.resume
  try dsimp only
  repeat' (first | with_reducible exact subset_mono (by assumption) rfl | with_reducible assumption | with_reducible apply Device.modTile_within | with_reducible apply Device.withOp_within | with_reducible refine Device.Within.foldl ?_ ?_ | split | intro _ | dsimp only)

theorem Device.arrayEnd_within {P : Nat} {d₀ : Device} (d : Device) (t : TileRef) (found : List Detected) (h : Device.Within P d₀ d) (hp : 2350047756 &&& P = 2350047756 := by exact subset_mono (by assumption) rfl) : Device.Within P d₀ (Device.arrayEnd d t found) := by
  unfold Device.arrayEnd
  try dsimp only
  repeat' (first | with_reducible exact subset_mono (by assumption) rfl | with_reducible assumption | with_reducible apply Device.failWith_within | with_reducible apply Device.detectAll_within | with_reducible apply drainArray_within | with_reducible apply Device.modCmd_within | with_reducible apply Device.settle_within | with_reducible apply Device.endOp_within | with_reducible refine Device.Within.foldl ?_ ?_ | split | (with_reducible refine OkHolds.get1 ?_ (by assumption)) | intro _ | dsimp only)


/-! ### VectorOps -/

theorem workQuantise_within {P : Nat} {d₀ : Device} (d : Device) (c : Cmd) (h : Device.Within P d₀ d) (hp : 0 &&& P = 0 := by exact subset_mono (by assumption) rfl) : OkHolds (fun r => Device.Within P d₀ r.dev) (workQuantise d c) := by
  unfold workQuantise
  try dsimp only
  repeat' (first | with_reducible exact subset_mono (by assumption) rfl | with_reducible assumption | with_reducible exact OkHolds.err _ | with_reducible apply OkHolds.ok | with_reducible refine Device.Within.foldl ?_ ?_ | split | intro _ | dsimp only | with_reducible apply OkHolds.ite)

theorem workDequantise_within {P : Nat} {d₀ : Device} (d : Device) (c : Cmd) (k : Nat) (h : Device.Within P d₀ d) (hp : 49152 &&& P = 49152 := by exact subset_mono (by assumption) rfl) : OkHolds (fun r => Device.Within P d₀ r.dev) (workDequantise d c k) := by
  unfold workDequantise
  try dsimp only
  repeat' (first | with_reducible exact subset_mono (by assumption) rfl | with_reducible assumption | with_reducible apply Device.write_within | with_reducible exact OkHolds.err _ | with_reducible apply OkHolds.ok | with_reducible refine Device.Within.foldl ?_ ?_ | split | (with_reducible refine OkHolds.get (P := Device.Within P d₀) ?_ (by assumption)) | intro _ | dsimp only | with_reducible apply OkHolds.ite)

theorem workRotate_within {P : Nat} {d₀ : Device} (d : Device) (c : Cmd) (h : Device.Within P d₀ d) (hp : 49152 &&& P = 49152 := by exact subset_mono (by assumption) rfl) : OkHolds (fun r => Device.Within P d₀ r.dev) (workRotate d c) := by
  unfold workRotate
  try dsimp only
  repeat' (first | with_reducible exact subset_mono (by assumption) rfl | with_reducible assumption | with_reducible apply Device.write_within | with_reducible exact OkHolds.err _ | with_reducible apply OkHolds.ok | with_reducible refine Device.Within.foldl ?_ ?_ | split | (with_reducible refine OkHolds.get (P := Device.Within P d₀) ?_ (by assumption)) | intro _ | dsimp only | with_reducible apply OkHolds.ite)

theorem workSample_within {P : Nat} {d₀ : Device} (d : Device) (c : Cmd) (h : Device.Within P d₀ d) (hp : 49152 &&& P = 49152 := by exact subset_mono (by assumption) rfl) : OkHolds (fun r => Device.Within P d₀ r.dev) (workSample d c) := by
  unfold workSample
  try dsimp only
  repeat' (first | with_reducible exact subset_mono (by assumption) rfl | with_reducible assumption | with_reducible apply Device.write_within | with_reducible exact OkHolds.err _ | with_reducible apply OkHolds.ok | with_reducible refine Device.Within.foldl ?_ ?_ | split | (with_reducible refine OkHolds.get (P := Device.Within P d₀) ?_ (by assumption)) | intro _ | dsimp only | with_reducible apply OkHolds.ite)

theorem workRngFill_within {P : Nat} {d₀ : Device} (d : Device) (c : Cmd) (h : Device.Within P d₀ d) (hp : 49152 &&& P = 49152 := by exact subset_mono (by assumption) rfl) : OkHolds (fun r => Device.Within P d₀ r.dev) (workRngFill d c) := by
  unfold workRngFill
  try dsimp only
  repeat' (first | with_reducible exact subset_mono (by assumption) rfl | with_reducible assumption | with_reducible apply Device.write_within | with_reducible exact OkHolds.err _ | with_reducible apply OkHolds.ok | with_reducible refine Device.Within.foldl ?_ ?_ | split | (with_reducible refine OkHolds.get (P := Device.Within P d₀) ?_ (by assumption)) | intro _ | dsimp only | with_reducible apply OkHolds.ite)

theorem workDigest_within {P : Nat} {d₀ : Device} (d : Device) (c : Cmd) (k : Nat) (h : Device.Within P d₀ d) (hp : 49152 &&& P = 49152 := by exact subset_mono (by assumption) rfl) : OkHolds (fun r => Device.Within P d₀ r.dev) (workDigest d c k) := by
  unfold workDigest
  try dsimp only
  repeat' (first | with_reducible exact subset_mono (by assumption) rfl | with_reducible assumption | with_reducible apply Device.write_within | with_reducible exact OkHolds.err _ | with_reducible apply OkHolds.ok | with_reducible refine Device.Within.foldl ?_ ?_ | split | (with_reducible refine OkHolds.get (P := Device.Within P d₀) ?_ (by assumption)) | intro _ | dsimp only | with_reducible apply OkHolds.ite)

theorem workCast_within {P : Nat} {d₀ : Device} (d : Device) (c : Cmd) (h : Device.Within P d₀ d) (hp : 0 &&& P = 0 := by exact subset_mono (by assumption) rfl) : OkHolds (fun r => Device.Within P d₀ r.dev) (workCast d c) := by
  unfold workCast
  try dsimp only
  repeat' (first | with_reducible exact subset_mono (by assumption) rfl | with_reducible assumption | with_reducible exact OkHolds.err _ | with_reducible apply OkHolds.ok | with_reducible refine Device.Within.foldl ?_ ?_ | split | intro _ | dsimp only | with_reducible apply OkHolds.ite)

theorem writeSheafMove_within {P : Nat} {d₀ : Device} (d : Device) (w : Win) (far : Bool) (t : Table) (j : Nat) (bs : List Byte) (h : Device.Within P d₀ d) (hp : 49152 &&& P = 49152 := by exact subset_mono (by assumption) rfl) : OkHolds (Device.Within P d₀) (writeSheafMove d w far t j bs) := by
  unfold writeSheafMove
  try dsimp only
  repeat' (first | with_reducible exact subset_mono (by assumption) rfl | with_reducible assumption | with_reducible apply Device.writeMove_within | with_reducible apply Device.write_within | with_reducible apply writeEntryForm_within | with_reducible exact OkHolds.err _ | with_reducible apply OkHolds.ok | with_reducible refine Device.Within.foldl ?_ ?_ | split | (with_reducible refine OkHolds.get (P := Device.Within P d₀) ?_ (by assumption)) | intro _ | dsimp only | with_reducible apply OkHolds.ite)

theorem moveSheaves_within {P : Nat} {d₀ : Device} (d : Device) (w : Win) (verify : Bool) (src : Table) (dst : Table) (a : List (Nat × Nat)) (h : Device.Within P d₀ d) (hp : 49152 &&& P = 49152 := by exact subset_mono (by assumption) rfl) : OkHolds (Device.Within P d₀) (moveSheaves d w verify src dst a) := by
  induction a generalizing d with
  | nil => unfold moveSheaves; try dsimp only
           repeat' (first | with_reducible exact subset_mono (by assumption) rfl | with_reducible assumption | with_reducible apply writeSheafMove_within | with_reducible exact OkHolds.err _ | with_reducible apply OkHolds.ok | with_reducible refine Device.Within.foldl ?_ ?_ | split | (with_reducible refine OkHolds.get (P := Device.Within P d₀) ?_ (by assumption)) | intro _ | dsimp only | with_reducible apply OkHolds.ite)
  | cons x r ih =>
    unfold moveSheaves
    try dsimp only
    repeat' (first | with_reducible apply ih | with_reducible exact subset_mono (by assumption) rfl | with_reducible assumption | with_reducible apply writeSheafMove_within | with_reducible exact OkHolds.err _ | with_reducible apply OkHolds.ok | with_reducible refine Device.Within.foldl ?_ ?_ | split | (with_reducible refine OkHolds.get (P := Device.Within P d₀) ?_ (by assumption)) | intro _ | dsimp only | with_reducible apply OkHolds.ite | (with_reducible refine OkHolds.get (P := Device.Within P d₀) (ih _ ?_) (by assumption)))

theorem workGather_within {P : Nat} {d₀ : Device} (d : Device) (c : Cmd) (k : Nat) (scatter : Bool) (h : Device.Within P d₀ d) (hp : 49152 &&& P = 49152 := by exact subset_mono (by assumption) rfl) : OkHolds (fun r => Device.Within P d₀ r.dev) (workGather d c k scatter) := by
  unfold workGather
  try dsimp only
  repeat' (first | with_reducible exact subset_mono (by assumption) rfl | with_reducible assumption | with_reducible apply moveSheaves_within | with_reducible exact OkHolds.err _ | with_reducible apply OkHolds.ok | with_reducible refine Device.Within.foldl ?_ ?_ | split | (with_reducible refine OkHolds.get (P := Device.Within P d₀) ?_ (by assumption)) | intro _ | dsimp only | with_reducible apply OkHolds.ite)

theorem copyIn_within {P : Nat} {d₀ : Device} (d : Device) (w : Win) (src : Table) (dst : Table) (a : List Nat) (h : Device.Within P d₀ d) (hp : 49152 &&& P = 49152 := by exact subset_mono (by assumption) rfl) : OkHolds (Device.Within P d₀) (copyIn d w src dst a) := by
  induction a generalizing d with
  | nil => unfold copyIn; try dsimp only
           repeat' (first | with_reducible exact subset_mono (by assumption) rfl | with_reducible assumption | with_reducible apply writeSheafMove_within | with_reducible exact OkHolds.err _ | with_reducible apply OkHolds.ok | with_reducible refine Device.Within.foldl ?_ ?_ | split | (with_reducible refine OkHolds.get (P := Device.Within P d₀) ?_ (by assumption)) | intro _ | dsimp only | with_reducible apply OkHolds.ite)
  | cons x r ih =>
    unfold copyIn
    try dsimp only
    repeat' (first | with_reducible apply ih | with_reducible exact subset_mono (by assumption) rfl | with_reducible assumption | with_reducible apply writeSheafMove_within | with_reducible exact OkHolds.err _ | with_reducible apply OkHolds.ok | with_reducible refine Device.Within.foldl ?_ ?_ | split | (with_reducible refine OkHolds.get (P := Device.Within P d₀) ?_ (by assumption)) | intro _ | dsimp only | with_reducible apply OkHolds.ite | (with_reducible refine OkHolds.get (P := Device.Within P d₀) (ih _ ?_) (by assumption)))

theorem copyOut_within {P : Nat} {d₀ : Device} (d : Device) (w : Win) (verify : Bool) (src : Table) (dst : Table) (a : List Nat) (h : Device.Within P d₀ d) (hp : 65536 &&& P = 65536 := by exact subset_mono (by assumption) rfl) : OkHolds (Device.Within P d₀) (copyOut d w verify src dst a) := by
  induction a generalizing d with
  | nil => exact OkHolds.ok h
  | cons x r ih =>
    unfold copyOut
    dsimp only
    split
    · exact OkHolds.err _
    · exact OkHolds.err _
    · split
      · exact OkHolds.err _
      · exact ih _ (Device.Within.hostWrite h (fun x => Mem.write_wf _ _ _ (Mem.write_wf _ _ _ x)) (subset_mono hp rfl))

theorem placeSheaves_within {P : Nat} {d₀ : Device} (d : Device) (w : Win) (t : Table) (a : Nat) (a' : List (List Byte)) (h : Device.Within P d₀ d) (hp : 49152 &&& P = 49152 := by exact subset_mono (by assumption) rfl) : OkHolds (fun r => Device.Within P d₀ r.1) (placeSheaves d w t a a') := by
  induction a' generalizing d a with
  | nil => unfold placeSheaves; try dsimp only
           repeat' (first | with_reducible exact subset_mono (by assumption) rfl | with_reducible assumption | with_reducible apply writeSheafMove_within | with_reducible exact OkHolds.err _ | with_reducible apply OkHolds.ok | with_reducible refine Device.Within.foldl ?_ ?_ | split | (with_reducible refine OkHolds.get (P := Device.Within P d₀) ?_ (by assumption)) | intro _ | dsimp only | with_reducible apply OkHolds.ite)
  | cons x r ih =>
    unfold placeSheaves
    try dsimp only
    repeat' (first | with_reducible apply ih | with_reducible exact subset_mono (by assumption) rfl | with_reducible assumption | with_reducible apply writeSheafMove_within | with_reducible exact OkHolds.err _ | with_reducible apply OkHolds.ok | with_reducible refine Device.Within.foldl ?_ ?_ | split | (with_reducible refine OkHolds.get (P := Device.Within P d₀) ?_ (by assumption)) | intro _ | dsimp only | with_reducible apply OkHolds.ite | (with_reducible refine OkHolds.get1 (ih _ _ ?_) (by assumption)))

theorem workCopy_within {P : Nat} {d₀ : Device} (d : Device) (c : Cmd) (k : Nat) (h : Device.Within P d₀ d) (hp : 4295081984 &&& P = 4295081984 := by exact subset_mono (by assumption) rfl) : OkHolds (fun r => Device.Within P d₀ r.dev) (workCopy d c k) := by
  unfold workCopy
  dsimp only
  refine OkHolds.ite (fun _ => OkHolds.ite (fun _ => ?_) fun _ => OkHolds.ite (fun _ => ?_) fun _ => ?_) fun _ => OkHolds.ite (fun _ => ?_) fun _ => OkHolds.ite (fun _ => ?_) fun _ => ?_
  · split
    · exact OkHolds.err _
    · exact OkHolds.err _
    · refine OkHolds.ite (fun _ => OkHolds.err _) fun _ => ?_
      split
      · exact OkHolds.err _
      · exact OkHolds.get (P := Device.Within P d₀) (copyIn_within _ _ _ _ _ h) (by assumption)
  · split
    · exact OkHolds.err _
    · exact OkHolds.err _
    · refine OkHolds.ite (fun _ => OkHolds.err _) fun _ => ?_
      split
      · exact OkHolds.err _
      · exact OkHolds.get (P := Device.Within P d₀) (copyOut_within _ _ _ _ _ _ h) (by assumption)
  · split
    · exact OkHolds.err _
    · exact OkHolds.err _
    · split
      · exact OkHolds.err _
      · split
        · exact OkHolds.err _
        · exact Device.Within.foldl (OkHolds.get1 (placeSheaves_within _ _ _ _ _ h) (by assumption)) fun x r hx => Device.scramble_within x r hx
  · split
    · exact OkHolds.err _
    · exact OkHolds.get (P := Device.Within P d₀) (Device.write_within _ _ _ h) (by assumption)
  · split
    · exact OkHolds.err _
    · exact Device.Within.hostWrite h (fun x => Mem.write_wf _ _ _ x) (subset_mono hp rfl)
  · split
    · exact OkHolds.err _
    · split
      · exact OkHolds.err _
      · exact OkHolds.get (P := Device.Within P d₀) (Device.write_within _ _ _ h) (by assumption)

theorem workOf_within {P : Nat} {d₀ : Device} (d : Device) (c : Cmd) (k : Nat) (h : Device.Within P d₀ d) (hp : 4295081984 &&& P = 4295081984 := by exact subset_mono (by assumption) rfl) : OkHolds (fun r => Device.Within P d₀ r.dev) (workOf d c k) := by
  unfold workOf
  try dsimp only
  repeat' (first | with_reducible exact subset_mono (by assumption) rfl | with_reducible assumption | with_reducible apply workQuantise_within | with_reducible apply workDequantise_within | with_reducible apply workRotate_within | with_reducible apply workSample_within | with_reducible apply workRngFill_within | with_reducible apply workGather_within | with_reducible apply workCopy_within | with_reducible apply workDigest_within | with_reducible apply workCast_within | with_reducible exact OkHolds.err _ | with_reducible apply OkHolds.ok | with_reducible refine Device.Within.foldl ?_ ?_ | split | (with_reducible refine OkHolds.getW ?_ (by assumption)) | intro _ | dsimp only | with_reducible apply OkHolds.ite)

theorem Device.failWork_within {P : Nat} {d₀ : Device} (d : Device) (tag : Nat) (s : Nat) (h : Device.Within P d₀ d) (hp : 201466376 &&& P = 201466376 := by exact subset_mono (by assumption) rfl) : Device.Within P d₀ (Device.failWork d tag s) := by
  unfold Device.failWork
  try dsimp only
  repeat' (first | with_reducible exact subset_mono (by assumption) rfl | with_reducible assumption | with_reducible apply Device.count_within | with_reducible apply Device.failWith_within | with_reducible refine Device.Within.foldl ?_ ?_ | split | intro _ | dsimp only)

theorem Device.perform_within {P : Nat} {d₀ : Device} (d : Device) (tag : Nat) (k : Nat) (h : Device.Within P d₀ d) (hp : 4496548360 &&& P = 4496548360 := by exact subset_mono (by assumption) rfl) : Device.Within P d₀ (Device.perform d tag k) := by
  unfold Device.perform
  try dsimp only
  repeat' (first | with_reducible exact subset_mono (by assumption) rfl | with_reducible assumption | with_reducible apply workOf_within | with_reducible apply Device.failWork_within | with_reducible apply Device.modCmd_within | with_reducible refine Device.Within.foldl ?_ ?_ | split | (with_reducible refine OkHolds.getW ?_ (by assumption)) | intro _ | dsimp only)


/-! ### Recipe -/

theorem Device.vuStepNow_within {P : Nat} {d₀ : Device} (d : Device) (t : TileRef) (op : Nat) (w : StepWord) (upset : Bool) (f : Device → Cmd → VuCtx → Except Nat (Device × VuCtx)) (hf : ∀ x y0 y1, Device.Within P d₀ x → OkHolds (fun r => Device.Within P d₀ r.1) (f x y0 y1)) (h : Device.Within P d₀ d) (hp : 2350047756 &&& P = 2350047756 := by exact subset_mono (by assumption) rfl) : Device.Within P d₀ (Device.vuStepNow d t op w upset f) := by
  unfold Device.vuStepNow
  try dsimp only
  repeat' (first | with_reducible exact subset_mono (by assumption) rfl | with_reducible assumption | with_reducible apply hf | (with_reducible refine OkHolds.get1 (hf _ _ _ ?_) (by assumption)) | with_reducible apply Device.detect_within | with_reducible apply Device.failWith_within | with_reducible apply Device.modTile_within | with_reducible refine Device.Within.foldl ?_ ?_ | split | intro _ | dsimp only)

theorem Device.vuStep_within {P : Nat} {d₀ : Device} (d : Device) (t : TileRef) (op : Nat) (w : StepWord) (upset : Bool) (f : Device → Cmd → VuCtx → Except Nat (Device × VuCtx)) (hf : ∀ x y0 y1, Device.Within P d₀ x → OkHolds (fun r => Device.Within P d₀ r.1) (f x y0 y1)) (h : Device.Within P d₀ d) (hp : 2350047756 &&& P = 2350047756 := by exact subset_mono (by assumption) rfl) : Device.Within P d₀ (Device.vuStep d t op w upset f) := by
  unfold Device.vuStep
  try dsimp only
  repeat' (first | with_reducible exact subset_mono (by assumption) rfl | with_reducible assumption | with_reducible apply hf | (with_reducible refine OkHolds.get1 (hf _ _ _ ?_) (by assumption)) | with_reducible apply Device.whole_within | with_reducible apply Device.vuStepNow_within | with_reducible refine Device.Within.foldl ?_ ?_ | split | intro _ | dsimp only)

theorem Device.vuElem_within {P : Nat} {d₀ : Device} (d : Device) (t : TileRef) (op : Nat) (w : StepWord) (upset : Bool) (f : W32 → W32 → W32 → VRes) (h : Device.Within P d₀ d) (hp : 2350047756 &&& P = 2350047756 := by exact subset_mono (by assumption) rfl) : Device.Within P d₀ (Device.vuElem d t op w upset f) := by
  unfold Device.vuElem
  try dsimp only
  repeat' (first | with_reducible exact subset_mono (by assumption) rfl | with_reducible assumption | with_reducible apply Device.vuStep_within | with_reducible exact OkHolds.err _ | with_reducible apply OkHolds.ok | with_reducible refine Device.Within.foldl ?_ ?_ | split | intro _ | dsimp only | with_reducible apply OkHolds.ite)

theorem Device.vuCmp_within {P : Nat} {d₀ : Device} (d : Device) (t : TileRef) (op : Nat) (w : StepWord) (upset : Bool) (f : W32 → W32 → Bool) (h : Device.Within P d₀ d) (hp : 2350047756 &&& P = 2350047756 := by exact subset_mono (by assumption) rfl) : Device.Within P d₀ (Device.vuCmp d t op w upset f) := by
  unfold Device.vuCmp
  try dsimp only
  repeat' (first | with_reducible exact subset_mono (by assumption) rfl | with_reducible assumption | with_reducible apply Device.vuStep_within | with_reducible exact OkHolds.err _ | with_reducible apply OkHolds.ok | with_reducible refine Device.Within.foldl ?_ ?_ | split | intro _ | dsimp only | with_reducible apply OkHolds.ite)

theorem Device.vuMask_within {P : Nat} {d₀ : Device} (d : Device) (t : TileRef) (op : Nat) (w : StepWord) (upset : Bool) (f : Bool → Bool → Bool) (h : Device.Within P d₀ d) (hp : 2350047756 &&& P = 2350047756 := by exact subset_mono (by assumption) rfl) : Device.Within P d₀ (Device.vuMask d t op w upset f) := by
  unfold Device.vuMask
  try dsimp only
  repeat' (first | with_reducible exact subset_mono (by assumption) rfl | with_reducible assumption | with_reducible apply Device.vuStep_within | with_reducible exact OkHolds.err _ | with_reducible apply OkHolds.ok | with_reducible refine Device.Within.foldl ?_ ?_ | split | intro _ | dsimp only | with_reducible apply OkHolds.ite)

theorem Device.vuReduce_within {P : Nat} {d₀ : Device} (d : Device) (t : TileRef) (op : Nat) (w : StepWord) (upset : Bool) (h : Device.Within P d₀ d) (hp : 2350047756 &&& P = 2350047756 := by exact subset_mono (by assumption) rfl) : Device.Within P d₀ (Device.vuReduce d t op w upset) := by
  unfold Device.vuReduce
  try dsimp only
  repeat' (first | with_reducible exact subset_mono (by assumption) rfl | with_reducible assumption | with_reducible apply Device.vuStep_within | with_reducible exact OkHolds.err _ | with_reducible apply OkHolds.ok | with_reducible refine Device.Within.foldl ?_ ?_ | split | intro _ | dsimp only | with_reducible apply OkHolds.ite)

theorem Device.vuIdle_within {P : Nat} {d₀ : Device} (d : Device) (t : TileRef) (op : Nat) (w : StepWord) (upset : Bool) (h : Device.Within P d₀ d) (hp : 2350047756 &&& P = 2350047756 := by exact subset_mono (by assumption) rfl) : Device.Within P d₀ (Device.vuIdle d t op w upset) := by
  unfold Device.vuIdle
  try dsimp only
  repeat' (first | with_reducible exact subset_mono (by assumption) rfl | with_reducible assumption | with_reducible apply Device.vuStep_within | with_reducible exact OkHolds.err _ | with_reducible apply OkHolds.ok | with_reducible refine Device.Within.foldl ?_ ?_ | split | intro _ | dsimp only | with_reducible apply OkHolds.ite)

theorem Device.vuLoad_within {P : Nat} {d₀ : Device} (d : Device) (t : TileRef) (w : StepWord) (upset : Bool) (h : Device.Within P d₀ d) (hp : 2350047756 &&& P = 2350047756 := by exact subset_mono (by assumption) rfl) : Device.Within P d₀ (Device.vuLoad d t w upset) := by
  unfold Device.vuLoad
  try dsimp only
  repeat' (first | with_reducible exact subset_mono (by assumption) rfl | with_reducible assumption | with_reducible apply Device.vuStep_within | with_reducible exact OkHolds.err _ | with_reducible apply OkHolds.ok | with_reducible refine Device.Within.foldl ?_ ?_ | split | intro _ | dsimp only | with_reducible apply OkHolds.ite)

theorem Device.vuStore_within {P : Nat} {d₀ : Device} (d : Device) (t : TileRef) (w : StepWord) (upset : Bool) (h : Device.Within P d₀ d) (hp : 2350047756 &&& P = 2350047756 := by exact subset_mono (by assumption) rfl) : Device.Within P d₀ (Device.vuStore d t w upset) := by
  unfold Device.vuStore
  try dsimp only
  repeat' (first | with_reducible exact subset_mono (by assumption) rfl | with_reducible assumption | with_reducible apply Device.vuStep_within | with_reducible apply allWrites_within | with_reducible exact OkHolds.err _ | with_reducible apply OkHolds.ok | with_reducible refine Device.Within.foldl ?_ ?_ | split | (with_reducible refine OkHolds.get (P := Device.Within P d₀) ?_ (by assumption)) | intro _ | dsimp only | with_reducible apply OkHolds.ite)

theorem Device.vuQstore_within {P : Nat} {d₀ : Device} (d : Device) (t : TileRef) (w : StepWord) (upset : Bool) (h : Device.Within P d₀ d) (hp : 2350047756 &&& P = 2350047756 := by exact subset_mono (by assumption) rfl) : Device.Within P d₀ (Device.vuQstore d t w upset) := by
  unfold Device.vuQstore
  try dsimp only
  repeat' (first | with_reducible exact subset_mono (by assumption) rfl | with_reducible assumption | with_reducible apply Device.vuStep_within | with_reducible apply Device.modCmd_within | with_reducible exact OkHolds.err _ | with_reducible apply OkHolds.ok | with_reducible refine Device.Within.foldl ?_ ?_ | split | intro _ | dsimp only | with_reducible apply OkHolds.ite)

theorem Device.vuIndex_within {P : Nat} {d₀ : Device} (d : Device) (t : TileRef) (w : StepWord) (upset : Bool) (h : Device.Within P d₀ d) (hp : 2350047756 &&& P = 2350047756 := by exact subset_mono (by assumption) rfl) : Device.Within P d₀ (Device.vuIndex d t w upset) := by
  unfold Device.vuIndex
  try dsimp only
  repeat' (first | with_reducible exact subset_mono (by assumption) rfl | with_reducible assumption | with_reducible apply Device.vuStep_within | with_reducible exact OkHolds.err _ | with_reducible apply OkHolds.ok | with_reducible refine Device.Within.foldl ?_ ?_ | split | intro _ | dsimp only | with_reducible apply OkHolds.ite)

theorem Device.vuRand_within {P : Nat} {d₀ : Device} (d : Device) (t : TileRef) (op : Nat) (w : StepWord) (upset : Bool) (f : W32 → W32) (h : Device.Within P d₀ d) (hp : 2350047756 &&& P = 2350047756 := by exact subset_mono (by assumption) rfl) : Device.Within P d₀ (Device.vuRand d t op w upset f) := by
  unfold Device.vuRand
  try dsimp only
  repeat' (first | with_reducible exact subset_mono (by assumption) rfl | with_reducible assumption | with_reducible apply Device.vuStep_within | with_reducible exact OkHolds.err _ | with_reducible apply OkHolds.ok | with_reducible refine Device.Within.foldl ?_ ?_ | split | intro _ | dsimp only | with_reducible apply OkHolds.ite)

theorem Device.vuSelect_within {P : Nat} {d₀ : Device} (d : Device) (t : TileRef) (w : StepWord) (upset : Bool) (h : Device.Within P d₀ d) (hp : 2350047756 &&& P = 2350047756 := by exact subset_mono (by assumption) rfl) : Device.Within P d₀ (Device.vuSelect d t w upset) := by
  unfold Device.vuSelect
  try dsimp only
  repeat' (first | with_reducible exact subset_mono (by assumption) rfl | with_reducible assumption | with_reducible apply Device.vuStep_within | with_reducible exact OkHolds.err _ | with_reducible apply OkHolds.ok | with_reducible refine Device.Within.foldl ?_ ?_ | split | intro _ | dsimp only | with_reducible apply OkHolds.ite)

theorem Device.vuFence_within {P : Nat} {d₀ : Device} (d : Device) (t : TileRef) (op : Nat) (w : StepWord) (upset : Bool) (h : Device.Within P d₀ d) (hp : 2350047756 &&& P = 2350047756 := by exact subset_mono (by assumption) rfl) : Device.Within P d₀ (Device.vuFence d t op w upset) := by
  unfold Device.vuFence
  try dsimp only
  repeat' (first | with_reducible exact subset_mono (by assumption) rfl | with_reducible assumption | with_reducible apply Device.vuStep_within | with_reducible exact OkHolds.err _ | with_reducible apply OkHolds.ok | with_reducible refine Device.Within.foldl ?_ ?_ | split | intro _ | dsimp only | with_reducible apply OkHolds.ite)

theorem Device.pieceBoundary_within {P : Nat} {d₀ : Device} (d : Device) (t : TileRef) (h : Device.Within P d₀ d) (hp : 57344 &&& P = 57344 := by exact subset_mono (by assumption) rfl) : Device.Within P d₀ (Device.pieceBoundary d t) := by
  unfold Device.pieceBoundary
  try dsimp only
  repeat' (first | with_reducible exact subset_mono (by assumption) rfl | with_reducible assumption | with_reducible apply Device.modTile_within | with_reducible apply Device.putBytes_within | with_reducible refine Device.Within.foldl ?_ ?_ | split | intro _ | dsimp only)


/-! ### Dispatcher -/

theorem Device.deliverNow_within {P : Nat} {d₀ : Device} (d : Device) (t : TileRef) (h : Device.Within P d₀ d) (hp : 201466376 &&& P = 201466376 := by exact subset_mono (by assumption) rfl) : Device.Within P d₀ (Device.deliverNow d t) := by
  unfold Device.deliverNow
  try dsimp only
  repeat' (first | with_reducible exact subset_mono (by assumption) rfl | with_reducible assumption | with_reducible apply Device.failWith_within | with_reducible apply Device.withOp_within | with_reducible apply Device.count_within | with_reducible apply Device.setBay_within | with_reducible apply Device.modTile_within | with_reducible refine Device.Within.foldl ?_ ?_ | split | intro _ | dsimp only)

theorem Device.deliver_within {P : Nat} {d₀ : Device} (d : Device) (t : TileRef) (h : Device.Within P d₀ d) (hp : 201466376 &&& P = 201466376 := by exact subset_mono (by assumption) rfl) : Device.Within P d₀ (Device.deliver d t) := by
  unfold Device.deliver
  try dsimp only
  repeat' (first | with_reducible exact subset_mono (by assumption) rfl | with_reducible assumption | with_reducible apply Device.whole_within | with_reducible apply Device.deliverNow_within | with_reducible refine Device.Within.foldl ?_ ?_ | split | intro _ | dsimp only)

theorem Device.beginArray_within {P : Nat} {d₀ : Device} (d : Device) (t : TileRef) (c : Cmd) (i : Nat) (o : TileOp) (a : ArrayCmd) (h : Device.Within P d₀ d) (hp : 201515528 &&& P = 201515528 := by exact subset_mono (by assumption) rfl) : OkHolds (Device.Within P d₀) (Device.beginArray d t c i o a) := by
  unfold Device.beginArray
  try dsimp only
  repeat' (first | with_reducible exact subset_mono (by assumption) rfl | with_reducible assumption | with_reducible apply Device.freeLanes_within | with_reducible apply Device.modTile_within | with_reducible apply Device.finishGroup_within | with_reducible apply Device.place_within | with_reducible exact OkHolds.err _ | with_reducible apply OkHolds.ok | with_reducible refine Device.Within.foldl ?_ ?_ | split | (with_reducible refine OkHolds.get1 ?_ (by assumption)) | intro _ | dsimp only | with_reducible apply OkHolds.ite)

theorem Device.joinArray_within {P : Nat} {d₀ : Device} (d : Device) (t : TileRef) (g : ArrayGroup) (c : Cmd) (i : Nat) (o : TileOp) (a : ArrayCmd) (h : Device.Within P d₀ d) (hp : 57344 &&& P = 57344 := by exact subset_mono (by assumption) rfl) : SomeOk (Device.Within P d₀) (Device.joinArray d t g c i o a) := by
  unfold Device.joinArray
  try dsimp only
  repeat' (first | with_reducible exact subset_mono (by assumption) rfl | with_reducible assumption | with_reducible apply Device.place_within | with_reducible apply Device.modTile_within | with_reducible exact OkHolds.err _ | with_reducible apply OkHolds.ok | with_reducible exact SomeOk.absent | with_reducible apply SomeOk.intro | with_reducible refine Device.Within.foldl ?_ ?_ | split | (with_reducible refine OkHolds.get1 ?_ (by assumption)) | intro _ | dsimp only | with_reducible apply OkHolds.ite)

theorem Device.startArray_within {P : Nat} {d₀ : Device} (d : Device) (t : TileRef) (c : Cmd) (i : Nat) (o : TileOp) (a : ArrayCmd) (h : Device.Within P d₀ d) (hp : 201515528 &&& P = 201515528 := by exact subset_mono (by assumption) rfl) : SomeOk (Device.Within P d₀) (Device.startArray d t c i o a) := by
  unfold Device.startArray
  try dsimp only
  repeat' (first | with_reducible exact subset_mono (by assumption) rfl | with_reducible assumption | with_reducible apply Device.beginArray_within | with_reducible apply Device.joinArray_within | with_reducible exact OkHolds.err _ | with_reducible apply OkHolds.ok | with_reducible exact SomeOk.absent | with_reducible apply SomeOk.intro | with_reducible refine Device.Within.foldl ?_ ?_ | split | (with_reducible refine OkHolds.get (P := Device.Within P d₀) ?_ (by assumption)) | (with_reducible refine SomeOk.get (P := Device.Within P d₀) ?_ (by assumption) (by assumption)) | (with_reducible refine SomeOk.done (P := Device.Within P d₀) ?_ (by assumption)) | intro _ | dsimp only | with_reducible apply OkHolds.ite)

theorem Device.startNow_within {P : Nat} {d₀ : Device} (d : Device) (t : TileRef) (k : OpKind) (h : Device.Within P d₀ d) (hp : 201515528 &&& P = 201515528 := by exact subset_mono (by assumption) rfl) : Device.Within P d₀ (Device.startNow d t k) := by
  unfold Device.startNow
  try dsimp only
  repeat' (first | with_reducible exact subset_mono (by assumption) rfl | with_reducible assumption | with_reducible apply Device.crossStart_within | with_reducible apply Device.withOp_within | with_reducible apply Device.failWith_within | with_reducible apply Device.startArray_within | with_reducible apply Device.modTile_within | with_reducible refine Device.Within.foldl ?_ ?_ | split | (with_reducible refine SomeOk.get (P := Device.Within P d₀) ?_ (by assumption) (by assumption)) | (with_reducible refine SomeOk.done (P := Device.Within P d₀) ?_ (by assumption)) | intro _ | dsimp only)

theorem Device.start_within {P : Nat} {d₀ : Device} (d : Device) (t : TileRef) (k : OpKind) (h : Device.Within P d₀ d) (hp : 201515528 &&& P = 201515528 := by exact subset_mono (by assumption) rfl) : Device.Within P d₀ (Device.start d t k) := by
  unfold Device.start
  try dsimp only
  repeat' (first | with_reducible exact subset_mono (by assumption) rfl | with_reducible assumption | with_reducible apply Device.whole_within | with_reducible apply Device.startNow_within | with_reducible refine Device.Within.foldl ?_ ?_ | split | intro _ | dsimp only)

theorem Device.pieceEnd_within {P : Nat} {d₀ : Device} (d : Device) (t : TileRef) (k : OpKind) (found : List Detected) (h : Device.Within P d₀ d) (hp : 6645080588 &&& P = 6645080588 := by exact subset_mono (by assumption) rfl) : Device.Within P d₀ (Device.pieceEnd d t k found) := by
  unfold Device.pieceEnd
  try dsimp only
  repeat' (first | with_reducible exact subset_mono (by assumption) rfl | with_reducible assumption | with_reducible apply Device.detectAll_within | with_reducible apply Device.modCmd_within | with_reducible apply Device.perform_within | with_reducible apply Device.settle_within | with_reducible apply Device.endOp_within | with_reducible refine Device.Within.foldl ?_ ?_ | split | intro _ | dsimp only)

theorem Device.opEndNow_within {P : Nat} {d₀ : Device} (d : Device) (t : TileRef) (k : OpKind) (found : List Detected) (h : Device.Within P d₀ d) (hp : 6645080588 &&& P = 6645080588 := by exact subset_mono (by assumption) rfl) : Device.Within P d₀ (Device.opEndNow d t k found) := by
  unfold Device.opEndNow
  try dsimp only
  repeat' (first | with_reducible exact subset_mono (by assumption) rfl | with_reducible assumption | with_reducible apply Device.arrayEnd_within | with_reducible apply Device.pieceEnd_within | with_reducible refine Device.Within.foldl ?_ ?_ | split | intro _ | dsimp only)

theorem Device.opEnd_within {P : Nat} {d₀ : Device} (d : Device) (t : TileRef) (k : OpKind) (found : List Detected) (h : Device.Within P d₀ d) (hp : 6645080588 &&& P = 6645080588 := by exact subset_mono (by assumption) rfl) : Device.Within P d₀ (Device.opEnd d t k found) := by
  unfold Device.opEnd
  try dsimp only
  repeat' (first | with_reducible exact subset_mono (by assumption) rfl | with_reducible assumption | with_reducible apply Device.whole_within | with_reducible apply Device.opEndNow_within | with_reducible refine Device.Within.foldl ?_ ?_ | split | intro _ | dsimp only)

theorem Device.rewriteTrip_within {P : Nat} {d₀ : Device} (d : Device) (tag : Nat) (h : Device.Within P d₀ d) (hp : 201515528 &&& P = 201515528 := by exact subset_mono (by assumption) rfl) : Device.Within P d₀ (Device.rewriteTrip d tag) := by
  unfold Device.rewriteTrip
  try dsimp only
  repeat' (first | with_reducible exact subset_mono (by assumption) rfl | with_reducible assumption | with_reducible apply Device.failWith_within | with_reducible apply reexecute_within | with_reducible apply Device.writeLate_within | with_reducible apply Device.modCmd_within | with_reducible refine Device.Within.foldl ?_ ?_ | split | (with_reducible refine OkHolds.get1 ?_ (by assumption)) | intro _ | dsimp only)

theorem Device.sheafAgainNow_within {P : Nat} {d₀ : Device} (d : Device) (tag : Nat) (found : List Detected) (h : Device.Within P d₀ d) (hp : 2350047756 &&& P = 2350047756 := by exact subset_mono (by assumption) rfl) : Device.Within P d₀ (Device.sheafAgainNow d tag found) := by
  unfold Device.sheafAgainNow
  try dsimp only
  repeat' (first | with_reducible exact subset_mono (by assumption) rfl | with_reducible assumption | with_reducible apply Device.detectAll_within | with_reducible apply Device.rewriteTrip_within | with_reducible refine Device.Within.foldl ?_ ?_ | split | intro _ | dsimp only)

theorem Device.sheafAgain_within {P : Nat} {d₀ : Device} (d : Device) (tag : Nat) (found : List Detected) (h : Device.Within P d₀ d) (hp : 2350047756 &&& P = 2350047756 := by exact subset_mono (by assumption) rfl) : Device.Within P d₀ (Device.sheafAgain d tag found) := by
  unfold Device.sheafAgain
  try dsimp only
  repeat' (first | with_reducible exact subset_mono (by assumption) rfl | with_reducible assumption | with_reducible apply Device.whole_within | with_reducible apply Device.sheafAgainNow_within | with_reducible refine Device.Within.foldl ?_ ?_ | split | intro _ | dsimp only)


/-! ### Admission -/

theorem Device.settleBuckets_within {P : Nat} {d₀ : Device} (d : Device) (h : Device.Within P d₀ d) (hp : 131072 &&& P = 131072 := by exact subset_mono (by assumption) rfl) : Device.Within P d₀ (Device.settleBuckets d) := by
  unfold Device.settleBuckets
  try dsimp only
  repeat' (first | with_reducible exact subset_mono (by assumption) rfl | with_reducible assumption | with_reducible apply Device.modBay_within | with_reducible refine Device.Within.foldl ?_ ?_ | split | intro _ | dsimp only)

theorem Device.acceptanceRecord_within {P : Nat} {d₀ : Device} (d : Device) (f : Fetched) (status : Nat) (tag : Nat) (detail : Nat) (promise : Nat) (h : Device.Within P d₀ d) (hp : 2147549200 &&& P = 2147549200 := by exact subset_mono (by assumption) rfl) : Device.Within P d₀ (Device.acceptanceRecord d f status tag detail promise) := by
  unfold Device.acceptanceRecord
  try dsimp only
  repeat' (first | with_reducible exact subset_mono (by assumption) rfl | with_reducible assumption | with_reducible apply Device.putRecord_within | with_reducible apply Device.raise_within | with_reducible refine Device.Within.foldl ?_ ?_ | split | intro _ | dsimp only)

theorem Device.refuse_within {P : Nat} {d₀ : Device} (d : Device) (f : Fetched) (status : Nat) (detail : Nat) (promise : Nat) (h : Device.Within P d₀ d) (hp : 2281766928 &&& P = 2281766928 := by exact subset_mono (by assumption) rfl) : Device.Within P d₀ (Device.refuse d f status detail promise) := by
  unfold Device.refuse
  try dsimp only
  repeat' (first | with_reducible exact subset_mono (by assumption) rfl | with_reducible assumption | with_reducible apply Device.count_within | with_reducible apply Device.modQueue_within | with_reducible apply Device.acceptanceRecord_within | with_reducible refine Device.Within.foldl ?_ ?_ | split | intro _ | dsimp only)

theorem openLedgers_within {P : Nat} {d₀ : Device} (d : Device) (step : Nat) (a : List Nat) (h : Device.Within P d₀ d) (hp : 49152 &&& P = 49152 := by exact subset_mono (by assumption) rfl) : Device.Within P d₀ (openLedgers d step a).1 := by
  induction a generalizing d with
  | nil => unfold openLedgers; try dsimp only
           repeat' (first | with_reducible exact subset_mono (by assumption) rfl | with_reducible assumption | with_reducible apply ledgerOpen_within | with_reducible refine Device.Within.foldl ?_ ?_ | split | (with_reducible refine Device.Within.pair ?_ (by assumption)) | intro _ | dsimp only)
  | cons x r ih =>
    unfold openLedgers
    try dsimp only
    repeat' (first | with_reducible apply ih | with_reducible exact subset_mono (by assumption) rfl | with_reducible assumption | with_reducible apply ledgerOpen_within | with_reducible refine Device.Within.foldl ?_ ?_ | split | (with_reducible refine Device.Within.pair ?_ (by assumption)) | intro _ | dsimp only)

theorem Device.charge_within {P : Nat} {d₀ : Device} (d : Device) (c : Cmd) (h : Device.Within P d₀ d) (hp : 135168 &&& P = 135168 := by exact subset_mono (by assumption) rfl) : Device.Within P d₀ (Device.charge d c) := by
  unfold Device.charge
  try dsimp only
  repeat' (first | with_reducible exact subset_mono (by assumption) rfl | with_reducible assumption | with_reducible apply Device.modBay_within | with_reducible refine Device.Within.foldl ?_ ?_ | split | (with_reducible refine Device.Within.upd (ps := 4096) ?_ ?_ ?_ ?_ ?_) | rfl | (intro p; cases p <;> first | exact Or.inl rfl | exact Or.inr rfl) | intro _ | dsimp only)

theorem Device.acceptEffect_within {P : Nat} {d₀ : Device} (d : Device) (e : List Byte) (h : Device.Within P d₀ d) (hp : 163577858 &&& P = 163577858 := by exact subset_mono (by assumption) rfl) : Device.Within P d₀ (Device.acceptEffect d e) := by
  unfold Device.acceptEffect
  try dsimp only
  repeat' (first | with_reducible exact subset_mono (by assumption) rfl | with_reducible assumption | with_reducible apply Device.count_within | with_reducible refine Device.Within.foldl ?_ ?_ | split | (with_reducible refine Device.Within.upd (ps := 29360130) ?_ ?_ ?_ ?_ ?_) | rfl | (intro p; cases p <;> first | exact Or.inl rfl | exact Or.inr rfl) | intro _ | dsimp only)

theorem Device.takeMessage_within {P : Nat} {d₀ : Device} (d : Device) (c : Cmd) (h : Device.Within P d₀ d) (hp : 2097152 &&& P = 2097152 := by exact subset_mono (by assumption) rfl) : Device.Within P d₀ (Device.takeMessage d c).1 := by
  unfold Device.takeMessage
  try dsimp only
  repeat' (first | with_reducible exact subset_mono (by assumption) rfl | with_reducible assumption | with_reducible refine Device.Within.foldl ?_ ?_ | split | (with_reducible refine Device.Within.upd (ps := 2097152) ?_ ?_ ?_ ?_ ?_) | rfl | (intro p; cases p <;> first | exact Or.inl rfl | exact Or.inr rfl) | intro _ | dsimp only)

theorem Device.join_within {P : Nat} {d₀ : Device} (d : Device) (c : Cmd) (h : Device.Within P d₀ d) (hp : 135680 &&& P = 135680 := by exact subset_mono (by assumption) rfl) : Device.Within P d₀ (Device.join d c) := by
  unfold Device.join
  try dsimp only
  repeat' (first | with_reducible exact subset_mono (by assumption) rfl | with_reducible assumption | with_reducible apply Device.charge_within | with_reducible refine Device.Within.foldl ?_ ?_ | split | (with_reducible refine Device.Within.upd (ps := 512) ?_ ?_ ?_ ?_ ?_) | rfl | (intro p; cases p <;> first | exact Or.inl rfl | exact Or.inr rfl) | intro _ | dsimp only)

theorem Device.accept_within {P : Nat} {d₀ : Device} (d : Device) (f : Fetched) (c : Cmd) (tags : List Nat) (h : Device.Within P d₀ d) (hp : 2313361170 &&& P = 2313361170 := by exact subset_mono (by assumption) rfl) : Device.Within P d₀ (Device.accept d f c tags) := by
  have g0 := Device.settleTokens_within d h
  unfold Device.accept
  generalize d.settleTokens = e at g0 ⊢
  extract_lets z d1 d2
  have g1 : Device.Within P d₀ d1 := Device.Within.upd (ps := 1280) g0 rfl rfl (by intro p; cases p <;> first | exact Or.inl rfl | exact Or.inr rfl) (subset_mono hp rfl)
  clear_value d1
  have g2 : Device.Within P d₀ d2 := Device.acceptEffect_within _ f.entry g1
  clear_value d2
  have g3 : Device.Within P d₀ (d2.takeMessage c).1 := Device.takeMessage_within _ c g2
  generalize d2.takeMessage c = t at g3 ⊢
  rcases t with ⟨d4, m⟩
  exact Device.count_within _ _ _ (Device.acceptanceRecord_within _ _ _ _ _ _ (Device.join_within _ _ g3))

theorem Device.bid_within {P : Nat} {d₀ : Device} (d : Device) (f : Fetched) (l : Look) (tag : Nat) (h : Device.Within P d₀ d) (hp : 163627010 &&& P = 163627010 := by exact subset_mono (by assumption) rfl) : Device.Within P d₀ (Device.bid d f l tag).dev := by
  unfold Device.bid
  try dsimp only
  repeat' (first | with_reducible exact subset_mono (by assumption) rfl | with_reducible assumption | with_reducible apply Device.acceptEffect_within | with_reducible apply openLedgers_within | with_reducible refine Device.Within.foldl ?_ ?_ | split | (with_reducible refine Device.Within.pair ?_ (by assumption)) | intro _ | dsimp only)

theorem Device.offer_within {P : Nat} {d₀ : Device} (d : Device) (f : Fetched) (l : Look) (tag : Nat) (tags : List Nat) (h : Device.Within P d₀ d) (hp : 2313410322 &&& P = 2313410322 := by exact subset_mono (by assumption) rfl) : Device.Within P d₀ (Device.offer d f l tag tags) := by
  unfold Device.offer
  try dsimp only
  repeat' (first | with_reducible exact subset_mono (by assumption) rfl | with_reducible assumption | with_reducible apply Device.bid_within | with_reducible apply Device.refuse_within | with_reducible apply Device.accept_within | with_reducible refine Device.Within.foldl ?_ ?_ | split | intro _ | dsimp only)

theorem Device.judge_within {P : Nat} {d₀ : Device} (d0 : Device) (f : Fetched) (rest : List Fetched) (h : Device.Within P d₀ d0) (hp : 2313410354 &&& P = 2313410354 := by exact subset_mono (by assumption) rfl) : Device.Within P d₀ (Device.judge d0 f rest) := by
  unfold Device.judge
  try dsimp only
  repeat' (first | with_reducible exact subset_mono (by assumption) rfl | with_reducible assumption | with_reducible apply Device.count_within | with_reducible apply Device.refuse_within | with_reducible apply Device.offer_within | with_reducible refine Device.Within.foldl ?_ ?_ | split | (with_reducible refine Device.Within.upd (ps := 32) ?_ ?_ ?_ ?_ ?_) | rfl | (intro p; cases p <;> first | exact Or.inl rfl | exact Or.inr rfl) | intro _ | dsimp only)

theorem Device.admitRow_within {P : Nat} {d₀ : Device} (d : Device) (r : RowOf) (h : Device.Within P d₀ d) (hp : 2313410354 &&& P = 2313410354 := by exact subset_mono (by assumption) rfl) : Device.Within P d₀ (Device.admitRow d r) := by
  unfold Device.admitRow
  try dsimp only
  repeat' (first | with_reducible exact subset_mono (by assumption) rfl | with_reducible assumption | with_reducible apply Device.judge_within | with_reducible refine Device.Within.foldl ?_ ?_ | split | intro _ | dsimp only)


/-! ### Collective -/

theorem putSheaves_within {P : Nat} {d₀ : Device} (d : Device) (w : Win) (t : Table) (a : Nat) (a' : Parts) (h : Device.Within P d₀ d) (hp : 49152 &&& P = 49152 := by exact subset_mono (by assumption) rfl) : OkHolds (Device.Within P d₀) (putSheaves d w t a a') := by
  induction a' generalizing d a with
  | nil => unfold putSheaves; try dsimp only
           repeat' (first | with_reducible exact subset_mono (by assumption) rfl | with_reducible assumption | with_reducible apply writeSheafMove_within | with_reducible exact OkHolds.err _ | with_reducible apply OkHolds.ok | with_reducible refine Device.Within.foldl ?_ ?_ | split | (with_reducible refine OkHolds.get (P := Device.Within P d₀) ?_ (by assumption)) | intro _ | dsimp only | with_reducible apply OkHolds.ite)
  | cons x r ih =>
    unfold putSheaves
    try dsimp only
    repeat' (first | with_reducible apply ih | with_reducible exact subset_mono (by assumption) rfl | with_reducible assumption | with_reducible apply writeSheafMove_within | with_reducible exact OkHolds.err _ | with_reducible apply OkHolds.ok | with_reducible refine Device.Within.foldl ?_ ?_ | split | (with_reducible refine OkHolds.get (P := Device.Within P d₀) ?_ (by assumption)) | intro _ | dsimp only | with_reducible apply OkHolds.ite | (with_reducible refine OkHolds.get (P := Device.Within P d₀) (ih _ _ ?_) (by assumption)))

theorem writeResult_within {P : Nat} {d₀ : Device} (d : Device) (c : Cmd) (w : CollWork) (x : Coll) (j : Nat) (r : Carry) (h : Device.Within P d₀ d) (hp : 49152 &&& P = 49152 := by exact subset_mono (by assumption) rfl) : OkHolds (fun r => Device.Within P d₀ r.1) (writeResult d c w x j r) := by
  unfold writeResult
  try dsimp only
  repeat' (first | with_reducible exact subset_mono (by assumption) rfl | with_reducible assumption | with_reducible apply Device.write_within | with_reducible exact OkHolds.err _ | with_reducible apply OkHolds.ok | with_reducible refine Device.Within.foldl ?_ ?_ | split | (with_reducible refine OkHolds.get (P := Device.Within P d₀) ?_ (by assumption)) | intro _ | dsimp only | with_reducible apply OkHolds.ite)


/-! ### Chain -/

theorem Device.setColl_within {P : Nat} {d₀ : Device} (d : Device) (tag : Nat) (w : CollWork) (h : Device.Within P d₀ d) (hp : 512 &&& P = 512 := by exact subset_mono (by assumption) rfl) : Device.Within P d₀ (Device.setColl d tag w) := by
  unfold Device.setColl
  try dsimp only
  repeat' (first | with_reducible exact subset_mono (by assumption) rfl | with_reducible assumption | with_reducible apply Device.modCmd_within | with_reducible refine Device.Within.foldl ?_ ?_ | split | intro _ | dsimp only)

theorem Device.modStep_within {P : Nat} {d₀ : Device} (d : Device) (tag : Nat) (key : Nat) (f : StepWork → StepWork) (h : Device.Within P d₀ d) (hp : 512 &&& P = 512 := by exact subset_mono (by assumption) rfl) : Device.Within P d₀ (Device.modStep d tag key f) := by
  unfold Device.modStep
  try dsimp only
  repeat' (first | with_reducible exact subset_mono (by assumption) rfl | with_reducible assumption | with_reducible apply Device.modCmd_within | with_reducible refine Device.Within.foldl ?_ ?_ | split | intro _ | dsimp only)

theorem Device.failColl_within {P : Nat} {d₀ : Device} (d : Device) (tag : Nat) (status : Nat) (h : Device.Within P d₀ d) (hp : 202514952 &&& P = 202514952 := by exact subset_mono (by assumption) rfl) : Device.Within P d₀ (Device.failColl d tag status) := by
  unfold Device.failColl
  try dsimp only
  repeat' (first | with_reducible exact subset_mono (by assumption) rfl | with_reducible assumption | with_reducible apply Device.abort_within | with_reducible apply Device.failWith_within | with_reducible refine Device.Within.foldl ?_ ?_ | split | intro _ | dsimp only)

theorem Device.crossAsk_within {P : Nat} {d₀ : Device} (d : Device) (k : Nat) (tag : Nat) (key : Nat) (asked : Bool) (w : Win) (rs : List (Nat × Nat)) (h : Device.Within P d₀ d) (hp : 131072 &&& P = 131072 := by exact subset_mono (by assumption) rfl) : Device.Within P d₀ (Device.crossAsk d k tag key asked w rs).1 := by
  unfold Device.crossAsk
  try dsimp only
  repeat' (first | with_reducible exact subset_mono (by assumption) rfl | with_reducible assumption | with_reducible apply Device.crossStart_within | with_reducible refine Device.Within.foldl ?_ ?_ | split | intro _ | dsimp only)

theorem Device.stepAsk_within {P : Nat} {d₀ : Device} (d : Device) (k : Nat) (c : Cmd) (w : CollWork) (key : Nat) (rs : List (Nat × Nat)) (h : Device.Within P d₀ d) (hp : 131584 &&& P = 131584 := by exact subset_mono (by assumption) rfl) : Device.Within P d₀ (Device.stepAsk d k c w key rs).1 := by
  unfold Device.stepAsk
  try dsimp only
  repeat' (first | with_reducible exact subset_mono (by assumption) rfl | with_reducible assumption | with_reducible apply Device.crossAsk_within | with_reducible apply Device.modStep_within | with_reducible refine Device.Within.foldl ?_ ?_ | split | (with_reducible refine Device.Within.pair ?_ (by assumption)) | intro _ | dsimp only)

theorem formReduce_within {P : Nat} {d₀ : Device} (d : Device) (c : Cmd) (w : CollWork) (x : Coll) (k : Nat) (j : Nat) (h : Device.Within P d₀ d) (hp : 49152 &&& P = 49152 := by exact subset_mono (by assumption) rfl) : OkHolds (fun r => Device.Within P d₀ r.1) (formReduce d c w x k j) := by
  unfold formReduce
  try dsimp only
  repeat' (first | with_reducible exact subset_mono (by assumption) rfl | with_reducible assumption | with_reducible apply writeResult_within | with_reducible exact OkHolds.err _ | with_reducible apply OkHolds.ok | with_reducible refine Device.Within.foldl ?_ ?_ | split | (with_reducible refine OkHolds.get1 ?_ (by assumption)) | intro _ | dsimp only | with_reducible apply OkHolds.ite)

theorem writePart_within {P : Nat} {d₀ : Device} (d : Device) (win : Win) (x : Coll) (data : Parts) (at' : Nat) (limit : Nat) (off : Nat) (bytes : Nat) (h : Device.Within P d₀ d) (hp : 49152 &&& P = 49152 := by exact subset_mono (by assumption) rfl) : OkHolds (fun r => Device.Within P d₀ r.1) (writePart d win x data at' limit off bytes) := by
  unfold writePart
  try dsimp only
  repeat' (first | with_reducible exact subset_mono (by assumption) rfl | with_reducible assumption | with_reducible apply putSheaves_within | with_reducible apply Device.write_within | with_reducible exact OkHolds.err _ | with_reducible apply OkHolds.ok | with_reducible refine Device.Within.foldl ?_ ?_ | split | (with_reducible refine OkHolds.get (P := Device.Within P d₀) ?_ (by assumption)) | intro _ | dsimp only | with_reducible apply OkHolds.ite)

theorem formBroadcast_within {P : Nat} {d₀ : Device} (d : Device) (c : Cmd) (w : CollWork) (x : Coll) (h : Device.Within P d₀ d) (hp : 49152 &&& P = 49152 := by exact subset_mono (by assumption) rfl) : OkHolds (fun r => Device.Within P d₀ r.1) (formBroadcast d c w x) := by
  unfold formBroadcast
  try dsimp only
  repeat' (first | with_reducible exact subset_mono (by assumption) rfl | with_reducible assumption | with_reducible apply writePart_within | with_reducible exact OkHolds.err _ | with_reducible apply OkHolds.ok | with_reducible refine Device.Within.foldl ?_ ?_ | split | (with_reducible refine OkHolds.get1 ?_ (by assumption)) | intro _ | dsimp only | with_reducible apply OkHolds.ite)

theorem formBlock_within {P : Nat} {d₀ : Device} (d : Device) (c : Cmd) (w : CollWork) (x : Coll) (p : Nat) (h : Device.Within P d₀ d) (hp : 49152 &&& P = 49152 := by exact subset_mono (by assumption) rfl) : OkHolds (fun r => Device.Within P d₀ r.1) (formBlock d c w x p) := by
  unfold formBlock
  try dsimp only
  repeat' (first | with_reducible exact subset_mono (by assumption) rfl | with_reducible assumption | with_reducible apply writePart_within | with_reducible exact OkHolds.err _ | with_reducible apply OkHolds.ok | with_reducible refine Device.Within.foldl ?_ ?_ | split | (with_reducible refine OkHolds.get1 ?_ (by assumption)) | intro _ | dsimp only | with_reducible apply OkHolds.ite)

theorem Coll.form_within {P : Nat} {d₀ : Device} (x : Coll) (d : Device) (c : Cmd) (w : CollWork) (k : Nat) (p : Nat) (h : Device.Within P d₀ d) (hp : 49152 &&& P = 49152 := by exact subset_mono (by assumption) rfl) : OkHolds (fun r => Device.Within P d₀ r.1) (Coll.form x d c w k p) := by
  unfold Coll.form
  try dsimp only
  repeat' (first | with_reducible exact subset_mono (by assumption) rfl | with_reducible assumption | with_reducible apply formBroadcast_within | with_reducible apply formReduce_within | with_reducible apply formBlock_within | with_reducible exact OkHolds.err _ | with_reducible apply OkHolds.ok | with_reducible refine Device.Within.foldl ?_ ?_ | split | (with_reducible refine OkHolds.get1 ?_ (by assumption)) | intro _ | dsimp only | with_reducible apply OkHolds.ite)

theorem Device.advance_within {P : Nat} {d₀ : Device} (d : Device) (tag : Nat) (k : Nat) (a : Nat) (h : Device.Within P d₀ d) (hp : 202564104 &&& P = 202564104 := by exact subset_mono (by assumption) rfl) : Device.Within P d₀ (Device.advance d tag k a) := by
  induction a generalizing d with
  | zero => unfold Device.advance; exact h
  | succ n ih =>
    unfold Device.advance
    try dsimp only
    repeat' (first | with_reducible apply ih | with_reducible exact subset_mono (by assumption) rfl | with_reducible assumption | with_reducible apply Device.stepAsk_within | with_reducible apply Coll.form_within | with_reducible apply Device.failColl_within | with_reducible apply Device.modCmd_within | with_reducible refine Device.Within.foldl ?_ ?_ | split | (with_reducible refine OkHolds.get1 ?_ (by assumption)) | (with_reducible refine Device.Within.pair ?_ (by assumption)) | intro _ | dsimp only)

theorem Device.localWork_within {P : Nat} {d₀ : Device} (d : Device) (tag : Nat) (k : Nat) (h : Device.Within P d₀ d) (hp : 202564104 &&& P = 202564104 := by exact subset_mono (by assumption) rfl) : Device.Within P d₀ (Device.localWork d tag k) := by
  unfold Device.localWork
  try dsimp only
  repeat' (first | with_reducible exact subset_mono (by assumption) rfl | with_reducible assumption | with_reducible apply formReduce_within | with_reducible apply Device.failColl_within | with_reducible apply Device.modCmd_within | with_reducible apply putSheaves_within | with_reducible apply Device.write_within | with_reducible refine Device.Within.foldl ?_ ?_ | split | (with_reducible refine OkHolds.get (P := Device.Within P d₀) ?_ (by assumption)) | (with_reducible refine OkHolds.get1 ?_ (by assumption)) | intro _ | dsimp only)


/-! ### Transport -/

theorem Device.setStream_within {P : Nat} {d₀ : Device} (d : Device) (s : Nat) (x : Stream) (h : Device.Within P d₀ d) (hp : 2097152 &&& P = 2097152 := by exact subset_mono (by assumption) rfl) : Device.Within P d₀ (Device.setStream d s x) := by
  unfold Device.setStream
  try dsimp only
  repeat' (first | with_reducible exact subset_mono (by assumption) rfl | with_reducible assumption | with_reducible refine Device.Within.foldl ?_ ?_ | split | (with_reducible refine Device.Within.upd (ps := 2097152) ?_ ?_ ?_ ?_ ?_) | rfl | (intro p; cases p <;> first | exact Or.inl rfl | exact Or.inr rfl) | intro _ | dsimp only)

theorem Device.grantStream_within {P : Nat} {d₀ : Device} (d : Device) (s : Nat) (h : Device.Within P d₀ d) (hp : 137363456 &&& P = 137363456 := by exact subset_mono (by assumption) rfl) : Device.Within P d₀ (Device.grantStream d s) := by
  unfold Device.grantStream
  try dsimp only
  repeat' (first | with_reducible exact subset_mono (by assumption) rfl | with_reducible assumption | with_reducible apply Device.send_within | with_reducible apply Device.setStream_within | with_reducible refine Device.Within.foldl ?_ ?_ | split | intro _ | dsimp only)

theorem Device.grantStreamsTo_within {P : Nat} {d₀ : Device} (d : Device) (dev : Nat) (h : Device.Within P d₀ d) (hp : 137363456 &&& P = 137363456 := by exact subset_mono (by assumption) rfl) : Device.Within P d₀ (Device.grantStreamsTo d dev) := by
  unfold Device.grantStreamsTo
  try dsimp only
  repeat' (first | with_reducible exact subset_mono (by assumption) rfl | with_reducible assumption | with_reducible apply Device.grantStream_within | with_reducible refine Device.Within.foldl ?_ ?_ | split | intro _ | dsimp only)

theorem Device.abortStream_within {P : Nat} {d₀ : Device} (d : Device) (k : Nat) (s : Nat) (m : Nat) (dst : Nat) (h : Device.Within P d₀ d) (hp : 135266304 &&& P = 135266304 := by exact subset_mono (by assumption) rfl) : Device.Within P d₀ (Device.abortStream d k s m dst) := by
  unfold Device.abortStream
  try dsimp only
  repeat' (first | with_reducible exact subset_mono (by assumption) rfl | with_reducible assumption | with_reducible apply Device.send_within | with_reducible refine Device.Within.foldl ?_ ?_ | split | intro _ | dsimp only)

theorem Device.dropStream_within {P : Nat} {d₀ : Device} (d : Device) (s : Nat) (m : Nat) (h : Device.Within P d₀ d) (hp : 1048576 &&& P = 1048576 := by exact subset_mono (by assumption) rfl) : Device.Within P d₀ (Device.dropStream d s m) := by
  unfold Device.dropStream
  try dsimp only
  repeat' (first | with_reducible exact subset_mono (by assumption) rfl | with_reducible assumption | with_reducible apply Device.modPort_within | with_reducible refine Device.Within.foldl ?_ ?_ | split | intro _ | dsimp only)

theorem Device.streamHeard_within {P : Nat} {d₀ : Device} (d : Device) (s : Nat) (m : Nat) (src : Nat) (h : Device.Within P d₀ d) (hp : 512 &&& P = 512 := by exact subset_mono (by assumption) rfl) : Device.Within P d₀ (Device.streamHeard d s m src) := by
  unfold Device.streamHeard
  try dsimp only
  repeat' (first | with_reducible exact subset_mono (by assumption) rfl | with_reducible assumption | with_reducible apply Device.modCmd_within | with_reducible refine Device.Within.foldl ?_ ?_ | split | intro _ | dsimp only)

theorem Device.voidMessage_within {P : Nat} {d₀ : Device} (d : Device) (s : Nat) (m : Nat) (status : Nat) (h : Device.Within P d₀ d) (hp : 204612104 &&& P = 204612104 := by exact subset_mono (by assumption) rfl) : Device.Within P d₀ (Device.voidMessage d s m status) := by
  unfold Device.voidMessage
  try dsimp only
  repeat' (first | with_reducible exact subset_mono (by assumption) rfl | with_reducible assumption | with_reducible apply Device.dropStream_within | with_reducible apply Device.setStream_within | with_reducible apply Device.failWith_within | with_reducible refine Device.Within.foldl ?_ ?_ | split | intro _ | dsimp only)

theorem Device.streamFrame_within {P : Nat} {d₀ : Device} (d : Device) (k : Nat) (s : Nat) (f : Frame) (h : Device.Within P d₀ d) (hp : 204661256 &&& P = 204661256 := by exact subset_mono (by assumption) rfl) : Device.Within P d₀ (Device.streamFrame d k s f).1 := by
  unfold Device.streamFrame
  extract_lets x m a size base p has refuse d0 z a0 n rs t sheaf ends a1
  have hr : ∀ (e : Device) (st : Nat), Device.Within P d₀ e → Device.Within P d₀ (refuse e st).1 := fun e st he =>
    Device.abortStream_within _ _ _ _ _ (Device.voidMessage_within _ _ _ _ he)
  clear_value refuse
  refine Device.Within.ite1 (fun _ => h) fun _ => Device.Within.ite1 (fun _ => h) fun _ => Device.Within.ite1 (fun _ => h) fun _ => Device.Within.ite1 (fun _ => h) fun _ => ?_
  have g0 : Device.Within P d₀ d0 := Device.Within.ite (fun _ => h) fun _ => Device.modPort_within _ _ _ (Device.dropStream_within _ _ _ h)
  have gt : Device.Within P d₀ t.1 := Device.crossAsk_within _ _ _ _ _ _ _ g0
  clear_value d0 t
  refine Device.Within.ite1 (fun _ => hr _ _ g0) fun _ => Device.Within.ite1 (fun _ => Device.setStream_within _ _ _ gt) fun _ => ?_
  split
  · exact Device.Within.ite1 (fun _ => Device.setStream_within _ _ _ gt) fun _ => hr _ _ gt
  · rename_i d1 e1
    have g1 : Device.Within P d₀ d1 := OkHolds.get (Device.write_within _ _ _ gt) e1
    extract_lets ok d2
    have g2 : Device.Within P d₀ d2 := Device.streamHeard_within _ _ _ _ (Device.setStream_within _ _ _ g1)
    clear_value d2
    exact Device.Within.ite1 (fun _ => hr _ _ g1) fun _ => Device.Within.ite (fun _ => Device.dropStream_within _ _ _ g2) fun _ => g2

theorem Device.collFrame_within {P : Nat} {d₀ : Device} (d : Device) (k : Nat) (f : Frame) (c : Cmd) (w : CollWork) (h : Device.Within P d₀ d) (hp : 202564104 &&& P = 202564104 := by exact subset_mono (by assumption) rfl) : Device.Within P d₀ (Device.collFrame d k f c w).1 := by
  unfold Device.collFrame
  try dsimp only
  repeat' (first | with_reducible exact subset_mono (by assumption) rfl | with_reducible assumption | with_reducible apply Device.failFabric_within | with_reducible apply Device.modPort_within | with_reducible apply Device.modCmd_within | with_reducible apply Device.setColl_within | with_reducible apply Device.failCheck_within | with_reducible apply Device.advance_within | with_reducible refine Device.Within.foldl ?_ ?_ | split | intro _ | dsimp only)

theorem Device.takeFrame_within {P : Nat} {d₀ : Device} (d : Device) (k : Nat) (f : Frame) (h : Device.Within P d₀ d) (hp : 204661256 &&& P = 204661256 := by exact subset_mono (by assumption) rfl) : Device.Within P d₀ (Device.takeFrame d k f).1 := by
  unfold Device.takeFrame
  try dsimp only
  repeat' (first | with_reducible exact subset_mono (by assumption) rfl | with_reducible assumption | with_reducible apply Device.withSafety_within | with_reducible apply Device.streamFrame_within | with_reducible apply Device.failColl_within | with_reducible apply Device.collFrame_within | with_reducible refine Device.Within.foldl ?_ ?_ | split | (with_reducible refine Device.Within.pair ?_ (by assumption)) | intro _ | dsimp only)

theorem Device.takeFrames_within {P : Nat} {d₀ : Device} (d : Device) (k : Nat) (a : List Frame) (h : Device.Within P d₀ d) (hp : 204661256 &&& P = 204661256 := by exact subset_mono (by assumption) rfl) : Device.Within P d₀ (Device.takeFrames d k a).1 := by
  induction a generalizing d with
  | nil => unfold Device.takeFrames; try dsimp only
           repeat' (first | with_reducible exact subset_mono (by assumption) rfl | with_reducible assumption | with_reducible apply Device.takeFrame_within | with_reducible apply Device.modPort_within | with_reducible refine Device.Within.foldl ?_ ?_ | split | (with_reducible refine Device.Within.pair ?_ (by assumption)) | intro _ | dsimp only)
  | cons x r ih =>
    unfold Device.takeFrames
    try dsimp only
    repeat' (first | with_reducible apply ih | with_reducible exact subset_mono (by assumption) rfl | with_reducible assumption | with_reducible apply Device.takeFrame_within | with_reducible apply Device.modPort_within | with_reducible refine Device.Within.foldl ?_ ?_ | split | (with_reducible refine Device.Within.pair ?_ (by assumption)) | intro _ | dsimp only)

theorem Device.advanceAll_within {P : Nat} {d₀ : Device} (d : Device) (k : Nat) (h : Device.Within P d₀ d) (hp : 202564104 &&& P = 202564104 := by exact subset_mono (by assumption) rfl) : Device.Within P d₀ (Device.advanceAll d k) := by
  unfold Device.advanceAll
  try dsimp only
  repeat' (first | with_reducible exact subset_mono (by assumption) rfl | with_reducible assumption | with_reducible apply Device.advance_within | with_reducible refine Device.Within.foldl ?_ ?_ | split | intro _ | dsimp only)

theorem Device.consume_within {P : Nat} {d₀ : Device} (d : Device) (k : Nat) (h : Device.Within P d₀ d) (hp : 204661256 &&& P = 204661256 := by exact subset_mono (by assumption) rfl) : Device.Within P d₀ (Device.consume d k) := by
  unfold Device.consume
  try dsimp only
  repeat' (first | with_reducible exact subset_mono (by assumption) rfl | with_reducible assumption | with_reducible apply Device.takeFrames_within | with_reducible apply Device.modPort_within | with_reducible refine Device.Within.foldl ?_ ?_ | split | (with_reducible refine Device.Within.pair ?_ (by assumption)) | intro _ | dsimp only)

theorem Device.sendStep_within {P : Nat} {d₀ : Device} (d : Device) (k : Nat) (c : Cmd) (w : CollWork) (key : Nat) (dst : Nat) (first : Nat) (base : Frame) (ps : Parts) (h : Device.Within P d₀ d) (hp : 135266816 &&& P = 135266816 := by exact subset_mono (by assumption) rfl) : Device.Within P d₀ (Device.sendStep d k c w key dst first base ps) := by
  unfold Device.sendStep
  try dsimp only
  repeat' (first | with_reducible exact subset_mono (by assumption) rfl | with_reducible assumption | with_reducible apply Device.modPort_within | with_reducible apply Device.setColl_within | with_reducible apply Device.pump_within | with_reducible refine Device.Within.foldl ?_ ?_ | split | intro _ | dsimp only)

theorem Device.collSend_within {P : Nat} {d₀ : Device} (d : Device) (k : Nat) (c : Cmd) (w : CollWork) (key : Nat) (h : Device.Within P d₀ d) (hp : 202564104 &&& P = 202564104 := by exact subset_mono (by assumption) rfl) : Device.Within P d₀ (Device.collSend d k c w key) := by
  unfold Device.collSend
  try dsimp only
  repeat' (first | with_reducible exact subset_mono (by assumption) rfl | with_reducible assumption | with_reducible apply Device.failColl_within | with_reducible apply Device.failFabric_within | with_reducible apply Device.stepAsk_within | with_reducible apply formReduce_within | with_reducible apply Device.sendStep_within | with_reducible apply Device.modCmd_within | with_reducible refine Device.Within.foldl ?_ ?_ | split | (with_reducible refine OkHolds.get1 ?_ (by assumption)) | (with_reducible refine Device.Within.pair ?_ (by assumption)) | intro _ | dsimp only | (with_reducible exact OkHolds.ok (by assumption)) | with_reducible apply OkHolds.ok)

theorem Device.stageSend_within {P : Nat} {d₀ : Device} (d : Device) (k : Nat) (c : Cmd) (w : CollWork) (h : Device.Within P d₀ d) (hp : 202514952 &&& P = 202514952 := by exact subset_mono (by assumption) rfl) : Device.Within P d₀ (Device.stageSend d k c w) := by
  unfold Device.stageSend
  try dsimp only
  repeat' (first | with_reducible exact subset_mono (by assumption) rfl | with_reducible assumption | with_reducible apply Device.failFabric_within | with_reducible apply Device.stepAsk_within | with_reducible apply Device.failColl_within | with_reducible apply Device.sendStep_within | with_reducible refine Device.Within.foldl ?_ ?_ | split | (with_reducible refine Device.Within.pair ?_ (by assumption)) | intro _ | dsimp only)

theorem Device.stageRelease_within {P : Nat} {d₀ : Device} (d : Device) (c : Cmd) (w : CollWork) (h : Device.Within P d₀ d) (hp : 137363968 &&& P = 137363968 := by exact subset_mono (by assumption) rfl) : Device.Within P d₀ (Device.stageRelease d c w) := by
  unfold Device.stageRelease
  try dsimp only
  repeat' (first | with_reducible exact subset_mono (by assumption) rfl | with_reducible assumption | with_reducible apply Device.grantStream_within | with_reducible apply Device.setColl_within | with_reducible apply Device.setStream_within | with_reducible refine Device.Within.foldl ?_ ?_ | split | intro _ | dsimp only)

theorem Device.stepStartNow_within {P : Nat} {d₀ : Device} (d0 : Device) (k : Nat) (tag : Nat) (key : Nat) (found : List Detected) (h : Device.Within P d₀ d0) (hp : 2352144908 &&& P = 2352144908 := by exact subset_mono (by assumption) rfl) : Device.Within P d₀ (Device.stepStartNow d0 k tag key found) := by
  unfold Device.stepStartNow
  try dsimp only
  repeat' (first | with_reducible exact subset_mono (by assumption) rfl | with_reducible assumption | with_reducible apply Device.grantOwed_within | with_reducible apply Device.advanceAll_within | with_reducible apply Device.consume_within | with_reducible apply Device.detectAll_within | with_reducible apply Device.collSend_within | with_reducible apply Device.stageSend_within | with_reducible apply Device.stageRelease_within | with_reducible refine Device.Within.foldl ?_ ?_ | split | intro _ | dsimp only)

theorem Device.stepStart_within {P : Nat} {d₀ : Device} (d : Device) (k : Nat) (tag : Nat) (key : Nat) (found : List Detected) (h : Device.Within P d₀ d) (hp : 2352144908 &&& P = 2352144908 := by exact subset_mono (by assumption) rfl) : Device.Within P d₀ (Device.stepStart d k tag key found) := by
  unfold Device.stepStart
  try dsimp only
  repeat' (first | with_reducible exact subset_mono (by assumption) rfl | with_reducible assumption | with_reducible apply Device.whole_within | with_reducible apply Device.stepStartNow_within | with_reducible refine Device.Within.foldl ?_ ?_ | split | intro _ | dsimp only)

theorem Device.stepEnd_within {P : Nat} {d₀ : Device} (d : Device) (k : Nat) (tag : Nat) (key : Nat) (h : Device.Within P d₀ d) (hp : 1049088 &&& P = 1049088 := by exact subset_mono (by assumption) rfl) : Device.Within P d₀ (Device.stepEnd d k tag key) := by
  unfold Device.stepEnd
  try dsimp only
  repeat' (first | with_reducible exact subset_mono (by assumption) rfl | with_reducible assumption | with_reducible apply Device.setColl_within | with_reducible apply Device.modPort_within | with_reducible refine Device.Within.foldl ?_ ?_ | split | intro _ | dsimp only)

theorem Device.moveSteps_within {P : Nat} {d₀ : Device} (d : Device) (k : Nat) (dst : Nat) (h : Device.Within P d₀ d) (hp : 1049088 &&& P = 1049088 := by exact subset_mono (by assumption) rfl) : Device.Within P d₀ (Device.moveSteps d k dst) := by
  unfold Device.moveSteps
  try dsimp only
  repeat' (first | with_reducible exact subset_mono (by assumption) rfl | with_reducible assumption | with_reducible apply Device.modCmd_within | with_reducible apply Device.modPort_within | with_reducible refine Device.Within.foldl ?_ ?_ | split | intro _ | dsimp only)

theorem Device.planeEvent_within {P : Nat} {d₀ : Device} (d : Device) (k : Nat) (dst : Nat) (h : Device.Within P d₀ d) (hp : 201326600 &&& P = 201326600 := by exact subset_mono (by assumption) rfl) : Device.Within P d₀ (Device.planeEvent d k dst) := by
  unfold Device.planeEvent
  try dsimp only
  repeat' (first | with_reducible exact subset_mono (by assumption) rfl | with_reducible assumption | with_reducible apply Device.logEvent_within | with_reducible apply Device.count_within | with_reducible refine Device.Within.foldl ?_ ?_ | split | intro _ | dsimp only)

theorem Device.planeLost_within {P : Nat} {d₀ : Device} (d : Device) (k : Nat) (dst : Nat) (h : Device.Within P d₀ d) (hp : 202375688 &&& P = 202375688 := by exact subset_mono (by assumption) rfl) : Device.Within P d₀ (Device.planeLost d k dst) := by
  unfold Device.planeLost
  try dsimp only
  repeat' (first | with_reducible exact subset_mono (by assumption) rfl | with_reducible assumption | with_reducible apply Device.planeEvent_within | with_reducible apply Device.modPort_within | with_reducible apply Device.moveSteps_within | with_reducible refine Device.Within.foldl ?_ ?_ | split | intro _ | dsimp only)

theorem Device.resend_within {P : Nat} {d₀ : Device} (d : Device) (k : Nat) (dst : Nat) (seq : Nat) (h : Device.Within P d₀ d) (hp : 202375688 &&& P = 202375688 := by exact subset_mono (by assumption) rfl) : Device.Within P d₀ (Device.resend d k dst seq) := by
  unfold Device.resend
  try dsimp only
  repeat' (first | with_reducible exact subset_mono (by assumption) rfl | with_reducible assumption | with_reducible apply Device.planeLost_within | with_reducible apply Device.count_within | with_reducible apply Device.modPort_within | with_reducible refine Device.Within.foldl ?_ ?_ | split | intro _ | dsimp only)

theorem Device.retry_within {P : Nat} {d₀ : Device} (d : Device) (k : Nat) (dst : Nat) (h : Device.Within P d₀ d) (hp : 202375688 &&& P = 202375688 := by exact subset_mono (by assumption) rfl) : Device.Within P d₀ (Device.retry d k dst) := by
  unfold Device.retry
  try dsimp only
  repeat' (first | with_reducible exact subset_mono (by assumption) rfl | with_reducible assumption | with_reducible apply Device.resend_within | with_reducible refine Device.Within.foldl ?_ ?_ | split | intro _ | dsimp only)

theorem Device.receive_within {P : Nat} {d₀ : Device} (d : Device) (k : Nat) (type : Nat) (r : RxFrame) (h : Device.Within P d₀ d) (hp : 135266304 &&& P = 135266304 := by exact subset_mono (by assumption) rfl) : Device.Within P d₀ (Device.receive d k type r).1 := by
  unfold Device.receive
  try dsimp only
  repeat' (first | with_reducible exact subset_mono (by assumption) rfl | with_reducible assumption | with_reducible apply Device.count_within | with_reducible apply Device.modPort_within | with_reducible refine Device.Within.foldl ?_ ?_ | split | intro _ | dsimp only)

theorem Device.ack_within {P : Nat} {d₀ : Device} (d : Device) (k : Nat) (src : Nat) (h : Device.Within P d₀ d) (hp : 135266304 &&& P = 135266304 := by exact subset_mono (by assumption) rfl) : Device.Within P d₀ (Device.ack d k src) := by
  unfold Device.ack
  try dsimp only
  repeat' (first | with_reducible exact subset_mono (by assumption) rfl | with_reducible assumption | with_reducible apply Device.pump_within | with_reducible apply Device.send_within | with_reducible refine Device.Within.foldl ?_ ?_ | split | intro _ | dsimp only)

theorem Device.dataFrame_within {P : Nat} {d₀ : Device} (d0 : Device) (k : Nat) (r : RxFrame) (found : List Detected) (h : Device.Within P d₀ d0) (hp : 2352144908 &&& P = 2352144908 := by exact subset_mono (by assumption) rfl) : Device.Within P d₀ (Device.dataFrame d0 k r found) := by
  unfold Device.dataFrame
  try dsimp only
  repeat' (first | with_reducible exact subset_mono (by assumption) rfl | with_reducible assumption | with_reducible apply Device.receive_within | with_reducible apply Device.ack_within | with_reducible apply Device.count_within | with_reducible apply Device.send_within | with_reducible apply Device.modPort_within | with_reducible apply Device.detectAll_within | with_reducible apply Device.grantOwed_within | with_reducible apply Device.consume_within | with_reducible refine Device.Within.foldl ?_ ?_ | split | (with_reducible refine Device.Within.pair ?_ (by assumption)) | intro _ | dsimp only)

theorem Device.progress_within {P : Nat} {d₀ : Device} (d : Device) (src : Nat) (fs : List Frame) (h : Device.Within P d₀ d) (hp : 512 &&& P = 512 := by exact subset_mono (by assumption) rfl) : Device.Within P d₀ (Device.progress d src fs) := by
  unfold Device.progress
  try dsimp only
  repeat' (first | with_reducible exact subset_mono (by assumption) rfl | with_reducible assumption | with_reducible refine Device.Within.foldl ?_ ?_ | split | (with_reducible refine Device.Within.upd (ps := 512) ?_ ?_ ?_ ?_ ?_) | rfl | (intro p; cases p <;> first | exact Or.inl rfl | exact Or.inr rfl) | intro _ | dsimp only)

theorem Device.credited_within {P : Nat} {d₀ : Device} (d : Device) (k : Nat) (src : Nat) (n : Nat) (h : Device.Within P d₀ d) (hp : 1048576 &&& P = 1048576 := by exact subset_mono (by assumption) rfl) : Device.Within P d₀ (Device.credited d k src n) := by
  unfold Device.credited
  try dsimp only
  repeat' (first | with_reducible exact subset_mono (by assumption) rfl | with_reducible assumption | with_reducible apply Device.modPort_within | with_reducible refine Device.Within.foldl ?_ ?_ | split | intro _ | dsimp only)

theorem Device.ackFrame_within {P : Nat} {d₀ : Device} (d0 : Device) (k : Nat) (r : RxFrame) (h : Device.Within P d₀ d0) (hp : 135266816 &&& P = 135266816 := by exact subset_mono (by assumption) rfl) : Device.Within P d₀ (Device.ackFrame d0 k r) := by
  unfold Device.ackFrame
  try dsimp only
  repeat' (first | with_reducible exact subset_mono (by assumption) rfl | with_reducible assumption | with_reducible apply Device.receive_within | with_reducible apply Device.credited_within | with_reducible apply Device.modPort_within | with_reducible apply Device.grantOwed_within | with_reducible apply Device.pump_within | with_reducible apply Device.progress_within | with_reducible refine Device.Within.foldl ?_ ?_ | split | (with_reducible refine Device.Within.pair ?_ (by assumption)) | intro _ | dsimp only)

theorem Device.nakFrame_within {P : Nat} {d₀ : Device} (d0 : Device) (k : Nat) (r : RxFrame) (h : Device.Within P d₀ d0) (hp : 202375688 &&& P = 202375688 := by exact subset_mono (by assumption) rfl) : Device.Within P d₀ (Device.nakFrame d0 k r) := by
  unfold Device.nakFrame
  try dsimp only
  repeat' (first | with_reducible exact subset_mono (by assumption) rfl | with_reducible assumption | with_reducible apply Device.receive_within | with_reducible apply Device.grantOwed_within | with_reducible apply Device.resend_within | with_reducible refine Device.Within.foldl ?_ ?_ | split | (with_reducible refine Device.Within.pair ?_ (by assumption)) | intro _ | dsimp only)

theorem Device.grantFrame_within {P : Nat} {d₀ : Device} (d0 : Device) (k : Nat) (r : RxFrame) (h : Device.Within P d₀ d0) (hp : 137363968 &&& P = 137363968 := by exact subset_mono (by assumption) rfl) : Device.Within P d₀ (Device.grantFrame d0 k r) := by
  unfold Device.grantFrame
  try dsimp only
  repeat' (first | with_reducible exact subset_mono (by assumption) rfl | with_reducible assumption | with_reducible apply Device.receive_within | with_reducible apply Device.grantOwed_within | with_reducible apply Device.progress_within | with_reducible apply Device.setStream_within | with_reducible apply Device.pump_within | with_reducible apply Device.credited_within | with_reducible refine Device.Within.foldl ?_ ?_ | split | (with_reducible refine Device.Within.pair ?_ (by assumption)) | intro _ | dsimp only)

theorem Device.auditCredits_within {P : Nat} {d₀ : Device} (d : Device) (k : Nat) (h : Device.Within P d₀ d) (hp : 2350047756 &&& P = 2350047756 := by exact subset_mono (by assumption) rfl) : Device.Within P d₀ (Device.auditCredits d k) := by
  unfold Device.auditCredits
  try dsimp only
  repeat' (first | with_reducible exact subset_mono (by assumption) rfl | with_reducible assumption | with_reducible apply Device.bayDetected_within | with_reducible refine Device.Within.foldl ?_ ?_ | split | intro _ | dsimp only)

theorem Device.restartPeer_within {P : Nat} {d₀ : Device} (d : Device) (k : Nat) (src : Nat) (ups : Nat) (h : Device.Within P d₀ d) (hp : 2352144908 &&& P = 2352144908 := by exact subset_mono (by assumption) rfl) : Device.Within P d₀ (Device.restartPeer d k src ups) := by
  unfold Device.restartPeer
  try dsimp only
  repeat' (first | with_reducible exact subset_mono (by assumption) rfl | with_reducible assumption | with_reducible apply Device.pump_within | with_reducible apply Device.setPort_within | with_reducible apply Device.auditCredits_within | with_reducible apply Device.grantOwed_within | with_reducible apply Device.grantStreamsTo_within | with_reducible refine Device.Within.foldl ?_ ?_ | split | intro _ | dsimp only)

theorem Device.helloFrame_within {P : Nat} {d₀ : Device} (d0 : Device) (k : Nat) (r : RxFrame) (h : Device.Within P d₀ d0) (hp : 2352144908 &&& P = 2352144908 := by exact subset_mono (by assumption) rfl) : Device.Within P d₀ (Device.helloFrame d0 k r) := by
  unfold Device.helloFrame
  try dsimp only
  repeat' (first | with_reducible exact subset_mono (by assumption) rfl | with_reducible assumption | with_reducible apply Device.receive_within | with_reducible apply Device.modPort_within | with_reducible apply Device.logEvent_within | with_reducible apply Device.restartPeer_within | with_reducible refine Device.Within.foldl ?_ ?_ | split | (with_reducible refine Device.Within.pair ?_ (by assumption)) | intro _ | dsimp only)

theorem Device.helloTick_within {P : Nat} {d₀ : Device} (d : Device) (k : Nat) (h : Device.Within P d₀ d) (hp : 135266304 &&& P = 135266304 := by exact subset_mono (by assumption) rfl) : Device.Within P d₀ (Device.helloTick d k) := by
  unfold Device.helloTick
  try dsimp only
  repeat' (first | with_reducible exact subset_mono (by assumption) rfl | with_reducible assumption | with_reducible apply Device.returnCredits_within | with_reducible apply Device.pump_within | with_reducible apply Device.hello_within | with_reducible apply Device.modPort_within | with_reducible refine Device.Within.foldl ?_ ?_ | split | intro _ | dsimp only)

theorem Device.helloSilence_within {P : Nat} {d₀ : Device} (d : Device) (k : Nat) (src : Nat) (h : Device.Within P d₀ d) (hp : 1048576 &&& P = 1048576 := by exact subset_mono (by assumption) rfl) : Device.Within P d₀ (Device.helloSilence d k src) := by
  unfold Device.helloSilence
  try dsimp only
  repeat' (first | with_reducible exact subset_mono (by assumption) rfl | with_reducible assumption | with_reducible apply Device.modPort_within | with_reducible refine Device.Within.foldl ?_ ?_ | split | intro _ | dsimp only)

theorem Device.solicited_within {P : Nat} {d₀ : Device} (d : Device) (k : Nat) (target : BitVec 128) (h : Device.Within P d₀ d) (hp : 1048576 &&& P = 1048576 := by exact subset_mono (by assumption) rfl) : Device.Within P d₀ (Device.solicited d k target) := by
  unfold Device.solicited
  try dsimp only
  repeat' (first | with_reducible exact subset_mono (by assumption) rfl | with_reducible assumption | with_reducible apply Device.modPort_within | with_reducible refine Device.Within.foldl ?_ ?_ | split | intro _ | dsimp only)

theorem Device.pfc_within {P : Nat} {d₀ : Device} (d : Device) (k : Nat) (mask : Byte) (ns : List Nat) (h : Device.Within P d₀ d) (hp : 135266304 &&& P = 135266304 := by exact subset_mono (by assumption) rfl) : Device.Within P d₀ (Device.pfc d k mask ns) := by
  unfold Device.pfc
  try dsimp only
  repeat' (first | with_reducible exact subset_mono (by assumption) rfl | with_reducible assumption | with_reducible apply Device.pump_within | with_reducible apply Device.modPort_within | with_reducible refine Device.Within.foldl ?_ ?_ | split | intro _ | dsimp only)

theorem Device.linkUp_within {P : Nat} {d₀ : Device} (d : Device) (k : Nat) (h : Device.Within P d₀ d) (hp : 2350047756 &&& P = 2350047756 := by exact subset_mono (by assumption) rfl) : Device.Within P d₀ (Device.linkUp d k) := by
  unfold Device.linkUp
  try dsimp only
  repeat' (first | with_reducible exact subset_mono (by assumption) rfl | with_reducible assumption | with_reducible apply Device.auditCredits_within | with_reducible apply Device.hello_within | with_reducible apply Device.setPort_within | with_reducible refine Device.Within.foldl ?_ ?_ | split | intro _ | dsimp only)

theorem Device.portDown_within {P : Nat} {d₀ : Device} (d : Device) (k : Nat) (state : Nat) (h : Device.Within P d₀ d) (hp : 1049088 &&& P = 1049088 := by exact subset_mono (by assumption) rfl) : Device.Within P d₀ (Device.portDown d k state) := by
  unfold Device.portDown
  try dsimp only
  repeat' (first | with_reducible exact subset_mono (by assumption) rfl | with_reducible assumption | with_reducible apply Device.moveSteps_within | with_reducible apply Device.modPort_within | with_reducible refine Device.Within.foldl ?_ ?_ | split | intro _ | dsimp only)

theorem Device.linkDown_within {P : Nat} {d₀ : Device} (d : Device) (k : Nat) (h : Device.Within P d₀ d) (hp : 202375688 &&& P = 202375688 := by exact subset_mono (by assumption) rfl) : Device.Within P d₀ (Device.linkDown d k) := by
  unfold Device.linkDown
  try dsimp only
  repeat' (first | with_reducible exact subset_mono (by assumption) rfl | with_reducible assumption | with_reducible apply Device.planeEvent_within | with_reducible apply Device.portDown_within | with_reducible refine Device.Within.foldl ?_ ?_ | split | intro _ | dsimp only)

theorem Device.abortFrame_within {P : Nat} {d₀ : Device} (d0 : Device) (k : Nat) (r : RxFrame) (h : Device.Within P d₀ d0) (hp : 204612104 &&& P = 204612104 := by exact subset_mono (by assumption) rfl) : Device.Within P d₀ (Device.abortFrame d0 k r) := by
  unfold Device.abortFrame
  try dsimp only
  repeat' (first | with_reducible exact subset_mono (by assumption) rfl | with_reducible assumption | with_reducible apply Device.receive_within | with_reducible apply Device.grantOwed_within | with_reducible apply Device.voidMessage_within | with_reducible apply Device.failFabric_within | with_reducible refine Device.Within.foldl ?_ ?_ | split | (with_reducible refine Device.Within.pair ?_ (by assumption)) | intro _ | dsimp only)

theorem Device.partnerTimeout_within {P : Nat} {d₀ : Device} (d : Device) (tag : Nat) (h : Device.Within P d₀ d) (hp : 202514952 &&& P = 202514952 := by exact subset_mono (by assumption) rfl) : Device.Within P d₀ (Device.partnerTimeout d tag) := by
  unfold Device.partnerTimeout
  try dsimp only
  repeat' (first | with_reducible exact subset_mono (by assumption) rfl | with_reducible assumption | with_reducible apply Device.failFabric_within | with_reducible refine Device.Within.foldl ?_ ?_ | split | intro _ | dsimp only)


/-! ### Queue -/

theorem Device.doorbellIgnored_within {P : Nat} {d₀ : Device} (d : Device) (h : Device.Within P d₀ d) (hp : 134217728 &&& P = 134217728 := by exact subset_mono (by assumption) rfl) : Device.Within P d₀ (Device.doorbellIgnored d) := by
  unfold Device.doorbellIgnored
  try dsimp only
  repeat' (first | with_reducible exact subset_mono (by assumption) rfl | with_reducible assumption | with_reducible apply Device.count_within | with_reducible refine Device.Within.foldl ?_ ?_ | split | intro _ | dsimp only)

theorem Device.sqTail_within {P : Nat} {d₀ : Device} (d0 : Device) (q : Fin 64) (value : W32) (writes : List Host.Cell) (h : Device.Within P d₀ d0) (hp : 134283280 &&& P = 134283280 := by exact subset_mono (by assumption) rfl) : Device.Within P d₀ (Device.sqTail d0 q value writes) := by
  have key : ∀ (l : List Host.Cell) (m : Mem), m.wf = true → Mem.wf (l.foldl (fun m c => m.setByte c.1 c.2) m) = true := by
    intro l
    induction l with
    | nil => intro m hm; exact hm
    | cons a l ih => intro m hm; exact ih _ (Mem.setByte_wf hm)
  have g := Device.Within.hostWrite h (m := writes.foldl (fun m c => m.setByte c.1 c.2) d0.host) (key writes _) (subset_mono hp rfl)
  unfold Device.sqTail
  dsimp only
  repeat' split
  · exact g
  · exact Device.doorbellIgnored_within _ g
  · exact Device.setQueue_within _ _ _ g
  · exact Device.doorbellIgnored_within _ g

theorem Device.cqHeadMove_within {P : Nat} {d₀ : Device} (d : Device) (q : Fin 64) (value : W32) (h : Device.Within P d₀ d) (hp : 134217744 &&& P = 134217744 := by exact subset_mono (by assumption) rfl) : Device.Within P d₀ (Device.cqHeadMove d q value) := by
  unfold Device.cqHeadMove
  try dsimp only
  repeat' (first | with_reducible exact subset_mono (by assumption) rfl | with_reducible assumption | with_reducible apply Device.doorbellIgnored_within | with_reducible apply Device.setQueue_within | with_reducible refine Device.Within.foldl ?_ ?_ | split | intro _ | dsimp only)

theorem Device.fetchEntry_within {P : Nat} {d₀ : Device} (d : Device) (h : Device.Within P d₀ d) (hp : 240 &&& P = 240 := by exact subset_mono (by assumption) rfl) : Device.Within P d₀ (Device.fetchEntry d) := by
  unfold Device.fetchEntry
  try dsimp only
  repeat' (first | with_reducible exact subset_mono (by assumption) rfl | with_reducible assumption | with_reducible apply Device.setQueue_within | with_reducible refine Device.Within.foldl ?_ ?_ | split | (with_reducible refine Device.Within.upd (ps := 224) ?_ ?_ ?_ ?_ ?_) | rfl | (intro p; cases p <;> first | exact Or.inl rfl | exact Or.inr rfl) | intro _ | dsimp only)

theorem Device.drainEnd_within {P : Nat} {d₀ : Device} (d : Device) (q : Nat) (h : Device.Within P d₀ d) (hp : 16 &&& P = 16 := by exact subset_mono (by assumption) rfl) : Device.Within P d₀ (Device.drainEnd d q) := by
  unfold Device.drainEnd
  try dsimp only
  repeat' (first | with_reducible exact subset_mono (by assumption) rfl | with_reducible assumption | with_reducible apply Device.setQueue_within | with_reducible refine Device.Within.foldl ?_ ?_ | split | intro _ | dsimp only)


/-! ### Beacons -/

theorem Device.setRound_within {P : Nat} {d₀ : Device} (d : Device) (r : Option Round) (h : Device.Within P d₀ d) (hp : 134217728 &&& P = 134217728 := by exact subset_mono (by assumption) rfl) : Device.Within P d₀ (Device.setRound d r) := by
  unfold Device.setRound
  try dsimp only
  repeat' (first | with_reducible exact subset_mono (by assumption) rfl | with_reducible assumption | with_reducible apply Device.withSafety_within | with_reducible refine Device.Within.foldl ?_ ?_ | split | intro _ | dsimp only)

theorem Device.startRound_within {P : Nat} {d₀ : Device} (d : Device) (s : W64) (h : Device.Within P d₀ d) (hp : 134354688 &&& P = 134354688 := by exact subset_mono (by assumption) rfl) : Device.Within P d₀ (Device.startRound d s) := by
  unfold Device.startRound
  dsimp only
  split
  · exact Device.withSafety_within _ _ h
  · refine Device.Within.upd (ps := 1792) (Device.setRound_within _ _ (Device.charge_within _ _ h)) rfl rfl ?_ (subset_mono hp rfl)
    intro p
    generalize Device.setRound _ _ = d1
    cases p <;> first | exact Or.inl rfl | exact Or.inr rfl

theorem Device.endRound_within {P : Nat} {d₀ : Device} (d : Device) (h : Device.Within P d₀ d) (hp : 134354688 &&& P = 134354688 := by exact subset_mono (by assumption) rfl) : Device.Within P d₀ (Device.endRound d) := by
  unfold Device.endRound
  try dsimp only
  repeat' (first | with_reducible exact subset_mono (by assumption) rfl | with_reducible assumption | with_reducible apply Device.setRound_within | with_reducible apply Device.startRound_within | with_reducible apply Device.withSafety_within | with_reducible refine Device.Within.foldl ?_ ?_ | split | intro _ | dsimp only)

theorem Device.beaconPoint_within {P : Nat} {d₀ : Device} (d : Device) (s : W64) (h : Device.Within P d₀ d) (hp : 134354688 &&& P = 134354688 := by exact subset_mono (by assumption) rfl) : Device.Within P d₀ (Device.beaconPoint d s) := by
  unfold Device.beaconPoint
  try dsimp only
  repeat' (first | with_reducible exact subset_mono (by assumption) rfl | with_reducible assumption | with_reducible apply Device.withSafety_within | with_reducible apply Device.startRound_within | with_reducible refine Device.Within.foldl ?_ ?_ | split | intro _ | dsimp only)

theorem Device.beaconEvent_within {P : Nat} {d₀ : Device} (d : Device) (s : Nat) (version : Nat) (kind : Nat) (first : Nat) (h : Device.Within P d₀ d) (hp : 67108872 &&& P = 67108872 := by exact subset_mono (by assumption) rfl) : Device.Within P d₀ (Device.beaconEvent d s version kind first) := by
  unfold Device.beaconEvent
  try dsimp only
  repeat' (first | with_reducible exact subset_mono (by assumption) rfl | with_reducible assumption | with_reducible apply Device.logEvent_within | with_reducible refine Device.Within.foldl ?_ ?_ | split | intro _ | dsimp only)

theorem Device.skipRound_within {P : Nat} {d₀ : Device} (d : Device) (r : Round) (kind : Nat) (h : Device.Within P d₀ d) (hp : 201463560 &&& P = 201463560 := by exact subset_mono (by assumption) rfl) : Device.Within P d₀ (Device.skipRound d r kind) := by
  unfold Device.skipRound
  try dsimp only
  repeat' (first | with_reducible exact subset_mono (by assumption) rfl | with_reducible assumption | with_reducible apply Device.endRound_within | with_reducible apply Device.count_within | with_reducible apply Device.beaconEvent_within | with_reducible refine Device.Within.foldl ?_ ?_ | split | intro _ | dsimp only)

theorem Device.roundDigests_within {P : Nat} {d₀ : Device} (d : Device) (c : Cmd) (h : Device.Within P d₀ d) (hp : 202520328 &&& P = 202520328 := by exact subset_mono (by assumption) rfl) : Device.Within P d₀ (Device.roundDigests d c) := by
  unfold Device.roundDigests
  try dsimp only
  repeat' (first | with_reducible exact subset_mono (by assumption) rfl | with_reducible assumption | with_reducible apply Device.skipRound_within | with_reducible apply Device.failWith_within | with_reducible apply Device.setRound_within | with_reducible apply Device.endRound_within | with_reducible apply Device.count_within | with_reducible apply Device.pump_within | with_reducible apply Device.modPort_within | with_reducible refine Device.Within.foldl ?_ ?_ | split | intro _ | dsimp only)

theorem Device.dropFrame_within {P : Nat} {d₀ : Device} (d : Device) (f : BeaconFrame) (h : Device.Within P d₀ d) (hp : 134217728 &&& P = 134217728 := by exact subset_mono (by assumption) rfl) : Device.Within P d₀ (Device.dropFrame d f) := by
  unfold Device.dropFrame
  try dsimp only
  repeat' (first | with_reducible exact subset_mono (by assumption) rfl | with_reducible assumption | with_reducible apply Device.withSafety_within | with_reducible refine Device.Within.foldl ?_ ?_ | split | intro _ | dsimp only)

theorem Device.compareBeacons_within {P : Nat} {d₀ : Device} (d : Device) (h : Device.Within P d₀ d) (hp : 201471752 &&& P = 201471752 := by exact subset_mono (by assumption) rfl) : Device.Within P d₀ (Device.compareBeacons d) := by
  unfold Device.compareBeacons
  try dsimp only
  repeat' (first | with_reducible exact subset_mono (by assumption) rfl | with_reducible assumption | with_reducible apply Device.skipRound_within | with_reducible apply Device.dropFrame_within | with_reducible apply Device.modTile_within | with_reducible apply Device.setRound_within | with_reducible apply Device.modBay_within | with_reducible refine Device.Within.foldl ?_ ?_ | split | intro _ | dsimp only)

theorem Device.compared_within {P : Nat} {d₀ : Device} (d : Device) (r : Round) (f : BeaconFrame) (h : Device.Within P d₀ d) (hp : 2348810252 &&& P = 2348810252 := by exact subset_mono (by assumption) rfl) : Device.Within P d₀ (Device.compared d r f) := by
  unfold Device.compared
  try dsimp only
  repeat' (first | with_reducible exact subset_mono (by assumption) rfl | with_reducible assumption | with_reducible apply Device.count_within | with_reducible apply Device.alert_within | with_reducible apply Device.beaconEvent_within | with_reducible refine Device.Within.foldl ?_ ?_ | split | intro _ | dsimp only)

theorem Device.comparisonEnd_within {P : Nat} {d₀ : Device} (d : Device) (h : Device.Within P d₀ d) (hp : 2348955404 &&& P = 2348955404 := by exact subset_mono (by assumption) rfl) : Device.Within P d₀ (Device.comparisonEnd d) := by
  unfold Device.comparisonEnd
  try dsimp only
  repeat' (first | with_reducible exact subset_mono (by assumption) rfl | with_reducible assumption | with_reducible apply Device.modTile_within | with_reducible apply Device.setRound_within | with_reducible apply Device.modBay_within | with_reducible apply Device.endRound_within | with_reducible apply Device.compared_within | with_reducible apply Device.dropFrame_within | with_reducible refine Device.Within.foldl ?_ ?_ | split | intro _ | dsimp only)

theorem Device.beaconTimeout_within {P : Nat} {d₀ : Device} (d : Device) (h : Device.Within P d₀ d) (hp : 201463560 &&& P = 201463560 := by exact subset_mono (by assumption) rfl) : Device.Within P d₀ (Device.beaconTimeout d) := by
  unfold Device.beaconTimeout
  try dsimp only
  repeat' (first | with_reducible exact subset_mono (by assumption) rfl | with_reducible assumption | with_reducible apply Device.count_within | with_reducible apply Device.beaconEvent_within | with_reducible apply Device.dropFrame_within | with_reducible apply Device.skipRound_within | with_reducible refine Device.Within.foldl ?_ ?_ | split | intro _ | dsimp only)


/-! ### Completion -/

theorem Device.lastWork_within {P : Nat} {d₀ : Device} (d : Device) (c : Cmd) (h : Device.Within P d₀ d) (hp : 4497596936 &&& P = 4497596936 := by exact subset_mono (by assumption) rfl) : Device.Within P d₀ (Device.lastWork d c) := by
  unfold Device.lastWork
  try dsimp only
  repeat' (first | with_reducible exact subset_mono (by assumption) rfl | with_reducible assumption | with_reducible apply Device.localWork_within | with_reducible apply Device.perform_within | with_reducible apply Device.settle_within | with_reducible refine Device.Within.foldl ?_ ?_ | split | intro _ | dsimp only)

theorem Device.claimMessage_within {P : Nat} {d₀ : Device} (d : Device) (c : Cmd) (h : Device.Within P d₀ d) (hp : 2097152 &&& P = 2097152 := by exact subset_mono (by assumption) rfl) : Device.Within P d₀ (Device.claimMessage d c) := by
  unfold Device.claimMessage
  try dsimp only
  repeat' (first | with_reducible exact subset_mono (by assumption) rfl | with_reducible assumption | with_reducible apply Device.setStream_within | with_reducible refine Device.Within.foldl ?_ ?_ | split | intro _ | dsimp only)

theorem Device.afterSuccess_within {P : Nat} {d₀ : Device} (d : Device) (c : Cmd) (h : Device.Within P d₀ d) (hp : 134354688 &&& P = 134354688 := by exact subset_mono (by assumption) rfl) : Device.Within P d₀ (Device.afterSuccess d c) := by
  unfold Device.afterSuccess
  try dsimp only
  repeat' (first | with_reducible exact subset_mono (by assumption) rfl | with_reducible assumption | with_reducible apply Device.beaconPoint_within | with_reducible refine Device.Within.foldl ?_ ?_ | split | intro _ | dsimp only)

theorem Device.endCmd_within {P : Nat} {d₀ : Device} (d : Device) (c : Cmd) (h : Device.Within P d₀ d) (hp : 6647185176 &&& P = 6647185176 := by exact subset_mono (by assumption) rfl) : Device.Within P d₀ (Device.endCmd d c) := by
  unfold Device.endCmd
  try dsimp only
  repeat' (first | with_reducible exact subset_mono (by assumption) rfl | with_reducible assumption | with_reducible apply Device.roundDigests_within | with_reducible apply Device.claimMessage_within | with_reducible apply Device.finish_within | with_reducible apply Device.afterSuccess_within | with_reducible refine Device.Within.foldl ?_ ?_ | split | intro _ | dsimp only)

theorem Device.freeSlot_within {P : Nat} {d₀ : Device} (d : Device) (c : Cmd) (h : Device.Within P d₀ d) (hp : 137363968 &&& P = 137363968 := by exact subset_mono (by assumption) rfl) : Device.Within P d₀ (Device.freeSlot d c) := by
  unfold Device.freeSlot
  try dsimp only
  repeat' (first | with_reducible exact subset_mono (by assumption) rfl | with_reducible assumption | with_reducible apply Device.stageRelease_within | with_reducible refine Device.Within.foldl ?_ ?_ | split | intro _ | dsimp only)

theorem Device.voidTurn_within {P : Nat} {d₀ : Device} (d : Device) (c : Cmd) (h : Device.Within P d₀ d) (hp : 203563528 &&& P = 203563528 := by exact subset_mono (by assumption) rfl) : Device.Within P d₀ (Device.voidTurn d c) := by
  unfold Device.voidTurn
  try dsimp only
  repeat' (first | with_reducible exact subset_mono (by assumption) rfl | with_reducible assumption | with_reducible apply Device.failWith_within | with_reducible apply Device.setStream_within | with_reducible refine Device.Within.foldl ?_ ?_ | split | intro _ | dsimp only)

theorem Device.endIfDone_within {P : Nat} {d₀ : Device} (d : Device) (tag : Nat) (h : Device.Within P d₀ d) (hp : 6647185176 &&& P = 6647185176 := by exact subset_mono (by assumption) rfl) : Device.Within P d₀ (Device.endIfDone d tag) := by
  unfold Device.endIfDone
  try dsimp only
  repeat' (first | with_reducible exact subset_mono (by assumption) rfl | with_reducible assumption | with_reducible apply Device.lastWork_within | with_reducible apply Device.voidTurn_within | with_reducible apply Device.endCmd_within | with_reducible refine Device.Within.foldl ?_ ?_ | split | intro _ | dsimp only)

theorem Device.completeCmdNow_within {P : Nat} {d₀ : Device} (d : Device) (tag : Nat) (found : List Detected) (h : Device.Within P d₀ d) (hp : 6647185180 &&& P = 6647185180 := by exact subset_mono (by assumption) rfl) : Device.Within P d₀ (Device.completeCmdNow d tag found) := by
  unfold Device.completeCmdNow
  try dsimp only
  repeat' (first | with_reducible exact subset_mono (by assumption) rfl | with_reducible assumption | with_reducible apply Device.endCmd_within | with_reducible apply Device.detectAll_within | with_reducible apply Device.endIfDone_within | with_reducible apply Device.freeSlot_within | with_reducible refine Device.Within.foldl ?_ ?_ | split | intro _ | dsimp only)

theorem Device.completeCmd_within {P : Nat} {d₀ : Device} (d : Device) (tag : Nat) (found : List Detected) (h : Device.Within P d₀ d) (hp : 6647185180 &&& P = 6647185180 := by exact subset_mono (by assumption) rfl) : Device.Within P d₀ (Device.completeCmd d tag found) := by
  unfold Device.completeCmd
  try dsimp only
  repeat' (first | with_reducible exact subset_mono (by assumption) rfl | with_reducible assumption | with_reducible apply Device.whole_within | with_reducible apply Device.completeCmdNow_within | with_reducible refine Device.Within.foldl ?_ ?_ | split | intro _ | dsimp only)

theorem Device.promiseExpiry_within {P : Nat} {d₀ : Device} (d : Device) (tag : Nat) (h : Device.Within P d₀ d) (hp : 2348810764 &&& P = 2348810764 := by exact subset_mono (by assumption) rfl) : Device.Within P d₀ (Device.promiseExpiry d tag) := by
  unfold Device.promiseExpiry
  try dsimp only
  repeat' (first | with_reducible exact subset_mono (by assumption) rfl | with_reducible assumption | with_reducible apply Device.count_within | with_reducible apply Device.modCmd_within | with_reducible apply Device.logEvent_within | with_reducible apply Device.alert_within | with_reducible refine Device.Within.foldl ?_ ?_ | split | intro _ | dsimp only)

theorem Device.wedged_within {P : Nat} {d₀ : Device} (d : Device) (k : Nat) (mech : Nat) (tag : Nat) (h : Device.Within P d₀ d) (hp : 2350047756 &&& P = 2350047756 := by exact subset_mono (by assumption) rfl) : Device.Within P d₀ (Device.wedged d k mech tag) := by
  unfold Device.wedged
  try dsimp only
  repeat' (first | with_reducible exact subset_mono (by assumption) rfl | with_reducible assumption | with_reducible apply Device.bayDetected_within | with_reducible apply emberAdd_within | with_reducible refine Device.Within.foldl ?_ ?_ | split | intro _ | dsimp only)

theorem Device.overdueExpiry_within {P : Nat} {d₀ : Device} (d : Device) (tag : Nat) (h : Device.Within P d₀ d) (hp : 2350047756 &&& P = 2350047756 := by exact subset_mono (by assumption) rfl) : Device.Within P d₀ (Device.overdueExpiry d tag) := by
  unfold Device.overdueExpiry
  try dsimp only
  repeat' (first | with_reducible exact subset_mono (by assumption) rfl | with_reducible assumption | with_reducible apply Device.modCmd_within | with_reducible apply Device.logEvent_within | with_reducible apply Device.abort_within | with_reducible apply Device.failCmd_within | with_reducible apply Device.wedged_within | with_reducible apply Device.abortBut_within | with_reducible refine Device.Within.foldl ?_ ?_ | split | intro _ | dsimp only)

theorem Device.stall_within {P : Nat} {d₀ : Device} (d : Device) (k : Nat) (h : Device.Within P d₀ d) (hp : 2350047756 &&& P = 2350047756 := by exact subset_mono (by assumption) rfl) : Device.Within P d₀ (Device.stall d k) := by
  unfold Device.stall
  try dsimp only
  repeat' (first | with_reducible exact subset_mono (by assumption) rfl | with_reducible assumption | with_reducible apply Device.wedged_within | with_reducible apply Device.count_within | with_reducible refine Device.Within.foldl ?_ ?_ | split | intro _ | dsimp only)

theorem Device.hostTimeout_within {P : Nat} {d₀ : Device} (d : Device) (tag : Nat) (h : Device.Within P d₀ d) (hp : 201466376 &&& P = 201466376 := by exact subset_mono (by assumption) rfl) : Device.Within P d₀ (Device.hostTimeout d tag) := by
  unfold Device.hostTimeout
  try dsimp only
  repeat' (first | with_reducible exact subset_mono (by assumption) rfl | with_reducible assumption | with_reducible apply Device.failWith_within | with_reducible refine Device.Within.foldl ?_ ?_ | split | intro _ | dsimp only)

theorem Device.tagBook_within {P : Nat} {d₀ : Device} (d : Device) (h : Device.Within P d₀ d) (hp : 8555592702 &&& P = 8555592702 := by exact subset_mono (by assumption) rfl) : Device.Within P d₀ (Device.tagBook d) := by
  unfold Device.tagBook
  try dsimp only
  repeat' (first | with_reducible exact subset_mono (by assumption) rfl | with_reducible assumption | with_reducible apply Device.rung3_within | with_reducible apply Device.pairReset_within | with_reducible apply Device.withSafety_within | with_reducible refine Device.Within.foldl ?_ ?_ | split | intro _ | dsimp only)

theorem Device.auditBook_within {P : Nat} {d₀ : Device} (d : Device) (b : Book) (h : Device.Within P d₀ d) (hp : 8555592702 &&& P = 8555592702 := by exact subset_mono (by assumption) rfl) : Device.Within P d₀ (Device.auditBook d b) := by
  unfold Device.auditBook
  try dsimp only
  repeat' (first | with_reducible exact subset_mono (by assumption) rfl | with_reducible assumption | with_reducible apply Device.pairReset_within | with_reducible apply Device.tagBook_within | with_reducible apply Device.bayDetected_within | with_reducible refine Device.Within.foldl ?_ ?_ | split | intro _ | dsimp only)


/-! ### Ladder -/

theorem Device.placeAgain_within {P : Nat} {d₀ : Device} (d : Device) (k : Nat) (t : Nat) (bank : Nat) (a : List Member) (h : Device.Within P d₀ d) (hp : 57344 &&& P = 57344 := by exact subset_mono (by assumption) rfl) : OkHolds (fun r => Device.Within P d₀ r.1) (Device.placeAgain d k t bank a) := by
  induction a generalizing d with
  | nil => unfold Device.placeAgain; try dsimp only
           repeat' (first | with_reducible exact subset_mono (by assumption) rfl | with_reducible assumption | with_reducible apply Device.place_within | with_reducible exact OkHolds.err _ | with_reducible apply OkHolds.ok | with_reducible refine Device.Within.foldl ?_ ?_ | split | (with_reducible refine OkHolds.get1 ?_ (by assumption)) | intro _ | dsimp only | with_reducible apply OkHolds.ite)
  | cons x r ih =>
    unfold Device.placeAgain
    try dsimp only
    repeat' (first | with_reducible apply ih | with_reducible exact subset_mono (by assumption) rfl | with_reducible assumption | with_reducible apply Device.place_within | with_reducible exact OkHolds.err _ | with_reducible apply OkHolds.ok | with_reducible refine Device.Within.foldl ?_ ?_ | split | (with_reducible refine OkHolds.get1 ?_ (by assumption)) | intro _ | dsimp only | with_reducible apply OkHolds.ite | (with_reducible refine OkHolds.get1 (ih _ ?_) (by assumption)))

theorem Device.rewound_within {P : Nat} {d₀ : Device} (d : Device) (k : Nat) (t : Nat) (g : ArrayGroup) (h : Device.Within P d₀ d) (hp : 57344 &&& P = 57344 := by exact subset_mono (by assumption) rfl) : OkHolds (fun r => Device.Within P d₀ r.1) (Device.rewound d k t g) := by
  unfold Device.rewound
  try dsimp only
  repeat' (first | with_reducible exact subset_mono (by assumption) rfl | with_reducible assumption | with_reducible apply Device.placeAgain_within | with_reducible exact OkHolds.err _ | with_reducible apply OkHolds.ok | with_reducible refine Device.Within.foldl ?_ ?_ | split | (with_reducible refine OkHolds.get1 ?_ (by assumption)) | intro _ | dsimp only | with_reducible apply OkHolds.ite)

theorem Device.interrupt_within {P : Nat} {d₀ : Device} (d : Device) (tags : List Nat) (h : Device.Within P d₀ d) (hp : 512 &&& P = 512 := by exact subset_mono (by assumption) rfl) : Device.Within P d₀ (Device.interrupt d tags) := by
  unfold Device.interrupt
  try dsimp only
  repeat' (first | with_reducible exact subset_mono (by assumption) rfl | with_reducible assumption | with_reducible apply Device.modCmd_within | with_reducible refine Device.Within.foldl ?_ ?_ | split | intro _ | dsimp only)

theorem Device.rewindDrains_within {P : Nat} {d₀ : Device} (d : Device) (key : Nat) (h : Device.Within P d₀ d) (hp : 8704 &&& P = 8704 := by exact subset_mono (by assumption) rfl) : Device.Within P d₀ (Device.rewindDrains d key) := by
  unfold Device.rewindDrains
  try dsimp only
  repeat' (first | with_reducible exact subset_mono (by assumption) rfl | with_reducible assumption | with_reducible apply Device.withOp_within | with_reducible apply Device.setTile_within | with_reducible refine Device.Within.foldl ?_ ?_ | split | intro _ | dsimp only)

theorem Device.rewindArr_within {P : Nat} {d₀ : Device} (d : Device) (k : Nat) (t : Nat) (h : Device.Within P d₀ d) (hp : 201515528 &&& P = 201515528 := by exact subset_mono (by assumption) rfl) : Device.Within P d₀ (Device.rewindArr d k t) := by
  unfold Device.rewindArr
  try dsimp only
  repeat' (first | with_reducible exact subset_mono (by assumption) rfl | with_reducible assumption | with_reducible apply Device.rewound_within | with_reducible apply Device.failWith_within | with_reducible apply Device.modTile_within | with_reducible refine Device.Within.foldl ?_ ?_ | split | (with_reducible refine OkHolds.get1 ?_ (by assumption)) | intro _ | dsimp only)

theorem Device.rewindPre_within {P : Nat} {d₀ : Device} (d : Device) (k : Nat) (t : Nat) (h : Device.Within P d₀ d) (hp : 201515528 &&& P = 201515528 := by exact subset_mono (by assumption) rfl) : Device.Within P d₀ (Device.rewindPre d k t) := by
  unfold Device.rewindPre
  try dsimp only
  repeat' (first | with_reducible exact subset_mono (by assumption) rfl | with_reducible assumption | with_reducible apply Device.rewound_within | with_reducible apply Device.failWith_within | with_reducible apply Device.modTile_within | with_reducible apply Device.putBytes_within | with_reducible refine Device.Within.foldl ?_ ?_ | split | (with_reducible refine OkHolds.get1 ?_ (by assumption)) | intro _ | dsimp only)

theorem Device.rewindVu_within {P : Nat} {d₀ : Device} (d : Device) (k : Nat) (t : Nat) (h : Device.Within P d₀ d) (hp : 201466376 &&& P = 201466376 := by exact subset_mono (by assumption) rfl) : Device.Within P d₀ (Device.rewindVu d k t) := by
  unfold Device.rewindVu
  try dsimp only
  repeat' (first | with_reducible exact subset_mono (by assumption) rfl | with_reducible assumption | with_reducible apply Device.failWith_within | with_reducible apply Device.setTile_within | with_reducible refine Device.Within.foldl ?_ ?_ | split | intro _ | dsimp only)

theorem Device.repeatTile_within {P : Nat} {d₀ : Device} (d : Device) (k : Nat) (t : Nat) (h : Device.Within P d₀ d) (hp : 201515528 &&& P = 201515528 := by exact subset_mono (by assumption) rfl) : Device.Within P d₀ (Device.repeatTile d k t) := by
  unfold Device.repeatTile
  try dsimp only
  repeat' (first | with_reducible exact subset_mono (by assumption) rfl | with_reducible assumption | with_reducible apply Device.rewindArr_within | with_reducible apply Device.rewindDrains_within | with_reducible apply Device.interrupt_within | with_reducible apply Device.rewindVu_within | with_reducible apply Device.rewindPre_within | with_reducible refine Device.Within.foldl ?_ ?_ | split | intro _ | dsimp only)

theorem Device.startTakeOver_within {P : Nat} {d₀ : Device} (d : Device) (k : Nat) (t : Nat) (mech : Nat) (tag : Nat) (h : Device.Within P d₀ d) (hp : 402792448 &&& P = 402792448 := by exact subset_mono (by assumption) rfl) : Device.Within P d₀ (Device.startTakeOver d k t mech tag) := by
  unfold Device.startTakeOver
  try dsimp only
  repeat' (first | with_reducible exact subset_mono (by assumption) rfl | with_reducible assumption | with_reducible apply Device.modBay_within | with_reducible apply Device.retireTile_within | with_reducible apply Device.rungSeen_within | with_reducible apply Device.modTile_within | with_reducible refine Device.Within.foldl ?_ ?_ | split | intro _ | dsimp only)

theorem Device.repeatInPlace_within {P : Nat} {d₀ : Device} (d : Device) (k : Nat) (t : Nat) (path : Nat) (tag : Nat) (h : Device.Within P d₀ d) (hp : 2348999180 &&& P = 2348999180 := by exact subset_mono (by assumption) rfl) : Device.Within P d₀ (Device.repeatInPlace d k t path tag) := by
  unfold Device.repeatInPlace
  try dsimp only
  repeat' (first | with_reducible exact subset_mono (by assumption) rfl | with_reducible assumption | with_reducible apply Device.modBay_within | with_reducible apply Device.repeatTile_within | with_reducible apply Device.rungSeen_within | with_reducible apply Device.logEvent_within | with_reducible apply Device.degrade_within | with_reducible refine Device.Within.foldl ?_ ?_ | split | intro _ | dsimp only)

theorem Device.nestedError_within {P : Nat} {d₀ : Device} (d : Device) (e : ErrRec) (h : Device.Within P d₀ d) (hp : 2618483212 &&& P = 2618483212 := by exact subset_mono (by assumption) rfl) : Device.Within P d₀ (Device.nestedError d e) := by
  unfold Device.nestedError
  try dsimp only
  repeat' (first | with_reducible exact subset_mono (by assumption) rfl | with_reducible assumption | with_reducible apply Device.outOfService_within | with_reducible apply Device.escalateBay_within | with_reducible apply Device.retireTile_within | split | intro _ | dsimp only)

theorem Device.handleErrorNow_within {P : Nat} {d₀ : Device} (d0 : Device) (h : Device.Within P d₀ d0) (hp : 2618483212 &&& P = 2618483212 := by exact subset_mono (by assumption) rfl) : Device.Within P d₀ (Device.handleErrorNow d0) := by
  unfold Device.handleErrorNow
  try dsimp only
  repeat' (first | with_reducible exact subset_mono (by assumption) rfl | with_reducible assumption | with_reducible apply Device.withSafety_within | with_reducible apply Device.nestedError_within | with_reducible apply Device.bayReset_within | with_reducible apply Device.repeatInPlace_within | with_reducible apply Device.startTakeOver_within | with_reducible refine Device.Within.foldl ?_ ?_ | split | intro _ | dsimp only)

theorem Device.handleError_within {P : Nat} {d₀ : Device} (d : Device) (h : Device.Within P d₀ d) (hp : 2618483212 &&& P = 2618483212 := by exact subset_mono (by assumption) rfl) : Device.Within P d₀ (Device.handleError d) := by
  unfold Device.handleError
  try dsimp only
  repeat' (first | with_reducible exact subset_mono (by assumption) rfl | with_reducible assumption | with_reducible apply Device.whole_within | with_reducible apply Device.handleErrorNow_within | with_reducible refine Device.Within.foldl ?_ ?_ | split | intro _ | dsimp only)

theorem Device.nextSpare_within {P : Nat} {d₀ : Device} (d : Device) (k : Nat) (x : TakeOver) (h : Device.Within P d₀ d) (hp : 2349998604 &&& P = 2349998604 := by exact subset_mono (by assumption) rfl) : Device.Within P d₀ (Device.nextSpare d k x) := by
  unfold Device.nextSpare
  try dsimp only
  repeat' (first | with_reducible exact subset_mono (by assumption) rfl | with_reducible assumption | with_reducible apply Device.outOfService_within | with_reducible apply Device.modBay_within | with_reducible refine Device.Within.foldl ?_ ?_ | split | intro _ | dsimp only)

theorem Device.contained_within {P : Nat} {d₀ : Device} (d : Device) (k : Nat) (h : Device.Within P d₀ d) (hp : 2349998604 &&& P = 2349998604 := by exact subset_mono (by assumption) rfl) : Device.Within P d₀ (Device.contained d k) := by
  unfold Device.contained
  try dsimp only
  repeat' (first | with_reducible exact subset_mono (by assumption) rfl | with_reducible assumption | with_reducible apply Device.nextSpare_within | with_reducible refine Device.Within.foldl ?_ ?_ | split | intro _ | dsimp only)

theorem Device.freshScratchpad_within {P : Nat} {d₀ : Device} (d : Device) (k : Nat) (t : Nat) (h : Device.Within P d₀ d) (hp : 4295016448 &&& P = 4295016448 := by exact subset_mono (by assumption) rfl) : Device.Within P d₀ (Device.freshScratchpad d k t) := by
  unfold Device.freshScratchpad
  try dsimp only
  repeat' (first | with_reducible exact subset_mono (by assumption) rfl | with_reducible assumption | with_reducible apply Device.drew_within | with_reducible apply Device.store_within | with_reducible refine Device.Within.foldl ?_ ?_ | split | intro _ | dsimp only)

theorem Device.takeOverFails_within {P : Nat} {d₀ : Device} (d : Device) (k : Nat) (x : TakeOver) (h : Device.Within P d₀ d) (hp : 2350047756 &&& P = 2350047756 := by exact subset_mono (by assumption) rfl) : Device.Within P d₀ (Device.takeOverFails d k x) := by
  unfold Device.takeOverFails
  try dsimp only
  repeat' (first | with_reducible exact subset_mono (by assumption) rfl | with_reducible assumption | with_reducible apply Device.escalateBay_within | with_reducible apply Device.modBay_within | with_reducible refine Device.Within.foldl ?_ ?_ | split | intro _ | dsimp only)

theorem Device.swapSlate_within {P : Nat} {d₀ : Device} (d : Device) (k : Nat) (t : Nat) (old : Nat) (new : Nat) (h : Device.Within P d₀ d) (hp : 8192 &&& P = 8192 := by exact subset_mono (by assumption) rfl) : Device.Within P d₀ (Device.swapSlate d k t old new) := by
  unfold Device.swapSlate
  try dsimp only
  repeat' (first | with_reducible exact subset_mono (by assumption) rfl | with_reducible assumption | with_reducible apply Device.setTile_within | with_reducible refine Device.Within.foldl ?_ ?_ | split | intro _ | dsimp only)

theorem Device.spareTakes_within {P : Nat} {d₀ : Device} (d : Device) (k : Nat) (x : TakeOver) (s : Nat) (h : Device.Within P d₀ d) (hp : 6645015052 &&& P = 6645015052 := by exact subset_mono (by assumption) rfl) : Device.Within P d₀ (Device.spareTakes d k x s) := by
  unfold Device.spareTakes
  try dsimp only
  repeat' (first | with_reducible exact subset_mono (by assumption) rfl | with_reducible assumption | with_reducible apply Device.takeOverFails_within | with_reducible apply Device.modBay_within | with_reducible apply Device.repeatTile_within | with_reducible apply Device.fetchMirrors_within | with_reducible apply Device.freshScratchpad_within | with_reducible apply Device.swapSlate_within | with_reducible refine Device.Within.foldl ?_ ?_ | split | intro _ | dsimp only)

theorem Device.validatedNow_within {P : Nat} {d₀ : Device} (d : Device) (k : Nat) (spare : List Byte) (buddy : List Byte) (h : Device.Within P d₀ d) (hp : 6913450508 &&& P = 6913450508 := by exact subset_mono (by assumption) rfl) : Device.Within P d₀ (Device.validatedNow d k spare buddy) := by
  unfold Device.validatedNow
  try dsimp only
  repeat' (first | with_reducible exact subset_mono (by assumption) rfl | with_reducible assumption | with_reducible apply Device.spareTakes_within | with_reducible apply Device.logEvent_within | with_reducible apply Device.retireTile_within | with_reducible apply Device.nextSpare_within | with_reducible apply Device.takeOverFails_within | with_reducible refine Device.Within.foldl ?_ ?_ | split | intro _ | dsimp only)

theorem Device.validated_within {P : Nat} {d₀ : Device} (d : Device) (k : Nat) (spare : List Byte) (buddy : List Byte) (h : Device.Within P d₀ d) (hp : 6913450508 &&& P = 6913450508 := by exact subset_mono (by assumption) rfl) : Device.Within P d₀ (Device.validated d k spare buddy) := by
  unfold Device.validated
  try dsimp only
  repeat' (first | with_reducible exact subset_mono (by assumption) rfl | with_reducible assumption | with_reducible apply Device.whole_within | with_reducible apply Device.validatedNow_within | with_reducible refine Device.Within.foldl ?_ ?_ | split | intro _ | dsimp only)

theorem Device.takeOverResume_within {P : Nat} {d₀ : Device} (d : Device) (k : Nat) (h : Device.Within P d₀ d) (hp : 67248136 &&& P = 67248136 := by exact subset_mono (by assumption) rfl) : Device.Within P d₀ (Device.takeOverResume d k) := by
  unfold Device.takeOverResume
  try dsimp only
  repeat' (first | with_reducible exact subset_mono (by assumption) rfl | with_reducible assumption | with_reducible apply Device.modTile_within | with_reducible apply Device.modBay_within | with_reducible apply Device.logEvent_within | with_reducible refine Device.Within.foldl ?_ ?_ | split | intro _ | dsimp only)

theorem Device.reProtect_within {P : Nat} {d₀ : Device} (d : Device) (k : Nat) (h : Device.Within P d₀ d) (hp : 139264 &&& P = 139264 := by exact subset_mono (by assumption) rfl) : Device.Within P d₀ (Device.reProtect d k) := by
  unfold Device.reProtect
  try dsimp only
  repeat' (first | with_reducible exact subset_mono (by assumption) rfl | with_reducible assumption | with_reducible apply Device.modTile_within | with_reducible apply Device.modBay_within | with_reducible refine Device.Within.foldl ?_ ?_ | split | intro _ | dsimp only)

theorem Device.rollback_within {P : Nat} {d₀ : Device} (d : Device) (h : Device.Within P d₀ d) (hp : 8555592702 &&& P = 8555592702 := by exact subset_mono (by assumption) rfl) : Device.Within P d₀ (Device.rollback d) := by
  unfold Device.rollback
  try dsimp only
  repeat' (first | with_reducible exact subset_mono (by assumption) rfl | with_reducible assumption | with_reducible apply Device.count_within | with_reducible apply Device.deviceDetected_within | with_reducible apply emberAdd_within | with_reducible refine Device.Within.foldl ?_ ?_ | split | intro _ | dsimp only)

theorem Device.bayReinitEnd_within {P : Nat} {d₀ : Device} (d : Device) (k : Nat) (r : ReinitResult) (h : Device.Within P d₀ d) (hp : 2618434060 &&& P = 2618434060 := by exact subset_mono (by assumption) rfl) : Device.Within P d₀ (Device.bayReinitEnd d k r) := by
  unfold Device.bayReinitEnd
  try dsimp only
  repeat' (first | with_reducible exact subset_mono (by assumption) rfl | with_reducible assumption | with_reducible apply Device.outOfService_within | with_reducible apply Device.retireTile_within | with_reducible apply Device.renumber_within | with_reducible apply Device.degrade_within | with_reducible apply Device.modBay_within | with_reducible refine Device.Within.foldl ?_ ?_ | split | intro _ | dsimp only)


/-! ### Memories -/

theorem Device.rowUnusable_within {P : Nat} {d₀ : Device} (d : Device) (k : Nat) (pc : Nat) (row : Nat) (h : Device.Within P d₀ d) (hp : 131080 &&& P = 131080 := by exact subset_mono (by assumption) rfl) : Device.Within P d₀ (Device.rowUnusable d k pc row) := by
  unfold Device.rowUnusable
  try dsimp only
  repeat' (first | with_reducible exact subset_mono (by assumption) rfl | with_reducible assumption | with_reducible apply Device.touch_within | with_reducible apply Device.modBay_within | with_reducible refine Device.Within.foldl ?_ ?_ | split | intro _ | dsimp only)

theorem Device.correctedError_within {P : Nat} {d₀ : Device} (d : Device) (k : Nat) (pc : Nat) (row : Nat) (h : Device.Within P d₀ d) (hp : 201457672 &&& P = 201457672 := by exact subset_mono (by assumption) rfl) : Device.Within P d₀ (Device.correctedError d k pc row) := by
  unfold Device.correctedError
  try dsimp only
  repeat' (first | with_reducible exact subset_mono (by assumption) rfl | with_reducible assumption | with_reducible apply Device.modBay_within | with_reducible apply Device.count_within | with_reducible apply Device.rowUnusable_within | with_reducible apply Device.rungSeen_within | with_reducible apply Device.memoryEvent_within | with_reducible refine Device.Within.foldl ?_ ?_ | split | intro _ | dsimp only)

theorem Device.rowRemap_within {P : Nat} {d₀ : Device} (d : Device) (k : Nat) (pc : Nat) (row : Nat) (h : Device.Within P d₀ d) (hp : 201457672 &&& P = 201457672 := by exact subset_mono (by assumption) rfl) : Device.Within P d₀ (Device.rowRemap d k pc row) := by
  unfold Device.rowRemap
  try dsimp only
  repeat' (first | with_reducible exact subset_mono (by assumption) rfl | with_reducible assumption | with_reducible apply Device.correctedError_within | with_reducible refine Device.Within.foldl ?_ ?_ | split | intro _ | dsimp only)

theorem Device.rowMoved_within {P : Nat} {d₀ : Device} (d : Device) (k : Nat) (pc : Nat) (row : Nat) (h : Device.Within P d₀ d) (hp : 134348808 &&& P = 134348808 := by exact subset_mono (by assumption) rfl) : Device.Within P d₀ (Device.rowMoved d k pc row) := by
  unfold Device.rowMoved
  try dsimp only
  repeat' (first | with_reducible exact subset_mono (by assumption) rfl | with_reducible assumption | with_reducible apply Device.rowUnusable_within | with_reducible apply Device.touch_within | with_reducible apply Device.count_within | with_reducible apply Device.modBay_within | with_reducible refine Device.Within.foldl ?_ ?_ | split | intro _ | dsimp only)

theorem Device.rowRemapEnd_within {P : Nat} {d₀ : Device} (d : Device) (k : Nat) (pc : Nat) (row : Nat) (h : Device.Within P d₀ d) (hp : 201457672 &&& P = 201457672 := by exact subset_mono (by assumption) rfl) : Device.Within P d₀ (Device.rowRemapEnd d k pc row) := by
  unfold Device.rowRemapEnd
  try dsimp only
  repeat' (first | with_reducible exact subset_mono (by assumption) rfl | with_reducible assumption | with_reducible apply Device.memoryEvent_within | with_reducible apply Device.modBay_within | with_reducible apply Device.rowMoved_within | with_reducible refine Device.Within.foldl ?_ ?_ | split | intro _ | dsimp only)

theorem Device.poisonLines_within {P : Nat} {d₀ : Device} (d : Device) (k : Nat) (pc : Nat) (row : Nat) (cs : List Nat) (h : Device.Within P d₀ d) (hp : 32768 &&& P = 32768 := by exact subset_mono (by assumption) rfl) : Device.Within P d₀ (Device.poisonLines d k pc row cs) := by
  unfold Device.poisonLines
  try dsimp only
  repeat' (first | with_reducible exact subset_mono (by assumption) rfl | with_reducible assumption | with_reducible refine Device.Within.foldl ?_ ?_ | split | (with_reducible refine Device.Within.upd (ps := 32768) ?_ ?_ ?_ ?_ ?_) | rfl | (intro p; cases p <;> first | exact Or.inl rfl | exact Or.inr rfl) | intro _ | dsimp only)

theorem Device.loseLines_within {P : Nat} {d₀ : Device} (d : Device) (k : Nat) (pc : Nat) (row : Nat) (cs : List Nat) (h : Device.Within P d₀ d) (hp : 201490440 &&& P = 201490440 := by exact subset_mono (by assumption) rfl) : Device.Within P d₀ (Device.loseLines d k pc row cs) := by
  unfold Device.loseLines
  try dsimp only
  repeat' (first | with_reducible exact subset_mono (by assumption) rfl | with_reducible assumption | with_reducible apply Device.count_within | with_reducible apply Device.rowMoved_within | with_reducible apply Device.poisonLines_within | with_reducible apply Device.memoryEvent_within | with_reducible refine Device.Within.foldl ?_ ?_ | split | intro _ | dsimp only)

theorem Device.uncorrectable_within {P : Nat} {d₀ : Device} (d : Device) (k : Nat) (pc : Nat) (row : Nat) (cs : List Nat) (h : Device.Within P d₀ d) (hp : 2350047756 &&& P = 2350047756 := by exact subset_mono (by assumption) rfl) : Device.Within P d₀ (Device.uncorrectable d k pc row cs) := by
  unfold Device.uncorrectable
  try dsimp only
  repeat' (first | with_reducible exact subset_mono (by assumption) rfl | with_reducible assumption | with_reducible apply Device.bayDetected_within | with_reducible apply Device.loseLines_within | with_reducible refine Device.Within.foldl ?_ ?_ | split | intro _ | dsimp only)

theorem Device.interfaceRetry_within {P : Nat} {d₀ : Device} (d : Device) (k : Nat) (pc : Nat) (ok : Bool) (h : Device.Within P d₀ d) (hp : 2350047756 &&& P = 2350047756 := by exact subset_mono (by assumption) rfl) : Device.Within P d₀ (Device.interfaceRetry d k pc ok) := by
  unfold Device.interfaceRetry
  try dsimp only
  repeat' (first | with_reducible exact subset_mono (by assumption) rfl | with_reducible assumption | with_reducible apply Device.modBay_within | with_reducible apply Device.count_within | with_reducible apply Device.bayDetected_within | with_reducible refine Device.Within.foldl ?_ ?_ | split | intro _ | dsimp only)

theorem Device.patrolScrub_within {P : Nat} {d₀ : Device} (d : Device) (k : Nat) (found : EccOutcome) (h : Device.Within P d₀ d) (hp : 2350047756 &&& P = 2350047756 := by exact subset_mono (by assumption) rfl) : Device.Within P d₀ (Device.patrolScrub d k found) := by
  unfold Device.patrolScrub
  try dsimp only
  repeat' (first | with_reducible exact subset_mono (by assumption) rfl | with_reducible assumption | with_reducible apply Device.modBay_within | with_reducible apply Device.correctedError_within | with_reducible apply Device.uncorrectable_within | with_reducible refine Device.Within.foldl ?_ ?_ | split | intro _ | dsimp only)

theorem Device.persistRemaps_within {P : Nat} {d₀ : Device} (d : Device) (k : Nat) (h : Device.Within P d₀ d) (hp : 268566528 &&& P = 268566528 := by exact subset_mono (by assumption) rfl) : Device.Within P d₀ (Device.persistRemaps d k) := by
  unfold Device.persistRemaps
  try dsimp only
  repeat' (first | with_reducible exact subset_mono (by assumption) rfl | with_reducible assumption | with_reducible apply Device.modBay_within | with_reducible refine Device.Within.foldl ?_ ?_ | split | (with_reducible refine Device.Within.upd (ps := 268435456) ?_ ?_ ?_ ?_ ?_) | rfl | (intro p; cases p <;> first | exact Or.inl rfl | exact Or.inr rfl) | intro _ | dsimp only)

theorem Device.grantToken_within {P : Nat} {d₀ : Device} (d : Device) (k : Nat) (h : Device.Within P d₀ d) (hp : 131072 &&& P = 131072 := by exact subset_mono (by assumption) rfl) : Device.Within P d₀ (Device.grantToken d k) := by
  unfold Device.grantToken
  try dsimp only
  repeat' (first | with_reducible exact subset_mono (by assumption) rfl | with_reducible assumption | with_reducible apply Device.modBay_within | with_reducible apply Device.takeTokens_within | with_reducible refine Device.Within.foldl ?_ ?_ | split | intro _ | dsimp only)

theorem Device.farTimeout_within {P : Nat} {d₀ : Device} (d : Device) (p : Nat) (tag : Nat) (h : Device.Within P d₀ d) (hp : 201466376 &&& P = 201466376 := by exact subset_mono (by assumption) rfl) : Device.Within P d₀ (Device.farTimeout d p tag) := by
  unfold Device.farTimeout
  try dsimp only
  repeat' (first | with_reducible exact subset_mono (by assumption) rfl | with_reducible assumption | with_reducible apply Device.failWith_within | with_reducible refine Device.Within.foldl ?_ ?_ | split | intro _ | dsimp only)

theorem Device.farDown_within {P : Nat} {d₀ : Device} (d : Device) (p : Nat) (h : Device.Within P d₀ d) (hp : 201990664 &&& P = 201990664 := by exact subset_mono (by assumption) rfl) : Device.Within P d₀ (Device.farDown d p) := by
  unfold Device.farDown
  try dsimp only
  repeat' (first | with_reducible exact subset_mono (by assumption) rfl | with_reducible assumption | with_reducible apply Device.failWith_within | with_reducible refine Device.Within.foldl ?_ ?_ | split | (with_reducible refine Device.Within.upd (ps := 524288) ?_ ?_ ?_ ?_ ?_) | rfl | (intro p; cases p <;> first | exact Or.inl rfl | exact Or.inr rfl) | intro _ | dsimp only)


/-! ### Scratchpads -/

theorem Device.performJob_within {P : Nat} {d₀ : Device} (d : Device) (t : TileRef) (j : PortJob) (h : Device.Within P d₀ d) (hp : 24576 &&& P = 24576 := by exact subset_mono (by assumption) rfl) : Device.Within P d₀ (Device.performJob d t j) := by
  unfold Device.performJob
  try dsimp only
  repeat' (first | with_reducible exact subset_mono (by assumption) rfl | with_reducible assumption | with_reducible apply Device.modTile_within | with_reducible refine Device.Within.foldl ?_ ?_ | split | (with_reducible refine Device.Within.memSet ?_ ?_ ?_) | with_reducible exact Mem.write_wf _ _ _ (by assumption) | rfl | (intro p; cases p <;> first | exact Or.inl rfl | exact Or.inr rfl) | intro _ | dsimp only)

theorem Device.portBeat_within {P : Nat} {d₀ : Device} (d : Device) (t : TileRef) (h : Device.Within P d₀ d) (hp : 24576 &&& P = 24576 := by exact subset_mono (by assumption) rfl) : Device.Within P d₀ (Device.portBeat d t) := by
  unfold Device.portBeat
  try dsimp only
  repeat' (first | with_reducible exact subset_mono (by assumption) rfl | with_reducible assumption | with_reducible apply Device.performJob_within | with_reducible apply Device.setTile_within | with_reducible refine Device.Within.foldl ?_ ?_ | split | intro _ | dsimp only)

theorem Device.runPort_within {P : Nat} {d₀ : Device} (d : Device) (t : TileRef) (a : Nat) (h : Device.Within P d₀ d) (hp : 24576 &&& P = 24576 := by exact subset_mono (by assumption) rfl) : Device.Within P d₀ (Device.runPort d t a) := by
  induction a generalizing d with
  | zero => unfold Device.runPort; exact h
  | succ n ih =>
    unfold Device.runPort
    try dsimp only
    repeat' (first | with_reducible apply ih | with_reducible exact subset_mono (by assumption) rfl | with_reducible assumption | with_reducible apply Device.portBeat_within | with_reducible refine Device.Within.foldl ?_ ?_ | split | intro _ | dsimp only)

theorem Device.portArrive_within {P : Nat} {d₀ : Device} (d : Device) (t : TileRef) (js : List PortJob) (rivals : List Requester) (h : Device.Within P d₀ d) (hp : 24576 &&& P = 24576 := by exact subset_mono (by assumption) rfl) : Device.Within P d₀ (Device.portArrive d t js rivals) := by
  unfold Device.portArrive
  try dsimp only
  repeat' (first | with_reducible exact subset_mono (by assumption) rfl | with_reducible assumption | with_reducible apply Device.setTile_within | with_reducible apply Device.runPort_within | with_reducible refine Device.Within.foldl ?_ ?_ | split | intro _ | dsimp only)

theorem Device.padAccess_within {P : Nat} {d₀ : Device} (d : Device) (t : TileRef) (a : PortRequest) (w : Window) (addr : Nat) (size : Nat) (data : Option (List Byte)) (h : Device.Within P d₀ d) (hp : 2350047756 &&& P = 2350047756 := by exact subset_mono (by assumption) rfl) : Device.Within P d₀ (Device.padAccess d t a w addr size data) := by
  unfold Device.padAccess
  try dsimp only
  repeat' (first | with_reducible exact subset_mono (by assumption) rfl | with_reducible assumption | with_reducible apply Device.failWith_within | with_reducible apply Device.detect_within | with_reducible apply Device.portArrive_within | with_reducible refine Device.Within.foldl ?_ ?_ | split | intro _ | dsimp only)


/-! ### Pacing -/

theorem Device.baseGauge_within {P : Nat} {d₀ : Device} (d : Device) (n : Nat) (b : Nat) (h : Device.Within P d₀ d) (hp : 268435456 &&& P = 268435456 := by exact subset_mono (by assumption) rfl) : Device.Within P d₀ (Device.baseGauge d n b) := by
  unfold Device.baseGauge
  try dsimp only
  repeat' (first | with_reducible exact subset_mono (by assumption) rfl | with_reducible assumption | with_reducible refine Device.Within.foldl ?_ ?_ | split | (with_reducible refine Device.Within.upd (ps := 268435456) ?_ ?_ ?_ ?_ ?_) | rfl | (intro p; cases p <;> first | exact Or.inl rfl | exact Or.inr rfl) | intro _ | dsimp only)

theorem Device.gaugeSuspect_within {P : Nat} {d₀ : Device} (d : Device) (n : Nat) (b : Nat) (h : Device.Within P d₀ d) (hp : 2348810252 &&& P = 2348810252 := by exact subset_mono (by assumption) rfl) : Device.Within P d₀ (Device.gaugeSuspect d n b) := by
  unfold Device.gaugeSuspect
  try dsimp only
  repeat' (first | with_reducible exact subset_mono (by assumption) rfl | with_reducible assumption | with_reducible apply Device.logEvent_within | with_reducible apply Device.alert_within | with_reducible apply Device.count_within | with_reducible refine Device.Within.foldl ?_ ?_ | split | intro _ | dsimp only)

theorem Device.readGauge_within {P : Nat} {d₀ : Device} (d : Device) (n : Nat) (a : Nat) (b : Nat) (h : Device.Within P d₀ d) (hp : 2650800140 &&& P = 2650800140 := by exact subset_mono (by assumption) rfl) : Device.Within P d₀ (Device.readGauge d n a b) := by
  unfold Device.readGauge
  try dsimp only
  repeat' (first | with_reducible exact subset_mono (by assumption) rfl | with_reducible assumption | with_reducible apply Device.baseGauge_within | with_reducible apply Device.touch_within | with_reducible apply Device.withPace_within | with_reducible apply Device.gaugeSuspect_within | with_reducible refine Device.Within.foldl ?_ ?_ | split | intro _ | dsimp only)

theorem Device.measure_within {P : Nat} {d₀ : Device} (d : Device) (g : GaugeRef) (g1 : Nat) (g2 : Nat) (t : Int) (h : Device.Within P d₀ d) (hp : 2650800140 &&& P = 2650800140 := by exact subset_mono (by assumption) rfl) : Device.Within P d₀ (Device.measure d g g1 g2 t) := by
  unfold Device.measure
  try dsimp only
  repeat' (first | with_reducible exact subset_mono (by assumption) rfl | with_reducible assumption | with_reducible apply Device.readGauge_within | with_reducible refine Device.Within.foldl ?_ ?_ | split | intro _ | dsimp only)

theorem Device.sensed_within {P : Nat} {d₀ : Device} (d : Device) (t : Int) (h : Device.Within P d₀ d) (hp : 2181038084 &&& P = 2181038084 := by exact subset_mono (by assumption) rfl) : Device.Within P d₀ (Device.sensed d t) := by
  unfold Device.sensed
  try dsimp only
  repeat' (first | with_reducible exact subset_mono (by assumption) rfl | with_reducible assumption | with_reducible apply Device.withPower_within | with_reducible apply Device.withPace_within | with_reducible apply Device.wakeReason_within | with_reducible refine Device.Within.foldl ?_ ?_ | split | intro _ | dsimp only)

theorem Device.limitsInForce_within {P : Nat} {d₀ : Device} (d : Device) (h : Device.Within P d₀ d) (hp : 33554432 &&& P = 33554432 := by exact subset_mono (by assumption) rfl) : Device.Within P d₀ (Device.limitsInForce d) := by
  unfold Device.limitsInForce
  try dsimp only
  repeat' (first | with_reducible exact subset_mono (by assumption) rfl | with_reducible assumption | with_reducible apply Device.withPace_within | with_reducible refine Device.Within.foldl ?_ ?_ | split | intro _ | dsimp only)

theorem Device.cutsEnd_within {P : Nat} {d₀ : Device} (d : Device) (h : Device.Within P d₀ d) (hp : 131072 &&& P = 131072 := by exact subset_mono (by assumption) rfl) : Device.Within P d₀ (Device.cutsEnd d) := by
  unfold Device.cutsEnd
  try dsimp only
  repeat' (first | with_reducible exact subset_mono (by assumption) rfl | with_reducible assumption | with_reducible refine Device.Within.foldl ?_ ?_ | split | (with_reducible refine Device.Within.upd (ps := 131072) ?_ ?_ ?_ ?_ ?_) | rfl | (intro p; cases p <;> first | exact Or.inl rfl | exact Or.inr rfl) | intro _ | dsimp only)

theorem Device.countWindow_within {P : Nat} {d₀ : Device} (x : Device) (d : Device) (w : WindowSample) (h : Device.Within P d₀ x) (hp : 134217728 &&& P = 134217728 := by exact subset_mono (by assumption) rfl) : Device.Within P d₀ (Device.countWindow x d w) := by
  unfold Device.countWindow
  try dsimp only
  repeat' (first | with_reducible exact subset_mono (by assumption) rfl | with_reducible assumption | with_reducible apply Device.count_within | with_reducible refine Device.Within.foldl ?_ ?_ | split | intro _ | dsimp only)

theorem Device.windowEnd_within {P : Nat} {d₀ : Device} (d0 : Device) (w : WindowSample) (h : Device.Within P d₀ d0) (hp : 2315386884 &&& P = 2315386884 := by exact subset_mono (by assumption) rfl) : Device.Within P d₀ (Device.windowEnd d0 w) := by
  unfold Device.windowEnd
  try dsimp only
  repeat' (first | with_reducible exact subset_mono (by assumption) rfl | with_reducible assumption | with_reducible apply Device.limitsInForce_within | with_reducible apply Device.sensed_within | with_reducible apply Device.cutsEnd_within | with_reducible apply Device.countWindow_within | with_reducible apply Device.withPace_within | with_reducible refine Device.Within.foldl ?_ ?_ | split | intro _ | dsimp only)

theorem Device.thermalStep_within {P : Nat} {d₀ : Device} (d : Device) (t : Int) (h : Device.Within P d₀ d) (hp : 2181038084 &&& P = 2181038084 := by exact subset_mono (by assumption) rfl) : Device.Within P d₀ (Device.thermalStep d t) := by
  unfold Device.thermalStep
  try dsimp only
  repeat' (first | with_reducible exact subset_mono (by assumption) rfl | with_reducible assumption | with_reducible apply Device.sensed_within | with_reducible apply Device.withPace_within | with_reducible refine Device.Within.foldl ?_ ?_ | split | intro _ | dsimp only)

theorem Device.flicker_within {P : Nat} {d₀ : Device} (d : Device) (a : Rail) (h : Device.Within P d₀ d) (hp : 167903232 &&& P = 167903232 := by exact subset_mono (by assumption) rfl) : Device.Within P d₀ (Device.flicker d a) := by
  unfold Device.flicker
  try dsimp only
  repeat' (first | with_reducible exact subset_mono (by assumption) rfl | with_reducible assumption | with_reducible apply Device.count_within | with_reducible apply Device.modBay_within | with_reducible apply Device.withPace_within | with_reducible refine Device.Within.foldl ?_ ?_ | split | intro _ | dsimp only)

theorem Device.flickerEnd_within {P : Nat} {d₀ : Device} (d : Device) (recovered : Bool) (a : Rail) (h : Device.Within P d₀ d) (hp : 167903232 &&& P = 167903232 := by exact subset_mono (by assumption) rfl) : Device.Within P d₀ (Device.flickerEnd d recovered a) := by
  unfold Device.flickerEnd
  try dsimp only
  repeat' (first | with_reducible exact subset_mono (by assumption) rfl | with_reducible assumption | with_reducible apply Device.modBay_within | with_reducible apply Device.count_within | with_reducible apply Device.withPace_within | with_reducible refine Device.Within.foldl ?_ ?_ | split | intro _ | dsimp only)

theorem Device.publish_within {P : Nat} {d₀ : Device} (d : Device) (f : Nat) (h : Device.Within P d₀ d) (hp : 167903232 &&& P = 167903232 := by exact subset_mono (by assumption) rfl) : Device.Within P d₀ (Device.publish d f) := by
  unfold Device.publish
  try dsimp only
  repeat' (first | with_reducible exact subset_mono (by assumption) rfl | with_reducible assumption | with_reducible apply Device.withPace_within | with_reducible apply Device.settleBuckets_within | with_reducible apply Device.count_within | with_reducible refine Device.Within.foldl ?_ ?_ | split | intro _ | dsimp only)

theorem Device.plan_within {P : Nat} {d₀ : Device} (d : Device) (sensorW : Nat) (h : Device.Within P d₀ d) (hp : 167903236 &&& P = 167903236 := by exact subset_mono (by assumption) rfl) : Device.Within P d₀ (Device.plan d sensorW) := by
  unfold Device.plan
  try dsimp only
  repeat' (first | with_reducible exact subset_mono (by assumption) rfl | with_reducible assumption | with_reducible apply Device.withPace_within | with_reducible apply Device.withPower_within | with_reducible apply Device.count_within | with_reducible apply Device.publish_within | with_reducible refine Device.Within.foldl ?_ ?_ | split | intro _ | dsimp only)

theorem Device.setpointStep_within {P : Nat} {d₀ : Device} (d : Device) (h : Device.Within P d₀ d) (hp : 33554432 &&& P = 33554432 := by exact subset_mono (by assumption) rfl) : Device.Within P d₀ (Device.setpointStep d) := by
  unfold Device.setpointStep
  try dsimp only
  repeat' (first | with_reducible exact subset_mono (by assumption) rfl | with_reducible assumption | with_reducible apply Device.withPace_within | with_reducible refine Device.Within.foldl ?_ ?_ | split | intro _ | dsimp only)

theorem Device.inletRead_within {P : Nat} {d₀ : Device} (d : Device) (t : Int) (h : Device.Within P d₀ d) (hp : 33554432 &&& P = 33554432 := by exact subset_mono (by assumption) rfl) : Device.Within P d₀ (Device.inletRead d t) := by
  unfold Device.inletRead
  try dsimp only
  repeat' (first | with_reducible exact subset_mono (by assumption) rfl | with_reducible assumption | with_reducible apply Device.withPace_within | with_reducible refine Device.Within.foldl ?_ ?_ | split | intro _ | dsimp only)


/-! ### Images -/

theorem Device.setSlot_within {P : Nat} {d₀ : Device} (d : Device) (t : Nat) (x : ImageSlot) (h : Device.Within P d₀ d) (hp : 268435464 &&& P = 268435464 := by exact subset_mono (by assumption) rfl) : Device.Within P d₀ (Device.setSlot d t x) := by
  unfold Device.setSlot
  try dsimp only
  repeat' (first | with_reducible exact subset_mono (by assumption) rfl | with_reducible assumption | with_reducible apply Device.touch_within | with_reducible refine Device.Within.foldl ?_ ?_ | split | (with_reducible refine Device.Within.upd (ps := 268435456) ?_ ?_ ?_ ?_ ?_) | rfl | (intro p; cases p <;> first | exact Or.inl rfl | exact Or.inr rfl) | intro _ | dsimp only)

theorem Device.verifySlot_within {P : Nat} {d₀ : Device} (d : Device) (t : Nat) (h : Device.Within P d₀ d) (hp : 268435464 &&& P = 268435464 := by exact subset_mono (by assumption) rfl) : Device.Within P d₀ (Device.verifySlot d t) := by
  unfold Device.verifySlot
  try dsimp only
  repeat' (first | with_reducible exact subset_mono (by assumption) rfl | with_reducible assumption | with_reducible apply Device.setSlot_within | with_reducible refine Device.Within.foldl ?_ ?_ | split | intro _ | dsimp only)

theorem Device.runs_within {P : Nat} {d₀ : Device} (d : Device) (k : Nat) (t : Nat) (h : Device.Within P d₀ d) (hp : 536870912 &&& P = 536870912 := by exact subset_mono (by assumption) rfl) : Device.Within P d₀ (Device.runs d k t) := by
  unfold Device.runs
  try dsimp only
  repeat' (first | with_reducible exact subset_mono (by assumption) rfl | with_reducible assumption | with_reducible refine Device.Within.foldl ?_ ?_ | split | (with_reducible refine Device.Within.upd (ps := 536870912) ?_ ?_ ?_ ?_ ?_) | rfl | (intro p; cases p <;> first | exact Or.inl rfl | exact Or.inr rfl) | intro _ | dsimp only)

theorem Device.logFallback_within {P : Nat} {d₀ : Device} (d : Device) (k : Nat) (t : Nat) (h : Device.Within P d₀ d) (hp : 67108872 &&& P = 67108872 := by exact subset_mono (by assumption) rfl) : Device.Within P d₀ (Device.logFallback d k t) := by
  unfold Device.logFallback
  try dsimp only
  repeat' (first | with_reducible exact subset_mono (by assumption) rfl | with_reducible assumption | with_reducible apply Device.logEvent_within | with_reducible refine Device.Within.foldl ?_ ?_ | split | intro _ | dsimp only)

theorem Device.pickImage_within {P : Nat} {d₀ : Device} (d : Device) (k : Nat) (h : Device.Within P d₀ d) (hp : 872415240 &&& P = 872415240 := by exact subset_mono (by assumption) rfl) : Device.Within P d₀ (Device.pickImage d k) := by
  unfold Device.pickImage
  try dsimp only
  repeat' (first | with_reducible exact subset_mono (by assumption) rfl | with_reducible assumption | with_reducible apply Device.verifySlot_within | with_reducible apply Device.runs_within | with_reducible apply Device.logFallback_within | with_reducible refine Device.Within.foldl ?_ ?_ | split | intro _ | dsimp only)

theorem Device.pickManifest_within {P : Nat} {d₀ : Device} (d : Device) (h : Device.Within P d₀ d) (hp : 805306376 &&& P = 805306376 := by exact subset_mono (by assumption) rfl) : Device.Within P d₀ (Device.pickManifest d) := by
  unfold Device.pickManifest
  try dsimp only
  repeat' (first | with_reducible exact subset_mono (by assumption) rfl | with_reducible assumption | with_reducible apply Device.verifySlot_within | with_reducible apply Device.runs_within | with_reducible refine Device.Within.foldl ?_ ?_ | split | intro _ | dsimp only)

theorem Device.withImages_within {P : Nat} {d₀ : Device} (d : Device) (f : Images → Images) (h : Device.Within P d₀ d) (hp : 536870912 &&& P = 536870912 := by exact subset_mono (by assumption) rfl) : Device.Within P d₀ (Device.withImages d f) := by
  unfold Device.withImages
  try dsimp only
  repeat' (first | with_reducible exact subset_mono (by assumption) rfl | with_reducible assumption | with_reducible refine Device.Within.foldl ?_ ?_ | split | (with_reducible refine Device.Within.upd (ps := 536870912) ?_ ?_ ?_ ?_ ?_) | rfl | (intro p; cases p <;> first | exact Or.inl rfl | exact Or.inr rfl) | intro _ | dsimp only)

theorem Device.stopLoading_within {P : Nat} {d₀ : Device} (d : Device) (h : Device.Within P d₀ d) (hp : 536870912 &&& P = 536870912 := by exact subset_mono (by assumption) rfl) : Device.Within P d₀ (Device.stopLoading d) := by
  unfold Device.stopLoading
  try dsimp only
  repeat' (first | with_reducible exact subset_mono (by assumption) rfl | with_reducible assumption | with_reducible apply Device.withImages_within | with_reducible refine Device.Within.foldl ?_ ?_ | split | intro _ | dsimp only)

theorem Device.startLoad_within {P : Nat} {d₀ : Device} (d : Device) (bs : List Byte) (h : Device.Within P d₀ d) (hp : 805306376 &&& P = 805306376 := by exact subset_mono (by assumption) rfl) : Device.Within P d₀ (Device.startLoad d bs) := by
  unfold Device.startLoad
  try dsimp only
  repeat' (first | with_reducible exact subset_mono (by assumption) rfl | with_reducible assumption | with_reducible apply Device.setSlot_within | with_reducible apply Device.withImages_within | with_reducible refine Device.Within.foldl ?_ ?_ | split | intro _ | dsimp only)

theorem Device.startVerify_within {P : Nat} {d₀ : Device} (d : Device) (h : Device.Within P d₀ d) (hp : 536870912 &&& P = 536870912 := by exact subset_mono (by assumption) rfl) : Device.Within P d₀ (Device.startVerify d) := by
  unfold Device.startVerify
  try dsimp only
  repeat' (first | with_reducible exact subset_mono (by assumption) rfl | with_reducible assumption | with_reducible apply Device.withImages_within | with_reducible refine Device.Within.foldl ?_ ?_ | split | intro _ | dsimp only)

theorem Device.loadEnd_within {P : Nat} {d₀ : Device} (d : Device) (h : Device.Within P d₀ d) (hp : 805306376 &&& P = 805306376 := by exact subset_mono (by assumption) rfl) : Device.Within P d₀ (Device.loadEnd d) := by
  unfold Device.loadEnd
  try dsimp only
  repeat' (first | with_reducible exact subset_mono (by assumption) rfl | with_reducible assumption | with_reducible apply Device.withImages_within | with_reducible apply Device.setSlot_within | with_reducible apply Device.stopLoading_within | with_reducible apply Device.verifySlot_within | with_reducible refine Device.Within.foldl ?_ ?_ | split | intro _ | dsimp only)

theorem Device.commitSecurity_within {P : Nat} {d₀ : Device} (d : Device) (h : Device.Within P d₀ d) (hp : 268435456 &&& P = 268435456 := by exact subset_mono (by assumption) rfl) : Device.Within P d₀ (Device.commitSecurity d) := by
  refine h.move (ps := 268435456) ⟨id, id, fun k => ?_, fun k x => ?_⟩ (by intro p; cases p <;> first | exact Or.inl rfl | exact Or.inr rfl) hp
  · by_cases hk : k < 4
    · simp only [Device.commitSecurity, Vector.getElem?_eq_getElem hk, Vector.getElem_mapIdx, Option.getD_some]
      split
      · exact Nat.le_max_left _ _
      · exact Nat.le_refl _
    · simp [Vector.getElem?_eq_none (Nat.not_lt.mp hk)]
  · simp only [Device.commitSecurity, Nat.testBit_or, x, Bool.true_or]


/-! ### Values -/

theorem Device.logLost_within {P : Nat} {d₀ : Device} (d : Device) (h : Device.Within P d₀ d) (hp : 2348810252 &&& P = 2348810252 := by exact subset_mono (by assumption) rfl) : Device.Within P d₀ (Device.logLost d) := by
  unfold Device.logLost
  try dsimp only
  repeat' (first | with_reducible exact subset_mono (by assumption) rfl | with_reducible assumption | with_reducible apply Device.alert_within | with_reducible refine Device.Within.foldl ?_ ?_ | split | (with_reducible refine Device.Within.upd (ps := 67108864) ?_ ?_ ?_ ?_ ?_) | rfl | (intro p; cases p <;> first | exact Or.inl rfl | exact Or.inr rfl) | intro _ | dsimp only)

theorem Device.copyFails_within {P : Nat} {d₀ : Device} (d : Device) (c : Nat) (repaired : Bool) (h : Device.Within P d₀ d) (hp : 2348810252 &&& P = 2348810252 := by exact subset_mono (by assumption) rfl) : Device.Within P d₀ (Device.copyFails d c repaired) := by
  unfold Device.copyFails
  try dsimp only
  repeat' (first | with_reducible exact subset_mono (by assumption) rfl | with_reducible assumption | with_reducible apply Device.logLost_within | with_reducible apply Device.logEvent_within | with_reducible apply emberAdd_within | with_reducible refine Device.Within.foldl ?_ ?_ | split | (with_reducible refine Device.Within.upd (ps := 67108864) ?_ ?_ ?_ ?_ ?_) | rfl | (intro p; cases p <;> first | exact Or.inl rfl | exact Or.inr rfl) | intro _ | dsimp only)

theorem Device.ringRead_within {P : Nat} {d₀ : Device} (d : Device) (a : RingRead) (h : Device.Within P d₀ d) (hp : 2348810252 &&& P = 2348810252 := by exact subset_mono (by assumption) rfl) : Device.Within P d₀ (Device.ringRead d a) := by
  unfold Device.ringRead
  try dsimp only
  repeat' (first | with_reducible exact subset_mono (by assumption) rfl | with_reducible assumption | with_reducible apply Device.copyFails_within | with_reducible apply Device.logLost_within | with_reducible refine Device.Within.foldl ?_ ?_ | split | intro _ | dsimp only)


/-! ### Writing -/

theorem Device.modPath_within {P : Nat} {d₀ : Device} (d : Device) (p : Path) (f : PathState → PathState) (h : Device.Within P d₀ d) (hp : 8 &&& P = 8 := by exact subset_mono (by assumption) rfl) : Device.Within P d₀ (Device.modPath d p f) := by
  unfold Device.modPath
  try dsimp only
  repeat' (first | with_reducible exact subset_mono (by assumption) rfl | with_reducible assumption | with_reducible apply Device.withDict_within | with_reducible refine Device.Within.foldl ?_ ?_ | split | intro _ | dsimp only)

theorem Device.dropSeg_within {P : Nat} {d₀ : Device} (d : Device) (p : Path) (h : Device.Within P d₀ d) (hp : 8 &&& P = 8 := by exact subset_mono (by assumption) rfl) : Device.Within P d₀ (Device.dropSeg d p) :=
  Device.withDict_within d _ h hp

theorem Device.touchSession_within {P : Nat} {d₀ : Device} (d : Device) (p : Path) (h : Device.Within P d₀ d) (hp : 8 &&& P = 8 := by exact subset_mono (by assumption) rfl) : Device.Within P d₀ (Device.touchSession d p) := by
  unfold Device.touchSession
  split
  · exact Device.touch_within d _ h hp
  · exact h
  · exact h

theorem Device.commit_within {P : Nat} {d₀ : Device} (d : Device) (h : Device.Within P d₀ d) (hp : 268435464 &&& P = 268435464 := by exact subset_mono (by assumption) rfl) : Device.Within P d₀ (Device.commit d) := by
  unfold Device.commit
  try dsimp only
  repeat' (first | with_reducible exact subset_mono (by assumption) rfl | with_reducible assumption | with_reducible apply Device.withDict_within | with_reducible refine Device.Within.foldl ?_ ?_ | split | (with_reducible refine Device.Within.upd (ps := 268435456) ?_ ?_ ?_ ?_ ?_) | rfl | (intro p; cases p <;> first | exact Or.inl rfl | exact Or.inr rfl) | intro _ | dsimp only)

theorem Device.claimEffect_within {P : Nat} {d₀ : Device} (d : Device) (p : Path) (v : Nat) (h : Device.Within P d₀ d) (hp : 939524104 &&& P = 939524104 := by exact subset_mono (by assumption) rfl) : Device.Within P d₀ (Device.claimEffect d p v) := by
  unfold Device.claimEffect
  try dsimp only
  repeat' (first | with_reducible exact subset_mono (by assumption) rfl | with_reducible assumption | with_reducible apply Device.setOwner_within | with_reducible apply Device.count_within | with_reducible refine Device.Within.foldl ?_ ?_ | split | intro _ | dsimp only)

theorem Device.paceSet_within {P : Nat} {d₀ : Device} (d : Device) (limit : Bool) (h : Device.Within P d₀ d) (hp : 167903232 &&& P = 167903232 := by exact subset_mono (by assumption) rfl) : Device.Within P d₀ (Device.paceSet d limit) := by
  unfold Device.paceSet
  try dsimp only
  repeat' (first | with_reducible exact subset_mono (by assumption) rfl | with_reducible assumption | with_reducible apply Device.publish_within | with_reducible apply Device.withPace_within | with_reducible refine Device.Within.foldl ?_ ?_ | split | intro _ | dsimp only)

theorem Device.alertClear_within {P : Nat} {d₀ : Device} (d : Device) (v : Nat) (h : Device.Within P d₀ d) (hp : 134217728 &&& P = 134217728 := by exact subset_mono (by assumption) rfl) : Device.Within P d₀ (Device.alertClear d v) := by
  unfold Device.alertClear
  try dsimp only
  repeat' (first | with_reducible exact subset_mono (by assumption) rfl | with_reducible assumption | with_reducible apply Device.withSafety_within | with_reducible refine Device.Within.foldl ?_ ?_ | split | intro _ | dsimp only)

theorem Device.wakeClear_within {P : Nat} {d₀ : Device} (d : Device) (v : Nat) (h : Device.Within P d₀ d) (hp : 4 &&& P = 4 := by exact subset_mono (by assumption) rfl) : Device.Within P d₀ (Device.wakeClear d v) := by
  unfold Device.wakeClear
  try dsimp only
  repeat' (first | with_reducible exact subset_mono (by assumption) rfl | with_reducible assumption | with_reducible apply Device.withPower_within | with_reducible refine Device.Within.foldl ?_ ?_ | split | intro _ | dsimp only)

theorem Device.pairSet_within {P : Nat} {d₀ : Device} (d : Device) (q : Nat) (v : Nat) (h : Device.Within P d₀ d) (hp : 16 &&& P = 16 := by exact subset_mono (by assumption) rfl) : Device.Within P d₀ (Device.pairSet d q v) := by
  unfold Device.pairSet
  try dsimp only
  repeat' (first | with_reducible exact subset_mono (by assumption) rfl | with_reducible assumption | with_reducible apply Device.setQueue_within | with_reducible apply Device.modQueue_within | with_reducible refine Device.Within.foldl ?_ ?_ | split | intro _ | dsimp only)

theorem Device.ratesMove_within {P : Nat} {d₀ : Device} (d : Device) (h : Device.Within P d₀ d) (hp : 131072 &&& P = 131072 := by exact subset_mono (by assumption) rfl) : Device.Within P d₀ (Device.ratesMove d) := by
  unfold Device.ratesMove
  try dsimp only
  repeat' (first | with_reducible exact subset_mono (by assumption) rfl | with_reducible assumption | with_reducible apply Device.settleBuckets_within | with_reducible apply Device.settleTokens_within | with_reducible refine Device.Within.foldl ?_ ?_ | split | intro _ | dsimp only)

theorem Device.restoreAll_within {P : Nat} {d₀ : Device} (d : Device) (h : Device.Within P d₀ d) (hp : 436338696 &&& P = 436338696 := by exact subset_mono (by assumption) rfl) : Device.Within P d₀ (Device.restoreAll d) := by
  unfold Device.restoreAll
  try dsimp only
  repeat' (first | with_reducible exact subset_mono (by assumption) rfl | with_reducible assumption | with_reducible apply Device.withDict_within | with_reducible apply Device.ratesMove_within | with_reducible apply Device.touch_within | with_reducible apply Device.paceSet_within | with_reducible apply Device.commit_within | with_reducible refine Device.Within.foldl ?_ ?_ | split | intro _ | dsimp only)

theorem Device.askCycle_within {P : Nat} {d₀ : Device} (d : Device) (h : Device.Within P d₀ d) (hp : 201326600 &&& P = 201326600 := by exact subset_mono (by assumption) rfl) : Device.Within P d₀ (Device.askCycle d) := by
  unfold Device.askCycle
  try dsimp only
  repeat' (first | with_reducible exact subset_mono (by assumption) rfl | with_reducible assumption | with_reducible apply Device.logEvent_within | with_reducible apply Device.withSafety_within | with_reducible refine Device.Within.foldl ?_ ?_ | split | intro _ | dsimp only)

theorem Device.askBayReset_within {P : Nat} {d₀ : Device} (d : Device) (k : Nat) (h : Device.Within P d₀ d) (hp : 202564104 &&& P = 202564104 := by exact subset_mono (by assumption) rfl) : Device.Within P d₀ (Device.askBayReset d k) := by
  unfold Device.askBayReset
  try dsimp only
  repeat' (first | with_reducible exact subset_mono (by assumption) rfl | with_reducible assumption | with_reducible apply Device.bayReset_within | with_reducible refine Device.Within.foldl ?_ ?_ | split | intro _ | dsimp only)

theorem Device.cursorSet_within {P : Nat} {d₀ : Device} (d : Device) (p : Path) (v : Nat) (h : Device.Within P d₀ d) (hp : 8 &&& P = 8 := by exact subset_mono (by assumption) rfl) : Device.Within P d₀ (Device.cursorSet d p v) := by
  unfold Device.cursorSet
  try dsimp only
  repeat' (first | with_reducible exact subset_mono (by assumption) rfl | with_reducible assumption | with_reducible apply Device.modPath_within | with_reducible refine Device.Within.foldl ?_ ?_ | split | intro _ | dsimp only)

theorem Device.writeEffect_within {P : Nat} {d₀ : Device} (d : Device) (p : Path) (a : Nat) (bs : List Byte) (h : Device.Within P d₀ d) (hp : 7486044988 &&& P = 7486044988 := by exact subset_mono (by assumption) rfl) : Device.Within P d₀ (Device.writeEffect d p a bs) := by
  unfold Device.writeEffect
  dsimp only
  repeat' (first | with_reducible exact subset_mono (by assumption) rfl | with_reducible assumption | with_reducible refine Device.Within.ite (fun _ => ?_) (fun _ => ?_) | with_reducible exact subset_mono (by assumption) rfl | with_reducible assumption | with_reducible apply Device.claimEffect_within | with_reducible apply Device.withDict_within | with_reducible apply Device.closeSession_within | with_reducible apply Device.restoreAll_within | with_reducible apply Device.paceSet_within | with_reducible apply Device.withPace_within | with_reducible apply Device.wakeReason_within | with_reducible apply Device.wakeClear_within | with_reducible apply Device.alertClear_within | with_reducible apply Device.outOfService_within | with_reducible apply Device.askBayReset_within | with_reducible apply Device.pairReset_within | with_reducible apply Device.askCycle_within | with_reducible apply Device.grantStream_within | with_reducible apply Device.pairSet_within | with_reducible apply Device.cursorSet_within | with_reducible apply Device.stopLoading_within | with_reducible apply Device.startLoad_within | with_reducible apply Device.startVerify_within | with_reducible apply Device.commitSecurity_within | with_reducible refine Device.Within.foldl ?_ ?_ | split | intro _ | dsimp only)

theorem Device.storeValue_within {P : Nat} {d₀ : Device} (d : Device) (p : Path) (a : Nat) (bs : List Byte) (h : Device.Within P d₀ d) (hp : 268566536 &&& P = 268566536 := by exact subset_mono (by assumption) rfl) : Device.Within P d₀ (Device.storeValue d p a bs) := by
  unfold Device.storeValue
  try dsimp only
  repeat' (first | with_reducible exact subset_mono (by assumption) rfl | with_reducible assumption | with_reducible apply Device.touch_within | with_reducible apply Device.ratesMove_within | with_reducible apply Device.withDict_within | with_reducible apply Device.commit_within | with_reducible refine Device.Within.foldl ?_ ?_ | split | intro _ | dsimp only)

theorem Device.applyWrite_within {P : Nat} {d₀ : Device} (d : Device) (p : Path) (a : Nat) (bs : List Byte) (h : Device.Within P d₀ d) (hp : 7486044988 &&& P = 7486044988 := by exact subset_mono (by assumption) rfl) : Device.Within P d₀ (Device.applyWrite d p a bs) := by
  unfold Device.applyWrite
  try dsimp only
  repeat' (first | with_reducible exact subset_mono (by assumption) rfl | with_reducible assumption | with_reducible apply Device.writeEffect_within | with_reducible apply Device.storeValue_within | with_reducible refine Device.Within.foldl ?_ ?_ | split | intro _ | dsimp only)

theorem Device.writeWhole_within {P : Nat} {d₀ : Device} (d : Device) (p : Path) (a : Nat) (bs : List Byte) (form : Nat) (h : Device.Within P d₀ d) (hp : 7486044988 &&& P = 7486044988 := by exact subset_mono (by assumption) rfl) : Device.Within P d₀ (Device.writeWhole d p a bs form).1 := by
  unfold Device.writeWhole
  try dsimp only
  repeat' (first | with_reducible exact subset_mono (by assumption) rfl | with_reducible assumption | with_reducible apply Device.applyWrite_within | with_reducible refine Device.Within.foldl ?_ ?_ | split | intro _ | dsimp only)

theorem Device.keepSegment_within {P : Nat} {d₀ : Device} (d : Device) (p : Path) (a : Nat) (have' : List Byte) (bs : List Byte) (h : Device.Within P d₀ d) (hp : 8 &&& P = 8 := by exact subset_mono (by assumption) rfl) : Device.Within P d₀ (Device.keepSegment d p a have' bs).1 := by
  unfold Device.keepSegment
  try dsimp only
  repeat' (first | with_reducible exact subset_mono (by assumption) rfl | with_reducible assumption | with_reducible apply Device.touchSession_within | with_reducible apply Device.modPath_within | with_reducible apply Device.dropSeg_within | with_reducible refine Device.Within.foldl ?_ ?_ | split | intro _ | dsimp only)

theorem Device.serveWrite_within {P : Nat} {d₀ : Device} (d0 : Device) (p : Path) (a : Nat) (off : Nat) (bs : List Byte) (last : Bool) (h : Device.Within P d₀ d0) (hp : 7486044988 &&& P = 7486044988 := by exact subset_mono (by assumption) rfl) : Device.Within P d₀ (Device.serveWrite d0 p a off bs last).1 := by
  unfold Device.serveWrite
  try dsimp only
  repeat' (first | with_reducible exact subset_mono (by assumption) rfl | with_reducible assumption | with_reducible apply Device.dropSeg_within | with_reducible apply Device.writeWhole_within | with_reducible apply Device.keepSegment_within | with_reducible refine Device.Within.foldl ?_ ?_ | split | (with_reducible refine Device.Within.pair ?_ (by assumption)) | intro _ | dsimp only)

theorem Device.serveSpiWrite_within {P : Nat} {d₀ : Device} (d : Device) (a : Nat) (bs : List Byte) (h : Device.Within P d₀ d) (hp : 7486044988 &&& P = 7486044988 := by exact subset_mono (by assumption) rfl) : Device.Within P d₀ (Device.serveSpiWrite d a bs).1 := by
  unfold Device.serveSpiWrite
  try dsimp only
  repeat' (first | with_reducible exact subset_mono (by assumption) rfl | with_reducible assumption | with_reducible apply Device.writeWhole_within | with_reducible refine Device.Within.foldl ?_ ?_ | split | (with_reducible refine Device.Within.pair ?_ (by assumption)) | intro _ | dsimp only)


/-! ### Server -/

theorem Device.record_within {P : Nat} {d₀ : Device} (d : Device) (p : Path) (r : DictResult) (h : Device.Within P d₀ d) (hp : 8 &&& P = 8 := by exact subset_mono (by assumption) rfl) : Device.Within P d₀ (Device.record d p r) := by
  unfold Device.record
  try dsimp only
  repeat' (first | with_reducible exact subset_mono (by assumption) rfl | with_reducible assumption | with_reducible apply Device.modPath_within | with_reducible refine Device.Within.foldl ?_ ?_ | split | intro _ | dsimp only)

theorem Device.inbandEnd_within {P : Nat} {d₀ : Device} (d : Device) (r : DictResult) (h : Device.Within P d₀ d) (hp : 2147483656 &&& P = 2147483656 := by exact subset_mono (by assumption) rfl) : Device.Within P d₀ (Device.inbandEnd d r) := by
  unfold Device.inbandEnd
  try dsimp only
  repeat' (first | with_reducible exact subset_mono (by assumption) rfl | with_reducible assumption | with_reducible apply Device.withDict_within | with_reducible apply Device.raise_within | with_reducible refine Device.Within.foldl ?_ ?_ | split | intro _ | dsimp only)

theorem Device.spiEnd_within {P : Nat} {d₀ : Device} (d : Device) (r : DictResult) (h : Device.Within P d₀ d) (hp : 8 &&& P = 8 := by exact subset_mono (by assumption) rfl) : Device.Within P d₀ (Device.spiEnd d r) := by
  unfold Device.spiEnd
  try dsimp only
  repeat' (first | with_reducible exact subset_mono (by assumption) rfl | with_reducible assumption | with_reducible apply Device.withDict_within | with_reducible refine Device.Within.foldl ?_ ?_ | split | intro _ | dsimp only)

theorem Device.respond_within {P : Nat} {d₀ : Device} (d : Device) (k : Nat) (m : BrMsg) (h : Device.Within P d₀ d) (hp : 2281701384 &&& P = 2281701384 := by exact subset_mono (by assumption) rfl) : Device.Within P d₀ (Device.respond d k m) := by
  unfold Device.respond
  try dsimp only
  repeat' (first | with_reducible exact subset_mono (by assumption) rfl | with_reducible assumption | with_reducible apply Device.transmit_within | with_reducible apply Device.count_within | with_reducible apply Device.withDict_within | with_reducible refine Device.Within.foldl ?_ ?_ | split | intro _ | dsimp only)

theorem Device.brynuoEnd_within {P : Nat} {d₀ : Device} (d : Device) (k : Nat) (q : DictReq) (r : DictResult) (h : Device.Within P d₀ d) (hp : 2281701384 &&& P = 2281701384 := by exact subset_mono (by assumption) rfl) : Device.Within P d₀ (Device.brynuoEnd d k q r) := by
  unfold Device.brynuoEnd
  try dsimp only
  repeat' (first | with_reducible exact subset_mono (by assumption) rfl | with_reducible assumption | with_reducible apply Device.respond_within | with_reducible refine Device.Within.foldl ?_ ?_ | split | intro _ | dsimp only)

theorem Device.answer_within {P : Nat} {d₀ : Device} (d : Device) (q : DictReq) (r : DictResult) (h : Device.Within P d₀ d) (hp : 2281701384 &&& P = 2281701384 := by exact subset_mono (by assumption) rfl) : Device.Within P d₀ (Device.answer d q r) := by
  unfold Device.answer
  try dsimp only
  repeat' (first | with_reducible exact subset_mono (by assumption) rfl | with_reducible assumption | with_reducible apply Device.record_within | with_reducible apply Device.inbandEnd_within | with_reducible apply Device.spiEnd_within | with_reducible apply Device.brynuoEnd_within | with_reducible refine Device.Within.foldl ?_ ?_ | split | intro _ | dsimp only)

theorem Device.serveForm_within {P : Nat} {d₀ : Device} (d : Device) (q : DictReq) (h : Device.Within P d₀ d) (hp : 7486044988 &&& P = 7486044988 := by exact subset_mono (by assumption) rfl) : Device.Within P d₀ (Device.serveForm d q).1 := by
  unfold Device.serveForm
  try dsimp only
  repeat' (first | with_reducible exact subset_mono (by assumption) rfl | with_reducible assumption | with_reducible apply Device.serveSpiWrite_within | with_reducible apply Device.serveWrite_within | with_reducible refine Device.Within.foldl ?_ ?_ | split | (with_reducible refine Device.Within.pair ?_ (by assumption)) | intro _ | dsimp only)

theorem Device.serveChecked_within {P : Nat} {d₀ : Device} (d : Device) (q : DictReq) (ring : RingRead) (h : Device.Within P d₀ d) (hp : 7486044988 &&& P = 7486044988 := by exact subset_mono (by assumption) rfl) : Device.Within P d₀ (Device.serveChecked d q ring).1 := by
  unfold Device.serveChecked
  try dsimp only
  repeat' (first | with_reducible exact subset_mono (by assumption) rfl | with_reducible assumption | with_reducible apply Device.serveForm_within | with_reducible apply Device.dropSeg_within | with_reducible refine Device.Within.foldl ?_ ?_ | split | (with_reducible refine Device.Within.pair ?_ (by assumption)) | intro _ | dsimp only)

theorem Device.serveOne_within {P : Nat} {d₀ : Device} (d : Device) (q : DictReq) (ring : RingRead) (h : Device.Within P d₀ d) (hp : 7486044988 &&& P = 7486044988 := by exact subset_mono (by assumption) rfl) : Device.Within P d₀ (Device.serveOne d q ring) := by
  unfold Device.serveOne
  try dsimp only
  repeat' (first | with_reducible exact subset_mono (by assumption) rfl | with_reducible assumption | with_reducible apply Device.serveChecked_within | with_reducible apply Device.answer_within | with_reducible apply Device.ringRead_within | with_reducible refine Device.Within.foldl ?_ ?_ | split | (with_reducible refine Device.Within.pair ?_ (by assumption)) | intro _ | dsimp only)

theorem Device.takeRequest_within {P : Nat} {d₀ : Device} (d : Device) (q : DictReq) (h : Device.Within P d₀ d) (hp : 8 &&& P = 8 := by exact subset_mono (by assumption) rfl) : Device.Within P d₀ (Device.takeRequest d q) := by
  unfold Device.takeRequest
  try dsimp only
  repeat' (first | with_reducible exact subset_mono (by assumption) rfl | with_reducible assumption | with_reducible apply Device.withDict_within | with_reducible refine Device.Within.foldl ?_ ?_ | split | intro _ | dsimp only)

theorem Device.serveNext_within {P : Nat} {d₀ : Device} (d : Device) (ring : RingRead) (h : Device.Within P d₀ d) (hp : 7486044988 &&& P = 7486044988 := by exact subset_mono (by assumption) rfl) : Device.Within P d₀ (Device.serveNext d ring) := by
  unfold Device.serveNext
  try dsimp only
  repeat' (first | with_reducible exact subset_mono (by assumption) rfl | with_reducible assumption | with_reducible apply Device.serveOne_within | with_reducible apply Device.takeRequest_within | with_reducible refine Device.Within.foldl ?_ ?_ | split | intro _ | dsimp only)

theorem Device.serveMany_within {P : Nat} {d₀ : Device} (n : Nat) (d : Device) (h : Device.Within P d₀ d) (hp : 7486044988 &&& P = 7486044988 := by exact subset_mono (by assumption) rfl) : Device.Within P d₀ (Device.serveMany n d) := by
  induction n generalizing d with
  | zero => exact h
  | succ n ih => exact ih _ (Device.serveNext_within _ _ h)

theorem Device.arrives_within {P : Nat} {d₀ : Device} (d : Device) (p : Path) (h : Device.Within P d₀ d) (hp : 134217736 &&& P = 134217736 := by exact subset_mono (by assumption) rfl) : Device.Within P d₀ (Device.arrives d p) := by
  unfold Device.arrives
  try dsimp only
  repeat' (first | with_reducible exact subset_mono (by assumption) rfl | with_reducible assumption | with_reducible apply Device.withDict_within | with_reducible apply Device.count_within | with_reducible refine Device.Within.foldl ?_ ?_ | split | intro _ | dsimp only)

theorem Device.wholeWrite_within {P : Nat} {d₀ : Device} (d : Device) (p : Path) (a : Nat) (bs : List Byte) (h : Device.Within P d₀ d) (hp : 7486044988 &&& P = 7486044988 := by exact subset_mono (by assumption) rfl) : Device.Within P d₀ (Device.wholeWrite d p a bs).1 := by
  unfold Device.wholeWrite
  try dsimp only
  repeat' (first | with_reducible exact subset_mono (by assumption) rfl | with_reducible assumption | with_reducible apply Device.writeWhole_within | with_reducible apply Device.serveWrite_within | with_reducible refine Device.Within.foldl ?_ ?_ | split | (with_reducible refine Device.Within.pair ?_ (by assumption)) | intro _ | dsimp only)

theorem Device.directWrite_within {P : Nat} {d₀ : Device} (d : Device) (p : Path) (a : Nat) (bs : List Byte) (h : Device.Within P d₀ d) (hp : 7486044988 &&& P = 7486044988 := by exact subset_mono (by assumption) rfl) : Device.Within P d₀ (Device.directWrite d p a bs) := by
  unfold Device.directWrite
  try dsimp only
  repeat' (first | with_reducible exact subset_mono (by assumption) rfl | with_reducible assumption | with_reducible apply Device.wholeWrite_within | with_reducible apply Device.arrives_within | with_reducible apply Device.serveMany_within | with_reducible apply Device.record_within | with_reducible refine Device.Within.foldl ?_ ?_ | split | (with_reducible refine Device.Within.pair ?_ (by assumption)) | intro _ | dsimp only)

theorem Device.overrun_within {P : Nat} {d₀ : Device} (d : Device) (h : Device.Within P d₀ d) (hp : 134217736 &&& P = 134217736 := by exact subset_mono (by assumption) rfl) : Device.Within P d₀ (Device.overrun d) := by
  unfold Device.overrun
  try dsimp only
  repeat' (first | with_reducible exact subset_mono (by assumption) rfl | with_reducible assumption | with_reducible apply Device.count_within | with_reducible apply Device.withDict_within | with_reducible refine Device.Within.foldl ?_ ?_ | split | intro _ | dsimp only)

theorem Device.cmdBusy_within {P : Nat} {d₀ : Device} (d : Device) (v : W32) (h : Device.Within P d₀ d) (hp : 8 &&& P = 8 := by exact subset_mono (by assumption) rfl) : Device.Within P d₀ (Device.cmdBusy d v) := by
  unfold Device.cmdBusy
  try dsimp only
  repeat' (first | with_reducible exact subset_mono (by assumption) rfl | with_reducible assumption | with_reducible apply Device.withDict_within | with_reducible refine Device.Within.foldl ?_ ?_ | split | intro _ | dsimp only)

theorem Device.dictBusy_within {P : Nat} {d₀ : Device} (d : Device) (write : Bool) (addr : Nat) (h : Device.Within P d₀ d) (hp : 8 &&& P = 8 := by exact subset_mono (by assumption) rfl) : Device.Within P d₀ (Device.dictBusy d write addr) := by
  unfold Device.dictBusy
  try dsimp only
  repeat' (first | with_reducible exact subset_mono (by assumption) rfl | with_reducible assumption | with_reducible apply Device.cmdBusy_within | with_reducible refine Device.Within.foldl ?_ ?_ | split | intro _ | dsimp only)

theorem Device.dictCmd_within {P : Nat} {d₀ : Device} (d : Device) (write : Bool) (addr : Nat) (h : Device.Within P d₀ d) (hp : 2281701384 &&& P = 2281701384 := by exact subset_mono (by assumption) rfl) : Device.Within P d₀ (Device.dictCmd d write addr) := by
  unfold Device.dictCmd
  try dsimp only
  repeat' (first | with_reducible exact subset_mono (by assumption) rfl | with_reducible assumption | with_reducible apply Device.overrun_within | with_reducible apply Device.inbandEnd_within | with_reducible apply Device.dictBusy_within | with_reducible apply Device.withDict_within | with_reducible refine Device.Within.foldl ?_ ?_ | split | intro _ | dsimp only)

theorem Device.statusClear_within {P : Nat} {d₀ : Device} (d : Device) (v : W32) (h : Device.Within P d₀ d) (hp : 8 &&& P = 8 := by exact subset_mono (by assumption) rfl) : Device.Within P d₀ (Device.statusClear d v) := by
  unfold Device.statusClear
  try dsimp only
  repeat' (first | with_reducible exact subset_mono (by assumption) rfl | with_reducible assumption | with_reducible apply Device.withDict_within | with_reducible refine Device.Within.foldl ?_ ?_ | split | intro _ | dsimp only)

theorem Device.windowWrite_within {P : Nat} {d₀ : Device} (d : Device) (w : BarWrite) (h : Device.Within P d₀ d) (hp : 2281701384 &&& P = 2281701384 := by exact subset_mono (by assumption) rfl) : Device.Within P d₀ (Device.windowWrite d w) := by
  unfold Device.windowWrite
  try dsimp only
  repeat' (first | with_reducible exact subset_mono (by assumption) rfl | with_reducible assumption | with_reducible apply Device.overrun_within | with_reducible apply Device.withDict_within | with_reducible apply Device.dictCmd_within | with_reducible apply Device.inbandEnd_within | with_reducible apply Device.cmdBusy_within | with_reducible refine Device.Within.foldl ?_ ?_ | split | intro _ | dsimp only)

theorem Device.argData_within {P : Nat} {d₀ : Device} (d : Device) (w : BarWrite) (h : Device.Within P d₀ d) (hp : 2281701384 &&& P = 2281701384 := by exact subset_mono (by assumption) rfl) : Device.Within P d₀ (Device.argData d w) := by
  unfold Device.argData
  try dsimp only
  repeat' (first | with_reducible exact subset_mono (by assumption) rfl | with_reducible assumption | with_reducible apply Device.withOut_within | with_reducible apply Device.windowWrite_within | split | intro _ | dsimp only)

theorem Device.withSpi_within {P : Nat} {d₀ : Device} (d : Device) (f : SpiState → SpiState) (h : Device.Within P d₀ d) (hp : 8 &&& P = 8 := by exact subset_mono (by assumption) rfl) : Device.Within P d₀ (Device.withSpi d f) := by
  unfold Device.withSpi
  try dsimp only
  repeat' (first | with_reducible exact subset_mono (by assumption) rfl | with_reducible assumption | with_reducible apply Device.withDict_within | with_reducible refine Device.Within.foldl ?_ ?_ | split | intro _ | dsimp only)

theorem Device.spiAbort_within {P : Nat} {d₀ : Device} (d : Device) (h : Device.Within P d₀ d) (hp : 134217736 &&& P = 134217736 := by exact subset_mono (by assumption) rfl) : Device.Within P d₀ (Device.spiAbort d) := by
  unfold Device.spiAbort
  try dsimp only
  repeat' (first | with_reducible exact subset_mono (by assumption) rfl | with_reducible assumption | with_reducible apply Device.count_within | with_reducible apply Device.withSpi_within | with_reducible refine Device.Within.foldl ?_ ?_ | split | intro _ | dsimp only)

theorem Device.spiReject_within {P : Nat} {d₀ : Device} (d : Device) (h : Device.Within P d₀ d) (hp : 134217736 &&& P = 134217736 := by exact subset_mono (by assumption) rfl) : Device.Within P d₀ (Device.spiReject d) := by
  unfold Device.spiReject
  try dsimp only
  repeat' (first | with_reducible exact subset_mono (by assumption) rfl | with_reducible assumption | with_reducible apply Device.count_within | with_reducible apply Device.withSpi_within | with_reducible refine Device.Within.foldl ?_ ?_ | split | intro _ | dsimp only)

theorem Device.spiRequest_within {P : Nat} {d₀ : Device} (d : Device) (q : DictReq) (h : Device.Within P d₀ d) (hp : 8 &&& P = 8 := by exact subset_mono (by assumption) rfl) : Device.Within P d₀ (Device.spiRequest d q) := by
  unfold Device.spiRequest
  try dsimp only
  repeat' (first | with_reducible exact subset_mono (by assumption) rfl | with_reducible assumption | with_reducible apply Device.withSpi_within | with_reducible apply Device.withDict_within | with_reducible refine Device.Within.foldl ?_ ?_ | split | intro _ | dsimp only)

theorem Device.spiMalformed_within {P : Nat} {d₀ : Device} (d : Device) (addr : Nat) (h : Device.Within P d₀ d) (hp : 8 &&& P = 8 := by exact subset_mono (by assumption) rfl) : Device.Within P d₀ (Device.spiMalformed d addr) := by
  unfold Device.spiMalformed
  try dsimp only
  repeat' (first | with_reducible exact subset_mono (by assumption) rfl | with_reducible assumption | with_reducible apply Device.withSpi_within | with_reducible refine Device.Within.foldl ?_ ?_ | split | intro _ | dsimp only)

theorem Device.spiApply_within {P : Nat} {d₀ : Device} (d : Device) (op : Nat) (bs : List Byte) (h : Device.Within P d₀ d) (hp : 8 &&& P = 8 := by exact subset_mono (by assumption) rfl) : Device.Within P d₀ (Device.spiApply d op bs) := by
  unfold Device.spiApply
  try dsimp only
  repeat' (first | with_reducible exact subset_mono (by assumption) rfl | with_reducible assumption | with_reducible apply Device.spiRequest_within | with_reducible apply Device.spiMalformed_within | with_reducible apply Device.withSpi_within | with_reducible refine Device.Within.foldl ?_ ?_ | split | intro _ | dsimp only)

theorem Device.spiFetchFrame_within {P : Nat} {d₀ : Device} (d : Device) (n : Nat) (extra : Nat) (h : Device.Within P d₀ d) (hp : 134217736 &&& P = 134217736 := by exact subset_mono (by assumption) rfl) : Device.Within P d₀ (Device.spiFetchFrame d n extra) := by
  unfold Device.spiFetchFrame
  try dsimp only
  repeat' (first | with_reducible exact subset_mono (by assumption) rfl | with_reducible assumption | with_reducible apply Device.count_within | with_reducible apply Device.withSpi_within | with_reducible refine Device.Within.foldl ?_ ?_ | split | intro _ | dsimp only)

theorem Device.spiFrame_within {P : Nat} {d₀ : Device} (d : Device) (f : SpiFrame) (h : Device.Within P d₀ d) (hp : 134217736 &&& P = 134217736 := by exact subset_mono (by assumption) rfl) : Device.Within P d₀ (Device.spiFrame d f) := by
  unfold Device.spiFrame
  try dsimp only
  repeat' (first | with_reducible exact subset_mono (by assumption) rfl | with_reducible assumption | with_reducible apply Device.withSpi_within | with_reducible apply Device.spiAbort_within | with_reducible apply Device.spiFetchFrame_within | with_reducible apply Device.spiReject_within | with_reducible apply Device.count_within | with_reducible apply Device.spiApply_within | with_reducible refine Device.Within.foldl ?_ ?_ | split | intro _ | dsimp only)


/-! ### Brynuo -/

theorem Device.reply_within {P : Nat} {d₀ : Device} (d : Device) (m : BrHead) (status : Nat) (h : Device.Within P d₀ d) (hp : 2281701376 &&& P = 2281701376 := by exact subset_mono (by assumption) rfl) : Device.Within P d₀ (Device.reply d m status) := by
  unfold Device.reply
  try dsimp only
  repeat' (first | with_reducible exact subset_mono (by assumption) rfl | with_reducible assumption | with_reducible apply Device.transmit_within | with_reducible apply Device.count_within | with_reducible refine Device.Within.foldl ?_ ?_ | split | intro _ | dsimp only)

theorem Device.brynuoFrame_within {P : Nat} {d₀ : Device} (d : Device) (f : BrFrame) (kind : Nat) (op : Nat) (h' : Device → BrHead → Device) (hh' : ∀ x y0, Device.Within P d₀ x → Device.Within P d₀ (h' x y0)) (h : Device.Within P d₀ d) (hp : 2281701376 &&& P = 2281701376 := by exact subset_mono (by assumption) rfl) : Device.Within P d₀ (Device.brynuoFrame d f kind op h') := by
  unfold Device.brynuoFrame
  try dsimp only
  repeat' (first | with_reducible exact subset_mono (by assumption) rfl | with_reducible assumption | with_reducible apply hh' | with_reducible apply Device.count_within | with_reducible apply Device.reply_within | with_reducible refine Device.Within.foldl ?_ ?_ | split | intro _ | dsimp only)

theorem Device.modSession_within {P : Nat} {d₀ : Device} (d : Device) (k : Nat) (f : Session → Session) (h : Device.Within P d₀ d) (hp : 8 &&& P = 8 := by exact subset_mono (by assumption) rfl) : Device.Within P d₀ (Device.modSession d k f) := by
  unfold Device.modSession
  try dsimp only
  repeat' (first | with_reducible exact subset_mono (by assumption) rfl | with_reducible assumption | with_reducible apply Device.withDict_within | with_reducible refine Device.Within.foldl ?_ ?_ | split | intro _ | dsimp only)

theorem Device.inSession_within {P : Nat} {d₀ : Device} (d : Device) (m : BrHead) (h' : Device → Nat → Device) (hh' : ∀ x y0, Device.Within P d₀ x → Device.Within P d₀ (h' x y0)) (h : Device.Within P d₀ d) (hp : 2281701384 &&& P = 2281701384 := by exact subset_mono (by assumption) rfl) : Device.Within P d₀ (Device.inSession d m h') := by
  unfold Device.inSession
  try dsimp only
  repeat' (first | with_reducible exact subset_mono (by assumption) rfl | with_reducible assumption | with_reducible apply hh' | with_reducible apply Device.reply_within | with_reducible apply Device.touch_within | with_reducible apply Device.modSession_within | with_reducible apply Device.transmit_within | with_reducible apply Device.count_within | with_reducible refine Device.Within.foldl ?_ ?_ | split | intro _ | dsimp only)

theorem Device.brynuoRequest_within {P : Nat} {d₀ : Device} (d : Device) (m : BrHead) (write : Bool) (addr : Nat) (data : List Byte) (last : Bool) (h : Device.Within P d₀ d) (hp : 8 &&& P = 8 := by exact subset_mono (by assumption) rfl) : Device.Within P d₀ (Device.brynuoRequest d m write addr data last) := by
  unfold Device.brynuoRequest
  try dsimp only
  repeat' (first | with_reducible exact subset_mono (by assumption) rfl | with_reducible assumption | with_reducible apply Device.withDict_within | with_reducible refine Device.Within.foldl ?_ ?_ | split | intro _ | dsimp only)

theorem Device.dropPeer_within {P : Nat} {d₀ : Device} (d : Device) (peer : BitVec 128) (h : Device.Within P d₀ d) (hp : 939524104 &&& P = 939524104 := by exact subset_mono (by assumption) rfl) : Device.Within P d₀ (Device.dropPeer d peer) := by
  unfold Device.dropPeer
  try dsimp only
  repeat' (first | with_reducible exact subset_mono (by assumption) rfl | with_reducible assumption | with_reducible apply Device.closeSession_within | with_reducible refine Device.Within.foldl ?_ ?_ | split | intro _ | dsimp only)

theorem Device.openReq_within {P : Nat} {d₀ : Device} (d0 : Device) (m : BrHead) (h : Device.Within P d₀ d0) (hp : 3087007752 &&& P = 3087007752 := by exact subset_mono (by assumption) rfl) : Device.Within P d₀ (Device.openReq d0 m) := by
  unfold Device.openReq
  try dsimp only
  repeat' (first | with_reducible exact subset_mono (by assumption) rfl | with_reducible assumption | with_reducible apply Device.reply_within | with_reducible apply Device.dropPeer_within | with_reducible apply Device.touch_within | with_reducible apply Device.withDict_within | with_reducible apply Device.transmit_within | with_reducible apply Device.count_within | with_reducible refine Device.Within.foldl ?_ ?_ | split | intro _ | dsimp only)

theorem Device.closeReq_within {P : Nat} {d₀ : Device} (d : Device) (m : BrHead) (h : Device.Within P d₀ d) (hp : 3087007752 &&& P = 3087007752 := by exact subset_mono (by assumption) rfl) : Device.Within P d₀ (Device.closeReq d m) := by
  unfold Device.closeReq
  try dsimp only
  repeat' (first | with_reducible exact subset_mono (by assumption) rfl | with_reducible assumption | with_reducible apply Device.inSession_within | with_reducible apply Device.closeSession_within | with_reducible apply Device.respond_within | with_reducible refine Device.Within.foldl ?_ ?_ | split | intro _ | dsimp only)

theorem Device.keepaliveReq_within {P : Nat} {d₀ : Device} (d : Device) (m : BrHead) (h : Device.Within P d₀ d) (hp : 2281701384 &&& P = 2281701384 := by exact subset_mono (by assumption) rfl) : Device.Within P d₀ (Device.keepaliveReq d m) := by
  unfold Device.keepaliveReq
  try dsimp only
  repeat' (first | with_reducible exact subset_mono (by assumption) rfl | with_reducible assumption | with_reducible apply Device.inSession_within | with_reducible apply Device.respond_within | with_reducible refine Device.Within.foldl ?_ ?_ | split | intro _ | dsimp only)

theorem Device.readReq_within {P : Nat} {d₀ : Device} (d : Device) (m : BrHead) (h : Device.Within P d₀ d) (hp : 2281701384 &&& P = 2281701384 := by exact subset_mono (by assumption) rfl) : Device.Within P d₀ (Device.readReq d m) := by
  unfold Device.readReq
  try dsimp only
  repeat' (first | with_reducible exact subset_mono (by assumption) rfl | with_reducible assumption | with_reducible apply Device.inSession_within | with_reducible apply Device.brynuoRequest_within | with_reducible refine Device.Within.foldl ?_ ?_ | split | intro _ | dsimp only)

theorem Device.writeReq_within {P : Nat} {d₀ : Device} (d : Device) (m : BrHead) (h : Device.Within P d₀ d) (hp : 2281701384 &&& P = 2281701384 := by exact subset_mono (by assumption) rfl) : Device.Within P d₀ (Device.writeReq d m) := by
  unfold Device.writeReq
  try dsimp only
  repeat' (first | with_reducible exact subset_mono (by assumption) rfl | with_reducible assumption | with_reducible apply Device.inSession_within | with_reducible apply Device.brynuoRequest_within | with_reducible refine Device.Within.foldl ?_ ?_ | split | intro _ | dsimp only)

theorem Device.ownerReq_within {P : Nat} {d₀ : Device} (v : Byte) (d : Device) (m : BrHead) (h : Device.Within P d₀ d) (hp : 2281701384 &&& P = 2281701384 := by exact subset_mono (by assumption) rfl) : Device.Within P d₀ (Device.ownerReq v d m) := by
  unfold Device.ownerReq
  try dsimp only
  repeat' (first | with_reducible exact subset_mono (by assumption) rfl | with_reducible assumption | with_reducible apply Device.inSession_within | with_reducible apply Device.brynuoRequest_within | with_reducible refine Device.Within.foldl ?_ ?_ | split | intro _ | dsimp only)

theorem Device.ackReq_within {P : Nat} {d₀ : Device} (d : Device) (m : BrHead) (h : Device.Within P d₀ d) (hp : 8 &&& P = 8 := by exact subset_mono (by assumption) rfl) : Device.Within P d₀ (Device.ackReq d m) := by
  unfold Device.ackReq
  try dsimp only
  repeat' (first | with_reducible exact subset_mono (by assumption) rfl | with_reducible assumption | with_reducible apply Device.modSession_within | with_reducible refine Device.Within.foldl ?_ ?_ | split | intro _ | dsimp only)

theorem Device.resendNotices_within {P : Nat} {d₀ : Device} (d : Device) (k : Nat) (h : Device.Within P d₀ d) (hp : 2147483656 &&& P = 2147483656 := by exact subset_mono (by assumption) rfl) : Device.Within P d₀ (Device.resendNotices d k) := by
  unfold Device.resendNotices
  try dsimp only
  repeat' (first | with_reducible exact subset_mono (by assumption) rfl | with_reducible assumption | with_reducible apply Device.transmit_within | with_reducible apply Device.modSession_within | with_reducible refine Device.Within.foldl ?_ ?_ | split | intro _ | dsimp only)

theorem Device.leaseExpiry_within {P : Nat} {d₀ : Device} (d : Device) (k : Nat) (h : Device.Within P d₀ d) (hp : 939524104 &&& P = 939524104 := by exact subset_mono (by assumption) rfl) : Device.Within P d₀ (Device.leaseExpiry d k) := by
  unfold Device.leaseExpiry
  try dsimp only
  repeat' (first | with_reducible exact subset_mono (by assumption) rfl | with_reducible assumption | with_reducible apply Device.closeSession_within | with_reducible refine Device.Within.foldl ?_ ?_ | split | intro _ | dsimp only)

theorem Device.segTimeout_within {P : Nat} {d₀ : Device} (d : Device) (p : Path) (h : Device.Within P d₀ d) (hp : 8 &&& P = 8 := by exact subset_mono (by assumption) rfl) : Device.Within P d₀ (Device.segTimeout d p) := by
  unfold Device.segTimeout
  try dsimp only
  repeat' (first | with_reducible exact subset_mono (by assumption) rfl | with_reducible assumption | with_reducible apply Device.dropSeg_within | with_reducible refine Device.Within.foldl ?_ ?_ | split | intro _ | dsimp only)

theorem Device.mgmtSolicited_within {P : Nat} {d₀ : Device} (d : Device) (target : BitVec 128) (h : Device.Within P d₀ d) (hp : 2147483648 &&& P = 2147483648 := by exact subset_mono (by assumption) rfl) : Device.Within P d₀ (Device.mgmtSolicited d target) := by
  unfold Device.mgmtSolicited
  try dsimp only
  repeat' (first | with_reducible exact subset_mono (by assumption) rfl | with_reducible assumption | with_reducible apply Device.withOut_within | with_reducible refine Device.Within.foldl ?_ ?_ | split | intro _ | dsimp only)

theorem Device.mgmtLinkUp_within {P : Nat} {d₀ : Device} (d : Device) (h : Device.Within P d₀ d) (hp : 8 &&& P = 8 := by exact subset_mono (by assumption) rfl) : Device.Within P d₀ (Device.mgmtLinkUp d) := by
  unfold Device.mgmtLinkUp
  try dsimp only
  repeat' (first | with_reducible exact subset_mono (by assumption) rfl | with_reducible assumption | with_reducible apply Device.withDict_within | with_reducible refine Device.Within.foldl ?_ ?_ | split | intro _ | dsimp only)

theorem Device.collision_within {P : Nat} {d₀ : Device} (d : Device) (h : Device.Within P d₀ d) (hp : 8 &&& P = 8 := by exact subset_mono (by assumption) rfl) : Device.Within P d₀ (Device.collision d) := by
  unfold Device.collision
  try dsimp only
  repeat' (first | with_reducible exact subset_mono (by assumption) rfl | with_reducible assumption | with_reducible apply Device.withDict_within | with_reducible refine Device.Within.foldl ?_ ?_ | split | intro _ | dsimp only)


/-! ### Startup -/

theorem Device.blank_within {P : Nat} {d₀ : Device} (d : Device) (now : Nat) (power : PowerDom) (h : Device.Within P d₀ d) (hp : 4294901759 &&& P = 4294901759 := by exact subset_mono (by assumption) rfl) : Device.Within P d₀ (Device.blank d now power) := by
  refine h.move (ps := 4294901759) ⟨fun _ => rfl, id, fun k => ?_, fun k x => ?_⟩ (by intro p; cases p <;> first | exact Or.inl rfl | exact Or.inr rfl) hp
  · show _ ≤ ((d.flash.cutShort d.loadingSlot).floors[k]?.getD 0); exact Nat.le_of_eq (by rw [Flash.cutShort_floors])
  · show (d.flash.cutShort d.loadingSlot).revoked.testBit k = true; rw [Flash.cutShort_revoked]; exact x

theorem Device.powerOff_within {P : Nat} {d₀ : Device} (d : Device) (lock : Bool) (h : Device.Within P d₀ d) (hp : 4294901759 &&& P = 4294901759 := by exact subset_mono (by assumption) rfl) : Device.Within P d₀ (Device.powerOff d lock) := by
  unfold Device.powerOff
  extract_lets p q d1
  have g1 : Device.Within P d₀ d1 := Device.blank_within _ _ _ h (subset_mono hp rfl)
  clear_value d1
  exact Device.Within.upd (ps := 268435456) g1 rfl rfl (by intro p; cases p <;> first | exact Or.inl rfl | exact Or.inr rfl) (subset_mono hp rfl)

theorem Device.inputRise_within {P : Nat} {d₀ : Device} (d : Device) (h : Device.Within P d₀ d) (hp : 4 &&& P = 4 := by exact subset_mono (by assumption) rfl) : Device.Within P d₀ (Device.inputRise d) := by
  unfold Device.inputRise
  try dsimp only
  repeat' (first | with_reducible exact subset_mono (by assumption) rfl | with_reducible assumption | with_reducible apply Device.withPower_within | with_reducible refine Device.Within.foldl ?_ ?_ | split | intro _ | dsimp only)

theorem Device.bcReset_within {P : Nat} {d₀ : Device} (d : Device) (held : Nat) (h : Device.Within P d₀ d) (hp : 4294901759 &&& P = 4294901759 := by exact subset_mono (by assumption) rfl) : Device.Within P d₀ (Device.bcReset d held) := by
  unfold Device.bcReset
  try dsimp only
  repeat' (first | with_reducible exact subset_mono (by assumption) rfl | with_reducible assumption | with_reducible apply Device.blank_within | with_reducible refine Device.Within.foldl ?_ ?_ | split | intro _ | dsimp only)

theorem Device.startLog_within {P : Nat} {d₀ : Device} (d : Device) (h : Device.Within P d₀ d) (hp : 67108872 &&& P = 67108872 := by exact subset_mono (by assumption) rfl) : Device.Within P d₀ (Device.startLog d) := by
  unfold Device.startLog
  try dsimp only
  repeat' (first | with_reducible exact subset_mono (by assumption) rfl | with_reducible assumption | with_reducible apply Device.logEvent_within | with_reducible refine Device.Within.foldl ?_ ?_ | split | (with_reducible refine Device.Within.upd (ps := 67108864) ?_ ?_ ?_ ?_ ?_) | rfl | (intro p; cases p <;> first | exact Or.inl rfl | exact Or.inr rfl) | intro _ | dsimp only)

theorem Device.romBoot_within {P : Nat} {d₀ : Device} (d : Device) (straps : BitVec 6) (h : Device.Within P d₀ d) (hp : 872415244 &&& P = 872415244 := by exact subset_mono (by assumption) rfl) : Device.Within P d₀ (Device.romBoot d straps) := by
  unfold Device.romBoot
  try dsimp only
  repeat' (first | with_reducible exact subset_mono (by assumption) rfl | with_reducible assumption | with_reducible apply Device.pickImage_within | with_reducible apply Device.startLog_within | with_reducible apply Device.withDict_within | with_reducible apply Device.withPower_within | with_reducible apply Device.withImages_within | with_reducible refine Device.Within.foldl ?_ ?_ | split | intro _ | dsimp only)

theorem Device.wakeDeliver_within {P : Nat} {d₀ : Device} (d : Device) (h : Device.Within P d₀ d) (hp : 2147483652 &&& P = 2147483652 := by exact subset_mono (by assumption) rfl) : Device.Within P d₀ (Device.wakeDeliver d) := by
  unfold Device.wakeDeliver
  try dsimp only
  repeat' (first | with_reducible exact subset_mono (by assumption) rfl | with_reducible assumption | with_reducible apply Device.raise_within | with_reducible apply Device.withPower_within | with_reducible refine Device.Within.foldl ?_ ?_ | split | intro _ | dsimp only)

theorem Device.trainLink_within {P : Nat} {d₀ : Device} (d : Device) (h : Device.Within P d₀ d) (hp : 4 &&& P = 4 := by exact subset_mono (by assumption) rfl) : Device.Within P d₀ (Device.trainLink d) := by
  unfold Device.trainLink
  try dsimp only
  repeat' (first | with_reducible exact subset_mono (by assumption) rfl | with_reducible assumption | with_reducible apply Device.withPower_within | with_reducible refine Device.Within.foldl ?_ ?_ | split | intro _ | dsimp only)

theorem Device.imageVerify_within {P : Nat} {d₀ : Device} (d : Device) (h : Device.Within P d₀ d) (hp : 3019898892 &&& P = 3019898892 := by exact subset_mono (by assumption) rfl) : Device.Within P d₀ (Device.imageVerify d) := by
  unfold Device.imageVerify
  try dsimp only
  repeat' (first | with_reducible exact subset_mono (by assumption) rfl | with_reducible assumption | with_reducible apply Device.pickManifest_within | with_reducible apply Device.pickImage_within | with_reducible apply Device.withImages_within | with_reducible apply Device.trainLink_within | with_reducible apply Device.withPower_within | with_reducible apply Device.wakeDeliver_within | with_reducible refine Device.Within.foldl ?_ ?_ | split | intro _ | dsimp only)

theorem Device.recallBay_within {P : Nat} {d₀ : Device} (d : Device) (k : Nat) (h : Device.Within P d₀ d) (hp : 131072 &&& P = 131072 := by exact subset_mono (by assumption) rfl) : Device.Within P d₀ (Device.recallBay d k) := by
  unfold Device.recallBay
  try dsimp only
  repeat' (first | with_reducible exact subset_mono (by assumption) rfl | with_reducible assumption | with_reducible apply Device.modBay_within | with_reducible refine Device.Within.foldl ?_ ?_ | split | intro _ | dsimp only)

theorem Device.bayTrained_within {P : Nat} {d₀ : Device} (d : Device) (trained : Byte) (k : Nat) (h : Device.Within P d₀ d) (hp : 2349998604 &&& P = 2349998604 := by exact subset_mono (by assumption) rfl) : Device.Within P d₀ (Device.bayTrained d trained k) := by
  unfold Device.bayTrained
  try dsimp only
  repeat' (first | with_reducible exact subset_mono (by assumption) rfl | with_reducible assumption | with_reducible apply Device.recallBay_within | with_reducible apply Device.outOfService_within | with_reducible refine Device.Within.foldl ?_ ?_ | split | intro _ | dsimp only)

theorem Device.trainingEnd_within {P : Nat} {d₀ : Device} (d : Device) (trained : Byte) (h : Device.Within P d₀ d) (hp : 2349998604 &&& P = 2349998604 := by exact subset_mono (by assumption) rfl) : Device.Within P d₀ (Device.trainingEnd d trained) := by
  unfold Device.trainingEnd
  try dsimp only
  repeat' (first | with_reducible exact subset_mono (by assumption) rfl | with_reducible assumption | with_reducible apply Device.withPower_within | with_reducible apply Device.bayTrained_within | with_reducible refine Device.Within.foldl ?_ ?_ | split | intro _ | dsimp only)

theorem Device.readmit_within {P : Nat} {d₀ : Device} (d : Device) (k : Nat) (fails : List (Nat × Nat)) (h : Device.Within P d₀ d) (hp : 268566528 &&& P = 268566528 := by exact subset_mono (by assumption) rfl) : Device.Within P d₀ (Device.readmit d k fails) := by
  unfold Device.readmit
  try dsimp only
  repeat' (first | with_reducible exact subset_mono (by assumption) rfl | with_reducible assumption | with_reducible apply Device.modBay_within | with_reducible refine Device.Within.foldl ?_ ?_ | split | (with_reducible refine Device.Within.upd (ps := 268435456) ?_ ?_ ?_ ?_ ?_) | rfl | (intro p; cases p <;> first | exact Or.inl rfl | exact Or.inr rfl) | intro _ | dsimp only)

theorem Device.testRow_within {P : Nat} {d₀ : Device} (d : Device) (r : Nat × Nat × Nat × List Nat) (h : Device.Within P d₀ d) (hp : 201490440 &&& P = 201490440 := by exact subset_mono (by assumption) rfl) : Device.Within P d₀ (Device.testRow d r) := by
  unfold Device.testRow
  try dsimp only
  repeat' (first | with_reducible exact subset_mono (by assumption) rfl | with_reducible assumption | with_reducible apply Device.memoryEvent_within | with_reducible apply Device.rowMoved_within | with_reducible apply Device.loseLines_within | with_reducible refine Device.Within.foldl ?_ ?_ | split | intro _ | dsimp only)

theorem Device.selfTestEnd_within {P : Nat} {d₀ : Device} (d : Device) (r : SelfTestResult) (h : Device.Within P d₀ d) (hp : 2617409548 &&& P = 2617409548 := by exact subset_mono (by assumption) rfl) : Device.Within P d₀ (Device.selfTestEnd d r) := by
  unfold Device.selfTestEnd
  try dsimp only
  repeat' (first | with_reducible exact subset_mono (by assumption) rfl | with_reducible assumption | with_reducible apply Device.readmit_within | with_reducible apply Device.retireTile_within | with_reducible apply Device.degrade_within | with_reducible apply Device.testRow_within | with_reducible apply Device.withPower_within | with_reducible refine Device.Within.foldl ?_ ?_ | split | intro _ | dsimp only)

theorem Device.enumerateFar_within {P : Nat} {d₀ : Device} (d : Device) (h : Device.Within P d₀ d) (hp : 786432 &&& P = 786432 := by exact subset_mono (by assumption) rfl) : Device.Within P d₀ (Device.enumerateFar d) := by
  unfold Device.enumerateFar
  try dsimp only
  repeat' (first | with_reducible exact subset_mono (by assumption) rfl | with_reducible assumption | with_reducible refine Device.Within.foldl ?_ ?_ | split | (with_reducible refine Device.Within.upd (ps := 786432) ?_ ?_ ?_ ?_ ?_) | rfl | (intro p; cases p <;> first | exact Or.inl rfl | exact Or.inr rfl) | intro _ | dsimp only)

theorem Device.bayEnter_within {P : Nat} {d₀ : Device} (d : Device) (k : Nat) (h : Device.Within P d₀ d) (hp : 2349998604 &&& P = 2349998604 := by exact subset_mono (by assumption) rfl) : Device.Within P d₀ (Device.bayEnter d k) := by
  unfold Device.bayEnter
  try dsimp only
  repeat' (first | with_reducible exact subset_mono (by assumption) rfl | with_reducible assumption | with_reducible apply Device.outOfService_within | with_reducible apply Device.setBay_within | with_reducible refine Device.Within.foldl ?_ ?_ | split | intro _ | dsimp only)

theorem Device.trainPorts_within {P : Nat} {d₀ : Device} (d : Device) (h : Device.Within P d₀ d) (hp : 1048576 &&& P = 1048576 := by exact subset_mono (by assumption) rfl) : Device.Within P d₀ (Device.trainPorts d) := by
  unfold Device.trainPorts
  try dsimp only
  repeat' (first | with_reducible exact subset_mono (by assumption) rfl | with_reducible assumption | with_reducible refine Device.Within.foldl ?_ ?_ | split | (with_reducible refine Device.Within.upd (ps := 1048576) ?_ ?_ ?_ ?_ ?_) | rfl | (intro p; cases p <;> first | exact Or.inl rfl | exact Or.inr rfl) | intro _ | dsimp only)

theorem Device.becomeReady_within {P : Nat} {d₀ : Device} (d : Device) (h : Device.Within P d₀ d) (hp : 2350785036 &&& P = 2350785036 := by exact subset_mono (by assumption) rfl) : Device.Within P d₀ (Device.becomeReady d) := by
  unfold Device.becomeReady
  try dsimp only
  repeat' (first | with_reducible exact subset_mono (by assumption) rfl | with_reducible assumption | with_reducible apply Device.wakeDeliver_within | with_reducible apply Device.trainLink_within | with_reducible apply Device.withPower_within | with_reducible apply Device.withSafety_within | with_reducible apply Device.bayEnter_within | with_reducible apply Device.enumerateFar_within | with_reducible apply Device.trainPorts_within | with_reducible refine Device.Within.foldl ?_ ?_ | split | intro _ | dsimp only)

theorem Device.summaryWrite_within {P : Nat} {d₀ : Device} (d : Device) (h : Device.Within P d₀ d) (hp : 335544320 &&& P = 335544320 := by exact subset_mono (by assumption) rfl) : Device.Within P d₀ (Device.summaryWrite d) := by
  unfold Device.summaryWrite
  try dsimp only
  repeat' (first | with_reducible exact subset_mono (by assumption) rfl | with_reducible assumption | with_reducible refine Device.Within.foldl ?_ ?_ | split | (with_reducible refine Device.Within.upd (ps := 335544320) ?_ ?_ ?_ ?_ ?_) | rfl | (intro p; cases p <;> first | exact Or.inl rfl | exact Or.inr rfl) | intro _ | dsimp only)


/-! ### Resets -/

theorem Device.linkLost_within {P : Nat} {d₀ : Device} (d : Device) (h : Device.Within P d₀ d) (hp : 939524108 &&& P = 939524108 := by exact subset_mono (by assumption) rfl) : Device.Within P d₀ (Device.linkLost d) := by
  unfold Device.linkLost
  try dsimp only
  repeat' (first | with_reducible exact subset_mono (by assumption) rfl | with_reducible assumption | with_reducible apply Device.withPower_within | with_reducible apply Device.setOwner_within | with_reducible refine Device.Within.foldl ?_ ?_ | split | intro _ | dsimp only)

theorem Device.perstAssert_within {P : Nat} {d₀ : Device} (d : Device) (h : Device.Within P d₀ d) (hp : 8555592702 &&& P = 8555592702 := by exact subset_mono (by assumption) rfl) : Device.Within P d₀ (Device.perstAssert d) := by
  unfold Device.perstAssert
  try dsimp only
  repeat' (first | with_reducible exact subset_mono (by assumption) rfl | with_reducible assumption | with_reducible apply Device.withPower_within | with_reducible apply Device.linkLost_within | with_reducible apply Device.rung3_within | with_reducible refine Device.Within.foldl ?_ ?_ | split | intro _ | dsimp only)

theorem Device.d3hot_within {P : Nat} {d₀ : Device} (d : Device) (h : Device.Within P d₀ d) (hp : 6645087036 &&& P = 6645087036 := by exact subset_mono (by assumption) rfl) : Device.Within P d₀ (Device.d3hot d) := by
  unfold Device.d3hot
  try dsimp only
  repeat' (first | with_reducible exact subset_mono (by assumption) rfl | with_reducible assumption | with_reducible apply Device.pairReset_within | with_reducible apply Device.withPower_within | with_reducible refine Device.Within.foldl ?_ ?_ | split | intro _ | dsimp only)

theorem Device.bankedEntryEnd_within {P : Nat} {d₀ : Device} (d : Device) (h : Device.Within P d₀ d) (hp : 6645087004 &&& P = 6645087004 := by exact subset_mono (by assumption) rfl) : Device.Within P d₀ (Device.bankedEntryEnd d) := by
  unfold Device.bankedEntryEnd
  try dsimp only
  repeat' (first | with_reducible exact subset_mono (by assumption) rfl | with_reducible assumption | with_reducible apply Device.withSafety_within | with_reducible apply Device.abortCmds_within | with_reducible apply Device.clearTiles_within | with_reducible apply Device.clearSram_within | with_reducible apply Device.portDown_within | with_reducible apply Device.withPower_within | with_reducible refine Device.Within.foldl ?_ ?_ | split | intro _ | dsimp only)

theorem Device.d0Entry_within {P : Nat} {d₀ : Device} (d : Device) (h : Device.Within P d₀ d) (hp : 4 &&& P = 4 := by exact subset_mono (by assumption) rfl) : Device.Within P d₀ (Device.d0Entry d) := by
  unfold Device.d0Entry
  try dsimp only
  repeat' (first | with_reducible exact subset_mono (by assumption) rfl | with_reducible assumption | with_reducible apply Device.withPower_within | with_reducible refine Device.Within.foldl ?_ ?_ | split | intro _ | dsimp only)

theorem Device.bankedExitEnd_within {P : Nat} {d₀ : Device} (d : Device) (h : Device.Within P d₀ d) (hp : 2148532228 &&& P = 2148532228 := by exact subset_mono (by assumption) rfl) : Device.Within P d₀ (Device.bankedExitEnd d) := by
  unfold Device.bankedExitEnd
  try dsimp only
  repeat' (first | with_reducible exact subset_mono (by assumption) rfl | with_reducible assumption | with_reducible apply Device.wakeDeliver_within | with_reducible apply Device.trainPorts_within | with_reducible apply Device.withPower_within | with_reducible refine Device.Within.foldl ?_ ?_ | split | intro _ | dsimp only)

theorem Device.wakeSignal_within {P : Nat} {d₀ : Device} (d : Device) (h : Device.Within P d₀ d) (hp : 2147483652 &&& P = 2147483652 := by exact subset_mono (by assumption) rfl) : Device.Within P d₀ (Device.wakeSignal d) := by
  unfold Device.wakeSignal
  try dsimp only
  repeat' (first | with_reducible exact subset_mono (by assumption) rfl | with_reducible assumption | with_reducible apply Device.withPower_within | with_reducible apply Device.withOut_within | with_reducible refine Device.Within.foldl ?_ ?_ | split | intro _ | dsimp only)


/-! ### Attest -/

theorem Device.doe_within {P : Nat} {d₀ : Device} (d : Device) (bs : List Byte) (h : Device.Within P d₀ d) (hp : 2147483648 &&& P = 2147483648 := by exact subset_mono (by assumption) rfl) : Device.Within P d₀ (Device.doe d bs) := by
  unfold Device.doe
  try dsimp only
  repeat' (first | with_reducible exact subset_mono (by assumption) rfl | with_reducible assumption | with_reducible apply Device.withOut_within | with_reducible refine Device.Within.foldl ?_ ?_ | split | intro _ | dsimp only)

theorem Device.discover_within {P : Nat} {d₀ : Device} (d : Device) (index : Byte) (h : Device.Within P d₀ d) (hp : 2147483648 &&& P = 2147483648 := by exact subset_mono (by assumption) rfl) : Device.Within P d₀ (Device.discover d index) := by
  unfold Device.discover
  try dsimp only
  repeat' (first | with_reducible exact subset_mono (by assumption) rfl | with_reducible assumption | with_reducible apply Device.doe_within | with_reducible refine Device.Within.foldl ?_ ?_ | split | intro _ | dsimp only)

theorem Device.spdmReq_within {P : Nat} {d₀ : Device} (d : Device) (req : List Byte) (code : Nat) (need : Nat) (h' : Device → Device) (hh' : ∀ x, Device.Within P d₀ x → Device.Within P d₀ (h' x)) (h : Device.Within P d₀ d) (hp : 2147483648 &&& P = 2147483648 := by exact subset_mono (by assumption) rfl) : Device.Within P d₀ (Device.spdmReq d req code need h') := by
  unfold Device.spdmReq
  try dsimp only
  repeat' (first | with_reducible exact subset_mono (by assumption) rfl | with_reducible assumption | with_reducible apply hh' | with_reducible apply Device.doe_within | with_reducible refine Device.Within.foldl ?_ ?_ | split | intro _ | dsimp only)

theorem Device.certificate_within {P : Nat} {d₀ : Device} (d : Device) (req : List Byte) (h : Device.Within P d₀ d) (hp : 2147483648 &&& P = 2147483648 := by exact subset_mono (by assumption) rfl) : Device.Within P d₀ (Device.certificate d req) := by
  unfold Device.certificate
  try dsimp only
  repeat' (first | with_reducible exact subset_mono (by assumption) rfl | with_reducible assumption | with_reducible apply Device.doe_within | with_reducible refine Device.Within.foldl ?_ ?_ | split | intro _ | dsimp only)

theorem Device.challenged_within {P : Nat} {d₀ : Device} (d : Device) (req : List Byte) (h : Device.Within P d₀ d) (hp : 6442450944 &&& P = 6442450944 := by exact subset_mono (by assumption) rfl) : Device.Within P d₀ (Device.challenged d req) := by
  unfold Device.challenged
  try dsimp only
  repeat' (first | with_reducible exact subset_mono (by assumption) rfl | with_reducible assumption | with_reducible apply Device.doe_within | with_reducible apply Device.drew_within | with_reducible refine Device.Within.foldl ?_ ?_ | split | intro _ | dsimp only)

theorem Device.measurements_within {P : Nat} {d₀ : Device} (d : Device) (req : List Byte) (h : Device.Within P d₀ d) (hp : 6442450944 &&& P = 6442450944 := by exact subset_mono (by assumption) rfl) : Device.Within P d₀ (Device.measurements d req) := by
  unfold Device.measurements
  try dsimp only
  repeat' (first | with_reducible exact subset_mono (by assumption) rfl | with_reducible assumption | with_reducible apply Device.doe_within | with_reducible apply Device.drew_within | with_reducible refine Device.Within.foldl ?_ ?_ | split | intro _ | dsimp only)


end Sys2Proof.Machine
end

