-- ==== Sys2Proof/Laws/Admission.lean ====
section
/-! SUPPORT. Admission: what an acceptance and a refusal leave (R242, R243). -/

namespace Sys2Proof.Machine

set_option Elab.async false

/-- A part outside the set is as before. -/
theorem Device.Within.part {P : Nat} {d0 d : Device} (h : Device.Within P d0 d) (p : Part) (hp : P.testBit p.ctorIdx = false) : Part.same d0 d p := by
  rcases h.same p with x | x
  · rw [hp] at x; cases x
  · exact x

theorem Device.raise_safety (d : Device) (v : Nat) : (d.raise v).safety = d.safety := by unfold Device.raise; split <;> rfl

theorem Device.raise_host (d : Device) (v : Nat) : (d.raise v).host = d.host := by unfold Device.raise; split <;> rfl

/-- Where an acceptance record is written, and its bytes (R243). -/
theorem Device.acceptanceRecord_host (d : Device) (f : Fetched) (st tag det pr : Nat) : (d.acceptanceRecord f st tag det pr).host =
    d.host.write (d.setting ((0x7100 + f.q.val) * 256 + 3) + 64 * (d.queue f.q.val).cqTail)
      (padTo 64 (BitVec.ofNat 8 (1 + if (d.queue f.q.val).phase then 0x80 else 0) :: acceptanceBytes d f st tag det pr)) := by
  unfold Device.acceptanceRecord
  dsimp only
  split
  · rw [Device.raise_host, Device.putRecord_host]
  · rw [Device.putRecord_host]

theorem Device.putRecord_safety (d : Device) (q k : Nat) (r : List Byte) : (d.putRecord q k r).safety = d.safety := by simp only [Device.putRecord, Device.setQueue_safety]

theorem Device.acceptanceRecord_safety (d : Device) (f : Fetched) (st tag det pr : Nat) : (d.acceptanceRecord f st tag det pr).safety = d.safety := by
  unfold Device.acceptanceRecord
  dsimp only
  split
  · rw [Device.raise_safety, Device.putRecord_safety]
  · rw [Device.putRecord_safety]

theorem Device.acceptEffect_accepted (d : Device) (e : List Byte) : (d.acceptEffect e).counter 0x807001 = d.counter 0x807001 := by
  unfold Device.acceptEffect
  split
  · dsimp only
    rw [Device.counter_count]
    simp only [show (0x808001 : Nat) ≠ 0x807001 by decide, if_false]
    split <;> rfl
  · split <;> rfl

/-- Everything an acceptance leaves that software can see (R242 to R244). -/
theorem Device.accept_fields (d d0 : Device) (f : Fetched) (c : Cmd) (tags : List Nat) (hq : d.queues = d0.queues) (hd : d.dict = d0.dict) (hw : d.power = d0.power) (hh : d.host = d0.host)
   (hs : d.safety = d0.safety) (hn : d.now = d0.now) (hp : d.pace = d0.pace) (he : d.events = d0.events) (hc : d.cmds = d0.cmds) (hf : d.fetched = d0.fetched) (ho : d.orderNext = d0.orderNext) :
    ∃ t c', d.accept f c tags = t ∧ t.cmds = d0.cmds ++ [c'] ∧ c'.tag = c.tag ∧ c'.entry = c.entry ∧ c'.qp = c.qp ∧ c'.slot = c.slot ∧ c'.promise = c.promise ∧
      c'.acceptAt = c.acceptAt ∧ c'.floor = c.floor ∧ c'.order = c.order ∧ c'.done = c.done ∧ c'.failure = c.failure ∧
      t.tagsFree = tags ∧ t.fetched = d0.fetched ∧ t.orderNext = d0.orderNext + 1 ∧
      t.counter 0x807001 = stopAdd 64 (d0.counter 0x807001) 1 ∧
      t.host = d0.host.write (d0.setting ((0x7100 + f.q.val) * 256 + 3) + 64 * (d0.queue f.q.val).cqTail)
        (padTo 64 (BitVec.ofNat 8 (1 + if (d0.queue f.q.val).phase then 0x80 else 0) :: acceptanceBytes t f 0x00 c.tag 0 c.promise)) ∧
      t.dict = d0.dict ∧ t.events = d0.events ∧ t.mem = d.mem := by
  refine ⟨_, ?c, rfl, ?_⟩
  case c => exact
    (let x := (({ d.settleTokens with tagsFree := tags, orderNext := d.orderNext + 1 } : Device).acceptEffect f.entry).takeMessage c
     { c with step := x.1.stepCounter, wset := x.1.curSet, wver := x.1.weightVersion, message := x.2,
                     overdueAt := c.promise + 1000 * d.setting 0x401001,
                     coll := (if isFabricOp (opcodeOf f.entry) then some ⟨0, 0, x.1.commandPlanes f.entry, x.1.devNum, [], 0, false, none⟩ else none) })
  have wd1 : Device.Within (131072) d d.settleTokens := Device.settleTokens_within d (Device.Within.refl _ d) rfl
  unfold Device.accept
  generalize d.settleTokens = ds at wd1 ⊢
  generalize hd1 : ({ ds with tagsFree := tags, orderNext := d.orderNext + 1 } : Device) = d1
  have w1 : Device.Within (partSet [.bays, .tagsFree, .orderNext]) d d1 := by
    rw [← hd1]
    exact Device.Within.upd (ps := partSet [.tagsFree, .orderNext]) (b := ds) (wd1.mono rfl) rfl rfl (by intro p; cases p <;> first | exact Or.inl rfl | exact Or.inr rfl) rfl
  have t1 : d1.tagsFree = tags := by rw [← hd1]
  have o1 : d1.orderNext = d.orderNext + 1 := by rw [← hd1]
  clear hd1
  dsimp only
  have w2 : Device.Within 163577858 d1 (d1.acceptEffect f.entry) := Device.acceptEffect_within d1 _ (Device.Within.refl _ d1) rfl
  have c2 := Device.acceptEffect_accepted d1 f.entry
  generalize hd2 : d1.acceptEffect f.entry = d2 at *
  have w3 : Device.Within 2097152 d2 (d2.takeMessage c).1 := Device.takeMessage_within d2 c (Device.Within.refl _ d2) rfl
  generalize hd3 : d2.takeMessage c = x at *
  generalize hc1 : ({ c with step := x.1.stepCounter, wset := x.1.curSet, wver := x.1.weightVersion, message := x.2, overdueAt := c.promise + 1000 * d.setting 0x401001, coll := (if isFabricOp (opcodeOf f.entry) then some ⟨0, 0, x.1.commandPlanes f.entry, x.1.devNum, [], 0, false, none⟩ else none) } : Cmd) = c1
  have w4 : Device.Within 135680 x.1 (x.1.join c1) := Device.join_within x.1 c1 (Device.Within.refl _ x.1) rfl
  have j4 : (x.1.join c1).cmds = x.1.cmds ++ [c1] := rfl
  generalize hd4 : x.1.join c1 = d4 at *
  have w5 : Device.Within 2281766928 d4 ((d4.acceptanceRecord f stAccepted c1.tag 0 c1.promise).count 0x807001 1) :=
    Device.count_within _ _ _ ((Device.acceptanceRecord_within d4 f stAccepted c1.tag 0 c1.promise (Device.Within.refl _ d4) rfl)) rfl
  have h5 := Device.acceptanceRecord_host d4 f stAccepted c1.tag 0 c1.promise
  have k5 : ((d4.acceptanceRecord f stAccepted c1.tag 0 c1.promise).count 0x807001 1).counter 0x807001 = stopAdd 64 (d4.counter 0x807001) 1 := by
    rw [Device.counter_count, if_pos rfl, Device.counter, Device.acceptanceRecord_safety]; rfl
  have hc5 : ((d4.acceptanceRecord f stAccepted c1.tag 0 c1.promise).count 0x807001 1).host = (d4.acceptanceRecord f stAccepted c1.tag 0 c1.promise).host := rfl
  rw [← hc5] at h5
  generalize hd5 : (d4.acceptanceRecord f stAccepted c1.tag 0 c1.promise).count 0x807001 1 = t at *
  have e : ∀ p : Part, (1 <<< p.ctorIdx) &&& (2281766928 ||| 135680 ||| 2097152) = 0 → Part.same d2 t p := by
    intro p hp
    have := hp
    cases p <;> first
      | exact absurd hp (by decide)
      | exact Part.same_trans (Part.same_trans (Device.Within.part w3 _ (by decide)) (Device.Within.part w4 _ (by decide))) (Device.Within.part w5 _ (by decide))
  have e2 : ∀ p : Part, (1 <<< p.ctorIdx) &&& (2281766928 ||| 135680 ||| 2097152 ||| 163577858 ||| partSet [.bays, .tagsFree, .orderNext]) = 0 → Part.same d t p := by
    intro p hp
    cases p <;> first
      | exact absurd hp (by decide)
      | exact Part.same_trans (Part.same_trans (Device.Within.part w1 _ (by decide)) (Device.Within.part w2 _ (by decide))) (e _ (by decide))
  have cm : t.cmds = d.cmds ++ [c1] := by
    have a1 : t.cmds = d4.cmds := Device.Within.part w5 .cmds (by decide)
    have a2 : x.1.cmds = d2.cmds := Device.Within.part w3 .cmds (by decide)
    have a3 : d2.cmds = d1.cmds := Device.Within.part w2 .cmds (by decide)
    have a4 : d1.cmds = d.cmds := Device.Within.part w1 .cmds (by decide)
    rw [a1, j4, a2, a3, a4]
  have tg : t.tagsFree = tags := by
    have a1 : t.tagsFree = d2.tagsFree := e .tagsFree (by decide)
    have a3 : d2.tagsFree = d1.tagsFree := Device.Within.part w2 .tagsFree (by decide)
    rw [a1, a3, t1]
  have og : t.orderNext = d.orderNext + 1 := by
    have a1 : t.orderNext = d2.orderNext := e .orderNext (by decide)
    have a3 : d2.orderNext = d1.orderNext := Device.Within.part w2 .orderNext (by decide)
    rw [a1, a3, o1]
  have ct : t.counter 0x807001 = stopAdd 64 (d.counter 0x807001) 1 := by
    have a1 : d4.safety = d2.safety := Eq.trans (Device.Within.part w4 .safety (by decide)) (Device.Within.part w3 .safety (by decide))
    have a2 : d1.safety = d.safety := Device.Within.part w1 .safety (by decide)
    rw [k5]; congr 1
    have : d4.counter 0x807001 = d2.counter 0x807001 := by unfold Device.counter; rw [a1]
    rw [this, c2]; unfold Device.counter; rw [a2]
  have hx : ∀ d4' : Device, d4'.now = t.now → d4'.pace = t.pace → d4'.stepCounter = t.stepCounter → d4'.curSet = t.curSet → d4'.verA = t.verA → d4'.verB = t.verB →
      ∀ a b c e, acceptanceBytes d4' f a b c e = acceptanceBytes t f a b c e := by
    intro d4' a b c e f g _ _ _ _
    simp only [acceptanceBytes, Device.weightVersion, a, b, c, e, f, g]
  have d4q : d4.queues = d.queues := by
    have a1 : d4.queues = x.1.queues := Device.Within.part w4 .queues (by decide)
    have a2 : x.1.queues = d2.queues := Device.Within.part w3 .queues (by decide)
    have a3 : d2.queues = d1.queues := Device.Within.part w2 .queues (by decide)
    have a4 : d1.queues = d.queues := Device.Within.part w1 .queues (by decide)
    rw [a1, a2, a3, a4]
  have d4d : d4.dict = d.dict := by
    have a1 : d4.dict = x.1.dict := Device.Within.part w4 .dict (by decide)
    have a2 : x.1.dict = d2.dict := Device.Within.part w3 .dict (by decide)
    have a3 : d2.dict = d1.dict := Device.Within.part w2 .dict (by decide)
    have a4 : d1.dict = d.dict := Device.Within.part w1 .dict (by decide)
    rw [a1, a2, a3, a4]
  have d4w : d4.power = d.power := by
    have a1 : d4.power = x.1.power := Device.Within.part w4 .power (by decide)
    have a2 : x.1.power = d2.power := Device.Within.part w3 .power (by decide)
    have a3 : d2.power = d1.power := Device.Within.part w2 .power (by decide)
    have a4 : d1.power = d.power := Device.Within.part w1 .power (by decide)
    rw [a1, a2, a3, a4]
  have d4h : d4.host = d.host := by
    have a1 : d4.host = x.1.host := Device.Within.part w4 .host (by decide)
    have a2 : x.1.host = d2.host := Device.Within.part w3 .host (by decide)
    have a3 : d2.host = d1.host := Device.Within.part w2 .host (by decide)
    have a4 : d1.host = d.host := Device.Within.part w1 .host (by decide)
    rw [a1, a2, a3, a4]
  have c1t : c1.tag = c.tag := by rw [← hc1]
  have c1p : c1.promise = c.promise := by rw [← hc1]
  have hbytes := hx d4 (Device.Within.part w5 .now (by decide)).symm (Device.Within.part w5 .pace (by decide)).symm (Device.Within.part w5 .stepCounter (by decide)).symm (Device.Within.part w5 .curSet (by decide)).symm (Device.Within.part w5 .verA (by decide)).symm (Device.Within.part w5 .verB (by decide)).symm
  rw [show (d4.acceptanceRecord f stAccepted c.tag 0 c.promise).count 0x807001 1 = t from by rw [← hd5, c1t, c1p]]
  refine ⟨by rw [cm, hc], rfl, rfl, rfl, rfl, rfl, rfl, rfl, rfl, rfl, rfl, tg, by rw [← hf]; exact e2 .fetched (by decide), by rw [og, ho], by rw [ct]; unfold Device.counter; rw [hs], ?_, by rw [← hd]; exact e2 .dict (by decide), by rw [← he]; exact e2 .events (by decide), e2 .mem (by decide)⟩
  rw [h5, hbytes]
  simp only [Device.setting, Device.queue, d4q, d4d, d4w, d4h, hq, hd, hw, hh, c1t, c1p, stAccepted]
  rfl

/-- The rules of R242 in their order. -/
theorem Device.judge_eq (d0 d : Device) (f : Fetched) (rest : List Fetched) (hd : ({ d0 with fetched := rest } : Device) = d) :
    d0.judge f rest = match (d.look f).invalid with
      | some (off, lock) => (d.refuse f stInvalid off 0).count 0x808002 (if lock then 1 else 0)
      | none =>
        if (d.look f).bayOut then d.refuse f stBayOut 0 0
        else match d.tagsFree with
          | [] => d.refuse f stNoTag 0 0
          | tag :: tags => d.offer f (d.look f) tag tags := by
  subst hd; rfl

/-- An entry that breaks no rule is accepted. -/
theorem Device.judge_accepts (d0 d : Device) (f : Fetched) (rest : List Fetched) (tag : Nat) (tags : List Nat) (hd : ({ d0 with fetched := rest } : Device) = d)
    (hj : Judged d f) (ht : d.tagsFree = tag :: tags) (hb : (d.bid f (d.look f) tag).beyond = false)
    (hp : (d.bid f (d.look f) tag).cmd.promise ≤ d.now + 1000000 * d.setting 0x701201) (hdl : classOf f.entry = 1 → (d.bid f (d.look f) tag).cmd.promise ≤ ent f.entry 0x18 8) :
    d0.judge f rest = (d.bid f (d.look f) tag).dev.accept f (d.bid f (d.look f) tag).cmd tags := by
  rw [Device.judge_eq d0 d f rest hd, hj.sound, hj.baysIn, ht]
  simp only [Bool.false_eq_true, if_false]
  unfold Device.offer
  generalize d.bid f (d.look f) tag = b at *
  dsimp only
  rw [if_neg (by rw [hb]; simpa using hp), if_neg (fun h => absurd (hdl h.1) (by have := h.2; omega))]

theorem Device.acceptanceRecord_within_self (d : Device) (f : Fetched) (a b c e : Nat) : Device.Within 2147549200 d (d.acceptanceRecord f a b c e) :=
  Device.acceptanceRecord_within d f a b c e (Device.Within.refl _ d) rfl

theorem Device.acceptanceRecord_reserved (d : Device) (f : Fetched) (a b c e : Nat) : ((d.acceptanceRecord f a b c e).queue f.q.val).reserved = (d.queue f.q.val).reserved - 1 := by
  have h : ∀ k r, ((d.putRecord f.q.val k r).queue f.q.val).reserved = (d.queue f.q.val).reserved - 1 := by
    intro k r; simp only [Device.putRecord]; rw [Device.queue_setQueue_same _ f.q.isLt]
  unfold Device.acceptanceRecord
  dsimp only
  split
  · rw [Device.raise_only, show ∀ (x : Device) o q, ({ x with out := o } : Device).queue q = x.queue q from fun _ _ _ => rfl]; exact h _ _
  · exact h _ _

/-- What a refusal leaves. -/
theorem Device.refuse_refused (d : Device) (f : Fetched) (rest : List Fetched) (hf : d.fetched = rest) (st det pr : Nat) :
    Refused d (d.refuse f st det pr) f rest st det pr := by
  have w := Device.acceptanceRecord_within_self d f st 0xFFFF det pr
  have hr := Device.acceptanceRecord_reserved d f st 0xFFFF det pr
  have hs := Device.acceptanceRecord_safety d f st 0xFFFF det pr
  unfold Device.refuse
  constructor
  · rw [← hf]; exact Device.Within.part w .fetched (by decide)
  · rfl
  · rw [Device.counter_count_same]; unfold Device.counter Device.modQueue; rw [Device.setQueue_safety, hs]
  · rw [show ∀ x : Device, (x.count 0x807002 1).queue f.q.val = x.queue f.q.val from fun _ => rfl, Device.modQueue, Device.queue_setQueue_same _ f.q.isLt]
    dsimp only
    rw [hr, Nat.sub_sub]
  · exact Device.Within.part w .cmds (by decide)
  · exact Device.Within.part w .tagsFree (by decide)
  · exact Device.Within.part w .events (by decide)
  · exact Device.Within.part w .mem (by decide)
  · exact Device.Within.part w .stepCounter (by decide)
  · exact Device.Within.part w .bays (by decide)

theorem Refused.count {d t : Device} {f : Fetched} {rest : List Fetched} {a b c n : Nat} (h : Refused d t f rest a b c) : Refused d (t.count 0x808002 n) f rest a b c :=
  ⟨h.taken, h.record, by rw [Device.counter_count_other _ (by decide)]; exact h.counted, h.slot, h.cmds, h.tags, h.events, h.mem, h.step, h.bays⟩

/-- Each of the 24 rows is admission of that row. -/
theorem admissionRows_run (x : Instr × RowOf) (hx : x ∈ admissionRows) (s : State) : Runs x.1 s (s.dev.admitRow x.2) := by
  simp only [admissionRows, List.mem_cons, List.not_mem_nil, or_false] at hx
  rcases hx with h | h | h | h | h | h | h | h | h | h | h | h | h | h | h | h | h | h | h | h | h | h | h | h <;> rw [h] <;> rfl

theorem NextEntry.admit_eq {d : Device} {r : RowOf} {f : Fetched} {rest : List Fetched} (hn : NextEntry d r f rest) : d.admitRow r = d.judge f rest := by
  unfold Device.admitRow
  rw [hn.head]
  simp [hn.mine, hn.ready, hn.working, hn.open']

end Sys2Proof.Machine
end

