-- ==== Sys2Proof/Laws/Completion.lean ====
section
/-! SUPPORT. Completion: the record, the event and the tag of a command that ends (R250). -/

namespace Sys2Proof.Machine

set_option Elab.async false

theorem Device.addEvent_get (d : Device) (e n k : Nat) (hk : k < 4096) : (d.addEvent e n).events.get 0 k = if e = k then d.events.get 0 k + BitVec.ofNat 32 n else d.events.get 0 k := by
  unfold Device.addEvent
  split
  · next h =>
    by_cases he : e = k
    · subst he; simp only [if_true]; exact Store.get_put_same
    · simp only [if_neg he]; exact Store.get_put_other (Ne.symm he)
  · next h => rw [if_neg (by omega)]

theorem Device.eventEffect_get (d : Device) (c : Cmd) (k : Nat) (hk : k < 4096) : (d.eventEffect c).events.get 0 k =
    if opcodeOf c.entry = 0x40 ∧ ent c.entry 0x20 2 = k then (if ent c.entry 0x22 1 = 0 then d.events.get 0 k + BitVec.ofNat 32 (ent c.entry 0x24 4) else 0) else d.events.get 0 k := by
  unfold Device.eventEffect
  dsimp only
  split
  · next h => rw [if_neg (by omega)]
  · next h =>
    have h0 : opcodeOf c.entry = 0x40 := by omega
    split
    · next h1 => rw [Device.addEvent_get _ _ _ _ hk]; split <;> simp_all
    · next h1 =>
      by_cases he : ent c.entry 0x20 2 = k
      · rw [if_pos ⟨h0, he⟩, he]; exact Store.get_put_same
      · rw [if_neg (fun h => he h.2)]; exact Store.get_put_other (Ne.symm he)

theorem completionBytes_length (d : Device) (c : Cmd) : (completionBytes d c).length = 61 := by
  unfold completionBytes
  simp only [List.length_append, leBytes_length]
  split <;> simp [leBytes_length]

theorem completionBytes_shape (d : Device) (c : Cmd) : ∃ flags more, completionBytes d c =
    leBytes 1 (match c.failure with | some f => f.status | none => 0x00) ++ leBytes 2 c.tag ++ leBytes 4 flags ++ leBytes 8 (ent c.entry 0x10 8) ++ leBytes 8 d.now ++ more := by
  unfold completionBytes
  dsimp only
  simp only [List.append_assoc]
  exact ⟨_, _, rfl⟩

theorem Device.putRecord_read (d : Device) (q k : Nat) (r : List Byte) (h : r.length = 61) :
    (d.putRecord q k r).host.read (d.setting ((0x7100 + q) * 256 + 3) + 64 * (d.queue q).cqTail) 64 = BitVec.ofNat 8 (k + if (d.queue q).phase then 0x80 else 0) :: (r ++ [0, 0]) := by
  rw [Device.putRecord_host]
  generalize BitVec.ofNat 8 (k + if (d.queue q).phase = true then 128 else 0) = z
  have hl : padTo 64 (z :: r) = z :: (r ++ [0, 0]) := by
    simp [padTo, h, List.replicate]
  rw [hl]
  have h64 : (z :: (r ++ [0, 0])).length = 64 := by simp [h]
  have := Mem.read_write_same d.host (d.setting ((0x7100 + q) * 256 + 3) + 64 * (d.queue q).cqTail) (z :: (r ++ [0, 0]))
  rwa [h64] at this

theorem map_drop_tags (cs : List Cmd) (tag : Nat) (f : Cmd → Cmd) (hf : ∀ c, (f c).tag = c.tag) : ((cs.filter fun x => x.tag != tag).map f).map (·.tag) = (cs.map (·.tag)).filter (· != tag) := by
  induction cs with
  | nil => rfl
  | cons a r ih => simp only [List.filter, List.map_cons]; split <;> simp_all

theorem Device.wakeFabric_tags (a b : Device) : (a.wakeFabric b).cmds.map (·.tag) = b.cmds.map (·.tag) := by
  unfold Device.wakeFabric
  simp only [List.map_map]
  congr 1
  funext c
  simp only [Function.comp]
  split <;> rfl

/-- What the end of a command leaves (R250). -/
theorem Device.finish_fields (d : Device) (c : Cmd) (q : Fin 64) (hc : d.cmd c.tag = some c) (hq : c.qp = some q) :
    ∃ t, d.finish c.tag = t ∧ t.cmds.map (·.tag) = (d.cmds.map (·.tag)).filter (· != c.tag) ∧ t.tagsFree = insertTag c.tag d.tagsFree ∧
      (∃ flags more, t.host.read (d.setting ((0x7100 + q.val) * 256 + 3) + 64 * (d.queue q.val).cqTail) 64 =
        BitVec.ofNat 8 (2 + if (d.queue q.val).phase then 0x80 else 0) ::
          (leBytes 1 (match c.failure with | some f => f.status | none => 0x00) ++ leBytes 2 c.tag ++ leBytes 4 flags ++
            leBytes 8 (ent c.entry 0x10 8) ++ leBytes 8 d.now ++ more)) ∧
      ∀ k, k < 4096 → t.events.get 0 k = eventAfter c k (d.events.get 0 k) := by
  refine ⟨_, rfl, ?_⟩
  unfold Device.finish
  rw [hc]
  dsimp only
  have w1 : Device.Within (4429299712 ||| 131072) d (d.settleTokens.closeOut c).1 :=
    Device.closeOut_within _ _ (Device.settleTokens_within d (Device.Within.refl _ d) rfl) rfl
  generalize d.settleTokens.closeOut c = x1 at *
  generalize hcc : ({ c with flags := c.flags ||| flagIf x1.2 fLedger } : Cmd) = cc
  have e1 : cc.tag = c.tag := by rw [← hcc]
  have e2 : cc.entry = c.entry := by rw [← hcc]
  have e3 : cc.failure = c.failure := by rw [← hcc]
  have e4 : cc.qp = some q := by rw [← hcc]; exact hq
  have n1 : x1.1.now = d.now := Device.Within.part w1 .now (by decide)
  have n2 : x1.1.dict = d.dict := Device.Within.part w1 .dict (by decide)
  have n3 : x1.1.queues = d.queues := Device.Within.part w1 .queues (by decide)
  have n4 : x1.1.power = d.power := Device.Within.part w1 .power (by decide)
  have n5 : x1.1.events = d.events := Device.Within.part w1 .events (by decide)
  have n6 : x1.1.cmds = d.cmds := Device.Within.part w1 .cmds (by decide)
  have n7 : x1.1.tagsFree = d.tagsFree := Device.Within.part w1 .tagsFree (by decide)
  have hrec : ∃ flags more, (x1.1.report cc).host.read (d.setting ((0x7100 + q.val) * 256 + 3) + 64 * (d.queue q.val).cqTail) 64 =
        BitVec.ofNat 8 (2 + if (d.queue q.val).phase then 0x80 else 0) ::
          (leBytes 1 (match c.failure with | some f => f.status | none => 0x00) ++ leBytes 2 c.tag ++ leBytes 4 flags ++
            leBytes 8 (ent c.entry 0x10 8) ++ leBytes 8 d.now ++ more) := by
    obtain ⟨fl, more, hcb⟩ := completionBytes_shape x1.1 cc
    rw [e1, e2, e3, n1] at hcb
    refine ⟨fl, more ++ [0, 0], ?_⟩
    have hp := Device.putRecord_read x1.1 q.val 2 (completionBytes x1.1 cc) (completionBytes_length _ _)
    have q1 : x1.1.setting ((0x7100 + q.val) * 256 + 3) = d.setting ((0x7100 + q.val) * 256 + 3) := by simp only [Device.setting, n2, n4]
    have q2 : x1.1.queue q.val = d.queue q.val := by simp only [Device.queue, n3]
    rw [q1, q2] at hp
    rw [← List.append_assoc, ← hcb, ← hp]
    have h1 : (x1.1.writeCompletion cc).host = (x1.1.putRecord q.val 2 (completionBytes x1.1 cc)).host := by
      unfold Device.writeCompletion
      rw [e4]
      dsimp only
      split
      · rw [Device.raise_host, Device.drew_host]
      · rw [Device.drew_host]
    have h2 : (x1.1.report cc).host = (x1.1.writeCompletion cc).host := by
      have w : Device.Within (134217728 ||| 67108872) (x1.1.writeCompletion cc) (x1.1.report cc) := by
        unfold Device.report
        generalize x1.1.writeCompletion cc = dw
        have wa : ∀ n, Device.Within (134217728 ||| 67108872) dw (dw.count 0x807003 n) := fun n => Device.count_within dw 0x807003 n (Device.Within.refl _ dw) rfl
        dsimp only
        split
        · refine Device.count_within _ _ _ ?_ rfl
          split
          · exact Device.logEvent_within _ _ (Device.count_within _ _ _ (wa _) rfl) rfl
          · exact wa _
        · split
          · exact Device.logEvent_within _ _ (Device.count_within _ _ _ (wa _) rfl) rfl
          · exact wa _
      exact Device.Within.part w .host (by decide)
    rw [h2, h1]
  have w2 : Device.Within 6643843096 x1.1 (x1.1.report cc) := Device.report_within _ cc (Device.Within.refl _ _) rfl
  generalize x1.1.report cc = d2 at *
  have ev : ∀ k, k < 4096 → (d2.signal cc).events.get 0 k = eventAfter c k (d.events.get 0 k) := by
    have hev : d2.events = d.events := (show d2.events = x1.1.events from Device.Within.part w2 .events (by decide)).trans n5
    intro k hk
    unfold Device.signal
    rw [Device.addEvent_get _ _ _ _ hk, e2, e3]
    unfold eventAfter
    have h3 : (if c.failure.isSome = true then d2 else d2.eventEffect cc).events.get 0 k =
      if opcodeOf c.entry = 0x40 ∧ c.failure = none ∧ ent c.entry 0x20 2 = k then
        (if ent c.entry 0x22 1 = 0 then d.events.get 0 k + BitVec.ofNat 32 (ent c.entry 0x24 4) else 0) else d.events.get 0 k := by
      split
      · next hb => rw [if_neg (by intro h; rw [h.2.1] at hb; simp at hb), hev]
      · next hb =>
        have hn : c.failure = none := by simpa using hb
        rw [Device.eventEffect_get _ _ _ hk, e2, hev]
        simp only [hn, true_and]
    rw [h3]
    rfl
  have w3 : Device.Within 2048 d2 (d2.signal cc) := Device.signal_within _ _ (Device.Within.refl _ _) rfl
  generalize d2.signal cc = d3 at *
  have w4 : Device.Within 1183744 d3 (d3.giveBack cc) := Device.giveBack_within _ _ (Device.Within.refl _ _) rfl
  generalize d3.giveBack cc = d4 at *
  have all : ∀ p : Part, (6643843096 ||| 2048 ||| 1183744).testBit p.ctorIdx = false → Part.same x1.1 d4 p := by
    intro p hp
    cases p <;> first
      | exact absurd hp (by decide)
      | exact Part.same_trans (Part.same_trans (Device.Within.part w2 _ (by decide)) (Device.Within.part w3 _ (by decide))) (Device.Within.part w4 _ (by decide))
  refine ⟨?_, ?_, ?_, ?_⟩
  · rw [Device.wakeFabric_tags]
    unfold Device.drop
    dsimp only
    rw [map_drop_tags _ _ (fun x => { x with fences := x.fences.erase c.tag, waitsFor := x.waitsFor.erase c.tag }) (fun _ => rfl), show d4.cmds = x1.1.cmds from all .cmds (by decide), n6]
  · show insertTag c.tag d4.tagsFree = _
    rw [show d4.tagsFree = x1.1.tagsFree from all .tagsFree (by decide), n7]
  · have : d4.host = d2.host := (show d4.host = d3.host from Device.Within.part w4 .host (by decide)).trans (Device.Within.part w3 .host (by decide))
    show ∃ fl more, d4.host.read _ 64 = _
    rw [this]; exact hrec
  · intro k hk
    show d4.events.get 0 k = _
    rw [show d4.events = d3.events from Device.Within.part w4 .events (by decide)]; exact ev k hk

end Sys2Proof.Machine
end

