-- ==== Sys2Proof/Laws/Frames.lean ====
section
/-! SUPPORT. The fields of the state that each shared operation of recovery and reporting leaves as they were. -/

namespace Sys2Proof.Machine

set_option Elab.async false

/-! ### Device.raise -/

@[simp] theorem Device.raise_now (d : Device) (v : Nat) : (Device.raise d v).now = d.now := (Device.raise_within d v (Device.Within.refl 2147483648 _) (Nat.and_self _)).part .now (by decide)
@[simp] theorem Device.raise_stepCounter (d : Device) (v : Nat) : (Device.raise d v).stepCounter = d.stepCounter := (Device.raise_within d v (Device.Within.refl 2147483648 _) (Nat.and_self _)).part .stepCounter (by decide)
@[simp] theorem Device.raise_power (d : Device) (v : Nat) : (Device.raise d v).power = d.power := (Device.raise_within d v (Device.Within.refl 2147483648 _) (Nat.and_self _)).part .power (by decide)
@[simp] theorem Device.raise_dict (d : Device) (v : Nat) : (Device.raise d v).dict = d.dict := (Device.raise_within d v (Device.Within.refl 2147483648 _) (Nat.and_self _)).part .dict (by decide)
@[simp] theorem Device.raise_queues (d : Device) (v : Nat) : (Device.raise d v).queues = d.queues := (Device.raise_within d v (Device.Within.refl 2147483648 _) (Nat.and_self _)).part .queues (by decide)
@[simp] theorem Device.raise_fetched (d : Device) (v : Nat) : (Device.raise d v).fetched = d.fetched := (Device.raise_within d v (Device.Within.refl 2147483648 _) (Nat.and_self _)).part .fetched (by decide)
@[simp] theorem Device.raise_tagsFree (d : Device) (v : Nat) : (Device.raise d v).tagsFree = d.tagsFree := (Device.raise_within d v (Device.Within.refl 2147483648 _) (Nat.and_self _)).part .tagsFree (by decide)
@[simp] theorem Device.raise_cmds (d : Device) (v : Nat) : (Device.raise d v).cmds = d.cmds := (Device.raise_within d v (Device.Within.refl 2147483648 _) (Nat.and_self _)).part .cmds (by decide)
@[simp] theorem Device.raise_events (d : Device) (v : Nat) : (Device.raise d v).events = d.events := (Device.raise_within d v (Device.Within.refl 2147483648 _) (Nat.and_self _)).part .events (by decide)
@[simp] theorem Device.raise_ioBacklog (d : Device) (v : Nat) : (Device.raise d v).ioBacklog = d.ioBacklog := (Device.raise_within d v (Device.Within.refl 2147483648 _) (Nat.and_self _)).part .ioBacklog (by decide)
@[simp] theorem Device.raise_tiles (d : Device) (v : Nat) : (Device.raise d v).tiles = d.tiles := (Device.raise_within d v (Device.Within.refl 2147483648 _) (Nat.and_self _)).part .tiles (by decide)
@[simp] theorem Device.raise_mem (d : Device) (v : Nat) : (Device.raise d v).mem = d.mem := (Device.raise_within d v (Device.Within.refl 2147483648 _) (Nat.and_self _)).part .mem (by decide)
@[simp] theorem Device.raise_poison (d : Device) (v : Nat) : (Device.raise d v).poison = d.poison := (Device.raise_within d v (Device.Within.refl 2147483648 _) (Nat.and_self _)).part .poison (by decide)
@[simp] theorem Device.raise_bays (d : Device) (v : Nat) : (Device.raise d v).bays = d.bays := (Device.raise_within d v (Device.Within.refl 2147483648 _) (Nat.and_self _)).part .bays (by decide)
@[simp] theorem Device.raise_ports (d : Device) (v : Nat) : (Device.raise d v).ports = d.ports := (Device.raise_within d v (Device.Within.refl 2147483648 _) (Nat.and_self _)).part .ports (by decide)
@[simp] theorem Device.raise_streams (d : Device) (v : Nat) : (Device.raise d v).streams = d.streams := (Device.raise_within d v (Device.Within.refl 2147483648 _) (Nat.and_self _)).part .streams (by decide)
@[simp] theorem Device.raise_curSet (d : Device) (v : Nat) : (Device.raise d v).curSet = d.curSet := (Device.raise_within d v (Device.Within.refl 2147483648 _) (Nat.and_self _)).part .curSet (by decide)
@[simp] theorem Device.raise_verA (d : Device) (v : Nat) : (Device.raise d v).verA = d.verA := (Device.raise_within d v (Device.Within.refl 2147483648 _) (Nat.and_self _)).part .verA (by decide)
@[simp] theorem Device.raise_verB (d : Device) (v : Nat) : (Device.raise d v).verB = d.verB := (Device.raise_within d v (Device.Within.refl 2147483648 _) (Nat.and_self _)).part .verB (by decide)
@[simp] theorem Device.raise_pace (d : Device) (v : Nat) : (Device.raise d v).pace = d.pace := (Device.raise_within d v (Device.Within.refl 2147483648 _) (Nat.and_self _)).part .pace (by decide)
@[simp] theorem Device.raise_log (d : Device) (v : Nat) : (Device.raise d v).log = d.log := (Device.raise_within d v (Device.Within.refl 2147483648 _) (Nat.and_self _)).part .log (by decide)
@[simp] theorem Device.raise_flash (d : Device) (v : Nat) : (Device.raise d v).flash = d.flash := (Device.raise_within d v (Device.Within.refl 2147483648 _) (Nat.and_self _)).part .flash (by decide)
@[simp] theorem Device.raise_images (d : Device) (v : Nat) : (Device.raise d v).images = d.images := (Device.raise_within d v (Device.Within.refl 2147483648 _) (Nat.and_self _)).part .images (by decide)

/-! ### Device.alert -/

@[simp] theorem Device.alert_now (d : Device) (bit : Nat) : (Device.alert d bit).now = d.now := (Device.alert_within d bit (Device.Within.refl 2281701388 _) (Nat.and_self _)).part .now (by decide)
@[simp] theorem Device.alert_stepCounter (d : Device) (bit : Nat) : (Device.alert d bit).stepCounter = d.stepCounter := (Device.alert_within d bit (Device.Within.refl 2281701388 _) (Nat.and_self _)).part .stepCounter (by decide)
@[simp] theorem Device.alert_queues (d : Device) (bit : Nat) : (Device.alert d bit).queues = d.queues := (Device.alert_within d bit (Device.Within.refl 2281701388 _) (Nat.and_self _)).part .queues (by decide)
@[simp] theorem Device.alert_fetched (d : Device) (bit : Nat) : (Device.alert d bit).fetched = d.fetched := (Device.alert_within d bit (Device.Within.refl 2281701388 _) (Nat.and_self _)).part .fetched (by decide)
@[simp] theorem Device.alert_tagsFree (d : Device) (bit : Nat) : (Device.alert d bit).tagsFree = d.tagsFree := (Device.alert_within d bit (Device.Within.refl 2281701388 _) (Nat.and_self _)).part .tagsFree (by decide)
@[simp] theorem Device.alert_cmds (d : Device) (bit : Nat) : (Device.alert d bit).cmds = d.cmds := (Device.alert_within d bit (Device.Within.refl 2281701388 _) (Nat.and_self _)).part .cmds (by decide)
@[simp] theorem Device.alert_events (d : Device) (bit : Nat) : (Device.alert d bit).events = d.events := (Device.alert_within d bit (Device.Within.refl 2281701388 _) (Nat.and_self _)).part .events (by decide)
@[simp] theorem Device.alert_ioBacklog (d : Device) (bit : Nat) : (Device.alert d bit).ioBacklog = d.ioBacklog := (Device.alert_within d bit (Device.Within.refl 2281701388 _) (Nat.and_self _)).part .ioBacklog (by decide)
@[simp] theorem Device.alert_tiles (d : Device) (bit : Nat) : (Device.alert d bit).tiles = d.tiles := (Device.alert_within d bit (Device.Within.refl 2281701388 _) (Nat.and_self _)).part .tiles (by decide)
@[simp] theorem Device.alert_mem (d : Device) (bit : Nat) : (Device.alert d bit).mem = d.mem := (Device.alert_within d bit (Device.Within.refl 2281701388 _) (Nat.and_self _)).part .mem (by decide)
@[simp] theorem Device.alert_poison (d : Device) (bit : Nat) : (Device.alert d bit).poison = d.poison := (Device.alert_within d bit (Device.Within.refl 2281701388 _) (Nat.and_self _)).part .poison (by decide)
@[simp] theorem Device.alert_host (d : Device) (bit : Nat) : (Device.alert d bit).host = d.host := (Device.alert_within d bit (Device.Within.refl 2281701388 _) (Nat.and_self _)).part .host (by decide)
@[simp] theorem Device.alert_bays (d : Device) (bit : Nat) : (Device.alert d bit).bays = d.bays := (Device.alert_within d bit (Device.Within.refl 2281701388 _) (Nat.and_self _)).part .bays (by decide)
@[simp] theorem Device.alert_ports (d : Device) (bit : Nat) : (Device.alert d bit).ports = d.ports := (Device.alert_within d bit (Device.Within.refl 2281701388 _) (Nat.and_self _)).part .ports (by decide)
@[simp] theorem Device.alert_streams (d : Device) (bit : Nat) : (Device.alert d bit).streams = d.streams := (Device.alert_within d bit (Device.Within.refl 2281701388 _) (Nat.and_self _)).part .streams (by decide)
@[simp] theorem Device.alert_curSet (d : Device) (bit : Nat) : (Device.alert d bit).curSet = d.curSet := (Device.alert_within d bit (Device.Within.refl 2281701388 _) (Nat.and_self _)).part .curSet (by decide)
@[simp] theorem Device.alert_verA (d : Device) (bit : Nat) : (Device.alert d bit).verA = d.verA := (Device.alert_within d bit (Device.Within.refl 2281701388 _) (Nat.and_self _)).part .verA (by decide)
@[simp] theorem Device.alert_verB (d : Device) (bit : Nat) : (Device.alert d bit).verB = d.verB := (Device.alert_within d bit (Device.Within.refl 2281701388 _) (Nat.and_self _)).part .verB (by decide)
@[simp] theorem Device.alert_pace (d : Device) (bit : Nat) : (Device.alert d bit).pace = d.pace := (Device.alert_within d bit (Device.Within.refl 2281701388 _) (Nat.and_self _)).part .pace (by decide)
@[simp] theorem Device.alert_log (d : Device) (bit : Nat) : (Device.alert d bit).log = d.log := (Device.alert_within d bit (Device.Within.refl 2281701388 _) (Nat.and_self _)).part .log (by decide)
@[simp] theorem Device.alert_flash (d : Device) (bit : Nat) : (Device.alert d bit).flash = d.flash := (Device.alert_within d bit (Device.Within.refl 2281701388 _) (Nat.and_self _)).part .flash (by decide)
@[simp] theorem Device.alert_images (d : Device) (bit : Nat) : (Device.alert d bit).images = d.images := (Device.alert_within d bit (Device.Within.refl 2281701388 _) (Nat.and_self _)).part .images (by decide)

/-! ### Device.logEvent -/

@[simp] theorem Device.logEvent_now (d : Device) (e : Event) : (Device.logEvent d e).now = d.now := (Device.logEvent_within d e (Device.Within.refl 67108872 _) (Nat.and_self _)).part .now (by decide)
@[simp] theorem Device.logEvent_stepCounter (d : Device) (e : Event) : (Device.logEvent d e).stepCounter = d.stepCounter := (Device.logEvent_within d e (Device.Within.refl 67108872 _) (Nat.and_self _)).part .stepCounter (by decide)
@[simp] theorem Device.logEvent_power (d : Device) (e : Event) : (Device.logEvent d e).power = d.power := (Device.logEvent_within d e (Device.Within.refl 67108872 _) (Nat.and_self _)).part .power (by decide)
@[simp] theorem Device.logEvent_queues (d : Device) (e : Event) : (Device.logEvent d e).queues = d.queues := (Device.logEvent_within d e (Device.Within.refl 67108872 _) (Nat.and_self _)).part .queues (by decide)
@[simp] theorem Device.logEvent_fetched (d : Device) (e : Event) : (Device.logEvent d e).fetched = d.fetched := (Device.logEvent_within d e (Device.Within.refl 67108872 _) (Nat.and_self _)).part .fetched (by decide)
@[simp] theorem Device.logEvent_tagsFree (d : Device) (e : Event) : (Device.logEvent d e).tagsFree = d.tagsFree := (Device.logEvent_within d e (Device.Within.refl 67108872 _) (Nat.and_self _)).part .tagsFree (by decide)
@[simp] theorem Device.logEvent_cmds (d : Device) (e : Event) : (Device.logEvent d e).cmds = d.cmds := (Device.logEvent_within d e (Device.Within.refl 67108872 _) (Nat.and_self _)).part .cmds (by decide)
@[simp] theorem Device.logEvent_events (d : Device) (e : Event) : (Device.logEvent d e).events = d.events := (Device.logEvent_within d e (Device.Within.refl 67108872 _) (Nat.and_self _)).part .events (by decide)
@[simp] theorem Device.logEvent_ioBacklog (d : Device) (e : Event) : (Device.logEvent d e).ioBacklog = d.ioBacklog := (Device.logEvent_within d e (Device.Within.refl 67108872 _) (Nat.and_self _)).part .ioBacklog (by decide)
@[simp] theorem Device.logEvent_tiles (d : Device) (e : Event) : (Device.logEvent d e).tiles = d.tiles := (Device.logEvent_within d e (Device.Within.refl 67108872 _) (Nat.and_self _)).part .tiles (by decide)
@[simp] theorem Device.logEvent_mem (d : Device) (e : Event) : (Device.logEvent d e).mem = d.mem := (Device.logEvent_within d e (Device.Within.refl 67108872 _) (Nat.and_self _)).part .mem (by decide)
@[simp] theorem Device.logEvent_poison (d : Device) (e : Event) : (Device.logEvent d e).poison = d.poison := (Device.logEvent_within d e (Device.Within.refl 67108872 _) (Nat.and_self _)).part .poison (by decide)
@[simp] theorem Device.logEvent_host (d : Device) (e : Event) : (Device.logEvent d e).host = d.host := (Device.logEvent_within d e (Device.Within.refl 67108872 _) (Nat.and_self _)).part .host (by decide)
@[simp] theorem Device.logEvent_bays (d : Device) (e : Event) : (Device.logEvent d e).bays = d.bays := (Device.logEvent_within d e (Device.Within.refl 67108872 _) (Nat.and_self _)).part .bays (by decide)
@[simp] theorem Device.logEvent_ports (d : Device) (e : Event) : (Device.logEvent d e).ports = d.ports := (Device.logEvent_within d e (Device.Within.refl 67108872 _) (Nat.and_self _)).part .ports (by decide)
@[simp] theorem Device.logEvent_streams (d : Device) (e : Event) : (Device.logEvent d e).streams = d.streams := (Device.logEvent_within d e (Device.Within.refl 67108872 _) (Nat.and_self _)).part .streams (by decide)
@[simp] theorem Device.logEvent_curSet (d : Device) (e : Event) : (Device.logEvent d e).curSet = d.curSet := (Device.logEvent_within d e (Device.Within.refl 67108872 _) (Nat.and_self _)).part .curSet (by decide)
@[simp] theorem Device.logEvent_verA (d : Device) (e : Event) : (Device.logEvent d e).verA = d.verA := (Device.logEvent_within d e (Device.Within.refl 67108872 _) (Nat.and_self _)).part .verA (by decide)
@[simp] theorem Device.logEvent_verB (d : Device) (e : Event) : (Device.logEvent d e).verB = d.verB := (Device.logEvent_within d e (Device.Within.refl 67108872 _) (Nat.and_self _)).part .verB (by decide)
@[simp] theorem Device.logEvent_pace (d : Device) (e : Event) : (Device.logEvent d e).pace = d.pace := (Device.logEvent_within d e (Device.Within.refl 67108872 _) (Nat.and_self _)).part .pace (by decide)
@[simp] theorem Device.logEvent_safety (d : Device) (e : Event) : (Device.logEvent d e).safety = d.safety := (Device.logEvent_within d e (Device.Within.refl 67108872 _) (Nat.and_self _)).part .safety (by decide)
@[simp] theorem Device.logEvent_flash (d : Device) (e : Event) : (Device.logEvent d e).flash = d.flash := (Device.logEvent_within d e (Device.Within.refl 67108872 _) (Nat.and_self _)).part .flash (by decide)
@[simp] theorem Device.logEvent_images (d : Device) (e : Event) : (Device.logEvent d e).images = d.images := (Device.logEvent_within d e (Device.Within.refl 67108872 _) (Nat.and_self _)).part .images (by decide)
@[simp] theorem Device.logEvent_out (d : Device) (e : Event) : (Device.logEvent d e).out = d.out := (Device.logEvent_within d e (Device.Within.refl 67108872 _) (Nat.and_self _)).part .out (by decide)

/-! ### Device.abortBut -/

@[simp] theorem Device.abortBut_now (d : Device) (c : Cmd) (skip : Nat) : (Device.abortBut d c skip).now = d.now := (Device.abortBut_within d c skip (Device.Within.refl 135266304 _) (Nat.and_self _)).part .now (by decide)
@[simp] theorem Device.abortBut_stepCounter (d : Device) (c : Cmd) (skip : Nat) : (Device.abortBut d c skip).stepCounter = d.stepCounter := (Device.abortBut_within d c skip (Device.Within.refl 135266304 _) (Nat.and_self _)).part .stepCounter (by decide)
@[simp] theorem Device.abortBut_power (d : Device) (c : Cmd) (skip : Nat) : (Device.abortBut d c skip).power = d.power := (Device.abortBut_within d c skip (Device.Within.refl 135266304 _) (Nat.and_self _)).part .power (by decide)
@[simp] theorem Device.abortBut_dict (d : Device) (c : Cmd) (skip : Nat) : (Device.abortBut d c skip).dict = d.dict := (Device.abortBut_within d c skip (Device.Within.refl 135266304 _) (Nat.and_self _)).part .dict (by decide)
@[simp] theorem Device.abortBut_queues (d : Device) (c : Cmd) (skip : Nat) : (Device.abortBut d c skip).queues = d.queues := (Device.abortBut_within d c skip (Device.Within.refl 135266304 _) (Nat.and_self _)).part .queues (by decide)
@[simp] theorem Device.abortBut_fetched (d : Device) (c : Cmd) (skip : Nat) : (Device.abortBut d c skip).fetched = d.fetched := (Device.abortBut_within d c skip (Device.Within.refl 135266304 _) (Nat.and_self _)).part .fetched (by decide)
@[simp] theorem Device.abortBut_tagsFree (d : Device) (c : Cmd) (skip : Nat) : (Device.abortBut d c skip).tagsFree = d.tagsFree := (Device.abortBut_within d c skip (Device.Within.refl 135266304 _) (Nat.and_self _)).part .tagsFree (by decide)
@[simp] theorem Device.abortBut_cmds (d : Device) (c : Cmd) (skip : Nat) : (Device.abortBut d c skip).cmds = d.cmds := (Device.abortBut_within d c skip (Device.Within.refl 135266304 _) (Nat.and_self _)).part .cmds (by decide)
@[simp] theorem Device.abortBut_events (d : Device) (c : Cmd) (skip : Nat) : (Device.abortBut d c skip).events = d.events := (Device.abortBut_within d c skip (Device.Within.refl 135266304 _) (Nat.and_self _)).part .events (by decide)
@[simp] theorem Device.abortBut_ioBacklog (d : Device) (c : Cmd) (skip : Nat) : (Device.abortBut d c skip).ioBacklog = d.ioBacklog := (Device.abortBut_within d c skip (Device.Within.refl 135266304 _) (Nat.and_self _)).part .ioBacklog (by decide)
@[simp] theorem Device.abortBut_tiles (d : Device) (c : Cmd) (skip : Nat) : (Device.abortBut d c skip).tiles = d.tiles := (Device.abortBut_within d c skip (Device.Within.refl 135266304 _) (Nat.and_self _)).part .tiles (by decide)
@[simp] theorem Device.abortBut_mem (d : Device) (c : Cmd) (skip : Nat) : (Device.abortBut d c skip).mem = d.mem := (Device.abortBut_within d c skip (Device.Within.refl 135266304 _) (Nat.and_self _)).part .mem (by decide)
@[simp] theorem Device.abortBut_poison (d : Device) (c : Cmd) (skip : Nat) : (Device.abortBut d c skip).poison = d.poison := (Device.abortBut_within d c skip (Device.Within.refl 135266304 _) (Nat.and_self _)).part .poison (by decide)
@[simp] theorem Device.abortBut_host (d : Device) (c : Cmd) (skip : Nat) : (Device.abortBut d c skip).host = d.host := (Device.abortBut_within d c skip (Device.Within.refl 135266304 _) (Nat.and_self _)).part .host (by decide)
@[simp] theorem Device.abortBut_bays (d : Device) (c : Cmd) (skip : Nat) : (Device.abortBut d c skip).bays = d.bays := (Device.abortBut_within d c skip (Device.Within.refl 135266304 _) (Nat.and_self _)).part .bays (by decide)
@[simp] theorem Device.abortBut_streams (d : Device) (c : Cmd) (skip : Nat) : (Device.abortBut d c skip).streams = d.streams := (Device.abortBut_within d c skip (Device.Within.refl 135266304 _) (Nat.and_self _)).part .streams (by decide)
@[simp] theorem Device.abortBut_curSet (d : Device) (c : Cmd) (skip : Nat) : (Device.abortBut d c skip).curSet = d.curSet := (Device.abortBut_within d c skip (Device.Within.refl 135266304 _) (Nat.and_self _)).part .curSet (by decide)
@[simp] theorem Device.abortBut_verA (d : Device) (c : Cmd) (skip : Nat) : (Device.abortBut d c skip).verA = d.verA := (Device.abortBut_within d c skip (Device.Within.refl 135266304 _) (Nat.and_self _)).part .verA (by decide)
@[simp] theorem Device.abortBut_verB (d : Device) (c : Cmd) (skip : Nat) : (Device.abortBut d c skip).verB = d.verB := (Device.abortBut_within d c skip (Device.Within.refl 135266304 _) (Nat.and_self _)).part .verB (by decide)
@[simp] theorem Device.abortBut_pace (d : Device) (c : Cmd) (skip : Nat) : (Device.abortBut d c skip).pace = d.pace := (Device.abortBut_within d c skip (Device.Within.refl 135266304 _) (Nat.and_self _)).part .pace (by decide)
@[simp] theorem Device.abortBut_log (d : Device) (c : Cmd) (skip : Nat) : (Device.abortBut d c skip).log = d.log := (Device.abortBut_within d c skip (Device.Within.refl 135266304 _) (Nat.and_self _)).part .log (by decide)
@[simp] theorem Device.abortBut_flash (d : Device) (c : Cmd) (skip : Nat) : (Device.abortBut d c skip).flash = d.flash := (Device.abortBut_within d c skip (Device.Within.refl 135266304 _) (Nat.and_self _)).part .flash (by decide)
@[simp] theorem Device.abortBut_images (d : Device) (c : Cmd) (skip : Nat) : (Device.abortBut d c skip).images = d.images := (Device.abortBut_within d c skip (Device.Within.refl 135266304 _) (Nat.and_self _)).part .images (by decide)
@[simp] theorem Device.abortBut_out (d : Device) (c : Cmd) (skip : Nat) : (Device.abortBut d c skip).out = d.out := (Device.abortBut_within d c skip (Device.Within.refl 135266304 _) (Nat.and_self _)).part .out (by decide)

/-! ### Device.abort -/

@[simp] theorem Device.abort_now (d : Device) (c : Cmd) : (Device.abort d c).now = d.now := (Device.abort_within d c (Device.Within.refl 135266304 _) (Nat.and_self _)).part .now (by decide)
@[simp] theorem Device.abort_stepCounter (d : Device) (c : Cmd) : (Device.abort d c).stepCounter = d.stepCounter := (Device.abort_within d c (Device.Within.refl 135266304 _) (Nat.and_self _)).part .stepCounter (by decide)
@[simp] theorem Device.abort_power (d : Device) (c : Cmd) : (Device.abort d c).power = d.power := (Device.abort_within d c (Device.Within.refl 135266304 _) (Nat.and_self _)).part .power (by decide)
@[simp] theorem Device.abort_dict (d : Device) (c : Cmd) : (Device.abort d c).dict = d.dict := (Device.abort_within d c (Device.Within.refl 135266304 _) (Nat.and_self _)).part .dict (by decide)
@[simp] theorem Device.abort_queues (d : Device) (c : Cmd) : (Device.abort d c).queues = d.queues := (Device.abort_within d c (Device.Within.refl 135266304 _) (Nat.and_self _)).part .queues (by decide)
@[simp] theorem Device.abort_fetched (d : Device) (c : Cmd) : (Device.abort d c).fetched = d.fetched := (Device.abort_within d c (Device.Within.refl 135266304 _) (Nat.and_self _)).part .fetched (by decide)
@[simp] theorem Device.abort_tagsFree (d : Device) (c : Cmd) : (Device.abort d c).tagsFree = d.tagsFree := (Device.abort_within d c (Device.Within.refl 135266304 _) (Nat.and_self _)).part .tagsFree (by decide)
@[simp] theorem Device.abort_cmds (d : Device) (c : Cmd) : (Device.abort d c).cmds = d.cmds := (Device.abort_within d c (Device.Within.refl 135266304 _) (Nat.and_self _)).part .cmds (by decide)
@[simp] theorem Device.abort_events (d : Device) (c : Cmd) : (Device.abort d c).events = d.events := (Device.abort_within d c (Device.Within.refl 135266304 _) (Nat.and_self _)).part .events (by decide)
@[simp] theorem Device.abort_ioBacklog (d : Device) (c : Cmd) : (Device.abort d c).ioBacklog = d.ioBacklog := (Device.abort_within d c (Device.Within.refl 135266304 _) (Nat.and_self _)).part .ioBacklog (by decide)
@[simp] theorem Device.abort_tiles (d : Device) (c : Cmd) : (Device.abort d c).tiles = d.tiles := (Device.abort_within d c (Device.Within.refl 135266304 _) (Nat.and_self _)).part .tiles (by decide)
@[simp] theorem Device.abort_mem (d : Device) (c : Cmd) : (Device.abort d c).mem = d.mem := (Device.abort_within d c (Device.Within.refl 135266304 _) (Nat.and_self _)).part .mem (by decide)
@[simp] theorem Device.abort_poison (d : Device) (c : Cmd) : (Device.abort d c).poison = d.poison := (Device.abort_within d c (Device.Within.refl 135266304 _) (Nat.and_self _)).part .poison (by decide)
@[simp] theorem Device.abort_host (d : Device) (c : Cmd) : (Device.abort d c).host = d.host := (Device.abort_within d c (Device.Within.refl 135266304 _) (Nat.and_self _)).part .host (by decide)
@[simp] theorem Device.abort_bays (d : Device) (c : Cmd) : (Device.abort d c).bays = d.bays := (Device.abort_within d c (Device.Within.refl 135266304 _) (Nat.and_self _)).part .bays (by decide)
@[simp] theorem Device.abort_streams (d : Device) (c : Cmd) : (Device.abort d c).streams = d.streams := (Device.abort_within d c (Device.Within.refl 135266304 _) (Nat.and_self _)).part .streams (by decide)
@[simp] theorem Device.abort_curSet (d : Device) (c : Cmd) : (Device.abort d c).curSet = d.curSet := (Device.abort_within d c (Device.Within.refl 135266304 _) (Nat.and_self _)).part .curSet (by decide)
@[simp] theorem Device.abort_verA (d : Device) (c : Cmd) : (Device.abort d c).verA = d.verA := (Device.abort_within d c (Device.Within.refl 135266304 _) (Nat.and_self _)).part .verA (by decide)
@[simp] theorem Device.abort_verB (d : Device) (c : Cmd) : (Device.abort d c).verB = d.verB := (Device.abort_within d c (Device.Within.refl 135266304 _) (Nat.and_self _)).part .verB (by decide)
@[simp] theorem Device.abort_pace (d : Device) (c : Cmd) : (Device.abort d c).pace = d.pace := (Device.abort_within d c (Device.Within.refl 135266304 _) (Nat.and_self _)).part .pace (by decide)
@[simp] theorem Device.abort_log (d : Device) (c : Cmd) : (Device.abort d c).log = d.log := (Device.abort_within d c (Device.Within.refl 135266304 _) (Nat.and_self _)).part .log (by decide)
@[simp] theorem Device.abort_flash (d : Device) (c : Cmd) : (Device.abort d c).flash = d.flash := (Device.abort_within d c (Device.Within.refl 135266304 _) (Nat.and_self _)).part .flash (by decide)
@[simp] theorem Device.abort_images (d : Device) (c : Cmd) : (Device.abort d c).images = d.images := (Device.abort_within d c (Device.Within.refl 135266304 _) (Nat.and_self _)).part .images (by decide)
@[simp] theorem Device.abort_out (d : Device) (c : Cmd) : (Device.abort d c).out = d.out := (Device.abort_within d c (Device.Within.refl 135266304 _) (Nat.and_self _)).part .out (by decide)

/-! ### Device.failCmd -/

@[simp] theorem Device.failCmd_now (d : Device) (tag : Nat) (status : Nat) (cause : Nat) (bay : Nat) : (Device.failCmd d tag status cause bay).now = d.now := (Device.failCmd_within d tag status cause bay (Device.Within.refl 201466376 _) (Nat.and_self _)).part .now (by decide)
@[simp] theorem Device.failCmd_stepCounter (d : Device) (tag : Nat) (status : Nat) (cause : Nat) (bay : Nat) : (Device.failCmd d tag status cause bay).stepCounter = d.stepCounter := (Device.failCmd_within d tag status cause bay (Device.Within.refl 201466376 _) (Nat.and_self _)).part .stepCounter (by decide)
@[simp] theorem Device.failCmd_power (d : Device) (tag : Nat) (status : Nat) (cause : Nat) (bay : Nat) : (Device.failCmd d tag status cause bay).power = d.power := (Device.failCmd_within d tag status cause bay (Device.Within.refl 201466376 _) (Nat.and_self _)).part .power (by decide)
@[simp] theorem Device.failCmd_queues (d : Device) (tag : Nat) (status : Nat) (cause : Nat) (bay : Nat) : (Device.failCmd d tag status cause bay).queues = d.queues := (Device.failCmd_within d tag status cause bay (Device.Within.refl 201466376 _) (Nat.and_self _)).part .queues (by decide)
@[simp] theorem Device.failCmd_fetched (d : Device) (tag : Nat) (status : Nat) (cause : Nat) (bay : Nat) : (Device.failCmd d tag status cause bay).fetched = d.fetched := (Device.failCmd_within d tag status cause bay (Device.Within.refl 201466376 _) (Nat.and_self _)).part .fetched (by decide)
@[simp] theorem Device.failCmd_tagsFree (d : Device) (tag : Nat) (status : Nat) (cause : Nat) (bay : Nat) : (Device.failCmd d tag status cause bay).tagsFree = d.tagsFree := (Device.failCmd_within d tag status cause bay (Device.Within.refl 201466376 _) (Nat.and_self _)).part .tagsFree (by decide)
@[simp] theorem Device.failCmd_events (d : Device) (tag : Nat) (status : Nat) (cause : Nat) (bay : Nat) : (Device.failCmd d tag status cause bay).events = d.events := (Device.failCmd_within d tag status cause bay (Device.Within.refl 201466376 _) (Nat.and_self _)).part .events (by decide)
@[simp] theorem Device.failCmd_ioBacklog (d : Device) (tag : Nat) (status : Nat) (cause : Nat) (bay : Nat) : (Device.failCmd d tag status cause bay).ioBacklog = d.ioBacklog := (Device.failCmd_within d tag status cause bay (Device.Within.refl 201466376 _) (Nat.and_self _)).part .ioBacklog (by decide)
@[simp] theorem Device.failCmd_mem (d : Device) (tag : Nat) (status : Nat) (cause : Nat) (bay : Nat) : (Device.failCmd d tag status cause bay).mem = d.mem := (Device.failCmd_within d tag status cause bay (Device.Within.refl 201466376 _) (Nat.and_self _)).part .mem (by decide)
@[simp] theorem Device.failCmd_poison (d : Device) (tag : Nat) (status : Nat) (cause : Nat) (bay : Nat) : (Device.failCmd d tag status cause bay).poison = d.poison := (Device.failCmd_within d tag status cause bay (Device.Within.refl 201466376 _) (Nat.and_self _)).part .poison (by decide)
@[simp] theorem Device.failCmd_host (d : Device) (tag : Nat) (status : Nat) (cause : Nat) (bay : Nat) : (Device.failCmd d tag status cause bay).host = d.host := (Device.failCmd_within d tag status cause bay (Device.Within.refl 201466376 _) (Nat.and_self _)).part .host (by decide)
@[simp] theorem Device.failCmd_ports (d : Device) (tag : Nat) (status : Nat) (cause : Nat) (bay : Nat) : (Device.failCmd d tag status cause bay).ports = d.ports := (Device.failCmd_within d tag status cause bay (Device.Within.refl 201466376 _) (Nat.and_self _)).part .ports (by decide)
@[simp] theorem Device.failCmd_streams (d : Device) (tag : Nat) (status : Nat) (cause : Nat) (bay : Nat) : (Device.failCmd d tag status cause bay).streams = d.streams := (Device.failCmd_within d tag status cause bay (Device.Within.refl 201466376 _) (Nat.and_self _)).part .streams (by decide)
@[simp] theorem Device.failCmd_curSet (d : Device) (tag : Nat) (status : Nat) (cause : Nat) (bay : Nat) : (Device.failCmd d tag status cause bay).curSet = d.curSet := (Device.failCmd_within d tag status cause bay (Device.Within.refl 201466376 _) (Nat.and_self _)).part .curSet (by decide)
@[simp] theorem Device.failCmd_verA (d : Device) (tag : Nat) (status : Nat) (cause : Nat) (bay : Nat) : (Device.failCmd d tag status cause bay).verA = d.verA := (Device.failCmd_within d tag status cause bay (Device.Within.refl 201466376 _) (Nat.and_self _)).part .verA (by decide)
@[simp] theorem Device.failCmd_verB (d : Device) (tag : Nat) (status : Nat) (cause : Nat) (bay : Nat) : (Device.failCmd d tag status cause bay).verB = d.verB := (Device.failCmd_within d tag status cause bay (Device.Within.refl 201466376 _) (Nat.and_self _)).part .verB (by decide)
@[simp] theorem Device.failCmd_pace (d : Device) (tag : Nat) (status : Nat) (cause : Nat) (bay : Nat) : (Device.failCmd d tag status cause bay).pace = d.pace := (Device.failCmd_within d tag status cause bay (Device.Within.refl 201466376 _) (Nat.and_self _)).part .pace (by decide)
@[simp] theorem Device.failCmd_flash (d : Device) (tag : Nat) (status : Nat) (cause : Nat) (bay : Nat) : (Device.failCmd d tag status cause bay).flash = d.flash := (Device.failCmd_within d tag status cause bay (Device.Within.refl 201466376 _) (Nat.and_self _)).part .flash (by decide)
@[simp] theorem Device.failCmd_images (d : Device) (tag : Nat) (status : Nat) (cause : Nat) (bay : Nat) : (Device.failCmd d tag status cause bay).images = d.images := (Device.failCmd_within d tag status cause bay (Device.Within.refl 201466376 _) (Nat.and_self _)).part .images (by decide)
@[simp] theorem Device.failCmd_out (d : Device) (tag : Nat) (status : Nat) (cause : Nat) (bay : Nat) : (Device.failCmd d tag status cause bay).out = d.out := (Device.failCmd_within d tag status cause bay (Device.Within.refl 201466376 _) (Nat.and_self _)).part .out (by decide)

/-! ### Device.stopPort -/

@[simp] theorem Device.stopPort_now (d : Device) (k : Nat) : (Device.stopPort d k).now = d.now := (Device.stopPort_within d k (Device.Within.refl 1049088 _) (Nat.and_self _)).part .now (by decide)
@[simp] theorem Device.stopPort_stepCounter (d : Device) (k : Nat) : (Device.stopPort d k).stepCounter = d.stepCounter := (Device.stopPort_within d k (Device.Within.refl 1049088 _) (Nat.and_self _)).part .stepCounter (by decide)
@[simp] theorem Device.stopPort_power (d : Device) (k : Nat) : (Device.stopPort d k).power = d.power := (Device.stopPort_within d k (Device.Within.refl 1049088 _) (Nat.and_self _)).part .power (by decide)
@[simp] theorem Device.stopPort_dict (d : Device) (k : Nat) : (Device.stopPort d k).dict = d.dict := (Device.stopPort_within d k (Device.Within.refl 1049088 _) (Nat.and_self _)).part .dict (by decide)
@[simp] theorem Device.stopPort_queues (d : Device) (k : Nat) : (Device.stopPort d k).queues = d.queues := (Device.stopPort_within d k (Device.Within.refl 1049088 _) (Nat.and_self _)).part .queues (by decide)
@[simp] theorem Device.stopPort_fetched (d : Device) (k : Nat) : (Device.stopPort d k).fetched = d.fetched := (Device.stopPort_within d k (Device.Within.refl 1049088 _) (Nat.and_self _)).part .fetched (by decide)
@[simp] theorem Device.stopPort_tagsFree (d : Device) (k : Nat) : (Device.stopPort d k).tagsFree = d.tagsFree := (Device.stopPort_within d k (Device.Within.refl 1049088 _) (Nat.and_self _)).part .tagsFree (by decide)
@[simp] theorem Device.stopPort_events (d : Device) (k : Nat) : (Device.stopPort d k).events = d.events := (Device.stopPort_within d k (Device.Within.refl 1049088 _) (Nat.and_self _)).part .events (by decide)
@[simp] theorem Device.stopPort_ioBacklog (d : Device) (k : Nat) : (Device.stopPort d k).ioBacklog = d.ioBacklog := (Device.stopPort_within d k (Device.Within.refl 1049088 _) (Nat.and_self _)).part .ioBacklog (by decide)
@[simp] theorem Device.stopPort_tiles (d : Device) (k : Nat) : (Device.stopPort d k).tiles = d.tiles := (Device.stopPort_within d k (Device.Within.refl 1049088 _) (Nat.and_self _)).part .tiles (by decide)
@[simp] theorem Device.stopPort_mem (d : Device) (k : Nat) : (Device.stopPort d k).mem = d.mem := (Device.stopPort_within d k (Device.Within.refl 1049088 _) (Nat.and_self _)).part .mem (by decide)
@[simp] theorem Device.stopPort_poison (d : Device) (k : Nat) : (Device.stopPort d k).poison = d.poison := (Device.stopPort_within d k (Device.Within.refl 1049088 _) (Nat.and_self _)).part .poison (by decide)
@[simp] theorem Device.stopPort_host (d : Device) (k : Nat) : (Device.stopPort d k).host = d.host := (Device.stopPort_within d k (Device.Within.refl 1049088 _) (Nat.and_self _)).part .host (by decide)
@[simp] theorem Device.stopPort_bays (d : Device) (k : Nat) : (Device.stopPort d k).bays = d.bays := (Device.stopPort_within d k (Device.Within.refl 1049088 _) (Nat.and_self _)).part .bays (by decide)
@[simp] theorem Device.stopPort_streams (d : Device) (k : Nat) : (Device.stopPort d k).streams = d.streams := (Device.stopPort_within d k (Device.Within.refl 1049088 _) (Nat.and_self _)).part .streams (by decide)
@[simp] theorem Device.stopPort_curSet (d : Device) (k : Nat) : (Device.stopPort d k).curSet = d.curSet := (Device.stopPort_within d k (Device.Within.refl 1049088 _) (Nat.and_self _)).part .curSet (by decide)
@[simp] theorem Device.stopPort_verA (d : Device) (k : Nat) : (Device.stopPort d k).verA = d.verA := (Device.stopPort_within d k (Device.Within.refl 1049088 _) (Nat.and_self _)).part .verA (by decide)
@[simp] theorem Device.stopPort_verB (d : Device) (k : Nat) : (Device.stopPort d k).verB = d.verB := (Device.stopPort_within d k (Device.Within.refl 1049088 _) (Nat.and_self _)).part .verB (by decide)
@[simp] theorem Device.stopPort_pace (d : Device) (k : Nat) : (Device.stopPort d k).pace = d.pace := (Device.stopPort_within d k (Device.Within.refl 1049088 _) (Nat.and_self _)).part .pace (by decide)
@[simp] theorem Device.stopPort_log (d : Device) (k : Nat) : (Device.stopPort d k).log = d.log := (Device.stopPort_within d k (Device.Within.refl 1049088 _) (Nat.and_self _)).part .log (by decide)
@[simp] theorem Device.stopPort_safety (d : Device) (k : Nat) : (Device.stopPort d k).safety = d.safety := (Device.stopPort_within d k (Device.Within.refl 1049088 _) (Nat.and_self _)).part .safety (by decide)
@[simp] theorem Device.stopPort_flash (d : Device) (k : Nat) : (Device.stopPort d k).flash = d.flash := (Device.stopPort_within d k (Device.Within.refl 1049088 _) (Nat.and_self _)).part .flash (by decide)
@[simp] theorem Device.stopPort_images (d : Device) (k : Nat) : (Device.stopPort d k).images = d.images := (Device.stopPort_within d k (Device.Within.refl 1049088 _) (Nat.and_self _)).part .images (by decide)
@[simp] theorem Device.stopPort_out (d : Device) (k : Nat) : (Device.stopPort d k).out = d.out := (Device.stopPort_within d k (Device.Within.refl 1049088 _) (Nat.and_self _)).part .out (by decide)

/-! ### Device.failBay -/

@[simp] theorem Device.failBay_now (d : Device) (k : Nat) (cause : Nat) : (Device.failBay d k cause).now = d.now := (Device.failBay_within d k cause (Device.Within.refl 202514952 _) (Nat.and_self _)).part .now (by decide)
@[simp] theorem Device.failBay_stepCounter (d : Device) (k : Nat) (cause : Nat) : (Device.failBay d k cause).stepCounter = d.stepCounter := (Device.failBay_within d k cause (Device.Within.refl 202514952 _) (Nat.and_self _)).part .stepCounter (by decide)
@[simp] theorem Device.failBay_power (d : Device) (k : Nat) (cause : Nat) : (Device.failBay d k cause).power = d.power := (Device.failBay_within d k cause (Device.Within.refl 202514952 _) (Nat.and_self _)).part .power (by decide)
@[simp] theorem Device.failBay_queues (d : Device) (k : Nat) (cause : Nat) : (Device.failBay d k cause).queues = d.queues := (Device.failBay_within d k cause (Device.Within.refl 202514952 _) (Nat.and_self _)).part .queues (by decide)
@[simp] theorem Device.failBay_fetched (d : Device) (k : Nat) (cause : Nat) : (Device.failBay d k cause).fetched = d.fetched := (Device.failBay_within d k cause (Device.Within.refl 202514952 _) (Nat.and_self _)).part .fetched (by decide)
@[simp] theorem Device.failBay_tagsFree (d : Device) (k : Nat) (cause : Nat) : (Device.failBay d k cause).tagsFree = d.tagsFree := (Device.failBay_within d k cause (Device.Within.refl 202514952 _) (Nat.and_self _)).part .tagsFree (by decide)
@[simp] theorem Device.failBay_events (d : Device) (k : Nat) (cause : Nat) : (Device.failBay d k cause).events = d.events := (Device.failBay_within d k cause (Device.Within.refl 202514952 _) (Nat.and_self _)).part .events (by decide)
@[simp] theorem Device.failBay_ioBacklog (d : Device) (k : Nat) (cause : Nat) : (Device.failBay d k cause).ioBacklog = d.ioBacklog := (Device.failBay_within d k cause (Device.Within.refl 202514952 _) (Nat.and_self _)).part .ioBacklog (by decide)
@[simp] theorem Device.failBay_mem (d : Device) (k : Nat) (cause : Nat) : (Device.failBay d k cause).mem = d.mem := (Device.failBay_within d k cause (Device.Within.refl 202514952 _) (Nat.and_self _)).part .mem (by decide)
@[simp] theorem Device.failBay_poison (d : Device) (k : Nat) (cause : Nat) : (Device.failBay d k cause).poison = d.poison := (Device.failBay_within d k cause (Device.Within.refl 202514952 _) (Nat.and_self _)).part .poison (by decide)
@[simp] theorem Device.failBay_host (d : Device) (k : Nat) (cause : Nat) : (Device.failBay d k cause).host = d.host := (Device.failBay_within d k cause (Device.Within.refl 202514952 _) (Nat.and_self _)).part .host (by decide)
@[simp] theorem Device.failBay_streams (d : Device) (k : Nat) (cause : Nat) : (Device.failBay d k cause).streams = d.streams := (Device.failBay_within d k cause (Device.Within.refl 202514952 _) (Nat.and_self _)).part .streams (by decide)
@[simp] theorem Device.failBay_curSet (d : Device) (k : Nat) (cause : Nat) : (Device.failBay d k cause).curSet = d.curSet := (Device.failBay_within d k cause (Device.Within.refl 202514952 _) (Nat.and_self _)).part .curSet (by decide)
@[simp] theorem Device.failBay_verA (d : Device) (k : Nat) (cause : Nat) : (Device.failBay d k cause).verA = d.verA := (Device.failBay_within d k cause (Device.Within.refl 202514952 _) (Nat.and_self _)).part .verA (by decide)
@[simp] theorem Device.failBay_verB (d : Device) (k : Nat) (cause : Nat) : (Device.failBay d k cause).verB = d.verB := (Device.failBay_within d k cause (Device.Within.refl 202514952 _) (Nat.and_self _)).part .verB (by decide)
@[simp] theorem Device.failBay_pace (d : Device) (k : Nat) (cause : Nat) : (Device.failBay d k cause).pace = d.pace := (Device.failBay_within d k cause (Device.Within.refl 202514952 _) (Nat.and_self _)).part .pace (by decide)
@[simp] theorem Device.failBay_flash (d : Device) (k : Nat) (cause : Nat) : (Device.failBay d k cause).flash = d.flash := (Device.failBay_within d k cause (Device.Within.refl 202514952 _) (Nat.and_self _)).part .flash (by decide)
@[simp] theorem Device.failBay_images (d : Device) (k : Nat) (cause : Nat) : (Device.failBay d k cause).images = d.images := (Device.failBay_within d k cause (Device.Within.refl 202514952 _) (Nat.and_self _)).part .images (by decide)
@[simp] theorem Device.failBay_out (d : Device) (k : Nat) (cause : Nat) : (Device.failBay d k cause).out = d.out := (Device.failBay_within d k cause (Device.Within.refl 202514952 _) (Nat.and_self _)).part .out (by decide)

/-! ### Device.notify -/

@[simp] theorem Device.notify_now (d : Device) (k : Nat) (word : W32) : (Device.notify d k word).now = d.now := (Device.notify_within d k word (Device.Within.refl 2147483656 _) (Nat.and_self _)).part .now (by decide)
@[simp] theorem Device.notify_stepCounter (d : Device) (k : Nat) (word : W32) : (Device.notify d k word).stepCounter = d.stepCounter := (Device.notify_within d k word (Device.Within.refl 2147483656 _) (Nat.and_self _)).part .stepCounter (by decide)
@[simp] theorem Device.notify_power (d : Device) (k : Nat) (word : W32) : (Device.notify d k word).power = d.power := (Device.notify_within d k word (Device.Within.refl 2147483656 _) (Nat.and_self _)).part .power (by decide)
@[simp] theorem Device.notify_queues (d : Device) (k : Nat) (word : W32) : (Device.notify d k word).queues = d.queues := (Device.notify_within d k word (Device.Within.refl 2147483656 _) (Nat.and_self _)).part .queues (by decide)
@[simp] theorem Device.notify_fetched (d : Device) (k : Nat) (word : W32) : (Device.notify d k word).fetched = d.fetched := (Device.notify_within d k word (Device.Within.refl 2147483656 _) (Nat.and_self _)).part .fetched (by decide)
@[simp] theorem Device.notify_tagsFree (d : Device) (k : Nat) (word : W32) : (Device.notify d k word).tagsFree = d.tagsFree := (Device.notify_within d k word (Device.Within.refl 2147483656 _) (Nat.and_self _)).part .tagsFree (by decide)
@[simp] theorem Device.notify_cmds (d : Device) (k : Nat) (word : W32) : (Device.notify d k word).cmds = d.cmds := (Device.notify_within d k word (Device.Within.refl 2147483656 _) (Nat.and_self _)).part .cmds (by decide)
@[simp] theorem Device.notify_events (d : Device) (k : Nat) (word : W32) : (Device.notify d k word).events = d.events := (Device.notify_within d k word (Device.Within.refl 2147483656 _) (Nat.and_self _)).part .events (by decide)
@[simp] theorem Device.notify_ioBacklog (d : Device) (k : Nat) (word : W32) : (Device.notify d k word).ioBacklog = d.ioBacklog := (Device.notify_within d k word (Device.Within.refl 2147483656 _) (Nat.and_self _)).part .ioBacklog (by decide)
@[simp] theorem Device.notify_tiles (d : Device) (k : Nat) (word : W32) : (Device.notify d k word).tiles = d.tiles := (Device.notify_within d k word (Device.Within.refl 2147483656 _) (Nat.and_self _)).part .tiles (by decide)
@[simp] theorem Device.notify_mem (d : Device) (k : Nat) (word : W32) : (Device.notify d k word).mem = d.mem := (Device.notify_within d k word (Device.Within.refl 2147483656 _) (Nat.and_self _)).part .mem (by decide)
@[simp] theorem Device.notify_poison (d : Device) (k : Nat) (word : W32) : (Device.notify d k word).poison = d.poison := (Device.notify_within d k word (Device.Within.refl 2147483656 _) (Nat.and_self _)).part .poison (by decide)
@[simp] theorem Device.notify_host (d : Device) (k : Nat) (word : W32) : (Device.notify d k word).host = d.host := (Device.notify_within d k word (Device.Within.refl 2147483656 _) (Nat.and_self _)).part .host (by decide)
@[simp] theorem Device.notify_bays (d : Device) (k : Nat) (word : W32) : (Device.notify d k word).bays = d.bays := (Device.notify_within d k word (Device.Within.refl 2147483656 _) (Nat.and_self _)).part .bays (by decide)
@[simp] theorem Device.notify_ports (d : Device) (k : Nat) (word : W32) : (Device.notify d k word).ports = d.ports := (Device.notify_within d k word (Device.Within.refl 2147483656 _) (Nat.and_self _)).part .ports (by decide)
@[simp] theorem Device.notify_streams (d : Device) (k : Nat) (word : W32) : (Device.notify d k word).streams = d.streams := (Device.notify_within d k word (Device.Within.refl 2147483656 _) (Nat.and_self _)).part .streams (by decide)
@[simp] theorem Device.notify_curSet (d : Device) (k : Nat) (word : W32) : (Device.notify d k word).curSet = d.curSet := (Device.notify_within d k word (Device.Within.refl 2147483656 _) (Nat.and_self _)).part .curSet (by decide)
@[simp] theorem Device.notify_verA (d : Device) (k : Nat) (word : W32) : (Device.notify d k word).verA = d.verA := (Device.notify_within d k word (Device.Within.refl 2147483656 _) (Nat.and_self _)).part .verA (by decide)
@[simp] theorem Device.notify_verB (d : Device) (k : Nat) (word : W32) : (Device.notify d k word).verB = d.verB := (Device.notify_within d k word (Device.Within.refl 2147483656 _) (Nat.and_self _)).part .verB (by decide)
@[simp] theorem Device.notify_pace (d : Device) (k : Nat) (word : W32) : (Device.notify d k word).pace = d.pace := (Device.notify_within d k word (Device.Within.refl 2147483656 _) (Nat.and_self _)).part .pace (by decide)
@[simp] theorem Device.notify_log (d : Device) (k : Nat) (word : W32) : (Device.notify d k word).log = d.log := (Device.notify_within d k word (Device.Within.refl 2147483656 _) (Nat.and_self _)).part .log (by decide)
@[simp] theorem Device.notify_safety (d : Device) (k : Nat) (word : W32) : (Device.notify d k word).safety = d.safety := (Device.notify_within d k word (Device.Within.refl 2147483656 _) (Nat.and_self _)).part .safety (by decide)
@[simp] theorem Device.notify_flash (d : Device) (k : Nat) (word : W32) : (Device.notify d k word).flash = d.flash := (Device.notify_within d k word (Device.Within.refl 2147483656 _) (Nat.and_self _)).part .flash (by decide)
@[simp] theorem Device.notify_images (d : Device) (k : Nat) (word : W32) : (Device.notify d k word).images = d.images := (Device.notify_within d k word (Device.Within.refl 2147483656 _) (Nat.and_self _)).part .images (by decide)

/-! ### Device.wakeReason -/

@[simp] theorem Device.wakeReason_now (d : Device) (bit : Nat) : (Device.wakeReason d bit).now = d.now := (Device.wakeReason_within d bit (Device.Within.refl 2147483652 _) (Nat.and_self _)).part .now (by decide)
@[simp] theorem Device.wakeReason_stepCounter (d : Device) (bit : Nat) : (Device.wakeReason d bit).stepCounter = d.stepCounter := (Device.wakeReason_within d bit (Device.Within.refl 2147483652 _) (Nat.and_self _)).part .stepCounter (by decide)
@[simp] theorem Device.wakeReason_dict (d : Device) (bit : Nat) : (Device.wakeReason d bit).dict = d.dict := (Device.wakeReason_within d bit (Device.Within.refl 2147483652 _) (Nat.and_self _)).part .dict (by decide)
@[simp] theorem Device.wakeReason_queues (d : Device) (bit : Nat) : (Device.wakeReason d bit).queues = d.queues := (Device.wakeReason_within d bit (Device.Within.refl 2147483652 _) (Nat.and_self _)).part .queues (by decide)
@[simp] theorem Device.wakeReason_fetched (d : Device) (bit : Nat) : (Device.wakeReason d bit).fetched = d.fetched := (Device.wakeReason_within d bit (Device.Within.refl 2147483652 _) (Nat.and_self _)).part .fetched (by decide)
@[simp] theorem Device.wakeReason_tagsFree (d : Device) (bit : Nat) : (Device.wakeReason d bit).tagsFree = d.tagsFree := (Device.wakeReason_within d bit (Device.Within.refl 2147483652 _) (Nat.and_self _)).part .tagsFree (by decide)
@[simp] theorem Device.wakeReason_cmds (d : Device) (bit : Nat) : (Device.wakeReason d bit).cmds = d.cmds := (Device.wakeReason_within d bit (Device.Within.refl 2147483652 _) (Nat.and_self _)).part .cmds (by decide)
@[simp] theorem Device.wakeReason_events (d : Device) (bit : Nat) : (Device.wakeReason d bit).events = d.events := (Device.wakeReason_within d bit (Device.Within.refl 2147483652 _) (Nat.and_self _)).part .events (by decide)
@[simp] theorem Device.wakeReason_ioBacklog (d : Device) (bit : Nat) : (Device.wakeReason d bit).ioBacklog = d.ioBacklog := (Device.wakeReason_within d bit (Device.Within.refl 2147483652 _) (Nat.and_self _)).part .ioBacklog (by decide)
@[simp] theorem Device.wakeReason_tiles (d : Device) (bit : Nat) : (Device.wakeReason d bit).tiles = d.tiles := (Device.wakeReason_within d bit (Device.Within.refl 2147483652 _) (Nat.and_self _)).part .tiles (by decide)
@[simp] theorem Device.wakeReason_mem (d : Device) (bit : Nat) : (Device.wakeReason d bit).mem = d.mem := (Device.wakeReason_within d bit (Device.Within.refl 2147483652 _) (Nat.and_self _)).part .mem (by decide)
@[simp] theorem Device.wakeReason_poison (d : Device) (bit : Nat) : (Device.wakeReason d bit).poison = d.poison := (Device.wakeReason_within d bit (Device.Within.refl 2147483652 _) (Nat.and_self _)).part .poison (by decide)
@[simp] theorem Device.wakeReason_host (d : Device) (bit : Nat) : (Device.wakeReason d bit).host = d.host := (Device.wakeReason_within d bit (Device.Within.refl 2147483652 _) (Nat.and_self _)).part .host (by decide)
@[simp] theorem Device.wakeReason_bays (d : Device) (bit : Nat) : (Device.wakeReason d bit).bays = d.bays := (Device.wakeReason_within d bit (Device.Within.refl 2147483652 _) (Nat.and_self _)).part .bays (by decide)
@[simp] theorem Device.wakeReason_ports (d : Device) (bit : Nat) : (Device.wakeReason d bit).ports = d.ports := (Device.wakeReason_within d bit (Device.Within.refl 2147483652 _) (Nat.and_self _)).part .ports (by decide)
@[simp] theorem Device.wakeReason_streams (d : Device) (bit : Nat) : (Device.wakeReason d bit).streams = d.streams := (Device.wakeReason_within d bit (Device.Within.refl 2147483652 _) (Nat.and_self _)).part .streams (by decide)
@[simp] theorem Device.wakeReason_curSet (d : Device) (bit : Nat) : (Device.wakeReason d bit).curSet = d.curSet := (Device.wakeReason_within d bit (Device.Within.refl 2147483652 _) (Nat.and_self _)).part .curSet (by decide)
@[simp] theorem Device.wakeReason_verA (d : Device) (bit : Nat) : (Device.wakeReason d bit).verA = d.verA := (Device.wakeReason_within d bit (Device.Within.refl 2147483652 _) (Nat.and_self _)).part .verA (by decide)
@[simp] theorem Device.wakeReason_verB (d : Device) (bit : Nat) : (Device.wakeReason d bit).verB = d.verB := (Device.wakeReason_within d bit (Device.Within.refl 2147483652 _) (Nat.and_self _)).part .verB (by decide)
@[simp] theorem Device.wakeReason_pace (d : Device) (bit : Nat) : (Device.wakeReason d bit).pace = d.pace := (Device.wakeReason_within d bit (Device.Within.refl 2147483652 _) (Nat.and_self _)).part .pace (by decide)
@[simp] theorem Device.wakeReason_log (d : Device) (bit : Nat) : (Device.wakeReason d bit).log = d.log := (Device.wakeReason_within d bit (Device.Within.refl 2147483652 _) (Nat.and_self _)).part .log (by decide)
@[simp] theorem Device.wakeReason_safety (d : Device) (bit : Nat) : (Device.wakeReason d bit).safety = d.safety := (Device.wakeReason_within d bit (Device.Within.refl 2147483652 _) (Nat.and_self _)).part .safety (by decide)
@[simp] theorem Device.wakeReason_flash (d : Device) (bit : Nat) : (Device.wakeReason d bit).flash = d.flash := (Device.wakeReason_within d bit (Device.Within.refl 2147483652 _) (Nat.and_self _)).part .flash (by decide)
@[simp] theorem Device.wakeReason_images (d : Device) (bit : Nat) : (Device.wakeReason d bit).images = d.images := (Device.wakeReason_within d bit (Device.Within.refl 2147483652 _) (Nat.and_self _)).part .images (by decide)

/-! ### Device.transmit -/

@[simp] theorem Device.transmit_now (d : Device) (m : BrMsg) : (Device.transmit d m).now = d.now := (Device.transmit_within d m (Device.Within.refl 2147483648 _) (Nat.and_self _)).part .now (by decide)
@[simp] theorem Device.transmit_stepCounter (d : Device) (m : BrMsg) : (Device.transmit d m).stepCounter = d.stepCounter := (Device.transmit_within d m (Device.Within.refl 2147483648 _) (Nat.and_self _)).part .stepCounter (by decide)
@[simp] theorem Device.transmit_power (d : Device) (m : BrMsg) : (Device.transmit d m).power = d.power := (Device.transmit_within d m (Device.Within.refl 2147483648 _) (Nat.and_self _)).part .power (by decide)
@[simp] theorem Device.transmit_dict (d : Device) (m : BrMsg) : (Device.transmit d m).dict = d.dict := (Device.transmit_within d m (Device.Within.refl 2147483648 _) (Nat.and_self _)).part .dict (by decide)
@[simp] theorem Device.transmit_queues (d : Device) (m : BrMsg) : (Device.transmit d m).queues = d.queues := (Device.transmit_within d m (Device.Within.refl 2147483648 _) (Nat.and_self _)).part .queues (by decide)
@[simp] theorem Device.transmit_fetched (d : Device) (m : BrMsg) : (Device.transmit d m).fetched = d.fetched := (Device.transmit_within d m (Device.Within.refl 2147483648 _) (Nat.and_self _)).part .fetched (by decide)
@[simp] theorem Device.transmit_tagsFree (d : Device) (m : BrMsg) : (Device.transmit d m).tagsFree = d.tagsFree := (Device.transmit_within d m (Device.Within.refl 2147483648 _) (Nat.and_self _)).part .tagsFree (by decide)
@[simp] theorem Device.transmit_cmds (d : Device) (m : BrMsg) : (Device.transmit d m).cmds = d.cmds := (Device.transmit_within d m (Device.Within.refl 2147483648 _) (Nat.and_self _)).part .cmds (by decide)
@[simp] theorem Device.transmit_events (d : Device) (m : BrMsg) : (Device.transmit d m).events = d.events := (Device.transmit_within d m (Device.Within.refl 2147483648 _) (Nat.and_self _)).part .events (by decide)
@[simp] theorem Device.transmit_ioBacklog (d : Device) (m : BrMsg) : (Device.transmit d m).ioBacklog = d.ioBacklog := (Device.transmit_within d m (Device.Within.refl 2147483648 _) (Nat.and_self _)).part .ioBacklog (by decide)
@[simp] theorem Device.transmit_tiles (d : Device) (m : BrMsg) : (Device.transmit d m).tiles = d.tiles := (Device.transmit_within d m (Device.Within.refl 2147483648 _) (Nat.and_self _)).part .tiles (by decide)
@[simp] theorem Device.transmit_mem (d : Device) (m : BrMsg) : (Device.transmit d m).mem = d.mem := (Device.transmit_within d m (Device.Within.refl 2147483648 _) (Nat.and_self _)).part .mem (by decide)
@[simp] theorem Device.transmit_poison (d : Device) (m : BrMsg) : (Device.transmit d m).poison = d.poison := (Device.transmit_within d m (Device.Within.refl 2147483648 _) (Nat.and_self _)).part .poison (by decide)
@[simp] theorem Device.transmit_host (d : Device) (m : BrMsg) : (Device.transmit d m).host = d.host := (Device.transmit_within d m (Device.Within.refl 2147483648 _) (Nat.and_self _)).part .host (by decide)
@[simp] theorem Device.transmit_bays (d : Device) (m : BrMsg) : (Device.transmit d m).bays = d.bays := (Device.transmit_within d m (Device.Within.refl 2147483648 _) (Nat.and_self _)).part .bays (by decide)
@[simp] theorem Device.transmit_ports (d : Device) (m : BrMsg) : (Device.transmit d m).ports = d.ports := (Device.transmit_within d m (Device.Within.refl 2147483648 _) (Nat.and_self _)).part .ports (by decide)
@[simp] theorem Device.transmit_streams (d : Device) (m : BrMsg) : (Device.transmit d m).streams = d.streams := (Device.transmit_within d m (Device.Within.refl 2147483648 _) (Nat.and_self _)).part .streams (by decide)
@[simp] theorem Device.transmit_curSet (d : Device) (m : BrMsg) : (Device.transmit d m).curSet = d.curSet := (Device.transmit_within d m (Device.Within.refl 2147483648 _) (Nat.and_self _)).part .curSet (by decide)
@[simp] theorem Device.transmit_verA (d : Device) (m : BrMsg) : (Device.transmit d m).verA = d.verA := (Device.transmit_within d m (Device.Within.refl 2147483648 _) (Nat.and_self _)).part .verA (by decide)
@[simp] theorem Device.transmit_verB (d : Device) (m : BrMsg) : (Device.transmit d m).verB = d.verB := (Device.transmit_within d m (Device.Within.refl 2147483648 _) (Nat.and_self _)).part .verB (by decide)
@[simp] theorem Device.transmit_pace (d : Device) (m : BrMsg) : (Device.transmit d m).pace = d.pace := (Device.transmit_within d m (Device.Within.refl 2147483648 _) (Nat.and_self _)).part .pace (by decide)
@[simp] theorem Device.transmit_log (d : Device) (m : BrMsg) : (Device.transmit d m).log = d.log := (Device.transmit_within d m (Device.Within.refl 2147483648 _) (Nat.and_self _)).part .log (by decide)
@[simp] theorem Device.transmit_safety (d : Device) (m : BrMsg) : (Device.transmit d m).safety = d.safety := (Device.transmit_within d m (Device.Within.refl 2147483648 _) (Nat.and_self _)).part .safety (by decide)
@[simp] theorem Device.transmit_flash (d : Device) (m : BrMsg) : (Device.transmit d m).flash = d.flash := (Device.transmit_within d m (Device.Within.refl 2147483648 _) (Nat.and_self _)).part .flash (by decide)
@[simp] theorem Device.transmit_images (d : Device) (m : BrMsg) : (Device.transmit d m).images = d.images := (Device.transmit_within d m (Device.Within.refl 2147483648 _) (Nat.and_self _)).part .images (by decide)

/-! ### emberAdd -/

@[simp] theorem emberAdd_now (d : Device) (n : Nat) : (emberAdd d n).now = d.now := (emberAdd_within d n (Device.Within.refl 67108864 _) (Nat.and_self _)).part .now (by decide)
@[simp] theorem emberAdd_stepCounter (d : Device) (n : Nat) : (emberAdd d n).stepCounter = d.stepCounter := (emberAdd_within d n (Device.Within.refl 67108864 _) (Nat.and_self _)).part .stepCounter (by decide)
@[simp] theorem emberAdd_power (d : Device) (n : Nat) : (emberAdd d n).power = d.power := (emberAdd_within d n (Device.Within.refl 67108864 _) (Nat.and_self _)).part .power (by decide)
@[simp] theorem emberAdd_dict (d : Device) (n : Nat) : (emberAdd d n).dict = d.dict := (emberAdd_within d n (Device.Within.refl 67108864 _) (Nat.and_self _)).part .dict (by decide)
@[simp] theorem emberAdd_queues (d : Device) (n : Nat) : (emberAdd d n).queues = d.queues := (emberAdd_within d n (Device.Within.refl 67108864 _) (Nat.and_self _)).part .queues (by decide)
@[simp] theorem emberAdd_fetched (d : Device) (n : Nat) : (emberAdd d n).fetched = d.fetched := (emberAdd_within d n (Device.Within.refl 67108864 _) (Nat.and_self _)).part .fetched (by decide)
@[simp] theorem emberAdd_tagsFree (d : Device) (n : Nat) : (emberAdd d n).tagsFree = d.tagsFree := (emberAdd_within d n (Device.Within.refl 67108864 _) (Nat.and_self _)).part .tagsFree (by decide)
@[simp] theorem emberAdd_cmds (d : Device) (n : Nat) : (emberAdd d n).cmds = d.cmds := (emberAdd_within d n (Device.Within.refl 67108864 _) (Nat.and_self _)).part .cmds (by decide)
@[simp] theorem emberAdd_events (d : Device) (n : Nat) : (emberAdd d n).events = d.events := (emberAdd_within d n (Device.Within.refl 67108864 _) (Nat.and_self _)).part .events (by decide)
@[simp] theorem emberAdd_ioBacklog (d : Device) (n : Nat) : (emberAdd d n).ioBacklog = d.ioBacklog := (emberAdd_within d n (Device.Within.refl 67108864 _) (Nat.and_self _)).part .ioBacklog (by decide)
@[simp] theorem emberAdd_tiles (d : Device) (n : Nat) : (emberAdd d n).tiles = d.tiles := (emberAdd_within d n (Device.Within.refl 67108864 _) (Nat.and_self _)).part .tiles (by decide)
@[simp] theorem emberAdd_mem (d : Device) (n : Nat) : (emberAdd d n).mem = d.mem := (emberAdd_within d n (Device.Within.refl 67108864 _) (Nat.and_self _)).part .mem (by decide)
@[simp] theorem emberAdd_poison (d : Device) (n : Nat) : (emberAdd d n).poison = d.poison := (emberAdd_within d n (Device.Within.refl 67108864 _) (Nat.and_self _)).part .poison (by decide)
@[simp] theorem emberAdd_host (d : Device) (n : Nat) : (emberAdd d n).host = d.host := (emberAdd_within d n (Device.Within.refl 67108864 _) (Nat.and_self _)).part .host (by decide)
@[simp] theorem emberAdd_bays (d : Device) (n : Nat) : (emberAdd d n).bays = d.bays := (emberAdd_within d n (Device.Within.refl 67108864 _) (Nat.and_self _)).part .bays (by decide)
@[simp] theorem emberAdd_ports (d : Device) (n : Nat) : (emberAdd d n).ports = d.ports := (emberAdd_within d n (Device.Within.refl 67108864 _) (Nat.and_self _)).part .ports (by decide)
@[simp] theorem emberAdd_streams (d : Device) (n : Nat) : (emberAdd d n).streams = d.streams := (emberAdd_within d n (Device.Within.refl 67108864 _) (Nat.and_self _)).part .streams (by decide)
@[simp] theorem emberAdd_curSet (d : Device) (n : Nat) : (emberAdd d n).curSet = d.curSet := (emberAdd_within d n (Device.Within.refl 67108864 _) (Nat.and_self _)).part .curSet (by decide)
@[simp] theorem emberAdd_verA (d : Device) (n : Nat) : (emberAdd d n).verA = d.verA := (emberAdd_within d n (Device.Within.refl 67108864 _) (Nat.and_self _)).part .verA (by decide)
@[simp] theorem emberAdd_verB (d : Device) (n : Nat) : (emberAdd d n).verB = d.verB := (emberAdd_within d n (Device.Within.refl 67108864 _) (Nat.and_self _)).part .verB (by decide)
@[simp] theorem emberAdd_pace (d : Device) (n : Nat) : (emberAdd d n).pace = d.pace := (emberAdd_within d n (Device.Within.refl 67108864 _) (Nat.and_self _)).part .pace (by decide)
@[simp] theorem emberAdd_safety (d : Device) (n : Nat) : (emberAdd d n).safety = d.safety := (emberAdd_within d n (Device.Within.refl 67108864 _) (Nat.and_self _)).part .safety (by decide)
@[simp] theorem emberAdd_flash (d : Device) (n : Nat) : (emberAdd d n).flash = d.flash := (emberAdd_within d n (Device.Within.refl 67108864 _) (Nat.and_self _)).part .flash (by decide)
@[simp] theorem emberAdd_images (d : Device) (n : Nat) : (emberAdd d n).images = d.images := (emberAdd_within d n (Device.Within.refl 67108864 _) (Nat.and_self _)).part .images (by decide)
@[simp] theorem emberAdd_out (d : Device) (n : Nat) : (emberAdd d n).out = d.out := (emberAdd_within d n (Device.Within.refl 67108864 _) (Nat.and_self _)).part .out (by decide)

/-! ### Device.send -/

@[simp] theorem Device.send_now (d : Device) (k : Nat) (f : Frame) : (Device.send d k f).now = d.now := (Device.send_within d k f (Device.Within.refl 135266304 _) (Nat.and_self _)).part .now (by decide)
@[simp] theorem Device.send_stepCounter (d : Device) (k : Nat) (f : Frame) : (Device.send d k f).stepCounter = d.stepCounter := (Device.send_within d k f (Device.Within.refl 135266304 _) (Nat.and_self _)).part .stepCounter (by decide)
@[simp] theorem Device.send_power (d : Device) (k : Nat) (f : Frame) : (Device.send d k f).power = d.power := (Device.send_within d k f (Device.Within.refl 135266304 _) (Nat.and_self _)).part .power (by decide)
@[simp] theorem Device.send_dict (d : Device) (k : Nat) (f : Frame) : (Device.send d k f).dict = d.dict := (Device.send_within d k f (Device.Within.refl 135266304 _) (Nat.and_self _)).part .dict (by decide)
@[simp] theorem Device.send_queues (d : Device) (k : Nat) (f : Frame) : (Device.send d k f).queues = d.queues := (Device.send_within d k f (Device.Within.refl 135266304 _) (Nat.and_self _)).part .queues (by decide)
@[simp] theorem Device.send_fetched (d : Device) (k : Nat) (f : Frame) : (Device.send d k f).fetched = d.fetched := (Device.send_within d k f (Device.Within.refl 135266304 _) (Nat.and_self _)).part .fetched (by decide)
@[simp] theorem Device.send_tagsFree (d : Device) (k : Nat) (f : Frame) : (Device.send d k f).tagsFree = d.tagsFree := (Device.send_within d k f (Device.Within.refl 135266304 _) (Nat.and_self _)).part .tagsFree (by decide)
@[simp] theorem Device.send_cmds (d : Device) (k : Nat) (f : Frame) : (Device.send d k f).cmds = d.cmds := (Device.send_within d k f (Device.Within.refl 135266304 _) (Nat.and_self _)).part .cmds (by decide)
@[simp] theorem Device.send_events (d : Device) (k : Nat) (f : Frame) : (Device.send d k f).events = d.events := (Device.send_within d k f (Device.Within.refl 135266304 _) (Nat.and_self _)).part .events (by decide)
@[simp] theorem Device.send_ioBacklog (d : Device) (k : Nat) (f : Frame) : (Device.send d k f).ioBacklog = d.ioBacklog := (Device.send_within d k f (Device.Within.refl 135266304 _) (Nat.and_self _)).part .ioBacklog (by decide)
@[simp] theorem Device.send_tiles (d : Device) (k : Nat) (f : Frame) : (Device.send d k f).tiles = d.tiles := (Device.send_within d k f (Device.Within.refl 135266304 _) (Nat.and_self _)).part .tiles (by decide)
@[simp] theorem Device.send_mem (d : Device) (k : Nat) (f : Frame) : (Device.send d k f).mem = d.mem := (Device.send_within d k f (Device.Within.refl 135266304 _) (Nat.and_self _)).part .mem (by decide)
@[simp] theorem Device.send_poison (d : Device) (k : Nat) (f : Frame) : (Device.send d k f).poison = d.poison := (Device.send_within d k f (Device.Within.refl 135266304 _) (Nat.and_self _)).part .poison (by decide)
@[simp] theorem Device.send_host (d : Device) (k : Nat) (f : Frame) : (Device.send d k f).host = d.host := (Device.send_within d k f (Device.Within.refl 135266304 _) (Nat.and_self _)).part .host (by decide)
@[simp] theorem Device.send_bays (d : Device) (k : Nat) (f : Frame) : (Device.send d k f).bays = d.bays := (Device.send_within d k f (Device.Within.refl 135266304 _) (Nat.and_self _)).part .bays (by decide)
@[simp] theorem Device.send_streams (d : Device) (k : Nat) (f : Frame) : (Device.send d k f).streams = d.streams := (Device.send_within d k f (Device.Within.refl 135266304 _) (Nat.and_self _)).part .streams (by decide)
@[simp] theorem Device.send_curSet (d : Device) (k : Nat) (f : Frame) : (Device.send d k f).curSet = d.curSet := (Device.send_within d k f (Device.Within.refl 135266304 _) (Nat.and_self _)).part .curSet (by decide)
@[simp] theorem Device.send_verA (d : Device) (k : Nat) (f : Frame) : (Device.send d k f).verA = d.verA := (Device.send_within d k f (Device.Within.refl 135266304 _) (Nat.and_self _)).part .verA (by decide)
@[simp] theorem Device.send_verB (d : Device) (k : Nat) (f : Frame) : (Device.send d k f).verB = d.verB := (Device.send_within d k f (Device.Within.refl 135266304 _) (Nat.and_self _)).part .verB (by decide)
@[simp] theorem Device.send_pace (d : Device) (k : Nat) (f : Frame) : (Device.send d k f).pace = d.pace := (Device.send_within d k f (Device.Within.refl 135266304 _) (Nat.and_self _)).part .pace (by decide)
@[simp] theorem Device.send_log (d : Device) (k : Nat) (f : Frame) : (Device.send d k f).log = d.log := (Device.send_within d k f (Device.Within.refl 135266304 _) (Nat.and_self _)).part .log (by decide)
@[simp] theorem Device.send_flash (d : Device) (k : Nat) (f : Frame) : (Device.send d k f).flash = d.flash := (Device.send_within d k f (Device.Within.refl 135266304 _) (Nat.and_self _)).part .flash (by decide)
@[simp] theorem Device.send_images (d : Device) (k : Nat) (f : Frame) : (Device.send d k f).images = d.images := (Device.send_within d k f (Device.Within.refl 135266304 _) (Nat.and_self _)).part .images (by decide)
@[simp] theorem Device.send_out (d : Device) (k : Nat) (f : Frame) : (Device.send d k f).out = d.out := (Device.send_within d k f (Device.Within.refl 135266304 _) (Nat.and_self _)).part .out (by decide)

/-! ### Device.dropOps -/

@[simp] theorem Device.dropOps_now (d : Device) (tag : Nat) : (Device.dropOps d tag).now = d.now := (Device.dropOps_within d tag (Device.Within.refl 139776 _) (Nat.and_self _)).part .now (by decide)
@[simp] theorem Device.dropOps_stepCounter (d : Device) (tag : Nat) : (Device.dropOps d tag).stepCounter = d.stepCounter := (Device.dropOps_within d tag (Device.Within.refl 139776 _) (Nat.and_self _)).part .stepCounter (by decide)
@[simp] theorem Device.dropOps_power (d : Device) (tag : Nat) : (Device.dropOps d tag).power = d.power := (Device.dropOps_within d tag (Device.Within.refl 139776 _) (Nat.and_self _)).part .power (by decide)
@[simp] theorem Device.dropOps_dict (d : Device) (tag : Nat) : (Device.dropOps d tag).dict = d.dict := (Device.dropOps_within d tag (Device.Within.refl 139776 _) (Nat.and_self _)).part .dict (by decide)
@[simp] theorem Device.dropOps_queues (d : Device) (tag : Nat) : (Device.dropOps d tag).queues = d.queues := (Device.dropOps_within d tag (Device.Within.refl 139776 _) (Nat.and_self _)).part .queues (by decide)
@[simp] theorem Device.dropOps_fetched (d : Device) (tag : Nat) : (Device.dropOps d tag).fetched = d.fetched := (Device.dropOps_within d tag (Device.Within.refl 139776 _) (Nat.and_self _)).part .fetched (by decide)
@[simp] theorem Device.dropOps_tagsFree (d : Device) (tag : Nat) : (Device.dropOps d tag).tagsFree = d.tagsFree := (Device.dropOps_within d tag (Device.Within.refl 139776 _) (Nat.and_self _)).part .tagsFree (by decide)
@[simp] theorem Device.dropOps_events (d : Device) (tag : Nat) : (Device.dropOps d tag).events = d.events := (Device.dropOps_within d tag (Device.Within.refl 139776 _) (Nat.and_self _)).part .events (by decide)
@[simp] theorem Device.dropOps_ioBacklog (d : Device) (tag : Nat) : (Device.dropOps d tag).ioBacklog = d.ioBacklog := (Device.dropOps_within d tag (Device.Within.refl 139776 _) (Nat.and_self _)).part .ioBacklog (by decide)
@[simp] theorem Device.dropOps_mem (d : Device) (tag : Nat) : (Device.dropOps d tag).mem = d.mem := (Device.dropOps_within d tag (Device.Within.refl 139776 _) (Nat.and_self _)).part .mem (by decide)
@[simp] theorem Device.dropOps_poison (d : Device) (tag : Nat) : (Device.dropOps d tag).poison = d.poison := (Device.dropOps_within d tag (Device.Within.refl 139776 _) (Nat.and_self _)).part .poison (by decide)
@[simp] theorem Device.dropOps_host (d : Device) (tag : Nat) : (Device.dropOps d tag).host = d.host := (Device.dropOps_within d tag (Device.Within.refl 139776 _) (Nat.and_self _)).part .host (by decide)
@[simp] theorem Device.dropOps_ports (d : Device) (tag : Nat) : (Device.dropOps d tag).ports = d.ports := (Device.dropOps_within d tag (Device.Within.refl 139776 _) (Nat.and_self _)).part .ports (by decide)
@[simp] theorem Device.dropOps_streams (d : Device) (tag : Nat) : (Device.dropOps d tag).streams = d.streams := (Device.dropOps_within d tag (Device.Within.refl 139776 _) (Nat.and_self _)).part .streams (by decide)
@[simp] theorem Device.dropOps_curSet (d : Device) (tag : Nat) : (Device.dropOps d tag).curSet = d.curSet := (Device.dropOps_within d tag (Device.Within.refl 139776 _) (Nat.and_self _)).part .curSet (by decide)
@[simp] theorem Device.dropOps_verA (d : Device) (tag : Nat) : (Device.dropOps d tag).verA = d.verA := (Device.dropOps_within d tag (Device.Within.refl 139776 _) (Nat.and_self _)).part .verA (by decide)
@[simp] theorem Device.dropOps_verB (d : Device) (tag : Nat) : (Device.dropOps d tag).verB = d.verB := (Device.dropOps_within d tag (Device.Within.refl 139776 _) (Nat.and_self _)).part .verB (by decide)
@[simp] theorem Device.dropOps_pace (d : Device) (tag : Nat) : (Device.dropOps d tag).pace = d.pace := (Device.dropOps_within d tag (Device.Within.refl 139776 _) (Nat.and_self _)).part .pace (by decide)
@[simp] theorem Device.dropOps_log (d : Device) (tag : Nat) : (Device.dropOps d tag).log = d.log := (Device.dropOps_within d tag (Device.Within.refl 139776 _) (Nat.and_self _)).part .log (by decide)
@[simp] theorem Device.dropOps_safety (d : Device) (tag : Nat) : (Device.dropOps d tag).safety = d.safety := (Device.dropOps_within d tag (Device.Within.refl 139776 _) (Nat.and_self _)).part .safety (by decide)
@[simp] theorem Device.dropOps_flash (d : Device) (tag : Nat) : (Device.dropOps d tag).flash = d.flash := (Device.dropOps_within d tag (Device.Within.refl 139776 _) (Nat.and_self _)).part .flash (by decide)
@[simp] theorem Device.dropOps_images (d : Device) (tag : Nat) : (Device.dropOps d tag).images = d.images := (Device.dropOps_within d tag (Device.Within.refl 139776 _) (Nat.and_self _)).part .images (by decide)
@[simp] theorem Device.dropOps_out (d : Device) (tag : Nat) : (Device.dropOps d tag).out = d.out := (Device.dropOps_within d tag (Device.Within.refl 139776 _) (Nat.and_self _)).part .out (by decide)

/-! ### Device.poisonEvent -/

@[simp] theorem Device.poisonEvent_now (d : Device) (l : Nat) : (Device.poisonEvent d l).now = d.now := (Device.poisonEvent_within d l (Device.Within.refl 67108872 _) (Nat.and_self _)).part .now (by decide)
@[simp] theorem Device.poisonEvent_stepCounter (d : Device) (l : Nat) : (Device.poisonEvent d l).stepCounter = d.stepCounter := (Device.poisonEvent_within d l (Device.Within.refl 67108872 _) (Nat.and_self _)).part .stepCounter (by decide)
@[simp] theorem Device.poisonEvent_power (d : Device) (l : Nat) : (Device.poisonEvent d l).power = d.power := (Device.poisonEvent_within d l (Device.Within.refl 67108872 _) (Nat.and_self _)).part .power (by decide)
@[simp] theorem Device.poisonEvent_queues (d : Device) (l : Nat) : (Device.poisonEvent d l).queues = d.queues := (Device.poisonEvent_within d l (Device.Within.refl 67108872 _) (Nat.and_self _)).part .queues (by decide)
@[simp] theorem Device.poisonEvent_fetched (d : Device) (l : Nat) : (Device.poisonEvent d l).fetched = d.fetched := (Device.poisonEvent_within d l (Device.Within.refl 67108872 _) (Nat.and_self _)).part .fetched (by decide)
@[simp] theorem Device.poisonEvent_tagsFree (d : Device) (l : Nat) : (Device.poisonEvent d l).tagsFree = d.tagsFree := (Device.poisonEvent_within d l (Device.Within.refl 67108872 _) (Nat.and_self _)).part .tagsFree (by decide)
@[simp] theorem Device.poisonEvent_cmds (d : Device) (l : Nat) : (Device.poisonEvent d l).cmds = d.cmds := (Device.poisonEvent_within d l (Device.Within.refl 67108872 _) (Nat.and_self _)).part .cmds (by decide)
@[simp] theorem Device.poisonEvent_events (d : Device) (l : Nat) : (Device.poisonEvent d l).events = d.events := (Device.poisonEvent_within d l (Device.Within.refl 67108872 _) (Nat.and_self _)).part .events (by decide)
@[simp] theorem Device.poisonEvent_ioBacklog (d : Device) (l : Nat) : (Device.poisonEvent d l).ioBacklog = d.ioBacklog := (Device.poisonEvent_within d l (Device.Within.refl 67108872 _) (Nat.and_self _)).part .ioBacklog (by decide)
@[simp] theorem Device.poisonEvent_tiles (d : Device) (l : Nat) : (Device.poisonEvent d l).tiles = d.tiles := (Device.poisonEvent_within d l (Device.Within.refl 67108872 _) (Nat.and_self _)).part .tiles (by decide)
@[simp] theorem Device.poisonEvent_mem (d : Device) (l : Nat) : (Device.poisonEvent d l).mem = d.mem := (Device.poisonEvent_within d l (Device.Within.refl 67108872 _) (Nat.and_self _)).part .mem (by decide)
@[simp] theorem Device.poisonEvent_poison (d : Device) (l : Nat) : (Device.poisonEvent d l).poison = d.poison := (Device.poisonEvent_within d l (Device.Within.refl 67108872 _) (Nat.and_self _)).part .poison (by decide)
@[simp] theorem Device.poisonEvent_host (d : Device) (l : Nat) : (Device.poisonEvent d l).host = d.host := (Device.poisonEvent_within d l (Device.Within.refl 67108872 _) (Nat.and_self _)).part .host (by decide)
@[simp] theorem Device.poisonEvent_bays (d : Device) (l : Nat) : (Device.poisonEvent d l).bays = d.bays := (Device.poisonEvent_within d l (Device.Within.refl 67108872 _) (Nat.and_self _)).part .bays (by decide)
@[simp] theorem Device.poisonEvent_ports (d : Device) (l : Nat) : (Device.poisonEvent d l).ports = d.ports := (Device.poisonEvent_within d l (Device.Within.refl 67108872 _) (Nat.and_self _)).part .ports (by decide)
@[simp] theorem Device.poisonEvent_streams (d : Device) (l : Nat) : (Device.poisonEvent d l).streams = d.streams := (Device.poisonEvent_within d l (Device.Within.refl 67108872 _) (Nat.and_self _)).part .streams (by decide)
@[simp] theorem Device.poisonEvent_curSet (d : Device) (l : Nat) : (Device.poisonEvent d l).curSet = d.curSet := (Device.poisonEvent_within d l (Device.Within.refl 67108872 _) (Nat.and_self _)).part .curSet (by decide)
@[simp] theorem Device.poisonEvent_verA (d : Device) (l : Nat) : (Device.poisonEvent d l).verA = d.verA := (Device.poisonEvent_within d l (Device.Within.refl 67108872 _) (Nat.and_self _)).part .verA (by decide)
@[simp] theorem Device.poisonEvent_verB (d : Device) (l : Nat) : (Device.poisonEvent d l).verB = d.verB := (Device.poisonEvent_within d l (Device.Within.refl 67108872 _) (Nat.and_self _)).part .verB (by decide)
@[simp] theorem Device.poisonEvent_pace (d : Device) (l : Nat) : (Device.poisonEvent d l).pace = d.pace := (Device.poisonEvent_within d l (Device.Within.refl 67108872 _) (Nat.and_self _)).part .pace (by decide)
@[simp] theorem Device.poisonEvent_safety (d : Device) (l : Nat) : (Device.poisonEvent d l).safety = d.safety := (Device.poisonEvent_within d l (Device.Within.refl 67108872 _) (Nat.and_self _)).part .safety (by decide)
@[simp] theorem Device.poisonEvent_flash (d : Device) (l : Nat) : (Device.poisonEvent d l).flash = d.flash := (Device.poisonEvent_within d l (Device.Within.refl 67108872 _) (Nat.and_self _)).part .flash (by decide)
@[simp] theorem Device.poisonEvent_images (d : Device) (l : Nat) : (Device.poisonEvent d l).images = d.images := (Device.poisonEvent_within d l (Device.Within.refl 67108872 _) (Nat.and_self _)).part .images (by decide)
@[simp] theorem Device.poisonEvent_out (d : Device) (l : Nat) : (Device.poisonEvent d l).out = d.out := (Device.poisonEvent_within d l (Device.Within.refl 67108872 _) (Nat.and_self _)).part .out (by decide)

/-! ### Device.bayReset -/

@[simp] theorem Device.bayReset_now (d : Device) (k : Nat) (cause : Nat) (w : Blame) : (Device.bayReset d k cause w).now = d.now := (Device.bayReset_within d k cause w (Device.Within.refl 202564104 _) (Nat.and_self _)).part .now (by decide)
@[simp] theorem Device.bayReset_stepCounter (d : Device) (k : Nat) (cause : Nat) (w : Blame) : (Device.bayReset d k cause w).stepCounter = d.stepCounter := (Device.bayReset_within d k cause w (Device.Within.refl 202564104 _) (Nat.and_self _)).part .stepCounter (by decide)
@[simp] theorem Device.bayReset_power (d : Device) (k : Nat) (cause : Nat) (w : Blame) : (Device.bayReset d k cause w).power = d.power := (Device.bayReset_within d k cause w (Device.Within.refl 202564104 _) (Nat.and_self _)).part .power (by decide)
@[simp] theorem Device.bayReset_queues (d : Device) (k : Nat) (cause : Nat) (w : Blame) : (Device.bayReset d k cause w).queues = d.queues := (Device.bayReset_within d k cause w (Device.Within.refl 202564104 _) (Nat.and_self _)).part .queues (by decide)
@[simp] theorem Device.bayReset_fetched (d : Device) (k : Nat) (cause : Nat) (w : Blame) : (Device.bayReset d k cause w).fetched = d.fetched := (Device.bayReset_within d k cause w (Device.Within.refl 202564104 _) (Nat.and_self _)).part .fetched (by decide)
@[simp] theorem Device.bayReset_tagsFree (d : Device) (k : Nat) (cause : Nat) (w : Blame) : (Device.bayReset d k cause w).tagsFree = d.tagsFree := (Device.bayReset_within d k cause w (Device.Within.refl 202564104 _) (Nat.and_self _)).part .tagsFree (by decide)
@[simp] theorem Device.bayReset_events (d : Device) (k : Nat) (cause : Nat) (w : Blame) : (Device.bayReset d k cause w).events = d.events := (Device.bayReset_within d k cause w (Device.Within.refl 202564104 _) (Nat.and_self _)).part .events (by decide)
@[simp] theorem Device.bayReset_ioBacklog (d : Device) (k : Nat) (cause : Nat) (w : Blame) : (Device.bayReset d k cause w).ioBacklog = d.ioBacklog := (Device.bayReset_within d k cause w (Device.Within.refl 202564104 _) (Nat.and_self _)).part .ioBacklog (by decide)
@[simp] theorem Device.bayReset_host (d : Device) (k : Nat) (cause : Nat) (w : Blame) : (Device.bayReset d k cause w).host = d.host := (Device.bayReset_within d k cause w (Device.Within.refl 202564104 _) (Nat.and_self _)).part .host (by decide)
@[simp] theorem Device.bayReset_streams (d : Device) (k : Nat) (cause : Nat) (w : Blame) : (Device.bayReset d k cause w).streams = d.streams := (Device.bayReset_within d k cause w (Device.Within.refl 202564104 _) (Nat.and_self _)).part .streams (by decide)
@[simp] theorem Device.bayReset_curSet (d : Device) (k : Nat) (cause : Nat) (w : Blame) : (Device.bayReset d k cause w).curSet = d.curSet := (Device.bayReset_within d k cause w (Device.Within.refl 202564104 _) (Nat.and_self _)).part .curSet (by decide)
@[simp] theorem Device.bayReset_verA (d : Device) (k : Nat) (cause : Nat) (w : Blame) : (Device.bayReset d k cause w).verA = d.verA := (Device.bayReset_within d k cause w (Device.Within.refl 202564104 _) (Nat.and_self _)).part .verA (by decide)
@[simp] theorem Device.bayReset_verB (d : Device) (k : Nat) (cause : Nat) (w : Blame) : (Device.bayReset d k cause w).verB = d.verB := (Device.bayReset_within d k cause w (Device.Within.refl 202564104 _) (Nat.and_self _)).part .verB (by decide)
@[simp] theorem Device.bayReset_pace (d : Device) (k : Nat) (cause : Nat) (w : Blame) : (Device.bayReset d k cause w).pace = d.pace := (Device.bayReset_within d k cause w (Device.Within.refl 202564104 _) (Nat.and_self _)).part .pace (by decide)
@[simp] theorem Device.bayReset_flash (d : Device) (k : Nat) (cause : Nat) (w : Blame) : (Device.bayReset d k cause w).flash = d.flash := (Device.bayReset_within d k cause w (Device.Within.refl 202564104 _) (Nat.and_self _)).part .flash (by decide)
@[simp] theorem Device.bayReset_images (d : Device) (k : Nat) (cause : Nat) (w : Blame) : (Device.bayReset d k cause w).images = d.images := (Device.bayReset_within d k cause w (Device.Within.refl 202564104 _) (Nat.and_self _)).part .images (by decide)
@[simp] theorem Device.bayReset_out (d : Device) (k : Nat) (cause : Nat) (w : Blame) : (Device.bayReset d k cause w).out = d.out := (Device.bayReset_within d k cause w (Device.Within.refl 202564104 _) (Nat.and_self _)).part .out (by decide)

/-! ### Device.outOfService -/

@[simp] theorem Device.outOfService_now (d : Device) (k : Nat) (reason : Nat) (w : Blame) : (Device.outOfService d k reason w).now = d.now := (Device.outOfService_within d k reason w (Device.Within.refl 2349998604 _) (Nat.and_self _)).part .now (by decide)
@[simp] theorem Device.outOfService_stepCounter (d : Device) (k : Nat) (reason : Nat) (w : Blame) : (Device.outOfService d k reason w).stepCounter = d.stepCounter := (Device.outOfService_within d k reason w (Device.Within.refl 2349998604 _) (Nat.and_self _)).part .stepCounter (by decide)
@[simp] theorem Device.outOfService_queues (d : Device) (k : Nat) (reason : Nat) (w : Blame) : (Device.outOfService d k reason w).queues = d.queues := (Device.outOfService_within d k reason w (Device.Within.refl 2349998604 _) (Nat.and_self _)).part .queues (by decide)
@[simp] theorem Device.outOfService_fetched (d : Device) (k : Nat) (reason : Nat) (w : Blame) : (Device.outOfService d k reason w).fetched = d.fetched := (Device.outOfService_within d k reason w (Device.Within.refl 2349998604 _) (Nat.and_self _)).part .fetched (by decide)
@[simp] theorem Device.outOfService_tagsFree (d : Device) (k : Nat) (reason : Nat) (w : Blame) : (Device.outOfService d k reason w).tagsFree = d.tagsFree := (Device.outOfService_within d k reason w (Device.Within.refl 2349998604 _) (Nat.and_self _)).part .tagsFree (by decide)
@[simp] theorem Device.outOfService_events (d : Device) (k : Nat) (reason : Nat) (w : Blame) : (Device.outOfService d k reason w).events = d.events := (Device.outOfService_within d k reason w (Device.Within.refl 2349998604 _) (Nat.and_self _)).part .events (by decide)
@[simp] theorem Device.outOfService_ioBacklog (d : Device) (k : Nat) (reason : Nat) (w : Blame) : (Device.outOfService d k reason w).ioBacklog = d.ioBacklog := (Device.outOfService_within d k reason w (Device.Within.refl 2349998604 _) (Nat.and_self _)).part .ioBacklog (by decide)
@[simp] theorem Device.outOfService_mem (d : Device) (k : Nat) (reason : Nat) (w : Blame) : (Device.outOfService d k reason w).mem = d.mem := (Device.outOfService_within d k reason w (Device.Within.refl 2349998604 _) (Nat.and_self _)).part .mem (by decide)
@[simp] theorem Device.outOfService_poison (d : Device) (k : Nat) (reason : Nat) (w : Blame) : (Device.outOfService d k reason w).poison = d.poison := (Device.outOfService_within d k reason w (Device.Within.refl 2349998604 _) (Nat.and_self _)).part .poison (by decide)
@[simp] theorem Device.outOfService_host (d : Device) (k : Nat) (reason : Nat) (w : Blame) : (Device.outOfService d k reason w).host = d.host := (Device.outOfService_within d k reason w (Device.Within.refl 2349998604 _) (Nat.and_self _)).part .host (by decide)
@[simp] theorem Device.outOfService_streams (d : Device) (k : Nat) (reason : Nat) (w : Blame) : (Device.outOfService d k reason w).streams = d.streams := (Device.outOfService_within d k reason w (Device.Within.refl 2349998604 _) (Nat.and_self _)).part .streams (by decide)
@[simp] theorem Device.outOfService_curSet (d : Device) (k : Nat) (reason : Nat) (w : Blame) : (Device.outOfService d k reason w).curSet = d.curSet := (Device.outOfService_within d k reason w (Device.Within.refl 2349998604 _) (Nat.and_self _)).part .curSet (by decide)
@[simp] theorem Device.outOfService_verA (d : Device) (k : Nat) (reason : Nat) (w : Blame) : (Device.outOfService d k reason w).verA = d.verA := (Device.outOfService_within d k reason w (Device.Within.refl 2349998604 _) (Nat.and_self _)).part .verA (by decide)
@[simp] theorem Device.outOfService_verB (d : Device) (k : Nat) (reason : Nat) (w : Blame) : (Device.outOfService d k reason w).verB = d.verB := (Device.outOfService_within d k reason w (Device.Within.refl 2349998604 _) (Nat.and_self _)).part .verB (by decide)
@[simp] theorem Device.outOfService_pace (d : Device) (k : Nat) (reason : Nat) (w : Blame) : (Device.outOfService d k reason w).pace = d.pace := (Device.outOfService_within d k reason w (Device.Within.refl 2349998604 _) (Nat.and_self _)).part .pace (by decide)
@[simp] theorem Device.outOfService_flash (d : Device) (k : Nat) (reason : Nat) (w : Blame) : (Device.outOfService d k reason w).flash = d.flash := (Device.outOfService_within d k reason w (Device.Within.refl 2349998604 _) (Nat.and_self _)).part .flash (by decide)
@[simp] theorem Device.outOfService_images (d : Device) (k : Nat) (reason : Nat) (w : Blame) : (Device.outOfService d k reason w).images = d.images := (Device.outOfService_within d k reason w (Device.Within.refl 2349998604 _) (Nat.and_self _)).part .images (by decide)

/-! ### Device.abortCmds -/

@[simp] theorem Device.abortCmds_now (d : Device) (which : Cmd → Bool) : (Device.abortCmds d which).now = d.now := (Device.abortCmds_within d which (Device.Within.refl 6645087000 _) (Nat.and_self _)).part .now (by decide)
@[simp] theorem Device.abortCmds_stepCounter (d : Device) (which : Cmd → Bool) : (Device.abortCmds d which).stepCounter = d.stepCounter := (Device.abortCmds_within d which (Device.Within.refl 6645087000 _) (Nat.and_self _)).part .stepCounter (by decide)
@[simp] theorem Device.abortCmds_power (d : Device) (which : Cmd → Bool) : (Device.abortCmds d which).power = d.power := (Device.abortCmds_within d which (Device.Within.refl 6645087000 _) (Nat.and_self _)).part .power (by decide)
@[simp] theorem Device.abortCmds_fetched (d : Device) (which : Cmd → Bool) : (Device.abortCmds d which).fetched = d.fetched := (Device.abortCmds_within d which (Device.Within.refl 6645087000 _) (Nat.and_self _)).part .fetched (by decide)
@[simp] theorem Device.abortCmds_streams (d : Device) (which : Cmd → Bool) : (Device.abortCmds d which).streams = d.streams := (Device.abortCmds_within d which (Device.Within.refl 6645087000 _) (Nat.and_self _)).part .streams (by decide)
@[simp] theorem Device.abortCmds_curSet (d : Device) (which : Cmd → Bool) : (Device.abortCmds d which).curSet = d.curSet := (Device.abortCmds_within d which (Device.Within.refl 6645087000 _) (Nat.and_self _)).part .curSet (by decide)
@[simp] theorem Device.abortCmds_verA (d : Device) (which : Cmd → Bool) : (Device.abortCmds d which).verA = d.verA := (Device.abortCmds_within d which (Device.Within.refl 6645087000 _) (Nat.and_self _)).part .verA (by decide)
@[simp] theorem Device.abortCmds_verB (d : Device) (which : Cmd → Bool) : (Device.abortCmds d which).verB = d.verB := (Device.abortCmds_within d which (Device.Within.refl 6645087000 _) (Nat.and_self _)).part .verB (by decide)
@[simp] theorem Device.abortCmds_pace (d : Device) (which : Cmd → Bool) : (Device.abortCmds d which).pace = d.pace := (Device.abortCmds_within d which (Device.Within.refl 6645087000 _) (Nat.and_self _)).part .pace (by decide)
@[simp] theorem Device.abortCmds_flash (d : Device) (which : Cmd → Bool) : (Device.abortCmds d which).flash = d.flash := (Device.abortCmds_within d which (Device.Within.refl 6645087000 _) (Nat.and_self _)).part .flash (by decide)
@[simp] theorem Device.abortCmds_images (d : Device) (which : Cmd → Bool) : (Device.abortCmds d which).images = d.images := (Device.abortCmds_within d which (Device.Within.refl 6645087000 _) (Nat.and_self _)).part .images (by decide)

/-! ### Device.freshScratchpad -/

@[simp] theorem Device.freshScratchpad_now (d : Device) (k : Nat) (t : Nat) : (Device.freshScratchpad d k t).now = d.now := (Device.freshScratchpad_within d k t (Device.Within.refl 4295016448 _) (Nat.and_self _)).part .now (by decide)
@[simp] theorem Device.freshScratchpad_stepCounter (d : Device) (k : Nat) (t : Nat) : (Device.freshScratchpad d k t).stepCounter = d.stepCounter := (Device.freshScratchpad_within d k t (Device.Within.refl 4295016448 _) (Nat.and_self _)).part .stepCounter (by decide)
@[simp] theorem Device.freshScratchpad_power (d : Device) (k : Nat) (t : Nat) : (Device.freshScratchpad d k t).power = d.power := (Device.freshScratchpad_within d k t (Device.Within.refl 4295016448 _) (Nat.and_self _)).part .power (by decide)
@[simp] theorem Device.freshScratchpad_dict (d : Device) (k : Nat) (t : Nat) : (Device.freshScratchpad d k t).dict = d.dict := (Device.freshScratchpad_within d k t (Device.Within.refl 4295016448 _) (Nat.and_self _)).part .dict (by decide)
@[simp] theorem Device.freshScratchpad_queues (d : Device) (k : Nat) (t : Nat) : (Device.freshScratchpad d k t).queues = d.queues := (Device.freshScratchpad_within d k t (Device.Within.refl 4295016448 _) (Nat.and_self _)).part .queues (by decide)
@[simp] theorem Device.freshScratchpad_fetched (d : Device) (k : Nat) (t : Nat) : (Device.freshScratchpad d k t).fetched = d.fetched := (Device.freshScratchpad_within d k t (Device.Within.refl 4295016448 _) (Nat.and_self _)).part .fetched (by decide)
@[simp] theorem Device.freshScratchpad_tagsFree (d : Device) (k : Nat) (t : Nat) : (Device.freshScratchpad d k t).tagsFree = d.tagsFree := (Device.freshScratchpad_within d k t (Device.Within.refl 4295016448 _) (Nat.and_self _)).part .tagsFree (by decide)
@[simp] theorem Device.freshScratchpad_cmds (d : Device) (k : Nat) (t : Nat) : (Device.freshScratchpad d k t).cmds = d.cmds := (Device.freshScratchpad_within d k t (Device.Within.refl 4295016448 _) (Nat.and_self _)).part .cmds (by decide)
@[simp] theorem Device.freshScratchpad_events (d : Device) (k : Nat) (t : Nat) : (Device.freshScratchpad d k t).events = d.events := (Device.freshScratchpad_within d k t (Device.Within.refl 4295016448 _) (Nat.and_self _)).part .events (by decide)
@[simp] theorem Device.freshScratchpad_ioBacklog (d : Device) (k : Nat) (t : Nat) : (Device.freshScratchpad d k t).ioBacklog = d.ioBacklog := (Device.freshScratchpad_within d k t (Device.Within.refl 4295016448 _) (Nat.and_self _)).part .ioBacklog (by decide)
@[simp] theorem Device.freshScratchpad_tiles (d : Device) (k : Nat) (t : Nat) : (Device.freshScratchpad d k t).tiles = d.tiles := (Device.freshScratchpad_within d k t (Device.Within.refl 4295016448 _) (Nat.and_self _)).part .tiles (by decide)
@[simp] theorem Device.freshScratchpad_host (d : Device) (k : Nat) (t : Nat) : (Device.freshScratchpad d k t).host = d.host := (Device.freshScratchpad_within d k t (Device.Within.refl 4295016448 _) (Nat.and_self _)).part .host (by decide)
@[simp] theorem Device.freshScratchpad_bays (d : Device) (k : Nat) (t : Nat) : (Device.freshScratchpad d k t).bays = d.bays := (Device.freshScratchpad_within d k t (Device.Within.refl 4295016448 _) (Nat.and_self _)).part .bays (by decide)
@[simp] theorem Device.freshScratchpad_ports (d : Device) (k : Nat) (t : Nat) : (Device.freshScratchpad d k t).ports = d.ports := (Device.freshScratchpad_within d k t (Device.Within.refl 4295016448 _) (Nat.and_self _)).part .ports (by decide)
@[simp] theorem Device.freshScratchpad_streams (d : Device) (k : Nat) (t : Nat) : (Device.freshScratchpad d k t).streams = d.streams := (Device.freshScratchpad_within d k t (Device.Within.refl 4295016448 _) (Nat.and_self _)).part .streams (by decide)
@[simp] theorem Device.freshScratchpad_curSet (d : Device) (k : Nat) (t : Nat) : (Device.freshScratchpad d k t).curSet = d.curSet := (Device.freshScratchpad_within d k t (Device.Within.refl 4295016448 _) (Nat.and_self _)).part .curSet (by decide)
@[simp] theorem Device.freshScratchpad_verA (d : Device) (k : Nat) (t : Nat) : (Device.freshScratchpad d k t).verA = d.verA := (Device.freshScratchpad_within d k t (Device.Within.refl 4295016448 _) (Nat.and_self _)).part .verA (by decide)
@[simp] theorem Device.freshScratchpad_verB (d : Device) (k : Nat) (t : Nat) : (Device.freshScratchpad d k t).verB = d.verB := (Device.freshScratchpad_within d k t (Device.Within.refl 4295016448 _) (Nat.and_self _)).part .verB (by decide)
@[simp] theorem Device.freshScratchpad_pace (d : Device) (k : Nat) (t : Nat) : (Device.freshScratchpad d k t).pace = d.pace := (Device.freshScratchpad_within d k t (Device.Within.refl 4295016448 _) (Nat.and_self _)).part .pace (by decide)
@[simp] theorem Device.freshScratchpad_log (d : Device) (k : Nat) (t : Nat) : (Device.freshScratchpad d k t).log = d.log := (Device.freshScratchpad_within d k t (Device.Within.refl 4295016448 _) (Nat.and_self _)).part .log (by decide)
@[simp] theorem Device.freshScratchpad_safety (d : Device) (k : Nat) (t : Nat) : (Device.freshScratchpad d k t).safety = d.safety := (Device.freshScratchpad_within d k t (Device.Within.refl 4295016448 _) (Nat.and_self _)).part .safety (by decide)
@[simp] theorem Device.freshScratchpad_flash (d : Device) (k : Nat) (t : Nat) : (Device.freshScratchpad d k t).flash = d.flash := (Device.freshScratchpad_within d k t (Device.Within.refl 4295016448 _) (Nat.and_self _)).part .flash (by decide)
@[simp] theorem Device.freshScratchpad_images (d : Device) (k : Nat) (t : Nat) : (Device.freshScratchpad d k t).images = d.images := (Device.freshScratchpad_within d k t (Device.Within.refl 4295016448 _) (Nat.and_self _)).part .images (by decide)
@[simp] theorem Device.freshScratchpad_out (d : Device) (k : Nat) (t : Nat) : (Device.freshScratchpad d k t).out = d.out := (Device.freshScratchpad_within d k t (Device.Within.refl 4295016448 _) (Nat.and_self _)).part .out (by decide)

/-! ### Device.rebuildLog -/

@[simp] theorem Device.rebuildLog_now (d : Device) : (Device.rebuildLog d).now = d.now := (Device.rebuildLog_within d (Device.Within.refl 67108872 _) (Nat.and_self _)).part .now (by decide)
@[simp] theorem Device.rebuildLog_stepCounter (d : Device) : (Device.rebuildLog d).stepCounter = d.stepCounter := (Device.rebuildLog_within d (Device.Within.refl 67108872 _) (Nat.and_self _)).part .stepCounter (by decide)
@[simp] theorem Device.rebuildLog_power (d : Device) : (Device.rebuildLog d).power = d.power := (Device.rebuildLog_within d (Device.Within.refl 67108872 _) (Nat.and_self _)).part .power (by decide)
@[simp] theorem Device.rebuildLog_queues (d : Device) : (Device.rebuildLog d).queues = d.queues := (Device.rebuildLog_within d (Device.Within.refl 67108872 _) (Nat.and_self _)).part .queues (by decide)
@[simp] theorem Device.rebuildLog_fetched (d : Device) : (Device.rebuildLog d).fetched = d.fetched := (Device.rebuildLog_within d (Device.Within.refl 67108872 _) (Nat.and_self _)).part .fetched (by decide)
@[simp] theorem Device.rebuildLog_tagsFree (d : Device) : (Device.rebuildLog d).tagsFree = d.tagsFree := (Device.rebuildLog_within d (Device.Within.refl 67108872 _) (Nat.and_self _)).part .tagsFree (by decide)
@[simp] theorem Device.rebuildLog_cmds (d : Device) : (Device.rebuildLog d).cmds = d.cmds := (Device.rebuildLog_within d (Device.Within.refl 67108872 _) (Nat.and_self _)).part .cmds (by decide)
@[simp] theorem Device.rebuildLog_events (d : Device) : (Device.rebuildLog d).events = d.events := (Device.rebuildLog_within d (Device.Within.refl 67108872 _) (Nat.and_self _)).part .events (by decide)
@[simp] theorem Device.rebuildLog_ioBacklog (d : Device) : (Device.rebuildLog d).ioBacklog = d.ioBacklog := (Device.rebuildLog_within d (Device.Within.refl 67108872 _) (Nat.and_self _)).part .ioBacklog (by decide)
@[simp] theorem Device.rebuildLog_tiles (d : Device) : (Device.rebuildLog d).tiles = d.tiles := (Device.rebuildLog_within d (Device.Within.refl 67108872 _) (Nat.and_self _)).part .tiles (by decide)
@[simp] theorem Device.rebuildLog_mem (d : Device) : (Device.rebuildLog d).mem = d.mem := (Device.rebuildLog_within d (Device.Within.refl 67108872 _) (Nat.and_self _)).part .mem (by decide)
@[simp] theorem Device.rebuildLog_poison (d : Device) : (Device.rebuildLog d).poison = d.poison := (Device.rebuildLog_within d (Device.Within.refl 67108872 _) (Nat.and_self _)).part .poison (by decide)
@[simp] theorem Device.rebuildLog_host (d : Device) : (Device.rebuildLog d).host = d.host := (Device.rebuildLog_within d (Device.Within.refl 67108872 _) (Nat.and_self _)).part .host (by decide)
@[simp] theorem Device.rebuildLog_bays (d : Device) : (Device.rebuildLog d).bays = d.bays := (Device.rebuildLog_within d (Device.Within.refl 67108872 _) (Nat.and_self _)).part .bays (by decide)
@[simp] theorem Device.rebuildLog_ports (d : Device) : (Device.rebuildLog d).ports = d.ports := (Device.rebuildLog_within d (Device.Within.refl 67108872 _) (Nat.and_self _)).part .ports (by decide)
@[simp] theorem Device.rebuildLog_streams (d : Device) : (Device.rebuildLog d).streams = d.streams := (Device.rebuildLog_within d (Device.Within.refl 67108872 _) (Nat.and_self _)).part .streams (by decide)
@[simp] theorem Device.rebuildLog_curSet (d : Device) : (Device.rebuildLog d).curSet = d.curSet := (Device.rebuildLog_within d (Device.Within.refl 67108872 _) (Nat.and_self _)).part .curSet (by decide)
@[simp] theorem Device.rebuildLog_verA (d : Device) : (Device.rebuildLog d).verA = d.verA := (Device.rebuildLog_within d (Device.Within.refl 67108872 _) (Nat.and_self _)).part .verA (by decide)
@[simp] theorem Device.rebuildLog_verB (d : Device) : (Device.rebuildLog d).verB = d.verB := (Device.rebuildLog_within d (Device.Within.refl 67108872 _) (Nat.and_self _)).part .verB (by decide)
@[simp] theorem Device.rebuildLog_pace (d : Device) : (Device.rebuildLog d).pace = d.pace := (Device.rebuildLog_within d (Device.Within.refl 67108872 _) (Nat.and_self _)).part .pace (by decide)
@[simp] theorem Device.rebuildLog_safety (d : Device) : (Device.rebuildLog d).safety = d.safety := (Device.rebuildLog_within d (Device.Within.refl 67108872 _) (Nat.and_self _)).part .safety (by decide)
@[simp] theorem Device.rebuildLog_flash (d : Device) : (Device.rebuildLog d).flash = d.flash := (Device.rebuildLog_within d (Device.Within.refl 67108872 _) (Nat.and_self _)).part .flash (by decide)
@[simp] theorem Device.rebuildLog_images (d : Device) : (Device.rebuildLog d).images = d.images := (Device.rebuildLog_within d (Device.Within.refl 67108872 _) (Nat.and_self _)).part .images (by decide)
@[simp] theorem Device.rebuildLog_out (d : Device) : (Device.rebuildLog d).out = d.out := (Device.rebuildLog_within d (Device.Within.refl 67108872 _) (Nat.and_self _)).part .out (by decide)

/-! ### Device.closeSession -/

@[simp] theorem Device.closeSession_now (d : Device) (k : Nat) : (Device.closeSession d k).now = d.now := (Device.closeSession_within d k (Device.Within.refl 939524104 _) (Nat.and_self _)).part .now (by decide)
@[simp] theorem Device.closeSession_stepCounter (d : Device) (k : Nat) : (Device.closeSession d k).stepCounter = d.stepCounter := (Device.closeSession_within d k (Device.Within.refl 939524104 _) (Nat.and_self _)).part .stepCounter (by decide)
@[simp] theorem Device.closeSession_power (d : Device) (k : Nat) : (Device.closeSession d k).power = d.power := (Device.closeSession_within d k (Device.Within.refl 939524104 _) (Nat.and_self _)).part .power (by decide)
@[simp] theorem Device.closeSession_queues (d : Device) (k : Nat) : (Device.closeSession d k).queues = d.queues := (Device.closeSession_within d k (Device.Within.refl 939524104 _) (Nat.and_self _)).part .queues (by decide)
@[simp] theorem Device.closeSession_fetched (d : Device) (k : Nat) : (Device.closeSession d k).fetched = d.fetched := (Device.closeSession_within d k (Device.Within.refl 939524104 _) (Nat.and_self _)).part .fetched (by decide)
@[simp] theorem Device.closeSession_tagsFree (d : Device) (k : Nat) : (Device.closeSession d k).tagsFree = d.tagsFree := (Device.closeSession_within d k (Device.Within.refl 939524104 _) (Nat.and_self _)).part .tagsFree (by decide)
@[simp] theorem Device.closeSession_cmds (d : Device) (k : Nat) : (Device.closeSession d k).cmds = d.cmds := (Device.closeSession_within d k (Device.Within.refl 939524104 _) (Nat.and_self _)).part .cmds (by decide)
@[simp] theorem Device.closeSession_events (d : Device) (k : Nat) : (Device.closeSession d k).events = d.events := (Device.closeSession_within d k (Device.Within.refl 939524104 _) (Nat.and_self _)).part .events (by decide)
@[simp] theorem Device.closeSession_ioBacklog (d : Device) (k : Nat) : (Device.closeSession d k).ioBacklog = d.ioBacklog := (Device.closeSession_within d k (Device.Within.refl 939524104 _) (Nat.and_self _)).part .ioBacklog (by decide)
@[simp] theorem Device.closeSession_tiles (d : Device) (k : Nat) : (Device.closeSession d k).tiles = d.tiles := (Device.closeSession_within d k (Device.Within.refl 939524104 _) (Nat.and_self _)).part .tiles (by decide)
@[simp] theorem Device.closeSession_mem (d : Device) (k : Nat) : (Device.closeSession d k).mem = d.mem := (Device.closeSession_within d k (Device.Within.refl 939524104 _) (Nat.and_self _)).part .mem (by decide)
@[simp] theorem Device.closeSession_poison (d : Device) (k : Nat) : (Device.closeSession d k).poison = d.poison := (Device.closeSession_within d k (Device.Within.refl 939524104 _) (Nat.and_self _)).part .poison (by decide)
@[simp] theorem Device.closeSession_host (d : Device) (k : Nat) : (Device.closeSession d k).host = d.host := (Device.closeSession_within d k (Device.Within.refl 939524104 _) (Nat.and_self _)).part .host (by decide)
@[simp] theorem Device.closeSession_bays (d : Device) (k : Nat) : (Device.closeSession d k).bays = d.bays := (Device.closeSession_within d k (Device.Within.refl 939524104 _) (Nat.and_self _)).part .bays (by decide)
@[simp] theorem Device.closeSession_ports (d : Device) (k : Nat) : (Device.closeSession d k).ports = d.ports := (Device.closeSession_within d k (Device.Within.refl 939524104 _) (Nat.and_self _)).part .ports (by decide)
@[simp] theorem Device.closeSession_streams (d : Device) (k : Nat) : (Device.closeSession d k).streams = d.streams := (Device.closeSession_within d k (Device.Within.refl 939524104 _) (Nat.and_self _)).part .streams (by decide)
@[simp] theorem Device.closeSession_curSet (d : Device) (k : Nat) : (Device.closeSession d k).curSet = d.curSet := (Device.closeSession_within d k (Device.Within.refl 939524104 _) (Nat.and_self _)).part .curSet (by decide)
@[simp] theorem Device.closeSession_verA (d : Device) (k : Nat) : (Device.closeSession d k).verA = d.verA := (Device.closeSession_within d k (Device.Within.refl 939524104 _) (Nat.and_self _)).part .verA (by decide)
@[simp] theorem Device.closeSession_verB (d : Device) (k : Nat) : (Device.closeSession d k).verB = d.verB := (Device.closeSession_within d k (Device.Within.refl 939524104 _) (Nat.and_self _)).part .verB (by decide)
@[simp] theorem Device.closeSession_pace (d : Device) (k : Nat) : (Device.closeSession d k).pace = d.pace := (Device.closeSession_within d k (Device.Within.refl 939524104 _) (Nat.and_self _)).part .pace (by decide)
@[simp] theorem Device.closeSession_log (d : Device) (k : Nat) : (Device.closeSession d k).log = d.log := (Device.closeSession_within d k (Device.Within.refl 939524104 _) (Nat.and_self _)).part .log (by decide)
@[simp] theorem Device.closeSession_out (d : Device) (k : Nat) : (Device.closeSession d k).out = d.out := (Device.closeSession_within d k (Device.Within.refl 939524104 _) (Nat.and_self _)).part .out (by decide)

/-! ### Device.setOwner -/

@[simp] theorem Device.setOwner_now (d : Device) (o : Nat) : (Device.setOwner d o).now = d.now := (Device.setOwner_within d o (Device.Within.refl 939524104 _) (Nat.and_self _)).part .now (by decide)
@[simp] theorem Device.setOwner_stepCounter (d : Device) (o : Nat) : (Device.setOwner d o).stepCounter = d.stepCounter := (Device.setOwner_within d o (Device.Within.refl 939524104 _) (Nat.and_self _)).part .stepCounter (by decide)
@[simp] theorem Device.setOwner_power (d : Device) (o : Nat) : (Device.setOwner d o).power = d.power := (Device.setOwner_within d o (Device.Within.refl 939524104 _) (Nat.and_self _)).part .power (by decide)
@[simp] theorem Device.setOwner_queues (d : Device) (o : Nat) : (Device.setOwner d o).queues = d.queues := (Device.setOwner_within d o (Device.Within.refl 939524104 _) (Nat.and_self _)).part .queues (by decide)
@[simp] theorem Device.setOwner_fetched (d : Device) (o : Nat) : (Device.setOwner d o).fetched = d.fetched := (Device.setOwner_within d o (Device.Within.refl 939524104 _) (Nat.and_self _)).part .fetched (by decide)
@[simp] theorem Device.setOwner_tagsFree (d : Device) (o : Nat) : (Device.setOwner d o).tagsFree = d.tagsFree := (Device.setOwner_within d o (Device.Within.refl 939524104 _) (Nat.and_self _)).part .tagsFree (by decide)
@[simp] theorem Device.setOwner_cmds (d : Device) (o : Nat) : (Device.setOwner d o).cmds = d.cmds := (Device.setOwner_within d o (Device.Within.refl 939524104 _) (Nat.and_self _)).part .cmds (by decide)
@[simp] theorem Device.setOwner_events (d : Device) (o : Nat) : (Device.setOwner d o).events = d.events := (Device.setOwner_within d o (Device.Within.refl 939524104 _) (Nat.and_self _)).part .events (by decide)
@[simp] theorem Device.setOwner_ioBacklog (d : Device) (o : Nat) : (Device.setOwner d o).ioBacklog = d.ioBacklog := (Device.setOwner_within d o (Device.Within.refl 939524104 _) (Nat.and_self _)).part .ioBacklog (by decide)
@[simp] theorem Device.setOwner_tiles (d : Device) (o : Nat) : (Device.setOwner d o).tiles = d.tiles := (Device.setOwner_within d o (Device.Within.refl 939524104 _) (Nat.and_self _)).part .tiles (by decide)
@[simp] theorem Device.setOwner_mem (d : Device) (o : Nat) : (Device.setOwner d o).mem = d.mem := (Device.setOwner_within d o (Device.Within.refl 939524104 _) (Nat.and_self _)).part .mem (by decide)
@[simp] theorem Device.setOwner_poison (d : Device) (o : Nat) : (Device.setOwner d o).poison = d.poison := (Device.setOwner_within d o (Device.Within.refl 939524104 _) (Nat.and_self _)).part .poison (by decide)
@[simp] theorem Device.setOwner_host (d : Device) (o : Nat) : (Device.setOwner d o).host = d.host := (Device.setOwner_within d o (Device.Within.refl 939524104 _) (Nat.and_self _)).part .host (by decide)
@[simp] theorem Device.setOwner_bays (d : Device) (o : Nat) : (Device.setOwner d o).bays = d.bays := (Device.setOwner_within d o (Device.Within.refl 939524104 _) (Nat.and_self _)).part .bays (by decide)
@[simp] theorem Device.setOwner_ports (d : Device) (o : Nat) : (Device.setOwner d o).ports = d.ports := (Device.setOwner_within d o (Device.Within.refl 939524104 _) (Nat.and_self _)).part .ports (by decide)
@[simp] theorem Device.setOwner_streams (d : Device) (o : Nat) : (Device.setOwner d o).streams = d.streams := (Device.setOwner_within d o (Device.Within.refl 939524104 _) (Nat.and_self _)).part .streams (by decide)
@[simp] theorem Device.setOwner_curSet (d : Device) (o : Nat) : (Device.setOwner d o).curSet = d.curSet := (Device.setOwner_within d o (Device.Within.refl 939524104 _) (Nat.and_self _)).part .curSet (by decide)
@[simp] theorem Device.setOwner_verA (d : Device) (o : Nat) : (Device.setOwner d o).verA = d.verA := (Device.setOwner_within d o (Device.Within.refl 939524104 _) (Nat.and_self _)).part .verA (by decide)
@[simp] theorem Device.setOwner_verB (d : Device) (o : Nat) : (Device.setOwner d o).verB = d.verB := (Device.setOwner_within d o (Device.Within.refl 939524104 _) (Nat.and_self _)).part .verB (by decide)
@[simp] theorem Device.setOwner_pace (d : Device) (o : Nat) : (Device.setOwner d o).pace = d.pace := (Device.setOwner_within d o (Device.Within.refl 939524104 _) (Nat.and_self _)).part .pace (by decide)
@[simp] theorem Device.setOwner_log (d : Device) (o : Nat) : (Device.setOwner d o).log = d.log := (Device.setOwner_within d o (Device.Within.refl 939524104 _) (Nat.and_self _)).part .log (by decide)
@[simp] theorem Device.setOwner_out (d : Device) (o : Nat) : (Device.setOwner d o).out = d.out := (Device.setOwner_within d o (Device.Within.refl 939524104 _) (Nat.and_self _)).part .out (by decide)

/-! ### Device.degrade -/

@[simp] theorem Device.degrade_now (d : Device) (k : Nat) (path : Nat) (mech : Nat) : (Device.degrade d k path mech).now = d.now := (Device.degrade_within d k path mech (Device.Within.refl 2348941324 _) (Nat.and_self _)).part .now (by decide)
@[simp] theorem Device.degrade_stepCounter (d : Device) (k : Nat) (path : Nat) (mech : Nat) : (Device.degrade d k path mech).stepCounter = d.stepCounter := (Device.degrade_within d k path mech (Device.Within.refl 2348941324 _) (Nat.and_self _)).part .stepCounter (by decide)
@[simp] theorem Device.degrade_queues (d : Device) (k : Nat) (path : Nat) (mech : Nat) : (Device.degrade d k path mech).queues = d.queues := (Device.degrade_within d k path mech (Device.Within.refl 2348941324 _) (Nat.and_self _)).part .queues (by decide)
@[simp] theorem Device.degrade_fetched (d : Device) (k : Nat) (path : Nat) (mech : Nat) : (Device.degrade d k path mech).fetched = d.fetched := (Device.degrade_within d k path mech (Device.Within.refl 2348941324 _) (Nat.and_self _)).part .fetched (by decide)
@[simp] theorem Device.degrade_tagsFree (d : Device) (k : Nat) (path : Nat) (mech : Nat) : (Device.degrade d k path mech).tagsFree = d.tagsFree := (Device.degrade_within d k path mech (Device.Within.refl 2348941324 _) (Nat.and_self _)).part .tagsFree (by decide)
@[simp] theorem Device.degrade_cmds (d : Device) (k : Nat) (path : Nat) (mech : Nat) : (Device.degrade d k path mech).cmds = d.cmds := (Device.degrade_within d k path mech (Device.Within.refl 2348941324 _) (Nat.and_self _)).part .cmds (by decide)
@[simp] theorem Device.degrade_events (d : Device) (k : Nat) (path : Nat) (mech : Nat) : (Device.degrade d k path mech).events = d.events := (Device.degrade_within d k path mech (Device.Within.refl 2348941324 _) (Nat.and_self _)).part .events (by decide)
@[simp] theorem Device.degrade_ioBacklog (d : Device) (k : Nat) (path : Nat) (mech : Nat) : (Device.degrade d k path mech).ioBacklog = d.ioBacklog := (Device.degrade_within d k path mech (Device.Within.refl 2348941324 _) (Nat.and_self _)).part .ioBacklog (by decide)
@[simp] theorem Device.degrade_tiles (d : Device) (k : Nat) (path : Nat) (mech : Nat) : (Device.degrade d k path mech).tiles = d.tiles := (Device.degrade_within d k path mech (Device.Within.refl 2348941324 _) (Nat.and_self _)).part .tiles (by decide)
@[simp] theorem Device.degrade_mem (d : Device) (k : Nat) (path : Nat) (mech : Nat) : (Device.degrade d k path mech).mem = d.mem := (Device.degrade_within d k path mech (Device.Within.refl 2348941324 _) (Nat.and_self _)).part .mem (by decide)
@[simp] theorem Device.degrade_poison (d : Device) (k : Nat) (path : Nat) (mech : Nat) : (Device.degrade d k path mech).poison = d.poison := (Device.degrade_within d k path mech (Device.Within.refl 2348941324 _) (Nat.and_self _)).part .poison (by decide)
@[simp] theorem Device.degrade_host (d : Device) (k : Nat) (path : Nat) (mech : Nat) : (Device.degrade d k path mech).host = d.host := (Device.degrade_within d k path mech (Device.Within.refl 2348941324 _) (Nat.and_self _)).part .host (by decide)
@[simp] theorem Device.degrade_ports (d : Device) (k : Nat) (path : Nat) (mech : Nat) : (Device.degrade d k path mech).ports = d.ports := (Device.degrade_within d k path mech (Device.Within.refl 2348941324 _) (Nat.and_self _)).part .ports (by decide)
@[simp] theorem Device.degrade_streams (d : Device) (k : Nat) (path : Nat) (mech : Nat) : (Device.degrade d k path mech).streams = d.streams := (Device.degrade_within d k path mech (Device.Within.refl 2348941324 _) (Nat.and_self _)).part .streams (by decide)
@[simp] theorem Device.degrade_curSet (d : Device) (k : Nat) (path : Nat) (mech : Nat) : (Device.degrade d k path mech).curSet = d.curSet := (Device.degrade_within d k path mech (Device.Within.refl 2348941324 _) (Nat.and_self _)).part .curSet (by decide)
@[simp] theorem Device.degrade_verA (d : Device) (k : Nat) (path : Nat) (mech : Nat) : (Device.degrade d k path mech).verA = d.verA := (Device.degrade_within d k path mech (Device.Within.refl 2348941324 _) (Nat.and_self _)).part .verA (by decide)
@[simp] theorem Device.degrade_verB (d : Device) (k : Nat) (path : Nat) (mech : Nat) : (Device.degrade d k path mech).verB = d.verB := (Device.degrade_within d k path mech (Device.Within.refl 2348941324 _) (Nat.and_self _)).part .verB (by decide)
@[simp] theorem Device.degrade_pace (d : Device) (k : Nat) (path : Nat) (mech : Nat) : (Device.degrade d k path mech).pace = d.pace := (Device.degrade_within d k path mech (Device.Within.refl 2348941324 _) (Nat.and_self _)).part .pace (by decide)
@[simp] theorem Device.degrade_flash (d : Device) (k : Nat) (path : Nat) (mech : Nat) : (Device.degrade d k path mech).flash = d.flash := (Device.degrade_within d k path mech (Device.Within.refl 2348941324 _) (Nat.and_self _)).part .flash (by decide)
@[simp] theorem Device.degrade_images (d : Device) (k : Nat) (path : Nat) (mech : Nat) : (Device.degrade d k path mech).images = d.images := (Device.degrade_within d k path mech (Device.Within.refl 2348941324 _) (Nat.and_self _)).part .images (by decide)

/-! ### Device.failWith -/

@[simp] theorem Device.failWith_now (d : Device) (tag : Nat) (status : Nat) : (Device.failWith d tag status).now = d.now := (Device.failWith_within d tag status (Device.Within.refl 201466376 _) (Nat.and_self _)).part .now (by decide)
@[simp] theorem Device.failWith_stepCounter (d : Device) (tag : Nat) (status : Nat) : (Device.failWith d tag status).stepCounter = d.stepCounter := (Device.failWith_within d tag status (Device.Within.refl 201466376 _) (Nat.and_self _)).part .stepCounter (by decide)
@[simp] theorem Device.failWith_power (d : Device) (tag : Nat) (status : Nat) : (Device.failWith d tag status).power = d.power := (Device.failWith_within d tag status (Device.Within.refl 201466376 _) (Nat.and_self _)).part .power (by decide)
@[simp] theorem Device.failWith_queues (d : Device) (tag : Nat) (status : Nat) : (Device.failWith d tag status).queues = d.queues := (Device.failWith_within d tag status (Device.Within.refl 201466376 _) (Nat.and_self _)).part .queues (by decide)
@[simp] theorem Device.failWith_fetched (d : Device) (tag : Nat) (status : Nat) : (Device.failWith d tag status).fetched = d.fetched := (Device.failWith_within d tag status (Device.Within.refl 201466376 _) (Nat.and_self _)).part .fetched (by decide)
@[simp] theorem Device.failWith_tagsFree (d : Device) (tag : Nat) (status : Nat) : (Device.failWith d tag status).tagsFree = d.tagsFree := (Device.failWith_within d tag status (Device.Within.refl 201466376 _) (Nat.and_self _)).part .tagsFree (by decide)
@[simp] theorem Device.failWith_events (d : Device) (tag : Nat) (status : Nat) : (Device.failWith d tag status).events = d.events := (Device.failWith_within d tag status (Device.Within.refl 201466376 _) (Nat.and_self _)).part .events (by decide)
@[simp] theorem Device.failWith_ioBacklog (d : Device) (tag : Nat) (status : Nat) : (Device.failWith d tag status).ioBacklog = d.ioBacklog := (Device.failWith_within d tag status (Device.Within.refl 201466376 _) (Nat.and_self _)).part .ioBacklog (by decide)
@[simp] theorem Device.failWith_mem (d : Device) (tag : Nat) (status : Nat) : (Device.failWith d tag status).mem = d.mem := (Device.failWith_within d tag status (Device.Within.refl 201466376 _) (Nat.and_self _)).part .mem (by decide)
@[simp] theorem Device.failWith_poison (d : Device) (tag : Nat) (status : Nat) : (Device.failWith d tag status).poison = d.poison := (Device.failWith_within d tag status (Device.Within.refl 201466376 _) (Nat.and_self _)).part .poison (by decide)
@[simp] theorem Device.failWith_host (d : Device) (tag : Nat) (status : Nat) : (Device.failWith d tag status).host = d.host := (Device.failWith_within d tag status (Device.Within.refl 201466376 _) (Nat.and_self _)).part .host (by decide)
@[simp] theorem Device.failWith_ports (d : Device) (tag : Nat) (status : Nat) : (Device.failWith d tag status).ports = d.ports := (Device.failWith_within d tag status (Device.Within.refl 201466376 _) (Nat.and_self _)).part .ports (by decide)
@[simp] theorem Device.failWith_streams (d : Device) (tag : Nat) (status : Nat) : (Device.failWith d tag status).streams = d.streams := (Device.failWith_within d tag status (Device.Within.refl 201466376 _) (Nat.and_self _)).part .streams (by decide)
@[simp] theorem Device.failWith_curSet (d : Device) (tag : Nat) (status : Nat) : (Device.failWith d tag status).curSet = d.curSet := (Device.failWith_within d tag status (Device.Within.refl 201466376 _) (Nat.and_self _)).part .curSet (by decide)
@[simp] theorem Device.failWith_verA (d : Device) (tag : Nat) (status : Nat) : (Device.failWith d tag status).verA = d.verA := (Device.failWith_within d tag status (Device.Within.refl 201466376 _) (Nat.and_self _)).part .verA (by decide)
@[simp] theorem Device.failWith_verB (d : Device) (tag : Nat) (status : Nat) : (Device.failWith d tag status).verB = d.verB := (Device.failWith_within d tag status (Device.Within.refl 201466376 _) (Nat.and_self _)).part .verB (by decide)
@[simp] theorem Device.failWith_pace (d : Device) (tag : Nat) (status : Nat) : (Device.failWith d tag status).pace = d.pace := (Device.failWith_within d tag status (Device.Within.refl 201466376 _) (Nat.and_self _)).part .pace (by decide)
@[simp] theorem Device.failWith_flash (d : Device) (tag : Nat) (status : Nat) : (Device.failWith d tag status).flash = d.flash := (Device.failWith_within d tag status (Device.Within.refl 201466376 _) (Nat.and_self _)).part .flash (by decide)
@[simp] theorem Device.failWith_images (d : Device) (tag : Nat) (status : Nat) : (Device.failWith d tag status).images = d.images := (Device.failWith_within d tag status (Device.Within.refl 201466376 _) (Nat.and_self _)).part .images (by decide)
@[simp] theorem Device.failWith_out (d : Device) (tag : Nat) (status : Nat) : (Device.failWith d tag status).out = d.out := (Device.failWith_within d tag status (Device.Within.refl 201466376 _) (Nat.and_self _)).part .out (by decide)

/-! ### Device.report -/

@[simp] theorem Device.report_now (d : Device) (c : Cmd) : (Device.report d c).now = d.now := (Device.report_within d c (Device.Within.refl 6643843096 _) (Nat.and_self _)).part .now (by decide)
@[simp] theorem Device.report_stepCounter (d : Device) (c : Cmd) : (Device.report d c).stepCounter = d.stepCounter := (Device.report_within d c (Device.Within.refl 6643843096 _) (Nat.and_self _)).part .stepCounter (by decide)
@[simp] theorem Device.report_power (d : Device) (c : Cmd) : (Device.report d c).power = d.power := (Device.report_within d c (Device.Within.refl 6643843096 _) (Nat.and_self _)).part .power (by decide)
@[simp] theorem Device.report_fetched (d : Device) (c : Cmd) : (Device.report d c).fetched = d.fetched := (Device.report_within d c (Device.Within.refl 6643843096 _) (Nat.and_self _)).part .fetched (by decide)
@[simp] theorem Device.report_tagsFree (d : Device) (c : Cmd) : (Device.report d c).tagsFree = d.tagsFree := (Device.report_within d c (Device.Within.refl 6643843096 _) (Nat.and_self _)).part .tagsFree (by decide)
@[simp] theorem Device.report_cmds (d : Device) (c : Cmd) : (Device.report d c).cmds = d.cmds := (Device.report_within d c (Device.Within.refl 6643843096 _) (Nat.and_self _)).part .cmds (by decide)
@[simp] theorem Device.report_events (d : Device) (c : Cmd) : (Device.report d c).events = d.events := (Device.report_within d c (Device.Within.refl 6643843096 _) (Nat.and_self _)).part .events (by decide)
@[simp] theorem Device.report_ioBacklog (d : Device) (c : Cmd) : (Device.report d c).ioBacklog = d.ioBacklog := (Device.report_within d c (Device.Within.refl 6643843096 _) (Nat.and_self _)).part .ioBacklog (by decide)
@[simp] theorem Device.report_tiles (d : Device) (c : Cmd) : (Device.report d c).tiles = d.tiles := (Device.report_within d c (Device.Within.refl 6643843096 _) (Nat.and_self _)).part .tiles (by decide)
@[simp] theorem Device.report_mem (d : Device) (c : Cmd) : (Device.report d c).mem = d.mem := (Device.report_within d c (Device.Within.refl 6643843096 _) (Nat.and_self _)).part .mem (by decide)
@[simp] theorem Device.report_poison (d : Device) (c : Cmd) : (Device.report d c).poison = d.poison := (Device.report_within d c (Device.Within.refl 6643843096 _) (Nat.and_self _)).part .poison (by decide)
@[simp] theorem Device.report_bays (d : Device) (c : Cmd) : (Device.report d c).bays = d.bays := (Device.report_within d c (Device.Within.refl 6643843096 _) (Nat.and_self _)).part .bays (by decide)
@[simp] theorem Device.report_ports (d : Device) (c : Cmd) : (Device.report d c).ports = d.ports := (Device.report_within d c (Device.Within.refl 6643843096 _) (Nat.and_self _)).part .ports (by decide)
@[simp] theorem Device.report_streams (d : Device) (c : Cmd) : (Device.report d c).streams = d.streams := (Device.report_within d c (Device.Within.refl 6643843096 _) (Nat.and_self _)).part .streams (by decide)
@[simp] theorem Device.report_curSet (d : Device) (c : Cmd) : (Device.report d c).curSet = d.curSet := (Device.report_within d c (Device.Within.refl 6643843096 _) (Nat.and_self _)).part .curSet (by decide)
@[simp] theorem Device.report_verA (d : Device) (c : Cmd) : (Device.report d c).verA = d.verA := (Device.report_within d c (Device.Within.refl 6643843096 _) (Nat.and_self _)).part .verA (by decide)
@[simp] theorem Device.report_verB (d : Device) (c : Cmd) : (Device.report d c).verB = d.verB := (Device.report_within d c (Device.Within.refl 6643843096 _) (Nat.and_self _)).part .verB (by decide)
@[simp] theorem Device.report_pace (d : Device) (c : Cmd) : (Device.report d c).pace = d.pace := (Device.report_within d c (Device.Within.refl 6643843096 _) (Nat.and_self _)).part .pace (by decide)
@[simp] theorem Device.report_flash (d : Device) (c : Cmd) : (Device.report d c).flash = d.flash := (Device.report_within d c (Device.Within.refl 6643843096 _) (Nat.and_self _)).part .flash (by decide)
@[simp] theorem Device.report_images (d : Device) (c : Cmd) : (Device.report d c).images = d.images := (Device.report_within d c (Device.Within.refl 6643843096 _) (Nat.and_self _)).part .images (by decide)

/-! ### Device.signal -/

@[simp] theorem Device.signal_now (d : Device) (c : Cmd) : (Device.signal d c).now = d.now := (Device.signal_within d c (Device.Within.refl 2048 _) (Nat.and_self _)).part .now (by decide)
@[simp] theorem Device.signal_stepCounter (d : Device) (c : Cmd) : (Device.signal d c).stepCounter = d.stepCounter := (Device.signal_within d c (Device.Within.refl 2048 _) (Nat.and_self _)).part .stepCounter (by decide)
@[simp] theorem Device.signal_power (d : Device) (c : Cmd) : (Device.signal d c).power = d.power := (Device.signal_within d c (Device.Within.refl 2048 _) (Nat.and_self _)).part .power (by decide)
@[simp] theorem Device.signal_dict (d : Device) (c : Cmd) : (Device.signal d c).dict = d.dict := (Device.signal_within d c (Device.Within.refl 2048 _) (Nat.and_self _)).part .dict (by decide)
@[simp] theorem Device.signal_queues (d : Device) (c : Cmd) : (Device.signal d c).queues = d.queues := (Device.signal_within d c (Device.Within.refl 2048 _) (Nat.and_self _)).part .queues (by decide)
@[simp] theorem Device.signal_fetched (d : Device) (c : Cmd) : (Device.signal d c).fetched = d.fetched := (Device.signal_within d c (Device.Within.refl 2048 _) (Nat.and_self _)).part .fetched (by decide)
@[simp] theorem Device.signal_tagsFree (d : Device) (c : Cmd) : (Device.signal d c).tagsFree = d.tagsFree := (Device.signal_within d c (Device.Within.refl 2048 _) (Nat.and_self _)).part .tagsFree (by decide)
@[simp] theorem Device.signal_cmds (d : Device) (c : Cmd) : (Device.signal d c).cmds = d.cmds := (Device.signal_within d c (Device.Within.refl 2048 _) (Nat.and_self _)).part .cmds (by decide)
@[simp] theorem Device.signal_ioBacklog (d : Device) (c : Cmd) : (Device.signal d c).ioBacklog = d.ioBacklog := (Device.signal_within d c (Device.Within.refl 2048 _) (Nat.and_self _)).part .ioBacklog (by decide)
@[simp] theorem Device.signal_tiles (d : Device) (c : Cmd) : (Device.signal d c).tiles = d.tiles := (Device.signal_within d c (Device.Within.refl 2048 _) (Nat.and_self _)).part .tiles (by decide)
@[simp] theorem Device.signal_mem (d : Device) (c : Cmd) : (Device.signal d c).mem = d.mem := (Device.signal_within d c (Device.Within.refl 2048 _) (Nat.and_self _)).part .mem (by decide)
@[simp] theorem Device.signal_poison (d : Device) (c : Cmd) : (Device.signal d c).poison = d.poison := (Device.signal_within d c (Device.Within.refl 2048 _) (Nat.and_self _)).part .poison (by decide)
@[simp] theorem Device.signal_host (d : Device) (c : Cmd) : (Device.signal d c).host = d.host := (Device.signal_within d c (Device.Within.refl 2048 _) (Nat.and_self _)).part .host (by decide)
@[simp] theorem Device.signal_bays (d : Device) (c : Cmd) : (Device.signal d c).bays = d.bays := (Device.signal_within d c (Device.Within.refl 2048 _) (Nat.and_self _)).part .bays (by decide)
@[simp] theorem Device.signal_ports (d : Device) (c : Cmd) : (Device.signal d c).ports = d.ports := (Device.signal_within d c (Device.Within.refl 2048 _) (Nat.and_self _)).part .ports (by decide)
@[simp] theorem Device.signal_streams (d : Device) (c : Cmd) : (Device.signal d c).streams = d.streams := (Device.signal_within d c (Device.Within.refl 2048 _) (Nat.and_self _)).part .streams (by decide)
@[simp] theorem Device.signal_curSet (d : Device) (c : Cmd) : (Device.signal d c).curSet = d.curSet := (Device.signal_within d c (Device.Within.refl 2048 _) (Nat.and_self _)).part .curSet (by decide)
@[simp] theorem Device.signal_verA (d : Device) (c : Cmd) : (Device.signal d c).verA = d.verA := (Device.signal_within d c (Device.Within.refl 2048 _) (Nat.and_self _)).part .verA (by decide)
@[simp] theorem Device.signal_verB (d : Device) (c : Cmd) : (Device.signal d c).verB = d.verB := (Device.signal_within d c (Device.Within.refl 2048 _) (Nat.and_self _)).part .verB (by decide)
@[simp] theorem Device.signal_pace (d : Device) (c : Cmd) : (Device.signal d c).pace = d.pace := (Device.signal_within d c (Device.Within.refl 2048 _) (Nat.and_self _)).part .pace (by decide)
@[simp] theorem Device.signal_log (d : Device) (c : Cmd) : (Device.signal d c).log = d.log := (Device.signal_within d c (Device.Within.refl 2048 _) (Nat.and_self _)).part .log (by decide)
@[simp] theorem Device.signal_safety (d : Device) (c : Cmd) : (Device.signal d c).safety = d.safety := (Device.signal_within d c (Device.Within.refl 2048 _) (Nat.and_self _)).part .safety (by decide)
@[simp] theorem Device.signal_flash (d : Device) (c : Cmd) : (Device.signal d c).flash = d.flash := (Device.signal_within d c (Device.Within.refl 2048 _) (Nat.and_self _)).part .flash (by decide)
@[simp] theorem Device.signal_images (d : Device) (c : Cmd) : (Device.signal d c).images = d.images := (Device.signal_within d c (Device.Within.refl 2048 _) (Nat.and_self _)).part .images (by decide)
@[simp] theorem Device.signal_out (d : Device) (c : Cmd) : (Device.signal d c).out = d.out := (Device.signal_within d c (Device.Within.refl 2048 _) (Nat.and_self _)).part .out (by decide)

/-! ### Device.giveBack -/

@[simp] theorem Device.giveBack_now (d : Device) (c : Cmd) : (Device.giveBack d c).now = d.now := (Device.giveBack_within d c (Device.Within.refl 1183744 _) (Nat.and_self _)).part .now (by decide)
@[simp] theorem Device.giveBack_stepCounter (d : Device) (c : Cmd) : (Device.giveBack d c).stepCounter = d.stepCounter := (Device.giveBack_within d c (Device.Within.refl 1183744 _) (Nat.and_self _)).part .stepCounter (by decide)
@[simp] theorem Device.giveBack_power (d : Device) (c : Cmd) : (Device.giveBack d c).power = d.power := (Device.giveBack_within d c (Device.Within.refl 1183744 _) (Nat.and_self _)).part .power (by decide)
@[simp] theorem Device.giveBack_dict (d : Device) (c : Cmd) : (Device.giveBack d c).dict = d.dict := (Device.giveBack_within d c (Device.Within.refl 1183744 _) (Nat.and_self _)).part .dict (by decide)
@[simp] theorem Device.giveBack_queues (d : Device) (c : Cmd) : (Device.giveBack d c).queues = d.queues := (Device.giveBack_within d c (Device.Within.refl 1183744 _) (Nat.and_self _)).part .queues (by decide)
@[simp] theorem Device.giveBack_fetched (d : Device) (c : Cmd) : (Device.giveBack d c).fetched = d.fetched := (Device.giveBack_within d c (Device.Within.refl 1183744 _) (Nat.and_self _)).part .fetched (by decide)
@[simp] theorem Device.giveBack_tagsFree (d : Device) (c : Cmd) : (Device.giveBack d c).tagsFree = d.tagsFree := (Device.giveBack_within d c (Device.Within.refl 1183744 _) (Nat.and_self _)).part .tagsFree (by decide)
@[simp] theorem Device.giveBack_cmds (d : Device) (c : Cmd) : (Device.giveBack d c).cmds = d.cmds := (Device.giveBack_within d c (Device.Within.refl 1183744 _) (Nat.and_self _)).part .cmds (by decide)
@[simp] theorem Device.giveBack_events (d : Device) (c : Cmd) : (Device.giveBack d c).events = d.events := (Device.giveBack_within d c (Device.Within.refl 1183744 _) (Nat.and_self _)).part .events (by decide)
@[simp] theorem Device.giveBack_tiles (d : Device) (c : Cmd) : (Device.giveBack d c).tiles = d.tiles := (Device.giveBack_within d c (Device.Within.refl 1183744 _) (Nat.and_self _)).part .tiles (by decide)
@[simp] theorem Device.giveBack_mem (d : Device) (c : Cmd) : (Device.giveBack d c).mem = d.mem := (Device.giveBack_within d c (Device.Within.refl 1183744 _) (Nat.and_self _)).part .mem (by decide)
@[simp] theorem Device.giveBack_poison (d : Device) (c : Cmd) : (Device.giveBack d c).poison = d.poison := (Device.giveBack_within d c (Device.Within.refl 1183744 _) (Nat.and_self _)).part .poison (by decide)
@[simp] theorem Device.giveBack_host (d : Device) (c : Cmd) : (Device.giveBack d c).host = d.host := (Device.giveBack_within d c (Device.Within.refl 1183744 _) (Nat.and_self _)).part .host (by decide)
@[simp] theorem Device.giveBack_streams (d : Device) (c : Cmd) : (Device.giveBack d c).streams = d.streams := (Device.giveBack_within d c (Device.Within.refl 1183744 _) (Nat.and_self _)).part .streams (by decide)
@[simp] theorem Device.giveBack_curSet (d : Device) (c : Cmd) : (Device.giveBack d c).curSet = d.curSet := (Device.giveBack_within d c (Device.Within.refl 1183744 _) (Nat.and_self _)).part .curSet (by decide)
@[simp] theorem Device.giveBack_verA (d : Device) (c : Cmd) : (Device.giveBack d c).verA = d.verA := (Device.giveBack_within d c (Device.Within.refl 1183744 _) (Nat.and_self _)).part .verA (by decide)
@[simp] theorem Device.giveBack_verB (d : Device) (c : Cmd) : (Device.giveBack d c).verB = d.verB := (Device.giveBack_within d c (Device.Within.refl 1183744 _) (Nat.and_self _)).part .verB (by decide)
@[simp] theorem Device.giveBack_pace (d : Device) (c : Cmd) : (Device.giveBack d c).pace = d.pace := (Device.giveBack_within d c (Device.Within.refl 1183744 _) (Nat.and_self _)).part .pace (by decide)
@[simp] theorem Device.giveBack_log (d : Device) (c : Cmd) : (Device.giveBack d c).log = d.log := (Device.giveBack_within d c (Device.Within.refl 1183744 _) (Nat.and_self _)).part .log (by decide)
@[simp] theorem Device.giveBack_safety (d : Device) (c : Cmd) : (Device.giveBack d c).safety = d.safety := (Device.giveBack_within d c (Device.Within.refl 1183744 _) (Nat.and_self _)).part .safety (by decide)
@[simp] theorem Device.giveBack_flash (d : Device) (c : Cmd) : (Device.giveBack d c).flash = d.flash := (Device.giveBack_within d c (Device.Within.refl 1183744 _) (Nat.and_self _)).part .flash (by decide)
@[simp] theorem Device.giveBack_images (d : Device) (c : Cmd) : (Device.giveBack d c).images = d.images := (Device.giveBack_within d c (Device.Within.refl 1183744 _) (Nat.and_self _)).part .images (by decide)
@[simp] theorem Device.giveBack_out (d : Device) (c : Cmd) : (Device.giveBack d c).out = d.out := (Device.giveBack_within d c (Device.Within.refl 1183744 _) (Nat.and_self _)).part .out (by decide)

/-! ### Device.settleTokens -/

@[simp] theorem Device.settleTokens_now (d : Device) : (Device.settleTokens d).now = d.now := (Device.settleTokens_within d (Device.Within.refl 131072 _) (Nat.and_self _)).part .now (by decide)
@[simp] theorem Device.settleTokens_stepCounter (d : Device) : (Device.settleTokens d).stepCounter = d.stepCounter := (Device.settleTokens_within d (Device.Within.refl 131072 _) (Nat.and_self _)).part .stepCounter (by decide)
@[simp] theorem Device.settleTokens_power (d : Device) : (Device.settleTokens d).power = d.power := (Device.settleTokens_within d (Device.Within.refl 131072 _) (Nat.and_self _)).part .power (by decide)
@[simp] theorem Device.settleTokens_dict (d : Device) : (Device.settleTokens d).dict = d.dict := (Device.settleTokens_within d (Device.Within.refl 131072 _) (Nat.and_self _)).part .dict (by decide)
@[simp] theorem Device.settleTokens_queues (d : Device) : (Device.settleTokens d).queues = d.queues := (Device.settleTokens_within d (Device.Within.refl 131072 _) (Nat.and_self _)).part .queues (by decide)
@[simp] theorem Device.settleTokens_fetched (d : Device) : (Device.settleTokens d).fetched = d.fetched := (Device.settleTokens_within d (Device.Within.refl 131072 _) (Nat.and_self _)).part .fetched (by decide)
@[simp] theorem Device.settleTokens_tagsFree (d : Device) : (Device.settleTokens d).tagsFree = d.tagsFree := (Device.settleTokens_within d (Device.Within.refl 131072 _) (Nat.and_self _)).part .tagsFree (by decide)
@[simp] theorem Device.settleTokens_cmds (d : Device) : (Device.settleTokens d).cmds = d.cmds := (Device.settleTokens_within d (Device.Within.refl 131072 _) (Nat.and_self _)).part .cmds (by decide)
@[simp] theorem Device.settleTokens_events (d : Device) : (Device.settleTokens d).events = d.events := (Device.settleTokens_within d (Device.Within.refl 131072 _) (Nat.and_self _)).part .events (by decide)
@[simp] theorem Device.settleTokens_ioBacklog (d : Device) : (Device.settleTokens d).ioBacklog = d.ioBacklog := (Device.settleTokens_within d (Device.Within.refl 131072 _) (Nat.and_self _)).part .ioBacklog (by decide)
@[simp] theorem Device.settleTokens_tiles (d : Device) : (Device.settleTokens d).tiles = d.tiles := (Device.settleTokens_within d (Device.Within.refl 131072 _) (Nat.and_self _)).part .tiles (by decide)
@[simp] theorem Device.settleTokens_mem (d : Device) : (Device.settleTokens d).mem = d.mem := (Device.settleTokens_within d (Device.Within.refl 131072 _) (Nat.and_self _)).part .mem (by decide)
@[simp] theorem Device.settleTokens_poison (d : Device) : (Device.settleTokens d).poison = d.poison := (Device.settleTokens_within d (Device.Within.refl 131072 _) (Nat.and_self _)).part .poison (by decide)
@[simp] theorem Device.settleTokens_host (d : Device) : (Device.settleTokens d).host = d.host := (Device.settleTokens_within d (Device.Within.refl 131072 _) (Nat.and_self _)).part .host (by decide)
@[simp] theorem Device.settleTokens_ports (d : Device) : (Device.settleTokens d).ports = d.ports := (Device.settleTokens_within d (Device.Within.refl 131072 _) (Nat.and_self _)).part .ports (by decide)
@[simp] theorem Device.settleTokens_streams (d : Device) : (Device.settleTokens d).streams = d.streams := (Device.settleTokens_within d (Device.Within.refl 131072 _) (Nat.and_self _)).part .streams (by decide)
@[simp] theorem Device.settleTokens_curSet (d : Device) : (Device.settleTokens d).curSet = d.curSet := (Device.settleTokens_within d (Device.Within.refl 131072 _) (Nat.and_self _)).part .curSet (by decide)
@[simp] theorem Device.settleTokens_verA (d : Device) : (Device.settleTokens d).verA = d.verA := (Device.settleTokens_within d (Device.Within.refl 131072 _) (Nat.and_self _)).part .verA (by decide)
@[simp] theorem Device.settleTokens_verB (d : Device) : (Device.settleTokens d).verB = d.verB := (Device.settleTokens_within d (Device.Within.refl 131072 _) (Nat.and_self _)).part .verB (by decide)
@[simp] theorem Device.settleTokens_pace (d : Device) : (Device.settleTokens d).pace = d.pace := (Device.settleTokens_within d (Device.Within.refl 131072 _) (Nat.and_self _)).part .pace (by decide)
@[simp] theorem Device.settleTokens_log (d : Device) : (Device.settleTokens d).log = d.log := (Device.settleTokens_within d (Device.Within.refl 131072 _) (Nat.and_self _)).part .log (by decide)
@[simp] theorem Device.settleTokens_safety (d : Device) : (Device.settleTokens d).safety = d.safety := (Device.settleTokens_within d (Device.Within.refl 131072 _) (Nat.and_self _)).part .safety (by decide)
@[simp] theorem Device.settleTokens_flash (d : Device) : (Device.settleTokens d).flash = d.flash := (Device.settleTokens_within d (Device.Within.refl 131072 _) (Nat.and_self _)).part .flash (by decide)
@[simp] theorem Device.settleTokens_images (d : Device) : (Device.settleTokens d).images = d.images := (Device.settleTokens_within d (Device.Within.refl 131072 _) (Nat.and_self _)).part .images (by decide)
@[simp] theorem Device.settleTokens_out (d : Device) : (Device.settleTokens d).out = d.out := (Device.settleTokens_within d (Device.Within.refl 131072 _) (Nat.and_self _)).part .out (by decide)

/-! ### Device.countWindow -/

@[simp] theorem Device.countWindow_now (x : Device) (d : Device) (w : WindowSample) : (Device.countWindow x d w).now = x.now := (Device.countWindow_within x d w (Device.Within.refl 134217728 _) (Nat.and_self _)).part .now (by decide)
@[simp] theorem Device.countWindow_stepCounter (x : Device) (d : Device) (w : WindowSample) : (Device.countWindow x d w).stepCounter = x.stepCounter := (Device.countWindow_within x d w (Device.Within.refl 134217728 _) (Nat.and_self _)).part .stepCounter (by decide)
@[simp] theorem Device.countWindow_power (x : Device) (d : Device) (w : WindowSample) : (Device.countWindow x d w).power = x.power := (Device.countWindow_within x d w (Device.Within.refl 134217728 _) (Nat.and_self _)).part .power (by decide)
@[simp] theorem Device.countWindow_dict (x : Device) (d : Device) (w : WindowSample) : (Device.countWindow x d w).dict = x.dict := (Device.countWindow_within x d w (Device.Within.refl 134217728 _) (Nat.and_self _)).part .dict (by decide)
@[simp] theorem Device.countWindow_queues (x : Device) (d : Device) (w : WindowSample) : (Device.countWindow x d w).queues = x.queues := (Device.countWindow_within x d w (Device.Within.refl 134217728 _) (Nat.and_self _)).part .queues (by decide)
@[simp] theorem Device.countWindow_fetched (x : Device) (d : Device) (w : WindowSample) : (Device.countWindow x d w).fetched = x.fetched := (Device.countWindow_within x d w (Device.Within.refl 134217728 _) (Nat.and_self _)).part .fetched (by decide)
@[simp] theorem Device.countWindow_tagsFree (x : Device) (d : Device) (w : WindowSample) : (Device.countWindow x d w).tagsFree = x.tagsFree := (Device.countWindow_within x d w (Device.Within.refl 134217728 _) (Nat.and_self _)).part .tagsFree (by decide)
@[simp] theorem Device.countWindow_cmds (x : Device) (d : Device) (w : WindowSample) : (Device.countWindow x d w).cmds = x.cmds := (Device.countWindow_within x d w (Device.Within.refl 134217728 _) (Nat.and_self _)).part .cmds (by decide)
@[simp] theorem Device.countWindow_events (x : Device) (d : Device) (w : WindowSample) : (Device.countWindow x d w).events = x.events := (Device.countWindow_within x d w (Device.Within.refl 134217728 _) (Nat.and_self _)).part .events (by decide)
@[simp] theorem Device.countWindow_ioBacklog (x : Device) (d : Device) (w : WindowSample) : (Device.countWindow x d w).ioBacklog = x.ioBacklog := (Device.countWindow_within x d w (Device.Within.refl 134217728 _) (Nat.and_self _)).part .ioBacklog (by decide)
@[simp] theorem Device.countWindow_tiles (x : Device) (d : Device) (w : WindowSample) : (Device.countWindow x d w).tiles = x.tiles := (Device.countWindow_within x d w (Device.Within.refl 134217728 _) (Nat.and_self _)).part .tiles (by decide)
@[simp] theorem Device.countWindow_mem (x : Device) (d : Device) (w : WindowSample) : (Device.countWindow x d w).mem = x.mem := (Device.countWindow_within x d w (Device.Within.refl 134217728 _) (Nat.and_self _)).part .mem (by decide)
@[simp] theorem Device.countWindow_poison (x : Device) (d : Device) (w : WindowSample) : (Device.countWindow x d w).poison = x.poison := (Device.countWindow_within x d w (Device.Within.refl 134217728 _) (Nat.and_self _)).part .poison (by decide)
@[simp] theorem Device.countWindow_host (x : Device) (d : Device) (w : WindowSample) : (Device.countWindow x d w).host = x.host := (Device.countWindow_within x d w (Device.Within.refl 134217728 _) (Nat.and_self _)).part .host (by decide)
@[simp] theorem Device.countWindow_bays (x : Device) (d : Device) (w : WindowSample) : (Device.countWindow x d w).bays = x.bays := (Device.countWindow_within x d w (Device.Within.refl 134217728 _) (Nat.and_self _)).part .bays (by decide)
@[simp] theorem Device.countWindow_ports (x : Device) (d : Device) (w : WindowSample) : (Device.countWindow x d w).ports = x.ports := (Device.countWindow_within x d w (Device.Within.refl 134217728 _) (Nat.and_self _)).part .ports (by decide)
@[simp] theorem Device.countWindow_streams (x : Device) (d : Device) (w : WindowSample) : (Device.countWindow x d w).streams = x.streams := (Device.countWindow_within x d w (Device.Within.refl 134217728 _) (Nat.and_self _)).part .streams (by decide)
@[simp] theorem Device.countWindow_curSet (x : Device) (d : Device) (w : WindowSample) : (Device.countWindow x d w).curSet = x.curSet := (Device.countWindow_within x d w (Device.Within.refl 134217728 _) (Nat.and_self _)).part .curSet (by decide)
@[simp] theorem Device.countWindow_verA (x : Device) (d : Device) (w : WindowSample) : (Device.countWindow x d w).verA = x.verA := (Device.countWindow_within x d w (Device.Within.refl 134217728 _) (Nat.and_self _)).part .verA (by decide)
@[simp] theorem Device.countWindow_verB (x : Device) (d : Device) (w : WindowSample) : (Device.countWindow x d w).verB = x.verB := (Device.countWindow_within x d w (Device.Within.refl 134217728 _) (Nat.and_self _)).part .verB (by decide)
@[simp] theorem Device.countWindow_pace (x : Device) (d : Device) (w : WindowSample) : (Device.countWindow x d w).pace = x.pace := (Device.countWindow_within x d w (Device.Within.refl 134217728 _) (Nat.and_self _)).part .pace (by decide)
@[simp] theorem Device.countWindow_log (x : Device) (d : Device) (w : WindowSample) : (Device.countWindow x d w).log = x.log := (Device.countWindow_within x d w (Device.Within.refl 134217728 _) (Nat.and_self _)).part .log (by decide)
@[simp] theorem Device.countWindow_flash (x : Device) (d : Device) (w : WindowSample) : (Device.countWindow x d w).flash = x.flash := (Device.countWindow_within x d w (Device.Within.refl 134217728 _) (Nat.and_self _)).part .flash (by decide)
@[simp] theorem Device.countWindow_images (x : Device) (d : Device) (w : WindowSample) : (Device.countWindow x d w).images = x.images := (Device.countWindow_within x d w (Device.Within.refl 134217728 _) (Nat.and_self _)).part .images (by decide)
@[simp] theorem Device.countWindow_out (x : Device) (d : Device) (w : WindowSample) : (Device.countWindow x d w).out = x.out := (Device.countWindow_within x d w (Device.Within.refl 134217728 _) (Nat.and_self _)).part .out (by decide)

/-! ### Device.cutsEnd -/

@[simp] theorem Device.cutsEnd_now (d : Device) : (Device.cutsEnd d).now = d.now := (Device.cutsEnd_within d (Device.Within.refl 131072 _) (Nat.and_self _)).part .now (by decide)
@[simp] theorem Device.cutsEnd_stepCounter (d : Device) : (Device.cutsEnd d).stepCounter = d.stepCounter := (Device.cutsEnd_within d (Device.Within.refl 131072 _) (Nat.and_self _)).part .stepCounter (by decide)
@[simp] theorem Device.cutsEnd_power (d : Device) : (Device.cutsEnd d).power = d.power := (Device.cutsEnd_within d (Device.Within.refl 131072 _) (Nat.and_self _)).part .power (by decide)
@[simp] theorem Device.cutsEnd_dict (d : Device) : (Device.cutsEnd d).dict = d.dict := (Device.cutsEnd_within d (Device.Within.refl 131072 _) (Nat.and_self _)).part .dict (by decide)
@[simp] theorem Device.cutsEnd_queues (d : Device) : (Device.cutsEnd d).queues = d.queues := (Device.cutsEnd_within d (Device.Within.refl 131072 _) (Nat.and_self _)).part .queues (by decide)
@[simp] theorem Device.cutsEnd_fetched (d : Device) : (Device.cutsEnd d).fetched = d.fetched := (Device.cutsEnd_within d (Device.Within.refl 131072 _) (Nat.and_self _)).part .fetched (by decide)
@[simp] theorem Device.cutsEnd_tagsFree (d : Device) : (Device.cutsEnd d).tagsFree = d.tagsFree := (Device.cutsEnd_within d (Device.Within.refl 131072 _) (Nat.and_self _)).part .tagsFree (by decide)
@[simp] theorem Device.cutsEnd_cmds (d : Device) : (Device.cutsEnd d).cmds = d.cmds := (Device.cutsEnd_within d (Device.Within.refl 131072 _) (Nat.and_self _)).part .cmds (by decide)
@[simp] theorem Device.cutsEnd_events (d : Device) : (Device.cutsEnd d).events = d.events := (Device.cutsEnd_within d (Device.Within.refl 131072 _) (Nat.and_self _)).part .events (by decide)
@[simp] theorem Device.cutsEnd_ioBacklog (d : Device) : (Device.cutsEnd d).ioBacklog = d.ioBacklog := (Device.cutsEnd_within d (Device.Within.refl 131072 _) (Nat.and_self _)).part .ioBacklog (by decide)
@[simp] theorem Device.cutsEnd_tiles (d : Device) : (Device.cutsEnd d).tiles = d.tiles := (Device.cutsEnd_within d (Device.Within.refl 131072 _) (Nat.and_self _)).part .tiles (by decide)
@[simp] theorem Device.cutsEnd_mem (d : Device) : (Device.cutsEnd d).mem = d.mem := (Device.cutsEnd_within d (Device.Within.refl 131072 _) (Nat.and_self _)).part .mem (by decide)
@[simp] theorem Device.cutsEnd_poison (d : Device) : (Device.cutsEnd d).poison = d.poison := (Device.cutsEnd_within d (Device.Within.refl 131072 _) (Nat.and_self _)).part .poison (by decide)
@[simp] theorem Device.cutsEnd_host (d : Device) : (Device.cutsEnd d).host = d.host := (Device.cutsEnd_within d (Device.Within.refl 131072 _) (Nat.and_self _)).part .host (by decide)
@[simp] theorem Device.cutsEnd_ports (d : Device) : (Device.cutsEnd d).ports = d.ports := (Device.cutsEnd_within d (Device.Within.refl 131072 _) (Nat.and_self _)).part .ports (by decide)
@[simp] theorem Device.cutsEnd_streams (d : Device) : (Device.cutsEnd d).streams = d.streams := (Device.cutsEnd_within d (Device.Within.refl 131072 _) (Nat.and_self _)).part .streams (by decide)
@[simp] theorem Device.cutsEnd_curSet (d : Device) : (Device.cutsEnd d).curSet = d.curSet := (Device.cutsEnd_within d (Device.Within.refl 131072 _) (Nat.and_self _)).part .curSet (by decide)
@[simp] theorem Device.cutsEnd_verA (d : Device) : (Device.cutsEnd d).verA = d.verA := (Device.cutsEnd_within d (Device.Within.refl 131072 _) (Nat.and_self _)).part .verA (by decide)
@[simp] theorem Device.cutsEnd_verB (d : Device) : (Device.cutsEnd d).verB = d.verB := (Device.cutsEnd_within d (Device.Within.refl 131072 _) (Nat.and_self _)).part .verB (by decide)
@[simp] theorem Device.cutsEnd_pace (d : Device) : (Device.cutsEnd d).pace = d.pace := (Device.cutsEnd_within d (Device.Within.refl 131072 _) (Nat.and_self _)).part .pace (by decide)
@[simp] theorem Device.cutsEnd_log (d : Device) : (Device.cutsEnd d).log = d.log := (Device.cutsEnd_within d (Device.Within.refl 131072 _) (Nat.and_self _)).part .log (by decide)
@[simp] theorem Device.cutsEnd_safety (d : Device) : (Device.cutsEnd d).safety = d.safety := (Device.cutsEnd_within d (Device.Within.refl 131072 _) (Nat.and_self _)).part .safety (by decide)
@[simp] theorem Device.cutsEnd_flash (d : Device) : (Device.cutsEnd d).flash = d.flash := (Device.cutsEnd_within d (Device.Within.refl 131072 _) (Nat.and_self _)).part .flash (by decide)
@[simp] theorem Device.cutsEnd_images (d : Device) : (Device.cutsEnd d).images = d.images := (Device.cutsEnd_within d (Device.Within.refl 131072 _) (Nat.and_self _)).part .images (by decide)
@[simp] theorem Device.cutsEnd_out (d : Device) : (Device.cutsEnd d).out = d.out := (Device.cutsEnd_within d (Device.Within.refl 131072 _) (Nat.and_self _)).part .out (by decide)

/-! ### Device.sensed -/

@[simp] theorem Device.sensed_now (d : Device) (t : Int) : (Device.sensed d t).now = d.now := (Device.sensed_within d t (Device.Within.refl 2181038084 _) (Nat.and_self _)).part .now (by decide)
@[simp] theorem Device.sensed_stepCounter (d : Device) (t : Int) : (Device.sensed d t).stepCounter = d.stepCounter := (Device.sensed_within d t (Device.Within.refl 2181038084 _) (Nat.and_self _)).part .stepCounter (by decide)
@[simp] theorem Device.sensed_dict (d : Device) (t : Int) : (Device.sensed d t).dict = d.dict := (Device.sensed_within d t (Device.Within.refl 2181038084 _) (Nat.and_self _)).part .dict (by decide)
@[simp] theorem Device.sensed_queues (d : Device) (t : Int) : (Device.sensed d t).queues = d.queues := (Device.sensed_within d t (Device.Within.refl 2181038084 _) (Nat.and_self _)).part .queues (by decide)
@[simp] theorem Device.sensed_fetched (d : Device) (t : Int) : (Device.sensed d t).fetched = d.fetched := (Device.sensed_within d t (Device.Within.refl 2181038084 _) (Nat.and_self _)).part .fetched (by decide)
@[simp] theorem Device.sensed_tagsFree (d : Device) (t : Int) : (Device.sensed d t).tagsFree = d.tagsFree := (Device.sensed_within d t (Device.Within.refl 2181038084 _) (Nat.and_self _)).part .tagsFree (by decide)
@[simp] theorem Device.sensed_cmds (d : Device) (t : Int) : (Device.sensed d t).cmds = d.cmds := (Device.sensed_within d t (Device.Within.refl 2181038084 _) (Nat.and_self _)).part .cmds (by decide)
@[simp] theorem Device.sensed_events (d : Device) (t : Int) : (Device.sensed d t).events = d.events := (Device.sensed_within d t (Device.Within.refl 2181038084 _) (Nat.and_self _)).part .events (by decide)
@[simp] theorem Device.sensed_ioBacklog (d : Device) (t : Int) : (Device.sensed d t).ioBacklog = d.ioBacklog := (Device.sensed_within d t (Device.Within.refl 2181038084 _) (Nat.and_self _)).part .ioBacklog (by decide)
@[simp] theorem Device.sensed_tiles (d : Device) (t : Int) : (Device.sensed d t).tiles = d.tiles := (Device.sensed_within d t (Device.Within.refl 2181038084 _) (Nat.and_self _)).part .tiles (by decide)
@[simp] theorem Device.sensed_mem (d : Device) (t : Int) : (Device.sensed d t).mem = d.mem := (Device.sensed_within d t (Device.Within.refl 2181038084 _) (Nat.and_self _)).part .mem (by decide)
@[simp] theorem Device.sensed_poison (d : Device) (t : Int) : (Device.sensed d t).poison = d.poison := (Device.sensed_within d t (Device.Within.refl 2181038084 _) (Nat.and_self _)).part .poison (by decide)
@[simp] theorem Device.sensed_host (d : Device) (t : Int) : (Device.sensed d t).host = d.host := (Device.sensed_within d t (Device.Within.refl 2181038084 _) (Nat.and_self _)).part .host (by decide)
@[simp] theorem Device.sensed_bays (d : Device) (t : Int) : (Device.sensed d t).bays = d.bays := (Device.sensed_within d t (Device.Within.refl 2181038084 _) (Nat.and_self _)).part .bays (by decide)
@[simp] theorem Device.sensed_ports (d : Device) (t : Int) : (Device.sensed d t).ports = d.ports := (Device.sensed_within d t (Device.Within.refl 2181038084 _) (Nat.and_self _)).part .ports (by decide)
@[simp] theorem Device.sensed_streams (d : Device) (t : Int) : (Device.sensed d t).streams = d.streams := (Device.sensed_within d t (Device.Within.refl 2181038084 _) (Nat.and_self _)).part .streams (by decide)
@[simp] theorem Device.sensed_curSet (d : Device) (t : Int) : (Device.sensed d t).curSet = d.curSet := (Device.sensed_within d t (Device.Within.refl 2181038084 _) (Nat.and_self _)).part .curSet (by decide)
@[simp] theorem Device.sensed_verA (d : Device) (t : Int) : (Device.sensed d t).verA = d.verA := (Device.sensed_within d t (Device.Within.refl 2181038084 _) (Nat.and_self _)).part .verA (by decide)
@[simp] theorem Device.sensed_verB (d : Device) (t : Int) : (Device.sensed d t).verB = d.verB := (Device.sensed_within d t (Device.Within.refl 2181038084 _) (Nat.and_self _)).part .verB (by decide)
@[simp] theorem Device.sensed_log (d : Device) (t : Int) : (Device.sensed d t).log = d.log := (Device.sensed_within d t (Device.Within.refl 2181038084 _) (Nat.and_self _)).part .log (by decide)
@[simp] theorem Device.sensed_safety (d : Device) (t : Int) : (Device.sensed d t).safety = d.safety := (Device.sensed_within d t (Device.Within.refl 2181038084 _) (Nat.and_self _)).part .safety (by decide)
@[simp] theorem Device.sensed_flash (d : Device) (t : Int) : (Device.sensed d t).flash = d.flash := (Device.sensed_within d t (Device.Within.refl 2181038084 _) (Nat.and_self _)).part .flash (by decide)
@[simp] theorem Device.sensed_images (d : Device) (t : Int) : (Device.sensed d t).images = d.images := (Device.sensed_within d t (Device.Within.refl 2181038084 _) (Nat.and_self _)).part .images (by decide)

/-! ### Device.limitsInForce -/

@[simp] theorem Device.limitsInForce_now (d : Device) : (Device.limitsInForce d).now = d.now := (Device.limitsInForce_within d (Device.Within.refl 33554432 _) (Nat.and_self _)).part .now (by decide)
@[simp] theorem Device.limitsInForce_stepCounter (d : Device) : (Device.limitsInForce d).stepCounter = d.stepCounter := (Device.limitsInForce_within d (Device.Within.refl 33554432 _) (Nat.and_self _)).part .stepCounter (by decide)
@[simp] theorem Device.limitsInForce_power (d : Device) : (Device.limitsInForce d).power = d.power := (Device.limitsInForce_within d (Device.Within.refl 33554432 _) (Nat.and_self _)).part .power (by decide)
@[simp] theorem Device.limitsInForce_dict (d : Device) : (Device.limitsInForce d).dict = d.dict := (Device.limitsInForce_within d (Device.Within.refl 33554432 _) (Nat.and_self _)).part .dict (by decide)
@[simp] theorem Device.limitsInForce_queues (d : Device) : (Device.limitsInForce d).queues = d.queues := (Device.limitsInForce_within d (Device.Within.refl 33554432 _) (Nat.and_self _)).part .queues (by decide)
@[simp] theorem Device.limitsInForce_fetched (d : Device) : (Device.limitsInForce d).fetched = d.fetched := (Device.limitsInForce_within d (Device.Within.refl 33554432 _) (Nat.and_self _)).part .fetched (by decide)
@[simp] theorem Device.limitsInForce_tagsFree (d : Device) : (Device.limitsInForce d).tagsFree = d.tagsFree := (Device.limitsInForce_within d (Device.Within.refl 33554432 _) (Nat.and_self _)).part .tagsFree (by decide)
@[simp] theorem Device.limitsInForce_cmds (d : Device) : (Device.limitsInForce d).cmds = d.cmds := (Device.limitsInForce_within d (Device.Within.refl 33554432 _) (Nat.and_self _)).part .cmds (by decide)
@[simp] theorem Device.limitsInForce_events (d : Device) : (Device.limitsInForce d).events = d.events := (Device.limitsInForce_within d (Device.Within.refl 33554432 _) (Nat.and_self _)).part .events (by decide)
@[simp] theorem Device.limitsInForce_ioBacklog (d : Device) : (Device.limitsInForce d).ioBacklog = d.ioBacklog := (Device.limitsInForce_within d (Device.Within.refl 33554432 _) (Nat.and_self _)).part .ioBacklog (by decide)
@[simp] theorem Device.limitsInForce_tiles (d : Device) : (Device.limitsInForce d).tiles = d.tiles := (Device.limitsInForce_within d (Device.Within.refl 33554432 _) (Nat.and_self _)).part .tiles (by decide)
@[simp] theorem Device.limitsInForce_mem (d : Device) : (Device.limitsInForce d).mem = d.mem := (Device.limitsInForce_within d (Device.Within.refl 33554432 _) (Nat.and_self _)).part .mem (by decide)
@[simp] theorem Device.limitsInForce_poison (d : Device) : (Device.limitsInForce d).poison = d.poison := (Device.limitsInForce_within d (Device.Within.refl 33554432 _) (Nat.and_self _)).part .poison (by decide)
@[simp] theorem Device.limitsInForce_host (d : Device) : (Device.limitsInForce d).host = d.host := (Device.limitsInForce_within d (Device.Within.refl 33554432 _) (Nat.and_self _)).part .host (by decide)
@[simp] theorem Device.limitsInForce_bays (d : Device) : (Device.limitsInForce d).bays = d.bays := (Device.limitsInForce_within d (Device.Within.refl 33554432 _) (Nat.and_self _)).part .bays (by decide)
@[simp] theorem Device.limitsInForce_ports (d : Device) : (Device.limitsInForce d).ports = d.ports := (Device.limitsInForce_within d (Device.Within.refl 33554432 _) (Nat.and_self _)).part .ports (by decide)
@[simp] theorem Device.limitsInForce_streams (d : Device) : (Device.limitsInForce d).streams = d.streams := (Device.limitsInForce_within d (Device.Within.refl 33554432 _) (Nat.and_self _)).part .streams (by decide)
@[simp] theorem Device.limitsInForce_curSet (d : Device) : (Device.limitsInForce d).curSet = d.curSet := (Device.limitsInForce_within d (Device.Within.refl 33554432 _) (Nat.and_self _)).part .curSet (by decide)
@[simp] theorem Device.limitsInForce_verA (d : Device) : (Device.limitsInForce d).verA = d.verA := (Device.limitsInForce_within d (Device.Within.refl 33554432 _) (Nat.and_self _)).part .verA (by decide)
@[simp] theorem Device.limitsInForce_verB (d : Device) : (Device.limitsInForce d).verB = d.verB := (Device.limitsInForce_within d (Device.Within.refl 33554432 _) (Nat.and_self _)).part .verB (by decide)
@[simp] theorem Device.limitsInForce_log (d : Device) : (Device.limitsInForce d).log = d.log := (Device.limitsInForce_within d (Device.Within.refl 33554432 _) (Nat.and_self _)).part .log (by decide)
@[simp] theorem Device.limitsInForce_safety (d : Device) : (Device.limitsInForce d).safety = d.safety := (Device.limitsInForce_within d (Device.Within.refl 33554432 _) (Nat.and_self _)).part .safety (by decide)
@[simp] theorem Device.limitsInForce_flash (d : Device) : (Device.limitsInForce d).flash = d.flash := (Device.limitsInForce_within d (Device.Within.refl 33554432 _) (Nat.and_self _)).part .flash (by decide)
@[simp] theorem Device.limitsInForce_images (d : Device) : (Device.limitsInForce d).images = d.images := (Device.limitsInForce_within d (Device.Within.refl 33554432 _) (Nat.and_self _)).part .images (by decide)
@[simp] theorem Device.limitsInForce_out (d : Device) : (Device.limitsInForce d).out = d.out := (Device.limitsInForce_within d (Device.Within.refl 33554432 _) (Nat.and_self _)).part .out (by decide)

/-! ### Device.publish -/

@[simp] theorem Device.publish_now (d : Device) (f : Nat) : (Device.publish d f).now = d.now := (Device.publish_within d f (Device.Within.refl 167903232 _) (Nat.and_self _)).part .now (by decide)
@[simp] theorem Device.publish_stepCounter (d : Device) (f : Nat) : (Device.publish d f).stepCounter = d.stepCounter := (Device.publish_within d f (Device.Within.refl 167903232 _) (Nat.and_self _)).part .stepCounter (by decide)
@[simp] theorem Device.publish_power (d : Device) (f : Nat) : (Device.publish d f).power = d.power := (Device.publish_within d f (Device.Within.refl 167903232 _) (Nat.and_self _)).part .power (by decide)
@[simp] theorem Device.publish_dict (d : Device) (f : Nat) : (Device.publish d f).dict = d.dict := (Device.publish_within d f (Device.Within.refl 167903232 _) (Nat.and_self _)).part .dict (by decide)
@[simp] theorem Device.publish_queues (d : Device) (f : Nat) : (Device.publish d f).queues = d.queues := (Device.publish_within d f (Device.Within.refl 167903232 _) (Nat.and_self _)).part .queues (by decide)
@[simp] theorem Device.publish_fetched (d : Device) (f : Nat) : (Device.publish d f).fetched = d.fetched := (Device.publish_within d f (Device.Within.refl 167903232 _) (Nat.and_self _)).part .fetched (by decide)
@[simp] theorem Device.publish_tagsFree (d : Device) (f : Nat) : (Device.publish d f).tagsFree = d.tagsFree := (Device.publish_within d f (Device.Within.refl 167903232 _) (Nat.and_self _)).part .tagsFree (by decide)
@[simp] theorem Device.publish_cmds (d : Device) (f : Nat) : (Device.publish d f).cmds = d.cmds := (Device.publish_within d f (Device.Within.refl 167903232 _) (Nat.and_self _)).part .cmds (by decide)
@[simp] theorem Device.publish_events (d : Device) (f : Nat) : (Device.publish d f).events = d.events := (Device.publish_within d f (Device.Within.refl 167903232 _) (Nat.and_self _)).part .events (by decide)
@[simp] theorem Device.publish_ioBacklog (d : Device) (f : Nat) : (Device.publish d f).ioBacklog = d.ioBacklog := (Device.publish_within d f (Device.Within.refl 167903232 _) (Nat.and_self _)).part .ioBacklog (by decide)
@[simp] theorem Device.publish_tiles (d : Device) (f : Nat) : (Device.publish d f).tiles = d.tiles := (Device.publish_within d f (Device.Within.refl 167903232 _) (Nat.and_self _)).part .tiles (by decide)
@[simp] theorem Device.publish_mem (d : Device) (f : Nat) : (Device.publish d f).mem = d.mem := (Device.publish_within d f (Device.Within.refl 167903232 _) (Nat.and_self _)).part .mem (by decide)
@[simp] theorem Device.publish_poison (d : Device) (f : Nat) : (Device.publish d f).poison = d.poison := (Device.publish_within d f (Device.Within.refl 167903232 _) (Nat.and_self _)).part .poison (by decide)
@[simp] theorem Device.publish_host (d : Device) (f : Nat) : (Device.publish d f).host = d.host := (Device.publish_within d f (Device.Within.refl 167903232 _) (Nat.and_self _)).part .host (by decide)
@[simp] theorem Device.publish_ports (d : Device) (f : Nat) : (Device.publish d f).ports = d.ports := (Device.publish_within d f (Device.Within.refl 167903232 _) (Nat.and_self _)).part .ports (by decide)
@[simp] theorem Device.publish_streams (d : Device) (f : Nat) : (Device.publish d f).streams = d.streams := (Device.publish_within d f (Device.Within.refl 167903232 _) (Nat.and_self _)).part .streams (by decide)
@[simp] theorem Device.publish_curSet (d : Device) (f : Nat) : (Device.publish d f).curSet = d.curSet := (Device.publish_within d f (Device.Within.refl 167903232 _) (Nat.and_self _)).part .curSet (by decide)
@[simp] theorem Device.publish_verA (d : Device) (f : Nat) : (Device.publish d f).verA = d.verA := (Device.publish_within d f (Device.Within.refl 167903232 _) (Nat.and_self _)).part .verA (by decide)
@[simp] theorem Device.publish_verB (d : Device) (f : Nat) : (Device.publish d f).verB = d.verB := (Device.publish_within d f (Device.Within.refl 167903232 _) (Nat.and_self _)).part .verB (by decide)
@[simp] theorem Device.publish_log (d : Device) (f : Nat) : (Device.publish d f).log = d.log := (Device.publish_within d f (Device.Within.refl 167903232 _) (Nat.and_self _)).part .log (by decide)
@[simp] theorem Device.publish_flash (d : Device) (f : Nat) : (Device.publish d f).flash = d.flash := (Device.publish_within d f (Device.Within.refl 167903232 _) (Nat.and_self _)).part .flash (by decide)
@[simp] theorem Device.publish_images (d : Device) (f : Nat) : (Device.publish d f).images = d.images := (Device.publish_within d f (Device.Within.refl 167903232 _) (Nat.and_self _)).part .images (by decide)
@[simp] theorem Device.publish_out (d : Device) (f : Nat) : (Device.publish d f).out = d.out := (Device.publish_within d f (Device.Within.refl 167903232 _) (Nat.and_self _)).part .out (by decide)

/-! ### Device.settleBuckets -/

@[simp] theorem Device.settleBuckets_now (d : Device) : (Device.settleBuckets d).now = d.now := (Device.settleBuckets_within d (Device.Within.refl 131072 _) (Nat.and_self _)).part .now (by decide)
@[simp] theorem Device.settleBuckets_stepCounter (d : Device) : (Device.settleBuckets d).stepCounter = d.stepCounter := (Device.settleBuckets_within d (Device.Within.refl 131072 _) (Nat.and_self _)).part .stepCounter (by decide)
@[simp] theorem Device.settleBuckets_power (d : Device) : (Device.settleBuckets d).power = d.power := (Device.settleBuckets_within d (Device.Within.refl 131072 _) (Nat.and_self _)).part .power (by decide)
@[simp] theorem Device.settleBuckets_dict (d : Device) : (Device.settleBuckets d).dict = d.dict := (Device.settleBuckets_within d (Device.Within.refl 131072 _) (Nat.and_self _)).part .dict (by decide)
@[simp] theorem Device.settleBuckets_queues (d : Device) : (Device.settleBuckets d).queues = d.queues := (Device.settleBuckets_within d (Device.Within.refl 131072 _) (Nat.and_self _)).part .queues (by decide)
@[simp] theorem Device.settleBuckets_fetched (d : Device) : (Device.settleBuckets d).fetched = d.fetched := (Device.settleBuckets_within d (Device.Within.refl 131072 _) (Nat.and_self _)).part .fetched (by decide)
@[simp] theorem Device.settleBuckets_tagsFree (d : Device) : (Device.settleBuckets d).tagsFree = d.tagsFree := (Device.settleBuckets_within d (Device.Within.refl 131072 _) (Nat.and_self _)).part .tagsFree (by decide)
@[simp] theorem Device.settleBuckets_cmds (d : Device) : (Device.settleBuckets d).cmds = d.cmds := (Device.settleBuckets_within d (Device.Within.refl 131072 _) (Nat.and_self _)).part .cmds (by decide)
@[simp] theorem Device.settleBuckets_events (d : Device) : (Device.settleBuckets d).events = d.events := (Device.settleBuckets_within d (Device.Within.refl 131072 _) (Nat.and_self _)).part .events (by decide)
@[simp] theorem Device.settleBuckets_ioBacklog (d : Device) : (Device.settleBuckets d).ioBacklog = d.ioBacklog := (Device.settleBuckets_within d (Device.Within.refl 131072 _) (Nat.and_self _)).part .ioBacklog (by decide)
@[simp] theorem Device.settleBuckets_tiles (d : Device) : (Device.settleBuckets d).tiles = d.tiles := (Device.settleBuckets_within d (Device.Within.refl 131072 _) (Nat.and_self _)).part .tiles (by decide)
@[simp] theorem Device.settleBuckets_mem (d : Device) : (Device.settleBuckets d).mem = d.mem := (Device.settleBuckets_within d (Device.Within.refl 131072 _) (Nat.and_self _)).part .mem (by decide)
@[simp] theorem Device.settleBuckets_poison (d : Device) : (Device.settleBuckets d).poison = d.poison := (Device.settleBuckets_within d (Device.Within.refl 131072 _) (Nat.and_self _)).part .poison (by decide)
@[simp] theorem Device.settleBuckets_host (d : Device) : (Device.settleBuckets d).host = d.host := (Device.settleBuckets_within d (Device.Within.refl 131072 _) (Nat.and_self _)).part .host (by decide)
@[simp] theorem Device.settleBuckets_ports (d : Device) : (Device.settleBuckets d).ports = d.ports := (Device.settleBuckets_within d (Device.Within.refl 131072 _) (Nat.and_self _)).part .ports (by decide)
@[simp] theorem Device.settleBuckets_streams (d : Device) : (Device.settleBuckets d).streams = d.streams := (Device.settleBuckets_within d (Device.Within.refl 131072 _) (Nat.and_self _)).part .streams (by decide)
@[simp] theorem Device.settleBuckets_curSet (d : Device) : (Device.settleBuckets d).curSet = d.curSet := (Device.settleBuckets_within d (Device.Within.refl 131072 _) (Nat.and_self _)).part .curSet (by decide)
@[simp] theorem Device.settleBuckets_verA (d : Device) : (Device.settleBuckets d).verA = d.verA := (Device.settleBuckets_within d (Device.Within.refl 131072 _) (Nat.and_self _)).part .verA (by decide)
@[simp] theorem Device.settleBuckets_verB (d : Device) : (Device.settleBuckets d).verB = d.verB := (Device.settleBuckets_within d (Device.Within.refl 131072 _) (Nat.and_self _)).part .verB (by decide)
@[simp] theorem Device.settleBuckets_pace (d : Device) : (Device.settleBuckets d).pace = d.pace := (Device.settleBuckets_within d (Device.Within.refl 131072 _) (Nat.and_self _)).part .pace (by decide)
@[simp] theorem Device.settleBuckets_log (d : Device) : (Device.settleBuckets d).log = d.log := (Device.settleBuckets_within d (Device.Within.refl 131072 _) (Nat.and_self _)).part .log (by decide)
@[simp] theorem Device.settleBuckets_safety (d : Device) : (Device.settleBuckets d).safety = d.safety := (Device.settleBuckets_within d (Device.Within.refl 131072 _) (Nat.and_self _)).part .safety (by decide)
@[simp] theorem Device.settleBuckets_flash (d : Device) : (Device.settleBuckets d).flash = d.flash := (Device.settleBuckets_within d (Device.Within.refl 131072 _) (Nat.and_self _)).part .flash (by decide)
@[simp] theorem Device.settleBuckets_images (d : Device) : (Device.settleBuckets d).images = d.images := (Device.settleBuckets_within d (Device.Within.refl 131072 _) (Nat.and_self _)).part .images (by decide)
@[simp] theorem Device.settleBuckets_out (d : Device) : (Device.settleBuckets d).out = d.out := (Device.settleBuckets_within d (Device.Within.refl 131072 _) (Nat.and_self _)).part .out (by decide)

/-! ### Device.verifySlot -/

@[simp] theorem Device.verifySlot_now (d : Device) (t : Nat) : (Device.verifySlot d t).now = d.now := (Device.verifySlot_within d t (Device.Within.refl 268435464 _) (Nat.and_self _)).part .now (by decide)
@[simp] theorem Device.verifySlot_stepCounter (d : Device) (t : Nat) : (Device.verifySlot d t).stepCounter = d.stepCounter := (Device.verifySlot_within d t (Device.Within.refl 268435464 _) (Nat.and_self _)).part .stepCounter (by decide)
@[simp] theorem Device.verifySlot_power (d : Device) (t : Nat) : (Device.verifySlot d t).power = d.power := (Device.verifySlot_within d t (Device.Within.refl 268435464 _) (Nat.and_self _)).part .power (by decide)
@[simp] theorem Device.verifySlot_queues (d : Device) (t : Nat) : (Device.verifySlot d t).queues = d.queues := (Device.verifySlot_within d t (Device.Within.refl 268435464 _) (Nat.and_self _)).part .queues (by decide)
@[simp] theorem Device.verifySlot_fetched (d : Device) (t : Nat) : (Device.verifySlot d t).fetched = d.fetched := (Device.verifySlot_within d t (Device.Within.refl 268435464 _) (Nat.and_self _)).part .fetched (by decide)
@[simp] theorem Device.verifySlot_tagsFree (d : Device) (t : Nat) : (Device.verifySlot d t).tagsFree = d.tagsFree := (Device.verifySlot_within d t (Device.Within.refl 268435464 _) (Nat.and_self _)).part .tagsFree (by decide)
@[simp] theorem Device.verifySlot_cmds (d : Device) (t : Nat) : (Device.verifySlot d t).cmds = d.cmds := (Device.verifySlot_within d t (Device.Within.refl 268435464 _) (Nat.and_self _)).part .cmds (by decide)
@[simp] theorem Device.verifySlot_events (d : Device) (t : Nat) : (Device.verifySlot d t).events = d.events := (Device.verifySlot_within d t (Device.Within.refl 268435464 _) (Nat.and_self _)).part .events (by decide)
@[simp] theorem Device.verifySlot_ioBacklog (d : Device) (t : Nat) : (Device.verifySlot d t).ioBacklog = d.ioBacklog := (Device.verifySlot_within d t (Device.Within.refl 268435464 _) (Nat.and_self _)).part .ioBacklog (by decide)
@[simp] theorem Device.verifySlot_tiles (d : Device) (t : Nat) : (Device.verifySlot d t).tiles = d.tiles := (Device.verifySlot_within d t (Device.Within.refl 268435464 _) (Nat.and_self _)).part .tiles (by decide)
@[simp] theorem Device.verifySlot_mem (d : Device) (t : Nat) : (Device.verifySlot d t).mem = d.mem := (Device.verifySlot_within d t (Device.Within.refl 268435464 _) (Nat.and_self _)).part .mem (by decide)
@[simp] theorem Device.verifySlot_poison (d : Device) (t : Nat) : (Device.verifySlot d t).poison = d.poison := (Device.verifySlot_within d t (Device.Within.refl 268435464 _) (Nat.and_self _)).part .poison (by decide)
@[simp] theorem Device.verifySlot_host (d : Device) (t : Nat) : (Device.verifySlot d t).host = d.host := (Device.verifySlot_within d t (Device.Within.refl 268435464 _) (Nat.and_self _)).part .host (by decide)
@[simp] theorem Device.verifySlot_bays (d : Device) (t : Nat) : (Device.verifySlot d t).bays = d.bays := (Device.verifySlot_within d t (Device.Within.refl 268435464 _) (Nat.and_self _)).part .bays (by decide)
@[simp] theorem Device.verifySlot_ports (d : Device) (t : Nat) : (Device.verifySlot d t).ports = d.ports := (Device.verifySlot_within d t (Device.Within.refl 268435464 _) (Nat.and_self _)).part .ports (by decide)
@[simp] theorem Device.verifySlot_streams (d : Device) (t : Nat) : (Device.verifySlot d t).streams = d.streams := (Device.verifySlot_within d t (Device.Within.refl 268435464 _) (Nat.and_self _)).part .streams (by decide)
@[simp] theorem Device.verifySlot_curSet (d : Device) (t : Nat) : (Device.verifySlot d t).curSet = d.curSet := (Device.verifySlot_within d t (Device.Within.refl 268435464 _) (Nat.and_self _)).part .curSet (by decide)
@[simp] theorem Device.verifySlot_verA (d : Device) (t : Nat) : (Device.verifySlot d t).verA = d.verA := (Device.verifySlot_within d t (Device.Within.refl 268435464 _) (Nat.and_self _)).part .verA (by decide)
@[simp] theorem Device.verifySlot_verB (d : Device) (t : Nat) : (Device.verifySlot d t).verB = d.verB := (Device.verifySlot_within d t (Device.Within.refl 268435464 _) (Nat.and_self _)).part .verB (by decide)
@[simp] theorem Device.verifySlot_pace (d : Device) (t : Nat) : (Device.verifySlot d t).pace = d.pace := (Device.verifySlot_within d t (Device.Within.refl 268435464 _) (Nat.and_self _)).part .pace (by decide)
@[simp] theorem Device.verifySlot_log (d : Device) (t : Nat) : (Device.verifySlot d t).log = d.log := (Device.verifySlot_within d t (Device.Within.refl 268435464 _) (Nat.and_self _)).part .log (by decide)
@[simp] theorem Device.verifySlot_safety (d : Device) (t : Nat) : (Device.verifySlot d t).safety = d.safety := (Device.verifySlot_within d t (Device.Within.refl 268435464 _) (Nat.and_self _)).part .safety (by decide)
@[simp] theorem Device.verifySlot_images (d : Device) (t : Nat) : (Device.verifySlot d t).images = d.images := (Device.verifySlot_within d t (Device.Within.refl 268435464 _) (Nat.and_self _)).part .images (by decide)
@[simp] theorem Device.verifySlot_out (d : Device) (t : Nat) : (Device.verifySlot d t).out = d.out := (Device.verifySlot_within d t (Device.Within.refl 268435464 _) (Nat.and_self _)).part .out (by decide)

/-! ### Device.runs -/

@[simp] theorem Device.runs_now (d : Device) (k : Nat) (t : Nat) : (Device.runs d k t).now = d.now := (Device.runs_within d k t (Device.Within.refl 536870912 _) (Nat.and_self _)).part .now (by decide)
@[simp] theorem Device.runs_stepCounter (d : Device) (k : Nat) (t : Nat) : (Device.runs d k t).stepCounter = d.stepCounter := (Device.runs_within d k t (Device.Within.refl 536870912 _) (Nat.and_self _)).part .stepCounter (by decide)
@[simp] theorem Device.runs_power (d : Device) (k : Nat) (t : Nat) : (Device.runs d k t).power = d.power := (Device.runs_within d k t (Device.Within.refl 536870912 _) (Nat.and_self _)).part .power (by decide)
@[simp] theorem Device.runs_dict (d : Device) (k : Nat) (t : Nat) : (Device.runs d k t).dict = d.dict := (Device.runs_within d k t (Device.Within.refl 536870912 _) (Nat.and_self _)).part .dict (by decide)
@[simp] theorem Device.runs_queues (d : Device) (k : Nat) (t : Nat) : (Device.runs d k t).queues = d.queues := (Device.runs_within d k t (Device.Within.refl 536870912 _) (Nat.and_self _)).part .queues (by decide)
@[simp] theorem Device.runs_fetched (d : Device) (k : Nat) (t : Nat) : (Device.runs d k t).fetched = d.fetched := (Device.runs_within d k t (Device.Within.refl 536870912 _) (Nat.and_self _)).part .fetched (by decide)
@[simp] theorem Device.runs_tagsFree (d : Device) (k : Nat) (t : Nat) : (Device.runs d k t).tagsFree = d.tagsFree := (Device.runs_within d k t (Device.Within.refl 536870912 _) (Nat.and_self _)).part .tagsFree (by decide)
@[simp] theorem Device.runs_cmds (d : Device) (k : Nat) (t : Nat) : (Device.runs d k t).cmds = d.cmds := (Device.runs_within d k t (Device.Within.refl 536870912 _) (Nat.and_self _)).part .cmds (by decide)
@[simp] theorem Device.runs_events (d : Device) (k : Nat) (t : Nat) : (Device.runs d k t).events = d.events := (Device.runs_within d k t (Device.Within.refl 536870912 _) (Nat.and_self _)).part .events (by decide)
@[simp] theorem Device.runs_ioBacklog (d : Device) (k : Nat) (t : Nat) : (Device.runs d k t).ioBacklog = d.ioBacklog := (Device.runs_within d k t (Device.Within.refl 536870912 _) (Nat.and_self _)).part .ioBacklog (by decide)
@[simp] theorem Device.runs_tiles (d : Device) (k : Nat) (t : Nat) : (Device.runs d k t).tiles = d.tiles := (Device.runs_within d k t (Device.Within.refl 536870912 _) (Nat.and_self _)).part .tiles (by decide)
@[simp] theorem Device.runs_mem (d : Device) (k : Nat) (t : Nat) : (Device.runs d k t).mem = d.mem := (Device.runs_within d k t (Device.Within.refl 536870912 _) (Nat.and_self _)).part .mem (by decide)
@[simp] theorem Device.runs_poison (d : Device) (k : Nat) (t : Nat) : (Device.runs d k t).poison = d.poison := (Device.runs_within d k t (Device.Within.refl 536870912 _) (Nat.and_self _)).part .poison (by decide)
@[simp] theorem Device.runs_host (d : Device) (k : Nat) (t : Nat) : (Device.runs d k t).host = d.host := (Device.runs_within d k t (Device.Within.refl 536870912 _) (Nat.and_self _)).part .host (by decide)
@[simp] theorem Device.runs_bays (d : Device) (k : Nat) (t : Nat) : (Device.runs d k t).bays = d.bays := (Device.runs_within d k t (Device.Within.refl 536870912 _) (Nat.and_self _)).part .bays (by decide)
@[simp] theorem Device.runs_ports (d : Device) (k : Nat) (t : Nat) : (Device.runs d k t).ports = d.ports := (Device.runs_within d k t (Device.Within.refl 536870912 _) (Nat.and_self _)).part .ports (by decide)
@[simp] theorem Device.runs_streams (d : Device) (k : Nat) (t : Nat) : (Device.runs d k t).streams = d.streams := (Device.runs_within d k t (Device.Within.refl 536870912 _) (Nat.and_self _)).part .streams (by decide)
@[simp] theorem Device.runs_curSet (d : Device) (k : Nat) (t : Nat) : (Device.runs d k t).curSet = d.curSet := (Device.runs_within d k t (Device.Within.refl 536870912 _) (Nat.and_self _)).part .curSet (by decide)
@[simp] theorem Device.runs_verA (d : Device) (k : Nat) (t : Nat) : (Device.runs d k t).verA = d.verA := (Device.runs_within d k t (Device.Within.refl 536870912 _) (Nat.and_self _)).part .verA (by decide)
@[simp] theorem Device.runs_verB (d : Device) (k : Nat) (t : Nat) : (Device.runs d k t).verB = d.verB := (Device.runs_within d k t (Device.Within.refl 536870912 _) (Nat.and_self _)).part .verB (by decide)
@[simp] theorem Device.runs_pace (d : Device) (k : Nat) (t : Nat) : (Device.runs d k t).pace = d.pace := (Device.runs_within d k t (Device.Within.refl 536870912 _) (Nat.and_self _)).part .pace (by decide)
@[simp] theorem Device.runs_log (d : Device) (k : Nat) (t : Nat) : (Device.runs d k t).log = d.log := (Device.runs_within d k t (Device.Within.refl 536870912 _) (Nat.and_self _)).part .log (by decide)
@[simp] theorem Device.runs_safety (d : Device) (k : Nat) (t : Nat) : (Device.runs d k t).safety = d.safety := (Device.runs_within d k t (Device.Within.refl 536870912 _) (Nat.and_self _)).part .safety (by decide)
@[simp] theorem Device.runs_flash (d : Device) (k : Nat) (t : Nat) : (Device.runs d k t).flash = d.flash := (Device.runs_within d k t (Device.Within.refl 536870912 _) (Nat.and_self _)).part .flash (by decide)
@[simp] theorem Device.runs_out (d : Device) (k : Nat) (t : Nat) : (Device.runs d k t).out = d.out := (Device.runs_within d k t (Device.Within.refl 536870912 _) (Nat.and_self _)).part .out (by decide)

/-! ### Device.recallBay -/

@[simp] theorem Device.recallBay_now (d : Device) (k : Nat) : (Device.recallBay d k).now = d.now := (Device.recallBay_within d k (Device.Within.refl 131072 _) (Nat.and_self _)).part .now (by decide)
@[simp] theorem Device.recallBay_stepCounter (d : Device) (k : Nat) : (Device.recallBay d k).stepCounter = d.stepCounter := (Device.recallBay_within d k (Device.Within.refl 131072 _) (Nat.and_self _)).part .stepCounter (by decide)
@[simp] theorem Device.recallBay_power (d : Device) (k : Nat) : (Device.recallBay d k).power = d.power := (Device.recallBay_within d k (Device.Within.refl 131072 _) (Nat.and_self _)).part .power (by decide)
@[simp] theorem Device.recallBay_dict (d : Device) (k : Nat) : (Device.recallBay d k).dict = d.dict := (Device.recallBay_within d k (Device.Within.refl 131072 _) (Nat.and_self _)).part .dict (by decide)
@[simp] theorem Device.recallBay_queues (d : Device) (k : Nat) : (Device.recallBay d k).queues = d.queues := (Device.recallBay_within d k (Device.Within.refl 131072 _) (Nat.and_self _)).part .queues (by decide)
@[simp] theorem Device.recallBay_fetched (d : Device) (k : Nat) : (Device.recallBay d k).fetched = d.fetched := (Device.recallBay_within d k (Device.Within.refl 131072 _) (Nat.and_self _)).part .fetched (by decide)
@[simp] theorem Device.recallBay_tagsFree (d : Device) (k : Nat) : (Device.recallBay d k).tagsFree = d.tagsFree := (Device.recallBay_within d k (Device.Within.refl 131072 _) (Nat.and_self _)).part .tagsFree (by decide)
@[simp] theorem Device.recallBay_cmds (d : Device) (k : Nat) : (Device.recallBay d k).cmds = d.cmds := (Device.recallBay_within d k (Device.Within.refl 131072 _) (Nat.and_self _)).part .cmds (by decide)
@[simp] theorem Device.recallBay_events (d : Device) (k : Nat) : (Device.recallBay d k).events = d.events := (Device.recallBay_within d k (Device.Within.refl 131072 _) (Nat.and_self _)).part .events (by decide)
@[simp] theorem Device.recallBay_ioBacklog (d : Device) (k : Nat) : (Device.recallBay d k).ioBacklog = d.ioBacklog := (Device.recallBay_within d k (Device.Within.refl 131072 _) (Nat.and_self _)).part .ioBacklog (by decide)
@[simp] theorem Device.recallBay_tiles (d : Device) (k : Nat) : (Device.recallBay d k).tiles = d.tiles := (Device.recallBay_within d k (Device.Within.refl 131072 _) (Nat.and_self _)).part .tiles (by decide)
@[simp] theorem Device.recallBay_mem (d : Device) (k : Nat) : (Device.recallBay d k).mem = d.mem := (Device.recallBay_within d k (Device.Within.refl 131072 _) (Nat.and_self _)).part .mem (by decide)
@[simp] theorem Device.recallBay_poison (d : Device) (k : Nat) : (Device.recallBay d k).poison = d.poison := (Device.recallBay_within d k (Device.Within.refl 131072 _) (Nat.and_self _)).part .poison (by decide)
@[simp] theorem Device.recallBay_host (d : Device) (k : Nat) : (Device.recallBay d k).host = d.host := (Device.recallBay_within d k (Device.Within.refl 131072 _) (Nat.and_self _)).part .host (by decide)
@[simp] theorem Device.recallBay_ports (d : Device) (k : Nat) : (Device.recallBay d k).ports = d.ports := (Device.recallBay_within d k (Device.Within.refl 131072 _) (Nat.and_self _)).part .ports (by decide)
@[simp] theorem Device.recallBay_streams (d : Device) (k : Nat) : (Device.recallBay d k).streams = d.streams := (Device.recallBay_within d k (Device.Within.refl 131072 _) (Nat.and_self _)).part .streams (by decide)
@[simp] theorem Device.recallBay_curSet (d : Device) (k : Nat) : (Device.recallBay d k).curSet = d.curSet := (Device.recallBay_within d k (Device.Within.refl 131072 _) (Nat.and_self _)).part .curSet (by decide)
@[simp] theorem Device.recallBay_verA (d : Device) (k : Nat) : (Device.recallBay d k).verA = d.verA := (Device.recallBay_within d k (Device.Within.refl 131072 _) (Nat.and_self _)).part .verA (by decide)
@[simp] theorem Device.recallBay_verB (d : Device) (k : Nat) : (Device.recallBay d k).verB = d.verB := (Device.recallBay_within d k (Device.Within.refl 131072 _) (Nat.and_self _)).part .verB (by decide)
@[simp] theorem Device.recallBay_pace (d : Device) (k : Nat) : (Device.recallBay d k).pace = d.pace := (Device.recallBay_within d k (Device.Within.refl 131072 _) (Nat.and_self _)).part .pace (by decide)
@[simp] theorem Device.recallBay_log (d : Device) (k : Nat) : (Device.recallBay d k).log = d.log := (Device.recallBay_within d k (Device.Within.refl 131072 _) (Nat.and_self _)).part .log (by decide)
@[simp] theorem Device.recallBay_safety (d : Device) (k : Nat) : (Device.recallBay d k).safety = d.safety := (Device.recallBay_within d k (Device.Within.refl 131072 _) (Nat.and_self _)).part .safety (by decide)
@[simp] theorem Device.recallBay_flash (d : Device) (k : Nat) : (Device.recallBay d k).flash = d.flash := (Device.recallBay_within d k (Device.Within.refl 131072 _) (Nat.and_self _)).part .flash (by decide)
@[simp] theorem Device.recallBay_images (d : Device) (k : Nat) : (Device.recallBay d k).images = d.images := (Device.recallBay_within d k (Device.Within.refl 131072 _) (Nat.and_self _)).part .images (by decide)
@[simp] theorem Device.recallBay_out (d : Device) (k : Nat) : (Device.recallBay d k).out = d.out := (Device.recallBay_within d k (Device.Within.refl 131072 _) (Nat.and_self _)).part .out (by decide)

/-! ### Device.bayTrained -/

@[simp] theorem Device.bayTrained_now (d : Device) (trained : Byte) (k : Nat) : (Device.bayTrained d trained k).now = d.now := (Device.bayTrained_within d trained k (Device.Within.refl 2349998604 _) (Nat.and_self _)).part .now (by decide)
@[simp] theorem Device.bayTrained_stepCounter (d : Device) (trained : Byte) (k : Nat) : (Device.bayTrained d trained k).stepCounter = d.stepCounter := (Device.bayTrained_within d trained k (Device.Within.refl 2349998604 _) (Nat.and_self _)).part .stepCounter (by decide)
@[simp] theorem Device.bayTrained_queues (d : Device) (trained : Byte) (k : Nat) : (Device.bayTrained d trained k).queues = d.queues := (Device.bayTrained_within d trained k (Device.Within.refl 2349998604 _) (Nat.and_self _)).part .queues (by decide)
@[simp] theorem Device.bayTrained_fetched (d : Device) (trained : Byte) (k : Nat) : (Device.bayTrained d trained k).fetched = d.fetched := (Device.bayTrained_within d trained k (Device.Within.refl 2349998604 _) (Nat.and_self _)).part .fetched (by decide)
@[simp] theorem Device.bayTrained_tagsFree (d : Device) (trained : Byte) (k : Nat) : (Device.bayTrained d trained k).tagsFree = d.tagsFree := (Device.bayTrained_within d trained k (Device.Within.refl 2349998604 _) (Nat.and_self _)).part .tagsFree (by decide)
@[simp] theorem Device.bayTrained_events (d : Device) (trained : Byte) (k : Nat) : (Device.bayTrained d trained k).events = d.events := (Device.bayTrained_within d trained k (Device.Within.refl 2349998604 _) (Nat.and_self _)).part .events (by decide)
@[simp] theorem Device.bayTrained_ioBacklog (d : Device) (trained : Byte) (k : Nat) : (Device.bayTrained d trained k).ioBacklog = d.ioBacklog := (Device.bayTrained_within d trained k (Device.Within.refl 2349998604 _) (Nat.and_self _)).part .ioBacklog (by decide)
@[simp] theorem Device.bayTrained_mem (d : Device) (trained : Byte) (k : Nat) : (Device.bayTrained d trained k).mem = d.mem := (Device.bayTrained_within d trained k (Device.Within.refl 2349998604 _) (Nat.and_self _)).part .mem (by decide)
@[simp] theorem Device.bayTrained_poison (d : Device) (trained : Byte) (k : Nat) : (Device.bayTrained d trained k).poison = d.poison := (Device.bayTrained_within d trained k (Device.Within.refl 2349998604 _) (Nat.and_self _)).part .poison (by decide)
@[simp] theorem Device.bayTrained_host (d : Device) (trained : Byte) (k : Nat) : (Device.bayTrained d trained k).host = d.host := (Device.bayTrained_within d trained k (Device.Within.refl 2349998604 _) (Nat.and_self _)).part .host (by decide)
@[simp] theorem Device.bayTrained_streams (d : Device) (trained : Byte) (k : Nat) : (Device.bayTrained d trained k).streams = d.streams := (Device.bayTrained_within d trained k (Device.Within.refl 2349998604 _) (Nat.and_self _)).part .streams (by decide)
@[simp] theorem Device.bayTrained_curSet (d : Device) (trained : Byte) (k : Nat) : (Device.bayTrained d trained k).curSet = d.curSet := (Device.bayTrained_within d trained k (Device.Within.refl 2349998604 _) (Nat.and_self _)).part .curSet (by decide)
@[simp] theorem Device.bayTrained_verA (d : Device) (trained : Byte) (k : Nat) : (Device.bayTrained d trained k).verA = d.verA := (Device.bayTrained_within d trained k (Device.Within.refl 2349998604 _) (Nat.and_self _)).part .verA (by decide)
@[simp] theorem Device.bayTrained_verB (d : Device) (trained : Byte) (k : Nat) : (Device.bayTrained d trained k).verB = d.verB := (Device.bayTrained_within d trained k (Device.Within.refl 2349998604 _) (Nat.and_self _)).part .verB (by decide)
@[simp] theorem Device.bayTrained_pace (d : Device) (trained : Byte) (k : Nat) : (Device.bayTrained d trained k).pace = d.pace := (Device.bayTrained_within d trained k (Device.Within.refl 2349998604 _) (Nat.and_self _)).part .pace (by decide)
@[simp] theorem Device.bayTrained_flash (d : Device) (trained : Byte) (k : Nat) : (Device.bayTrained d trained k).flash = d.flash := (Device.bayTrained_within d trained k (Device.Within.refl 2349998604 _) (Nat.and_self _)).part .flash (by decide)
@[simp] theorem Device.bayTrained_images (d : Device) (trained : Byte) (k : Nat) : (Device.bayTrained d trained k).images = d.images := (Device.bayTrained_within d trained k (Device.Within.refl 2349998604 _) (Nat.and_self _)).part .images (by decide)

/-! ### Device.logFallback -/

@[simp] theorem Device.logFallback_now (d : Device) (k : Nat) (t : Nat) : (Device.logFallback d k t).now = d.now := (Device.logFallback_within d k t (Device.Within.refl 67108872 _) (Nat.and_self _)).part .now (by decide)
@[simp] theorem Device.logFallback_stepCounter (d : Device) (k : Nat) (t : Nat) : (Device.logFallback d k t).stepCounter = d.stepCounter := (Device.logFallback_within d k t (Device.Within.refl 67108872 _) (Nat.and_self _)).part .stepCounter (by decide)
@[simp] theorem Device.logFallback_power (d : Device) (k : Nat) (t : Nat) : (Device.logFallback d k t).power = d.power := (Device.logFallback_within d k t (Device.Within.refl 67108872 _) (Nat.and_self _)).part .power (by decide)
@[simp] theorem Device.logFallback_queues (d : Device) (k : Nat) (t : Nat) : (Device.logFallback d k t).queues = d.queues := (Device.logFallback_within d k t (Device.Within.refl 67108872 _) (Nat.and_self _)).part .queues (by decide)
@[simp] theorem Device.logFallback_fetched (d : Device) (k : Nat) (t : Nat) : (Device.logFallback d k t).fetched = d.fetched := (Device.logFallback_within d k t (Device.Within.refl 67108872 _) (Nat.and_self _)).part .fetched (by decide)
@[simp] theorem Device.logFallback_tagsFree (d : Device) (k : Nat) (t : Nat) : (Device.logFallback d k t).tagsFree = d.tagsFree := (Device.logFallback_within d k t (Device.Within.refl 67108872 _) (Nat.and_self _)).part .tagsFree (by decide)
@[simp] theorem Device.logFallback_cmds (d : Device) (k : Nat) (t : Nat) : (Device.logFallback d k t).cmds = d.cmds := (Device.logFallback_within d k t (Device.Within.refl 67108872 _) (Nat.and_self _)).part .cmds (by decide)
@[simp] theorem Device.logFallback_events (d : Device) (k : Nat) (t : Nat) : (Device.logFallback d k t).events = d.events := (Device.logFallback_within d k t (Device.Within.refl 67108872 _) (Nat.and_self _)).part .events (by decide)
@[simp] theorem Device.logFallback_ioBacklog (d : Device) (k : Nat) (t : Nat) : (Device.logFallback d k t).ioBacklog = d.ioBacklog := (Device.logFallback_within d k t (Device.Within.refl 67108872 _) (Nat.and_self _)).part .ioBacklog (by decide)
@[simp] theorem Device.logFallback_tiles (d : Device) (k : Nat) (t : Nat) : (Device.logFallback d k t).tiles = d.tiles := (Device.logFallback_within d k t (Device.Within.refl 67108872 _) (Nat.and_self _)).part .tiles (by decide)
@[simp] theorem Device.logFallback_mem (d : Device) (k : Nat) (t : Nat) : (Device.logFallback d k t).mem = d.mem := (Device.logFallback_within d k t (Device.Within.refl 67108872 _) (Nat.and_self _)).part .mem (by decide)
@[simp] theorem Device.logFallback_poison (d : Device) (k : Nat) (t : Nat) : (Device.logFallback d k t).poison = d.poison := (Device.logFallback_within d k t (Device.Within.refl 67108872 _) (Nat.and_self _)).part .poison (by decide)
@[simp] theorem Device.logFallback_host (d : Device) (k : Nat) (t : Nat) : (Device.logFallback d k t).host = d.host := (Device.logFallback_within d k t (Device.Within.refl 67108872 _) (Nat.and_self _)).part .host (by decide)
@[simp] theorem Device.logFallback_bays (d : Device) (k : Nat) (t : Nat) : (Device.logFallback d k t).bays = d.bays := (Device.logFallback_within d k t (Device.Within.refl 67108872 _) (Nat.and_self _)).part .bays (by decide)
@[simp] theorem Device.logFallback_ports (d : Device) (k : Nat) (t : Nat) : (Device.logFallback d k t).ports = d.ports := (Device.logFallback_within d k t (Device.Within.refl 67108872 _) (Nat.and_self _)).part .ports (by decide)
@[simp] theorem Device.logFallback_streams (d : Device) (k : Nat) (t : Nat) : (Device.logFallback d k t).streams = d.streams := (Device.logFallback_within d k t (Device.Within.refl 67108872 _) (Nat.and_self _)).part .streams (by decide)
@[simp] theorem Device.logFallback_curSet (d : Device) (k : Nat) (t : Nat) : (Device.logFallback d k t).curSet = d.curSet := (Device.logFallback_within d k t (Device.Within.refl 67108872 _) (Nat.and_self _)).part .curSet (by decide)
@[simp] theorem Device.logFallback_verA (d : Device) (k : Nat) (t : Nat) : (Device.logFallback d k t).verA = d.verA := (Device.logFallback_within d k t (Device.Within.refl 67108872 _) (Nat.and_self _)).part .verA (by decide)
@[simp] theorem Device.logFallback_verB (d : Device) (k : Nat) (t : Nat) : (Device.logFallback d k t).verB = d.verB := (Device.logFallback_within d k t (Device.Within.refl 67108872 _) (Nat.and_self _)).part .verB (by decide)
@[simp] theorem Device.logFallback_pace (d : Device) (k : Nat) (t : Nat) : (Device.logFallback d k t).pace = d.pace := (Device.logFallback_within d k t (Device.Within.refl 67108872 _) (Nat.and_self _)).part .pace (by decide)
@[simp] theorem Device.logFallback_safety (d : Device) (k : Nat) (t : Nat) : (Device.logFallback d k t).safety = d.safety := (Device.logFallback_within d k t (Device.Within.refl 67108872 _) (Nat.and_self _)).part .safety (by decide)
@[simp] theorem Device.logFallback_flash (d : Device) (k : Nat) (t : Nat) : (Device.logFallback d k t).flash = d.flash := (Device.logFallback_within d k t (Device.Within.refl 67108872 _) (Nat.and_self _)).part .flash (by decide)
@[simp] theorem Device.logFallback_images (d : Device) (k : Nat) (t : Nat) : (Device.logFallback d k t).images = d.images := (Device.logFallback_within d k t (Device.Within.refl 67108872 _) (Nat.and_self _)).part .images (by decide)
@[simp] theorem Device.logFallback_out (d : Device) (k : Nat) (t : Nat) : (Device.logFallback d k t).out = d.out := (Device.logFallback_within d k t (Device.Within.refl 67108872 _) (Nat.and_self _)).part .out (by decide)

/-! ### Device.pickImage -/

@[simp] theorem Device.pickImage_now (d : Device) (k : Nat) : (Device.pickImage d k).now = d.now := (Device.pickImage_within d k (Device.Within.refl 872415240 _) (Nat.and_self _)).part .now (by decide)
@[simp] theorem Device.pickImage_stepCounter (d : Device) (k : Nat) : (Device.pickImage d k).stepCounter = d.stepCounter := (Device.pickImage_within d k (Device.Within.refl 872415240 _) (Nat.and_self _)).part .stepCounter (by decide)
@[simp] theorem Device.pickImage_power (d : Device) (k : Nat) : (Device.pickImage d k).power = d.power := (Device.pickImage_within d k (Device.Within.refl 872415240 _) (Nat.and_self _)).part .power (by decide)
@[simp] theorem Device.pickImage_queues (d : Device) (k : Nat) : (Device.pickImage d k).queues = d.queues := (Device.pickImage_within d k (Device.Within.refl 872415240 _) (Nat.and_self _)).part .queues (by decide)
@[simp] theorem Device.pickImage_fetched (d : Device) (k : Nat) : (Device.pickImage d k).fetched = d.fetched := (Device.pickImage_within d k (Device.Within.refl 872415240 _) (Nat.and_self _)).part .fetched (by decide)
@[simp] theorem Device.pickImage_tagsFree (d : Device) (k : Nat) : (Device.pickImage d k).tagsFree = d.tagsFree := (Device.pickImage_within d k (Device.Within.refl 872415240 _) (Nat.and_self _)).part .tagsFree (by decide)
@[simp] theorem Device.pickImage_cmds (d : Device) (k : Nat) : (Device.pickImage d k).cmds = d.cmds := (Device.pickImage_within d k (Device.Within.refl 872415240 _) (Nat.and_self _)).part .cmds (by decide)
@[simp] theorem Device.pickImage_events (d : Device) (k : Nat) : (Device.pickImage d k).events = d.events := (Device.pickImage_within d k (Device.Within.refl 872415240 _) (Nat.and_self _)).part .events (by decide)
@[simp] theorem Device.pickImage_ioBacklog (d : Device) (k : Nat) : (Device.pickImage d k).ioBacklog = d.ioBacklog := (Device.pickImage_within d k (Device.Within.refl 872415240 _) (Nat.and_self _)).part .ioBacklog (by decide)
@[simp] theorem Device.pickImage_tiles (d : Device) (k : Nat) : (Device.pickImage d k).tiles = d.tiles := (Device.pickImage_within d k (Device.Within.refl 872415240 _) (Nat.and_self _)).part .tiles (by decide)
@[simp] theorem Device.pickImage_mem (d : Device) (k : Nat) : (Device.pickImage d k).mem = d.mem := (Device.pickImage_within d k (Device.Within.refl 872415240 _) (Nat.and_self _)).part .mem (by decide)
@[simp] theorem Device.pickImage_poison (d : Device) (k : Nat) : (Device.pickImage d k).poison = d.poison := (Device.pickImage_within d k (Device.Within.refl 872415240 _) (Nat.and_self _)).part .poison (by decide)
@[simp] theorem Device.pickImage_host (d : Device) (k : Nat) : (Device.pickImage d k).host = d.host := (Device.pickImage_within d k (Device.Within.refl 872415240 _) (Nat.and_self _)).part .host (by decide)
@[simp] theorem Device.pickImage_bays (d : Device) (k : Nat) : (Device.pickImage d k).bays = d.bays := (Device.pickImage_within d k (Device.Within.refl 872415240 _) (Nat.and_self _)).part .bays (by decide)
@[simp] theorem Device.pickImage_ports (d : Device) (k : Nat) : (Device.pickImage d k).ports = d.ports := (Device.pickImage_within d k (Device.Within.refl 872415240 _) (Nat.and_self _)).part .ports (by decide)
@[simp] theorem Device.pickImage_streams (d : Device) (k : Nat) : (Device.pickImage d k).streams = d.streams := (Device.pickImage_within d k (Device.Within.refl 872415240 _) (Nat.and_self _)).part .streams (by decide)
@[simp] theorem Device.pickImage_curSet (d : Device) (k : Nat) : (Device.pickImage d k).curSet = d.curSet := (Device.pickImage_within d k (Device.Within.refl 872415240 _) (Nat.and_self _)).part .curSet (by decide)
@[simp] theorem Device.pickImage_verA (d : Device) (k : Nat) : (Device.pickImage d k).verA = d.verA := (Device.pickImage_within d k (Device.Within.refl 872415240 _) (Nat.and_self _)).part .verA (by decide)
@[simp] theorem Device.pickImage_verB (d : Device) (k : Nat) : (Device.pickImage d k).verB = d.verB := (Device.pickImage_within d k (Device.Within.refl 872415240 _) (Nat.and_self _)).part .verB (by decide)
@[simp] theorem Device.pickImage_pace (d : Device) (k : Nat) : (Device.pickImage d k).pace = d.pace := (Device.pickImage_within d k (Device.Within.refl 872415240 _) (Nat.and_self _)).part .pace (by decide)
@[simp] theorem Device.pickImage_safety (d : Device) (k : Nat) : (Device.pickImage d k).safety = d.safety := (Device.pickImage_within d k (Device.Within.refl 872415240 _) (Nat.and_self _)).part .safety (by decide)
@[simp] theorem Device.pickImage_out (d : Device) (k : Nat) : (Device.pickImage d k).out = d.out := (Device.pickImage_within d k (Device.Within.refl 872415240 _) (Nat.and_self _)).part .out (by decide)

/-! ### Device.pickManifest -/

@[simp] theorem Device.pickManifest_now (d : Device) : (Device.pickManifest d).now = d.now := (Device.pickManifest_within d (Device.Within.refl 805306376 _) (Nat.and_self _)).part .now (by decide)
@[simp] theorem Device.pickManifest_stepCounter (d : Device) : (Device.pickManifest d).stepCounter = d.stepCounter := (Device.pickManifest_within d (Device.Within.refl 805306376 _) (Nat.and_self _)).part .stepCounter (by decide)
@[simp] theorem Device.pickManifest_power (d : Device) : (Device.pickManifest d).power = d.power := (Device.pickManifest_within d (Device.Within.refl 805306376 _) (Nat.and_self _)).part .power (by decide)
@[simp] theorem Device.pickManifest_queues (d : Device) : (Device.pickManifest d).queues = d.queues := (Device.pickManifest_within d (Device.Within.refl 805306376 _) (Nat.and_self _)).part .queues (by decide)
@[simp] theorem Device.pickManifest_fetched (d : Device) : (Device.pickManifest d).fetched = d.fetched := (Device.pickManifest_within d (Device.Within.refl 805306376 _) (Nat.and_self _)).part .fetched (by decide)
@[simp] theorem Device.pickManifest_tagsFree (d : Device) : (Device.pickManifest d).tagsFree = d.tagsFree := (Device.pickManifest_within d (Device.Within.refl 805306376 _) (Nat.and_self _)).part .tagsFree (by decide)
@[simp] theorem Device.pickManifest_cmds (d : Device) : (Device.pickManifest d).cmds = d.cmds := (Device.pickManifest_within d (Device.Within.refl 805306376 _) (Nat.and_self _)).part .cmds (by decide)
@[simp] theorem Device.pickManifest_events (d : Device) : (Device.pickManifest d).events = d.events := (Device.pickManifest_within d (Device.Within.refl 805306376 _) (Nat.and_self _)).part .events (by decide)
@[simp] theorem Device.pickManifest_ioBacklog (d : Device) : (Device.pickManifest d).ioBacklog = d.ioBacklog := (Device.pickManifest_within d (Device.Within.refl 805306376 _) (Nat.and_self _)).part .ioBacklog (by decide)
@[simp] theorem Device.pickManifest_tiles (d : Device) : (Device.pickManifest d).tiles = d.tiles := (Device.pickManifest_within d (Device.Within.refl 805306376 _) (Nat.and_self _)).part .tiles (by decide)
@[simp] theorem Device.pickManifest_mem (d : Device) : (Device.pickManifest d).mem = d.mem := (Device.pickManifest_within d (Device.Within.refl 805306376 _) (Nat.and_self _)).part .mem (by decide)
@[simp] theorem Device.pickManifest_poison (d : Device) : (Device.pickManifest d).poison = d.poison := (Device.pickManifest_within d (Device.Within.refl 805306376 _) (Nat.and_self _)).part .poison (by decide)
@[simp] theorem Device.pickManifest_host (d : Device) : (Device.pickManifest d).host = d.host := (Device.pickManifest_within d (Device.Within.refl 805306376 _) (Nat.and_self _)).part .host (by decide)
@[simp] theorem Device.pickManifest_bays (d : Device) : (Device.pickManifest d).bays = d.bays := (Device.pickManifest_within d (Device.Within.refl 805306376 _) (Nat.and_self _)).part .bays (by decide)
@[simp] theorem Device.pickManifest_ports (d : Device) : (Device.pickManifest d).ports = d.ports := (Device.pickManifest_within d (Device.Within.refl 805306376 _) (Nat.and_self _)).part .ports (by decide)
@[simp] theorem Device.pickManifest_streams (d : Device) : (Device.pickManifest d).streams = d.streams := (Device.pickManifest_within d (Device.Within.refl 805306376 _) (Nat.and_self _)).part .streams (by decide)
@[simp] theorem Device.pickManifest_curSet (d : Device) : (Device.pickManifest d).curSet = d.curSet := (Device.pickManifest_within d (Device.Within.refl 805306376 _) (Nat.and_self _)).part .curSet (by decide)
@[simp] theorem Device.pickManifest_verA (d : Device) : (Device.pickManifest d).verA = d.verA := (Device.pickManifest_within d (Device.Within.refl 805306376 _) (Nat.and_self _)).part .verA (by decide)
@[simp] theorem Device.pickManifest_verB (d : Device) : (Device.pickManifest d).verB = d.verB := (Device.pickManifest_within d (Device.Within.refl 805306376 _) (Nat.and_self _)).part .verB (by decide)
@[simp] theorem Device.pickManifest_pace (d : Device) : (Device.pickManifest d).pace = d.pace := (Device.pickManifest_within d (Device.Within.refl 805306376 _) (Nat.and_self _)).part .pace (by decide)
@[simp] theorem Device.pickManifest_log (d : Device) : (Device.pickManifest d).log = d.log := (Device.pickManifest_within d (Device.Within.refl 805306376 _) (Nat.and_self _)).part .log (by decide)
@[simp] theorem Device.pickManifest_safety (d : Device) : (Device.pickManifest d).safety = d.safety := (Device.pickManifest_within d (Device.Within.refl 805306376 _) (Nat.and_self _)).part .safety (by decide)
@[simp] theorem Device.pickManifest_out (d : Device) : (Device.pickManifest d).out = d.out := (Device.pickManifest_within d (Device.Within.refl 805306376 _) (Nat.and_self _)).part .out (by decide)

/-! ### Device.startLog -/

@[simp] theorem Device.startLog_now (d : Device) : (Device.startLog d).now = d.now := (Device.startLog_within d (Device.Within.refl 67108872 _) (Nat.and_self _)).part .now (by decide)
@[simp] theorem Device.startLog_stepCounter (d : Device) : (Device.startLog d).stepCounter = d.stepCounter := (Device.startLog_within d (Device.Within.refl 67108872 _) (Nat.and_self _)).part .stepCounter (by decide)
@[simp] theorem Device.startLog_power (d : Device) : (Device.startLog d).power = d.power := (Device.startLog_within d (Device.Within.refl 67108872 _) (Nat.and_self _)).part .power (by decide)
@[simp] theorem Device.startLog_queues (d : Device) : (Device.startLog d).queues = d.queues := (Device.startLog_within d (Device.Within.refl 67108872 _) (Nat.and_self _)).part .queues (by decide)
@[simp] theorem Device.startLog_fetched (d : Device) : (Device.startLog d).fetched = d.fetched := (Device.startLog_within d (Device.Within.refl 67108872 _) (Nat.and_self _)).part .fetched (by decide)
@[simp] theorem Device.startLog_tagsFree (d : Device) : (Device.startLog d).tagsFree = d.tagsFree := (Device.startLog_within d (Device.Within.refl 67108872 _) (Nat.and_self _)).part .tagsFree (by decide)
@[simp] theorem Device.startLog_cmds (d : Device) : (Device.startLog d).cmds = d.cmds := (Device.startLog_within d (Device.Within.refl 67108872 _) (Nat.and_self _)).part .cmds (by decide)
@[simp] theorem Device.startLog_events (d : Device) : (Device.startLog d).events = d.events := (Device.startLog_within d (Device.Within.refl 67108872 _) (Nat.and_self _)).part .events (by decide)
@[simp] theorem Device.startLog_ioBacklog (d : Device) : (Device.startLog d).ioBacklog = d.ioBacklog := (Device.startLog_within d (Device.Within.refl 67108872 _) (Nat.and_self _)).part .ioBacklog (by decide)
@[simp] theorem Device.startLog_tiles (d : Device) : (Device.startLog d).tiles = d.tiles := (Device.startLog_within d (Device.Within.refl 67108872 _) (Nat.and_self _)).part .tiles (by decide)
@[simp] theorem Device.startLog_mem (d : Device) : (Device.startLog d).mem = d.mem := (Device.startLog_within d (Device.Within.refl 67108872 _) (Nat.and_self _)).part .mem (by decide)
@[simp] theorem Device.startLog_poison (d : Device) : (Device.startLog d).poison = d.poison := (Device.startLog_within d (Device.Within.refl 67108872 _) (Nat.and_self _)).part .poison (by decide)
@[simp] theorem Device.startLog_host (d : Device) : (Device.startLog d).host = d.host := (Device.startLog_within d (Device.Within.refl 67108872 _) (Nat.and_self _)).part .host (by decide)
@[simp] theorem Device.startLog_bays (d : Device) : (Device.startLog d).bays = d.bays := (Device.startLog_within d (Device.Within.refl 67108872 _) (Nat.and_self _)).part .bays (by decide)
@[simp] theorem Device.startLog_ports (d : Device) : (Device.startLog d).ports = d.ports := (Device.startLog_within d (Device.Within.refl 67108872 _) (Nat.and_self _)).part .ports (by decide)
@[simp] theorem Device.startLog_streams (d : Device) : (Device.startLog d).streams = d.streams := (Device.startLog_within d (Device.Within.refl 67108872 _) (Nat.and_self _)).part .streams (by decide)
@[simp] theorem Device.startLog_curSet (d : Device) : (Device.startLog d).curSet = d.curSet := (Device.startLog_within d (Device.Within.refl 67108872 _) (Nat.and_self _)).part .curSet (by decide)
@[simp] theorem Device.startLog_verA (d : Device) : (Device.startLog d).verA = d.verA := (Device.startLog_within d (Device.Within.refl 67108872 _) (Nat.and_self _)).part .verA (by decide)
@[simp] theorem Device.startLog_verB (d : Device) : (Device.startLog d).verB = d.verB := (Device.startLog_within d (Device.Within.refl 67108872 _) (Nat.and_self _)).part .verB (by decide)
@[simp] theorem Device.startLog_pace (d : Device) : (Device.startLog d).pace = d.pace := (Device.startLog_within d (Device.Within.refl 67108872 _) (Nat.and_self _)).part .pace (by decide)
@[simp] theorem Device.startLog_safety (d : Device) : (Device.startLog d).safety = d.safety := (Device.startLog_within d (Device.Within.refl 67108872 _) (Nat.and_self _)).part .safety (by decide)
@[simp] theorem Device.startLog_flash (d : Device) : (Device.startLog d).flash = d.flash := (Device.startLog_within d (Device.Within.refl 67108872 _) (Nat.and_self _)).part .flash (by decide)
@[simp] theorem Device.startLog_images (d : Device) : (Device.startLog d).images = d.images := (Device.startLog_within d (Device.Within.refl 67108872 _) (Nat.and_self _)).part .images (by decide)
@[simp] theorem Device.startLog_out (d : Device) : (Device.startLog d).out = d.out := (Device.startLog_within d (Device.Within.refl 67108872 _) (Nat.and_self _)).part .out (by decide)

/-! ### Device.eventEffect -/

@[simp] theorem Device.eventEffect_now (d : Device) (c : Cmd) : (Device.eventEffect d c).now = d.now := (Device.eventEffect_within d c (Device.Within.refl 2048 _) (Nat.and_self _)).part .now (by decide)
@[simp] theorem Device.eventEffect_stepCounter (d : Device) (c : Cmd) : (Device.eventEffect d c).stepCounter = d.stepCounter := (Device.eventEffect_within d c (Device.Within.refl 2048 _) (Nat.and_self _)).part .stepCounter (by decide)
@[simp] theorem Device.eventEffect_power (d : Device) (c : Cmd) : (Device.eventEffect d c).power = d.power := (Device.eventEffect_within d c (Device.Within.refl 2048 _) (Nat.and_self _)).part .power (by decide)
@[simp] theorem Device.eventEffect_dict (d : Device) (c : Cmd) : (Device.eventEffect d c).dict = d.dict := (Device.eventEffect_within d c (Device.Within.refl 2048 _) (Nat.and_self _)).part .dict (by decide)
@[simp] theorem Device.eventEffect_queues (d : Device) (c : Cmd) : (Device.eventEffect d c).queues = d.queues := (Device.eventEffect_within d c (Device.Within.refl 2048 _) (Nat.and_self _)).part .queues (by decide)
@[simp] theorem Device.eventEffect_fetched (d : Device) (c : Cmd) : (Device.eventEffect d c).fetched = d.fetched := (Device.eventEffect_within d c (Device.Within.refl 2048 _) (Nat.and_self _)).part .fetched (by decide)
@[simp] theorem Device.eventEffect_tagsFree (d : Device) (c : Cmd) : (Device.eventEffect d c).tagsFree = d.tagsFree := (Device.eventEffect_within d c (Device.Within.refl 2048 _) (Nat.and_self _)).part .tagsFree (by decide)
@[simp] theorem Device.eventEffect_cmds (d : Device) (c : Cmd) : (Device.eventEffect d c).cmds = d.cmds := (Device.eventEffect_within d c (Device.Within.refl 2048 _) (Nat.and_self _)).part .cmds (by decide)
@[simp] theorem Device.eventEffect_ioBacklog (d : Device) (c : Cmd) : (Device.eventEffect d c).ioBacklog = d.ioBacklog := (Device.eventEffect_within d c (Device.Within.refl 2048 _) (Nat.and_self _)).part .ioBacklog (by decide)
@[simp] theorem Device.eventEffect_tiles (d : Device) (c : Cmd) : (Device.eventEffect d c).tiles = d.tiles := (Device.eventEffect_within d c (Device.Within.refl 2048 _) (Nat.and_self _)).part .tiles (by decide)
@[simp] theorem Device.eventEffect_mem (d : Device) (c : Cmd) : (Device.eventEffect d c).mem = d.mem := (Device.eventEffect_within d c (Device.Within.refl 2048 _) (Nat.and_self _)).part .mem (by decide)
@[simp] theorem Device.eventEffect_poison (d : Device) (c : Cmd) : (Device.eventEffect d c).poison = d.poison := (Device.eventEffect_within d c (Device.Within.refl 2048 _) (Nat.and_self _)).part .poison (by decide)
@[simp] theorem Device.eventEffect_host (d : Device) (c : Cmd) : (Device.eventEffect d c).host = d.host := (Device.eventEffect_within d c (Device.Within.refl 2048 _) (Nat.and_self _)).part .host (by decide)
@[simp] theorem Device.eventEffect_bays (d : Device) (c : Cmd) : (Device.eventEffect d c).bays = d.bays := (Device.eventEffect_within d c (Device.Within.refl 2048 _) (Nat.and_self _)).part .bays (by decide)
@[simp] theorem Device.eventEffect_ports (d : Device) (c : Cmd) : (Device.eventEffect d c).ports = d.ports := (Device.eventEffect_within d c (Device.Within.refl 2048 _) (Nat.and_self _)).part .ports (by decide)
@[simp] theorem Device.eventEffect_streams (d : Device) (c : Cmd) : (Device.eventEffect d c).streams = d.streams := (Device.eventEffect_within d c (Device.Within.refl 2048 _) (Nat.and_self _)).part .streams (by decide)
@[simp] theorem Device.eventEffect_curSet (d : Device) (c : Cmd) : (Device.eventEffect d c).curSet = d.curSet := (Device.eventEffect_within d c (Device.Within.refl 2048 _) (Nat.and_self _)).part .curSet (by decide)
@[simp] theorem Device.eventEffect_verA (d : Device) (c : Cmd) : (Device.eventEffect d c).verA = d.verA := (Device.eventEffect_within d c (Device.Within.refl 2048 _) (Nat.and_self _)).part .verA (by decide)
@[simp] theorem Device.eventEffect_verB (d : Device) (c : Cmd) : (Device.eventEffect d c).verB = d.verB := (Device.eventEffect_within d c (Device.Within.refl 2048 _) (Nat.and_self _)).part .verB (by decide)
@[simp] theorem Device.eventEffect_pace (d : Device) (c : Cmd) : (Device.eventEffect d c).pace = d.pace := (Device.eventEffect_within d c (Device.Within.refl 2048 _) (Nat.and_self _)).part .pace (by decide)
@[simp] theorem Device.eventEffect_log (d : Device) (c : Cmd) : (Device.eventEffect d c).log = d.log := (Device.eventEffect_within d c (Device.Within.refl 2048 _) (Nat.and_self _)).part .log (by decide)
@[simp] theorem Device.eventEffect_safety (d : Device) (c : Cmd) : (Device.eventEffect d c).safety = d.safety := (Device.eventEffect_within d c (Device.Within.refl 2048 _) (Nat.and_self _)).part .safety (by decide)
@[simp] theorem Device.eventEffect_flash (d : Device) (c : Cmd) : (Device.eventEffect d c).flash = d.flash := (Device.eventEffect_within d c (Device.Within.refl 2048 _) (Nat.and_self _)).part .flash (by decide)
@[simp] theorem Device.eventEffect_images (d : Device) (c : Cmd) : (Device.eventEffect d c).images = d.images := (Device.eventEffect_within d c (Device.Within.refl 2048 _) (Nat.and_self _)).part .images (by decide)
@[simp] theorem Device.eventEffect_out (d : Device) (c : Cmd) : (Device.eventEffect d c).out = d.out := (Device.eventEffect_within d c (Device.Within.refl 2048 _) (Nat.and_self _)).part .out (by decide)

/-! ### Device.moveSteps -/

@[simp] theorem Device.moveSteps_now (d : Device) (k : Nat) (dst : Nat) : (Device.moveSteps d k dst).now = d.now := (Device.moveSteps_within d k dst (Device.Within.refl 1049088 _) (Nat.and_self _)).part .now (by decide)
@[simp] theorem Device.moveSteps_stepCounter (d : Device) (k : Nat) (dst : Nat) : (Device.moveSteps d k dst).stepCounter = d.stepCounter := (Device.moveSteps_within d k dst (Device.Within.refl 1049088 _) (Nat.and_self _)).part .stepCounter (by decide)
@[simp] theorem Device.moveSteps_power (d : Device) (k : Nat) (dst : Nat) : (Device.moveSteps d k dst).power = d.power := (Device.moveSteps_within d k dst (Device.Within.refl 1049088 _) (Nat.and_self _)).part .power (by decide)
@[simp] theorem Device.moveSteps_dict (d : Device) (k : Nat) (dst : Nat) : (Device.moveSteps d k dst).dict = d.dict := (Device.moveSteps_within d k dst (Device.Within.refl 1049088 _) (Nat.and_self _)).part .dict (by decide)
@[simp] theorem Device.moveSteps_queues (d : Device) (k : Nat) (dst : Nat) : (Device.moveSteps d k dst).queues = d.queues := (Device.moveSteps_within d k dst (Device.Within.refl 1049088 _) (Nat.and_self _)).part .queues (by decide)
@[simp] theorem Device.moveSteps_fetched (d : Device) (k : Nat) (dst : Nat) : (Device.moveSteps d k dst).fetched = d.fetched := (Device.moveSteps_within d k dst (Device.Within.refl 1049088 _) (Nat.and_self _)).part .fetched (by decide)
@[simp] theorem Device.moveSteps_tagsFree (d : Device) (k : Nat) (dst : Nat) : (Device.moveSteps d k dst).tagsFree = d.tagsFree := (Device.moveSteps_within d k dst (Device.Within.refl 1049088 _) (Nat.and_self _)).part .tagsFree (by decide)
@[simp] theorem Device.moveSteps_events (d : Device) (k : Nat) (dst : Nat) : (Device.moveSteps d k dst).events = d.events := (Device.moveSteps_within d k dst (Device.Within.refl 1049088 _) (Nat.and_self _)).part .events (by decide)
@[simp] theorem Device.moveSteps_ioBacklog (d : Device) (k : Nat) (dst : Nat) : (Device.moveSteps d k dst).ioBacklog = d.ioBacklog := (Device.moveSteps_within d k dst (Device.Within.refl 1049088 _) (Nat.and_self _)).part .ioBacklog (by decide)
@[simp] theorem Device.moveSteps_tiles (d : Device) (k : Nat) (dst : Nat) : (Device.moveSteps d k dst).tiles = d.tiles := (Device.moveSteps_within d k dst (Device.Within.refl 1049088 _) (Nat.and_self _)).part .tiles (by decide)
@[simp] theorem Device.moveSteps_mem (d : Device) (k : Nat) (dst : Nat) : (Device.moveSteps d k dst).mem = d.mem := (Device.moveSteps_within d k dst (Device.Within.refl 1049088 _) (Nat.and_self _)).part .mem (by decide)
@[simp] theorem Device.moveSteps_poison (d : Device) (k : Nat) (dst : Nat) : (Device.moveSteps d k dst).poison = d.poison := (Device.moveSteps_within d k dst (Device.Within.refl 1049088 _) (Nat.and_self _)).part .poison (by decide)
@[simp] theorem Device.moveSteps_host (d : Device) (k : Nat) (dst : Nat) : (Device.moveSteps d k dst).host = d.host := (Device.moveSteps_within d k dst (Device.Within.refl 1049088 _) (Nat.and_self _)).part .host (by decide)
@[simp] theorem Device.moveSteps_bays (d : Device) (k : Nat) (dst : Nat) : (Device.moveSteps d k dst).bays = d.bays := (Device.moveSteps_within d k dst (Device.Within.refl 1049088 _) (Nat.and_self _)).part .bays (by decide)
@[simp] theorem Device.moveSteps_streams (d : Device) (k : Nat) (dst : Nat) : (Device.moveSteps d k dst).streams = d.streams := (Device.moveSteps_within d k dst (Device.Within.refl 1049088 _) (Nat.and_self _)).part .streams (by decide)
@[simp] theorem Device.moveSteps_curSet (d : Device) (k : Nat) (dst : Nat) : (Device.moveSteps d k dst).curSet = d.curSet := (Device.moveSteps_within d k dst (Device.Within.refl 1049088 _) (Nat.and_self _)).part .curSet (by decide)
@[simp] theorem Device.moveSteps_verA (d : Device) (k : Nat) (dst : Nat) : (Device.moveSteps d k dst).verA = d.verA := (Device.moveSteps_within d k dst (Device.Within.refl 1049088 _) (Nat.and_self _)).part .verA (by decide)
@[simp] theorem Device.moveSteps_verB (d : Device) (k : Nat) (dst : Nat) : (Device.moveSteps d k dst).verB = d.verB := (Device.moveSteps_within d k dst (Device.Within.refl 1049088 _) (Nat.and_self _)).part .verB (by decide)
@[simp] theorem Device.moveSteps_pace (d : Device) (k : Nat) (dst : Nat) : (Device.moveSteps d k dst).pace = d.pace := (Device.moveSteps_within d k dst (Device.Within.refl 1049088 _) (Nat.and_self _)).part .pace (by decide)
@[simp] theorem Device.moveSteps_log (d : Device) (k : Nat) (dst : Nat) : (Device.moveSteps d k dst).log = d.log := (Device.moveSteps_within d k dst (Device.Within.refl 1049088 _) (Nat.and_self _)).part .log (by decide)
@[simp] theorem Device.moveSteps_safety (d : Device) (k : Nat) (dst : Nat) : (Device.moveSteps d k dst).safety = d.safety := (Device.moveSteps_within d k dst (Device.Within.refl 1049088 _) (Nat.and_self _)).part .safety (by decide)
@[simp] theorem Device.moveSteps_flash (d : Device) (k : Nat) (dst : Nat) : (Device.moveSteps d k dst).flash = d.flash := (Device.moveSteps_within d k dst (Device.Within.refl 1049088 _) (Nat.and_self _)).part .flash (by decide)
@[simp] theorem Device.moveSteps_images (d : Device) (k : Nat) (dst : Nat) : (Device.moveSteps d k dst).images = d.images := (Device.moveSteps_within d k dst (Device.Within.refl 1049088 _) (Nat.and_self _)).part .images (by decide)
@[simp] theorem Device.moveSteps_out (d : Device) (k : Nat) (dst : Nat) : (Device.moveSteps d k dst).out = d.out := (Device.moveSteps_within d k dst (Device.Within.refl 1049088 _) (Nat.and_self _)).part .out (by decide)

/-! ### Device.portDown -/

@[simp] theorem Device.portDown_now (d : Device) (k : Nat) (state : Nat) : (Device.portDown d k state).now = d.now := (Device.portDown_within d k state (Device.Within.refl 1049088 _) (Nat.and_self _)).part .now (by decide)
@[simp] theorem Device.portDown_stepCounter (d : Device) (k : Nat) (state : Nat) : (Device.portDown d k state).stepCounter = d.stepCounter := (Device.portDown_within d k state (Device.Within.refl 1049088 _) (Nat.and_self _)).part .stepCounter (by decide)
@[simp] theorem Device.portDown_power (d : Device) (k : Nat) (state : Nat) : (Device.portDown d k state).power = d.power := (Device.portDown_within d k state (Device.Within.refl 1049088 _) (Nat.and_self _)).part .power (by decide)
@[simp] theorem Device.portDown_dict (d : Device) (k : Nat) (state : Nat) : (Device.portDown d k state).dict = d.dict := (Device.portDown_within d k state (Device.Within.refl 1049088 _) (Nat.and_self _)).part .dict (by decide)
@[simp] theorem Device.portDown_queues (d : Device) (k : Nat) (state : Nat) : (Device.portDown d k state).queues = d.queues := (Device.portDown_within d k state (Device.Within.refl 1049088 _) (Nat.and_self _)).part .queues (by decide)
@[simp] theorem Device.portDown_fetched (d : Device) (k : Nat) (state : Nat) : (Device.portDown d k state).fetched = d.fetched := (Device.portDown_within d k state (Device.Within.refl 1049088 _) (Nat.and_self _)).part .fetched (by decide)
@[simp] theorem Device.portDown_tagsFree (d : Device) (k : Nat) (state : Nat) : (Device.portDown d k state).tagsFree = d.tagsFree := (Device.portDown_within d k state (Device.Within.refl 1049088 _) (Nat.and_self _)).part .tagsFree (by decide)
@[simp] theorem Device.portDown_events (d : Device) (k : Nat) (state : Nat) : (Device.portDown d k state).events = d.events := (Device.portDown_within d k state (Device.Within.refl 1049088 _) (Nat.and_self _)).part .events (by decide)
@[simp] theorem Device.portDown_ioBacklog (d : Device) (k : Nat) (state : Nat) : (Device.portDown d k state).ioBacklog = d.ioBacklog := (Device.portDown_within d k state (Device.Within.refl 1049088 _) (Nat.and_self _)).part .ioBacklog (by decide)
@[simp] theorem Device.portDown_tiles (d : Device) (k : Nat) (state : Nat) : (Device.portDown d k state).tiles = d.tiles := (Device.portDown_within d k state (Device.Within.refl 1049088 _) (Nat.and_self _)).part .tiles (by decide)
@[simp] theorem Device.portDown_mem (d : Device) (k : Nat) (state : Nat) : (Device.portDown d k state).mem = d.mem := (Device.portDown_within d k state (Device.Within.refl 1049088 _) (Nat.and_self _)).part .mem (by decide)
@[simp] theorem Device.portDown_poison (d : Device) (k : Nat) (state : Nat) : (Device.portDown d k state).poison = d.poison := (Device.portDown_within d k state (Device.Within.refl 1049088 _) (Nat.and_self _)).part .poison (by decide)
@[simp] theorem Device.portDown_host (d : Device) (k : Nat) (state : Nat) : (Device.portDown d k state).host = d.host := (Device.portDown_within d k state (Device.Within.refl 1049088 _) (Nat.and_self _)).part .host (by decide)
@[simp] theorem Device.portDown_bays (d : Device) (k : Nat) (state : Nat) : (Device.portDown d k state).bays = d.bays := (Device.portDown_within d k state (Device.Within.refl 1049088 _) (Nat.and_self _)).part .bays (by decide)
@[simp] theorem Device.portDown_streams (d : Device) (k : Nat) (state : Nat) : (Device.portDown d k state).streams = d.streams := (Device.portDown_within d k state (Device.Within.refl 1049088 _) (Nat.and_self _)).part .streams (by decide)
@[simp] theorem Device.portDown_curSet (d : Device) (k : Nat) (state : Nat) : (Device.portDown d k state).curSet = d.curSet := (Device.portDown_within d k state (Device.Within.refl 1049088 _) (Nat.and_self _)).part .curSet (by decide)
@[simp] theorem Device.portDown_verA (d : Device) (k : Nat) (state : Nat) : (Device.portDown d k state).verA = d.verA := (Device.portDown_within d k state (Device.Within.refl 1049088 _) (Nat.and_self _)).part .verA (by decide)
@[simp] theorem Device.portDown_verB (d : Device) (k : Nat) (state : Nat) : (Device.portDown d k state).verB = d.verB := (Device.portDown_within d k state (Device.Within.refl 1049088 _) (Nat.and_self _)).part .verB (by decide)
@[simp] theorem Device.portDown_pace (d : Device) (k : Nat) (state : Nat) : (Device.portDown d k state).pace = d.pace := (Device.portDown_within d k state (Device.Within.refl 1049088 _) (Nat.and_self _)).part .pace (by decide)
@[simp] theorem Device.portDown_log (d : Device) (k : Nat) (state : Nat) : (Device.portDown d k state).log = d.log := (Device.portDown_within d k state (Device.Within.refl 1049088 _) (Nat.and_self _)).part .log (by decide)
@[simp] theorem Device.portDown_safety (d : Device) (k : Nat) (state : Nat) : (Device.portDown d k state).safety = d.safety := (Device.portDown_within d k state (Device.Within.refl 1049088 _) (Nat.and_self _)).part .safety (by decide)
@[simp] theorem Device.portDown_flash (d : Device) (k : Nat) (state : Nat) : (Device.portDown d k state).flash = d.flash := (Device.portDown_within d k state (Device.Within.refl 1049088 _) (Nat.and_self _)).part .flash (by decide)
@[simp] theorem Device.portDown_images (d : Device) (k : Nat) (state : Nat) : (Device.portDown d k state).images = d.images := (Device.portDown_within d k state (Device.Within.refl 1049088 _) (Nat.and_self _)).part .images (by decide)
@[simp] theorem Device.portDown_out (d : Device) (k : Nat) (state : Nat) : (Device.portDown d k state).out = d.out := (Device.portDown_within d k state (Device.Within.refl 1049088 _) (Nat.and_self _)).part .out (by decide)

/-! ### Device.trainLink -/

@[simp] theorem Device.trainLink_now (d : Device) : (Device.trainLink d).now = d.now := (Device.trainLink_within d (Device.Within.refl 4 _) (Nat.and_self _)).part .now (by decide)
@[simp] theorem Device.trainLink_stepCounter (d : Device) : (Device.trainLink d).stepCounter = d.stepCounter := (Device.trainLink_within d (Device.Within.refl 4 _) (Nat.and_self _)).part .stepCounter (by decide)
@[simp] theorem Device.trainLink_dict (d : Device) : (Device.trainLink d).dict = d.dict := (Device.trainLink_within d (Device.Within.refl 4 _) (Nat.and_self _)).part .dict (by decide)
@[simp] theorem Device.trainLink_queues (d : Device) : (Device.trainLink d).queues = d.queues := (Device.trainLink_within d (Device.Within.refl 4 _) (Nat.and_self _)).part .queues (by decide)
@[simp] theorem Device.trainLink_fetched (d : Device) : (Device.trainLink d).fetched = d.fetched := (Device.trainLink_within d (Device.Within.refl 4 _) (Nat.and_self _)).part .fetched (by decide)
@[simp] theorem Device.trainLink_tagsFree (d : Device) : (Device.trainLink d).tagsFree = d.tagsFree := (Device.trainLink_within d (Device.Within.refl 4 _) (Nat.and_self _)).part .tagsFree (by decide)
@[simp] theorem Device.trainLink_cmds (d : Device) : (Device.trainLink d).cmds = d.cmds := (Device.trainLink_within d (Device.Within.refl 4 _) (Nat.and_self _)).part .cmds (by decide)
@[simp] theorem Device.trainLink_events (d : Device) : (Device.trainLink d).events = d.events := (Device.trainLink_within d (Device.Within.refl 4 _) (Nat.and_self _)).part .events (by decide)
@[simp] theorem Device.trainLink_ioBacklog (d : Device) : (Device.trainLink d).ioBacklog = d.ioBacklog := (Device.trainLink_within d (Device.Within.refl 4 _) (Nat.and_self _)).part .ioBacklog (by decide)
@[simp] theorem Device.trainLink_tiles (d : Device) : (Device.trainLink d).tiles = d.tiles := (Device.trainLink_within d (Device.Within.refl 4 _) (Nat.and_self _)).part .tiles (by decide)
@[simp] theorem Device.trainLink_mem (d : Device) : (Device.trainLink d).mem = d.mem := (Device.trainLink_within d (Device.Within.refl 4 _) (Nat.and_self _)).part .mem (by decide)
@[simp] theorem Device.trainLink_poison (d : Device) : (Device.trainLink d).poison = d.poison := (Device.trainLink_within d (Device.Within.refl 4 _) (Nat.and_self _)).part .poison (by decide)
@[simp] theorem Device.trainLink_host (d : Device) : (Device.trainLink d).host = d.host := (Device.trainLink_within d (Device.Within.refl 4 _) (Nat.and_self _)).part .host (by decide)
@[simp] theorem Device.trainLink_bays (d : Device) : (Device.trainLink d).bays = d.bays := (Device.trainLink_within d (Device.Within.refl 4 _) (Nat.and_self _)).part .bays (by decide)
@[simp] theorem Device.trainLink_ports (d : Device) : (Device.trainLink d).ports = d.ports := (Device.trainLink_within d (Device.Within.refl 4 _) (Nat.and_self _)).part .ports (by decide)
@[simp] theorem Device.trainLink_streams (d : Device) : (Device.trainLink d).streams = d.streams := (Device.trainLink_within d (Device.Within.refl 4 _) (Nat.and_self _)).part .streams (by decide)
@[simp] theorem Device.trainLink_curSet (d : Device) : (Device.trainLink d).curSet = d.curSet := (Device.trainLink_within d (Device.Within.refl 4 _) (Nat.and_self _)).part .curSet (by decide)
@[simp] theorem Device.trainLink_verA (d : Device) : (Device.trainLink d).verA = d.verA := (Device.trainLink_within d (Device.Within.refl 4 _) (Nat.and_self _)).part .verA (by decide)
@[simp] theorem Device.trainLink_verB (d : Device) : (Device.trainLink d).verB = d.verB := (Device.trainLink_within d (Device.Within.refl 4 _) (Nat.and_self _)).part .verB (by decide)
@[simp] theorem Device.trainLink_pace (d : Device) : (Device.trainLink d).pace = d.pace := (Device.trainLink_within d (Device.Within.refl 4 _) (Nat.and_self _)).part .pace (by decide)
@[simp] theorem Device.trainLink_log (d : Device) : (Device.trainLink d).log = d.log := (Device.trainLink_within d (Device.Within.refl 4 _) (Nat.and_self _)).part .log (by decide)
@[simp] theorem Device.trainLink_safety (d : Device) : (Device.trainLink d).safety = d.safety := (Device.trainLink_within d (Device.Within.refl 4 _) (Nat.and_self _)).part .safety (by decide)
@[simp] theorem Device.trainLink_flash (d : Device) : (Device.trainLink d).flash = d.flash := (Device.trainLink_within d (Device.Within.refl 4 _) (Nat.and_self _)).part .flash (by decide)
@[simp] theorem Device.trainLink_images (d : Device) : (Device.trainLink d).images = d.images := (Device.trainLink_within d (Device.Within.refl 4 _) (Nat.and_self _)).part .images (by decide)
@[simp] theorem Device.trainLink_out (d : Device) : (Device.trainLink d).out = d.out := (Device.trainLink_within d (Device.Within.refl 4 _) (Nat.and_self _)).part .out (by decide)

/-! ### Device.wakeDeliver -/

@[simp] theorem Device.wakeDeliver_now (d : Device) : (Device.wakeDeliver d).now = d.now := (Device.wakeDeliver_within d (Device.Within.refl 2147483652 _) (Nat.and_self _)).part .now (by decide)
@[simp] theorem Device.wakeDeliver_stepCounter (d : Device) : (Device.wakeDeliver d).stepCounter = d.stepCounter := (Device.wakeDeliver_within d (Device.Within.refl 2147483652 _) (Nat.and_self _)).part .stepCounter (by decide)
@[simp] theorem Device.wakeDeliver_dict (d : Device) : (Device.wakeDeliver d).dict = d.dict := (Device.wakeDeliver_within d (Device.Within.refl 2147483652 _) (Nat.and_self _)).part .dict (by decide)
@[simp] theorem Device.wakeDeliver_queues (d : Device) : (Device.wakeDeliver d).queues = d.queues := (Device.wakeDeliver_within d (Device.Within.refl 2147483652 _) (Nat.and_self _)).part .queues (by decide)
@[simp] theorem Device.wakeDeliver_fetched (d : Device) : (Device.wakeDeliver d).fetched = d.fetched := (Device.wakeDeliver_within d (Device.Within.refl 2147483652 _) (Nat.and_self _)).part .fetched (by decide)
@[simp] theorem Device.wakeDeliver_tagsFree (d : Device) : (Device.wakeDeliver d).tagsFree = d.tagsFree := (Device.wakeDeliver_within d (Device.Within.refl 2147483652 _) (Nat.and_self _)).part .tagsFree (by decide)
@[simp] theorem Device.wakeDeliver_cmds (d : Device) : (Device.wakeDeliver d).cmds = d.cmds := (Device.wakeDeliver_within d (Device.Within.refl 2147483652 _) (Nat.and_self _)).part .cmds (by decide)
@[simp] theorem Device.wakeDeliver_events (d : Device) : (Device.wakeDeliver d).events = d.events := (Device.wakeDeliver_within d (Device.Within.refl 2147483652 _) (Nat.and_self _)).part .events (by decide)
@[simp] theorem Device.wakeDeliver_ioBacklog (d : Device) : (Device.wakeDeliver d).ioBacklog = d.ioBacklog := (Device.wakeDeliver_within d (Device.Within.refl 2147483652 _) (Nat.and_self _)).part .ioBacklog (by decide)
@[simp] theorem Device.wakeDeliver_tiles (d : Device) : (Device.wakeDeliver d).tiles = d.tiles := (Device.wakeDeliver_within d (Device.Within.refl 2147483652 _) (Nat.and_self _)).part .tiles (by decide)
@[simp] theorem Device.wakeDeliver_mem (d : Device) : (Device.wakeDeliver d).mem = d.mem := (Device.wakeDeliver_within d (Device.Within.refl 2147483652 _) (Nat.and_self _)).part .mem (by decide)
@[simp] theorem Device.wakeDeliver_poison (d : Device) : (Device.wakeDeliver d).poison = d.poison := (Device.wakeDeliver_within d (Device.Within.refl 2147483652 _) (Nat.and_self _)).part .poison (by decide)
@[simp] theorem Device.wakeDeliver_host (d : Device) : (Device.wakeDeliver d).host = d.host := (Device.wakeDeliver_within d (Device.Within.refl 2147483652 _) (Nat.and_self _)).part .host (by decide)
@[simp] theorem Device.wakeDeliver_bays (d : Device) : (Device.wakeDeliver d).bays = d.bays := (Device.wakeDeliver_within d (Device.Within.refl 2147483652 _) (Nat.and_self _)).part .bays (by decide)
@[simp] theorem Device.wakeDeliver_ports (d : Device) : (Device.wakeDeliver d).ports = d.ports := (Device.wakeDeliver_within d (Device.Within.refl 2147483652 _) (Nat.and_self _)).part .ports (by decide)
@[simp] theorem Device.wakeDeliver_streams (d : Device) : (Device.wakeDeliver d).streams = d.streams := (Device.wakeDeliver_within d (Device.Within.refl 2147483652 _) (Nat.and_self _)).part .streams (by decide)
@[simp] theorem Device.wakeDeliver_curSet (d : Device) : (Device.wakeDeliver d).curSet = d.curSet := (Device.wakeDeliver_within d (Device.Within.refl 2147483652 _) (Nat.and_self _)).part .curSet (by decide)
@[simp] theorem Device.wakeDeliver_verA (d : Device) : (Device.wakeDeliver d).verA = d.verA := (Device.wakeDeliver_within d (Device.Within.refl 2147483652 _) (Nat.and_self _)).part .verA (by decide)
@[simp] theorem Device.wakeDeliver_verB (d : Device) : (Device.wakeDeliver d).verB = d.verB := (Device.wakeDeliver_within d (Device.Within.refl 2147483652 _) (Nat.and_self _)).part .verB (by decide)
@[simp] theorem Device.wakeDeliver_pace (d : Device) : (Device.wakeDeliver d).pace = d.pace := (Device.wakeDeliver_within d (Device.Within.refl 2147483652 _) (Nat.and_self _)).part .pace (by decide)
@[simp] theorem Device.wakeDeliver_log (d : Device) : (Device.wakeDeliver d).log = d.log := (Device.wakeDeliver_within d (Device.Within.refl 2147483652 _) (Nat.and_self _)).part .log (by decide)
@[simp] theorem Device.wakeDeliver_safety (d : Device) : (Device.wakeDeliver d).safety = d.safety := (Device.wakeDeliver_within d (Device.Within.refl 2147483652 _) (Nat.and_self _)).part .safety (by decide)
@[simp] theorem Device.wakeDeliver_flash (d : Device) : (Device.wakeDeliver d).flash = d.flash := (Device.wakeDeliver_within d (Device.Within.refl 2147483652 _) (Nat.and_self _)).part .flash (by decide)
@[simp] theorem Device.wakeDeliver_images (d : Device) : (Device.wakeDeliver d).images = d.images := (Device.wakeDeliver_within d (Device.Within.refl 2147483652 _) (Nat.and_self _)).part .images (by decide)

/-! ### Device.bayEnter -/

@[simp] theorem Device.bayEnter_now (d : Device) (k : Nat) : (Device.bayEnter d k).now = d.now := (Device.bayEnter_within d k (Device.Within.refl 2349998604 _) (Nat.and_self _)).part .now (by decide)
@[simp] theorem Device.bayEnter_stepCounter (d : Device) (k : Nat) : (Device.bayEnter d k).stepCounter = d.stepCounter := (Device.bayEnter_within d k (Device.Within.refl 2349998604 _) (Nat.and_self _)).part .stepCounter (by decide)
@[simp] theorem Device.bayEnter_queues (d : Device) (k : Nat) : (Device.bayEnter d k).queues = d.queues := (Device.bayEnter_within d k (Device.Within.refl 2349998604 _) (Nat.and_self _)).part .queues (by decide)
@[simp] theorem Device.bayEnter_fetched (d : Device) (k : Nat) : (Device.bayEnter d k).fetched = d.fetched := (Device.bayEnter_within d k (Device.Within.refl 2349998604 _) (Nat.and_self _)).part .fetched (by decide)
@[simp] theorem Device.bayEnter_tagsFree (d : Device) (k : Nat) : (Device.bayEnter d k).tagsFree = d.tagsFree := (Device.bayEnter_within d k (Device.Within.refl 2349998604 _) (Nat.and_self _)).part .tagsFree (by decide)
@[simp] theorem Device.bayEnter_events (d : Device) (k : Nat) : (Device.bayEnter d k).events = d.events := (Device.bayEnter_within d k (Device.Within.refl 2349998604 _) (Nat.and_self _)).part .events (by decide)
@[simp] theorem Device.bayEnter_ioBacklog (d : Device) (k : Nat) : (Device.bayEnter d k).ioBacklog = d.ioBacklog := (Device.bayEnter_within d k (Device.Within.refl 2349998604 _) (Nat.and_self _)).part .ioBacklog (by decide)
@[simp] theorem Device.bayEnter_mem (d : Device) (k : Nat) : (Device.bayEnter d k).mem = d.mem := (Device.bayEnter_within d k (Device.Within.refl 2349998604 _) (Nat.and_self _)).part .mem (by decide)
@[simp] theorem Device.bayEnter_poison (d : Device) (k : Nat) : (Device.bayEnter d k).poison = d.poison := (Device.bayEnter_within d k (Device.Within.refl 2349998604 _) (Nat.and_self _)).part .poison (by decide)
@[simp] theorem Device.bayEnter_host (d : Device) (k : Nat) : (Device.bayEnter d k).host = d.host := (Device.bayEnter_within d k (Device.Within.refl 2349998604 _) (Nat.and_self _)).part .host (by decide)
@[simp] theorem Device.bayEnter_streams (d : Device) (k : Nat) : (Device.bayEnter d k).streams = d.streams := (Device.bayEnter_within d k (Device.Within.refl 2349998604 _) (Nat.and_self _)).part .streams (by decide)
@[simp] theorem Device.bayEnter_curSet (d : Device) (k : Nat) : (Device.bayEnter d k).curSet = d.curSet := (Device.bayEnter_within d k (Device.Within.refl 2349998604 _) (Nat.and_self _)).part .curSet (by decide)
@[simp] theorem Device.bayEnter_verA (d : Device) (k : Nat) : (Device.bayEnter d k).verA = d.verA := (Device.bayEnter_within d k (Device.Within.refl 2349998604 _) (Nat.and_self _)).part .verA (by decide)
@[simp] theorem Device.bayEnter_verB (d : Device) (k : Nat) : (Device.bayEnter d k).verB = d.verB := (Device.bayEnter_within d k (Device.Within.refl 2349998604 _) (Nat.and_self _)).part .verB (by decide)
@[simp] theorem Device.bayEnter_pace (d : Device) (k : Nat) : (Device.bayEnter d k).pace = d.pace := (Device.bayEnter_within d k (Device.Within.refl 2349998604 _) (Nat.and_self _)).part .pace (by decide)
@[simp] theorem Device.bayEnter_flash (d : Device) (k : Nat) : (Device.bayEnter d k).flash = d.flash := (Device.bayEnter_within d k (Device.Within.refl 2349998604 _) (Nat.and_self _)).part .flash (by decide)
@[simp] theorem Device.bayEnter_images (d : Device) (k : Nat) : (Device.bayEnter d k).images = d.images := (Device.bayEnter_within d k (Device.Within.refl 2349998604 _) (Nat.and_self _)).part .images (by decide)

/-! ### Device.enumerateFar -/

@[simp] theorem Device.enumerateFar_now (d : Device) : (Device.enumerateFar d).now = d.now := (Device.enumerateFar_within d (Device.Within.refl 786432 _) (Nat.and_self _)).part .now (by decide)
@[simp] theorem Device.enumerateFar_stepCounter (d : Device) : (Device.enumerateFar d).stepCounter = d.stepCounter := (Device.enumerateFar_within d (Device.Within.refl 786432 _) (Nat.and_self _)).part .stepCounter (by decide)
@[simp] theorem Device.enumerateFar_power (d : Device) : (Device.enumerateFar d).power = d.power := (Device.enumerateFar_within d (Device.Within.refl 786432 _) (Nat.and_self _)).part .power (by decide)
@[simp] theorem Device.enumerateFar_dict (d : Device) : (Device.enumerateFar d).dict = d.dict := (Device.enumerateFar_within d (Device.Within.refl 786432 _) (Nat.and_self _)).part .dict (by decide)
@[simp] theorem Device.enumerateFar_queues (d : Device) : (Device.enumerateFar d).queues = d.queues := (Device.enumerateFar_within d (Device.Within.refl 786432 _) (Nat.and_self _)).part .queues (by decide)
@[simp] theorem Device.enumerateFar_fetched (d : Device) : (Device.enumerateFar d).fetched = d.fetched := (Device.enumerateFar_within d (Device.Within.refl 786432 _) (Nat.and_self _)).part .fetched (by decide)
@[simp] theorem Device.enumerateFar_tagsFree (d : Device) : (Device.enumerateFar d).tagsFree = d.tagsFree := (Device.enumerateFar_within d (Device.Within.refl 786432 _) (Nat.and_self _)).part .tagsFree (by decide)
@[simp] theorem Device.enumerateFar_cmds (d : Device) : (Device.enumerateFar d).cmds = d.cmds := (Device.enumerateFar_within d (Device.Within.refl 786432 _) (Nat.and_self _)).part .cmds (by decide)
@[simp] theorem Device.enumerateFar_events (d : Device) : (Device.enumerateFar d).events = d.events := (Device.enumerateFar_within d (Device.Within.refl 786432 _) (Nat.and_self _)).part .events (by decide)
@[simp] theorem Device.enumerateFar_ioBacklog (d : Device) : (Device.enumerateFar d).ioBacklog = d.ioBacklog := (Device.enumerateFar_within d (Device.Within.refl 786432 _) (Nat.and_self _)).part .ioBacklog (by decide)
@[simp] theorem Device.enumerateFar_tiles (d : Device) : (Device.enumerateFar d).tiles = d.tiles := (Device.enumerateFar_within d (Device.Within.refl 786432 _) (Nat.and_self _)).part .tiles (by decide)
@[simp] theorem Device.enumerateFar_mem (d : Device) : (Device.enumerateFar d).mem = d.mem := (Device.enumerateFar_within d (Device.Within.refl 786432 _) (Nat.and_self _)).part .mem (by decide)
@[simp] theorem Device.enumerateFar_poison (d : Device) : (Device.enumerateFar d).poison = d.poison := (Device.enumerateFar_within d (Device.Within.refl 786432 _) (Nat.and_self _)).part .poison (by decide)
@[simp] theorem Device.enumerateFar_host (d : Device) : (Device.enumerateFar d).host = d.host := (Device.enumerateFar_within d (Device.Within.refl 786432 _) (Nat.and_self _)).part .host (by decide)
@[simp] theorem Device.enumerateFar_bays (d : Device) : (Device.enumerateFar d).bays = d.bays := (Device.enumerateFar_within d (Device.Within.refl 786432 _) (Nat.and_self _)).part .bays (by decide)
@[simp] theorem Device.enumerateFar_ports (d : Device) : (Device.enumerateFar d).ports = d.ports := (Device.enumerateFar_within d (Device.Within.refl 786432 _) (Nat.and_self _)).part .ports (by decide)
@[simp] theorem Device.enumerateFar_streams (d : Device) : (Device.enumerateFar d).streams = d.streams := (Device.enumerateFar_within d (Device.Within.refl 786432 _) (Nat.and_self _)).part .streams (by decide)
@[simp] theorem Device.enumerateFar_curSet (d : Device) : (Device.enumerateFar d).curSet = d.curSet := (Device.enumerateFar_within d (Device.Within.refl 786432 _) (Nat.and_self _)).part .curSet (by decide)
@[simp] theorem Device.enumerateFar_verA (d : Device) : (Device.enumerateFar d).verA = d.verA := (Device.enumerateFar_within d (Device.Within.refl 786432 _) (Nat.and_self _)).part .verA (by decide)
@[simp] theorem Device.enumerateFar_verB (d : Device) : (Device.enumerateFar d).verB = d.verB := (Device.enumerateFar_within d (Device.Within.refl 786432 _) (Nat.and_self _)).part .verB (by decide)
@[simp] theorem Device.enumerateFar_pace (d : Device) : (Device.enumerateFar d).pace = d.pace := (Device.enumerateFar_within d (Device.Within.refl 786432 _) (Nat.and_self _)).part .pace (by decide)
@[simp] theorem Device.enumerateFar_log (d : Device) : (Device.enumerateFar d).log = d.log := (Device.enumerateFar_within d (Device.Within.refl 786432 _) (Nat.and_self _)).part .log (by decide)
@[simp] theorem Device.enumerateFar_safety (d : Device) : (Device.enumerateFar d).safety = d.safety := (Device.enumerateFar_within d (Device.Within.refl 786432 _) (Nat.and_self _)).part .safety (by decide)
@[simp] theorem Device.enumerateFar_flash (d : Device) : (Device.enumerateFar d).flash = d.flash := (Device.enumerateFar_within d (Device.Within.refl 786432 _) (Nat.and_self _)).part .flash (by decide)
@[simp] theorem Device.enumerateFar_images (d : Device) : (Device.enumerateFar d).images = d.images := (Device.enumerateFar_within d (Device.Within.refl 786432 _) (Nat.and_self _)).part .images (by decide)
@[simp] theorem Device.enumerateFar_out (d : Device) : (Device.enumerateFar d).out = d.out := (Device.enumerateFar_within d (Device.Within.refl 786432 _) (Nat.and_self _)).part .out (by decide)

/-! ### Device.storeValue -/

@[simp] theorem Device.storeValue_now (d : Device) (p : Path) (a : Nat) (bs : List Byte) : (Device.storeValue d p a bs).now = d.now := (Device.storeValue_within d p a bs (Device.Within.refl 268566536 _) (Nat.and_self _)).part .now (by decide)
@[simp] theorem Device.storeValue_stepCounter (d : Device) (p : Path) (a : Nat) (bs : List Byte) : (Device.storeValue d p a bs).stepCounter = d.stepCounter := (Device.storeValue_within d p a bs (Device.Within.refl 268566536 _) (Nat.and_self _)).part .stepCounter (by decide)
@[simp] theorem Device.storeValue_power (d : Device) (p : Path) (a : Nat) (bs : List Byte) : (Device.storeValue d p a bs).power = d.power := (Device.storeValue_within d p a bs (Device.Within.refl 268566536 _) (Nat.and_self _)).part .power (by decide)
@[simp] theorem Device.storeValue_queues (d : Device) (p : Path) (a : Nat) (bs : List Byte) : (Device.storeValue d p a bs).queues = d.queues := (Device.storeValue_within d p a bs (Device.Within.refl 268566536 _) (Nat.and_self _)).part .queues (by decide)
@[simp] theorem Device.storeValue_fetched (d : Device) (p : Path) (a : Nat) (bs : List Byte) : (Device.storeValue d p a bs).fetched = d.fetched := (Device.storeValue_within d p a bs (Device.Within.refl 268566536 _) (Nat.and_self _)).part .fetched (by decide)
@[simp] theorem Device.storeValue_tagsFree (d : Device) (p : Path) (a : Nat) (bs : List Byte) : (Device.storeValue d p a bs).tagsFree = d.tagsFree := (Device.storeValue_within d p a bs (Device.Within.refl 268566536 _) (Nat.and_self _)).part .tagsFree (by decide)
@[simp] theorem Device.storeValue_cmds (d : Device) (p : Path) (a : Nat) (bs : List Byte) : (Device.storeValue d p a bs).cmds = d.cmds := (Device.storeValue_within d p a bs (Device.Within.refl 268566536 _) (Nat.and_self _)).part .cmds (by decide)
@[simp] theorem Device.storeValue_events (d : Device) (p : Path) (a : Nat) (bs : List Byte) : (Device.storeValue d p a bs).events = d.events := (Device.storeValue_within d p a bs (Device.Within.refl 268566536 _) (Nat.and_self _)).part .events (by decide)
@[simp] theorem Device.storeValue_ioBacklog (d : Device) (p : Path) (a : Nat) (bs : List Byte) : (Device.storeValue d p a bs).ioBacklog = d.ioBacklog := (Device.storeValue_within d p a bs (Device.Within.refl 268566536 _) (Nat.and_self _)).part .ioBacklog (by decide)
@[simp] theorem Device.storeValue_tiles (d : Device) (p : Path) (a : Nat) (bs : List Byte) : (Device.storeValue d p a bs).tiles = d.tiles := (Device.storeValue_within d p a bs (Device.Within.refl 268566536 _) (Nat.and_self _)).part .tiles (by decide)
@[simp] theorem Device.storeValue_mem (d : Device) (p : Path) (a : Nat) (bs : List Byte) : (Device.storeValue d p a bs).mem = d.mem := (Device.storeValue_within d p a bs (Device.Within.refl 268566536 _) (Nat.and_self _)).part .mem (by decide)
@[simp] theorem Device.storeValue_poison (d : Device) (p : Path) (a : Nat) (bs : List Byte) : (Device.storeValue d p a bs).poison = d.poison := (Device.storeValue_within d p a bs (Device.Within.refl 268566536 _) (Nat.and_self _)).part .poison (by decide)
@[simp] theorem Device.storeValue_host (d : Device) (p : Path) (a : Nat) (bs : List Byte) : (Device.storeValue d p a bs).host = d.host := (Device.storeValue_within d p a bs (Device.Within.refl 268566536 _) (Nat.and_self _)).part .host (by decide)
@[simp] theorem Device.storeValue_ports (d : Device) (p : Path) (a : Nat) (bs : List Byte) : (Device.storeValue d p a bs).ports = d.ports := (Device.storeValue_within d p a bs (Device.Within.refl 268566536 _) (Nat.and_self _)).part .ports (by decide)
@[simp] theorem Device.storeValue_streams (d : Device) (p : Path) (a : Nat) (bs : List Byte) : (Device.storeValue d p a bs).streams = d.streams := (Device.storeValue_within d p a bs (Device.Within.refl 268566536 _) (Nat.and_self _)).part .streams (by decide)
@[simp] theorem Device.storeValue_curSet (d : Device) (p : Path) (a : Nat) (bs : List Byte) : (Device.storeValue d p a bs).curSet = d.curSet := (Device.storeValue_within d p a bs (Device.Within.refl 268566536 _) (Nat.and_self _)).part .curSet (by decide)
@[simp] theorem Device.storeValue_verA (d : Device) (p : Path) (a : Nat) (bs : List Byte) : (Device.storeValue d p a bs).verA = d.verA := (Device.storeValue_within d p a bs (Device.Within.refl 268566536 _) (Nat.and_self _)).part .verA (by decide)
@[simp] theorem Device.storeValue_verB (d : Device) (p : Path) (a : Nat) (bs : List Byte) : (Device.storeValue d p a bs).verB = d.verB := (Device.storeValue_within d p a bs (Device.Within.refl 268566536 _) (Nat.and_self _)).part .verB (by decide)
@[simp] theorem Device.storeValue_pace (d : Device) (p : Path) (a : Nat) (bs : List Byte) : (Device.storeValue d p a bs).pace = d.pace := (Device.storeValue_within d p a bs (Device.Within.refl 268566536 _) (Nat.and_self _)).part .pace (by decide)
@[simp] theorem Device.storeValue_log (d : Device) (p : Path) (a : Nat) (bs : List Byte) : (Device.storeValue d p a bs).log = d.log := (Device.storeValue_within d p a bs (Device.Within.refl 268566536 _) (Nat.and_self _)).part .log (by decide)
@[simp] theorem Device.storeValue_safety (d : Device) (p : Path) (a : Nat) (bs : List Byte) : (Device.storeValue d p a bs).safety = d.safety := (Device.storeValue_within d p a bs (Device.Within.refl 268566536 _) (Nat.and_self _)).part .safety (by decide)
@[simp] theorem Device.storeValue_images (d : Device) (p : Path) (a : Nat) (bs : List Byte) : (Device.storeValue d p a bs).images = d.images := (Device.storeValue_within d p a bs (Device.Within.refl 268566536 _) (Nat.and_self _)).part .images (by decide)
@[simp] theorem Device.storeValue_out (d : Device) (p : Path) (a : Nat) (bs : List Byte) : (Device.storeValue d p a bs).out = d.out := (Device.storeValue_within d p a bs (Device.Within.refl 268566536 _) (Nat.and_self _)).part .out (by decide)

/-! ### Device.arrives -/

@[simp] theorem Device.arrives_now (d : Device) (p : Path) : (Device.arrives d p).now = d.now := (Device.arrives_within d p (Device.Within.refl 134217736 _) (Nat.and_self _)).part .now (by decide)
@[simp] theorem Device.arrives_stepCounter (d : Device) (p : Path) : (Device.arrives d p).stepCounter = d.stepCounter := (Device.arrives_within d p (Device.Within.refl 134217736 _) (Nat.and_self _)).part .stepCounter (by decide)
@[simp] theorem Device.arrives_power (d : Device) (p : Path) : (Device.arrives d p).power = d.power := (Device.arrives_within d p (Device.Within.refl 134217736 _) (Nat.and_self _)).part .power (by decide)
@[simp] theorem Device.arrives_queues (d : Device) (p : Path) : (Device.arrives d p).queues = d.queues := (Device.arrives_within d p (Device.Within.refl 134217736 _) (Nat.and_self _)).part .queues (by decide)
@[simp] theorem Device.arrives_fetched (d : Device) (p : Path) : (Device.arrives d p).fetched = d.fetched := (Device.arrives_within d p (Device.Within.refl 134217736 _) (Nat.and_self _)).part .fetched (by decide)
@[simp] theorem Device.arrives_tagsFree (d : Device) (p : Path) : (Device.arrives d p).tagsFree = d.tagsFree := (Device.arrives_within d p (Device.Within.refl 134217736 _) (Nat.and_self _)).part .tagsFree (by decide)
@[simp] theorem Device.arrives_cmds (d : Device) (p : Path) : (Device.arrives d p).cmds = d.cmds := (Device.arrives_within d p (Device.Within.refl 134217736 _) (Nat.and_self _)).part .cmds (by decide)
@[simp] theorem Device.arrives_events (d : Device) (p : Path) : (Device.arrives d p).events = d.events := (Device.arrives_within d p (Device.Within.refl 134217736 _) (Nat.and_self _)).part .events (by decide)
@[simp] theorem Device.arrives_ioBacklog (d : Device) (p : Path) : (Device.arrives d p).ioBacklog = d.ioBacklog := (Device.arrives_within d p (Device.Within.refl 134217736 _) (Nat.and_self _)).part .ioBacklog (by decide)
@[simp] theorem Device.arrives_tiles (d : Device) (p : Path) : (Device.arrives d p).tiles = d.tiles := (Device.arrives_within d p (Device.Within.refl 134217736 _) (Nat.and_self _)).part .tiles (by decide)
@[simp] theorem Device.arrives_mem (d : Device) (p : Path) : (Device.arrives d p).mem = d.mem := (Device.arrives_within d p (Device.Within.refl 134217736 _) (Nat.and_self _)).part .mem (by decide)
@[simp] theorem Device.arrives_poison (d : Device) (p : Path) : (Device.arrives d p).poison = d.poison := (Device.arrives_within d p (Device.Within.refl 134217736 _) (Nat.and_self _)).part .poison (by decide)
@[simp] theorem Device.arrives_host (d : Device) (p : Path) : (Device.arrives d p).host = d.host := (Device.arrives_within d p (Device.Within.refl 134217736 _) (Nat.and_self _)).part .host (by decide)
@[simp] theorem Device.arrives_bays (d : Device) (p : Path) : (Device.arrives d p).bays = d.bays := (Device.arrives_within d p (Device.Within.refl 134217736 _) (Nat.and_self _)).part .bays (by decide)
@[simp] theorem Device.arrives_ports (d : Device) (p : Path) : (Device.arrives d p).ports = d.ports := (Device.arrives_within d p (Device.Within.refl 134217736 _) (Nat.and_self _)).part .ports (by decide)
@[simp] theorem Device.arrives_streams (d : Device) (p : Path) : (Device.arrives d p).streams = d.streams := (Device.arrives_within d p (Device.Within.refl 134217736 _) (Nat.and_self _)).part .streams (by decide)
@[simp] theorem Device.arrives_curSet (d : Device) (p : Path) : (Device.arrives d p).curSet = d.curSet := (Device.arrives_within d p (Device.Within.refl 134217736 _) (Nat.and_self _)).part .curSet (by decide)
@[simp] theorem Device.arrives_verA (d : Device) (p : Path) : (Device.arrives d p).verA = d.verA := (Device.arrives_within d p (Device.Within.refl 134217736 _) (Nat.and_self _)).part .verA (by decide)
@[simp] theorem Device.arrives_verB (d : Device) (p : Path) : (Device.arrives d p).verB = d.verB := (Device.arrives_within d p (Device.Within.refl 134217736 _) (Nat.and_self _)).part .verB (by decide)
@[simp] theorem Device.arrives_pace (d : Device) (p : Path) : (Device.arrives d p).pace = d.pace := (Device.arrives_within d p (Device.Within.refl 134217736 _) (Nat.and_self _)).part .pace (by decide)
@[simp] theorem Device.arrives_log (d : Device) (p : Path) : (Device.arrives d p).log = d.log := (Device.arrives_within d p (Device.Within.refl 134217736 _) (Nat.and_self _)).part .log (by decide)
@[simp] theorem Device.arrives_flash (d : Device) (p : Path) : (Device.arrives d p).flash = d.flash := (Device.arrives_within d p (Device.Within.refl 134217736 _) (Nat.and_self _)).part .flash (by decide)
@[simp] theorem Device.arrives_images (d : Device) (p : Path) : (Device.arrives d p).images = d.images := (Device.arrives_within d p (Device.Within.refl 134217736 _) (Nat.and_self _)).part .images (by decide)
@[simp] theorem Device.arrives_out (d : Device) (p : Path) : (Device.arrives d p).out = d.out := (Device.arrives_within d p (Device.Within.refl 134217736 _) (Nat.and_self _)).part .out (by decide)

/-! ### Device.record -/

@[simp] theorem Device.record_now (d : Device) (p : Path) (r : DictResult) : (Device.record d p r).now = d.now := (Device.record_within d p r (Device.Within.refl 8 _) (Nat.and_self _)).part .now (by decide)
@[simp] theorem Device.record_stepCounter (d : Device) (p : Path) (r : DictResult) : (Device.record d p r).stepCounter = d.stepCounter := (Device.record_within d p r (Device.Within.refl 8 _) (Nat.and_self _)).part .stepCounter (by decide)
@[simp] theorem Device.record_power (d : Device) (p : Path) (r : DictResult) : (Device.record d p r).power = d.power := (Device.record_within d p r (Device.Within.refl 8 _) (Nat.and_self _)).part .power (by decide)
@[simp] theorem Device.record_queues (d : Device) (p : Path) (r : DictResult) : (Device.record d p r).queues = d.queues := (Device.record_within d p r (Device.Within.refl 8 _) (Nat.and_self _)).part .queues (by decide)
@[simp] theorem Device.record_fetched (d : Device) (p : Path) (r : DictResult) : (Device.record d p r).fetched = d.fetched := (Device.record_within d p r (Device.Within.refl 8 _) (Nat.and_self _)).part .fetched (by decide)
@[simp] theorem Device.record_tagsFree (d : Device) (p : Path) (r : DictResult) : (Device.record d p r).tagsFree = d.tagsFree := (Device.record_within d p r (Device.Within.refl 8 _) (Nat.and_self _)).part .tagsFree (by decide)
@[simp] theorem Device.record_cmds (d : Device) (p : Path) (r : DictResult) : (Device.record d p r).cmds = d.cmds := (Device.record_within d p r (Device.Within.refl 8 _) (Nat.and_self _)).part .cmds (by decide)
@[simp] theorem Device.record_events (d : Device) (p : Path) (r : DictResult) : (Device.record d p r).events = d.events := (Device.record_within d p r (Device.Within.refl 8 _) (Nat.and_self _)).part .events (by decide)
@[simp] theorem Device.record_ioBacklog (d : Device) (p : Path) (r : DictResult) : (Device.record d p r).ioBacklog = d.ioBacklog := (Device.record_within d p r (Device.Within.refl 8 _) (Nat.and_self _)).part .ioBacklog (by decide)
@[simp] theorem Device.record_tiles (d : Device) (p : Path) (r : DictResult) : (Device.record d p r).tiles = d.tiles := (Device.record_within d p r (Device.Within.refl 8 _) (Nat.and_self _)).part .tiles (by decide)
@[simp] theorem Device.record_mem (d : Device) (p : Path) (r : DictResult) : (Device.record d p r).mem = d.mem := (Device.record_within d p r (Device.Within.refl 8 _) (Nat.and_self _)).part .mem (by decide)
@[simp] theorem Device.record_poison (d : Device) (p : Path) (r : DictResult) : (Device.record d p r).poison = d.poison := (Device.record_within d p r (Device.Within.refl 8 _) (Nat.and_self _)).part .poison (by decide)
@[simp] theorem Device.record_host (d : Device) (p : Path) (r : DictResult) : (Device.record d p r).host = d.host := (Device.record_within d p r (Device.Within.refl 8 _) (Nat.and_self _)).part .host (by decide)
@[simp] theorem Device.record_bays (d : Device) (p : Path) (r : DictResult) : (Device.record d p r).bays = d.bays := (Device.record_within d p r (Device.Within.refl 8 _) (Nat.and_self _)).part .bays (by decide)
@[simp] theorem Device.record_ports (d : Device) (p : Path) (r : DictResult) : (Device.record d p r).ports = d.ports := (Device.record_within d p r (Device.Within.refl 8 _) (Nat.and_self _)).part .ports (by decide)
@[simp] theorem Device.record_streams (d : Device) (p : Path) (r : DictResult) : (Device.record d p r).streams = d.streams := (Device.record_within d p r (Device.Within.refl 8 _) (Nat.and_self _)).part .streams (by decide)
@[simp] theorem Device.record_curSet (d : Device) (p : Path) (r : DictResult) : (Device.record d p r).curSet = d.curSet := (Device.record_within d p r (Device.Within.refl 8 _) (Nat.and_self _)).part .curSet (by decide)
@[simp] theorem Device.record_verA (d : Device) (p : Path) (r : DictResult) : (Device.record d p r).verA = d.verA := (Device.record_within d p r (Device.Within.refl 8 _) (Nat.and_self _)).part .verA (by decide)
@[simp] theorem Device.record_verB (d : Device) (p : Path) (r : DictResult) : (Device.record d p r).verB = d.verB := (Device.record_within d p r (Device.Within.refl 8 _) (Nat.and_self _)).part .verB (by decide)
@[simp] theorem Device.record_pace (d : Device) (p : Path) (r : DictResult) : (Device.record d p r).pace = d.pace := (Device.record_within d p r (Device.Within.refl 8 _) (Nat.and_self _)).part .pace (by decide)
@[simp] theorem Device.record_log (d : Device) (p : Path) (r : DictResult) : (Device.record d p r).log = d.log := (Device.record_within d p r (Device.Within.refl 8 _) (Nat.and_self _)).part .log (by decide)
@[simp] theorem Device.record_safety (d : Device) (p : Path) (r : DictResult) : (Device.record d p r).safety = d.safety := (Device.record_within d p r (Device.Within.refl 8 _) (Nat.and_self _)).part .safety (by decide)
@[simp] theorem Device.record_flash (d : Device) (p : Path) (r : DictResult) : (Device.record d p r).flash = d.flash := (Device.record_within d p r (Device.Within.refl 8 _) (Nat.and_self _)).part .flash (by decide)
@[simp] theorem Device.record_images (d : Device) (p : Path) (r : DictResult) : (Device.record d p r).images = d.images := (Device.record_within d p r (Device.Within.refl 8 _) (Nat.and_self _)).part .images (by decide)
@[simp] theorem Device.record_out (d : Device) (p : Path) (r : DictResult) : (Device.record d p r).out = d.out := (Device.record_within d p r (Device.Within.refl 8 _) (Nat.and_self _)).part .out (by decide)

/-! ### Device.ratesMove -/

@[simp] theorem Device.ratesMove_now (d : Device) : (Device.ratesMove d).now = d.now := (Device.ratesMove_within d (Device.Within.refl 131072 _) (Nat.and_self _)).part .now (by decide)
@[simp] theorem Device.ratesMove_stepCounter (d : Device) : (Device.ratesMove d).stepCounter = d.stepCounter := (Device.ratesMove_within d (Device.Within.refl 131072 _) (Nat.and_self _)).part .stepCounter (by decide)
@[simp] theorem Device.ratesMove_power (d : Device) : (Device.ratesMove d).power = d.power := (Device.ratesMove_within d (Device.Within.refl 131072 _) (Nat.and_self _)).part .power (by decide)
@[simp] theorem Device.ratesMove_dict (d : Device) : (Device.ratesMove d).dict = d.dict := (Device.ratesMove_within d (Device.Within.refl 131072 _) (Nat.and_self _)).part .dict (by decide)
@[simp] theorem Device.ratesMove_queues (d : Device) : (Device.ratesMove d).queues = d.queues := (Device.ratesMove_within d (Device.Within.refl 131072 _) (Nat.and_self _)).part .queues (by decide)
@[simp] theorem Device.ratesMove_fetched (d : Device) : (Device.ratesMove d).fetched = d.fetched := (Device.ratesMove_within d (Device.Within.refl 131072 _) (Nat.and_self _)).part .fetched (by decide)
@[simp] theorem Device.ratesMove_tagsFree (d : Device) : (Device.ratesMove d).tagsFree = d.tagsFree := (Device.ratesMove_within d (Device.Within.refl 131072 _) (Nat.and_self _)).part .tagsFree (by decide)
@[simp] theorem Device.ratesMove_cmds (d : Device) : (Device.ratesMove d).cmds = d.cmds := (Device.ratesMove_within d (Device.Within.refl 131072 _) (Nat.and_self _)).part .cmds (by decide)
@[simp] theorem Device.ratesMove_events (d : Device) : (Device.ratesMove d).events = d.events := (Device.ratesMove_within d (Device.Within.refl 131072 _) (Nat.and_self _)).part .events (by decide)
@[simp] theorem Device.ratesMove_ioBacklog (d : Device) : (Device.ratesMove d).ioBacklog = d.ioBacklog := (Device.ratesMove_within d (Device.Within.refl 131072 _) (Nat.and_self _)).part .ioBacklog (by decide)
@[simp] theorem Device.ratesMove_tiles (d : Device) : (Device.ratesMove d).tiles = d.tiles := (Device.ratesMove_within d (Device.Within.refl 131072 _) (Nat.and_self _)).part .tiles (by decide)
@[simp] theorem Device.ratesMove_mem (d : Device) : (Device.ratesMove d).mem = d.mem := (Device.ratesMove_within d (Device.Within.refl 131072 _) (Nat.and_self _)).part .mem (by decide)
@[simp] theorem Device.ratesMove_poison (d : Device) : (Device.ratesMove d).poison = d.poison := (Device.ratesMove_within d (Device.Within.refl 131072 _) (Nat.and_self _)).part .poison (by decide)
@[simp] theorem Device.ratesMove_host (d : Device) : (Device.ratesMove d).host = d.host := (Device.ratesMove_within d (Device.Within.refl 131072 _) (Nat.and_self _)).part .host (by decide)
@[simp] theorem Device.ratesMove_ports (d : Device) : (Device.ratesMove d).ports = d.ports := (Device.ratesMove_within d (Device.Within.refl 131072 _) (Nat.and_self _)).part .ports (by decide)
@[simp] theorem Device.ratesMove_streams (d : Device) : (Device.ratesMove d).streams = d.streams := (Device.ratesMove_within d (Device.Within.refl 131072 _) (Nat.and_self _)).part .streams (by decide)
@[simp] theorem Device.ratesMove_curSet (d : Device) : (Device.ratesMove d).curSet = d.curSet := (Device.ratesMove_within d (Device.Within.refl 131072 _) (Nat.and_self _)).part .curSet (by decide)
@[simp] theorem Device.ratesMove_verA (d : Device) : (Device.ratesMove d).verA = d.verA := (Device.ratesMove_within d (Device.Within.refl 131072 _) (Nat.and_self _)).part .verA (by decide)
@[simp] theorem Device.ratesMove_verB (d : Device) : (Device.ratesMove d).verB = d.verB := (Device.ratesMove_within d (Device.Within.refl 131072 _) (Nat.and_self _)).part .verB (by decide)
@[simp] theorem Device.ratesMove_pace (d : Device) : (Device.ratesMove d).pace = d.pace := (Device.ratesMove_within d (Device.Within.refl 131072 _) (Nat.and_self _)).part .pace (by decide)
@[simp] theorem Device.ratesMove_log (d : Device) : (Device.ratesMove d).log = d.log := (Device.ratesMove_within d (Device.Within.refl 131072 _) (Nat.and_self _)).part .log (by decide)
@[simp] theorem Device.ratesMove_safety (d : Device) : (Device.ratesMove d).safety = d.safety := (Device.ratesMove_within d (Device.Within.refl 131072 _) (Nat.and_self _)).part .safety (by decide)
@[simp] theorem Device.ratesMove_flash (d : Device) : (Device.ratesMove d).flash = d.flash := (Device.ratesMove_within d (Device.Within.refl 131072 _) (Nat.and_self _)).part .flash (by decide)
@[simp] theorem Device.ratesMove_images (d : Device) : (Device.ratesMove d).images = d.images := (Device.ratesMove_within d (Device.Within.refl 131072 _) (Nat.and_self _)).part .images (by decide)
@[simp] theorem Device.ratesMove_out (d : Device) : (Device.ratesMove d).out = d.out := (Device.ratesMove_within d (Device.Within.refl 131072 _) (Nat.and_self _)).part .out (by decide)

/-! ### Device.commit -/

@[simp] theorem Device.commit_now (d : Device) : (Device.commit d).now = d.now := (Device.commit_within d (Device.Within.refl 268435464 _) (Nat.and_self _)).part .now (by decide)
@[simp] theorem Device.commit_stepCounter (d : Device) : (Device.commit d).stepCounter = d.stepCounter := (Device.commit_within d (Device.Within.refl 268435464 _) (Nat.and_self _)).part .stepCounter (by decide)
@[simp] theorem Device.commit_power (d : Device) : (Device.commit d).power = d.power := (Device.commit_within d (Device.Within.refl 268435464 _) (Nat.and_self _)).part .power (by decide)
@[simp] theorem Device.commit_queues (d : Device) : (Device.commit d).queues = d.queues := (Device.commit_within d (Device.Within.refl 268435464 _) (Nat.and_self _)).part .queues (by decide)
@[simp] theorem Device.commit_fetched (d : Device) : (Device.commit d).fetched = d.fetched := (Device.commit_within d (Device.Within.refl 268435464 _) (Nat.and_self _)).part .fetched (by decide)
@[simp] theorem Device.commit_tagsFree (d : Device) : (Device.commit d).tagsFree = d.tagsFree := (Device.commit_within d (Device.Within.refl 268435464 _) (Nat.and_self _)).part .tagsFree (by decide)
@[simp] theorem Device.commit_cmds (d : Device) : (Device.commit d).cmds = d.cmds := (Device.commit_within d (Device.Within.refl 268435464 _) (Nat.and_self _)).part .cmds (by decide)
@[simp] theorem Device.commit_events (d : Device) : (Device.commit d).events = d.events := (Device.commit_within d (Device.Within.refl 268435464 _) (Nat.and_self _)).part .events (by decide)
@[simp] theorem Device.commit_ioBacklog (d : Device) : (Device.commit d).ioBacklog = d.ioBacklog := (Device.commit_within d (Device.Within.refl 268435464 _) (Nat.and_self _)).part .ioBacklog (by decide)
@[simp] theorem Device.commit_tiles (d : Device) : (Device.commit d).tiles = d.tiles := (Device.commit_within d (Device.Within.refl 268435464 _) (Nat.and_self _)).part .tiles (by decide)
@[simp] theorem Device.commit_mem (d : Device) : (Device.commit d).mem = d.mem := (Device.commit_within d (Device.Within.refl 268435464 _) (Nat.and_self _)).part .mem (by decide)
@[simp] theorem Device.commit_poison (d : Device) : (Device.commit d).poison = d.poison := (Device.commit_within d (Device.Within.refl 268435464 _) (Nat.and_self _)).part .poison (by decide)
@[simp] theorem Device.commit_host (d : Device) : (Device.commit d).host = d.host := (Device.commit_within d (Device.Within.refl 268435464 _) (Nat.and_self _)).part .host (by decide)
@[simp] theorem Device.commit_bays (d : Device) : (Device.commit d).bays = d.bays := (Device.commit_within d (Device.Within.refl 268435464 _) (Nat.and_self _)).part .bays (by decide)
@[simp] theorem Device.commit_ports (d : Device) : (Device.commit d).ports = d.ports := (Device.commit_within d (Device.Within.refl 268435464 _) (Nat.and_self _)).part .ports (by decide)
@[simp] theorem Device.commit_streams (d : Device) : (Device.commit d).streams = d.streams := (Device.commit_within d (Device.Within.refl 268435464 _) (Nat.and_self _)).part .streams (by decide)
@[simp] theorem Device.commit_curSet (d : Device) : (Device.commit d).curSet = d.curSet := (Device.commit_within d (Device.Within.refl 268435464 _) (Nat.and_self _)).part .curSet (by decide)
@[simp] theorem Device.commit_verA (d : Device) : (Device.commit d).verA = d.verA := (Device.commit_within d (Device.Within.refl 268435464 _) (Nat.and_self _)).part .verA (by decide)
@[simp] theorem Device.commit_verB (d : Device) : (Device.commit d).verB = d.verB := (Device.commit_within d (Device.Within.refl 268435464 _) (Nat.and_self _)).part .verB (by decide)
@[simp] theorem Device.commit_pace (d : Device) : (Device.commit d).pace = d.pace := (Device.commit_within d (Device.Within.refl 268435464 _) (Nat.and_self _)).part .pace (by decide)
@[simp] theorem Device.commit_log (d : Device) : (Device.commit d).log = d.log := (Device.commit_within d (Device.Within.refl 268435464 _) (Nat.and_self _)).part .log (by decide)
@[simp] theorem Device.commit_safety (d : Device) : (Device.commit d).safety = d.safety := (Device.commit_within d (Device.Within.refl 268435464 _) (Nat.and_self _)).part .safety (by decide)
@[simp] theorem Device.commit_images (d : Device) : (Device.commit d).images = d.images := (Device.commit_within d (Device.Within.refl 268435464 _) (Nat.and_self _)).part .images (by decide)
@[simp] theorem Device.commit_out (d : Device) : (Device.commit d).out = d.out := (Device.commit_within d (Device.Within.refl 268435464 _) (Nat.and_self _)).part .out (by decide)

/-! ### Device.paceSet -/

@[simp] theorem Device.paceSet_now (d : Device) (limit : Bool) : (Device.paceSet d limit).now = d.now := (Device.paceSet_within d limit (Device.Within.refl 167903232 _) (Nat.and_self _)).part .now (by decide)
@[simp] theorem Device.paceSet_stepCounter (d : Device) (limit : Bool) : (Device.paceSet d limit).stepCounter = d.stepCounter := (Device.paceSet_within d limit (Device.Within.refl 167903232 _) (Nat.and_self _)).part .stepCounter (by decide)
@[simp] theorem Device.paceSet_power (d : Device) (limit : Bool) : (Device.paceSet d limit).power = d.power := (Device.paceSet_within d limit (Device.Within.refl 167903232 _) (Nat.and_self _)).part .power (by decide)
@[simp] theorem Device.paceSet_dict (d : Device) (limit : Bool) : (Device.paceSet d limit).dict = d.dict := (Device.paceSet_within d limit (Device.Within.refl 167903232 _) (Nat.and_self _)).part .dict (by decide)
@[simp] theorem Device.paceSet_queues (d : Device) (limit : Bool) : (Device.paceSet d limit).queues = d.queues := (Device.paceSet_within d limit (Device.Within.refl 167903232 _) (Nat.and_self _)).part .queues (by decide)
@[simp] theorem Device.paceSet_fetched (d : Device) (limit : Bool) : (Device.paceSet d limit).fetched = d.fetched := (Device.paceSet_within d limit (Device.Within.refl 167903232 _) (Nat.and_self _)).part .fetched (by decide)
@[simp] theorem Device.paceSet_tagsFree (d : Device) (limit : Bool) : (Device.paceSet d limit).tagsFree = d.tagsFree := (Device.paceSet_within d limit (Device.Within.refl 167903232 _) (Nat.and_self _)).part .tagsFree (by decide)
@[simp] theorem Device.paceSet_cmds (d : Device) (limit : Bool) : (Device.paceSet d limit).cmds = d.cmds := (Device.paceSet_within d limit (Device.Within.refl 167903232 _) (Nat.and_self _)).part .cmds (by decide)
@[simp] theorem Device.paceSet_events (d : Device) (limit : Bool) : (Device.paceSet d limit).events = d.events := (Device.paceSet_within d limit (Device.Within.refl 167903232 _) (Nat.and_self _)).part .events (by decide)
@[simp] theorem Device.paceSet_ioBacklog (d : Device) (limit : Bool) : (Device.paceSet d limit).ioBacklog = d.ioBacklog := (Device.paceSet_within d limit (Device.Within.refl 167903232 _) (Nat.and_self _)).part .ioBacklog (by decide)
@[simp] theorem Device.paceSet_tiles (d : Device) (limit : Bool) : (Device.paceSet d limit).tiles = d.tiles := (Device.paceSet_within d limit (Device.Within.refl 167903232 _) (Nat.and_self _)).part .tiles (by decide)
@[simp] theorem Device.paceSet_mem (d : Device) (limit : Bool) : (Device.paceSet d limit).mem = d.mem := (Device.paceSet_within d limit (Device.Within.refl 167903232 _) (Nat.and_self _)).part .mem (by decide)
@[simp] theorem Device.paceSet_poison (d : Device) (limit : Bool) : (Device.paceSet d limit).poison = d.poison := (Device.paceSet_within d limit (Device.Within.refl 167903232 _) (Nat.and_self _)).part .poison (by decide)
@[simp] theorem Device.paceSet_host (d : Device) (limit : Bool) : (Device.paceSet d limit).host = d.host := (Device.paceSet_within d limit (Device.Within.refl 167903232 _) (Nat.and_self _)).part .host (by decide)
@[simp] theorem Device.paceSet_ports (d : Device) (limit : Bool) : (Device.paceSet d limit).ports = d.ports := (Device.paceSet_within d limit (Device.Within.refl 167903232 _) (Nat.and_self _)).part .ports (by decide)
@[simp] theorem Device.paceSet_streams (d : Device) (limit : Bool) : (Device.paceSet d limit).streams = d.streams := (Device.paceSet_within d limit (Device.Within.refl 167903232 _) (Nat.and_self _)).part .streams (by decide)
@[simp] theorem Device.paceSet_curSet (d : Device) (limit : Bool) : (Device.paceSet d limit).curSet = d.curSet := (Device.paceSet_within d limit (Device.Within.refl 167903232 _) (Nat.and_self _)).part .curSet (by decide)
@[simp] theorem Device.paceSet_verA (d : Device) (limit : Bool) : (Device.paceSet d limit).verA = d.verA := (Device.paceSet_within d limit (Device.Within.refl 167903232 _) (Nat.and_self _)).part .verA (by decide)
@[simp] theorem Device.paceSet_verB (d : Device) (limit : Bool) : (Device.paceSet d limit).verB = d.verB := (Device.paceSet_within d limit (Device.Within.refl 167903232 _) (Nat.and_self _)).part .verB (by decide)
@[simp] theorem Device.paceSet_log (d : Device) (limit : Bool) : (Device.paceSet d limit).log = d.log := (Device.paceSet_within d limit (Device.Within.refl 167903232 _) (Nat.and_self _)).part .log (by decide)
@[simp] theorem Device.paceSet_flash (d : Device) (limit : Bool) : (Device.paceSet d limit).flash = d.flash := (Device.paceSet_within d limit (Device.Within.refl 167903232 _) (Nat.and_self _)).part .flash (by decide)
@[simp] theorem Device.paceSet_images (d : Device) (limit : Bool) : (Device.paceSet d limit).images = d.images := (Device.paceSet_within d limit (Device.Within.refl 167903232 _) (Nat.and_self _)).part .images (by decide)
@[simp] theorem Device.paceSet_out (d : Device) (limit : Bool) : (Device.paceSet d limit).out = d.out := (Device.paceSet_within d limit (Device.Within.refl 167903232 _) (Nat.and_self _)).part .out (by decide)

/-! ### Device.claimEffect -/

@[simp] theorem Device.claimEffect_now (d : Device) (p : Path) (v : Nat) : (Device.claimEffect d p v).now = d.now := (Device.claimEffect_within d p v (Device.Within.refl 939524104 _) (Nat.and_self _)).part .now (by decide)
@[simp] theorem Device.claimEffect_stepCounter (d : Device) (p : Path) (v : Nat) : (Device.claimEffect d p v).stepCounter = d.stepCounter := (Device.claimEffect_within d p v (Device.Within.refl 939524104 _) (Nat.and_self _)).part .stepCounter (by decide)
@[simp] theorem Device.claimEffect_power (d : Device) (p : Path) (v : Nat) : (Device.claimEffect d p v).power = d.power := (Device.claimEffect_within d p v (Device.Within.refl 939524104 _) (Nat.and_self _)).part .power (by decide)
@[simp] theorem Device.claimEffect_queues (d : Device) (p : Path) (v : Nat) : (Device.claimEffect d p v).queues = d.queues := (Device.claimEffect_within d p v (Device.Within.refl 939524104 _) (Nat.and_self _)).part .queues (by decide)
@[simp] theorem Device.claimEffect_fetched (d : Device) (p : Path) (v : Nat) : (Device.claimEffect d p v).fetched = d.fetched := (Device.claimEffect_within d p v (Device.Within.refl 939524104 _) (Nat.and_self _)).part .fetched (by decide)
@[simp] theorem Device.claimEffect_tagsFree (d : Device) (p : Path) (v : Nat) : (Device.claimEffect d p v).tagsFree = d.tagsFree := (Device.claimEffect_within d p v (Device.Within.refl 939524104 _) (Nat.and_self _)).part .tagsFree (by decide)
@[simp] theorem Device.claimEffect_cmds (d : Device) (p : Path) (v : Nat) : (Device.claimEffect d p v).cmds = d.cmds := (Device.claimEffect_within d p v (Device.Within.refl 939524104 _) (Nat.and_self _)).part .cmds (by decide)
@[simp] theorem Device.claimEffect_events (d : Device) (p : Path) (v : Nat) : (Device.claimEffect d p v).events = d.events := (Device.claimEffect_within d p v (Device.Within.refl 939524104 _) (Nat.and_self _)).part .events (by decide)
@[simp] theorem Device.claimEffect_ioBacklog (d : Device) (p : Path) (v : Nat) : (Device.claimEffect d p v).ioBacklog = d.ioBacklog := (Device.claimEffect_within d p v (Device.Within.refl 939524104 _) (Nat.and_self _)).part .ioBacklog (by decide)
@[simp] theorem Device.claimEffect_tiles (d : Device) (p : Path) (v : Nat) : (Device.claimEffect d p v).tiles = d.tiles := (Device.claimEffect_within d p v (Device.Within.refl 939524104 _) (Nat.and_self _)).part .tiles (by decide)
@[simp] theorem Device.claimEffect_mem (d : Device) (p : Path) (v : Nat) : (Device.claimEffect d p v).mem = d.mem := (Device.claimEffect_within d p v (Device.Within.refl 939524104 _) (Nat.and_self _)).part .mem (by decide)
@[simp] theorem Device.claimEffect_poison (d : Device) (p : Path) (v : Nat) : (Device.claimEffect d p v).poison = d.poison := (Device.claimEffect_within d p v (Device.Within.refl 939524104 _) (Nat.and_self _)).part .poison (by decide)
@[simp] theorem Device.claimEffect_host (d : Device) (p : Path) (v : Nat) : (Device.claimEffect d p v).host = d.host := (Device.claimEffect_within d p v (Device.Within.refl 939524104 _) (Nat.and_self _)).part .host (by decide)
@[simp] theorem Device.claimEffect_bays (d : Device) (p : Path) (v : Nat) : (Device.claimEffect d p v).bays = d.bays := (Device.claimEffect_within d p v (Device.Within.refl 939524104 _) (Nat.and_self _)).part .bays (by decide)
@[simp] theorem Device.claimEffect_ports (d : Device) (p : Path) (v : Nat) : (Device.claimEffect d p v).ports = d.ports := (Device.claimEffect_within d p v (Device.Within.refl 939524104 _) (Nat.and_self _)).part .ports (by decide)
@[simp] theorem Device.claimEffect_streams (d : Device) (p : Path) (v : Nat) : (Device.claimEffect d p v).streams = d.streams := (Device.claimEffect_within d p v (Device.Within.refl 939524104 _) (Nat.and_self _)).part .streams (by decide)
@[simp] theorem Device.claimEffect_curSet (d : Device) (p : Path) (v : Nat) : (Device.claimEffect d p v).curSet = d.curSet := (Device.claimEffect_within d p v (Device.Within.refl 939524104 _) (Nat.and_self _)).part .curSet (by decide)
@[simp] theorem Device.claimEffect_verA (d : Device) (p : Path) (v : Nat) : (Device.claimEffect d p v).verA = d.verA := (Device.claimEffect_within d p v (Device.Within.refl 939524104 _) (Nat.and_self _)).part .verA (by decide)
@[simp] theorem Device.claimEffect_verB (d : Device) (p : Path) (v : Nat) : (Device.claimEffect d p v).verB = d.verB := (Device.claimEffect_within d p v (Device.Within.refl 939524104 _) (Nat.and_self _)).part .verB (by decide)
@[simp] theorem Device.claimEffect_pace (d : Device) (p : Path) (v : Nat) : (Device.claimEffect d p v).pace = d.pace := (Device.claimEffect_within d p v (Device.Within.refl 939524104 _) (Nat.and_self _)).part .pace (by decide)
@[simp] theorem Device.claimEffect_log (d : Device) (p : Path) (v : Nat) : (Device.claimEffect d p v).log = d.log := (Device.claimEffect_within d p v (Device.Within.refl 939524104 _) (Nat.and_self _)).part .log (by decide)
@[simp] theorem Device.claimEffect_out (d : Device) (p : Path) (v : Nat) : (Device.claimEffect d p v).out = d.out := (Device.claimEffect_within d p v (Device.Within.refl 939524104 _) (Nat.and_self _)).part .out (by decide)

/-! ### Device.startLoad -/

@[simp] theorem Device.startLoad_now (d : Device) (bs : List Byte) : (Device.startLoad d bs).now = d.now := (Device.startLoad_within d bs (Device.Within.refl 805306376 _) (Nat.and_self _)).part .now (by decide)
@[simp] theorem Device.startLoad_stepCounter (d : Device) (bs : List Byte) : (Device.startLoad d bs).stepCounter = d.stepCounter := (Device.startLoad_within d bs (Device.Within.refl 805306376 _) (Nat.and_self _)).part .stepCounter (by decide)
@[simp] theorem Device.startLoad_power (d : Device) (bs : List Byte) : (Device.startLoad d bs).power = d.power := (Device.startLoad_within d bs (Device.Within.refl 805306376 _) (Nat.and_self _)).part .power (by decide)
@[simp] theorem Device.startLoad_queues (d : Device) (bs : List Byte) : (Device.startLoad d bs).queues = d.queues := (Device.startLoad_within d bs (Device.Within.refl 805306376 _) (Nat.and_self _)).part .queues (by decide)
@[simp] theorem Device.startLoad_fetched (d : Device) (bs : List Byte) : (Device.startLoad d bs).fetched = d.fetched := (Device.startLoad_within d bs (Device.Within.refl 805306376 _) (Nat.and_self _)).part .fetched (by decide)
@[simp] theorem Device.startLoad_tagsFree (d : Device) (bs : List Byte) : (Device.startLoad d bs).tagsFree = d.tagsFree := (Device.startLoad_within d bs (Device.Within.refl 805306376 _) (Nat.and_self _)).part .tagsFree (by decide)
@[simp] theorem Device.startLoad_cmds (d : Device) (bs : List Byte) : (Device.startLoad d bs).cmds = d.cmds := (Device.startLoad_within d bs (Device.Within.refl 805306376 _) (Nat.and_self _)).part .cmds (by decide)
@[simp] theorem Device.startLoad_events (d : Device) (bs : List Byte) : (Device.startLoad d bs).events = d.events := (Device.startLoad_within d bs (Device.Within.refl 805306376 _) (Nat.and_self _)).part .events (by decide)
@[simp] theorem Device.startLoad_ioBacklog (d : Device) (bs : List Byte) : (Device.startLoad d bs).ioBacklog = d.ioBacklog := (Device.startLoad_within d bs (Device.Within.refl 805306376 _) (Nat.and_self _)).part .ioBacklog (by decide)
@[simp] theorem Device.startLoad_tiles (d : Device) (bs : List Byte) : (Device.startLoad d bs).tiles = d.tiles := (Device.startLoad_within d bs (Device.Within.refl 805306376 _) (Nat.and_self _)).part .tiles (by decide)
@[simp] theorem Device.startLoad_mem (d : Device) (bs : List Byte) : (Device.startLoad d bs).mem = d.mem := (Device.startLoad_within d bs (Device.Within.refl 805306376 _) (Nat.and_self _)).part .mem (by decide)
@[simp] theorem Device.startLoad_poison (d : Device) (bs : List Byte) : (Device.startLoad d bs).poison = d.poison := (Device.startLoad_within d bs (Device.Within.refl 805306376 _) (Nat.and_self _)).part .poison (by decide)
@[simp] theorem Device.startLoad_host (d : Device) (bs : List Byte) : (Device.startLoad d bs).host = d.host := (Device.startLoad_within d bs (Device.Within.refl 805306376 _) (Nat.and_self _)).part .host (by decide)
@[simp] theorem Device.startLoad_bays (d : Device) (bs : List Byte) : (Device.startLoad d bs).bays = d.bays := (Device.startLoad_within d bs (Device.Within.refl 805306376 _) (Nat.and_self _)).part .bays (by decide)
@[simp] theorem Device.startLoad_ports (d : Device) (bs : List Byte) : (Device.startLoad d bs).ports = d.ports := (Device.startLoad_within d bs (Device.Within.refl 805306376 _) (Nat.and_self _)).part .ports (by decide)
@[simp] theorem Device.startLoad_streams (d : Device) (bs : List Byte) : (Device.startLoad d bs).streams = d.streams := (Device.startLoad_within d bs (Device.Within.refl 805306376 _) (Nat.and_self _)).part .streams (by decide)
@[simp] theorem Device.startLoad_curSet (d : Device) (bs : List Byte) : (Device.startLoad d bs).curSet = d.curSet := (Device.startLoad_within d bs (Device.Within.refl 805306376 _) (Nat.and_self _)).part .curSet (by decide)
@[simp] theorem Device.startLoad_verA (d : Device) (bs : List Byte) : (Device.startLoad d bs).verA = d.verA := (Device.startLoad_within d bs (Device.Within.refl 805306376 _) (Nat.and_self _)).part .verA (by decide)
@[simp] theorem Device.startLoad_verB (d : Device) (bs : List Byte) : (Device.startLoad d bs).verB = d.verB := (Device.startLoad_within d bs (Device.Within.refl 805306376 _) (Nat.and_self _)).part .verB (by decide)
@[simp] theorem Device.startLoad_pace (d : Device) (bs : List Byte) : (Device.startLoad d bs).pace = d.pace := (Device.startLoad_within d bs (Device.Within.refl 805306376 _) (Nat.and_self _)).part .pace (by decide)
@[simp] theorem Device.startLoad_log (d : Device) (bs : List Byte) : (Device.startLoad d bs).log = d.log := (Device.startLoad_within d bs (Device.Within.refl 805306376 _) (Nat.and_self _)).part .log (by decide)
@[simp] theorem Device.startLoad_safety (d : Device) (bs : List Byte) : (Device.startLoad d bs).safety = d.safety := (Device.startLoad_within d bs (Device.Within.refl 805306376 _) (Nat.and_self _)).part .safety (by decide)
@[simp] theorem Device.startLoad_out (d : Device) (bs : List Byte) : (Device.startLoad d bs).out = d.out := (Device.startLoad_within d bs (Device.Within.refl 805306376 _) (Nat.and_self _)).part .out (by decide)

/-! ### Device.setSlot -/

@[simp] theorem Device.setSlot_now (d : Device) (t : Nat) (x : ImageSlot) : (Device.setSlot d t x).now = d.now := (Device.setSlot_within d t x (Device.Within.refl 268435464 _) (Nat.and_self _)).part .now (by decide)
@[simp] theorem Device.setSlot_stepCounter (d : Device) (t : Nat) (x : ImageSlot) : (Device.setSlot d t x).stepCounter = d.stepCounter := (Device.setSlot_within d t x (Device.Within.refl 268435464 _) (Nat.and_self _)).part .stepCounter (by decide)
@[simp] theorem Device.setSlot_power (d : Device) (t : Nat) (x : ImageSlot) : (Device.setSlot d t x).power = d.power := (Device.setSlot_within d t x (Device.Within.refl 268435464 _) (Nat.and_self _)).part .power (by decide)
@[simp] theorem Device.setSlot_queues (d : Device) (t : Nat) (x : ImageSlot) : (Device.setSlot d t x).queues = d.queues := (Device.setSlot_within d t x (Device.Within.refl 268435464 _) (Nat.and_self _)).part .queues (by decide)
@[simp] theorem Device.setSlot_fetched (d : Device) (t : Nat) (x : ImageSlot) : (Device.setSlot d t x).fetched = d.fetched := (Device.setSlot_within d t x (Device.Within.refl 268435464 _) (Nat.and_self _)).part .fetched (by decide)
@[simp] theorem Device.setSlot_tagsFree (d : Device) (t : Nat) (x : ImageSlot) : (Device.setSlot d t x).tagsFree = d.tagsFree := (Device.setSlot_within d t x (Device.Within.refl 268435464 _) (Nat.and_self _)).part .tagsFree (by decide)
@[simp] theorem Device.setSlot_cmds (d : Device) (t : Nat) (x : ImageSlot) : (Device.setSlot d t x).cmds = d.cmds := (Device.setSlot_within d t x (Device.Within.refl 268435464 _) (Nat.and_self _)).part .cmds (by decide)
@[simp] theorem Device.setSlot_events (d : Device) (t : Nat) (x : ImageSlot) : (Device.setSlot d t x).events = d.events := (Device.setSlot_within d t x (Device.Within.refl 268435464 _) (Nat.and_self _)).part .events (by decide)
@[simp] theorem Device.setSlot_ioBacklog (d : Device) (t : Nat) (x : ImageSlot) : (Device.setSlot d t x).ioBacklog = d.ioBacklog := (Device.setSlot_within d t x (Device.Within.refl 268435464 _) (Nat.and_self _)).part .ioBacklog (by decide)
@[simp] theorem Device.setSlot_tiles (d : Device) (t : Nat) (x : ImageSlot) : (Device.setSlot d t x).tiles = d.tiles := (Device.setSlot_within d t x (Device.Within.refl 268435464 _) (Nat.and_self _)).part .tiles (by decide)
@[simp] theorem Device.setSlot_mem (d : Device) (t : Nat) (x : ImageSlot) : (Device.setSlot d t x).mem = d.mem := (Device.setSlot_within d t x (Device.Within.refl 268435464 _) (Nat.and_self _)).part .mem (by decide)
@[simp] theorem Device.setSlot_poison (d : Device) (t : Nat) (x : ImageSlot) : (Device.setSlot d t x).poison = d.poison := (Device.setSlot_within d t x (Device.Within.refl 268435464 _) (Nat.and_self _)).part .poison (by decide)
@[simp] theorem Device.setSlot_host (d : Device) (t : Nat) (x : ImageSlot) : (Device.setSlot d t x).host = d.host := (Device.setSlot_within d t x (Device.Within.refl 268435464 _) (Nat.and_self _)).part .host (by decide)
@[simp] theorem Device.setSlot_bays (d : Device) (t : Nat) (x : ImageSlot) : (Device.setSlot d t x).bays = d.bays := (Device.setSlot_within d t x (Device.Within.refl 268435464 _) (Nat.and_self _)).part .bays (by decide)
@[simp] theorem Device.setSlot_ports (d : Device) (t : Nat) (x : ImageSlot) : (Device.setSlot d t x).ports = d.ports := (Device.setSlot_within d t x (Device.Within.refl 268435464 _) (Nat.and_self _)).part .ports (by decide)
@[simp] theorem Device.setSlot_streams (d : Device) (t : Nat) (x : ImageSlot) : (Device.setSlot d t x).streams = d.streams := (Device.setSlot_within d t x (Device.Within.refl 268435464 _) (Nat.and_self _)).part .streams (by decide)
@[simp] theorem Device.setSlot_curSet (d : Device) (t : Nat) (x : ImageSlot) : (Device.setSlot d t x).curSet = d.curSet := (Device.setSlot_within d t x (Device.Within.refl 268435464 _) (Nat.and_self _)).part .curSet (by decide)
@[simp] theorem Device.setSlot_verA (d : Device) (t : Nat) (x : ImageSlot) : (Device.setSlot d t x).verA = d.verA := (Device.setSlot_within d t x (Device.Within.refl 268435464 _) (Nat.and_self _)).part .verA (by decide)
@[simp] theorem Device.setSlot_verB (d : Device) (t : Nat) (x : ImageSlot) : (Device.setSlot d t x).verB = d.verB := (Device.setSlot_within d t x (Device.Within.refl 268435464 _) (Nat.and_self _)).part .verB (by decide)
@[simp] theorem Device.setSlot_pace (d : Device) (t : Nat) (x : ImageSlot) : (Device.setSlot d t x).pace = d.pace := (Device.setSlot_within d t x (Device.Within.refl 268435464 _) (Nat.and_self _)).part .pace (by decide)
@[simp] theorem Device.setSlot_log (d : Device) (t : Nat) (x : ImageSlot) : (Device.setSlot d t x).log = d.log := (Device.setSlot_within d t x (Device.Within.refl 268435464 _) (Nat.and_self _)).part .log (by decide)
@[simp] theorem Device.setSlot_safety (d : Device) (t : Nat) (x : ImageSlot) : (Device.setSlot d t x).safety = d.safety := (Device.setSlot_within d t x (Device.Within.refl 268435464 _) (Nat.and_self _)).part .safety (by decide)
@[simp] theorem Device.setSlot_images (d : Device) (t : Nat) (x : ImageSlot) : (Device.setSlot d t x).images = d.images := (Device.setSlot_within d t x (Device.Within.refl 268435464 _) (Nat.and_self _)).part .images (by decide)
@[simp] theorem Device.setSlot_out (d : Device) (t : Nat) (x : ImageSlot) : (Device.setSlot d t x).out = d.out := (Device.setSlot_within d t x (Device.Within.refl 268435464 _) (Nat.and_self _)).part .out (by decide)

end Sys2Proof.Machine
end

