-- ==== Sys2Proof/Laws/Recovery.lean ====
section
/-! SUPPORT. Recovery: what the start of rung 2 and the end of a command leave (R252, R357). -/

namespace Sys2Proof.Machine

set_option Elab.async false

/-! ### Filters of sparse data -/

theorem Store.get_filter {α : Type} (d : α) (m : Store α) (p : Nat × α → Bool) (k : Nat) (h : ∀ v, p (k, v) = false) : Store.get d (m.filter p) k = d := by
  induction m with
  | nil => rfl
  | cons a r ih =>
    obtain ⟨j, x⟩ := a
    simp only [List.filter_cons]
    split
    · rename_i hp
      simp only [Store.get]
      split
      · rename_i e; subst e; rw [h] at hp; cases hp
      · exact ih
    · exact ih

/-! ### Bays -/

theorem Device.bay_of_bays {d e : Device} (h : d.bays = e.bays) (k : Nat) : d.bay k = e.bay k := by unfold Device.bay; rw [h]

/-- What the end of a tile operation leaves of a bay: its state and its tiles. -/
def Bay.core (b : Bay) : BayState × List Nat × List Nat × List Nat := (b.state, b.phys, b.spares, b.retired)

theorem Bay.state_of_core {a b : Bay} (h : a.core = b.core) : a.state = b.state := congrArg Prod.fst h

theorem Bay.returnTally_core (b : Bay) (t : Nat) : (b.returnTally t).core = b.core := by unfold Bay.returnTally; split <;> rfl

theorem Bay.opEnded_core (b : Bay) (u v : Bool) (o : TileOp) : (b.opEnded u v o).core = b.core := by
  unfold Bay.opEnded
  dsimp only
  cases o.tally with
  | none => cases u <;> cases v <;> rfl
  | some t =>
    have h := Bay.returnTally_core b t
    cases u <;> cases v <;> exact h

/-- The end of a tile operation leaves every bay in its state, with its tiles. -/
theorem Device.endOp_core (d : Device) (tag i j : Nat) : ((d.endOp tag i).bay j).core = (d.bay j).core := by
  have hw : ∀ e : Device, ((e.dropWaits tag i).bay j).core = (e.bay j).core := by
    intro e
    simp only [Device.bay, Device.dropWaits, Vector.getElem?_map]
    cases e.bays[j]? <;> rfl
  unfold Device.endOp
  split
  · rfl
  · split
    · rfl
    · split
      · rfl
      · rename_i o _ _
        dsimp only
        rw [Device.bay_of_bays (Device.modCmd_bays _ _ _)]
        by_cases hj : j = o.bay
        · subst hj
          by_cases hb : o.bay < 8
          · rw [Device.bay_modBay_same _ hb, Bay.opEnded_core]
            split
            · rw [Device.bay_of_bays (Device.setTile_bays _ _ _)]; exact hw d
            · exact hw d
          · have hn : ∀ e : Device, e.bay o.bay = Bay.fresh := by
              intro e; simp [Device.bay, hb]
            rw [hn, hn]
        · rw [Device.bay_modBay_other _ hj]
          split
          · rw [Device.bay_of_bays (Device.setTile_bays _ _ _)]; exact hw d
          · exact hw d

theorem Device.dropOps_core (d : Device) (tag j : Nat) : ((d.dropOps tag).bay j).core = (d.bay j).core := by
  unfold Device.dropOps
  split
  · rfl
  · rename_i c hc
    clear hc
    generalize List.range c.ops.length = l
    induction l generalizing d with
    | nil => rfl
    | cons a r ih => rw [List.foldl_cons, ih, Device.endOp_core]

theorem Device.failCmd_core (d : Device) (tag st cause bay j : Nat) : ((d.failCmd tag st cause bay).bay j).core = (d.bay j).core := by
  unfold Device.failCmd
  split
  · rfl
  · split
    · rfl
    · split
      · rw [Device.bay_of_bays (Device.modCmd_bays _ _ _)]
      dsimp only
      rw [← Device.dropOps_core d tag j]
      split <;> split <;> simp only [Device.bay_of_bays (Device.count_bays _ _ _), Device.bay_of_bays (Device.poisonEvent_bays _ _), Device.bay_of_bays (Device.modCmd_bays _ _ _)]

theorem Device.failCmd_state (d : Device) (tag st cause bay j : Nat) : ((d.failCmd tag st cause bay).bay j).state = (d.bay j).state := Bay.state_of_core (Device.failCmd_core d tag st cause bay j)

/-! ### Failures -/

theorem Device.cmd_of_cmds {d e : Device} (h : d.cmds = e.cmds) (tag : Nat) : d.cmd tag = e.cmd tag := by unfold Device.cmd; rw [h]

theorem Device.cmd_tag {d : Device} {tag : Nat} {c : Cmd} (h : d.cmd tag = some c) : c.tag = tag := by
  unfold Device.cmd at h
  simpa using List.find?_some h

theorem Device.cmd_modCmd (d : Device) (t tag : Nat) (f : Cmd → Cmd) (hf : ∀ c, (f c).tag = c.tag) :
    (d.modCmd t f).cmd tag = (d.cmd tag).map fun c => if c.tag = t then f c else c := by
  unfold Device.cmd Device.modCmd
  dsimp only
  generalize d.cmds = l
  induction l with
  | nil => rfl
  | cons a r ih =>
    have e : (if a.tag = t then f a else a).tag = a.tag := by split; exact hf a; rfl
    simp only [List.map_cons, List.find?_cons, e]
    cases a.tag == tag with
    | true => rfl
    | false => exact ih

/-- Command `tag` stays in flight, and stays failed where it has failed. -/
structure FailuresStay (tag : Nat) (d0 d : Device) : Prop where
  none : d0.cmd tag = none → d.cmd tag = none
  some : ∀ c, d0.cmd tag = some c → ∃ x, d.cmd tag = some x ∧ (c.failure.isSome = true → x.failure.isSome = true)

theorem FailuresStay.refl (tag : Nat) (d : Device) : FailuresStay tag d d := ⟨id, fun c h => ⟨c, h, id⟩⟩

theorem FailuresStay.trans {tag : Nat} {a b c : Device} (h : FailuresStay tag a b) (g : FailuresStay tag b c) : FailuresStay tag a c := by
  refine ⟨fun x => g.none (h.none x), fun x hx => ?_⟩
  obtain ⟨y, hy, fy⟩ := h.some x hx
  obtain ⟨z, hz, fz⟩ := g.some y hy
  exact ⟨z, hz, fun f => fz (fy f)⟩

theorem FailuresStay.of_cmds {tag : Nat} {a b : Device} (h : b.cmds = a.cmds) : FailuresStay tag a b := by
  refine ⟨fun x => by rw [Device.cmd_of_cmds h]; exact x, fun c hc => ⟨c, by rw [Device.cmd_of_cmds h]; exact hc, id⟩⟩

theorem FailuresStay.modCmd (tag : Nat) (d : Device) (t : Nat) (f : Cmd → Cmd) (ht : ∀ c, (f c).tag = c.tag) (hf : ∀ c, c.failure.isSome = true → (f c).failure.isSome = true) :
    FailuresStay tag d (d.modCmd t f) := by
  refine ⟨fun h => by rw [Device.cmd_modCmd _ _ _ _ ht, h]; rfl, fun c hc => ⟨if c.tag = t then f c else c, by rw [Device.cmd_modCmd _ _ _ _ ht, hc]; rfl, fun hk => ?_⟩⟩
  split
  · exact hf c hk
  · exact hk

theorem FailuresStay.fold {β : Type} (tag : Nat) (f : Device → β → Device) (h : ∀ d x, FailuresStay tag d (f d x)) (l : List β) (d : Device) :
    FailuresStay tag d (l.foldl f d) := by
  induction l generalizing d with
  | nil => exact FailuresStay.refl tag d
  | cons a r ih => exact (h d a).trans (ih (f d a))

theorem FailuresStay.endOp (tag : Nat) (d : Device) (t i : Nat) : FailuresStay tag d (d.endOp t i) := by
  unfold Device.endOp
  split
  · exact FailuresStay.refl tag d
  · split
    · exact FailuresStay.refl tag d
    · split
      · exact FailuresStay.refl tag d
      · refine FailuresStay.trans ?_ (FailuresStay.modCmd tag _ t _ (fun _ => rfl) (fun _ h => h))
        refine FailuresStay.of_cmds ?_
        rw [Device.modBay_cmds]
        split <;> rfl

theorem FailuresStay.dropOps (tag : Nat) (d : Device) (t : Nat) : FailuresStay tag d (d.dropOps t) := by
  unfold Device.dropOps
  split
  · exact FailuresStay.refl tag d
  · exact FailuresStay.fold tag _ (fun d i => FailuresStay.endOp tag d t i) _ _

theorem failCmd_cmds (d : Device) (t st cause bay : Nat) (c : Cmd) (hc : d.cmd t = some c) (hf : c.failure.isSome = false) (hst : st ≠ csHeld) :
    (d.failCmd t st cause bay).cmds = ((d.dropOps t).modCmd t fun c => { c with failure := some ⟨st % 65536, cause, bay⟩, trips := [] }).cmds := by
  unfold Device.failCmd
  rw [hc]
  simp only [hf, hst, Bool.false_eq_true, if_false]
  split <;> split <;> simp only [Device.count_cmds, Device.poisonEvent_cmds]

/-- An access that met a paused row only marks its command (R214). -/
theorem failCmd_held (d : Device) (t cause bay : Nat) (c : Cmd) (hc : d.cmd t = some c) (hf : c.failure.isSome = false) :
    d.failCmd t csHeld cause bay = d.modCmd t fun c => { c with failure := some ⟨csHeld, 0, 0xFF⟩ } := by
  unfold Device.failCmd
  rw [hc]
  simp only [hf, Bool.false_eq_true, if_false, if_true]

theorem FailuresStay.failCmd (tag : Nat) (d : Device) (t st cause bay : Nat) : FailuresStay tag d (d.failCmd t st cause bay) := by
  cases hc : d.cmd t with
  | none => unfold Device.failCmd; rw [hc]; exact FailuresStay.refl tag d
  | some c =>
    cases hf : c.failure.isSome with
    | true => unfold Device.failCmd; rw [hc]; simp only [hf, if_true]; exact FailuresStay.refl tag d
    | false =>
      by_cases hst : st = csHeld
      · rw [hst, failCmd_held d t cause bay c hc hf]
        exact FailuresStay.modCmd tag d t _ (fun _ => rfl) (fun _ _ => rfl)
      exact ((FailuresStay.dropOps tag d t).trans (FailuresStay.modCmd tag _ t (fun c => { c with failure := Option.some ⟨st % 65536, cause, bay⟩, trips := [] }) (fun _ => rfl) (fun _ _ => rfl))).trans
        (FailuresStay.of_cmds (failCmd_cmds d t st cause bay c hc hf hst))

/-- A command that is failed has failed. -/
theorem failCmd_failed (d : Device) (t st cause bay : Nat) (c : Cmd) (hc : d.cmd t = some c) : ∃ x, (d.failCmd t st cause bay).cmd t = some x ∧ x.failure.isSome = true := by
  cases hf : c.failure.isSome with
  | true =>
    obtain ⟨x, hx, h⟩ := (FailuresStay.failCmd t d t st cause bay).some c hc
    exact ⟨x, hx, h hf⟩
  | false =>
    by_cases hst : st = csHeld
    · rw [hst, failCmd_held d t cause bay c hc hf, Device.cmd_modCmd _ t t (fun c => { c with failure := some ⟨csHeld, 0, 0xFF⟩ }) (fun _ => rfl), hc]
      refine ⟨{ c with failure := some ⟨csHeld, 0, 0xFF⟩ }, ?_, rfl⟩
      simp only [Option.map_some, Device.cmd_tag hc, if_true]
    obtain ⟨y, hy, -⟩ := (FailuresStay.dropOps t d t).some c hc
    refine ⟨{ y with failure := some ⟨st % 65536, cause, bay⟩, trips := [] }, ?_, rfl⟩
    rw [Device.cmd_of_cmds (failCmd_cmds d t st cause bay c hc hf hst)]
    rw [Device.cmd_modCmd _ t t (fun c => { c with failure := some ⟨st % 65536, cause, bay⟩, trips := [] }) (fun _ => rfl), hy]
    simp only [Option.map_some, Device.cmd_tag hy, if_true]

/-- A command that had not failed fails with the status it is given. -/
theorem failCmd_status (d : Device) (t st cause bay : Nat) (c : Cmd) (hc : d.cmd t = some c) (hf : c.failure = none) (hst : st ≠ csHeld) :
    ∃ x, (d.failCmd t st cause bay).cmd t = some x ∧ x.failure = some ⟨st % 65536, cause, bay⟩ := by
  obtain ⟨y, hy, -⟩ := (FailuresStay.dropOps t d t).some c hc
  refine ⟨{ y with failure := some ⟨st % 65536, cause, bay⟩, trips := [] }, ?_, rfl⟩
  rw [Device.cmd_of_cmds (failCmd_cmds d t st cause bay c hc (by rw [hf]; rfl) hst)]
  rw [Device.cmd_modCmd _ t t (fun c => { c with failure := some ⟨st % 65536, cause, bay⟩, trips := [] }) (fun _ => rfl), hy]
  simp only [Option.map_some, Device.cmd_tag hy, if_true]

theorem FailuresStay.abortBut (tag : Nat) (d : Device) (c : Cmd) (k : Nat) : FailuresStay tag d (d.abortBut c k) := FailuresStay.of_cmds (Device.abortBut_cmds d c k)

theorem FailuresStay.abort (tag : Nat) (d : Device) (c : Cmd) : FailuresStay tag d (d.abort c) := FailuresStay.of_cmds (Device.abort_cmds d c)

theorem Device.failBay_failed (d : Device) (k cause : Nat) (c : Cmd) (hm : c ∈ d.cmds) (hc : d.cmd c.tag = some c) (hu : c.usesBay d k = true) :
    ∃ x, (d.failBay k cause).cmd c.tag = some x ∧ x.failure.isSome = true := by
  unfold Device.failBay
  dsimp only
  have step : ∀ (e : Device) (y : Cmd), FailuresStay c.tag e ((e.failCmd y.tag csBayReset cause k).abortBut y k) := fun e y =>
    (FailuresStay.failCmd c.tag e y.tag _ _ _).trans (FailuresStay.abortBut c.tag _ y k)
  cases hf : c.failure.isSome with
  | true =>
    obtain ⟨x, hx, h⟩ := (FailuresStay.fold c.tag (fun d (y : Cmd) => (d.failCmd y.tag csBayReset cause k).abortBut y k) step (d.cmds.filter fun c => c.usesBay d k && c.failure.isNone) d).some c hc
    exact ⟨x, hx, h hf⟩
  | false =>
    have hin : c ∈ d.cmds.filter fun c => c.usesBay d k && c.failure.isNone := by
      rw [List.mem_filter]; refine ⟨hm, ?_⟩; rw [hu]; cases hx : c.failure with
      | none => rfl
      | some y => rw [hx] at hf; cases hf
    generalize (d.cmds.filter fun c => c.usesBay d k && c.failure.isNone) = l at hin ⊢
    obtain ⟨l1, l2, rfl⟩ := List.append_of_mem hin
    rw [List.foldl_append, List.foldl_cons]
    obtain ⟨y, hy, -⟩ := (FailuresStay.fold c.tag (fun d (y : Cmd) => (d.failCmd y.tag csBayReset cause k).abortBut y k) step l1 d).some c hc
    obtain ⟨z, hz, hzf⟩ := failCmd_failed _ c.tag csBayReset cause k y hy
    obtain ⟨w, hw, hwf⟩ := (FailuresStay.abortBut c.tag _ c k).some z hz
    obtain ⟨v, hv, hvf⟩ := (FailuresStay.fold c.tag (fun d (y : Cmd) => (d.failCmd y.tag csBayReset cause k).abortBut y k) step l2 _).some w hw
    exact ⟨v, hv, hvf (hwf hzf)⟩

theorem Device.failBay_core (d : Device) (k cause j : Nat) : ((d.failBay k cause).bay j).core = (d.bay j).core := by
  unfold Device.failBay
  dsimp only
  generalize (d.cmds.filter fun c => c.usesBay d k && c.failure.isNone) = l
  induction l generalizing d with
  | nil => rfl
  | cons a r ih => rw [List.foldl_cons, ih, Device.bay_of_bays (Device.abortBut_bays _ _ _), Device.failCmd_core]

theorem Device.failBay_state (d : Device) (k cause j : Nat) : ((d.failBay k cause).bay j).state = (d.bay j).state := Bay.state_of_core (Device.failBay_core d k cause j)

/-! ### Rung 2 -/

/-- What the start of rung 2 of a bay leaves (R357). -/
theorem Device.bayReset_begun (d : Device) (k cause : Nat) (w : Blame) (hk : k < 8) (ho : d.bayOut k = false) : ResetBegun d (d.bayReset k cause w) k := by
  have e : ∃ d1 : Device, d1 = (((d.failBay k cause).clearTiles k).clearSram k).modBay k (fun b =>
      { b.booksFull with state := .reset, takeOver := none, nesting := max 1 (d.bay k).nesting, resetEnd := d.now + 2000000 }) ∧
      (d.bayReset k cause w).bays = d1.bays ∧ (d.bayReset k cause w).tiles = d1.tiles ∧ (d.bayReset k cause w).mem = d1.mem ∧ (d.bayReset k cause w).cmds = d1.cmds := by
    refine ⟨_, rfl, ?_⟩
    unfold Device.bayReset
    simp only [ho, Bool.false_eq_true, if_false]
    simp
  obtain ⟨d1, h1, hb, ht, hm, hc⟩ := e
  have hbay : (d.bayReset k cause w).bay k = { ((((d.failBay k cause).clearTiles k).clearSram k).bay k).booksFull with
      state := .reset, takeOver := none, nesting := max 1 (d.bay k).nesting, resetEnd := d.now + 2000000 } :=
    (Device.bay_of_bays hb k).trans (by rw [h1]; exact Device.bay_modBay_same _ hk _)
  refine ⟨by rw [hbay], by rw [hbay], by rw [hbay]; simp only [Bay.booksFull, and_self], by rw [hbay]; rfl, by rw [hbay]; exact ⟨rfl, rfl⟩, fun t htt => ?_, fun a ha => ?_, fun a ha => ?_, fun c hc1 hc2 hc3 => ?_, fun j hj => ?_⟩
  · unfold Device.tile
    rw [ht, h1]
    refine Store.get_filter _ _ _ _ fun v => ?_
    have : tileKey k t / 1280 = k := by unfold tileKey; omega
    simp [this]
  · unfold Mem.byte
    rw [hm, h1]
    refine Store.get_filter _ _ _ _ fun v => ?_
    simp; omega
  · unfold Mem.byte
    rw [hm, h1]
    refine Store.get_filter _ _ _ _ fun v => ?_
    simp; omega
  · obtain ⟨x, hx, hf⟩ := Device.failBay_failed d k cause c hc1 hc2 hc3
    refine ⟨x, ?_, hf⟩
    rw [Device.cmd_of_cmds hc, h1]
    exact hx
  · rw [Device.bay_of_bays hb, h1, Device.bay_modBay_other _ hj]
    exact Device.failBay_state d k cause j

theorem Device.failCmd_safety_of (d : Device) (tag st cause bay : Nat) (h1 : st % 65536 ≠ csData) (h2 : st % 65536 ≠ csCheck) : (d.failCmd tag st cause bay).safety = d.safety := by
  unfold Device.failCmd
  split
  · rfl
  · split
    · rfl
    · split
      · exact Device.modCmd_safety _ _ _
      · simp only [h1, h2, if_false, Device.modCmd_safety, Device.dropOps_safety]

/-- The safety state differs at most in the count of frames sent. -/
structure OnlySends (d0 d : Device) : Prop where
  errors : d.safety.errors = d0.safety.errors
  counters : ∀ a, a ≠ 0x806001 → d.counter a = d0.counter a

theorem OnlySends.of_safety {d0 d : Device} (h : d.safety = d0.safety) : OnlySends d0 d := ⟨by rw [h], fun a _ => by unfold Device.counter; rw [h]⟩

theorem OnlySends.trans {a b c : Device} (h : OnlySends a b) (g : OnlySends b c) : OnlySends a c :=
  ⟨g.errors.trans h.errors, fun x hx => (g.counters x hx).trans (h.counters x hx)⟩

theorem OnlySends.fold {β : Type} (f : Device → β → Device) (h : ∀ d x, OnlySends d (f d x)) (l : List β) (d : Device) : OnlySends d (l.foldl f d) := by
  induction l generalizing d with
  | nil => exact OnlySends.of_safety rfl
  | cons a r ih => exact (h d a).trans (ih (f d a))

theorem OnlySends.send (d : Device) (k : Nat) (f : Frame) : OnlySends d (d.send k f) := by
  unfold Device.send Device.pump
  exact ⟨rfl, fun a ha => by rw [Device.counter_count_other _ ha]; rfl⟩

theorem OnlySends.abort (d : Device) (c : Cmd) (k : Nat) : OnlySends d (d.abortBut c k) := by
  unfold Device.abortBut
  split
  · refine OnlySends.fold _ (fun d x => ?_) _ _
    split
    · exact OnlySends.send _ _ _
    · exact OnlySends.of_safety rfl
  · exact OnlySends.of_safety rfl

theorem OnlySends.failBay (d : Device) (k cause : Nat) : OnlySends d (d.failBay k cause) := by
  unfold Device.failBay
  dsimp only
  exact OnlySends.fold _ (fun d c => (OnlySends.of_safety (Device.failCmd_safety_of d _ _ _ _ (by decide) (by decide))).trans (OnlySends.abort _ c k)) _ _

theorem OnlySends.bayReset (d : Device) (k cause : Nat) (w : Blame) : OnlySends d (d.bayReset k cause w) := by
  unfold Device.bayReset
  split
  · exact OnlySends.of_safety rfl
  · refine OnlySends.trans (OnlySends.failBay d k cause) ⟨?_, fun a _ => ?_⟩ <;> simp [Device.counter] <;> rfl

/-- Whether a command uses a bay does not depend on the bays' own state, nor on what is counted or recorded of them. -/
theorem Cmd.usesBay_bays (c : Cmd) (d : Device) (bs : Vector Bay 8) (ps : List Nat) (k : Nat) : c.usesBay { d with bays := bs, poison := ps } k = c.usesBay d k := rfl

theorem ResetBegun.of_like {d0 e d : Device} {k : Nat} (h : ResetBegun e d k) (hu : ∀ c : Cmd, c.usesBay e k = c.usesBay d0 k) (hn : e.now = d0.now) (hc : e.cmds = d0.cmds) (hs : ∀ j, j ≠ k → (e.bay j).state = (d0.bay j).state) :
    ResetBegun d0 d k :=
  ⟨h.state, by rw [h.due, hn], h.tags, h.slots, h.tokens, h.idle, h.dieBuffer, h.scratchpads,
    fun c hc1 hc2 hc3 => h.failed c (by rw [hc]; exact hc1) (by rw [Device.cmd_of_cmds hc]; exact hc2) (by rw [hu]; exact hc3), fun j hj => (h.others j hj).trans (hs j hj)⟩

/-! ### Alerts -/

theorem Device.raise_safety' (d : Device) (v : Nat) : (d.raise v).safety = d.safety := Device.raise_safety d v

theorem Device.alert_word (d : Device) (b : Nat) : (d.alert b).safety.alert = d.safety.alert ||| (if d.safety.alert.toNat.testBit b then 0 else BitVec.ofNat 32 (2 ^ b)) := by
  unfold Device.alert
  split
  · simp
  · simp [Device.raise_safety]

theorem Device.alert_set (d : Device) (b : Nat) (hb : b < 32) : (d.alert b).safety.alert.toNat.testBit b = true := by
  rw [Device.alert_word]
  split
  · rename_i h; simpa using h
  · simp only [BitVec.toNat_or, BitVec.toNat_ofNat, Nat.testBit_or, Nat.testBit_mod_two_pow, Nat.testBit_two_pow_self, hb, decide_true, Bool.and_self, Bool.or_true]

/-! ### Out of service -/

theorem FailuresStay.stopPort (tag : Nat) (d : Device) (k : Nat) : FailuresStay tag d (d.stopPort k) := by
  unfold Device.stopPort
  refine FailuresStay.trans ?_ (FailuresStay.of_cmds (Device.modPort_cmds _ _ _))
  refine FailuresStay.fold tag _ (fun d t => ?_) _ _
  exact FailuresStay.modCmd tag d _ _ (fun _ => rfl) (fun _ h => h)

theorem Device.stopPort_state (d : Device) (k : Nat) (hk : k < 8) : ((d.stopPort k).port k).state = 4 := by
  unfold Device.stopPort
  simp [Device.port, Device.modPort, Device.setPort, hk]

/-- What going out of service leaves (R358). -/
theorem Device.outOfService_gone (d : Device) (k reason : Nat) (w : Blame) (hk : k < 8) (ho : d.bayOut k = false) : BayGone d (d.outOfService k reason w) k := by
  have e : ∃ (cause : Nat) (d1 : Device) (ev : Event), d1 = (((d.failBay k cause).clearTiles k).modBay k fun b => { b.booksFull with state := .out, takeOver := none, nesting := 0, resetEnd := 0 }) ∧
      d.outOfService k reason w = ((d1.stopPort k).logEvent ev).alert 0 := by
    refine ⟨(if reason = 0 then 0x03 else 0x05), _, { type := 0x05, nesting := w.nesting, bay := k, tag := w.tag, mech := w.mech, detail := leBytes 1 reason }, rfl, ?_⟩
    unfold Device.outOfService
    simp only [ho, Bool.false_eq_true, if_false]
  obtain ⟨cause, d1, ev, h1, h2⟩ := e
  have hb : (d.outOfService k reason w).bays = d1.bays := by rw [h2]; simp
  have ht : (d.outOfService k reason w).tiles = d1.tiles := by rw [h2]; simp
  have hp : (d.outOfService k reason w).ports = (d1.stopPort k).ports := by rw [h2]; simp
  have hc : (d.outOfService k reason w).cmds = (d1.stopPort k).cmds := by rw [h2]; simp
  have hbay : (d.outOfService k reason w).bay k = { (((d.failBay k cause).clearTiles k).bay k).booksFull with state := .out, takeOver := none, nesting := 0, resetEnd := 0 } :=
    (Device.bay_of_bays hb k).trans (by rw [h1]; exact Device.bay_modBay_same _ hk _)
  refine ⟨by rw [hbay], by rw [hbay]; rfl, fun t htt => ?_, ?_, by rw [h2]; exact Device.alert_set _ 0 (by decide), fun c hc1 hc2 hc3 => ?_, fun j hj => ?_⟩
  · unfold Device.tile
    rw [ht, h1]
    refine Store.get_filter _ _ _ _ fun v => ?_
    have : tileKey k t / 1280 = k := by unfold tileKey; omega
    simp [this]
  · unfold Device.port; rw [hp]; exact Device.stopPort_state d1 k hk
  · obtain ⟨x, hx, hf⟩ := Device.failBay_failed d k cause c hc1 hc2 hc3
    obtain ⟨y, hy, hg⟩ := (FailuresStay.stopPort c.tag d1 k).some x (by rw [h1]; exact hx)
    exact ⟨y, by rw [Device.cmd_of_cmds hc]; exact hy, hg hf⟩
  · rw [Device.bay_of_bays hb, h1, Device.bay_modBay_other _ hj]
    exact Device.failBay_state d k cause j

/-- A bay that goes out of service leaves the other bays their state and tiles. -/
theorem Device.outOfService_core (d : Device) (k reason : Nat) (w : Blame) (j : Nat) (hj : j ≠ k) : ((d.outOfService k reason w).bay j).core = (d.bay j).core := by
  unfold Device.outOfService
  split
  · rfl
  · dsimp only
    rw [Device.bay_of_bays (Device.alert_bays _ _), Device.bay_of_bays (Device.logEvent_bays _ _), Device.bay_of_bays (Device.stopPort_bays _ _), Device.bay_modBay_other _ hj]
    exact Device.failBay_core d k _ j

theorem BayGone.of_like {d0 e d : Device} {k : Nat} (h : BayGone e d k) (hu : ∀ c : Cmd, c.usesBay e k = c.usesBay d0 k) (hc : e.cmds = d0.cmds) (hs : ∀ j, j ≠ k → (e.bay j).state = (d0.bay j).state) : BayGone d0 d k :=
  ⟨h.state, h.slots, h.idle, h.port, h.alert, fun c hc1 hc2 hc3 => h.failed c (by rw [hc]; exact hc1) (by rw [Device.cmd_of_cmds hc]; exact hc2) (by rw [hu]; exact hc3),
    fun j hj => (h.others j hj).trans (hs j hj)⟩

/-! ### The end of a pair's commands (R357) -/

/-- Every command of `d` was one of `d0`, on the same queue pair. -/
def Traces (d0 d : Device) : Prop := ∀ c, c ∈ d.cmds → ∃ b, b ∈ d0.cmds ∧ b.tag = c.tag ∧ b.qp = c.qp

theorem Traces.refl (d : Device) : Traces d d := fun c h => ⟨c, h, rfl, rfl⟩

theorem Traces.trans {a b c : Device} (h : Traces a b) (g : Traces b c) : Traces a c := by
  intro x hx
  obtain ⟨y, hy, e1, e2⟩ := g x hx
  obtain ⟨z, hz, e3, e4⟩ := h y hy
  exact ⟨z, hz, e3.trans e1, e4.trans e2⟩

theorem Traces.of_cmds {a b : Device} (h : b.cmds = a.cmds) : Traces a b := by intro c hc; rw [h] at hc; exact ⟨c, hc, rfl, rfl⟩

theorem Traces.modCmd (d : Device) (t : Nat) (f : Cmd → Cmd) (h : ∀ c, (f c).tag = c.tag ∧ (f c).qp = c.qp) : Traces d (d.modCmd t f) := by
  intro c hc
  obtain ⟨b, hb, rfl⟩ := List.mem_map.mp (show c ∈ d.cmds.map _ from hc)
  refine ⟨b, hb, ?_⟩
  split
  · exact ⟨(h b).1.symm, (h b).2.symm⟩
  · exact ⟨rfl, rfl⟩

theorem Traces.fold {β : Type} (f : Device → β → Device) (h : ∀ d x, Traces d (f d x)) (l : List β) (d : Device) : Traces d (l.foldl f d) := by
  induction l generalizing d with
  | nil => exact Traces.refl d
  | cons a r ih => exact (h d a).trans (ih (f d a))

theorem Traces.endOp (d : Device) (t i : Nat) : Traces d (d.endOp t i) := by
  unfold Device.endOp
  split
  · exact Traces.refl d
  · split
    · exact Traces.refl d
    · split
      · exact Traces.refl d
      · refine Traces.trans ?_ (Traces.modCmd _ t _ (fun _ => ⟨rfl, rfl⟩))
        refine Traces.of_cmds ?_
        rw [Device.modBay_cmds]
        split <;> rfl

theorem Traces.failCmd (d : Device) (t st cause bay : Nat) : Traces d (d.failCmd t st cause bay) := by
  cases hc : d.cmd t with
  | none => unfold Device.failCmd; rw [hc]; exact Traces.refl d
  | some c =>
    cases hf : c.failure.isSome with
    | true => unfold Device.failCmd; rw [hc]; simp only [hf, if_true]; exact Traces.refl d
    | false =>
      by_cases hst : st = csHeld
      · rw [hst, failCmd_held d t cause bay c hc hf]
        exact Traces.modCmd d t _ (fun _ => ⟨rfl, rfl⟩)
      have h1 : Traces d (d.dropOps t) := by
        unfold Device.dropOps
        split
        · exact Traces.refl d
        · exact Traces.fold _ (fun d i => Traces.endOp d t i) _ _
      exact (h1.trans (Traces.modCmd _ t (fun c => { c with failure := Option.some ⟨st % 65536, cause, bay⟩, trips := [] }) (fun _ => ⟨rfl, rfl⟩))).trans
        (Traces.of_cmds (failCmd_cmds d t st cause bay c hc hf hst))

/-- A command that ends is in flight no more, and no other takes its tag. -/
theorem Device.finish_traces (d : Device) (tag : Nat) : Traces d (d.finish tag) ∧ ∀ c, c ∈ (d.finish tag).cmds → c.tag ≠ tag := by
  unfold Device.finish
  cases hc : d.cmd tag with
  | none =>
    refine ⟨Traces.refl d, fun c hm => ?_⟩
    unfold Device.cmd at hc
    rw [List.find?_eq_none] at hc
    simpa using hc c hm
  | some c0 =>
    dsimp only
    generalize hx : d.settleTokens.closeOut c0 = x
    have hxc : x.1.cmds = d.cmds := by
      rw [← hx]
      exact (Device.Within.part (Device.closeOut_within d.settleTokens c0 (Device.Within.refl 4429430784 _) (Nat.and_self _)) .cmds (by decide)).trans (Device.settleTokens_cmds d)
    have hm : ∀ c, c ∈ (d.wakeFabric ((((x.1.report { c0 with flags := c0.flags ||| flagIf x.2 fLedger }).signal { c0 with flags := c0.flags ||| flagIf x.2 fLedger }).giveBack
        { c0 with flags := c0.flags ||| flagIf x.2 fLedger }).drop tag)).cmds → ∃ b, b ∈ d.cmds ∧ b.tag = c.tag ∧ b.qp = c.qp ∧ b.tag ≠ tag := by
      intro c hc'
      unfold Device.wakeFabric at hc'
      dsimp only at hc'
      obtain ⟨b, hb, rfl⟩ := List.mem_map.mp hc'
      unfold Device.drop at hb
      dsimp only at hb
      obtain ⟨a, ha, rfl⟩ := List.mem_map.mp hb
      obtain ⟨ha1, ha2⟩ := List.mem_filter.mp ha
      rw [Device.giveBack_cmds, Device.signal_cmds, Device.report_cmds, hxc] at ha1
      refine ⟨a, ha1, ?_⟩
      split <;> exact ⟨rfl, rfl, by simpa using ha2⟩
    refine ⟨fun c h => ?_, fun c h => ?_⟩
    · obtain ⟨b, h1, h2, h3, -⟩ := hm c h
      exact ⟨b, h1, h2, h3⟩
    · obtain ⟨b, h1, h2, h3, h4⟩ := hm c h
      rw [← h2]; exact h4

/-! ### The state of a queue pair (R226, R357) -/

theorem Device.queue_of_queues {d e : Device} (h : d.queues = e.queues) (j : Nat) : d.queue j = e.queue j := by unfold Device.queue; rw [h]

theorem Device.putRecord_state (d : Device) (q kind : Nat) (rest : List Byte) (j : Nat) : ((d.putRecord q kind rest).queue j).state = (d.queue j).state := by
  unfold Device.putRecord
  dsimp only
  by_cases h : j = q
  · subst h
    by_cases hq : j < 64
    · rw [Device.queue_setQueue_same _ hq]
    · have hn : ∀ e : Device, e.queue j = QPair.fresh := by intro e; simp [Device.queue, hq]
      rw [hn, hn]
  · rw [Device.queue_setQueue_other _ h]
    rfl

theorem Device.writeCompletion_state (d : Device) (c : Cmd) (j : Nat) : ((d.writeCompletion c).queue j).state = (d.queue j).state := by
  unfold Device.writeCompletion
  split
  · rfl
  · rename_i q _
    dsimp only
    have e : ((d.putRecord q.val 2 (completionBytes d c)).drew (if c.failure.isSome then 9 else 0)).queues = (d.putRecord q.val 2 (completionBytes d c)).queues := rfl
    generalize (d.putRecord q.val 2 (completionBytes d c)).drew (if c.failure.isSome then 9 else 0) = x at e
    rw [← Device.putRecord_state d q.val 2 (completionBytes d c) j, ← Device.queue_of_queues e]
    split
    · rw [Device.queue_of_queues (Device.raise_queues _ _)]
    · rfl

theorem Device.report_state (d : Device) (c : Cmd) (j : Nat) : ((d.report c).queue j).state = (d.queue j).state := by
  rw [← Device.writeCompletion_state d c j]
  unfold Device.report
  dsimp only
  generalize d.writeCompletion c = x
  split <;> split <;> simp only [Device.queue_of_queues (Device.count_queues _ _ _), Device.queue_of_queues (Device.logEvent_queues _ _)]

theorem Device.finish_state (d : Device) (tag j : Nat) : ((d.finish tag).queue j).state = (d.queue j).state := by
  unfold Device.finish
  cases hc : d.cmd tag with
  | none => rfl
  | some c0 =>
    dsimp only
    generalize hx : d.settleTokens.closeOut c0 = x
    have hxc : x.1.queues = d.queues := by
      rw [← hx]
      exact (Device.Within.part (Device.closeOut_within d.settleTokens c0 (Device.Within.refl 4429430784 _) (Nat.and_self _)) .queues (by decide)).trans (Device.settleTokens_queues d)
    have e : ∀ y : Device, (d.wakeFabric (y.drop tag)).queues = y.queues := fun _ => rfl
    rw [Device.queue_of_queues (e _), Device.queue_of_queues (Device.giveBack_queues _ _), Device.queue_of_queues (Device.signal_queues _ _), Device.report_state,
      Device.queue_of_queues hxc]

theorem Device.abortCmds_state (d : Device) (which : Cmd → Bool) (j : Nat) : ((d.abortCmds which).queue j).state = (d.queue j).state := by
  unfold Device.abortCmds
  generalize d.cmds.filter which = l
  induction l generalizing d with
  | nil => rfl
  | cons a r ih =>
    rw [List.foldl_cons, ih, Device.finish_state, Device.queue_of_queues (Device.abort_queues _ _), Device.queue_of_queues (Device.failCmd_queues _ _ _ _ _)]

/-- Rung 2 of a queue pair leaves the other pairs in their states. -/
theorem Device.pairReset_state (d : Device) (q mech j : Nat) (h : j ≠ q) : ((d.pairReset q mech).queue j).state = (d.queue j).state := by
  unfold Device.pairReset
  dsimp only
  rw [Device.queue_of_queues (Device.rungSeen_queues _ _), Device.queue_of_queues (Device.logEvent_queues _ _), Device.queue_setQueue_other _ h]
  exact Device.abortCmds_state d _ j

/-- After rung 2 of a queue pair no command of the pair is in flight. -/
theorem Device.abortCmds_none (d : Device) (which : Cmd → Bool) (hw : ∀ a b : Cmd, a.qp = b.qp → which a = which b) (c : Cmd) (hc : c ∈ (d.abortCmds which).cmds) : which c = false := by
  cases hwc : which c with
  | false => rfl
  | true =>
    exfalso
    unfold Device.abortCmds at hc
    have step : ∀ (e : Device) (y : Cmd), Traces e (((e.failCmd y.tag csAborted 0 0xFF).abort y).finish y.tag) := fun e y =>
      ((Traces.failCmd e y.tag _ _ _).trans (Traces.of_cmds (Device.abort_cmds _ y))).trans (Device.finish_traces _ _).1
    obtain ⟨b, hb, h1, h2⟩ := Traces.fold (fun (d : Device) (y : Cmd) => ((d.failCmd y.tag csAborted 0 0xFF).abort y).finish y.tag) step (d.cmds.filter which) d c hc
    have hin : b ∈ d.cmds.filter which := List.mem_filter.mpr ⟨hb, (hw b c h2).trans hwc⟩
    obtain ⟨l1, l2, hl⟩ := List.append_of_mem hin
    rw [hl, List.foldl_append, List.foldl_cons] at hc
    obtain ⟨z, hz, h3, -⟩ := Traces.fold (fun (d : Device) (y : Cmd) => ((d.failCmd y.tag csAborted 0 0xFF).abort y).finish y.tag) step l2 _ c hc
    exact (Device.finish_traces _ b.tag).2 z hz (h3.trans h1.symm)

theorem Device.pairReset_done (d : Device) (q : Fin 64) (mech : Nat) : PairReset (d.pairReset q.val mech) q := by
  unfold Device.pairReset
  dsimp only
  refine ⟨?_, fun f hf => ?_, fun c hc he => ?_⟩
  · have h : ∀ (e : Device) (ev : Event), ((((e.setQueue q.val QPair.fresh).logEvent ev).rungSeen 2)).queue q.val = QPair.fresh := by
      intro e ev
      unfold Device.queue
      rw [Device.rungSeen_queues, Device.logEvent_queues]
      exact Device.queue_setQueue_same e q.isLt _
    exact h _ _
  · rw [Device.rungSeen_fetched, Device.logEvent_fetched] at hf
    have := (List.mem_filter.mp (show f ∈ List.filter _ _ from hf)).2
    intro h
    subst h
    simp at this
  · rw [Device.rungSeen_cmds, Device.logEvent_cmds] at hc
    have := Device.abortCmds_none d _ (fun a b h => by rw [h]) c hc
    rw [he] at this
    simp at this

/-! ### Rung 3 (R357) -/

theorem Device.logEvent_owner (d : Device) (e : Event) : (d.logEvent e).dict.owner = d.dict.owner := by
  unfold Device.logEvent
  split
  · split
    · rfl
    · split <;> rfl
  · unfold Device.pushRec
    dsimp only
    split <;> rfl

theorem Device.closeSession_owner (d : Device) (k : Nat) (h : d.dict.owner = 0) : (d.closeSession k).dict.owner = 0 := by
  unfold Device.closeSession
  have : ¬ (d.dict.owner = 0x10 + k) := by omega
  simp only [this, if_false]
  exact h

/-- Programming cut short leaves the dictionary but for the generation of a slot's header (R432). -/
theorem Device.loadCut_facts (d : Device) : d.loadCut.dict.sessions = d.dict.sessions ∧ d.loadCut.dict.nonceCount = d.dict.nonceCount ∧ d.loadCut.dict.requests = d.dict.requests ∧
    d.loadCut.dict.owner = d.dict.owner ∧ d.loadCut.dict.vals = d.dict.vals := by
  unfold Device.loadCut; split <;> exact ⟨rfl, rfl, rfl, rfl, rfl⟩

theorem Device.setOwner_owner (d : Device) : (d.setOwner 0).dict.owner = 0 := by
  unfold Device.setOwner
  split
  · assumption
  · exact (Device.loadCut_facts _).2.2.2.1

theorem Device.rebuildLog_owner (d : Device) : d.rebuildLog.dict.owner = d.dict.owner := by
  unfold Device.rebuildLog
  dsimp only
  split
  · rfl
  · exact Device.logEvent_owner _ _

theorem Device.clearWork_power (d : Device) : d.clearWork.power = d.power :=
  (Device.clearWork_within d (Device.Within.refl 1240660986 d) (Nat.and_self _)).part .power (by decide)

/-- What the start of rung 3 leaves (R357). -/
theorem Device.rung3_begun (d0 : Device) (o : ResetOrigin) (n : Nat) (w : Blame) : RungThree (d0.rung3 o n w) := by
  have e : ∃ (d2 : Device) (f : PowerDom → PowerDom) (u : Outputs → Outputs) (g : Safety → Safety) (ev : Event),
      d0.rung3 o n w = ((((d2.clearWork.withPower f).withOut u).withSafety g).rebuildLog.logEvent ev).rungSeen 3 ∧
      (∀ p, (f p).phase = .resetting ∧ (f p).powerState = 0) ∧ d2.dict.owner = 0 := by
    unfold Device.rung3
    dsimp only
    have ho : ([0, 1, 2, 3].foldl (fun d k => d.closeSession k) ((d0.abortCmds fun _ => true).setOwner 0)).dict.owner = 0 := by
      simp only [List.foldl_cons, List.foldl_nil]
      exact Device.closeSession_owner _ _ (Device.closeSession_owner _ _ (Device.closeSession_owner _ _ (Device.closeSession_owner _ _ (Device.setOwner_owner _))))
    revert ho
    generalize [0, 1, 2, 3].foldl (fun d k => d.closeSession k) ((d0.abortCmds fun _ => true).setOwner 0) = d2
    intro ho
    exact ⟨d2, _, _, _, _, rfl, fun _ => ⟨rfl, rfl⟩, ho⟩
  obtain ⟨d2, f, u, g, ev, h, hf, ho⟩ := e
  rw [h]
  have hb : (((((d2.clearWork.withPower f).withOut u).withSafety g).rebuildLog.logEvent ev).rungSeen 3).bays = d2.clearWork.bays := by simp
  have ht : (((((d2.clearWork.withPower f).withOut u).withSafety g).rebuildLog.logEvent ev).rungSeen 3).tagsFree = d2.clearWork.tagsFree := by simp
  refine ⟨by simp; rfl, by simp; rfl, by simp; rfl, by simp; rfl, by rw [ht]; unfold Device.clearWork; dsimp only, by simp; rfl, ?_, by simp [hf], by simp [hf], fun k hk => ?_⟩
  · show (Device.logEvent _ _).dict.owner = 0
    rw [Device.logEvent_owner, Device.rebuildLog_owner]
    exact ho
  · rw [Device.bay_of_bays hb]
    unfold Device.clearWork
    simp only [Device.bay, Vector.getElem?_map]
    cases hx : (List.foldl (fun d k => (d.clearSram k).clearTiles k) d2 (List.range 8)).bays[k]? with
    | none => exfalso; simp [hk] at hx
    | some b =>
      simp only [Option.map_some, Option.getD_some]
      cases hs : (b.state == BayState.out) with
      | true => exact Or.inl (if_pos rfl)
      | false => exact Or.inr (if_neg (by decide))

/-! ### Readiness (R359) -/

theorem Bay.goodTiles_of_core {a b : Bay} (h : a.core = b.core) : a.goodTiles = b.goodTiles := by
  have : a.retired = b.retired := congrArg (fun x => x.2.2.2) h
  unfold Bay.goodTiles
  rw [this]

theorem BayEntered.of_core {a b b' : Bay} (h : BayEntered a b) (e : b'.core = b.core) : BayEntered a b' := by
  have h1 : b'.state = b.state := congrArg Prod.fst e
  have h2 : b'.phys = b.phys := congrArg (fun x => x.2.1) e
  have h3 : b'.spares = b.spares := congrArg (fun x => x.2.2.1) e
  refine ⟨fun h' => by rw [h1]; exact h.stays h', fun h' => by rw [h1]; exact h.few h', fun x y => ?_⟩
  rw [h1, h2, h3]
  exact h.runs x y

theorem BayEntered.from_core {a a' b : Bay} (h : BayEntered a b) (e : a'.core = a.core) : BayEntered a' b := by
  have h1 : a'.state = a.state := congrArg Prod.fst e
  have h2 := Bay.goodTiles_of_core e
  refine ⟨fun h' => h.stays (h1 ▸ h'), fun h' => h.few (h2 ▸ h'), fun x y => ?_⟩
  rw [h2] at y ⊢
  exact h.runs (h1 ▸ x) y

theorem Device.bayEnter_core (d : Device) (a i : Nat) (h : i ≠ a) : ((d.bayEnter a).bay i).core = (d.bay i).core := by
  unfold Device.bayEnter
  split
  · rfl
  · dsimp only
    split
    · rw [Device.outOfService_core _ _ _ _ _ h, Device.bay_setBay_other _ h]
    · rw [Device.bay_setBay_other _ h]

theorem Device.bayEnter_entered (d : Device) (a : Nat) (ha : a < 8) : BayEntered (d.bay a) ((d.bayEnter a).bay a) := by
  unfold Device.bayEnter
  by_cases ho : d.bayOut a = true
  · rw [if_pos ho]
    have : (d.bay a).state = .out := by simpa [Device.bayOut] using ho
    exact ⟨fun _ => this, fun _ => this, fun h => absurd this h⟩
  · rw [if_neg ho]
    have hno : (d.bay a).state ≠ .out := by simpa [Device.bayOut] using ho
    dsimp only
    unfold Bay.assign
    generalize hg : (d.bay a).goodTiles = g
    have hl : (g.take 1280).length < 1280 ↔ g.length < 1280 := by rw [List.length_take]; omega
    dsimp only
    split
    · rename_i h
      have hout := (Device.outOfService_gone (d.setBay a { d.bay a with phys := g.take 1280, spares := g.drop 1280 }) a 4 {} ha (by
        unfold Device.bayOut; rw [Device.bay_setBay_same _ ha]; simpa using hno)).state
      exact ⟨fun _ => hout, fun _ => hout, fun _ h' => absurd (hl.mp h) (by rw [hg] at h'; omega)⟩
    · rename_i h
      rw [Device.bay_setBay_same _ ha]
      refine ⟨fun h' => absurd h' hno, fun h' => absurd (hl.mpr (hg ▸ h')) h, fun _ _ => ?_⟩
      rw [hg]
      exact ⟨rfl, rfl, rfl⟩

theorem Device.bayEnter_fold (k : Nat) (l : List Nat) (d : Device) (h8 : ∀ j ∈ l, j < 8) (hn : l.Nodup) :
    (k ∉ l → ((l.foldl (fun d k => d.bayEnter k) d).bay k).core = (d.bay k).core) ∧ (k ∈ l → BayEntered (d.bay k) ((l.foldl (fun d k => d.bayEnter k) d).bay k)) := by
  induction l generalizing d with
  | nil => exact ⟨fun _ => rfl, fun h => by cases h⟩
  | cons a r ih =>
    obtain ⟨hna, hnr⟩ := List.nodup_cons.mp hn
    obtain ⟨i1, i2⟩ := ih (d.bayEnter a) (fun j hj => h8 j (List.mem_cons_of_mem _ hj)) hnr
    rw [List.foldl_cons]
    by_cases hka : k = a
    · subst hka
      exact ⟨fun h => absurd List.mem_cons_self h, fun _ => (d.bayEnter_entered k (h8 k List.mem_cons_self)).of_core (i1 hna)⟩
    · have hc := d.bayEnter_core a k hka
      refine ⟨fun h => (i1 fun h' => h (List.mem_cons_of_mem _ h')).trans hc, fun h => ?_⟩
      rcases List.mem_cons.mp h with h | h
      · exact absurd h hka
      · exact (i2 h).from_core hc.symm

/-- Every bay has entered service at readiness. -/
theorem Device.bays_entered (d : Device) (k : Nat) (hk : k < 8) : BayEntered (d.bay k) (((List.range 8).foldl (fun d k => d.bayEnter k) d).bay k) :=
  (Device.bayEnter_fold k (List.range 8) d (fun j hj => by simpa using hj) List.nodup_range).2 (by simpa using hk)

/-! ### Numbers of retired tiles (R358) -/

theorem foldl_min_mem (l : List Nat) (a : Nat) : l.foldl min a ∈ a :: l := by
  induction l generalizing a with
  | nil => simp
  | cons x r ih =>
    have h := ih (min a x)
    simp only [List.foldl_cons, List.mem_cons] at h ⊢
    rcases h with h | h
    · rw [h]
      rcases Nat.le_total a x with l | l
      · exact .inl (Nat.min_eq_left l)
      · exact .inr (.inl (Nat.min_eq_right l))
    · exact .inr (.inr h)

/-- A number that finds a spare slate takes it: the tile is one of the spares, and no other number moves. -/
theorem Bay.placeNumber_places (b : Bay) (t : Nat) (ht : t < b.phys.length) (hs : b.spares ≠ []) :
    ∃ m, m ∈ b.spares ∧ (b.placeNumber t).physOf t = m ∧ (b.placeNumber t).spares = b.spares.erase m ∧ (b.placeNumber t).retired = b.retired ∧
      (b.placeNumber t).state = b.state ∧ (b.placeNumber t).phys.length = b.phys.length ∧ ∀ u, u ≠ t → (b.placeNumber t).physOf u = b.physOf u := by
  obtain ⟨s, ss, h⟩ := List.exists_cons_of_ne_nil hs
  refine ⟨ss.foldl min s, by rw [h]; exact foldl_min_mem ss s, ?_⟩
  have e : b.placeNumber t = { b with phys := b.phys.set t (ss.foldl min s), spares := b.spares.erase (ss.foldl min s) } := by
    unfold Bay.placeNumber; rw [h]
  rw [e]
  refine ⟨by simp [Bay.physOf, List.getD, ht], rfl, rfl, rfl, by simp, fun u hu => ?_⟩
  simp [Bay.physOf, List.getD, List.getElem?_set_ne (Ne.symm hu)]

/-- With a good spare slate for each of them, numbers of a list all come to stand on tiles off the retired list, and the other numbers stay. -/
theorem Bay.placeNumber_fold (l : List Nat) (b : Bay) (hl : ∀ t, t ∈ l → t < b.phys.length) (hn : l.length ≤ b.spares.length)
    (hg : ∀ p, p ∈ b.spares → p ∉ b.retired) :
    (l.foldl Bay.placeNumber b).retired = b.retired ∧ (l.foldl Bay.placeNumber b).state = b.state ∧
      ∀ t, (t ∈ l ∨ b.physOf t ∉ b.retired) → (l.foldl Bay.placeNumber b).physOf t ∉ b.retired := by
  induction l generalizing b with
  | nil => exact ⟨rfl, rfl, fun t h => h.elim (fun h => absurd h (by simp)) id⟩
  | cons x r ih =>
    have hs : b.spares ≠ [] := by intro h; rw [h] at hn; simp at hn
    obtain ⟨m, hm, hx, hsp, hr, hst, hlen, ho⟩ := b.placeNumber_places x (hl x (by simp)) hs
    have h := ih (b.placeNumber x) (fun t h => by rw [hlen]; exact hl t (by simp [h]))
      (by rw [hsp, List.length_erase_of_mem hm]; simp at hn; omega)
      (fun p hp => by rw [hr]; rw [hsp] at hp; exact hg p (List.mem_of_mem_erase hp))
    rw [hr, hst] at h
    refine ⟨h.1, h.2.1, fun t ht => h.2.2 t ?_⟩
    by_cases e : t = x
    · exact .inr (by rw [e, hx]; exact hg m hm)
    · rw [ho t e]
      exact ht.imp_left fun h => by simpa [e] using h

/-- The numbers of a bay whose spare slates suffice stand on no retired tile once they are placed (R351, R358). -/
theorem Bay.unplaced_placed (b : Bay) (hl : b.phys.length = 1280) (hg : ∀ p, p ∈ b.spares → p ∉ b.retired) (hs : b.lacksSpare = false) (t : Nat) (ht : t < 1280) :
    (b.unplaced.foldl Bay.placeNumber b).physOf t ∉ (b.unplaced.foldl Bay.placeNumber b).retired := by
  have hu : ∀ t, t ∈ b.unplaced ↔ t < 1280 ∧ b.physOf t ∈ b.retired := fun t => by simp [Bay.unplaced]
  have h := Bay.placeNumber_fold b.unplaced b (fun t h => by rw [hl]; exact ((hu t).1 h).1) (by simpa [Bay.lacksSpare] using hs) hg
  rw [h.1]
  exact h.2.2 t (by by_cases hp : b.physOf t ∈ b.retired <;> simp [hu, ht, hp])

end Sys2Proof.Machine
end

