-- ==== Sys2Proof/Laws/Dictionary.lean ====
section
/-! SUPPORT. The dictionary's sessions, ownership and paths (R402, R403, R406 to R412). -/

namespace Sys2Proof.Machine

set_option Elab.async false

/-- A datagram that is not acceptable is only counted (R406, R407). -/
theorem Device.brynuoFrame_bad (d : Device) (f : BrFrame) (k o : Nat) (h : Device → BrHead → Device) (hl : d.listens = true) (hb : (f.linkLocal && f.hop == 255 && f.plain && f.udpOk) = false ∨ parseBr f = none) :
    d.brynuoFrame f k o h = d.count 0x80B009 1 := by
  unfold Device.brynuoFrame
  rw [if_neg (by rw [hl]; simp)]
  split
  · rfl
  · rename_i hx
    rcases hb with hb | hb
    · rw [hb] at hx; simp at hx
    · rw [hb]

/-- A datagram of a row goes to its handler. -/
theorem Device.brynuoFrame_of (d : Device) (f : BrFrame) (k o : Nat) (m : BrHead) (h : Device → BrHead → Device) (r : Received d f k o m) : d.brynuoFrame f k o h = h d m := by
  unfold Device.brynuoFrame
  rw [if_neg (by rw [r.listens]; simp), if_neg (by rw [r.sound]; simp), r.parsed]
  exact if_pos ⟨r.kind, r.op⟩

theorem Device.mgmtUp_of_listens (d : Device) (h : d.listens = true) : d.dict.mgmtUp = true := by unfold Device.listens at h; simp at h; exact h.1.1

theorem Device.transmit_brynuo (d : Device) (m : BrMsg) (h : d.dict.mgmtUp = true) : (d.transmit m).out.brynuo = if d.dict.plcaStopped then d.out.brynuo else m.wire :: d.out.brynuo := by
  unfold Device.transmit; rw [h]; cases d.dict.plcaStopped <;> rfl

theorem Device.session_of_dict {a b : Device} (h : a.dict.sessions = b.dict.sessions) (k : Nat) : a.session k = b.session k := by unfold Device.session; rw [h]

theorem Device.sent_session (X : Device) (a n : Nat) (msg : BrMsg) (j : Nat) : ((X.count a n).transmit msg).session j = X.session j := Device.session_of_dict (by rw [Device.transmit_dict]; rfl) j

theorem Device.touch_session (X : Device) (a j : Nat) : (X.touch a).session j = X.session j := rfl

theorem Device.session_modSession (d : Device) (k j : Nat) (hk : k < 4) (f : Session → Session) : (d.modSession k f).session j = if j = k then f (d.session k) else d.session j := by
  unfold Device.modSession Device.session
  show (d.dict.sessions.setIfInBounds k (f _))[j]?.getD _ = _
  by_cases h : j = k
  · subst h; simp [hk]
  · rw [if_neg h, Vector.getElem?_setIfInBounds_ne (Ne.symm h)]

theorem Dict.dropSeg_facts (x : Dict) (p : Path) : (x.dropSeg p).sessions = x.sessions ∧ (x.dropSeg p).nonceCount = x.nonceCount ∧ (x.dropSeg p).requests = x.requests ∧ (x.dropSeg p).vals = x.vals := by
  unfold Dict.dropSeg
  cases p <;> split <;> exact ⟨rfl, rfl, rfl, rfl⟩

/-- What giving up a pending segment leaves. -/
theorem Dict.disown_facts (x : Dict) : x.disown.sessions = x.sessions ∧ x.disown.nonceCount = x.nonceCount ∧ x.disown.requests = x.requests ∧ x.disown.vals = x.vals := by
  unfold Dict.disown
  cases ownerPath x.owner with
  | none => exact ⟨rfl, rfl, rfl, rfl⟩
  | some p => exact Dict.dropSeg_facts x p

/-- What a change of owner leaves of the dictionary (R402). -/
theorem Device.setOwner_facts (d : Device) (o : Nat) : (d.setOwner o).dict.sessions = d.dict.sessions ∧ (d.setOwner o).dict.nonceCount = d.dict.nonceCount ∧ (d.setOwner o).dict.requests = d.dict.requests ∧ (d.setOwner o).dict.owner = o ∧ (d.setOwner o).dict.vals = d.dict.vals := by
  unfold Device.setOwner
  split
  · rename_i h; exact ⟨rfl, rfl, rfl, h, rfl⟩
  · obtain ⟨a, b, c, e⟩ := Dict.disown_facts d.dict
    obtain ⟨v, w, x, y, z⟩ := Device.loadCut_facts ((d.withDict fun x => { x.disown with owner := o, ownerSince := d.now }).count 0x80B006 1)
    exact ⟨v.trans a, w.trans b, x.trans c, y.trans rfl, z.trans e⟩

/-- What closing a session leaves (R403, R409). -/
theorem Device.closeSession_facts (d : Device) (k : Nat) (hk : k < 4) : (∀ j, (d.closeSession k).session j = if j = k then Session.closed else d.session j) ∧ (d.closeSession k).dict.nonceCount = d.dict.nonceCount ∧
    (d.closeSession k).dict.requests = d.dict.requests.filter (fun q => !(pathIsSession k q.path)) ∧ (d.closeSession k).dict.owner = (if d.dict.owner = 0x10 + k then 0 else d.dict.owner) ∧ (d.closeSession k).dict.vals = d.dict.vals := by
  unfold Device.closeSession
  dsimp only
  generalize hX : (if d.dict.owner = 16 + k then d.setOwner 0 else d) = X
  have hx : X.dict.sessions = d.dict.sessions ∧ X.dict.nonceCount = d.dict.nonceCount ∧ X.dict.requests = d.dict.requests ∧ X.dict.owner = (if d.dict.owner = 0x10 + k then 0 else d.dict.owner) ∧ X.dict.vals = d.dict.vals := by
    rw [← hX]
    split
    · exact Device.setOwner_facts d 0
    · exact ⟨rfl, rfl, rfl, rfl, rfl⟩
  obtain ⟨h1, h2, h3, h4, h5⟩ := hx
  refine ⟨fun j => ?_, h2, (congrArg (List.filter fun (q : DictReq) => !(pathIsSession k q.path)) h3 : _), h4, h5⟩
  unfold Device.session
  show (X.dict.sessions.setIfInBounds k Session.closed)[j]?.getD _ = _
  rw [h1]
  by_cases h : j = k
  · subst h; simp [hk]
  · rw [if_neg h, Vector.getElem?_setIfInBounds_ne (Ne.symm h)]

/-- The next request of a session is taken up (R409, R410). -/
theorem Device.inSession_next (d : Device) (m : BrHead) (k : Fin 4) (h : Device → Nat → Device) (n : NextInSession d m k) : ∃ d2 : Device, d.inSession m h = h d2 k.val ∧ d2.session k.val = (d.session k.val).taken d.now m.seq ∧
    (∀ j, j ≠ k.val → d2.session j = d.session j) ∧ d2.out = d.out ∧ d2.cmds = d.cmds ∧ d2.now = d.now ∧ d2.dict.requests = d.dict.requests ∧ d2.dict.owner = d.dict.owner ∧ d2.dict.mgmtUp = d.dict.mgmtUp ∧ d2.dict.plcaStopped = d.dict.plcaStopped := by
  refine ⟨(((d.modSession m.session fun s => { s with lastReq := d.now }).touch (0x110101 + m.session)).modSession m.session fun s => { s with lastSeq := m.seq, cached := none, busy := true }), ?_, ?_, fun j hj => ?_, rfl, rfl, rfl, rfl, rfl, rfl, rfl⟩
  · unfold Device.inSession
    have hw := n.which
    rw [if_neg (by rw [n.clean]; simp)]
    dsimp only
    rw [if_neg (by rw [hw, n.live, n.nonce]; simp)]
    have hne : m.seq ≠ (d.session k.val).lastSeq := by
      have := n.seq; omega
    rw [if_neg (by rw [hw]; rintro ⟨h, -⟩; exact hne h), if_pos (by rw [hw]; exact n.seq), hw]
  · rw [n.which, Device.session_modSession _ _ _ k.isLt, if_pos rfl]
    have : ((d.modSession k.val fun s => { s with lastReq := d.now }).touch (0x110101 + k.val)).session k.val = (d.modSession k.val fun s => { s with lastReq := d.now }).session k.val := rfl
    rw [this, Device.session_modSession _ _ _ k.isLt, if_pos rfl]
    rfl
  · rw [n.which, Device.session_modSession _ _ _ k.isLt, if_neg hj]
    have : ((d.modSession k.val fun s => { s with lastReq := d.now }).touch (0x110101 + k.val)).session j = (d.modSession k.val fun s => { s with lastReq := d.now }).session j := rfl
    rw [this, Device.session_modSession _ _ _ k.isLt, if_neg hj]

/-- An answer is sent and kept (R410). -/
theorem Device.respond_facts (d : Device) (k : Fin 4) (m : BrMsg) (h1 : (d.session k.val).live = true) (h2 : (d.session k.val).nonce = m.nonce) (h3 : (d.session k.val).lastSeq = m.seq) (hu : d.dict.mgmtUp = true) :
    (d.respond k.val m).session k.val = { d.session k.val with cached := some m, busy := false } ∧ (d.respond k.val m).out.brynuo = (if d.dict.plcaStopped then d.out.brynuo else m.wire :: d.out.brynuo) ∧
    (d.respond k.val m).dict.requests = d.dict.requests ∧ (d.respond k.val m).dict.owner = d.dict.owner := by
  unfold Device.respond
  dsimp only
  have hd : ((d.count 0x80B001 1).transmit m).dict = d.dict := Device.transmit_dict _ _
  have ho : ((d.count 0x80B001 1).transmit m).out.brynuo = (if d.dict.plcaStopped then d.out.brynuo else m.wire :: d.out.brynuo) := Device.transmit_brynuo _ _ hu
  generalize (d.count 0x80B001 1).transmit m = X at *
  have hs : X.dict.sessions[k.val]? = some (d.session k.val) := by
    rw [hd]; unfold Device.session; simp
  rw [hs]
  dsimp only
  rw [if_pos ⟨h1, h2, h3⟩]
  refine ⟨?_, ho, by show X.dict.requests = _; rw [hd], by show X.dict.owner = _; rw [hd]⟩
  unfold Device.session
  show (X.dict.sessions.setIfInBounds k.val _)[k.val]?.getD _ = _
  simp

theorem Dict.path_setPath (x : Dict) (p : Path) (v : PathState) : (x.setPath p v).path p = v ∧ (x.setPath p v).vals = x.vals ∧ (x.setPath p v).owner = x.owner := by
  cases p
  · exact ⟨rfl, rfl, rfl⟩
  · exact ⟨rfl, rfl, rfl⟩
  · refine ⟨?_, rfl, rfl⟩
    simp [Dict.setPath, Dict.path]

theorem Device.transmit_fold (l : List Notice) (g : Notice → BrMsg) (d : Device) : (l.foldl (fun d n => d.transmit (g n)) d).dict = d.dict ∧
    (l.foldl (fun d n => d.transmit (g n)) d).out.brynuo = (if d.dict.mgmtUp && !d.dict.plcaStopped then (l.map fun n => (g n).wire).reverse else []) ++ d.out.brynuo := by
  induction l generalizing d with
  | nil => refine ⟨rfl, ?_⟩; split <;> rfl
  | cons a r ih =>
    rw [List.foldl_cons]
    obtain ⟨h1, h2⟩ := ih (d.transmit (g a))
    have hd : (d.transmit (g a)).dict = d.dict := by unfold Device.transmit; split <;> rfl
    refine ⟨h1.trans hd, ?_⟩
    rw [h2, hd]
    unfold Device.transmit
    split
    · rename_i h
      simp
    · rfl

theorem Device.notices_eq (p : Notice → Bool) (l : List Notice) (now : Nat) : ((l.filter fun n => !(p n) || decide (n.resends < 3)).map fun n => if p n = true then { n with resends := n.resends + 1, lastAt := now } else n) =
    l.filterMap fun n => if p n = false then some n else if n.resends < 3 then some { n with resends := n.resends + 1, lastAt := now } else none := by
  induction l with
  | nil => rfl
  | cons a r ih =>
    rw [List.filterMap_cons, List.filter_cons]
    cases c : p a with
    | false =>
      simp [c, ih]
    | true =>
      by_cases e : a.resends < 3
      · simp [c, e, ih]
      · simp [e, ih]

/-- The notifications of a session after a resend (R412). -/
theorem Device.resendNotices_eq (d : Device) (k : Nat) (h : (d.session k).live = true) : d.resendNotices k = ((d.session k).notices.filter fun n => n.due d.now && decide (n.resends < 3)).foldl (fun e n => e.transmit (noticeMsg k n.seq (d.session k) n.word))
    (d.modSession k fun x => { x with notices := (d.session k).notices.filterMap fun n => if n.due d.now = false then some n else if n.resends < 3 then some { n with resends := n.resends + 1, lastAt := d.now } else none }) := by
  rw [← Device.notices_eq fun n => n.due d.now]
  unfold Device.resendNotices
  dsimp only
  rw [if_pos h]

/-! ### The in-band window (R413) -/

/-- A busy window holds some command word; proofs need not know which. -/
theorem Device.dictBusy_shape (d : Device) (w : Bool) (a : Nat) : ∃ c, d.dictBusy w a = d.withDict fun x => { x with inband := { x.inband with busy := true, cmd := c } } := ⟨_, rfl⟩

/-! ### Writes (R391, R393, R397) -/

theorem Device.serveMany_idle (n : Nat) (d : Device) (h : d.dict.requests = []) : Device.serveMany n d = d := by
  induction n with
  | zero => rfl
  | succ n ih =>
    unfold Device.serveMany
    have : d.serveNext .good = d := by
      unfold Device.serveNext Device.waiting
      rw [h]
      rfl
    rw [this]
    exact ih

/-- A whole value over a path with nothing pending is checked and, where it is granted, applied; the path keeps the status. -/
theorem Device.directWrite_judged (d : Device) (p : Path) (a : Nat) (bs : List Byte) (st : Nat) (h : Judges d p a bs st) :
    ∃ g, d.directWrite p a bs = (if st = dsOk then (d.arrives p).applyWrite p a bs else d.arrives p).record p ⟨st, a, [], false, g⟩ := by
  have hseg : ((d.arrives p).path p).seg = none := by
    rw [← h.whole]
    cases p <;> rfl
  have hw : (d.arrives p).wholeWrite p a bs = (if st = dsOk then (d.arrives p).applyWrite p a bs else d.arrives p, st) := by
    unfold Device.wholeWrite
    have hans := h.answer
    by_cases hp : p = .spi
    · rw [if_pos hp]
      unfold Device.writeWhole
      have e : (if p = .spi ∧ isLong a = true then dsTypeLength else dsOk) = if isLong a = true then dsTypeLength else dsOk := by simp [hp]
      rw [e] at hans
      dsimp only
      rw [hans]
      split
      · rename_i h1; rw [h1]
      · rfl
    · rw [if_neg hp]
      have e : (if p = .spi ∧ isLong a = true then dsTypeLength else dsOk) = dsOk := by simp [hp]
      rw [e] at hans
      unfold Device.serveWrite
      dsimp only
      rw [hseg]
      dsimp only
      rw [hseg]
      dsimp only
      rw [if_neg (by simp)]
      rw [if_pos rfl]
      unfold Device.writeWhole
      dsimp only
      rw [hans]
      split
      · rename_i h1; rw [h1]
      · rfl
  refine ⟨(if st = dsOk then (d.arrives p).applyWrite p a bs else d.arrives p).genOf p a, ?_⟩
  unfold Device.directWrite
  rw [if_pos h.reaches, Device.serveMany_idle _ _ h.first]
  dsimp only
  rw [hw]

/-- What a record of an answer leaves. -/
theorem Device.record_result (d : Device) (p : Path) (r : DictResult) : ((d.record p r).path p).result = r ∧ (d.record p r).dict.vals = d.dict.vals ∧ (d.record p r).dict.owner = d.dict.owner := by
  have h := Dict.path_setPath d.dict p { d.dict.path p with result := r }
  have e : (d.record p r).path p = { d.dict.path p with result := r } := h.1
  exact ⟨by rw [e], h.2.1, h.2.2⟩

theorem Device.modBay_core (d : Device) (k j : Nat) (f : Bay → Bay) (hf : ∀ b, (f b).core = b.core) : ((d.modBay k f).bay j).core = (d.bay j).core := by
  by_cases h : j = k
  · subst h
    by_cases h8 : j < 8
    · rw [Device.bay_modBay_same _ h8, hf]
    · have hn : ∀ e : Device, e.bay j = Bay.fresh := by intro e; simp [Device.bay, h8]
      rw [hn, hn]
  · rw [Device.bay_modBay_other _ h]

theorem Device.ratesMove_core (d : Device) (j : Nat) : (d.ratesMove.bay j).core = (d.bay j).core := by
  have fold : ∀ (f : Device → Nat → Device), (∀ e k, ((f e k).bay j).core = (e.bay j).core) → ∀ (l : List Nat) (e : Device), ((l.foldl f e).bay j).core = (e.bay j).core := by
    intro f hf l
    induction l with
    | nil => intro e; rfl
    | cons a r ih => intro e; rw [List.foldl_cons, ih, hf]
  have h1 : (d.settleTokens.bay j).core = (d.bay j).core := by
    unfold Device.settleTokens
    generalize List.range 8 = l
    refine fold (fun d k => d.takeTokens k 0) (fun e k => ?_) l d
    unfold Device.takeTokens
    exact Device.modBay_core e k j _ fun _ => rfl
  have h2 : ∀ e : Device, (e.settleBuckets.bay j).core = (e.bay j).core := by
    intro e
    unfold Device.settleBuckets
    generalize List.range 8 = l
    exact fold (fun x k => x.modBay k fun b => { b with bucket := x.bucketNow k, bucketAt := x.now }) (fun x k => Device.modBay_core x k j _ fun _ => rfl) l e
  unfold Device.ratesMove
  rw [h2, h1]

theorem Device.storeValue_core (d : Device) (p : Path) (a : Nat) (bs : List Byte) (j : Nat) : ((d.storeValue p a bs).bay j).core = (d.bay j).core := by
  unfold Device.storeValue
  dsimp only
  generalize hX : (if a = 0x900101 then d else d.ratesMove.touch a) = X
  have hx : (X.bay j).core = (d.bay j).core := by
    rw [← hX]
    split
    · rfl
    · have ht : ∀ Y : Device, ((Y.touch a).bay j).core = (Y.bay j).core := fun _ => rfl
      rw [ht, Device.ratesMove_core]
  rw [← hx]
  clear hX hx
  have hc : ∀ Y : Device, (Y.commit.bay j).core = (Y.bay j).core := fun Y => by rw [Device.bay_of_bays (Device.commit_bays Y)]
  have hk : ∀ (b : Bool) (f : Dict → Dict), ((if b = true then X.withDict f else X).bay j).core = (X.bay j).core := by intro b f; cases b <;> rfl
  have hn : ∀ (b : Bool) (Y : Device), ((if b = true then Y.commit else Y).bay j).core = (Y.bay j).core := by
    intro b Y
    cases b
    · rfl
    · exact hc Y
  rw [hn, hk]

end Sys2Proof.Machine
end

