-- ==== Sys2Proof/Laws/Recipe.lean ====
section
/-! SUPPORT. The vector unit: what a step writes lane by lane (R182 to R186). -/

namespace Sys2Proof.Machine

set_option Elab.async false

/-- A register step writes the lanes it acts in and nothing else. -/
theorem VuCtx.setRegs_written (v : VuCtx) (w : StepWord) (f : Nat → VRes) (ls : List Nat) :
    (∀ l, l ∈ ls → (v.setRegs w ls f).regs.get 0 (l * 16 + w.dst.toNat) = (f l).w) ∧
    (∀ k, (∀ l, l ∈ ls → k ≠ l * 16 + w.dst.toNat) → (v.setRegs w ls f).regs.get 0 k = v.regs.get 0 k) ∧
    (v.setRegs w ls f).flags = ls.foldl (fun x l => x ||| (f l).flags) v.flags ∧
    v.setRegs w ls f = { v with regs := (v.setRegs w ls f).regs, flags := (v.setRegs w ls f).flags } := by
  induction ls generalizing v with
  | nil => refine ⟨by simp, by simp [VuCtx.setRegs], rfl, rfl⟩
  | cons a r ih =>
    have h := ih { v with regs := v.regs.put 0 (a * 16 + w.dst.toNat) (f a).w, flags := v.flags ||| (f a).flags }
    have e : v.setRegs w (a :: r) f = VuCtx.setRegs { v with regs := v.regs.put 0 (a * 16 + w.dst.toNat) (f a).w, flags := v.flags ||| (f a).flags } w r f := rfl
    rw [e]
    obtain ⟨h1, h2, h3, h4⟩ := h
    refine ⟨?_, ?_, ?_, ?_⟩
    · intro l hl
      by_cases hr : l ∈ r
      · exact h1 l hr
      · have : l = a := by simpa [hr] using hl
        subst this
        rw [h2]
        · exact Store.get_put_same
        · intro l' hl' he
          exact hr (by have : l' = l := by omega
                       rwa [← this])
    · intro k hk
      rw [h2 k (fun l hl => hk l (by simp [hl]))]
      exact Store.get_put_other (hk a (by simp))
    · exact h3
    · exact h4

/-- A mask step writes the lanes it acts in and nothing else. -/
theorem VuCtx.setMasks_written (v : VuCtx) (w : StepWord) (f : Nat → Bool) (ls : List Nat) (hl : ∀ l ∈ ls, True) :
    (∀ l, l ∈ ls → (v.setMasks w ls f).masks.get false (l * 4 + (w.dst.toNat - 28)) = f l) ∧
    (∀ k, (∀ l, l ∈ ls → k ≠ l * 4 + (w.dst.toNat - 28)) → (v.setMasks w ls f).masks.get false k = v.masks.get false k) ∧
    v.setMasks w ls f = { v with masks := (v.setMasks w ls f).masks } := by
  induction ls generalizing v with
  | nil => refine ⟨by simp, by simp [VuCtx.setMasks], rfl⟩
  | cons a r ih =>
    have h := ih { v with masks := v.masks.put false (a * 4 + (w.dst.toNat - 28)) (f a) } (fun _ _ => trivial)
    have e : v.setMasks w (a :: r) f = VuCtx.setMasks { v with masks := v.masks.put false (a * 4 + (w.dst.toNat - 28)) (f a) } w r f := rfl
    rw [e]
    obtain ⟨h1, h2, h4⟩ := h
    refine ⟨?_, ?_, ?_⟩
    · intro l hl
      by_cases hr : l ∈ r
      · exact h1 l hr
      · have : l = a := by simpa [hr] using hl
        subst this
        rw [h2]
        · exact Store.get_put_same
        · intro l' hl' he
          exact hr (by have : l' = l := by omega
                       rwa [← this])
    · intro k hk
      rw [h2 k (fun l hl => hk l (by simp [hl]))]
      exact Store.get_put_other (hk a (by simp))
    · exact h4

/-- A reduction takes each lane it acts in into that lane. -/
theorem VuCtx.reduce_taken (v : VuCtx) (op : Nat) (w : StepWord) : PartialsTaken v (v.reduce op w) op w := by
  have nd : (v.lanes w).Nodup := List.Pairwise.filter _ List.nodup_range
  have key : ∀ (ls : List Nat) (u : VuCtx), ls.Nodup → u = { v with parts := u.parts, flags := u.flags } →
      let g := fun (v : VuCtx) l =>
        let key := v.pc * 64 + l
        let p := (v.parts.get none key).getD (redId op)
        let r := redOp op p (v.src w l w.a)
        ({ v with parts := v.parts.put none key (some r.w), flags := v.flags ||| r.flags } : VuCtx)
      (∀ l, l ∈ ls → (ls.foldl g u).parts.get none (v.pc * 64 + l) = some (redOp op ((u.parts.get none (v.pc * 64 + l)).getD (redId op)) (v.src w l w.a)).w) ∧
      (∀ k, (∀ l, l ∈ ls → k ≠ v.pc * 64 + l) → (ls.foldl g u).parts.get none k = u.parts.get none k) ∧
      ls.foldl g u = { v with parts := (ls.foldl g u).parts, flags := (ls.foldl g u).flags } := by
    intro ls
    induction ls with
    | nil => intro u _ hu; exact ⟨by simp, by simp, hu⟩
    | cons a r ih =>
      intro u hn hu g
      have hg : g u a = { v with parts := (g u a).parts, flags := (g u a).flags } := by
        rw [hu]
      have hp : u.pc = v.pc := by rw [hu]
      have hs : u.src w a w.a = v.src w a w.a := by rw [hu]; rfl
      obtain ⟨h1, h2, h3⟩ := ih (g u a) (List.nodup_cons.1 hn).2 hg
      have hnot := (List.nodup_cons.1 hn).1
      refine ⟨?_, ?_, h3⟩
      · intro l hl
        simp only [List.foldl_cons]
        by_cases hr : l ∈ r
        · rw [h1 l hr]
          have : (g u a).parts.get none (v.pc * 64 + l) = u.parts.get none (v.pc * 64 + l) := by
            refine Store.get_put_other ?_
            rw [hp]; intro he; have : l = a := by omega
            exact hnot (this ▸ hr)
          rw [this]
        · have : l = a := by simpa [hr] using hl
          subst this
          rw [h2]
          · simp only [g, hp, hs]; exact Store.get_put_same
          · intro l' hl' he; have : l' = l := by omega
            exact hr (this ▸ hl')
      · intro k hk
        simp only [List.foldl_cons]
        rw [h2 k (fun l hl => hk l (by simp [hl]))]
        refine Store.get_put_other ?_
        rw [hp]; exact hk a (by simp)
  obtain ⟨a, b, c⟩ := key (v.lanes w) v nd rfl
  exact ⟨a, b, c⟩

theorem VuCtx.combine_place (v : VuCtx) : v.combine.pass = v.pass ∧ v.combine.pc = v.pc := by
  unfold VuCtx.combine
  have key : ∀ (l : List (((Nat × StepWord) × Nat) × Nat)) (g : VuCtx → ((Nat × StepWord) × Nat) × Nat → VuCtx),
      (∀ u x, (g u x).pass = u.pass ∧ (g u x).pc = u.pc) → ∀ u : VuCtx, (l.foldl g u).pass = u.pass ∧ (l.foldl g u).pc = u.pc := by
    intro l g hg
    induction l with
    | nil => intro u; exact ⟨rfl, rfl⟩
    | cons a r ih => intro u; simp only [List.foldl_cons]; rw [(ih _).1, (ih _).2]; exact hg u a
  dsimp only
  exact key _ _ (by intro u x; exact ⟨rfl, rfl⟩) v

theorem allOk_map {α β : Type} (f : α → Except Nat β) (g : α → β) : ∀ (l : List α), (∀ x, x ∈ l → f x = .ok (g x)) → allOk f l = .ok (l.map g)
  | [], _ => rfl
  | x :: r, h => by simp [allOk, h x (by simp), allOk_map f g r (fun y hy => h y (by simp [hy]))]

theorem Device.open_served_mem (d e : Device) (h : e = { d with mem := e.mem, poison := e.poison }) (a n : Nat) : e.open' a n = d.open' a n ∧ e.served a = d.served a ∧ e.held a n = d.held a n := by
  rw [h]; exact ⟨rfl, rfl, rfl⟩

/-- Writes into open ranges in service, outside paused rows, all succeed, in order. -/
theorem writeAll_map (d0 : Device) (at' : Nat → Nat) (bytes : Nat → List Byte) : ∀ (ls : List Nat) (d : Device),
    d = { d0 with mem := d.mem, poison := d.poison } →
    (∀ l, l ∈ ls → d0.open' (at' l) (bytes l).length = true ∧ d0.served (at' l) = true ∧ d0.held (at' l) (bytes l).length = false) →
    ∃ e : Device, writeAll d (ls.map fun l => (at' l, bytes l)) = .ok e ∧ e = { d0 with mem := e.mem, poison := e.poison } ∧
      e.mem = ls.foldl (fun m l => m.write (at' l) (bytes l)) d.mem
  | [], d, hd, _ => ⟨d, rfl, hd, rfl⟩
  | l :: r, d, hd, h => by
    obtain ⟨ho, hs, hf⟩ := h l (by simp)
    have := Device.open_served_mem d0 d hd (at' l) (bytes l).length
    by_cases hb : bytes l = []
    · obtain ⟨e, h1, h2, h3⟩ := writeAll_map d0 at' bytes r d hd (fun x hx => h x (by simp [hx]))
      exact ⟨e, by simp [writeAll, Device.write, hb, h1], h2, by simp [h3, hb, Mem.write]⟩
    · obtain ⟨e, h1, h2, h3⟩ := writeAll_map d0 at' bytes r (d.store (at' l) (bytes l)) (by rw [hd]; rfl) (fun x hx => h x (by simp [hx]))
      exact ⟨e, by simp [writeAll, Device.write, hb, this.1, this.2.1, this.2.2, ho, hs, hf, h1], h2, by simp [h3]; rfl⟩

/-- The same for a list of writes taken together. -/
theorem allWrites_map (d0 : Device) (at' : Nat → Nat) (bytes : Nat → List Byte) (ls : List Nat)
    (h : ∀ l, l ∈ ls → d0.open' (at' l) (bytes l).length = true ∧ d0.served (at' l) = true ∧ d0.held (at' l) (bytes l).length = false) :
    ∃ e : Device, allWrites d0 (ls.map fun l => (at' l, bytes l)) = .ok e ∧ e = { d0 with mem := e.mem, poison := e.poison } ∧
      e.mem = ls.foldl (fun m l => m.write (at' l) (bytes l)) d0.mem := by
  obtain ⟨e, h1, h2, h3⟩ := writeAll_map d0 at' bytes ls d0 rfl h
  let ws := ls.map fun l => (at' l, bytes l)
  refine ⟨{ e with poison := e.poison.filter fun l => !((joinWrites ws).any fun w => w.1 ≤ 64 * l && 64 * l + 64 ≤ w.1 + w.2.length) }, ?_, ?_, h3⟩
  · simp only [allWrites, h1, ws]
  · rw [h2]

/-- A byte outside every range written is as before. -/
theorem Mem.byte_writes_other (at' : Nat → Nat) (bytes : Nat → List Byte) (a : Nat) : ∀ (ls : List Nat) (m : Mem),
    (∀ l, l ∈ ls → a < at' l ∨ at' l + (bytes l).length ≤ a) → Mem.byte (ls.foldl (fun m l => m.write (at' l) (bytes l)) m) a = m.byte a
  | [], _, _ => rfl
  | l :: r, m, h => by
    simp only [List.foldl_cons]
    rw [Mem.byte_writes_other at' bytes a r _ (fun x hx => h x (by simp [hx]))]
    exact Mem.byte_write_other _ _ _ _ (h l (by simp))

theorem VuCtx.setRegs_each (w : StepWord) (r : Nat → VRes) : ∀ (ls : List Nat) (v : VuCtx), (ls.zip (ls.map r)).foldl (fun v p => v.setRegs w [p.1] fun _ => p.2) v = v.setRegs w ls r
  | [], _ => rfl
  | a :: l, v => by simp only [List.map_cons, List.zip_cons_cons, List.foldl_cons]; rw [VuCtx.setRegs_each]; rfl

theorem flagsOf_map {α β : Type} (g : α → β) (f : β → Nat) (l : List α) : flagsOf f (l.map g) = flagsOf (fun x => f (g x)) l := by
  simp [flagsOf, List.foldl_map]

end Sys2Proof.Machine
end

