-- ==== Sys2Proof/WellFormed.lean ====
section
/-! DEFINITION. Which operands of a command its row can carry at all. A command outside these forms is no access, frame or event of the spec; the machine takes it by the same rules. -/

namespace Sys2Proof

/-- Tags are those of R254. -/
def tagOk (tag : Nat) : Bool := decide (tag < 8192)

/-- A tag of the commands in flight. -/
def optTagOk : Option Nat → Bool
  | some tag => tagOk tag
  | none => true

/-- A row of a pseudo-channel (R204). -/
def rowOk (row : Nat) : Bool := decide (row < 62500)

/-- Lines of a row (R204), each named once. -/
def linesOk (lost : List Nat) : Bool := lost.all (fun l => decide (l < 250)) && decide lost.Nodup

/-- Host memory writes that come with a doorbell: 64-bit addresses. -/
def hostWritesOk (ws : List (Nat × BitVec 8)) : Bool := ws.all fun w => decide (w.1 < 2 ^ 64)

/-- An access of 1 to 64 bytes inside the 192 KiB of a scratchpad (R150), with as many bytes of data as it says. -/
def padAccessOk (off size : Nat) (data : Option (List Byte)) : Bool :=
  decide (1 ≤ size) && decide (size ≤ 64) && decide (off + size ≤ 196608) &&
  (match data with | some bs => bs.length == size | none => true)

/-- A bit-set or bit-clear access to a word (R156): inside the scratchpad, the narrow form with 32 bits of data. -/
def padBitsOk (off : Nat) (wide : Bool) (data : Option W64) : Bool :=
  decide (off + (if wide then 8 else 4) ≤ 196608) && (match data with | some w => wide || decide (w.toNat < 2 ^ 32) | none => true)

/-- A fabric frame that fits a UDP datagram, with an 8-bit hop limit (R262). -/
def rxFrameOk (f : RxFrame) : Bool := decide (f.bytes.length ≤ 65535) && decide (f.hop < 256)

/-- A Brynuo datagram with an 8-bit hop limit, of the operation its row names where it is long enough to name one (R407, R408). -/
def brFrameOk (f : BrFrame) (kind op : Byte) : Bool :=
  decide (f.bytes.length ≤ 65535) && decide (f.hop < 256) &&
  (decide (f.bytes.length < 32) || (f.bytes.getD 3 0 == kind && f.bytes.getD 4 0 == op))

/-- An SPI frame of the opcode its row names (R415), with fewer than eight clock edges beyond the last whole byte. -/
def spiFrameOk (f : SpiFrame) (op : Byte) : Bool :=
  decide (f.extra < 8) && (match f.bytes with | b :: _ => b == op | [] => false)

/-- A word access of the dictionary window (R413). -/
def barWriteOk : BarWrite → Bool
  | .arg _ => true
  | .cmd _ => true
  | .msix _ => true
  | .data off bs => (bs.length == 4 || bs.length == 8) && off % bs.length == 0 && decide (off + bs.length ≤ 4096)

/-- A claim or release message names its own operation. -/
def claimOk (v : ClaimVia) (op : Byte) : Bool :=
  match v with
  | .message f => brFrameOk f 1 op
  | .object _ => true

/-- A chain step of an accepted command. -/
def stepOk (tag step : Nat) : Bool := tagOk tag && decide (step < 2 ^ 32)

/-- Physical tiles and rows that a test names exist. -/
def selfTestOk (r : SelfTestResult) : Bool :=
  r.patterns.all (fun x => decide (x.1 < 8) && decide (x.2.1 < 1344)) &&
  r.failTiles.all (fun x => decide (x.1 < 8) && decide (x.2 < 1344)) &&
  r.failRows.all (fun x => decide (x.1 < 8) && decide (x.2.1 < 64) && rowOk x.2.2.1 && linesOk x.2.2.2) &&
  r.badPaths.all fun k => decide (k < 8)

/-- Flipped bits of block registers: a lane of at most 1,024, a bit of its 128-bit register. -/
def upsetsOk (us : List (Nat × Nat)) : Bool := us.all fun u => decide (u.1 < 1024) && decide (u.2 < 128)

/-- A window's activities are fractions of 65,536 (R378). -/
def windowOk (w : WindowSample) : Bool := decide (w.uArr ≤ 65536) && decide (w.uVec ≤ 65536) && decide (w.uHbm ≤ 65536)

/-- An SPDM request holds a header of four bytes at least (R433). -/
def spdmOk (req : List Byte) (code : Byte) : Bool := decide (4 ≤ req.length) && req.getD 1 0 == code

/-- The operands of a command are ones its row can carry. -/
def Instr.wf : Instr → Bool
  | .sqTailDoorbell _ _ ws => hostWritesOk ws
  | .blockEnd _ us _ => upsetsOk us
  | .sheafReexecute w => tagOk w.tag
  | .commandComplete w => tagOk w.tag
  | .promiseExpiry tag => tagOk tag
  | .overdueLimitExpiry tag => tagOk tag
  | .bayReinit _ cause => decide (1 ≤ cause) && decide (cause ≤ 5)
  | .bayReinitEnd _ r => r.failTiles.all fun p => decide (p < 1344)
  | .rowRemap _ _ row => rowOk row
  | .rowRemapEnd _ _ row => rowOk row
  | .uncorrectableError _ _ row lost => rowOk row && linesOk lost
  | .farTierTimeout _ tag => tagOk tag
  | .scratchpadAccess _ a off size data => optTagOk a.cmd && padAccessOk off size data
  | .scratchpadBitSet _ a off wide data => optTagOk a.cmd && padBitsOk off wide data
  | .scratchpadBitClear _ a off wide data => optTagOk a.cmd && padBitsOk off wide data
  | .byteLaneRotate _ a off size data => optTagOk a.cmd && padAccessOk off size data
  | .chainStepStart _ tag x => stepOk tag x.step
  | .chainStepEnd _ tag st => stepOk tag st
  | .dataFrameReceive _ x => rxFrameOk x.frame
  | .ackReceive _ f => rxFrameOk f
  | .nakReceive _ f => rxFrameOk f
  | .creditGrantReceive _ f => rxFrameOk f
  | .helloReceive _ f => rxFrameOk f
  | .abortReceive _ f => rxFrameOk f
  | .partnerTimeout tag => tagOk tag
  | .paceWindowEnd w => windowOk w
  | .gaugeMeasurement _ g1 g2 _ => decide (g1 < 2 ^ 32) && decide (g2 < 2 ^ 32)
  | .plan sensorW => decide (sensorW < 2 ^ 16)
  | .selfTestEnd r => selfTestOk r
  | .bcReset heldNs => decide (1 ≤ heldNs)
  | .getVersion req => spdmOk req 0x84
  | .getCapabilities req => spdmOk req 0xE1
  | .negotiateAlgorithms req => spdmOk req 0xE3
  | .getDigests req => spdmOk req 0x81
  | .getCertificate req => spdmOk req 0x82
  | .challenge req => spdmOk req 0x83
  | .getMeasurements req => spdmOk req 0xE0
  | .openSession f => brFrameOk f 1 0x01
  | .closeSession f => brFrameOk f 1 0x02
  | .keepalive f => brFrameOk f 1 0x03
  | .read f => brFrameOk f 1 0x10
  | .write f => brFrameOk f 1 0x11
  | .claim v => claimOk v 0x20
  | .release v => claimOk v 0x21
  | .notificationAck f => brFrameOk f 4 0x30
  | .dictArgDataWrite r => barWriteOk r
  | .write1 f => spiFrameOk f 0x02
  | .write2 f => spiFrameOk f 0x06
  | .spiRead f => spiFrameOk f 0x03
  | .spiFetch f => spiFrameOk f 0x0F
  | .clearStatus f => spiFrameOk f 0x05
  | .loadData _ data => decide (data.length ≤ 65536)
  | .objectWrite _ _ data => decide (data.length ≤ 65536)
  | .hostDmaTimeout tag => tagOk tag
  | .cqHeadDoorbell _ _ | .entryFetch | .matmul | .attention | .conv | .quantise | .dequantise | .rotate | .recipe | .sample | .rngFill | .gather
  | .scatter | .copy | .broadcast | .reduceToOne | .allToAll | .allToAllSizeTable | .stageSend | .stageRecv | .eventAdd | .eventReset | .fence
  | .digest | .cast | .weightSwitch | .tileOpDeliver _ | .tileOpStart _ _ | .courseEnd _ _ | .preemptionPoint _ | .preemptedResume _
  | .tileOpEnd _ _ _ | .pieceBoundary _ | .beaconCompare | .beaconTimeout | .handshakeStall _ | .bookAudit _ | .errorRecordHandle
  | .containmentEnd _ | .spareValidation _ _ | .takeOverResume _ | .reProtection _ | .lockstepRollback | .queuePairReinit _ | .deviceReset _
  | .interfaceRetry _ _ _ | .patrolScrub _ _ | .remapTablePersist _ | .inboundTokenGrant _ | .farTierLinkDown _ => true
  | .nop _ _ _ | .add _ _ _ | .sub _ _ _ | .mul _ _ _ | .fma _ _ _ | .div _ _ _ | .sqrt _ _ _ | .min _ _ _ | .max _ _ _ | .abs _ _ _ | .neg _ _ _
  | .scale _ _ _ | .roundi _ _ _ | .cvtI2f _ _ _ | .cvtF2i _ _ _ | .andW _ _ _ | .orW _ _ _ | .xorW _ _ _ | .cmpLt _ _ _ | .cmpLe _ _ _
  | .cmpEq _ _ _ | .cmpNan _ _ _ | .select _ _ _ | .mand _ _ _ | .mor _ _ _ | .mnot _ _ _ | .tanh _ _ _ | .logistic _ _ _ | .exp2 _ _ _
  | .log2 _ _ _ | .rcp _ _ _ | .rsqrt _ _ _ | .rowSum _ _ _ | .rowSumsq _ _ _ | .rowMax _ _ _ | .rowMin _ _ _ | .pass _ _ _ | .load _ _ _
  | .store _ _ _ | .qstore _ _ _ | .index _ _ _ | .randBits _ _ _ | .randU01 _ _ _ | .fenceStore _ _ _ | .fenceFull _ _ _ => true
  | .helloTimer _ | .helloSilenceTimeout _ _ | .retryTimeout _ _ | .neighborSolicitation _ _ | .pfcFrameReceive _ _ _ | .fabricLinkUp _
  | .fabricLinkDown _ | .thermalCeilingStep _ | .flickerHold _ | .flickerHoldEnd _ _ | .setpointStep | .inletSensorRead _ | .thermalTrip _ _
  | .inputRise | .undervoltageOff | .overvoltageOff | .powerGood | .maskRomBoot _ | .imageVerify | .hbmTrainingEnd _ | .ready | .configRequest
  | .perstAssert | .perstDeassert | .hotReset | .functionLevelReset | .pcieLinkDown | .d3hotEntry | .d0Entry | .pmeTurnOff | .wakeSignal
  | .doeDiscovery _ | .forceClaim _ | .notificationResend _ | .sessionLeaseExpiry _ | .segmentTimeout _ | .mgmtNeighborSolicitation _
  | .dictionaryService _ | .dictRead _ | .dictWrite _ | .dictStatusClear _ | .spiFrameAbort | .spiFrameTimeout | .queuePairEnable _ _
  | .queuePairDisable _ _ | .queuePairDrainEnd _ | .bayWithdrawal _ _ | .bayReinitRequest _ _ | .queuePairReinitRequest _ _
  | .powerCycleRequest _ | .alertCauseClear _ _ | .planRequest _ | .restoreDefaults _ | .loadTarget _ _ | .imageProgrammingEnd | .verify _
  | .commitSecurity _ | .wakeRequest _ | .wakeReasonClear _ _ | .summaryWrite | .inputFallsBelow10V | .bcRstDeassert | .lockstepRollbackEnd
  | .bankedEntryEnd | .bankedExitEnd | .managementLinkUp | .plcaCollision | .beaconComparisonEnd => true

end Sys2Proof
end

