-- ==== Sys2Proof/Tests/Slice0.lean ====
section
/-! SUPPORT. Small tests: ill-formed operands that each check refuses, what reset leaves, worked examples of the manual, and for every statement a state and operands that meet its hypotheses. -/

namespace Sys2Proof.Tests

set_option Elab.async false

open Sys2Proof.Machine

/-! ### Helpers -/

/-- A block that is ready, in D0, with every bay in run and the host link up. -/
def up : Device :=
  { Device.reset with power := { PowerDom.unpowered with phase := .ready, pwrgd := true, perstLow := false, linkUp := true },
                      bays := Vector.replicate 8 { Bay.fresh with state := .run } }

/-- A state with an empty queue. -/
def st (d : Device) : State := ⟨d, []⟩

/-- Bytes with little-endian fields (offset, width, value) over `n` zeros. -/
def fieldsOf (n : Nat) (l : List (Nat × Nat × Nat)) : List Byte := (l.foldl (fun (m : Mem) p => m.write p.1 (leBytes p.2.1 p.2.2)) []).read 0 n

/-! ### Operands that a row cannot carry -/

theorem test_wf_tag : (Instr.commandComplete ⟨8192, []⟩).wf = false ∧ (Instr.commandComplete ⟨8191, []⟩).wf = true := by decide
theorem test_wf_row : (Instr.rowRemap 0 0 62500).wf = false ∧ (Instr.rowRemap 0 0 62499).wf = true := by decide
theorem test_wf_lines : (Instr.uncorrectableError 0 0 0 [250]).wf = false ∧ (Instr.uncorrectableError 0 0 0 [3, 3]).wf = false ∧ (Instr.uncorrectableError 0 0 0 [3, 249]).wf = true := by decide
theorem test_wf_doorbell : (Instr.sqTailDoorbell 0 0 [(2 ^ 64, 0)]).wf = false ∧ (Instr.sqTailDoorbell 0 0 [(2 ^ 64 - 1, 0)]).wf = true := by decide
theorem test_wf_scratchpad : (Instr.scratchpadAccess ⟨0, 0⟩ ⟨.dma, some 8192, [], false⟩ 0 4 none).wf = false ∧ (Instr.scratchpadAccess ⟨0, 0⟩ ⟨.dma, none, [], false⟩ 0 65 none).wf = false ∧
    (Instr.scratchpadAccess ⟨0, 0⟩ ⟨.dma, none, [], false⟩ 196607 2 none).wf = false ∧ (Instr.byteLaneRotate ⟨0, 0⟩ ⟨.dma, none, [], false⟩ 0 4 (some [1])).wf = false ∧
    (Instr.byteLaneRotate ⟨0, 0⟩ ⟨.dma, some 3, [], false⟩ 196607 1 (some [1])).wf = true := by decide
theorem test_wf_alias : (Instr.scratchpadBitSet ⟨0, 0⟩ ⟨.dma, none, [], false⟩ 196605 false none).wf = false ∧ (Instr.scratchpadBitClear ⟨0, 0⟩ ⟨.dma, none, [], false⟩ 0 false (some (2 ^ 32))).wf = false ∧
    (Instr.scratchpadBitClear ⟨0, 0⟩ ⟨.dma, none, [], false⟩ 0 true (some (2 ^ 32))).wf = true := by decide
theorem test_wf_frame : (Instr.ackReceive 0 ⟨[], true, true, true, 256, true, 0⟩).wf = false ∧ (Instr.ackReceive 0 ⟨[], true, true, true, 255, true, 0⟩).wf = true := by decide
theorem test_wf_brynuo : (Instr.keepalive ⟨fieldsOf 32 [(3, 1, 1), (4, 1, 0x02)], 0, true, 255, true, true⟩).wf = false ∧
    (Instr.keepalive ⟨fieldsOf 32 [(3, 1, 1), (4, 1, 0x03)], 0, true, 256, true, true⟩).wf = false ∧
    (Instr.keepalive ⟨fieldsOf 32 [(3, 1, 1), (4, 1, 0x03)], 0, true, 255, true, true⟩).wf = true := by decide
theorem test_wf_spi : (Instr.write1 ⟨[0x03], 0⟩).wf = false ∧ (Instr.write1 ⟨[0x02], 8⟩).wf = false ∧ (Instr.write1 ⟨[], 0⟩).wf = false ∧ (Instr.write1 ⟨[0x02], 7⟩).wf = true := by decide
theorem test_wf_window : (Instr.dictArgDataWrite (.data 2 [0, 0, 0, 0])).wf = false ∧ (Instr.dictArgDataWrite (.data 0 [0])).wf = false ∧
    (Instr.dictArgDataWrite (.data 4096 [0, 0, 0, 0])).wf = false ∧ (Instr.dictArgDataWrite (.cmd 0xFF000000)).wf = true ∧ (Instr.dictArgDataWrite (.data 4092 [0, 0, 0, 0])).wf = true := by decide
theorem test_wf_claim : (Instr.claim (.message ⟨fieldsOf 32 [(3, 1, 1), (4, 1, 0x21)], 0, true, 255, true, true⟩)).wf = false ∧ (Instr.claim (.object .spi)).wf = true := by decide
theorem test_wf_step : (Instr.chainStepStart 0 8192 ⟨0, []⟩).wf = false ∧ (Instr.chainStepEnd 0 0 (2 ^ 32)).wf = false ∧ (Instr.chainStepEnd 0 8191 (2 ^ 32 - 1)).wf = true := by decide
theorem test_wf_selfTest : (Instr.selfTestEnd ⟨[], [(0, 1344)], [], []⟩).wf = false ∧ (Instr.selfTestEnd ⟨[], [], [(0, 64, 0, [])], []⟩).wf = false ∧
    (Instr.selfTestEnd ⟨[], [], [], [8]⟩).wf = false ∧ (Instr.selfTestEnd ⟨[(8, 0, [], [])], [], [], []⟩).wf = false ∧
    (Instr.selfTestEnd ⟨[(7, 1343, [1], [1])], [(7, 1343)], [(7, 63, 62499, [249])], [7]⟩).wf = true := by decide
theorem test_wf_reinit : (Instr.bayReinit 0 0).wf = false ∧ (Instr.bayReinit 0 6).wf = false ∧ (Instr.bayReinit 0 5).wf = true ∧ (Instr.bayReinitEnd 0 ⟨[1344], false, true⟩).wf = false := by decide
theorem test_wf_upsets : (Instr.blockEnd ⟨0, 0⟩ [(1024, 0)] []).wf = false ∧ (Instr.blockEnd ⟨0, 0⟩ [(0, 128)] []).wf = false ∧ (Instr.blockEnd ⟨0, 0⟩ [(1023, 127)] []).wf = true := by decide
theorem test_wf_sample : (Instr.paceWindowEnd ⟨65537, 0, 0, 0, 0, 0, false⟩).wf = false ∧ (Instr.paceWindowEnd ⟨65536, 65536, 65536, 0, 0, 0, false⟩).wf = true := by decide
theorem test_wf_spdm : (Instr.getVersion [0x10, 0x81, 0, 0]).wf = false ∧ (Instr.getVersion [0x10, 0x84, 0]).wf = false ∧ (Instr.getVersion [0x10, 0x84, 0, 0]).wf = true := by decide
theorem test_wf_data : (Instr.plan 65536).wf = false ∧ (Instr.bcReset 0).wf = false ∧ (Instr.gaugeMeasurement (.ioDie 0) (2 ^ 32) 0 0).wf = false := by decide
theorem test_wf_value (bs : List Byte) (h : bs.length = 65537) : (Instr.objectWrite .spi 0 bs).wf = false := by simp [Instr.wf, h]

/-- The table gives no row any bits (opcode_table.json). -/
theorem test_decode_none : decodeTableWord 0 0 = none ∧ ∀ n w, decodeTableWord n w = none := ⟨rfl, fun _ _ => rfl⟩

/-! ### Reset: the values the manual gives -/

/-- Power-on (R421, R450): off, nothing waits, every pair disabled, every tag and slot free, counters and events at 0. -/
theorem test_reset_power : State.reset.dev.power.phase = .off ∧ State.reset.pending = [] ∧ (State.reset.dev.queue 63).state = 0 ∧ State.reset.dev.tagsFree.length = 8192 ∧
    State.reset.dev.counter 0x807001 = 0 ∧ State.reset.dev.events = [] ∧ State.reset.dev.stepCounter = 0 ∧ State.reset.dev.dict.owner = 0 := by decide +kernel
/-- Conserved totals of R255 and R257. -/
theorem test_reset_books : (State.reset.dev.bay 7).tallyFree.length + (State.reset.dev.bay 7).tallyUrgentFree.length = 16384 ∧ (State.reset.dev.bay 7).slotsFree = 20480 ∧
    (State.reset.dev.bay 7).dieTokens = List.replicate 16 32 ∧ (State.reset.dev.bay 7).hbmTokens = List.replicate 64 64 ∧ (State.reset.dev.port 7).lossFree = 512 ∧ (State.reset.dev.port 7).ctrlFree = 128 ∧ (State.reset.dev.port 7).tokensFree = 16 := by decide +kernel
/-- Defaults of the object tables (R226, R247, R374, R380, R404). -/
theorem test_reset_objects : State.reset.dev.setting 0x710002 = 256 ∧ State.reset.dev.setting 0x713F06 = 63 ∧ State.reset.dev.setting 0x701001 = 10 ∧ State.reset.dev.setting 0x300002 = 800 ∧
    State.reset.dev.setting 0x301001 = 2000 ∧ State.reset.dev.setting 0x120004 = 5000 ∧ State.reset.dev.setting 0x620001 = 0xFF := by decide +kernel
theorem test_idle_step : step (st up) = .next (st { up with now := 1 }) := rfl
/-- A command before its precondition leaves the block as it was; INPUT_RISE starts power-up (R447). -/
theorem test_first_steps : exec .ready State.reset = .next State.reset ∧ ∃ d, exec .inputRise State.reset = .next ⟨d, []⟩ ∧ d.power.phase = .powering := ⟨rfl, _, rfl, rfl⟩

/-! ### Worked examples of the manual -/

/-- A finite value for the quantiser. -/
def qv (n : Int) (d : Nat) : QIn := ⟨Q.frac n d, none, false, false⟩

/-- The block of R25 and R28 as it is written: header, first four codes, gutter entries. -/
def shown (b : QBlock) : Nat × List Nat × Nat × Nat := (b.hdr, b.codes.take 8, b.g0, b.g1)

/-- CRC-32C of R35 and the 64-bit CRC of R337 over "123456789". -/
theorem test_crc : crc32c [0x31, 0x32, 0x33, 0x34, 0x35, 0x36, 0x37, 0x38, 0x39] = 0xE3069283 ∧ crc64 [0x31, 0x32, 0x33, 0x34, 0x35, 0x36, 0x37, 0x38, 0x39] = 0x6C40DF5F0B497347 := by decide +kernel
/-- The READ and FETCH check bytes of the poll of chapter 17. -/
theorem test_crc_spi : crc8 [0x03, 0x04, 0x50, 0x40, 0, 0, 0, 0] = 0x60 ∧ crc8 [0x00, 0x04, 0x50, 0x40, 0x01, 0x01, 0, 0, 0] = 0xD8 := by decide +kernel
/-- Decoding one F4 block with both gutter entries (chapter 02). -/
theorem test_decode_f4 : let b := blockDec 3 0x6401 0x090873 (some (0x1320, 0x2F00)) 3 32
    ((List.range 6).map fun j => (b.at' j).floor) = [7, 30, 240, 0, -3, -160] ∧ (b.at' 0).eq (Q.frac 15 2) = true ∧ (b.at' 4).eq (Q.frac (-5) 2) = true ∧ b.invalid = false := by decide +kernel
/-- The descriptor of chapter 02: nine gutter entries, no invalid block. -/
theorem test_descriptor : sheafDesc 3 true 9 false = 0x00010263 := by decide +kernel
/-- F4 with both gutter entries (chapter 03). -/
theorem test_quant_f4 : shown (quantBlock 3 (some (Q.ofNat 4)) 0 false
    ([qv 3 1, qv (-1) 1, qv 200 1, qv 12 100, qv 5 4, qv (-1) 8, qv 26 10, qv (-40) 1] ++ List.replicate 24 (qv 0 1))) = (0x6005, [0x7, 0xC, 0x0, 0x0, 0x5, 0x9, 0x7, 0x0], 0x13E8, 0x3F50) := by decide +kernel
/-- I4 at the saturation edge, without and with a channel shift of 10 (chapter 03). -/
theorem test_quant_i4 : (shown (quantBlock 4 none 0 false ([qv 5000 1, qv 3720 1, qv 3500 1, qv (-248) 1, qv 100 1] ++ List.replicate 27 (qv 0 1)))).1 = 0xFF44 ∧
    (shown (quantBlock 4 none 10 false ([qv 5000 1, qv 3720 1, qv 3500 1, qv (-248) 1, qv 100 1] ++ List.replicate 27 (qv 0 1)))).1 = 0x6708 := by decide +kernel
/-- F8 near the bottom of the scale range (chapter 03). -/
theorem test_quant_f8 : shown (quantBlock 9 none (-28) false ([qv 1 (2 ^ 20), qv 1 (2 ^ 21)] ++ List.replicate 30 (qv 0 1))) = (0x6200, [0x7E, 0x76, 0, 0, 0, 0, 0, 0], 0, 0) ∧
    shown (quantBlock 9 none 0 false ([qv 1 (2 ^ 20), qv 1 (2 ^ 21)] ++ List.replicate 30 (qv 0 1))) = (0x0104, [0x01, 0, 0, 0, 0, 0, 0, 0], 0, 0) := by decide +kernel
/-- T2 (chapter 03). -/
theorem test_quant_t2 : shown (quantBlock 1 none 0 false ([qv 9 10, qv (-3) 10, qv 29 64, qv 45 100] ++ List.replicate 28 (qv 0 1))) = (0x6D08, [1, 0, 1, 0, 0, 0, 0, 0], 0, 0) := by decide +kernel
/-- The smallest F8W product (R96) and a LINEAR tie at 2^25 (chapter 04). -/
theorem test_fold : (accRound (Q.pow2 (-306)) false).1 = 0x2CD000000 ∧ (accAdd (accRound (Q.pow2 25) false).1 (accRound (Q.ofNat 1) false).1).1 = (accRound (Q.pow2 25) false).1 := by decide +kernel
/-- A new maximum in the second course (chapter 08). -/
theorem test_attention_merge : let e := attMerge ⟨(accRound (Q.ofNat 10) false).1, (accRound (Q.frac 7 4) false).1, 0x40400000, false⟩ ⟨(accRound (Q.ofNat 4) false).1, (accRound (Q.frac 5 4) false).1, 0x40A00000, false⟩
    e.v = ⟨(accRound (Q.frac 13 2) false).1, (accRound (Q.frac 27 16) false).1, 0x40A00000, false⟩ ∧ e.flags = 0 := by decide +kernel
/-- Vector arithmetic (R175, R176, R178): a tie to even at 2^24, 1 / 0, the square root of −1, and 2 to the power −2. -/
theorem test_vector : (vAdd 0x4B800000 0x3F800000).w = 0x4B800000 ∧ (vDiv 0x3F800000 0).w = 0x7F800000 ∧ f32IsNaN (vSqrt 0xBF800000).w = true ∧ (vExp2 0xC0000000).w = 0x3E800000 := by decide +kernel
/-- The plan of a minimum part at first power-on (chapter 16): floor 0.82, setpoint 0.700 V. -/
theorem test_plan_minimum : let d := ({ up with pace := { Pace.fresh with gauges := [(0, some ⟨1060000, 0, false⟩)] }, flash := { Flash.factory with baseline := [(0, 1060000)] } } : Device).plan 1000
    d.pace.planned = 820 ∧ d.pace.target = 700 := by decide +kernel

/-! ### Witnesses: states and operands that meet the hypotheses of the statements -/

/-- Queue pair `q` of a ready block as `x`. -/
def pairs (q : Nat) (x : QPair) : Device := up.setQueue q x
/-- An enabled pair. -/
def open1 : QPair := { QPair.fresh with state := 1 }

theorem test_witness_canonical : State.reset.MemOk ∧ ∃ t, step State.reset = .next t := ⟨⟨rfl, rfl⟩, _, rfl⟩
theorem test_witness_fuses : ∃ s t : State, step s = .next t ∧ s.dev.flash.revoked.testBit 3 = true := ⟨st { up with flash := { Flash.factory with revoked := 8 } }, _, rfl, rfl⟩
theorem test_witness_idle : State.reset.pending = [] := rfl

/-- The four clauses on doorbells, at the edges of a queue of 256 and one of 512 entries. -/
theorem test_witness_doorbells :
    (let d := pairs 0 open1; d.hostOpen = true ∧ (d.queue 0).state = 1 ∧ (255#32).toNat < d.sqSize 0 ∧ ¬ (256#32).toNat < d.sqSize 0 ∧ ((d.queue 0).sqTail + 256 - 0) % 256 ≤ (255 + 256 - 0) % 256) ∧
    (let d := pairs 0 { open1 with sqTail := 5 }; d.hostOpen = true ∧ d.sqSize 0 = 256 ∧ (3 + 256 - (d.queue 0).sqHead) % 256 < ((d.queue 0).sqTail + 256 - (d.queue 0).sqHead) % 256) ∧
    (let d := pairs 0 { open1 with written := 3 }; d.hostOpen = true ∧ d.cqSize 0 = 512 ∧ (d.queue 0).state ≠ 0 ∧ 0 < (3 + 512 - (d.queue 0).cqHead) % 512 ∧ (3 + 512 - (d.queue 0).cqHead) % 512 ≤ (d.queue 0).written ∧
      (d.queue 0).written < (4 + 512 - (d.queue 0).cqHead) % 512 ∧ (0 + 512 - (d.queue 0).cqHead) % 512 = 0) ∧
    (up.hostOpen = true ∧ (up.queue 63).state = 0) := by decide +kernel
theorem test_witness_fetch : (let d := pairs 5 { open1 with sqTail := 1 }; d.lastPair < 64 ∧ d.lastHigh < 64 ∧ d.nextPair = some 5 ∧ d.hostOpen = true) ∧ up.nextPair = none ∧
    (let d := pairs 5 { open1 with state := 2 }; (d.queue 5).state = 2 ∧ d.pairBusy 5 = false) := by decide +kernel

/-- Tile 3 of bay 2. -/
def tile23 : TileRef := ⟨2, 3⟩
/-- A step word: destination V1, sources V2, V3, V4. -/
def word1 : StepWord := ⟨1, 2, 3, 4, false, 0, 0, 0⟩
/-- A command of an entry, with tag 0, of pair 0. -/
def cmdOf (e : List Byte) : Cmd := { up.newCmd ⟨0, 0, e⟩ [] 0 with qp := some 0 }
/-- A RECIPE entry with FP32 streams at 0x1000 and 0x2000. -/
def recipeEntry : List Byte := fieldsOf 128 [(0, 1, 0x13), (6, 2, 0xFFFF), (0x0C, 2, 0xFFFF), (0x28, 8, 0x1000), (0x48, 8, 0x2000), (0x68, 1, 0x1B), (0x6C, 1, 0x1B)]
/-- A recipe piece of one row of `len` elements at the first of its steps. -/
def piece (steps : List (Nat × StepWord)) (len : Nat) : VuCtx :=
  { cmd := 0, op := 0, steps := steps, len := len, modes := 0, row := 0, rowEnd := 1, group := 0, pass := 0, pc := 0, regs := [], masks := [], scalars := [], parts := [], flags := 0, finished := false, copy := [], fenced := 0, late := [] }
/-- A state whose tile runs such a piece. -/
def onUnit (steps : List (Nat × StepWord)) (len : Nat) : State :=
  st ({ up with cmds := [cmdOf recipeEntry] }.setTile (tileKey 2 3) { Tile.idle with vu := some (piece steps len) })

/-- A unit stands at a step of any opcode. -/
theorem test_witness_step : ∀ op w, AtStep (onUnit [(op, w)] 1) tile23 op w (piece [(op, w)] 1) (cmdOf recipeEntry) := fun _ _ => ⟨by rfl, rfl, rfl, rfl⟩
/-- PASS with one more group (65 elements) and with none (64 elements). -/
theorem test_witness_pass : (piece [(0x2C, word1), (0, word1)] 65).steps[0]? = some (0x2C, word1) ∧ 64 * (0 + 1) < 65 ∧ (piece [(0x2C, word1), (0, word1)] 64).len ≤ 64 * (0 + 1) ∧ 0 + 1 < [(0x2C, word1), (0, word1)].length := by decide
/-- A result that is there. -/
theorem okOf {α : Type} (x : Except Nat α) (h : x.isOk = true) : ∃ r, x = .ok r := by cases x with | ok r => exact ⟨r, rfl⟩ | error e => cases h
theorem test_witness_load : (piece [(0x30, word1)] 1).lanes word1 = [0] := by decide +kernel
theorem test_witness_load_element : (loadElem ((piece [(0x30, word1)] 1).view (onUnit [(0x30, word1)] 1).dev) (cmdOf recipeEntry) 2 (piece [(0x30, word1)] 1) 0 0).isOk = true := by decide +kernel
theorem test_witness_store : (cmdOf recipeEntry).addr up 0x48 = 0x2000 ∧ arrayStride (recipeCode recipeEntry 0) = 4 ∧ up.open' 0x2000 4 = true ∧ up.served 0x2000 = true ∧ up.held 0x2000 4 = false ∧ isSheafFmt (recipeCode recipeEntry 0) = false ∧
    (storeBytes (recipeCode recipeEntry 0) 0).1.length = 4 := by decide +kernel

/-! #### Admission -/

/-- FENCE of its own pair, bay set 1. -/
def fenceEntry : List Byte := fieldsOf 128 [(0, 1, 0x41), (3, 1, 1), (6, 2, 0xFFFF), (0x0C, 2, 0xFFFF), (0x10, 8, 77)]
/-- Entry `e` of pair 0 is the next to be admitted. -/
def waiting1 (e : List Byte) : Device := { pairs 0 { open1 with reserved := 2 } with fetched := [⟨0, 0, e⟩], tagsFree := [0, 1] }
theorem test_witness_accept : let f : Fetched := ⟨0, 0, fenceEntry⟩; let d : Device := { waiting1 fenceEntry with fetched := [] }
    NextEntry (waiting1 fenceEntry) ⟨0x41, 0⟩ f [] ∧ Judged d f ∧ d.tagsFree = [0, 1] ∧ (d.bid f (d.look f) 0).beyond = false ∧
      (d.bid f (d.look f) 0).cmd.promise ≤ d.now + 1000000 * d.setting 0x701201 ∧ classOf fenceEntry ≠ 1 := by
  refine ⟨⟨rfl, by decide +kernel, by decide +kernel, by decide +kernel, by decide +kernel⟩, ⟨by decide +kernel, by decide +kernel⟩, by decide +kernel, by decide +kernel, by decide +kernel, by decide +kernel⟩

/-- A MATMUL of one row and one column over 32 positions, its operands' tables at 0x1000 and 0x2000, its plain output at 0x3000, its extension block at 0x4000. -/
def matmulEntry (cls promise : Nat) : List Byte := fieldsOf 128 [(0, 1, 1), (1, 1, cls), (3, 1, 1), (6, 2, 0xFFFF), (0x0C, 2, 0xFFFF), (0x18, 8, promise), (0x20, 8, 0x1000), (0x28, 8, 0x2000), (0x30, 8, 0x3000), (0x60, 8, 0x4000), (0x68, 1, 0x1B), (0x69, 1, 0x44)]
/-- A block with that entry waiting and its two tables in memory. -/
def waitingMm (cls promise : Nat) : Device :=
  { waiting1 (matmulEntry cls promise) with mem := Mem.write (Mem.write [] 0x1000 (fieldsOf 32 [(0, 4, 1), (4, 4, 32), (8, 4, 1)])) 0x2000 (fieldsOf 32 [(0, 4, 1), (4, 4, 32), (8, 4, 1)]) }
theorem test_witness_refusals :
    (let f : Fetched := ⟨0, 0, matmulEntry 0 0⟩; let d := waitingMm 0 0
      RowOf.takes ⟨0x01, 0⟩ f.entry = true ∧ d.isReady = true ∧ d.power.powerState = 0 ∧ d.entryHeld f = false ∧ (d.look f).invalid = none ∧ (d.look f).bayOut = false ∧
      (Device.look { d with poison := [0x100] } f).invalid = some (0x60, false) ∧ (Device.look (d.modBay 0 fun b => { b with state := .out }) f).invalid = none ∧
      (Device.look (d.modBay 0 fun b => { b with state := .out }) f).bayOut = true ∧ (d.bid f (d.look f) 0).beyond = false ∧ (d.bid f (d.look f) 0).cmd.promise = 52085) ∧
    (let f : Fetched := ⟨0, 0, matmulEntry 1 1⟩; let d := waitingMm 1 1; (d.look f).invalid = none ∧ classOf f.entry = 1 ∧ ent f.entry 0x18 8 < (d.bid f (d.look f) 0).cmd.promise) ∧
    (let f : Fetched := ⟨0, 0, matmulEntry 2 0⟩; let d : Device := { waitingMm 2 0 with dict := { Dict.fresh with vals := [(0x701001, some 0), (0x710005, some 1)] } }; (d.look f).invalid = none ∧ (d.bid f (d.look f) 0).beyond = true) ∧
    (let f : Fetched := ⟨0, 0, matmulEntry 3 0⟩; let d := waitingMm 3 0; (d.look f).invalid = some (1, false)) ∧
    (let f : Fetched := ⟨0, 0, fieldsOf 128 [(0, 1, 0x41), (3, 1, 2), (6, 2, 0xFFFF), (0x0C, 2, 0xFFFF)]⟩; let d := up.modBay 1 fun b => { b with state := .out }
      RowOf.takes ⟨0x41, 0⟩ f.entry = true ∧ (d.look f).invalid = none ∧ (d.look f).bayOut = true) := by decide +kernel
theorem test_witness_accept_effects : opcodeOf fenceEntry = 0x41 ∧ (ent (fieldsOf 128 [(0, 1, 0x41), (0x21, 1, 1)]) 0x21 1).testBit 0 = true ∧ (ent fenceEntry 0x21 1).testBit 0 = false ∧
    (let e := fieldsOf 128 [(0, 1, 0x44), (0x20, 1, 1)]; opcodeOf e = 0x44 ∧ ent e 0x20 1 ≠ 0) ∧ (let e := fieldsOf 128 [(0, 1, 0x44)]; opcodeOf e = 0x44 ∧ ent e 0x20 1 = 0) ∧
    opcodeOf (fieldsOf 128 [(0, 1, 0x31)]) = 0x31 ∧ (cmdOf fenceEntry).entry = fenceEntry := by decide +kernel
/-- An entry of another row, one whose tables lie in a paused row, and a module that is not ready or not in D0. -/
theorem test_witness_rows : State.reset.dev.fetched = [] ∧ State.reset.dev.isReady = false ∧ ({ up with power := { up.power with powerState := 2 } } : Device).power.powerState ≠ 0 ∧ RowOf.takes ⟨0x01, 0⟩ fenceEntry = false ∧
    ((waitingMm 0 0).modBay 0 fun b => { b with paused := [((rowOfLine 64).1, (rowOfLine 64).2.1)] }).entryHeld ⟨0, 0, matmulEntry 0 0⟩ = true ∧
    knownOp (opcodeOf fenceEntry) = true ∧ ¬ opcodeOf fenceEntry = 0x30 ∧ ¬ opcodeOf fenceEntry = 0x40 := by decide +kernel

/-! #### Completion -/

/-- Command `c` alone in flight. -/
def flying (c : Cmd) : Device := { pairs 0 { open1 with reserved := 1 } with cmds := [c], tagsFree := [1] }
/-- EVENT of pair 0 on event 5, its own signal on event 5 too: operation `op`. -/
def eventEntry (op : Nat) : List Byte := fieldsOf 128 [(0, 1, 0x40), (3, 1, 1), (6, 2, 0xFFFF), (0x0C, 2, 5), (0x20, 2, 5), (0x22, 1, op), (0x24, 4, 3)]
/-- A fence that ends, one that failed, and an EVENT reset that ends. -/
theorem test_witness_completion :
    EndsAs (flying (cmdOf fenceEntry)) (cmdOf fenceEntry) ((flying (cmdOf fenceEntry)).lastWork (cmdOf fenceEntry)) { cmdOf fenceEntry with done := true } ∧
    (let c := { cmdOf fenceEntry with failure := some ⟨0x36, 0, 0xFF⟩ }; EndsAs (flying c) c (flying c) c) ∧
    (let c := cmdOf (eventEntry 1); EndsAs (flying c) c ((flying c).lastWork c) { c with done := true } ∧ c.qp = some 0 ∧ opcodeOf c.entry = 0x40 ∧ ent c.entry 0x22 1 = 1 ∧ ent c.entry 0x20 2 = 5) ∧
    (cmdOf fenceEntry).qp = some 0 ∧ opcodeOf (cmdOf fenceEntry).entry = 0x41 ∧ ent (cmdOf fenceEntry).entry 0x20 1 = 0 := by
  refine ⟨⟨by decide +kernel, by decide +kernel, by decide +kernel, by decide +kernel, ⟨rfl, rfl⟩, .inr ⟨rfl, by decide +kernel, by decide +kernel, by decide +kernel, rfl, by decide +kernel, rfl, .inr rfl⟩⟩,
    ⟨by decide +kernel, by decide +kernel, by decide +kernel, by decide +kernel, ⟨rfl, rfl⟩, .inl ⟨rfl, rfl, rfl⟩⟩,
    ⟨⟨by decide +kernel, by decide +kernel, by decide +kernel, by decide +kernel, ⟨rfl, rfl⟩, .inr ⟨rfl, by decide +kernel, by decide +kernel, by decide +kernel, rfl, by decide +kernel, rfl, .inr rfl⟩⟩, rfl, by decide +kernel⟩, by decide +kernel⟩
/-- The two readings of a whole step: nothing paused, or a row paused and a command that has met it. -/
theorem test_witness_whole : up.pauses = false ∧ (up.modBay 2 fun b => { b with paused := [(5, 9)] }).pauses = true ∧ up.met = false ∧
    ({ up with cmds := [{ cmdOf fenceEntry with failure := some ⟨csHeld, 0, 0xFF⟩ }] } : Device).met = true := by decide +kernel
/-- An EVENT reset that meets a command waiting on its event, one that signals it and one that adds to it. -/
theorem test_witness_event_refused : let d : Device := { waiting1 (eventEntry 1) with cmds := [cmdOf (eventEntry 0), cmdOf (fieldsOf 128 [(0, 1, 0x41), (6, 2, 5)])] }
    d.isReady = true ∧ d.power.powerState = 0 ∧ d.entryHeld ⟨0, 0, eventEntry 1⟩ = false ∧ d.fetched = [⟨0, 0, eventEntry 1⟩] ∧ ent (eventEntry 0) 0x20 2 = ent (eventEntry 1) 0x20 2 ∧ ent (eventEntry 0) 0x0C 2 = 5 ∧ ent (cmdOf (fieldsOf 128 [(0, 1, 0x41), (6, 2, 5)])).entry 6 2 = 5 := by decide +kernel

/-! #### Scratchpads and aliases -/

/-- A request of this requester against these rivals. -/
def asks (who : Requester) (rivals : List Requester) : PortRequest := ⟨who, some 0, rivals, false⟩
theorem test_witness_scratchpad : FreePort up tile23 (asks .dma [.dma, .remote]) ∧ LostPort up tile23 (asks .dma [.arrayFeed]) ∧ ({ asks .dma [] with upset := true } : PortRequest).upset = true ∧
    windowLegal .plain .dma 0 4 true = true ∧ windowLegal .plain .dma 0 64 false = true ∧ windowLegal .plain .dma 4 64 true = false ∧ windowLegal .rotate .dma 4 64 true = true ∧
    windowLegal .plain .buddy 0x2C000 64 true = true ∧ windowLegal .plain .dma 0x2C000 64 true = false ∧ (8 % 8 = 0 ∧ regionOpen .dma 8 8 true = true ∧ regionOpen .dma 4 4 false = true) ∧
    up.tileRuns tile23.bay.val tile23.tile.val = true := by
  refine ⟨⟨by decide +kernel, by decide +kernel, rfl, by decide +kernel⟩, ⟨by decide +kernel, by decide +kernel, rfl, ⟨.arrayFeed, by decide +kernel⟩⟩, ?_⟩
  decide +kernel
/-- A requester that has lost sixteen beats, beside one that has not, one that has, and array feed. -/
def lost16 : Device := up.setTile (refKey tile23) { Tile.idle with lost := [(requesterNum .vectorUnit, 16), (requesterNum .remote, 16)] }
theorem test_witness_lost : lost16.tileRuns 2 3 = true ∧ (lost16.tile (refKey tile23)).port = [] ∧ 16 ≤ (lost16.tile (refKey tile23)).lost.get 0 (requesterNum .vectorUnit) ∧ Requester.arrayFeed ∉ ([.dma, .remote] : List Requester) ∧
    (∀ r ∈ ([.dma, .remote] : List Requester), 16 ≤ (lost16.tile (refKey tile23)).lost.get 0 (requesterNum r) → priorityOf .vectorUnit ≤ priorityOf r) ∧
    (Requester.vectorUnit ∈ ([.vectorUnit] : List Requester) ∧ Requester.vectorUnit ≠ .remote ∧ priorityOf .vectorUnit < priorityOf .remote) ∧ windowLegal .bitSet .dma 8 8 false = true ∧ windowLegal .rotate .arrayFeed 1 2 true = true := by decide +kernel

/-! #### Tile operations -/

/-- One operation of bay 2 with tally tag 7. -/
def opAt (k : OpKind) (x : OpState) : TileOp := ⟨k, 2, 1, 16, 0, 0, 1, 1, 34, x, 3, some 7, false, []⟩
/-- The command of entry `e` with that operation. -/
def cmdWith (e : List Byte) (k : OpKind) (x : OpState) : Cmd := { cmdOf e with ops := [opAt k x], ext := fieldsOf 128 [(0x28, 8, 0x2000), (0x34, 1, 3), (0x36, 1, 4)] }
/-- A block with the operand tables and their F4 sheaves of tile 3's command, its operation in a slot of the tile. -/
def working (c : Cmd) (k : OpKind) (tl : Tile) : Device :=
  { waitingMm 0 0 with cmds := [c], mem := Mem.write (Mem.write (waitingMm 0 0).mem 0x1020 (leBytes 8 0x8003)) 0x2020 (leBytes 8 0x9003) }.setTile (tileKey 2 3) { tl with slots := [⟨0, 0, k, false⟩] }
/-- A member of one lane on array 0, and the group of it at block `pos` and course `course`. -/
def mem1 (start : Option (List Acc)) (att : List (List AttState)) : Member := ⟨0, 0, 0, 1, [0], [(0, 0)], [], att, start, 0, 0⟩
def groupAt (pos course : Nat) : ArrayGroup := ⟨[mem1 none []], pos, course, 0, 0⟩
/-- A COPY entry. -/
def copyEntry : List Byte := fieldsOf 128 [(0, 1, 0x22), (3, 1, 4), (6, 2, 0xFFFF), (0x0C, 2, 0xFFFF), (0x20, 8, 0x1000), (0x28, 8, 0x2000)]
/-- An ATTENTION entry over the tables at 0x1000 and 0x2000. -/
def attEntry : List Byte := fieldsOf 128 [(0, 1, 2), (6, 2, 0xFFFF), (0x0C, 2, 0xFFFF), (0x20, 8, 0x1000), (0x28, 8, 0x2000), (0x30, 8, 0x3000), (0x60, 8, 0x4000), (0x68, 1, 0x1B), (0x69, 1, 0x44)]

theorem test_witness_delivery : (let c := cmdWith copyEntry .transfer .held; let d := working c .transfer Tile.idle;
      d.bayWorks 2 ∧ d.nextDelivery 2 3 = some c ∧ c.heldOp 2 = some 0 ∧ c.ops[0]? = some (opAt .transfer .held) ∧ c.badRecipe d = none ∧ slotFree (d.tile (tileKey 2 3)) c.urgent = true ∧
        ((d.bay 2).takeTally false).map (·.1) = some 0) ∧
    (slotFree { Tile.idle with slots := List.replicate 16 ⟨0, 0, .transfer, true⟩ } false = false ∧ ({ Bay.fresh with tallyFree := [] } : Bay).takeTally false = none ∧ up.nextDelivery 2 3 = none) := by
  refine ⟨⟨⟨.inl ?_, ?_⟩, ?_⟩, ?_⟩ <;> decide +kernel
theorem test_witness_start : StartsNext (working (cmdWith copyEntry .transfer .waiting) .transfer Tile.idle) tile23 .transfer ⟨0, 0, .transfer, false⟩ (cmdWith copyEntry .transfer .waiting) (opAt .transfer .waiting) ∧
    (let d := working (cmdWith copyEntry .vector .waiting) .vector Tile.idle;
      StartsNext d tile23 .vector ⟨0, 0, .vector, false⟩ (cmdWith copyEntry .vector .waiting) (opAt .vector .waiting) ∧ d.kindRuns tile23 .vector = false ∧ d.attRuns tile23 = false) := by
  refine ⟨⟨?_, ?_, ?_, ?_, ?_⟩, ⟨?_, ?_, ?_, ?_, ?_⟩, ?_, ?_⟩ <;> decide +kernel
theorem test_witness_start_array : let c := cmdWith (matmulEntry 0 0) .array .waiting; let d := working c .array Tile.idle;
    StartsNext d tile23 .array ⟨0, 0, .array, false⟩ c (opAt .array .waiting) ∧ (d.tile (refKey tile23)).arr = none ∧ (d.tile (refKey tile23)).pre = none ∧ d.snapRecord 2 3 0 0 = none ∧
      (c.arrayCmd d).isOk = true ∧ ∀ a, c.arrayCmd d = .ok a → a.isAtt = false ∧ (d.place 2 3 (c.readCtx d 2) a 0 0 (opAt .array .waiting) 0 0).isOk = true := by
  refine ⟨⟨?_, ?_, ?_, ?_, ?_⟩, ?_, ?_, ?_, ?_, ?_⟩
  rotate_left 9
  · intro a h; cases h; decide +kernel
  all_goals decide +kernel
/-- A second operation of the same shape beside a group that has not ended its first block, and beside one that has. -/
theorem test_witness_join : let c := { cmdWith (matmulEntry 0 0) .array .waiting with ops := [opAt .array .running, { opAt .array .waiting with col0 := 16 }] }
    (∀ pos ∈ [0, 1], let d := ({ working c .array Tile.idle with cmds := [c] } : Device).setTile (tileKey 2 3) { Tile.idle with arr := some (groupAt pos 0), slots := [⟨0, 0, .array, false⟩, ⟨0, 1, .array, false⟩] }
      StartsNext d tile23 .array ⟨0, 1, .array, false⟩ c { opAt .array .waiting with col0 := 16 } ∧ (d.tile (refKey tile23)).arr = some (groupAt pos 0) ∧ (groupAt pos 0).members.head? = some (mem1 none [])) ∧
    (let d := { working c .array Tile.idle with cmds := [c] }; (d.pieceOf (mem1 none [])).isOk = true ∧ (groupAt 0 0).freeBase 1 = some 1 ∧ (groupAt 0 0).freeBase 4 = none ∧
      ∀ p, d.pieceOf (mem1 none []) = .ok p → p.joins c { opAt .array .waiting with col0 := 16 } p.arr = true ∧ arraysOf p.arr.b.cls 16 = 1) := by
  refine ⟨?_, by decide +kernel, by decide +kernel, by decide +kernel, ?_⟩
  · intro pos h
    simp only [List.mem_cons, List.not_mem_nil, or_false] at h
    rcases h with rfl | rfl <;> exact ⟨⟨by decide +kernel, by decide +kernel, by decide +kernel, by decide +kernel, by decide +kernel⟩, rfl, rfl⟩
  · intro p h; cases h; decide +kernel
/-- A command's operation that runs on tile 3's arrays as group `g`. -/
def onArrays (c : Cmd) (g : ArrayGroup) : Device := working c .array { Tile.idle with arr := some g }
/-- Blocks whose residues agree and do not, before the end of the first course; courses before and at their end, and past the last. -/
theorem test_witness_block : let c := cmdWith (matmulEntry 0 0) .array .running; let d := onArrays c (groupAt 0 0)
    ∃ p, d.arrayWork tile23 = some (groupAt 0 0, [p]) ∧ 0 < p.arr.courseAt 0 ∧ 0 < p.arr.courses ∧ p.tree = false ∧
      (∃ b, pieceBlock d tile23 p 0 [] = .ok b ∧ ∀ l ∈ b.lanes, l.2 = true) ∧ ∃ b, pieceBlock d tile23 p 0 [(0, 3)] = .ok b ∧ ∃ l ∈ b.lanes, l.2 = false := by
  refine ⟨_, rfl, by decide +kernel, by decide +kernel, by decide +kernel, ⟨_, rfl, by decide +kernel⟩, ⟨_, rfl, by decide +kernel⟩⟩
theorem test_witness_course : let c := cmdWith (matmulEntry 0 0) .array .running; let d := onArrays c (groupAt 1 0)
    ∃ p, d.arrayWork tile23 = some (groupAt 1 0, [p]) ∧ p.arr.courseAt 0 ≤ 1 ∧ p.arr.courses = 1 ∧ (∀ m ∈ (groupAt 1 0).members, m.start = none) ∧
      (d.foldMember 2 3 (groupAt 1 0) p (p.arr.fold.c0 + 0)).isOk = true ∧ (mem1 (some [accZero]) []).start.isSome = true := by
  refine ⟨_, rfl, by decide +kernel, by decide +kernel, by decide +kernel, by decide +kernel, by decide +kernel⟩
theorem test_witness_attention : let c := cmdWith attEntry .array .running; let g : ArrayGroup := ⟨[mem1 none [[]]], 0, 0, 0, 0⟩; let d := onArrays c g
    ∃ p, d.arrayWork tile23 = some (g, [p]) ∧ p.arr.isAtt = true ∧ 0 < p.arr.courseAt 0 ∧ (pieceBlock d tile23 p 0 []).isOk = true := by
  refine ⟨_, rfl, by decide +kernel, by decide +kernel, by decide +kernel⟩
theorem test_witness_drain : let c := cmdWith (matmulEntry 0 0) .array .running; let r : Drain := ⟨mem1 none [], true, [[]]⟩; let d := working c .array { Tile.idle with drains := [r] }
    d.tileRuns 2 3 = true ∧ d.nextDrain tile23 = some r ∧ d.tokenWait 0 0 = false ∧
      ∃ p, d.pieceOf r.mem = .ok p ∧ (drainArray d (p.cmd.readCtx d 2) p.arr p.op (drainLanes r (d.drainRuns 2 3 r))).isOk = true := by
  refine ⟨by decide +kernel, by decide +kernel, by decide +kernel, _, rfl, by decide +kernel⟩

/-- The bytes of a recipe with two steps, LOAD into V0 and STORE of V0, its row length 8 (R180). -/
def recipeBody : List Byte := fieldsOf 32 [(0, 1, 1), (1, 1, 2), (2, 1, 1), (3, 1, 1), (4, 4, 8), (0x10, 8, 0x30 * 2 ^ 58), (0x18, 8, 0x31 * 2 ^ 58)]
/-- The recipe command whose recipe stands at 0x5000. -/
def recipeCmd (x : OpState) : Cmd := cmdWith (fieldsOf 128 [(0, 1, 0x13), (6, 2, 0xFFFF), (0x0C, 2, 0xFFFF), (0x20, 8, 0x5000), (0x28, 8, 0x1000), (0x48, 8, 0x2000), (0x68, 1, 0x1B), (0x6C, 1, 0x1B), (0x74, 4, 1)]) .vector x
/-- A block with that command on tile 3, and the recipe in memory. -/
def recipeWork (x : OpState) (tl : Tile) : Device :=
  { up with cmds := [recipeCmd x], mem := Mem.write [] 0x5000 (recipeBody ++ leBytes 4 (crc32c recipeBody)) }.setTile (tileKey 2 3) { tl with slots := [⟨0, 0, .vector, false⟩] }
theorem test_witness_recipe : StartsNext (recipeWork .waiting Tile.idle) tile23 .vector ⟨0, 0, .vector, false⟩ (recipeCmd .waiting) (opAt .vector .waiting) ∧ opcodeOf (recipeCmd .waiting).entry = 0x13 ∧
    ((recipeCmd .waiting).recipe (recipeWork .waiting Tile.idle)).isOk = true ∧ ((recipeCmd .held).recipe (recipeWork .held Tile.idle)).isOk = true := by
  refine ⟨⟨?_, ?_, ?_, ?_, ?_⟩, ?_⟩ <;> decide +kernel
/-- The ends of a transfer, of a vector piece, and of a recipe piece finished and not. -/
theorem test_witness_ends :
    (let d := working (cmdWith copyEntry .transfer .running) .transfer Tile.idle; d.tileRuns 2 3 = true ∧ d.runningOp tile23 .transfer = some ⟨0, 0, .transfer, false⟩ ∧ d.cmd 0 = some (cmdWith copyEntry .transfer .running) ∧
      opcodeOf copyEntry ≠ 0x13 ∧ d.tokenWait 0 0 = false) ∧
    (∀ b, let v := { piece [(0x30, word1)] 1 with finished := b }; let d := recipeWork .running { Tile.idle with vu := some v };
      d.tileRuns 2 3 = true ∧ d.runningOp tile23 .vector = some ⟨0, 0, .vector, false⟩ ∧ d.cmd 0 = some (recipeCmd .running) ∧ (d.tile (refKey tile23)).vu = some v ∧ v.cmd = 0 ∧ v.op = 0 ∧ v.finished = b ∧ d.tokenWait 0 0 = false) ∧
    (opAt .array .running).state = .running ∧ (opAt .array .running).tally = some 7 ∧ (opAt .array .running).bay < 8 ∧ (∃ c : Cmd, c.urgent = true) := by
  refine ⟨by decide +kernel, by decide +kernel, rfl, rfl, by decide, ⟨{ cmdOf fenceEntry with urgent := true }, rfl⟩⟩
/-- A saved group, and pieces past their first group with and without an older record. -/
theorem test_witness_saved :
    (let d := working (cmdWith (matmulEntry 0 0) .array .preempted) .array { Tile.idle with pre := some (groupAt 0 0) };
      d.tileRuns 2 3 = true ∧ (d.tile (refKey tile23)).pre = some (groupAt 0 0) ∧ (d.tile (refKey tile23)).arr = none ∧ d.nextSlot tile23 .array = none ∧ (groupAt 0 0).members.any d.isAttention = false ∧
      (d.tile (refKey tile23)).drainsLanes = false) ∧
    (let v := { piece [(0x30, word1)] 200 with group := 1 }; let d := recipeWork .running { Tile.idle with vu := some v, rowRecs := [⟨1, 0, 0, 0, 0, []⟩] };
      d.vuWork tile23 = some (v, recipeCmd .running) ∧ v.finished = false ∧ v.pc = v.passStart ∧ 0 < v.group ∧ (d.tile (refKey tile23)).rowRecs = [⟨1, 0, 0, 0, 0, []⟩] ∧
      (∀ n, n < 2 → d.held (rowSlot 2 3 n) 2112 = false)) ∧ Tile.idle.rowRecs = [] := by decide +kernel
/-- An urgent operation waits beside a running one. -/
theorem test_witness_preempt : let c := cmdWith (matmulEntry 0 0) .array .running; let u := { cmdWith (matmulEntry 2 0) .array .waiting with tag := 1, urgent := true }
    let d := { working c .array Tile.idle with cmds := [c, u] }.setTile (tileKey 2 3) { Tile.idle with arr := some (groupAt 0 0), slots := [⟨0, 0, .array, false⟩, ⟨1, 0, .array, true⟩] }
    ∃ p, d.arrayWork tile23 = some (groupAt 0 0, [p]) ∧ d.nextSlot tile23 .array = some ⟨1, 0, .array, true⟩ ∧ p.cmd.urgent = false ∧ (d.tile (refKey tile23)).pre = none :=
  ⟨_, rfl, by decide +kernel, by decide +kernel, by decide +kernel⟩
/-- A twin disagreement is found, an error record has room, a corrected error counts. -/
theorem test_witness_detect : fatal [.twin] = true ∧ fatal [.dieCorrected 2] = false ∧ (∀ b, Detected.twin ≠ .dieCorrected b) ∧ (detCounter .twin).isSome = true ∧ (up.bay 2).state ≠ .out ∧ up.safety.errors.length < 256 ∧ up.log.state ≠ 2 := by decide +kernel
theorem test_witness_trips : (let c := { cmdOf fenceEntry with settings := [(0x205104, some 0), (0x205204, some 0xFFFF)] }; c.setting up 0x205104 = 0 ∧ c.setting up 0x205204 = 0xFFFF) ∧
    (let c := { cmdOf fenceEntry with settings := [(0x205104, some 0xFFFF), (0x205204, some 0)] }; c.setting up 0x205104 = 0xFFFF ∧ c.setting up 0x205204 = 0) := by decide +kernel
/-- A QUANTISE whose only sheaf has tripped. -/
def tripCmd : Cmd :=
  { cmdOf (fieldsOf 128 [(0, 1, 0x10), (3, 1, 1), (6, 2, 0xFFFF), (0x0C, 2, 0xFFFF), (0x20, 8, 0x2000), (0x30, 8, 0x1000), (0x38, 8, 3)]) with outs := [⟨1, 1, 0, 0, false, 5, 0⟩], trips := [⟨0, 0, 9, 5, 0, []⟩] }
theorem test_witness_reexecution : let d := { working tripCmd .vector Tile.idle with cmds := [tripCmd] }
    d.cmd 0 = some tripCmd ∧ tripCmd.tag = 0 ∧ tripCmd.trips = [⟨0, 0, 9, 5, 0, []⟩] ∧ tripCmd.outs[0]? = some ⟨1, 1, 0, 0, false, 5, 0⟩ ∧ (tripCmd.outSpecs d).isOk = true ∧
      ∀ os, tripCmd.outSpecs d = .ok os → os.length = 1 ∧ ∀ o, os[0]? = some o → let g := (qctl o.ctl).gutter && isNarrow 9;
        (writeSheaf d (tripCmd.readCtx d tripCmd.homeBay) o.tab 0 9 g (encodeSheaf 9 g (gutterRatio (qctl o.ctl) (tripCmd.setting d 0x204002)) []).bytes).isOk = true := by
  refine ⟨by decide +kernel, rfl, rfl, rfl, by decide +kernel, ?_⟩
  intro os h; cases h; exact ⟨by decide +kernel, by intro o h; cases h; decide +kernel⟩

/-! #### Safety: bays, take-overs, device domain, promises, books, beacons -/

/-- A block whose oldest error record is of bay 2, tile 3. -/
def withError (f : Detected) : Device := { up with safety := { Safety.fresh with errors := [⟨2, 3, 0, f, 0, 0⟩] } }
/-- Bay 2 in a take-over of tile 3 at a stage, with spares left. -/
def takingOver (g : TakeStage) (spares : List Nat) : Device :=
  up.modBay 2 fun b => { b with state := .recovery, phys := List.range 1280, spares := spares, takeOver := some ⟨3, 3, some 1280, g, 0, 0, 0, 0, 0, 0, 0⟩ }
theorem test_witness_bay_reset : (up.bay 2).closed = false ∧ (up.bay 2).state ≠ .reset ∧ (up.bay 2).nesting = 0 ∧ up.bayOut 2 = false ∧ ((up.modBay 2 fun b => { b with state := .reset }).bay 2).state = .reset ∧
    (withError (.dieDouble 5)).safety.errors = [⟨2, 3, 0, .dieDouble 5, 0, 0⟩] ∧ detBlamesTile .residue = true ∧ ((withError .residue).bay 2).state ≠ .reset := by decide +kernel
/-- A second detection in a bay under handling, with a spare slate for the tile it blames and with none. -/
def nested (spares : List Nat) : Device :=
  { (up.modBay 2 fun b => { b with state := .recovery, phys := [], spares := spares }) with safety := { Safety.fresh with errors := [⟨2, 3, 1, .residue, 0, 0⟩] } }
theorem test_witness_spares :
    (nested [1280]).safety.errors = [⟨2, 3, 1, .residue, 0, 0⟩] ∧ (nested [1280]).bayOut 2 = false ∧ ((nested [1280]).bay 2).state ≠ .reset ∧
    (((nested [1280]).retireTile 2 (((nested [1280]).bay 2).physOf 3)).bay 2).lacksSpare = false ∧
    (((nested []).retireTile 2 (((nested []).bay 2).physOf 3)).bay 2).lacksSpare = true ∧
    ((up.modBay 2 fun b => { b with state := .reset }).bay 2).lacksSpare = false ∧
    ((up.modBay 2 fun b => { b with state := .reset, retired := [3], spares := [] }).bay 2).lacksSpare = true := by decide +kernel
theorem test_witness_take_over :
    (∀ g, ((takingOver g [1280, 1281]).bay 2).takeOver = some ⟨3, 3, some 1280, g, 0, 0, 0, 0, 0, 0, 0⟩) ∧ (takingOver .containing []).bayOut 2 = false ∧ ((takingOver .containing []).bay 2).spares = [] ∧
    ((takingOver .fetching [1280, 1281]).bay 2).spares = [1280, 1281] ∧ (takingOver .fetching []).tile (tileKey 2 3) = Tile.idle ∧
    ((takingOver .protecting []).tile (tileKey 2 3)).protected' = true ∧ ((takingOver .protecting []).tile (tileKey 2 (buddyOf 3))).protected' = true ∧ [1280, 1281].erase 1280 = [1281] := by
  refine ⟨fun g => rfl, ?_⟩
  decide +kernel
/-- Results of a spare that agree with its buddy's, and that do not. -/
theorem test_witness_spare : resultsAgree [0x12, 0x34] [0x12, 0x34] = true ∧ resultsAgree [0x12, 0x34] [0x12, 0x35] = false ∧ resultsAgree [] [] = false ∧ ((takingOver .fetching [1280, 1281]).tile (tileKey 2 3)).slots = [] := by decide +kernel
theorem test_witness_phys : ((takingOver .fetching []).bay 2).phys.length = 1280 := by unfold takingOver; rw [Device.bay_modBay_same _ (by decide)]; simp only [List.length_range]
/-- A bay in reset with all its numbers placed and a spare slate. -/
def inReset : Device := up.modBay 2 fun b => { b with state := .reset, phys := List.range 1280, spares := [1280] }
theorem test_witness_renumber : (inReset.bay 2).state = .reset ∧ (inReset.bay 2).lacksSpare = false ∧ ∀ p, p ∈ (inReset.bay 2).spares → p ∉ (inReset.bay 2).retired := by decide +kernel
theorem test_witness_renumber_phys : (inReset.bay 2).phys.length = 1280 := by unfold inReset; rw [Device.bay_modBay_same _ (by decide)]; simp only [List.length_range]
theorem test_witness_device_domain : up.isReady = true ∧ up.safety.devHandling = 0 ∧ ({ up with safety := { Safety.fresh with devHandling := 1 } } : Device).safety.devHandling = 1 := by decide +kernel
/-- A STAGE_RECV whose message has not come, at edges of its promise. -/
def recvCmd : Cmd := { cmdOf (fieldsOf 128 [(0, 1, 0x32), (6, 2, 0xFFFF), (0x0C, 2, 0xFFFF)]) with promise := 5, overdueAt := 5, coll := some ⟨0, 0, [], 0, [], 0, false, none⟩ }
/-- A COPY from host memory that runs. -/
def hostCopy : Cmd := cmdWith (fieldsOf 128 [(0, 1, 0x22), (6, 2, 0xFFFF), (0x0C, 2, 0xFFFF), (0x38, 1, 1)]) .transfer .running
theorem test_witness_promises :
    (let d := flying recvCmd; d.cmd 0 = some recvCmd ∧ recvCmd.overdue = false ∧ d.now < recvCmd.promise) ∧
    (let d := { flying recvCmd with now := 5 }; recvCmd.promise ≤ d.now ∧ recvCmd.failure = none ∧ recvCmd.overdueAt ≤ d.now ∧ isFabricOp (opcodeOf recvCmd.entry) = true ∧ d.awaitsPartner recvCmd = true) ∧
    (let c := cmdOf fenceEntry; c.failure = none ∧ c.overdueAt ≤ (flying c).now ∧ isFabricOp (opcodeOf c.entry) = false ∧ (flying c).holders c = []) ∧
    (hostCopy.failure = none ∧ hostCopy.usesHost = true ∧ opAt .transfer .running ∈ hostCopy.ops ∧ (flying hostCopy).cmd 0 = some hostCopy) := by decide +kernel
/-- Each book in balance and out of it. -/
theorem test_witness_books :
    up.bookOk (.sqSlots 0) = true ∧ (pairs 0 { open1 with sqTail := 256 }).bookOk (.sqSlots 0) = false ∧ (pairs 63 { open1 with reserved := 1 }).bookOk (.cqSlots 63) = false ∧
    (up.modBay 2 fun b => { b with slotsFree := 1 }).bookOk (.tileSlots 2) = false ∧
    (up.modBay 2 fun b => { b with dieTokens := 31 :: List.replicate 15 32 }).bookOk (.dieTokens 2) = false ∧ (up.modBay 2 fun b => { b with hbmTokens := 63 :: List.replicate 63 64 }).bookOk (.hbmTokens 2) = false ∧
    (up.modPort 2 fun p => { p with lossFree := 511 }).bookOk (.fabricCredits 2) = false ∧ (up.modPort 2 fun p => { p with tokensFree := 15 }).bookOk (.chainTokens 2) = false := by decide +kernel
theorem test_witness_books1 : (up.modBay 2 fun b => { b with tallyFree := [], tallyUrgentFree := [] }).bookOk (.tileTags 2) = false := by decide +kernel
/-- The command-tag book, out of balance for the second time within a second. -/
theorem test_witness_tags : let d := { up with tagsFree := [0], safety := { Safety.fresh with tagAuditAt := some 0 } }; d.isReady = true ∧ d.bookOk .commandTags = false ∧ d.safety.tagAuditAt = some 0 ∧ d.now ≤ 0 + 1000000000 := by decide +kernel
/-- A round of one digest, and a frame of the predecessor with digest `w`. -/
def round1 : Round := ⟨7, 0, 1, [0], [5], some 0, none⟩
def beaconUp (r : Round) (fs : List BeaconFrame) : Device := { up with safety := { Safety.fresh with beacon := ⟨some r, [], fs⟩ } }
/-- The predecessor's frame with digest `w` and manifest version `v`. -/
def frame1 (v : Nat) (w : W64) : BeaconFrame := ⟨0, 7, v, 1, [w], 0⟩
theorem test_witness_beacons : (beaconUp round1 [frame1 1 6]).testBay = some 0 ∧ (beaconUp round1 [frame1 1 6]).roundFrame round1 = some (frame1 1 6) ∧ (beaconUp round1 [frame1 2 5]).roundFrame round1 = some (frame1 2 5) := by decide +kernel
theorem test_witness_digests : firstDiff [5] [5] = none ∧ firstDiff [5] [6] = some 0 ∧ (lastCounters [5] [5]).getD 0 0 = 1 := by decide +kernel
theorem test_witness_comparison : let r := { round1 with comparing := some (tileKey 0 0) }; let d := (beaconUp r [frame1 1 6]).modBay 0 fun b => { b with state := .test }; d.roundFrame r = some (frame1 1 6) ∧ (d.bay 0).state = .test ∧ d.safety.beacon.waiting = [] ∧ (up.bay 0).state ≠ .test := by decide +kernel
theorem test_witness_beacon_timeout : (0 + 1000000000 ≤ 1000000000) ∧ (beaconUp round1 []).roundFrame round1 = none ∧ round1.readyAt = some 0 := by decide +kernel

/-! #### Memories and tokens -/

/-- Bay 2 one error below the threshold at pseudo-channel 5, row 9, and with that row waiting for its move. -/
def rowsDev (n : Nat) (ps : List (Nat × Nat)) : Device := up.modBay 2 fun b => { b with rowErrors := [(rowKey 5 9, n)], paused := ps, badReserve := [(5, 62436)] }
theorem test_witness_row_moves : ((rowsDev 2 []).bay 2).closed = false ∧ 9 < 62500 ∧ ((rowsDev 2 []).bay 2).rowErrors.get 0 (rowKey 5 9) = 2 ∧ ((rowsDev 2 []).bay 2).freeReserve 5 = some 62437 ∧ (5, 9) ∉ ((rowsDev 2 []).bay 2).paused ∧
    (5, 9) ∈ ((rowsDev 3 [(5, 9)]).bay 2).paused ∧ ((rowsDev 3 [(5, 9)]).bay 2).remaps = [] ∧ (0 + 1 < (rowsDev 0 []).setting 0x502001 ∧ (rowsDev 0 []).setting 0x502001 ≤ 9999 + 1) ∧
    ((up.modBay 2 fun b => { b with remapDirty := some 0 }).bay 2).remapDirty.isSome = true ∧ ((rowsDev 2 []).bay 2).rowInUse 5 9 = true ∧ ((rowsDev 2 []).bay 2).rowInUse 5 62437 = false ∧
    ((up.modBay 2 fun b => { b with badReserve := (List.range' 62436 64).map fun r => (5, r) }).bay 2).freeReserve 5 = none ∧
    (let b := (up.modBay 2 fun b => { b with remaps := [⟨5, 9, 62436⟩] }).bay 2; b.rowInUse 5 62436 = true ∧ b.rowInUse 5 9 = false ∧ b.freeReserve 5 = some 62437) ∧
    (up.modBay 0 fun b => { b with paused := [((rowOfLine 128).1, (rowOfLine 128).2.1)] }).held 0x2000 4 = true := by decide +kernel
theorem test_witness_stack : (up.bay 2).closed = false ∧ (up.bay 2).nesting = 0 ∧ (up.bay 2).state ≠ .reset ∧ 249 < 250 ∧ 2 * 2 ^ 30 + lineOfRow 63 62499 249 < 2 ^ 33 ∧
    (up.bay 2).retries.get 0 63 < 3 ∧ 3 ≤ ((up.modBay 2 fun b => { b with retries := [(63, 3)] }).bay 2).retries.get 0 63 ∧ 2 * 2 ^ 30 + (up.bay 2).scrubNext ∈ ({ up with poison := [2 ^ 31] } : Device).poison ∧
    (let b := up.bay 2; let x := rowOfLine b.scrubNext; 2 * 2 ^ 30 + lineOfRow x.1 (b.logicalRow x.1 (b.physRow x.1 x.2.1)) x.2.2 = 2 ^ 31 ∧ (x.1, b.physRow x.1 x.2.1) = (0, 0)) := by decide +kernel
/-- Bay 2 with a source waiting, its bucket full or empty. -/
def waitsDev (n : Nat) : Device := up.modBay 2 fun b => { b with tokens := Q.ofNat n, waits := [⟨1, 0, 0, 2⟩, ⟨0, 0, 0, 1⟩] }
theorem test_witness_tokens : ((waitsDev 64).bay 2).nextWait = some ⟨0, 0, 0, 1⟩ ∧ ((waitsDev 64).tokensNow 2).lt (Q.ofNat 64) = false ∧ ((waitsDev 63).tokensNow 2).lt (Q.ofNat 64) = true ∧
    (({ waitsDev 64 with now := 0 }.modBay 2 fun b => { b with lastServed := 0 }).bay 2).nextWait = some ⟨1, 0, 0, 2⟩ ∧ (∃ x, x ∈ ((waitsDev 64).bay 2).waits ∧ x.src = (((waitsDev 64).bay 2).lastServed + 1 + 0) % 8) := by
  refine ⟨by decide +kernel, by decide +kernel, by decide +kernel, by decide +kernel, ⟨⟨0, 0, 0, 1⟩, by decide +kernel⟩⟩
/-- A GATHER that runs, whose source sheaf lies behind far-tier port 1. -/
def gatherCmd : Cmd := cmdWith (fieldsOf 128 [(0, 1, 0x20), (6, 2, 0xFFFF), (0x0C, 2, 0xFFFF), (0x20, 8, 0x1000), (0x28, 8, 0x2000), (0x30, 8, 0x5000), (0x38, 4, 1)]) .transfer .running
def farDev : Device := { working gatherCmd .transfer Tile.idle with farCap := Vector.replicate 2 (2 ^ 38), farState := Vector.replicate 2 1, mem := Mem.write (waitingMm 0 0).mem 0x1020 (leBytes 8 0x820000000003) }
theorem test_witness_far : farDev.cmd 0 = some gatherCmd ∧ gatherCmd.running = true ∧ gatherCmd.usesPort farDev 1 = true ∧ farDev.farState[1]?.getD 0 = 1 := by decide +kernel

/-! #### The fabric -/

/-- Port 2 up, alone. -/
def linked (f : Port → Port) : Device := up.modPort 2 fun p => f { p with state := 2 }
/-- A frame of device 1 for device 0, of this type and sequence, as it arrives. -/
def rxOf (type seq op credits : Nat) : RxFrame := ⟨frameBytes ⟨type, 1, if type = ftHello then 0xFF else 0, seq, op, 0, 0, true, 0, 0, credits, 0, 0, []⟩, true, true, true, 1, true, 0x0200000001⟩
/-- The frame is taken. -/
def taken' (d : Device) (type seq op credits : Nat) : Bool := (d.receive 2 type (rxOf type seq op credits)).2.isSome
theorem test_witness_frames : (∀ ty ∈ [ftData, ftAck, ftNak, ftGrant, ftHello, ftAbort], taken' (linked id) ty 0 0 1 = true ∧ (parseFrame (rxOf ty 0 0 1).bytes).isSome = true) ∧
    ((linked id).port 2).state = 2 ∧ ({ rxOf ftAck 0 0 0 with fcsOk := false } : RxFrame).fcsOk = false := by decide +kernel
/-- In order, before, and past the expected number; with and without a recent negative acknowledgement. -/
theorem test_witness_sequence : (((linked id).port 2).peer 1).expect = 0 ∧ signed 32 (0 + 2 ^ 32 - 0) = 0 ∧ signed 32 (4294967295 + 2 ^ 32 - 0) < 0 ∧ 0 < signed 32 (1 + 2 ^ 32 - 0) ∧ 0 < ((linked id).port 2).lossFree ∧
    Peer.fresh.nakRecent 0 = false ∧ ({ Peer.fresh with lastNak := some 0 } : Peer).nakRecent 1999 = true := by decide +kernel
/-- Grants of credits and of stream messages. -/
theorem test_witness_grants : let d : Device := { linked id with dict := { Dict.fresh with vals := [(0x62FF01, some 1), (0x62FF02, some 1)] } }
    taken' d ftGrant 0 (2 ^ 31 + 255) 4 = true ∧ 2 ^ 31 ≤ 2 ^ 31 + 255 ∧ 2 ^ 31 + 255 - 2 ^ 31 < 256 ∧ d.streamObj 255 2 = 1 ∧ d.streamObj 255 1 = 1 := by decide +kernel
/-- A kept frame, sent `n` times. -/
def keptOnce (n : Nat) : Device := linked fun p => p.setPeer 1 { Peer.fresh with kept := [⟨⟨ftData, 0, 1, 0, 7, 0, 0, true, 0, 0, 0, 0, 0, []⟩, n, 0⟩] }
theorem test_witness_resend : (((keptOnce 1).port 2).peer 1).kept.length = 1 ∧ (keptOnce 1).now < 0 + ((keptOnce 1).port 2).retryNs ∧ 0 + ((keptOnce 1).port 2).retryNs ≤ ({ keptOnce 1 with now := 8000 } : Device).now ∧
    ((keptOnce 1).port 2).paused 0 ((keptOnce 1).port 2).lossPrio = false ∧ ((((keptOnce 1).port 2).peer 1).kept.filter fun y => seqLe 0 y.frame.seq) ≠ [] ∧ (∀ y ∈ (((keptOnce 4).port 2).peer 1).kept, y.sends < 5) ∧
    (∃ y, y ∈ (((keptOnce 5).port 2).peer 1).kept ∧ 5 ≤ y.sends) := by
  refine ⟨?_, ?_, ?_, ?_, ?_, ?_, ⟨⟨⟨ftData, 0, 1, 0, 7, 0, 0, true, 0, 0, 0, 0, 0, []⟩, 5, 0⟩, ?_⟩⟩ <;> decide +kernel
/-- A receive book in balance with a frame held, and out of it; a source that is up again. -/
theorem test_witness_book : (up.port 2).lossFree + (up.port 2).held.length = 512 ∧ (up.modPort 2 fun p => { p with lossFree := 511 }).creditsOk 2 = false ∧
    (let d := linked fun p => p.setPeer 1 { Peer.fresh with lastHello := some 0, ups := some 3 }; ∃ n, ((d.port 2).peer 1).ups = some n ∧ n ≠ 0) := ⟨by decide +kernel, by decide +kernel, 3, by decide +kernel⟩
/-- Links that can come up, a duplicate state long past, hellos of this device's own number from another card and of another device. -/
theorem test_witness_links : (up.port 2).state ≤ 1 ∧ up.isReady = true ∧ up.power.powerState = 0 ∧ (up.bay 2).closed = false ∧
    (let d := { linked fun p => { p with state := 3, dupAt := 0 } with now := 1000000001 }; (d.port 2).state = 3 ∧ 0 = (d.port 2).devNum ∧ (d.port 2).dupAt + 1000000000 < d.now) ∧
    (let d := { linked id with now := 100000000 }; (linked id).now < ((linked id).port 2).helloAt + 100000000 ∧ (d.port 2).helloAt + 100000000 ≤ d.now) ∧
    (let d := linked fun p => { p with devNum := 1 }; taken' d ftHello 0 0 0 = true ∧ 1 = (d.port 2).devNum ∧ (0x0200000001 : BitVec 48) ≠ fabricMacOf 2 1) ∧
    (let d := linked fun p => p.setPeer 1 { Peer.fresh with lastHello := some 0 }; taken' d ftHello 0 0 0 = true ∧ 1 ≠ (d.port 2).devNum ∧ silent d.now ((d.port 2).peer 1).lastHello = false) ∧
    fabricIp 0xFD0000000000 2 0 ≠ 0 := by decide +kernel
/-- A BROADCAST of two members on the first, its step 0 formed. -/
def castCmd (sent ended : Bool) : Cmd :=
  { cmdOf (fieldsOf 128 [(0, 1, 0x30), (6, 2, 0xFFFF), (0x0C, 2, 0xFFFF), (0x24, 4, 9)]) with
    settings := [(0x610001, some 2), (0x610002, some 0), (0x610003, some 1)], coll := some ⟨0, 0, [2], 0, [(0, { StepWork.none with formed := true, sent := sent, ended := ended, written := true })], 0, false, none⟩ }
/-- A block with that command and `ts` of port 2's tokens in use. -/
def chainDev (c : Cmd) (ts : List Token) : Device := { linked fun p => { p with tokens := ts, tokensFree := 16 - ts.length } with cmds := [c] }
theorem test_witness_chain_start : let s := chainDev (castCmd false false) []; let d := ((s.consume 2).advanceAll 2).grantOwed 2; let c := castCmd false false; let x := c.collOf d
    s.pauses = false ∧ d.cmd 0 = some c ∧ c.failure = none ∧ d.mayRun c = true ∧ d.power.powerState = 0 ∧ d.struck 0 = false ∧ opcodeOf c.entry = 0x30 ∧ 1 < x.ms.length ∧ x.tableFault d = none ∧ x.dest 0 = some 1 ∧
      d.portTurn c 2 = true ∧ (d.modPort 2 fun p => { p with tokensFree := 0 }).portTurn c 2 = false ∧
      ∃ w, c.coll = some w ∧ x.due d c w 2 0 = true ∧ d.planeFor w.planes (x.stepNo 0) 1 (w.step 0).moved = some 2 ∧ x.formsFirst w 0 = false ∧
        let t := d.stepAsk 2 c w 0 (x.sendRanges d (c.win d) w 0); t.2 = true ∧ ∃ ps, x.offer t.1 c w 2 0 = .ok (some ps) := by
  refine ⟨?_, ?_, ?_, ?_, ?_, ?_, ?_, ?_, ?_, ?_, ?_, ?_, _, rfl, ?_, ?_, ?_, ?_, _, rfl⟩ <;> decide +kernel
/-- A STAGE_SEND of 64 bytes whose slot is granted, and a STAGE_RECV first for its stream. -/
def sendCmd : Cmd :=
  { cmdOf (fieldsOf 128 [(0, 1, 0x31), (6, 2, 0xFFFF), (0x0C, 2, 0xFFFF), (0x24, 4, 64), (0x28, 8, 0x1000)]) with settings := [(0x620001, some 1)], coll := some ⟨0, 0, [2], 0, [], 0, false, none⟩ }
theorem test_witness_stage : (let s := { chainDev sendCmd [] with streams := [(0, { Stream.fresh with sendCredit := 1 })] }; let d := ((s.consume 2).advanceAll 2).grantOwed 2
      d.cmd 0 = some sendCmd ∧ sendCmd.failure = none ∧ d.mayRun sendCmd = true ∧ d.struck 0 = false ∧ opcodeOf sendCmd.entry = 0x31 ∧ d.portTurn sendCmd 2 = true ∧
      ∃ w, sendCmd.coll = some w ∧ d.sendTurn sendCmd w = true ∧ d.planeFor w.planes sendCmd.message (sendCmd.stagePeer d) (w.step sendCmd.message).moved = some 2 ∧
        let u := d.stepAsk 2 sendCmd w sendCmd.message (stageRanges d sendCmd); u.2 = true ∧ (stageParts u.1 sendCmd 2).isOk = true) ∧
    (let d := (((flying recvCmd).consume 2).advanceAll 2).grantOwed 2; d.cmd 0 = some recvCmd ∧ opcodeOf recvCmd.entry = 0x32 ∧ d.recvFirst recvCmd true = true ∧ ∃ w, recvCmd.coll = some w ∧ w.next = 0) := by
  refine ⟨⟨?_, ?_, ?_, ?_, ?_, ?_, _, rfl, ?_, ?_, ?_, ?_⟩, ?_, ?_, ?_, _, rfl, ?_⟩ <;> decide +kernel
theorem test_witness_chain_end : (let d := chainDev (castCmd true true) [⟨0, 0, true⟩]; (d.port 2).hasToken 0 0 true = true ∧ d.stepOpen 2 (castCmd true true) 0 = false ∧ d.cmd 0 = some (castCmd true true)) ∧
    (let d := chainDev (castCmd true true) [⟨0, 0, false⟩]; (d.port 2).hasToken 0 0 true = false ∧ (d.port 2).hasToken 0 0 false = true ∧ ∃ w, (castCmd true true).coll = some w ∧ (w.step 0).written = true) := by
  refine ⟨?_, ?_, ?_, _, rfl, ?_⟩ <;> decide +kernel
theorem test_witness_partner : let d := { flying recvCmd with now := 10 ^ 12 }; d.cmd 0 = some recvCmd ∧ d.awaitsPartner recvCmd = true ∧ recvCmd.progressAt + recvCmd.allowanceNs d + 1000000 ≤ d.now ∧
    (flying recvCmd).now < recvCmd.progressAt + recvCmd.allowanceNs (flying recvCmd) + 1000000 := by decide +kernel
theorem test_witness_abort : (let d := chainDev (castCmd false false) []; FrameArrives d 2 ftAbort (rxOf ftAbort 0 9 0) ((parseFrame (rxOf ftAbort 0 9 0).bytes).getD (d.frame 2 0 0)) ∧ d.opCmd 9 0 = some (castCmd false false) ∧ d.cmd 0 = some (castCmd false false)) ∧
    (let d : Device := { flying recvCmd with ports := (linked id).ports, dict := { Dict.fresh with vals := [(0x620001, some 1), (0x620003, some 0x10000), (0x620004, some 4096), (0x620005, some 2)] } };
      FrameArrives d 2 ftAbort (rxOf ftAbort 0 (2 ^ 31) 0) ((parseFrame (rxOf ftAbort 0 (2 ^ 31) 0).bytes).getD (d.frame 2 0 0)) ∧ d.streamReceives 0 = true ∧ d.streamObj 0 1 = 1 ∧ (d.stream 0).claimed ≤ 0 ∧
        ((d.stream 0).of 0).whole = false ∧ ((d.stream 0).of 0).void = 0 ∧ d.receiverOf 0 0 = some recvCmd ∧ d.mayRun recvCmd = true) := by
  refine ⟨⟨⟨?_, ⟨rfl, rfl, rfl, rfl⟩, rfl, ?_, ?_, ?_, ?_, ?_⟩, ?_, ?_⟩, ⟨?_, ⟨rfl, rfl, rfl, rfl⟩, rfl, ?_, ?_, ?_, ?_, ?_⟩, ?_⟩ <;> decide +kernel

/-! #### Pace, start-up, power and links -/

/-- A block in phase `p`. -/
def inPhase (p : Phase) (f : PowerDom → PowerDom) : Device := { Device.reset with power := f { PowerDom.unpowered with phase := p } }
theorem test_witness_pace : (up.isReady = true ∧ (inPhase .tested id).power.phase = .tested) ∧ up.now < up.pace.windowAt + 2000 ∧
    (let d := { up with now := 10000 }; d.pace.windowAt + 2000 ≤ d.now ∧ d.pace.thermalAt + 10000 ≤ d.now ∧ d.pace.thermalCeiling = none ∧ d.pace.hottest < 1000) ∧
    (∀ t ∈ [(1000 : Int), 1049], 1000 ≤ t ∧ t < 1050) ∧ (∀ t ∈ [(1050 : Int), 1099], 1050 ≤ t ∧ t < 1100) ∧ (999 : Int) < 1000 ∧ (1100 : Int) ≤ 1100 := by decide +kernel
theorem test_witness_holds : up.power.pwrgd = true ∧ (up.bay 2).holdSince = none ∧ (let d := up.modBay 2 fun b => { b with holdSince := some 0 }; (d.bay 2).holdSince = some 0 ∧ d.now < 0 + 2000 ∧ 0 + 2000 ≤ ({ d with now := 2000 } : Device).now) ∧
    (let d := { up with now := 100000, pace := { Pace.fresh with target := 750 } }; d.pace.stepAt + 100000 ≤ d.now ∧ d.pace.setpoint < d.pace.target ∧ up.now < up.pace.stepAt + 100000) ∧
    1343 ∉ (up.bay 2).retired ∧ up.baseline (gaugeNum (.tile 2 1343)) = 0 ∧
    (let d := { up with pace := { Pace.fresh with gauges := [(gaugeNum (.tile 2 1343), some ⟨1, 0, true⟩)] }, flash := { Flash.factory with baseline := [(gaugeNum (.tile 2 1343), 1060000)] } };
      d.baseline (gaugeNum (.tile 2 1343)) ≠ 0 ∧ d.gauge (gaugeNum (.tile 2 1343)) = some ⟨1, 0, true⟩) := by decide +kernel
theorem test_witness_start_up : Device.reset.power.phase = .off ∧ Device.reset.power.ovLock = false ∧ ((inPhase .off fun p => { p with ovLock := true }).power.ovLock = true) ∧ (inPhase .powering id).power.phase = .powering ∧
    (let d := inPhase .regulated id; d.images.present.testBit 0 = false ∧ d.power.phase = .regulated ∧ d.power.bcLow = false) ∧ (inPhase .regulated fun p => { p with bcLow := true }).power.bcLow = true ∧
    (inPhase .service id).power.phase = .service ∧ (inPhase .verified id).power.phase = .verified ∧ (0xFE : Byte).toNat.testBit 0 = false ∧ (0xFE : Byte).toNat.testBit 7 = true ∧
    (let d := { inPhase .trained id with dict := { Dict.fresh with vals := [(0x404001, some 0)] } }; d.power.phase = .trained ∧ d.images.cause = 0 ∧ d.fullTest = false) ∧
    (let d := inPhase .tested fun p => { p with planned := true }; d.mayBeReady = true ∧ d.images.cause = 0) ∧ (inPhase .tested id).mayBeReady = false := by decide +kernel
/-- A bay with 1,280 good tiles or more, at readiness. -/
theorem test_witness_bays : 1280 ≤ ({ Bay.fresh with retired := [5] } : Bay).goodTiles.length := by decide +kernel
theorem test_witness_power : up.power.phase ≠ .off ∧ up.power.pwrgd = true ∧ (1200 : Int) ≤ 1200 ∧ (600 : Int) < 601 ∧ (1199 : Int) < 1200 ∧ (600 : Int) ≤ 600 ∧ 1000000 ≤ 1000000 ∧ 99999 < 100000 ∧ Device.reset.power.phase = .off := by decide +kernel
theorem test_witness_links_host : up.power.linkUp = true ∧ up.isReady = true ∧ Device.reset.isReady = false ∧ Device.reset.safety.devHandling < 2 ∧ Device.reset.power.linkUp = false ∧
    (let d := { up with images := { Images.none with present := 4 } }; d.images.present.testBit 2 = true ∧ d.isReady = true) ∧
    (let d := up.withOut fun o => { o with msixPending := [66], msixMasked := [65], msixOn := false }; 66 ∈ d.out.msixPending ∧ (d.out.configure (.control true false)).msixOpen 66 = true ∧
      (d.out.configure (.control true true)).msixOpen 66 = false ∧ (d.out.configure (.entry 66 true)).msixOpen 66 = false) := by decide +kernel
theorem test_witness_banked : up.power.powerState = 0 ∧ (∀ n ∈ [1, 2, 3], ({ up with power := { up.power with powerState := n } } : Device).power.powerState = n ∧ ({ up with power := { up.power with powerState := n } } : Device).isReady = true) ∧
    (∀ b, let d := { up with power := { up.power with powerState := 2, wakeDue := true, l23 := b } }; d.power.wakeDue = true ∧ d.power.powerState = 2 ∧ d.power.l23 = b) ∧ up.power.wakeDue = false := by decide +kernel
theorem test_witness_doe : up.doeOpen = true ∧ Device.reset.doeOpen = false ∧ bytesNat [0x12, 0xE0, 0, 6] 1 1 = 0xE0 ∧ bytesNat [0x12, 0xE0, 0, 6] 0 1 = 0x12 ∧ bytesNat [0x11, 0xE0, 0, 6] 0 1 ≠ 0x12 ∧
    up.spdmStage < 3 ∧ 3 ≤ ({ up with spdmStage := 3 } : Device).spdmStage ∧ bytesNat (fieldsOf 37 [(0, 1, 0x12), (1, 1, 0xE0), (2, 1, 1), (3, 1, 6), (36, 1, 1)]) 36 1 % 16 ≠ 0 ∧ bytesNat [0x12, 0x83, 1, 0] 2 1 ≠ 0 ∧
    bytesNat [0x12, 0x83, 0, 2] 3 1 ∉ [0, 1, 0xFF] ∧ bytesNat [0x12, 0xE0, 0, 6] 3 1 = 6 ∧ bytesNat [0x10, 0x84, 0, 0] 0 1 = 0x10 := by decide +kernel

/-! #### Management -/

/-- A Brynuo message of these fields, well sealed, from peer 5. -/
def brOf (kind op ses seq nonce addr : Nat) (pay : List Byte) : BrFrame :=
  let b := fieldsOf 28 [(0, 2, 0x4E59), (2, 1, 1), (3, 1, kind), (4, 1, op), (5, 1, ses), (6, 2, seq), (8, 4, nonce), (0x0C, 4, addr), (0x14, 2, pay.length), (0x17, 1, 1)] ++ pay
  ⟨b ++ leBytes 4 (crc32c b), 5, true, 255, true, true⟩
/-- The header of a frame that parses. -/
def headOf (f : BrFrame) : BrHead := (parseBr f).getD ⟨0, 0, 0, 0, 0, 0, 0, 0, 0, 0, [], 0⟩
/-- A listening port whose session 2 is live with `f` done to it. -/
def talking (f : Session → Session) : Device := { up with dict := { Dict.fresh with mgmtUp := true } }.modSession 2 fun x => f { x with live := true, peer := 5, nonce := 9 }
theorem receivedOf (d : Device) (f : BrFrame) (kind op : Nat) (h : (d.listens && (f.linkLocal && f.hop == 255 && f.plain && f.udpOk) && (parseBr f == some (headOf f)) && (headOf f).kind == kind && (headOf f).op == op) = true) :
    Received d f kind op (headOf f) := by
  simp only [Bool.and_eq_true, beq_iff_eq] at h
  exact ⟨h.1.1.1.1, by simp only [Bool.and_eq_true, beq_iff_eq]; exact h.1.1.1.2, h.1.1.2, h.1.2, h.2⟩
theorem test_witness_brynuo : ∀ op ∈ [opKeepalive, opClose, opRead, opWrite, opClaim, opRelease],
    Received (talking id) (brOf 1 op 2 1 9 0x400002 []) 1 op (headOf (brOf 1 op 2 1 9 0x400002 [])) ∧ NextInSession (talking id) (headOf (brOf 1 op 2 1 9 0x400002 [])) 2 := by
  intro op h
  refine ⟨receivedOf _ _ _ _ ?_, ⟨?_, ?_, ?_, ?_, ?_⟩⟩ <;> revert op <;> decide +kernel
/-- A request of no operation of R408. -/
theorem test_witness_unknown : Received (talking id) (brOf 1 0x7E 2 1 9 0 []) 1 (headOf (brOf 1 0x7E 2 1 9 0 [])).op (headOf (brOf 1 0x7E 2 1 9 0 [])) ∧ requestOps.contains (headOf (brOf 1 0x7E 2 1 9 0 [])).op = false :=
  ⟨receivedOf _ _ _ _ (by decide +kernel), by decide +kernel⟩
theorem test_witness_open : Received (talking id) (brOf 1 opOpen 0xFF 0 0 0 []) 1 opOpen (headOf (brOf 1 opOpen 0xFF 0 0 0 [])) ∧
    (let m := headOf (brOf 1 opOpen 0xFF 0 0 0 []); m.clean = true ∧ m.session = 0xFF ∧ m.seq = 0 ∧ m.peer = ((talking id).session 2).peer ∧ ((talking id).session 0).live = false) ∧
    (let d := ((((talking fun x => { x with peer := 6 }).modSession 0 fun x => { x with live := true }).modSession 1 fun x => { x with live := true }).modSession 3 fun x => { x with live := true });
      ∀ k, k < 4 → (d.session k).live = true ∧ (d.session k).peer ≠ 5) := by
  refine ⟨receivedOf _ _ _ _ ?_, ?_⟩ <;> decide +kernel
/-- A repeated request, one out of sequence, one of an unknown session, an acknowledgement, and a frame that does not parse. -/
theorem test_witness_sessions : (let m := headOf (brOf 1 opRead 2 1 9 0x400002 []); let d := talking fun x => { x with lastSeq := 1, cached := some (plainAnswer m dsOk) }
      m.clean = true ∧ m.session = 2 ∧ (d.session 2).live = true ∧ (d.session 2).nonce = m.nonce ∧ m.seq = (d.session 2).lastSeq ∧ (d.session 2).cached.isSome = true) ∧
    (let m := headOf (brOf 1 opRead 2 5 9 0x400002 []); m.seq ≠ 1 ∧ m.seq ≠ (1 + 1) % 65536) ∧ ((talking id).session 3).live = false ∧ ((talking id).session 2).nonce ≠ (headOf (brOf 1 opRead 2 1 8 0x400002 [])).nonce ∧
    parseBr ⟨[1, 2, 3], 5, true, 255, true, true⟩ = none ∧ (talking id).listens = true := by decide +kernel
theorem test_witness_notice : Received (talking id) (brOf 4 opNotice 2 1 9 0 []) 4 opNotice (headOf (brOf 4 opNotice 2 1 9 0 [])) := receivedOf _ _ _ _ (by decide +kernel)
theorem test_witness_timers : (up.session 0).live = false ∧ ((talking id).session 2).live = true ∧ (talking id).now < ((talking id).session 2).lastReq + 1000000 * ((talking id).session 2).leaseMs ∧
    (let d := { talking id with now := 5000000000 }; (d.session 2).lastReq + 1000000 * (d.session 2).leaseMs ≤ d.now) ∧
    (let d := up.modPath .spi fun x => { x with seg := some ⟨0x120001, [], 0⟩ }; (d.path .spi).seg = some ⟨0x120001, [], 0⟩ ∧ d.now < 0 + 1000000000 ∧ 0 + 1000000000 ≤ ({ d with now := 1000000000 } : Device).now) ∧
    (talking id).dict.mgmtUp = true ∧ (talking id).dict.plcaStopped = false ∧ up.dictUp = true := by decide +kernel
theorem test_witness_summary : (let d := { up with now := 86400000000000000 }; d.log.summaryAt + 1000000000 * d.setting 0x900201 ≤ d.now) ∧ up.now < up.log.summaryAt + 1000000000 * up.setting 0x900201 ∧ up.log.sinceSummary = [] := by decide +kernel

/-- An SPI frame of these bytes, well sealed, and a word frame of eleven bytes. -/
def spiOf (bs : List Byte) : SpiFrame := ⟨bs ++ [BitVec.ofNat 8 (crc8 bs).toNat], 0⟩
theorem test_witness_inband : up.hostOpen = true ∧ (0x11123456#32).toNat = 0x11 * 2 ^ 24 + (0x123456#24).toNat ∧ (0x10123456#32).toNat = 0x10 * 2 ^ 24 + (0x123456#24).toNat ∧ (0xFF000000#32).toNat / 2 ^ 24 ≠ 0x10 ∧ up.dict.inband.busy = false ∧ (up.withDict fun x => { x with inband := { x.inband with busy := true } }).dict.inband.busy = true ∧ field 0x00001000 14 13 = 0 ∧ field 0x00001000 12 0 = 4096 ∧
    dataAccessOk 4092 [0, 0, 0, 0] = true ∧ (0x40000000 : W32).toNat.testBit 30 = true ∧ (0 : W32).toNat.testBit 30 = false := by decide +kernel
theorem test_witness_spi : up.power.pwrgd = true ∧
    (∀ x ∈ [((2 : Byte), 9), (6, 13), (3, 9), (5, 2)], let f := spiOf (x.1 :: List.replicate (x.2 - 2) 0)
      f.bytes.head? = some x.1 ∧ x.2 ≤ f.bytes.length ∧ crc8 (f.bytes.take (x.2 - 1)) = f.bytes.getD (x.2 - 1) 0) ∧
    crc8 (([0x05, 1] : List Byte).take 1) ≠ ([0x05, 1] : List Byte).getD 1 0 ∧ ([0x02] : List Byte).length < 9 ∧ field 0x00004000 7 0 = 0 ∧ field 0x00004000 15 8 = 64 ∧
    up.waiting = [] := by decide +kernel
/-- A read that waits. -/
def waitingRead : DictReq := ⟨.spi, 3, false, 0x400002, 0, 4, [], true, 0, 0, 0⟩
theorem test_witness_service : let d := up.withDict fun x => { x with requests := [waitingRead] }; firstReq d.waiting = some waitingRead ∧ waitingRead.write = false ∧ waitingRead.addr ≠ 0x900102 := by decide +kernel
/-- A write of a committed object that waits. -/
def waitingWrite : DictReq := ⟨.spi, 2, true, 0x120002, 0, 4, [5, 0, 0, 0], true, 0, 0, 0⟩
/-- The dictionary owned by SPI, and what it may write. -/
def ownedUp : Device := up.withDict fun x => { x with owner := pathCode .spi, vals := [(0xA00201, some 1)] }
theorem test_witness_commit : let d := ownedUp.withDict fun x => { x with requests := [waitingWrite] }
    firstReq d.waiting = some waitingWrite ∧ waitingWrite.write = true ∧ waitingWrite.last = true ∧ needsCommit waitingWrite.addr = true ∧ ((d.takeRequest waitingWrite).serveForm waitingWrite).2 = dsOk := by decide +kernel
theorem judgesOf (d : Device) (p : Path) (a : Nat) (bs : List Byte) (st : Nat)
    (h : (d.pathOpen p && d.dict.requests == [] && (d.path p).seg == none && (d.arrives p).writeStatus p a bs (if p = .spi ∧ isLong a = true then dsTypeLength else dsOk) == st) = true) : Judges d p a bs st := by
  simp only [Bool.and_eq_true, beq_iff_eq] at h
  exact ⟨h.1.1.1, h.1.1.2, h.1.2, h.2⟩
/-- Each row of writeRows on an object that answers OK. -/
theorem test_witness_granted : (∀ x ∈ [(pairObj 0 7, [(1 : Byte)]), (0x400203, [1]), (0x405001, [2]), (0x405002, [5]), (0x405003, [1]), (0x400002, [4, 0, 0, 0]), (0x30300C, [1]), (0x304002, [1]), (0x304003, [1]),
      (0x110002, [0]), (0x120002, [5]), (0x120007, [1]), (0xA00201, [1]), (0xA00205, [1]), (0xA00305, [1])], Judges ownedUp .spi x.1 x.2 dsOk) := by
  intro x h
  refine judgesOf _ _ _ _ _ ?_
  revert x; decide +kernel
theorem test_witness_image_load : Judges { ownedUp with dict := { ownedUp.dict with owner := pathCode .inband } } .inband 0xA00203 [1, 2, 3, 4] dsOk := judgesOf _ _ _ _ _ (by decide +kernel)
theorem test_witness_owner : Judges up .inband 0x110002 [1] dsOk ∧ Judges { up with dict := { up.dict with owner := pathCode .inband } } .spi 0x110002 [2] dsOk ∧ Judges { pairs 0 open1 with dict := ownedUp.dict } .spi (pairObj 0 7) [0] dsOk :=
  ⟨judgesOf _ _ _ _ _ (by decide +kernel), judgesOf _ _ _ _ _ (by decide +kernel), judgesOf _ _ _ _ _ (by decide +kernel)⟩
/-- A write without ownership, and one of a value out of range. -/
theorem test_witness_refused : Judges up .spi 0x400002 [4, 0, 0, 0] dsNotOwner ∧ Judges ownedUp .spi 0x400203 [9] dsValueRange ∧ dsNotOwner ≠ dsOk ∧ dsValueRange ≠ dsOk :=
  ⟨judgesOf _ _ _ _ _ (by decide +kernel), judgesOf _ _ _ _ _ (by decide +kernel), by decide, by decide⟩
theorem test_witness_objects : ((up.queue 0).state = 0 ∧ ((pairs 0 open1).queue 0).state = 1) ∧ (up.bay 2).state ≠ .out ∧ up.keeps .spi 0x120002 = true ∧ accessOf 0x120002 = .rwp := by decide +kernel
theorem test_witness_programming : (let d := { up with images := { Images.none with loadState := 1, loading := some (3, 0, [7]) } }; d.images.loadState = 1 ∧ d.images.loading = some (3, 0, [7])) ∧
    (let d := { ownedUp with images := { Images.none with loadState := 2 } }; d.images.loadState = 2 ∧ d.setting 0xA00201 < 8) ∧ up.images.loadState ≠ 1 ∧ up.images.loadState ≠ 2 := by decide +kernel

end Sys2Proof.Tests
end

section
/-! PROOF. Array work on a tile: block ends, course ends and pre-emption (R129, R139, R140, R142, R329). -/

namespace Sys2Proof.Machine

/-! ### Steps whose accesses may meet a paused row (R214) -/

/-- A step that leaves the device as it is does so whether or not its accesses wait. -/
theorem Device.whole_of_fixed {d : Device} {f : Device → Device} (h : f d = d) : d.whole f = d := by
  unfold Device.whole
  split
  · rfl
  · exact h

/-- A command that performs `f` whole runs whole to what `f` makes of the device. -/
theorem runsWhole_of_whole {c : Instr} {s : State} {f : Device → Device} {d : Device}
    (hc : exec c s = .next { s with dev := s.dev.whole f }) (hf : f s.dev = d) : RunsWhole c s d := by
  subst hf
  unfold RunsWhole Runs
  rw [hc]
  unfold Device.whole
  constructor
  · rintro (h | h)
    · simp only [h, Bool.false_and, Bool.false_eq_true, if_false]
    · simp only [h, Bool.and_false, Bool.false_eq_true, if_false]
  · intro hp hm
    simp only [hp, hm, Bool.and_self, if_true]

theorem exec_blockEnd (t : TileRef) (ups : List (Nat × Nat)) (found : List Detected) (s : State) :
    exec (.blockEnd t ups found) s = .next { s with dev := s.dev.whole fun d => d.blockEndNow t ups found } := rfl

theorem exec_courseEnd (t : TileRef) (found : List Detected) (s : State) :
    exec (.courseEnd t found) s = .next { s with dev := s.dev.whole fun d => d.courseEndNow t found } := rfl

theorem exec_preemptionPoint (t : TileRef) (s : State) : exec (.preemptionPoint t) s = .next { s with dev := s.dev.preempt t } := rfl

/-! ### The group on a tile's arrays -/

/-- Where a list of reads gives its results, every read succeeds. -/
theorem allOk_each {α β : Type} {f : α → Except Nat β} : ∀ {l : List α} {bs : List β}, allOk f l = .ok bs → ∀ x ∈ l, ∃ b, f x = .ok b
  | [], _, _, _, hx => absurd hx List.not_mem_nil
  | a :: as, bs, h, x, hx => by
    rw [allOk] at h
    split at h
    · cases h
    · next b hb =>
      split at h
      · cases h
      · next cs hcs =>
        rcases List.mem_cons.1 hx with rfl | hx
        · exact ⟨b, hb⟩
        · exact allOk_each hcs x hx

/-- No member of a group whose pieces are all known has unusable tables. -/
theorem Device.arrayFault_of_arrayWork {d : Device} {t : TileRef} {g : ArrayGroup} {ps : List Piece} (h : d.arrayWork t = some (g, ps)) :
    d.arrayFault t = none := by
  unfold Device.arrayWork at h
  unfold Device.arrayFault
  split at h
  · next hrun =>
    rw [if_pos hrun]
    split at h
    · cases h
    · next g' _ =>
      split at h
      · cases h
      · next qs hqs =>
        refine List.findSome?_eq_none_iff.2 fun m hm => ?_
        obtain ⟨q, hq⟩ := allOk_each hqs m hm
        rw [hq]
  · cases h

/-! ### Nothing found by a checker -/

@[simp] theorem Device.detectAll_nil (d : Device) (k tile tag : Nat) : d.detectAll k tile tag [] = d := rfl
@[simp] theorem fatal_nil : fatal [] = false := rfl

/-! ### Block ends (R129, R329) -/

section BlockEnd

variable {d : Device} {t : TileRef} {g : ArrayGroup} {p : Piece} {ps : List Piece} {ups : List (Nat × Nat)} {outs : List BlockOut}

/-- Before the end of its course, with nothing found, a group closes its next block. -/
theorem Device.blockEndNow_of_arrayWork (h : d.arrayWork t = some (g, p :: ps)) (hpos : g.pos < p.arr.courseAt g.course) :
    d.blockEndNow t ups [] = d.closeGroup t g (p :: ps) ups := by
  have hinside : decide (p.arr.courseAt g.course ≤ g.pos) = false := decide_eq_false (Nat.not_le.2 hpos)
  simp only [Device.blockEndNow, Device.arrayFault_of_arrayWork h, h, Device.detectAll_nil, fatal_nil, hinside, Bool.or_self, Bool.false_eq_true, if_false]

/-- Where every residue agrees, all lanes take their results and the group stands at the next block. -/
theorem Device.closeGroup_agree (hout : eachPiece (fun q => pieceBlock d t q g.pos ups) ps = .ok outs)
    (hok : ∀ b ∈ outs, ∀ l ∈ b.lanes, l.2 = true) :
    d.closeGroup t g ps ups =
      d.modTile (refKey t) fun x => { (x.closed outs true) with arr := some { (g.put (outs.map (·.mem))) with pos := g.pos + 1 } } := by
  have hall : (outs.all fun b => b.lanes.all (·.2)) = true := by simpa only [List.all_eq_true] using hok
  simp only [Device.closeGroup, hout, hall, if_true]

/-- Where a residue disagrees, only the registers that do so keep their sums, and the error is detected in the tile. -/
theorem Device.closeGroup_disagree (hout : eachPiece (fun q => pieceBlock d t q g.pos ups) (p :: ps) = .ok outs)
    (hbad : ∃ b ∈ outs, ∃ l ∈ b.lanes, l.2 = false) :
    d.closeGroup t g (p :: ps) ups =
      (d.modTile (refKey t) fun x => { (x.closed outs false) with arr := some g }).detect t.bay.val t.tile.val p.cmd.tag .residue := by
  have hall : (outs.all fun b => b.lanes.all (·.2)) = false := by
    simpa only [List.all_eq_false, Bool.not_eq_true] using hbad
  simp only [Device.closeGroup, hout, hall, Bool.false_eq_true, if_false, leadTag]

end BlockEnd

/-! ### Course ends (R86, R129, R142, R165 to R167) -/

section CourseEnd

variable {d : Device} {t : TileRef} {g : ArrayGroup} {p : Piece} {ps : List Piece}

/-- A group whose start values still wait for the lanes, or with a block of its course to go, folds nothing. -/
theorem Device.courseEndNow_of_waits (h : d.arrayWork t = some (g, p :: ps))
    (hw : (∃ m ∈ g.members, m.start.isSome = true) ∨ g.pos < p.arr.courseAt g.course) : d.courseEndNow t [] = d := by
  rcases hw with hvals | hpos
  · have hany : g.members.any (·.start.isSome) = true := List.any_eq_true.2 hvals
    simp only [Device.courseEndNow, Device.arrayFault_of_arrayWork h, h, Device.detectAll_nil, hany, Bool.or_true, Bool.true_or, if_true]
  · simp only [Device.courseEndNow, Device.arrayFault_of_arrayWork h, h, Device.detectAll_nil, decide_eq_true hpos, Bool.or_true, Bool.true_or, if_true]

/-- At the end of a course, with its values in the lanes and no home of it paused, the group folds the course. -/
theorem Device.courseEndNow_of_ended (h : d.arrayWork t = some (g, p :: ps)) (hleft : g.course < p.arr.courses)
    (hend : p.arr.courseAt g.course ≤ g.pos) (hstart : ∀ m ∈ g.members, m.start = none)
    (hheld : p.tree = true → d.homesHeld t.bay.val t.tile.val p.dep g.bank = false) :
    d.courseEndNow t [] = d.foldGroup t g p ps := by
  have hvals : g.members.any (·.start.isSome) = false := by
    simpa only [List.any_eq_false, Option.not_isSome_iff_eq_none] using hstart
  have hhomes : (p.tree && d.homesHeld t.bay.val t.tile.val p.dep g.bank) = false := by
    cases htree : p.tree with
    | false => rfl
    | true => exact hheld htree
  simp only [Device.courseEndNow, Device.arrayFault_of_arrayWork h, h, Device.detectAll_nil, fatal_nil, hvals, hhomes,
    decide_eq_false (Nat.not_le.2 hleft), decide_eq_false (Nat.not_lt.2 hend), Bool.or_self, Bool.false_eq_true, if_false]

/-- A group with a course to go stays on the arrays. -/
theorem Device.finishGroup_of_lt (k n : Nat) (hlt : g.course < p.arr.courses) : d.finishGroup k n g (p :: ps) = d := by
  simp only [Device.finishGroup, hlt, if_true]

end CourseEnd

/-! ### Bytes of lane containers, and of the save areas (R47, R140) -/

theorem accBytes_length (vs : List Acc) : (accBytes vs).length = 5 * vs.length := by
  induction vs with
  | nil => rfl
  | cons v vs ih =>
    rw [accBytes] at ih ⊢
    simp only [List.map_cons, List.flatten_cons, List.length_append, leBytes_length, List.length_cons, ih]
    omega

theorem Tile.groupRuns_length (x : Tile) (g : ArrayGroup) : (x.groupRuns g).length = 1024 := by
  simp only [Tile.groupRuns, allLanes, List.length_map, List.length_range]

/-- A read below the bytes written gives what it gave before. -/
theorem Mem.read_write_below (m : Mem) (b : Nat) (bs : List Byte) : ∀ (n a : Nat), a + n ≤ b → (m.write b bs).read a n = m.read a n
  | 0, _, _ => rfl
  | n + 1, a, h => by
    rw [Mem.read, Mem.read, Mem.byte_write_other bs m b a (.inl (by omega)), Mem.read_write_below m b bs n (a + 1) (by omega)]

@[simp] theorem Device.putBytes_mem (d : Device) (a : Nat) (bs : List Byte) : (d.putBytes a bs).mem = d.mem.write a bs := rfl

/-- The bytes that the save area takes of a group. -/
theorem Device.saveGroup_read (d : Device) (k n : Nat) (g : ArrayGroup) :
    (d.saveGroup k n g).mem.read (saveArea k n) 10240 =
      accBytes (allLanes.map fun i => ((d.tile (tileKey k n)).lane i).course) ++ accBytes ((d.tile (tileKey k n)).groupRuns g) := by
  rw [Device.saveGroup, Device.putBytes_mem]
  generalize hbs : accBytes (allLanes.map fun i => ((d.tile (tileKey k n)).lane i).course) ++ accBytes ((d.tile (tileKey k n)).groupRuns g) = bs
  have hlen : bs.length = 10240 := by
    rw [← hbs, List.length_append, accBytes_length, accBytes_length, Tile.groupRuns_length]
    simp only [allLanes, List.length_map, List.length_range]
  exact hlen ▸ Mem.read_write_same d.mem (saveArea k n) bs

/-- Freeing the lanes of drains writes nothing below the drain save area. -/
theorem Device.freeLanes_read (d : Device) (k n : Nat) (a len : Nat) (h : a + len ≤ drainArea k n) :
    (d.freeLanes k n).mem.read a len = d.mem.read a len := by
  unfold Device.freeLanes
  dsimp only
  split
  · rfl
  · rw [Device.setTile_mem, Device.putBytes_mem, Mem.read_write_below _ _ _ _ _ h]

/-! ### Pre-emption of a group (R139, R140) -/

/-- The operations of a list of members, pre-empted. -/
def Device.markPreempted (d : Device) (ms : List Member) : Device :=
  ms.foldl (fun d m => d.withOp m.cmd m.op fun o => { o with state := .preempted }) d

/-- The device with a group in its save area and the arrays free. -/
def Device.groupSaved (d : Device) (t : TileRef) (g : ArrayGroup) : Device :=
  ((d.saveGroup t.bay.val t.tile.val g).freeLanes t.bay.val t.tile.val).modTile (refKey t) fun x =>
    { (x.eachLane allLanes allLanes fun l _ => { l with block := 0, course := accZero }) with
      arr := none, pre := some { g with members := g.members.map fun m => { m with start := none } } }

/-- What PREEMPTION_POINT does for an urgent operation: it saves the group and marks its members. -/
theorem Device.preempt_of_urgent {d : Device} {t : TileRef} {g : ArrayGroup} {ps : List Piece} {sl : Slot} (h : d.arrayWork t = some (g, ps))
    (hs : d.nextSlot t .array = some sl) (hu : sl.urgent = true) (hps : ∀ q ∈ ps, q.cmd.urgent = false) (hpre : (d.tile (refKey t)).pre = none) :
    d.preempt t = (d.groupSaved t g).markPreempted g.members := by
  have hnone : (ps.any (·.cmd.urgent)) = false := by simpa only [List.any_eq_false, Bool.not_eq_true] using hps
  simp only [Device.preempt, h, hs, hnone, hu, hpre, Bool.not_true, Option.isSome_none, Bool.or_self, Bool.false_eq_true, if_false]
  rfl

theorem Device.groupSaved_tile (d : Device) (t : TileRef) (g : ArrayGroup) :
    (((d.groupSaved t g).tile (refKey t)).arr = none) ∧
    (((d.groupSaved t g).tile (refKey t)).pre = some { g with members := g.members.map fun m => { m with start := none } }) := by
  unfold Device.groupSaved Device.modTile
  rw [Device.tile_setTile_same]
  exact ⟨rfl, rfl⟩

/-- The save area of a pre-empted group; the drain save area begins where it ends. -/
theorem Device.groupSaved_read (d : Device) (t : TileRef) (g : ArrayGroup) :
    (d.groupSaved t g).mem.read (saveArea t.bay.val t.tile.val) 10240 =
      accBytes (allLanes.map fun i => ((d.tile (refKey t)).lane i).course) ++ accBytes ((d.tile (refKey t)).groupRuns g) := by
  have harea : saveArea t.bay.val t.tile.val + 10240 ≤ drainArea t.bay.val t.tile.val := by
    unfold saveArea drainArea
    omega
  unfold Device.groupSaved
  rw [Device.modTile_mem, Device.freeLanes_read _ _ _ _ _ harea]
  exact Device.saveGroup_read d _ _ g

@[simp] theorem Device.withOp_tiles (d : Device) (tag i : Nat) (f : TileOp → TileOp) : (d.withOp tag i f).tiles = d.tiles := rfl
@[simp] theorem Device.withOp_mem (d : Device) (tag i : Nat) (f : TileOp → TileOp) : (d.withOp tag i f).mem = d.mem := rfl

/-- Marking operations touches no tile and no byte of memory. -/
theorem Device.markPreempted_frame : ∀ (ms : List Member) (d : Device), (d.markPreempted ms).tiles = d.tiles ∧ (d.markPreempted ms).mem = d.mem
  | [], _ => ⟨rfl, rfl⟩
  | m :: ms, d => Device.markPreempted_frame ms (d.withOp m.cmd m.op fun o => { o with state := .preempted })

/-- Operation `i` of command `tag` is pre-empted, where there is one. -/
def Device.OpPreempted (d : Device) (tag i : Nat) : Prop := ∀ c o, d.cmd tag = some c → c.ops[i]? = some o → o.state = .preempted

/-- A command after one of its operations, or another command's, is pre-empted. -/
theorem Device.cmd_withOp (d : Device) (tag tag' i : Nat) (f : TileOp → TileOp) :
    (d.withOp tag i f).cmd tag' = (d.cmd tag').map fun c => if c.tag = tag then { c with ops := c.ops.modify i f } else c :=
  Device.cmd_modCmd d tag tag' _ fun _ => rfl

/-- The operation marked is pre-empted. -/
theorem Device.opPreempted_withOp_same (d : Device) (tag i : Nat) : (d.withOp tag i fun o => { o with state := .preempted }).OpPreempted tag i := by
  intro c o hc ho
  rw [Device.cmd_withOp, Option.map_eq_some_iff] at hc
  obtain ⟨c0, hc0, rfl⟩ := hc
  rw [if_pos (Device.cmd_tag hc0), List.getElem?_modify_eq, Option.map_eq_map, Option.map_eq_some_iff] at ho
  obtain ⟨o0, -, rfl⟩ := ho
  rfl

/-- What is pre-empted stays so when another operation is marked. -/
theorem Device.OpPreempted.withOp {d : Device} {tag i : Nat} (h : d.OpPreempted tag i) (tag' i' : Nat) :
    (d.withOp tag' i' fun o => { o with state := .preempted }).OpPreempted tag i := by
  intro c o hc ho
  rw [Device.cmd_withOp, Option.map_eq_some_iff] at hc
  obtain ⟨c0, hc0, rfl⟩ := hc
  split at ho
  · rw [List.getElem?_modify, Option.map_eq_map, Option.map_eq_some_iff] at ho
    obtain ⟨o0, ho0, rfl⟩ := ho
    split
    · rfl
    · exact h c0 o0 hc0 ho0
  · exact h c0 o hc0 ho

theorem Device.OpPreempted.markPreempted {tag i : Nat} : ∀ (ms : List Member) {d : Device}, d.OpPreempted tag i → (d.markPreempted ms).OpPreempted tag i
  | [], _, h => h
  | m :: ms, _, h => Device.OpPreempted.markPreempted ms (h.withOp m.cmd m.op)

/-- Every member marked is pre-empted. -/
theorem Device.markPreempted_opPreempted : ∀ (ms : List Member) (d : Device), ∀ m ∈ ms, (d.markPreempted ms).OpPreempted m.cmd m.op
  | [], _, _, hm => absurd hm List.not_mem_nil
  | m0 :: ms, d, m, hm => by
    rcases List.mem_cons.1 hm with rfl | hm
    · exact (Device.opPreempted_withOp_same d m.cmd m.op).markPreempted ms
    · exact Device.markPreempted_opPreempted ms _ m hm

/-- Settles O27: one part for each boundary, each from the lemma that says what the boundary does to the group. -/
theorem arrayWorkAdvances : Obligations.ArrayWorkAdvances := by
  unfold Obligations.ArrayWorkAdvances
  intro t s g p ps hwork k n
  refine ⟨fun ups outs hpos hout => ⟨fun hok => ?_, fun hbad => ?_⟩, fun hwait => ?_, fun hleft hend hstart hheld => ?_, fun sl hsl hu hps hpre => ?_⟩
  · exact runsWhole_of_whole (exec_blockEnd t ups [] s) ((Device.blockEndNow_of_arrayWork hwork hpos).trans (Device.closeGroup_agree hout hok))
  · exact runsWhole_of_whole (exec_blockEnd t ups [] s) ((Device.blockEndNow_of_arrayWork hwork hpos).trans (Device.closeGroup_disagree hout hbad))
  · unfold Runs
    rw [exec_courseEnd, Device.whole_of_fixed (Device.courseEndNow_of_waits hwork hwait)]
  · intro c pushed outs hout g1 d1 d2
    have hpush : (if p.tree && p.pops c == 0 && decide (0 < p.depth c) then s.dev.pushHome k n p.dep (p.depth c - 1) g else (s.dev, g)) = pushed := by
      simp only [pushed, Bool.and_eq_true, beq_iff_eq, decide_eq_true_eq, and_assoc]
    have hfold : s.dev.foldGroup t g p ps = d2.finishGroup k n g1 (p :: ps) := by
      simp only [Device.foldGroup, c, k, n, hpush, hout, d2, Bool.or_eq_true, decide_eq_true_eq]
      rfl
    have hruns : RunsWhole (.courseEnd t []) s (d2.finishGroup k n g1 (p :: ps)) :=
      runsWhole_of_whole (exec_courseEnd t [] s) ((Device.courseEndNow_of_ended hwork hleft hend hstart hheld).trans hfold)
    exact ⟨fun hmore => by rwa [Device.finishGroup_of_lt (g := g1) k n hmore] at hruns, fun _ => hruns⟩
  · obtain ⟨htiles, hmem⟩ := Device.markPreempted_frame g.members (s.dev.groupSaved t g)
    obtain ⟨harr, hpre'⟩ := Device.groupSaved_tile s.dev t g
    have htile : ((s.dev.groupSaved t g).markPreempted g.members).tile (refKey t) = (s.dev.groupSaved t g).tile (refKey t) := by
      unfold Device.tile
      rw [htiles]
    refine ⟨(s.dev.groupSaved t g).markPreempted g.members, ?_, htile ▸ harr, htile ▸ hpre', ?_, fun m hm => Device.markPreempted_opPreempted _ _ m hm⟩
    · unfold Runs
      rw [exec_preemptionPoint, Device.preempt_of_urgent hwork hsl hu hps hpre]
    · rw [hmem]
      exact Device.groupSaved_read s.dev t g

end Sys2Proof.Machine
end

section
/-! PROOF. Range watch: when a sheaf trips, and its re-execution (R104, R106, R107, R171). -/

namespace Sys2Proof.Machine

/-! ### The trip test (R104) -/

/-- The two tests of R104, each by the threshold object of the sheaf's format. -/
theorem trips_iff (d : Device) (c : Cmd) (f sat flush : Nat) :
    trips d c f sat flush = true ↔
      (c.setting d (0x205101 + f) ≠ 0xFFFF ∧ c.setting d (0x205101 + f) < sat) ∨
      (c.setting d (0x205201 + f) ≠ 0xFFFF ∧ c.setting d (0x205201 + f) < flush) := by
  have hsat : 0x2051 * 256 + f + 1 = 0x205101 + f := by omega
  have hflush : 0x2052 * 256 + f + 1 = 0x205201 + f := by omega
  simp only [trips, hsat, hflush, Bool.or_eq_true, Bool.and_eq_true, bne_iff_ne, decide_eq_true_eq]

/-- Settles O31: `trips_iff`, read at a threshold of 0 and with both tests disabled. -/
theorem sheafTripsAboveItsThresholds : Obligations.SheafTripsAboveItsThresholds := by
  unfold Obligations.SheafTripsAboveItsThresholds
  intro d c f sat flush ts tf
  refine ⟨trips_iff d c f sat flush, fun hzero => ?_, fun hzero => ?_, fun hts htf => ?_⟩
  · have htest : ts ≠ 0xFFFF ∧ ts < 1 := by omega
    exact (trips_iff d c f 1 flush).2 (.inl htest)
  · have htest : tf ≠ 0xFFFF ∧ tf < 1 := by omega
    exact (trips_iff d c f sat 1).2 (.inr htest)
  · rw [Bool.eq_false_iff, ne_eq, trips_iff]
    rintro (⟨hon, -⟩ | ⟨hon, -⟩)
    · exact hon hts
    · exact hon htf

/-! ### The new encoding of a tripped sheaf (R106, R107) -/

/-- A tripped sheaf's fall-back format keeps the gutter its output asks for. -/
def Trip.gutter (tr : Trip) (o : OutSpec) : Bool := (qctl o.ctl).gutter && isNarrow tr.fmt

/-- A tripped sheaf quantised again in its fall-back format. -/
def Trip.requantised (tr : Trip) (d : Device) (c : Cmd) (o : OutSpec) : SheafOut :=
  encodeSheaf tr.fmt (tr.gutter o) (gutterRatio (qctl o.ctl) (c.setting d 0x204002)) tr.bins

/-- The sheaf trips once more, by the thresholds of its fall-back format (R107). -/
def Trip.tripsAgain (tr : Trip) (d : Device) (c : Cmd) (o : OutSpec) : Bool :=
  isNarrow tr.fmt && trips d c tr.fmt (tr.requantised d c o).sat (tr.requantised d c o).flush

/-- What an output's figures are after its tripped sheaf `tr` was written again as `z`. -/
def OutStat.rewritten (st : OutStat) (tr : Trip) (z : SheafOut) (again : Bool) : OutStat :=
  { st with reexec := st.reexec + 1, after := st.after || again, sat := st.sat + z.sat - tr.sat, flush := st.flush + z.flush - tr.flush }

/-- A command after its next tripped sheaf `tr` was written again. -/
def Cmd.rewritten (c : Cmd) (d : Device) (tr : Trip) (o : OutSpec) : Cmd :=
  { c with
    flags := c.flags ||| (tr.requantised d c o).flags ||| flagIf (tr.tripsAgain d c o) fTripAfter
    trips := c.trips.drop 1
    outs := c.outs.modify tr.out fun st => st.rewritten tr (tr.requantised d c o) (tr.tripsAgain d c o) }

/-- The device writes the new form of `tr` and its table entry, and is `d1` then. -/
def Trip.writes (tr : Trip) (d : Device) (c : Cmd) (o : OutSpec) (d1 : Device) : Prop :=
  writeSheaf d (c.readCtx d c.homeBay) o.tab tr.sheaf tr.fmt (tr.gutter o) (tr.requantised d c o).bytes = .ok d1

theorem reexecute_of_writes {d d1 : Device} {c : Cmd} {tr : Trip} {o : OutSpec} (h : tr.writes d c o d1) :
    reexecute d (c.readCtx d c.homeBay) c tr o = .ok (d1.count 0x804002 1, c.rewritten d tr o) := by
  unfold Trip.writes Trip.requantised Trip.gutter at h
  unfold reexecute
  simp only [h]
  rfl

theorem Cmd.rewritten_outs {c : Cmd} {d : Device} {tr : Trip} {o : OutSpec} {st : OutStat} (h : c.outs[tr.out]? = some st) :
    (c.rewritten d tr o).outs[tr.out]? = some (st.rewritten tr (tr.requantised d c o) (tr.tripsAgain d c o)) := by
  simp only [Cmd.rewritten, List.getElem?_modify_eq, h, Option.map_eq_map, Option.map_some]

/-! ### SHEAF_REEXECUTE -/

/-- A command replaced by another of its tag is the one found under that tag. -/
theorem Device.cmd_modCmd_replaced {d : Device} {tag : Nat} {c c' : Cmd} (h : d.cmd tag = some c) (ht : c'.tag = tag) :
    (d.modCmd tag fun _ => c').cmd tag = some c' := by
  have hkeep : ((fun x : Cmd => x.tag == tag) ∘ fun x => if x.tag = tag then c' else x) = fun x => x.tag == tag := by
    funext x
    by_cases hx : x.tag = tag
    · simp [hx, ht]
    · simp [hx]
  unfold Device.cmd at h ⊢
  rw [Device.modCmd_cmds, List.find?_map, hkeep, h, Option.map_some, if_pos (Device.cmd_tag h)]

/-- While tripped sheaves of the command wait, the writes ordered behind its narrow outputs wait too (R171). -/
theorem Device.writeLate_of_trips {d : Device} {tag : Nat} {c : Cmd} (h : d.cmd tag = some c) (ht : c.trips ≠ []) : d.writeLate tag = d := by
  have hwait : (!c.trips.isEmpty || c.failure.isSome) = true := by simp [ht]
  unfold Device.writeLate
  simp only [h, hwait, if_true]

theorem Device.rewriteTrip_of_writes {d d1 : Device} {tag : Nat} {c : Cmd} {tr : Trip} {rest : List Trip} {os : List OutSpec} {o : OutSpec}
    (hc : d.cmd tag = some c) (htrips : c.trips = tr :: rest) (hos : c.outSpecs d = .ok os) (ho : os[tr.out]? = some o) (hw : tr.writes d c o d1) :
    d.rewriteTrip tag = ((d1.count 0x804002 1).modCmd tag fun _ => c.rewritten d tr o).writeLate tag := by
  unfold Device.rewriteTrip
  simp only [hc, htrips, hos, ho, reexecute_of_writes hw]

/-- With nothing found, and no detection in the command's work waiting, the sheaf is written again. -/
theorem Device.sheafAgainNow_of_sound {d : Device} {tag : Nat} {c : Cmd} (hc : d.cmd tag = some c) (hs : d.struck tag = false) :
    d.sheafAgainNow tag [] = d.rewriteTrip tag := by
  have hnone : (if c.ops.isEmpty then pathsOnly [] else []) = ([] : List Detected) := by split <;> rfl
  unfold Device.sheafAgainNow
  simp only [hc, hs, hnone]
  rfl

theorem exec_sheafReexecute (w : WorkEnd) (s : State) :
    exec (.sheafReexecute w) s = .next { s with dev := s.dev.whole fun d => d.sheafAgainNow w.tag w.found } := rfl

/-- Writing a sheaf leaves the commands in flight as they are. -/
theorem writeSheaf_cmds {d d1 : Device} {x : ReadCtx} {t : Table} {j f : Nat} {gutter : Bool} {bytes : List Byte}
    (h : writeSheaf d x t j f gutter bytes = .ok d1) : d1.cmds = d.cmds :=
  ((writeSheaf_within d x t j f gutter bytes (Device.Within.refl 49152 d) (Nat.and_self _)).get h).part .cmds (by decide)

/-- Settles O32: with nothing found the step writes the sheaf again and takes it from the tripped ones; while others are left, `Device.writeLate` leaves the device as it is. -/
theorem reexecutedSheafIsWatchedAgain : Obligations.ReexecutedSheafIsWatchedAgain := by
  unfold Obligations.ReexecutedSheafIsWatchedAgain
  intro s tag c tr rest os o d1 st hc htag htrips hos ho hst hstruck g z again hwrite
  have hw : tr.writes s.dev c o d1 := hwrite
  have hrest : (c.rewritten s.dev tr o).trips = rest := by simp only [Cmd.rewritten, htrips, List.drop_one, List.tail_cons]
  have hfound : ((d1.count 0x804002 1).modCmd tag fun _ => c.rewritten s.dev tr o).cmd tag = some (c.rewritten s.dev tr o) :=
    Device.cmd_modCmd_replaced ((Device.cmd_of_cmds (writeSheaf_cmds hwrite) tag).trans hc) htag
  refine ⟨(d1.count 0x804002 1).modCmd tag fun _ => c.rewritten s.dev tr o, c.rewritten s.dev tr o, ?_, fun hmore => ?_, rfl, rfl,
    Device.counter_count_same d1 0x804002 1, hrest, rfl, _, Cmd.rewritten_outs hst, rfl, rfl, rfl⟩
  · exact runsWhole_of_whole (exec_sheafReexecute ⟨tag, []⟩ s)
      ((Device.sheafAgainNow_of_sound hc hstruck).trans (Device.rewriteTrip_of_writes hc htrips hos ho hw))
  · exact Device.writeLate_of_trips hfound (hrest.symm ▸ hmore)

end Sys2Proof.Machine
end

section
/-! PROOF. The slots of a tile: delivery, start and end of its operations (R124 to R126, R136, R141, R161, R188, R255). -/

namespace Sys2Proof.Machine

theorem exec_tileOpDeliver (t : TileRef) (s : State) :
    exec (.tileOpDeliver t) s = .next { s with dev := s.dev.whole fun d => d.deliverNow t } := rfl

theorem exec_tileOpStart (t : TileRef) (k : OpKind) (s : State) :
    exec (.tileOpStart t k) s = .next { s with dev := s.dev.whole fun d => d.startNow t k } := rfl

theorem exec_tileOpEnd (t : TileRef) (k : OpKind) (found : List Detected) (s : State) :
    exec (.tileOpEnd t k found) s = .next { s with dev := s.dev.whole fun d => d.opEndNow t k found } := rfl

/-- A command that performs `f` whole, and for which `f` changes nothing, leaves the block as it was. -/
theorem runs_of_whole_fixed {c : Instr} {s : State} {f : Device → Device}
    (hc : exec c s = .next { s with dev := s.dev.whole f }) (hf : f s.dev = s.dev) : Runs c s s.dev := by
  unfold Runs
  rw [hc, Device.whole_of_fixed hf]

/-! ### Delivery (R125, R188, R248, R255, R259) -/

/-- Operation `i`, that is `o`, of command `c` is the one that a slot of tile `t` goes to next, in a bay that takes operations. -/
structure DeliversNext (d : Device) (t : TileRef) (c : Cmd) (i : Nat) (o : TileOp) : Prop where
  works : d.bayWorks t.bay.val
  next : d.nextDelivery t.bay.val t.tile.val = some c
  held : c.heldOp t.bay.val = some i
  op : c.ops[i]? = some o

/-- The operation waits in the last slot of the tile with tally tag `tag`; `b` is its bay without that tag. -/
def Device.slotTaken (d : Device) (t : TileRef) (c : Cmd) (i : Nat) (o : TileOp) (tag : Nat) (b : Bay) : Device :=
  ((d.setBay t.bay.val { b with slotsFree := b.slotsFree - 1 }).withOp c.tag i fun x =>
    { x with state := .waiting, tile := t.tile.val, tally := some tag }).modTile (refKey t) fun x =>
    { x with slots := x.slots ++ [⟨c.tag, i, o.kind, c.urgent⟩] }

theorem Device.bayWorks.guard {d : Device} {k : Nat} (h : d.bayWorks k) :
    (!((d.bay k).state == .run || (d.bay k).state == .test || (d.bay k).state == .recovery) || d.power.powerState != 0) = false := by
  obtain ⟨hstate, hpower⟩ := h
  rcases hstate with hs | hs | hs <;> simp [hs, hpower]

section Delivery

variable {d : Device} {t : TileRef} {c : Cmd} {i : Nat} {o : TileOp}

/-- A RECIPE whose recipe fails a test fails before its first operation starts (R188). -/
theorem Device.deliverNow_of_badRecipe (h : DeliversNext d t c i o) {e : Nat} (he : c.badRecipe d = some e) : d.deliverNow t = d.failWith c.tag e := by
  simp only [Device.deliverNow, h.works.guard, h.next, h.held, he, Bool.false_eq_true, if_false]

theorem Device.deliverNow_of_noSlot (h : DeliversNext d t c i o) (he : c.badRecipe d = none) (hs : slotFree (d.tile (refKey t)) c.urgent = false) :
    d.deliverNow t = d := by
  simp only [Device.deliverNow, h.works.guard, h.next, h.held, he, hs, Bool.false_eq_true, if_false, Bool.not_false, if_true]

theorem Device.deliverNow_of_tag (h : DeliversNext d t c i o) (he : c.badRecipe d = none) (hs : slotFree (d.tile (refKey t)) c.urgent = true)
    {tag : Nat} {b : Bay} (ht : (d.bay t.bay.val).takeTally c.urgent = some (tag, b)) : d.deliverNow t = d.slotTaken t c i o tag b := by
  simp only [Device.deliverNow, h.works.guard, h.next, h.held, he, hs, ht, h.op, Bool.false_eq_true, if_false, Bool.not_true, Option.map_some, Option.getD_some]
  rfl

/-- Without a tag the operation is held, and counted unless it has been (R255, R259). -/
theorem Device.deliverNow_of_noTag (h : DeliversNext d t c i o) (he : c.badRecipe d = none) (hs : slotFree (d.tile (refKey t)) c.urgent = true)
    (ht : (d.bay t.bay.val).takeTally c.urgent = none) :
    d.deliverNow t = if o.counted then d else (d.count 0x807004 1).withOp c.tag i fun x => { x with counted := true } := by
  simp only [Device.deliverNow, h.works.guard, h.next, h.held, he, hs, ht, h.op, Bool.false_eq_true, if_false, Bool.not_true]

end Delivery

/-- Settles O25: one lemma on `Device.deliverNow` for each of its outcomes. -/
theorem deliveryTakesSlotAndTag : Obligations.DeliveryTakesSlotAndTag := by
  unfold Obligations.DeliveryTakesSlotAndTag
  intro t s c i o hworks hnext hheld hop
  have h : DeliversNext s.dev t c i o := ⟨hworks, hnext, hheld, hop⟩
  have hexec := exec_tileOpDeliver t s
  refine ⟨fun e he => ?_, fun he => ⟨fun hs => ?_, fun hs => ⟨fun tag b ht => ?_, fun ht => ?_⟩⟩⟩
  · exact runsWhole_of_whole hexec (Device.deliverNow_of_badRecipe h he)
  · exact runs_of_whole_fixed hexec (Device.deliverNow_of_noSlot h he hs)
  · exact runsWhole_of_whole hexec (Device.deliverNow_of_tag h he hs ht)
  · have hnow := Device.deliverNow_of_noTag h he hs ht
    constructor
    · intro hc
      exact runsWhole_of_whole hexec (hnow.trans (if_neg (by simp [hc])))
    · intro hc
      exact runs_of_whole_fixed hexec (hnow.trans (if_pos hc))

/-! ### Start (R124, R126, R132, R136, R163, R207) -/

section Start

variable {d : Device} {t : TileRef} {sl : Slot} {c : Cmd} {o : TileOp} {a : ArrayCmd}

theorem Device.startNow_transfer (h : StartsNext d t .transfer sl c o) : d.startNow t .transfer = d.opStarted t sl c o := by
  simp only [Device.startNow, h.runs, h.fresh, h.next, h.cmd, h.op, Bool.not_true, Bool.or_self, Bool.false_eq_true, if_false]
  rfl

/-- One vector operation runs on a tile at a time, and none beside ATTENTION (R124). -/
theorem Device.startNow_vector_waits (h : StartsNext d t .vector sl c o) (hb : d.kindRuns t .vector = true ∨ d.attRuns t = true) :
    d.startNow t .vector = d := by
  have hbusy : (d.kindRuns t .vector || d.attRuns t) = true := by simpa only [Bool.or_eq_true] using hb
  simp only [Device.startNow, h.runs, h.fresh, h.next, h.cmd, h.op, hbusy, Bool.not_true, Bool.or_self, Bool.false_eq_true, if_false, if_true]

section FreeUnit

variable (h : StartsNext d t .vector sl c o) (hv : d.kindRuns t .vector = false) (ha : d.attRuns t = false)
include h hv ha

theorem Device.startNow_piece (hop : opcodeOf c.entry ≠ 0x13) : d.startNow t .vector = d.opStarted t sl c o := by
  simp only [Device.startNow, h.runs, h.fresh, h.next, h.cmd, h.op, hv, ha, hop, Bool.not_true, Bool.or_self, Bool.false_eq_true, if_false]
  rfl

/-- A RECIPE piece starts at the first step of its first row. -/
theorem Device.startNow_recipe (hop : opcodeOf c.entry = 0x13) {r : Recipe} (hr : c.recipe d = .ok r) :
    d.startNow t .vector = (d.modTile (refKey t) fun x => { x with vu := some (startVu r c.tag sl.op o) }).opStarted t sl c o := by
  simp only [Device.startNow, h.runs, h.fresh, h.next, h.cmd, h.op, hv, ha, hop, hr, Bool.not_true, Bool.or_self, Bool.false_eq_true, if_false, if_true]
  rfl

end FreeUnit

/-- An array operation that finds no place on the arrays waits. -/
theorem Device.startNow_array_waits (h : StartsNext d t .array sl c o) (ha : c.arrayCmd d = .ok a) (hw : d.startArray t c sl.op o a = none) :
    d.startNow t .array = d := by
  simp only [Device.startNow, h.runs, h.fresh, h.next, h.cmd, h.op, ha, hw, Bool.not_true, Bool.or_self, Bool.false_eq_true, if_false]

theorem Device.startNow_array_starts (h : StartsNext d t .array sl c o) (ha : c.arrayCmd d = .ok a) {d1 : Device}
    (hs : d.startArray t c sl.op o a = some (.ok d1)) : d.startNow t .array = d1.opStarted t sl c o := by
  simp only [Device.startNow, h.runs, h.fresh, h.next, h.cmd, h.op, ha, hs, Bool.not_true, Bool.or_self, Bool.false_eq_true, if_false]
  rfl

/-- Saved work keeps the arrays from all but urgent operations (R140), and a vector piece keeps them from ATTENTION (R126). -/
theorem Device.startArray_waits {i : Nat} (hw : ((d.tile (refKey t)).pre.isSome = true ∧ c.urgent = false) ∨ (a.isAtt = true ∧ d.kindRuns t .vector = true)) :
    d.startArray t c i o a = none := by
  unfold Device.startArray
  rcases hw with ⟨hpre, hu⟩ | ⟨hatt, hv⟩
  · simp only [hpre, hu, Bool.not_false, Bool.and_self, Bool.true_or, if_true]
  · simp only [hatt, hv, Bool.and_self, Bool.or_true, if_true]

section MayStart

variable (hpre : (d.tile (refKey t)).pre = none ∨ c.urgent = true) (hatt : a.isAtt = true → d.kindRuns t .vector = false)
include hpre hatt

theorem Device.startArray_guard : (((d.tile (refKey t)).pre.isSome && !c.urgent) || (a.isAtt && d.kindRuns t .vector)) = false := by
  have hsaved : ((d.tile (refKey t)).pre.isSome && !c.urgent) = false := by rcases hpre with hp | hu <;> simp [*]
  have hunit : (a.isAtt && d.kindRuns t .vector) = false := by
    cases hc : a.isAtt with
    | false => rfl
    | true => exact hatt hc
  rw [hsaved, hunit, Bool.or_self]

theorem Device.startArray_idle {i : Nat} (harr : (d.tile (refKey t)).arr = none) : d.startArray t c i o a = some (d.beginArray t c i o a) := by
  simp only [Device.startArray, Device.startArray_guard hpre hatt, harr, Bool.false_eq_true, if_false]

theorem Device.startArray_group {i : Nat} {g : ArrayGroup} (harr : (d.tile (refKey t)).arr = some g) :
    d.startArray t c i o a = d.joinArray t g c i o a := by
  simp only [Device.startArray, Device.startArray_guard hpre hatt, harr, Bool.false_eq_true, if_false]

end MayStart

/-- The bank of homes that a group started on idle arrays takes: not that of a saved group (R168). -/
def Tile.freeBank (x : Tile) : Nat := match x.pre with | some g => 1 - g.bank | none => 0

/-- With no record to go back to, an operation starts on idle arrays as a group of one at array 0. -/
theorem Device.beginArray_fresh {i : Nat} {d0 d1 : Device} {m : Member} (h0 : d0 = if c.urgent then d.freeLanes t.bay.val t.tile.val else d)
    (hrec : d0.snapRecord t.bay.val t.tile.val c.tag i = none)
    (hp : d0.place t.bay.val t.tile.val (c.readCtx d t.bay.val) a c.tag i o 0 (d0.tile (refKey t)).freeBank = .ok (d1, m)) :
    d.beginArray t c i o a =
      .ok (d1.modTile (refKey t) fun y => Tile.settleStart { y with arr := some ⟨[m], 0, 0, (d0.tile (refKey t)).freeBank, 0⟩ }) := by
  subst h0
  cases hpre : (Device.tile (if c.urgent then d.freeLanes t.bay.val t.tile.val else d) (refKey t)).pre <;>
    simp only [Tile.freeBank, hpre] at hp ⊢ <;> simp only [Device.beginArray, hrec, hpre, hp]

section Group

variable {i base : Nat} {g : ArrayGroup} {m0 : Member} {p : Piece} (hm : g.members.head? = some m0) (hp : d.pieceOf m0 = .ok p)
include hm hp

/-- An operation does not join a group whose first block has ended, one it may not share the arrays with, or one that leaves too few arrays. -/
theorem Device.joinArray_waits (hw : ¬(g.pos = 0 ∧ g.course = 0 ∧ p.joins c o a = true) ∨ g.freeBase (arraysOf a.b.cls o.shapeN) = none) :
    d.joinArray t g c i o a = none := by
  unfold Device.joinArray
  cases hbase : g.freeBase (arraysOf a.b.cls o.shapeN) with
  | none => simp only [hm, hp, Option.map_some]
  | some b =>
    have hno : ¬(g.pos = 0 ∧ g.course = 0 ∧ p.joins c o a = true) := hw.resolve_right (by simp [hbase])
    simp only [hm, hp, Option.map_some, if_neg hno]

theorem Device.joinArray_joins (hpos : g.pos = 0) (hcourse : g.course = 0) (hj : p.joins c o a = true)
    (hbase : g.freeBase (arraysOf a.b.cls o.shapeN) = some base) {d1 : Device} {m : Member}
    (hplace : d.place t.bay.val t.tile.val (c.readCtx d t.bay.val) a c.tag i o base g.bank = .ok (d1, m)) :
    d.joinArray t g c i o a =
      some (.ok (d1.modTile (refKey t) fun y => Tile.settleStart { y with arr := some { g with members := g.members ++ [m] } })) := by
  simp only [Device.joinArray, hm, hp, Option.map_some, hbase, hpos, hcourse, hj, hplace, and_self, if_true]

end Group

end Start

/-- Settles O26: a transfer and a vector piece by their lemmas on `Device.startNow`, an array operation by what `Device.startArray` answers for it. -/
theorem operationsStartOnFreeUnits : Obligations.OperationsStartOnFreeUnits := by
  unfold Obligations.OperationsStartOnFreeUnits
  intro t s sl c o
  refine ⟨fun h => ?_, fun h => ⟨fun hbusy => ?_, fun hv ha => ⟨fun hop => ?_, fun r hop hr => ?_⟩⟩, ?_⟩
  · exact runsWhole_of_whole (exec_tileOpStart t .transfer s) (Device.startNow_transfer h)
  · exact runs_of_whole_fixed (exec_tileOpStart t .vector s) (Device.startNow_vector_waits h hbusy)
  · exact runsWhole_of_whole (exec_tileOpStart t .vector s) (Device.startNow_piece h hv ha hop)
  · exact runsWhole_of_whole (exec_tileOpStart t .vector s) (Device.startNow_recipe h hv ha hop hr)
  intro a h ha n x
  have hexec := exec_tileOpStart t .array s
  refine ⟨fun hw => ?_, fun hpre hatt => ⟨fun harr => ?_, fun g m0 p harr hm hp => ⟨fun hw => ?_, fun base d1 m hpos hcourse hj hbase hplace => ?_⟩⟩⟩
  · exact runs_of_whole_fixed hexec (Device.startNow_array_waits h ha (Device.startArray_waits hw))
  · intro d0 bank hrec d1 m hplace
    have hbegin := (Device.startArray_idle hpre hatt harr).trans (congrArg some (Device.beginArray_fresh rfl hrec hplace))
    exact runsWhole_of_whole hexec (Device.startNow_array_starts h ha hbegin)
  · have hwait : s.dev.startArray t c sl.op o a = none := (Device.startArray_group hpre hatt harr).trans (Device.joinArray_waits hm hp hw)
    exact runs_of_whole_fixed hexec (Device.startNow_array_waits h ha hwait)
  · have hjoin := (Device.startArray_group hpre hatt harr).trans (Device.joinArray_joins hm hp hpos hcourse hj hbase hplace)
    exact runsWhole_of_whole hexec (Device.startNow_array_starts h ha hjoin)

/-! ### End (R141, R142, R161, R171, R185, R244, R255) -/

/-- Every operation of the command but `i` has ended. -/
def Cmd.lastOp (c : Cmd) (i : Nat) : Bool := c.ops.zipIdx.all fun p => p.2 == i || p.1.state == .ended

/-- Operation `i` of a command ends as its last piece or one before it, and what waited for its end is written. -/
def Device.pieceEnded (d : Device) (k : Nat) (c : Cmd) (i : Nat) : Device :=
  ((if c.lastOp i then d.perform c.tag k else d).endOp c.tag i).settle c.tag

/-- A change that leaves every command as it is leaves the device as it is. -/
theorem Device.modCmd_of_fixed (d : Device) (tag : Nat) {f : Cmd → Cmd} (hf : ∀ c, f c = c) : d.modCmd tag f = d := by
  have hid : (fun c : Cmd => if c.tag = tag then f c else c) = id := by
    funext c
    rw [hf, ite_self]
    rfl
  unfold Device.modCmd
  rw [hid, List.map_id]

section PieceEnd

variable {d : Device} {t : TileRef} {k : OpKind} {sl : Slot} {c : Cmd}
  (hr : d.tileRuns t.bay.val t.tile.val = true) (hs : d.runningOp t k = some sl) (hc : d.cmd sl.cmd = some c) (hw : d.tokenWait c.tag sl.op = false)
include hr hs hc hw

/-- The end of a piece that has no work of its own left: its flags and its kept writes join its command's. -/
theorem Device.pieceEnd_of_done (hdone : opcodeOf c.entry = 0x13 → ∃ v, (d.tile (refKey t)).vu = some v ∧ v.finished = true ∧ v.cmd = c.tag ∧ v.op = sl.op) :
    d.pieceEnd t k [] =
      (d.modCmd c.tag fun x => { x with flags := x.flags ||| d.pieceFlags t c, late := x.late ++ d.pieceLate t c }).pieceEnded t.bay.val c sl.op := by
  by_cases hop : opcodeOf c.entry = 0x13
  · obtain ⟨v, hv, hfin, hcmd, hi⟩ := hdone hop
    simp only [Device.pieceEnd, hr, hs, hc, hw, hop, hv, hfin, hcmd, hi, beq_self_eq_true, decide_true, Bool.and_self, Bool.not_true, Bool.and_false,
      Bool.or_self, Bool.false_eq_true, if_false, Device.detectAll_nil, fatal_nil]
    rfl
  · simp only [Device.pieceEnd, hr, hs, hc, hw, hop, decide_false, Bool.false_and, Bool.not_true, Bool.or_self, Bool.false_eq_true, if_false,
      Device.detectAll_nil, fatal_nil]
    rfl

/-- A piece of another command than RECIPE has gathered nothing on its tile. -/
theorem Device.pieceEnd_of_other (hop : opcodeOf c.entry ≠ 0x13) : d.pieceEnd t k [] = d.pieceEnded t.bay.val c sl.op := by
  have hflags : d.pieceFlags t c = 0 := by
    unfold Device.pieceFlags
    split
    · exact if_neg hop
    · rfl
  have hlate : d.pieceLate t c = [] := by
    unfold Device.pieceLate
    split
    · exact if_neg hop
    · rfl
  rw [Device.pieceEnd_of_done hr hs hc hw fun h => absurd h hop, hflags, hlate, Device.modCmd_of_fixed]
  intro x
  rw [List.append_nil, Nat.or_zero]

theorem Device.pieceEnd_of_finished (hop : opcodeOf c.entry = 0x13) {v : VuCtx} (hv : (d.tile (refKey t)).vu = some v) (hcmd : v.cmd = c.tag) (hi : v.op = sl.op)
    (hfin : v.finished = true) :
    d.pieceEnd t k [] = (d.modCmd c.tag fun x => { x with flags := x.flags ||| v.flags, late := x.late ++ v.late }).pieceEnded t.bay.val c sl.op := by
  have hflags : d.pieceFlags t c = v.flags := by simp only [Device.pieceFlags, hv, hop, if_true]
  have hlate : d.pieceLate t c = v.late := by simp only [Device.pieceLate, hv, hop, if_true]
  rw [Device.pieceEnd_of_done hr hs hc hw fun _ => ⟨v, hv, hfin, hcmd, hi⟩, hflags, hlate]

omit hw in
/-- A RECIPE piece with rows to go does not end. -/
theorem Device.pieceEnd_of_unfinished (hop : opcodeOf c.entry = 0x13) {v : VuCtx} (hv : (d.tile (refKey t)).vu = some v) (hfin : v.finished = false) :
    d.pieceEnd t k [] = d := by
  simp only [Device.pieceEnd, hr, hs, hc, hop, hv, hfin, decide_true, Bool.false_and, Bool.not_false, Bool.not_true, Bool.and_self, Bool.true_or,
    Bool.false_eq_true, if_false, if_true]

end PieceEnd

/-- The end of the array operation whose drain comes first: its drained values join its command's output (R141). -/
theorem Device.arrayEnd_of_drained {d d1 : Device} {t : TileRef} {r : Drain} {p : Piece} {vs : List (Nat × Wide)} {fl : Nat}
    (hr : d.tileRuns t.bay.val t.tile.val = true) (hn : d.nextDrain t = some r) (hp : d.pieceOf r.mem = .ok p) (hw : d.tokenWait p.cmd.tag r.mem.op = false)
    (hd : drainArray d (p.cmd.readCtx d t.bay.val) p.arr p.op (drainLanes r (d.drainRuns t.bay.val t.tile.val r)) = .ok (d1, vs, fl)) :
    d.arrayEnd t [] = ((d1.modCmd p.cmd.tag fun x =>
      { x with flags := x.flags ||| fl, wide0 := gather x.wide0 vs, loadSat := x.loadSat + r.mem.loadSat, loadFlush := x.loadFlush + r.mem.loadFlush }).endOp
        p.cmd.tag r.mem.op).settle p.cmd.tag := by
  simp only [Device.arrayEnd, hr, hn, hp, hw, hd, Bool.not_true, Bool.false_eq_true, if_false, Device.detectAll_nil, fatal_nil]

/-! ### What the end of an operation gives back (R125, R244, R255) -/

/-- A bay without the waiting accesses of an operation. -/
def Bay.dropWaits (b : Bay) (tag i : Nat) : Bay := { b with waits := b.waits.filter fun w => !(w.cmd == tag && w.op == i) }

@[simp] theorem Device.dropWaits_cmds (d : Device) (tag i : Nat) : (d.dropWaits tag i).cmds = d.cmds := rfl

theorem Device.dropWaits_bay (d : Device) (tag i k : Nat) (hk : k < 8) : (d.dropWaits tag i).bay k = (d.bay k).dropWaits tag i := by
  simp only [Device.bay, Device.dropWaits, Vector.getElem?_eq_getElem hk, Vector.getElem_map, Option.getD_some]
  rfl

/-- A command whose operation `i` ends at time `now`. -/
def Cmd.opEndedAt (c : Cmd) (i now : Nat) : Cmd :=
  { c with ops := c.ops.modify i fun x => { x with state := .ended, tally := none }, progressAt := now }

section EndOp

variable {d : Device} {c : Cmd} {i : Nat} {o : TileOp} (hc : d.cmd c.tag = some c) (ho : c.ops[i]? = some o) (hst : o.state = .running)
include hc ho hst

theorem Device.endOp_of_running : d.endOp c.tag i =
    (((d.dropWaits c.tag i).setTile (tileKey o.bay o.tile) ((d.tile (tileKey o.bay o.tile)).forget c.tag i)).modBay o.bay fun b =>
      b.opEnded c.urgent true o).modCmd c.tag fun x => x.opEndedAt i d.now := by
  have hdel : o.delivered = true := by simp [TileOp.delivered, hst]
  have hrun : o.state ≠ .ended := by simp [hst]
  simp only [Device.endOp, hc, ho, hrun, hdel, if_false, if_true]
  rfl

theorem Device.endOp_cmd : (d.endOp c.tag i).cmd c.tag = some (c.opEndedAt i d.now) := by
  rw [Device.endOp_of_running hc ho hst, Device.cmd_modCmd _ c.tag c.tag (fun x => x.opEndedAt i d.now) fun _ => rfl,
    Device.cmd_of_cmds ((Device.modBay_cmds _ _ _).trans (Device.setTile_cmds _ _ _)), Device.cmd_of_cmds (Device.dropWaits_cmds _ _ _), hc, Option.map_some, if_pos rfl]

theorem Device.endOp_bay (hk : o.bay < 8) : (d.endOp c.tag i).bay o.bay = ((d.bay o.bay).dropWaits c.tag i).opEnded c.urgent true o := by
  rw [Device.endOp_of_running hc ho hst, Device.bay_of_bays (Device.modCmd_bays _ _ _), Device.bay_modBay_same _ hk, Device.bay_of_bays (Device.setTile_bays _ _ _),
    Device.dropWaits_bay _ _ _ _ hk]

theorem Device.endOp_tile : (d.endOp c.tag i).tile (tileKey o.bay o.tile) = (d.tile (tileKey o.bay o.tile)).forget c.tag i := by
  rw [Device.endOp_of_running hc ho hst]
  exact Device.tile_setTile_same _ _

end EndOp

/-- What a bay gets back of a delivered operation with a tally tag. -/
theorem Bay.opEnded_returns (b : Bay) (u : Bool) {o : TileOp} {tag : Nat} (ht : o.tally = some tag) :
    (b.opEnded u true o).slotsFree = b.slotsFree + 1 ∧
    (tag < 13824 → (b.opEnded u true o).tallyFree = tag :: b.tallyFree) ∧
    (13824 ≤ tag → (b.opEnded u true o).tallyUrgentFree = tag :: b.tallyUrgentFree) ∧
    (u = true → (b.opEnded u true o).urgentBacklog = b.urgentBacklog - o.charge) ∧
    (u = false → (b.opEnded u true o).tileBacklog = b.tileBacklog - o.charge) := by
  unfold Bay.opEnded Bay.returnTally
  by_cases hn : tag < 13824 <;> cases u <;> simp [ht, hn, Nat.not_le.2, Nat.le_of_not_lt]

/-- Settles O28: the ends of pieces and drains by their lemmas on `Device.pieceEnd` and `Device.arrayEnd`, and what an end returns by those on `Device.endOp`. -/
theorem operationsEndAndReturn : Obligations.OperationsEndAndReturn := by
  unfold Obligations.OperationsEndAndReturn
  refine ⟨fun t s k sl c hk hr hs hc hop hw => ?_, fun t s sl c v hr hs hc hop hv hcmd hi hw => ⟨fun hfin => ?_, fun hfin => ?_⟩,
    fun t s r p d1 vs fl hr hn hp hw hd => ?_, fun d c i o tag hc ho hst ht hk => ?_⟩
  · have hend : s.dev.opEndNow t k [] = s.dev.pieceEnded t.bay.val c sl.op := by
      rcases hk with rfl | rfl <;> exact Device.pieceEnd_of_other hr hs hc hw hop
    exact runsWhole_of_whole (exec_tileOpEnd t k [] s) hend
  · exact runsWhole_of_whole (exec_tileOpEnd t .vector [] s) (Device.pieceEnd_of_finished hr hs hc hw hop hv hcmd hi hfin)
  · exact runs_of_whole_fixed (exec_tileOpEnd t .vector [] s) (Device.pieceEnd_of_unfinished hr hs hc hop hv hfin)
  · exact runsWhole_of_whole (exec_tileOpEnd t .array [] s) (Device.arrayEnd_of_drained hr hn hp hw hd)
  · have hbay := Device.endOp_bay hc ho hst hk
    refine ⟨Device.endOp_cmd hc ho hst, ?_⟩
    rw [hbay]
    obtain ⟨hslots, hnormal, hurgent, hub, htb⟩ := Bay.opEnded_returns ((d.bay o.bay).dropWaits c.tag i) c.urgent ht
    exact ⟨hslots, hnormal, hurgent, hub, htb, Device.endOp_tile hc ho hst⟩

end Sys2Proof.Machine
end

section
/-! PROOF. Saved work: array groups that go on, and row-state records (R139, R140, R142, R187). -/

namespace Sys2Proof.Machine

/-! ### Lanes written one by one (R123, R147) -/

/-- What a lane holds after a list of lanes took values, where a lane that takes its value again keeps it. -/
theorem Tile.lane_eachLane_map {α : Type} {f : Lane → α → Lane} (hf : ∀ l v, f (f l v) v = f l v) (F : Nat → α) (i : Nat) :
    ∀ (is : List Nat) (x : Tile), (x.eachLane is (is.map F) f).lane i = if i ∈ is then f (x.lane i) (F i) else x.lane i
  | [], _ => by rw [if_neg List.not_mem_nil]; rfl
  | j :: is, x => by
    have hstep : x.eachLane (j :: is) ((j :: is).map F) f = (x.eachLane [j] [F j] f).eachLane is (is.map F) f := rfl
    have hone : (x.eachLane [j] [F j] f).lane i = if i = j then f (x.lane i) (F i) else x.lane i := by
      by_cases hij : i = j
      · subst hij
        rw [if_pos rfl]
        exact Store.get_put_same
      · rw [if_neg hij]
        exact Store.get_put_other hij
    rw [hstep, Tile.lane_eachLane_map hf F i is, hone]
    by_cases hij : i = j <;> by_cases hmem : i ∈ is <;> simp [hij, hmem, hf]

/-! ### Start values on their way into the lanes (R142) -/

/-- The start values of a list of members, in their lanes. -/
def Tile.startRuns (x : Tile) (ms : List Member) : Tile :=
  ms.foldl (fun x m => match m.start with | some vs => x.setRuns m.lanes vs | none => x) x

/-- A group none of whose members waits for its lanes. -/
def ArrayGroup.settled (g : ArrayGroup) : ArrayGroup := { g with members := g.members.map fun m => { m with start := none } }

theorem Tile.settleStart_of_arr {x : Tile} {g : ArrayGroup} (h : x.arr = some g) :
    x.settleStart = if x.drainsLanes then x else { x.startRuns g.members with arr := some g.settled } := by
  unfold Tile.settleStart
  simp only [h]
  rfl

theorem Tile.startRuns_frame : ∀ (ms : List Member) (x : Tile), x.startRuns ms = { x with lanes := (x.startRuns ms).lanes }
  | [], _ => rfl
  | m :: ms, x => by
    have hstep : ∃ ls, x.startRuns (m :: ms) = Tile.startRuns { x with lanes := ls } ms := by
      cases hm : m.start with
      | none => exact ⟨x.lanes, by simp only [Tile.startRuns, List.foldl_cons, hm]⟩
      | some vs => exact ⟨(x.setRuns m.lanes vs).lanes, by simp only [Tile.startRuns, List.foldl_cons, hm]; rfl⟩
    obtain ⟨ls, hls⟩ := hstep
    rw [hls]
    exact Tile.startRuns_frame ms { x with lanes := ls }

/-- Where the members' start values are given lane by lane, each of their lanes takes its own. -/
theorem Tile.lane_startRuns (F : Nat → Acc) (i : Nat) : ∀ (ms : List Member) (x : Tile), (∀ m ∈ ms, m.start = some (m.lanes.map F)) →
    (x.startRuns ms).lane i = if i ∈ ms.flatMap (·.lanes) then { x.lane i with run := F i } else x.lane i
  | [], _, _ => rfl
  | m :: ms, x, h => by
    have hstep : x.startRuns (m :: ms) = (x.setRuns m.lanes (m.lanes.map F)).startRuns ms := by
      simp only [Tile.startRuns, List.foldl_cons, h m List.mem_cons_self]
    have hset : (x.setRuns m.lanes (m.lanes.map F)).lane i = if i ∈ m.lanes then { x.lane i with run := F i } else x.lane i :=
      Tile.lane_eachLane_map (f := fun l v => { l with run := v }) (fun _ _ => rfl) F i m.lanes x
    rw [hstep, Tile.lane_startRuns F i ms _ fun y hy => h y (List.mem_cons_of_mem m hy), hset]
    by_cases hm : i ∈ m.lanes <;> by_cases hmem : i ∈ ms.flatMap (·.lanes) <;> simp [hm, hmem, List.flatMap_cons]

/-! ### A saved group goes on (R140) -/

/-- The members of a saved group, with the running values `run` that wait for their lanes. -/
def ArrayGroup.saved (g : ArrayGroup) (run : Nat → Acc) : ArrayGroup :=
  { g with members := g.members.map fun m => { m with start := some (m.lanes.map run) } }

/-- A tile whose lanes `is` take the saved course accumulators, and whose arrays take the saved group. -/
def Tile.withSaved (x : Tile) (is : List Nat) (g : ArrayGroup) (course run : Nat → Acc) : Tile :=
  { (x.eachLane is (is.map course) fun l v => { l with course := v }) with arr := some (g.saved run), pre := none }

/-- A tile that goes on with a saved group: the members' running values go into the lanes once no drain reads them. -/
def Tile.resumed (x : Tile) (is : List Nat) (g : ArrayGroup) (course run : Nat → Acc) : Tile := (x.withSaved is g course run).settleStart

section Resumed

variable (x : Tile) (is : List Nat) (g : ArrayGroup) (course run : Nat → Acc)

@[simp] theorem Tile.withSaved_arr : (x.withSaved is g course run).arr = some (g.saved run) := rfl
@[simp] theorem Tile.withSaved_pre : (x.withSaved is g course run).pre = none := rfl
@[simp] theorem Tile.withSaved_drains : (x.withSaved is g course run).drains = x.drains := rfl
@[simp] theorem Tile.withSaved_drainsLanes : (x.withSaved is g course run).drainsLanes = x.drainsLanes := by
  rw [Tile.drainsLanes, Tile.withSaved_drains, Tile.drainsLanes]

theorem Tile.resumed_of_draining (h : x.drainsLanes = true) : x.resumed is g course run = x.withSaved is g course run := by
  rw [Tile.resumed, Tile.settleStart_of_arr (Tile.withSaved_arr x is g course run), Tile.withSaved_drainsLanes, if_pos h]

theorem Tile.resumed_of_free (h : x.drainsLanes = false) : x.resumed is g course run =
    { (x.withSaved is g course run).startRuns (g.saved run).members with arr := some (g.saved run).settled } := by
  rw [Tile.resumed, Tile.settleStart_of_arr (Tile.withSaved_arr x is g course run), Tile.withSaved_drainsLanes, if_neg (Bool.eq_false_iff.1 h)]

theorem Tile.resumed_pre : (x.resumed is g course run).pre = none := by
  cases h : x.drainsLanes with
  | true => rw [Tile.resumed_of_draining x is g course run h, Tile.withSaved_pre]
  | false => rw [Tile.resumed_of_free x is g course run h, Tile.startRuns_frame, Tile.withSaved_pre]

/-- The group on the arrays stands where it was saved, with the same operations. -/
theorem Tile.resumed_arr : ∃ g1, (x.resumed is g course run).arr = some g1 ∧ g1.pos = g.pos ∧ g1.course = g.course ∧
    g1.members.map (fun m => (m.cmd, m.op)) = g.members.map fun m => (m.cmd, m.op) := by
  cases h : x.drainsLanes with
  | true =>
    rw [Tile.resumed_of_draining x is g course run h, Tile.withSaved_arr]
    refine ⟨_, rfl, rfl, rfl, ?_⟩
    simp only [ArrayGroup.saved, List.map_map, Function.comp_def]
  | false =>
    rw [Tile.resumed_of_free x is g course run h]
    refine ⟨_, rfl, rfl, rfl, ?_⟩
    simp only [ArrayGroup.settled, ArrayGroup.saved, List.map_map, Function.comp_def]

/-- The lanes of a tile that takes a saved group have its course accumulators. -/
theorem Tile.withSaved_lane (i : Nat) (hi : i ∈ is) : (x.withSaved is g course run).lane i = { x.lane i with course := course i } := by
  have hlane := Tile.lane_eachLane_map (f := fun l v => { l with course := v }) (fun _ _ => rfl) course i is x
  rw [if_pos hi] at hlane
  exact hlane

theorem Tile.resumed_lane_of_free (h : x.drainsLanes = false) (i : Nat) : (x.resumed is g course run).lane i =
    if i ∈ (g.saved run).members.flatMap (·.lanes) then { (x.withSaved is g course run).lane i with run := run i } else (x.withSaved is g course run).lane i := by
  have hvals : ∀ m ∈ (g.saved run).members, m.start = some (m.lanes.map run) := by
    intro m hm
    obtain ⟨m0, -, rfl⟩ := List.mem_map.1 hm
    rfl
  rw [Tile.resumed_of_free x is g course run h]
  exact Tile.lane_startRuns run i _ _ hvals

theorem Tile.resumed_course (i : Nat) (hi : i ∈ is) : ((x.resumed is g course run).lane i).course = course i := by
  cases h : x.drainsLanes with
  | true => rw [Tile.resumed_of_draining x is g course run h, Tile.withSaved_lane x is g course run i hi]
  | false =>
    rw [Tile.resumed_lane_of_free x is g course run h, Tile.withSaved_lane x is g course run i hi]
    split <;> rfl

theorem Tile.resumed_run (h : x.drainsLanes = false) {m : Member} (hm : m ∈ g.members) {i : Nat} (hi : i ∈ m.lanes) :
    ((x.resumed is g course run).lane i).run = run i := by
  have hmem : i ∈ (g.saved run).members.flatMap (·.lanes) :=
    List.mem_flatMap.2 ⟨{ m with start := some (m.lanes.map run) }, List.mem_map.2 ⟨m, hm, rfl⟩, hi⟩
  rw [Tile.resumed_lane_of_free x is g course run h, if_pos hmem]

end Resumed

/-! ### The operations of a resumed group run -/

/-- The operations of a list of members, running. -/
def Device.markRunning (d : Device) (ms : List Member) : Device :=
  ms.foldl (fun d m => d.withOp m.cmd m.op fun o => { o with state := .running }) d

/-- Operation `i` of command `tag` runs, where there is one. -/
def Device.OpRuns (d : Device) (tag i : Nat) : Prop := ∀ c o, d.cmd tag = some c → c.ops[i]? = some o → o.state = .running

theorem Device.markRunning_tiles : ∀ (ms : List Member) (d : Device), (d.markRunning ms).tiles = d.tiles
  | [], _ => rfl
  | m :: ms, d => Device.markRunning_tiles ms (d.withOp m.cmd m.op fun o => { o with state := .running })

theorem Device.markRunning_mem : ∀ (ms : List Member) (d : Device), (d.markRunning ms).mem = d.mem
  | [], _ => rfl
  | m :: ms, d => Device.markRunning_mem ms (d.withOp m.cmd m.op fun o => { o with state := .running })

/-- Marking an operation makes it run, and leaves running what ran. -/
theorem Device.opRuns_withOp {d : Device} {tag i tag' i' : Nat} (h : (tag = tag' ∧ i = i') ∨ d.OpRuns tag i) :
    (d.withOp tag' i' fun o => { o with state := .running }).OpRuns tag i := by
  intro c o hc ho
  rw [Device.cmd_withOp, Option.map_eq_some_iff] at hc
  obtain ⟨c0, hc0, rfl⟩ := hc
  split at ho
  · next htag =>
    rw [List.getElem?_modify, Option.map_eq_map, Option.map_eq_some_iff] at ho
    obtain ⟨o0, ho0, rfl⟩ := ho
    split
    · rfl
    · next hi => exact (h.resolve_left fun he => hi he.2.symm) c0 o0 hc0 ho0
  · next htag => exact (h.resolve_left fun he => htag ((Device.cmd_tag hc0).trans he.1)) c0 o hc0 ho

theorem Device.OpRuns.markRunning {tag i : Nat} : ∀ (ms : List Member) {d : Device}, d.OpRuns tag i → (d.markRunning ms).OpRuns tag i
  | [], _, h => h
  | _ :: ms, _, h => Device.OpRuns.markRunning ms (Device.opRuns_withOp (.inr h))

/-- Every member marked runs. -/
theorem Device.markRunning_opRuns : ∀ (ms : List Member) (d : Device), ∀ m ∈ ms, (d.markRunning ms).OpRuns m.cmd m.op
  | [], _, _, hm => absurd hm List.not_mem_nil
  | m0 :: ms, d, m, hm => by
    rcases List.mem_cons.1 hm with rfl | hm
    · exact (Device.opRuns_withOp (d := d) (.inl ⟨rfl, rfl⟩)).markRunning ms
    · exact Device.markRunning_opRuns ms _ m hm

/-- PREEMPTED_RESUME of a group that may go on. -/
theorem Device.resume_of_saved {d : Device} {t : TileRef} {g : ArrayGroup} (hr : d.tileRuns t.bay.val t.tile.val = true)
    (hpre : (d.tile (refKey t)).pre = some g) (harr : (d.tile (refKey t)).arr = none) (hu : ∀ sl, d.nextSlot t .array = some sl → sl.urgent = false)
    (hatt : g.members.any d.isAttention = true → d.kindRuns t .vector = false) :
    d.resume t = (d.modTile (refKey t) fun x =>
      x.resumed allLanes g (d.accAt (saveArea t.bay.val t.tile.val)) (d.accAt (saveArea t.bay.val t.tile.val + 5120))).markRunning g.members := by
  have hunit : (g.members.any d.isAttention && d.kindRuns t .vector) = false := by
    cases hany : g.members.any d.isAttention with
    | false => rfl
    | true => exact hatt hany
  cases hs : d.nextSlot t .array with
  | none =>
    simp only [Device.resume, hpre, harr, hr, hs, hunit, Option.isSome_none, Bool.not_true, Bool.or_self, Bool.false_eq_true, if_false]
    rfl
  | some sl =>
    simp only [Device.resume, hpre, harr, hr, hs, hu sl hs, hunit, Option.isSome_none, Bool.not_true, Bool.or_self, Bool.false_eq_true, if_false]
    rfl

/-! ### Row-state records (R187) -/

/-- The slot that PIECE_BOUNDARY writes: the one that the newest record is not in. -/
def Tile.rowSlotNext (x : Tile) : Nat := match x.rowRecs with | r :: _ => 1 - r.slot | [] => 0

theorem Device.pieceBoundary_of_boundary {d : Device} {t : TileRef} {v : VuCtx} {c : Cmd} (hv : d.vuWork t = some (v, c)) (hfin : v.finished = false)
    (hpc : v.pc = v.passStart) (hg : 0 < v.group ∨ 0 < v.pass) (hh : ∀ n, n < 2 → d.held (rowSlot t.bay.val t.tile.val n) 2112 = false) :
    d.pieceBoundary t = (d.putBytes (rowSlot t.bay.val t.tile.val (d.tile (refKey t)).rowSlotNext) v.record).modTile (refKey t) fun x =>
      { x with
        rowRecs := ⟨(d.tile (refKey t)).rowSlotNext, v.cmd, v.op, v.flags, v.fenced, v.late⟩ ::
          (d.tile (refKey t)).rowRecs.filter fun r => r.slot != (d.tile (refKey t)).rowSlotNext
        vu := some { v with copy := [] } } := by
  have hfirst : (v.group == 0 && v.pass == 0) = false := by
    rw [Bool.eq_false_iff, ne_eq, Bool.and_eq_true, beq_iff_eq, beq_iff_eq]
    omega
  have hfree : ([0, 1].any fun n => d.held (rowSlot t.bay.val t.tile.val n) 2112) = false := by
    simp only [List.any_cons, List.any_nil, hh 0 (by decide), hh 1 (by decide), Bool.or_self]
  have hstart : (v.pc != v.passStart) = false := by rw [hpc, bne_self_eq_false]
  unfold Device.pieceBoundary
  simp only [hv, hfin, hstart, hfirst, hfree, Bool.or_self, Bool.false_eq_true, if_false]
  rfl

/-- Settles O29: the resumed tile by the lemmas on `Tile.resumed`, the record by the write of its bytes. -/
theorem savedWorkComesBack : Obligations.SavedWorkComesBack := by
  unfold Obligations.SavedWorkComesBack
  refine ⟨fun t s g hr hpre harr hu hatt => ?_, fun t s v c hv hfin hpc hg hh => ?_⟩
  · have hresume := Device.resume_of_saved hr hpre harr hu hatt
    generalize s.dev.accAt (saveArea t.bay.val t.tile.val) = course at hresume ⊢
    generalize s.dev.accAt (saveArea t.bay.val t.tile.val + 5120) = run at hresume ⊢
    obtain ⟨g1, hg1, hpos, hcourse, hmembers⟩ := Tile.resumed_arr (s.dev.tile (refKey t)) allLanes g course run
    have htile : ((s.dev.modTile (refKey t) fun x => x.resumed allLanes g course run).markRunning g.members).tile (refKey t) =
        (s.dev.tile (refKey t)).resumed allLanes g course run := by
      unfold Device.tile
      rw [Device.markRunning_tiles]
      exact Device.tile_setTile_same _ _
    refine ⟨(s.dev.modTile (refKey t) fun x => x.resumed allLanes g course run).markRunning g.members, g1, ?_, ?_, ?_, hpos, hcourse, hmembers, ?_, ?_, ?_, ?_⟩
    · unfold Runs
      rw [← hresume]
      rfl
    · rw [htile, Tile.resumed_pre]
    · rw [htile, hg1]
    · intro i hi
      rw [htile]
      exact Tile.resumed_course _ allLanes _ _ _ i (List.mem_range.2 hi)
    · intro hfree m hm i hi
      rw [htile, Tile.resumed_run _ _ _ _ _ hfree hm hi]
    · exact fun m hm => Device.markRunning_opRuns g.members _ m hm
    · exact Device.markRunning_mem g.members _
  · have hrun : Runs (.pieceBoundary t) s (s.dev.pieceBoundary t) := rfl
    rw [Device.pieceBoundary_of_boundary hv hfin hpc hg hh] at hrun
    refine ⟨_, hrun, ?_, fun slot hslot => ?_⟩
    · rw [Device.modTile, Device.tile_setTile_same]
    · have hnext : slot = (s.dev.tile (refKey t)).rowSlotNext := by
        unfold Tile.rowSlotNext
        rcases hslot with ⟨r, more, hrecs, rfl⟩ | ⟨hrecs, rfl⟩ <;> rw [hrecs]
      subst hnext
      refine ⟨Mem.read_write_same _ _ _, ?_⟩
      rw [Device.modTile, Device.tile_setTile_same]

end Sys2Proof.Machine
end

section
/-! PROOF. Take-overs: a retired tile, its spare slates, and the spare that carries on with its number (R149, R166, R351 to R354, R358). -/

namespace Sys2Proof.Machine

/-! ### Tiles retired (R351) -/

/-- A bay with physical tile `p` on its retired list. -/
def Bay.retire (b : Bay) (p : Nat) : Bay :=
  { b with retired := if b.retired.contains p then b.retired else b.retired ++ [p], spares := b.spares.erase p }

theorem Bay.mem_retire (b : Bay) (p : Nat) : p ∈ (b.retire p).retired := by
  unfold Bay.retire
  dsimp only
  split
  · next h => exact List.contains_iff_mem.1 h
  · exact List.mem_append_right _ (List.mem_singleton_self p)

theorem Device.retireTile_bay (d : Device) {k : Nat} (hk : k < 8) (p : Nat) : (d.retireTile k p).bay k = (d.bay k).retire p :=
  (Device.bay_of_bays rfl k).trans (Device.bay_setBay_same d hk _)

/-! ### A take-over begins (R351, R353) -/

theorem exec_errorRecordHandle (s : State) : exec .errorRecordHandle s = .next { s with dev := s.dev.whole (·.handleErrorNow) } := rfl

/-- The oldest record blames a tile of a bay under no handling: its take-over starts. -/
theorem Device.handleErrorNow_of_tile {d : Device} {e : ErrRec} {rest : List ErrRec} (he : d.safety.errors = e :: rest) (hb : d.bayOut e.bay = false)
    (hs : (d.bay e.bay).state ≠ .reset) (hn : e.nesting = 0) (hf : detBlamesTile e.found = true) :
    d.handleErrorNow = (d.withSafety fun s => { s with errors := rest }).startTakeOver e.bay e.tile (detMech e.found) e.tag := by
  have hout : (d.withSafety fun s => { s with errors := rest }).bayOut e.bay = false := hb
  have hstate : ((d.withSafety fun s => { s with errors := rest }).bay e.bay).state ≠ .reset := hs
  have hfresh : ¬(1 ≤ e.nesting ∨ ((d.withSafety fun s => { s with errors := rest }).bay e.bay).state = .reset) := by
    rw [hn]
    exact not_or.2 ⟨by decide, hstate⟩
  unfold Device.handleErrorNow
  simp only [he, hout, if_neg hfresh, Bool.false_eq_true, if_false]
  cases hfound : e.found with
  | tileParity | residue | twin | vectorCheck | lockstep => exact if_pos rfl
  | pathParity _ | dieCorrected _ | dieDouble _ =>
    rw [hfound] at hf
    cases hf

section StartTakeOver

variable (d : Device) (k t mech tag : Nat)

/-- The bay of a tile whose take-over starts. -/
theorem Device.startTakeOver_bay (hk : k < 8) : (d.startTakeOver k t mech tag).bay k =
    { (d.bay k).retire ((d.bay k).physOf t) with
      state := .recovery, takeOver := some ⟨t, (d.bay k).physOf t, none, .containing, 0, d.now, 0, 0, 0, mech, tag⟩ } := by
  unfold Device.startTakeOver Device.rungSeen
  rw [Device.bay_of_bays (Device.withSafety_bays _ _), Device.modTile, Device.bay_of_bays (Device.setTile_bays _ _ _), Device.bay_modBay_same _ hk,
    Device.retireTile_bay d hk]

/-- The retired scratchpad's records of the buddy are lost. -/
theorem Device.startTakeOver_snaps : ((d.startTakeOver k t mech tag).tile (tileKey k (buddyOf t))).snaps = [] :=
  congrArg Tile.snaps (Device.tile_setTile_same _ _)

@[simp] theorem Device.startTakeOver_cmds : (d.startTakeOver k t mech tag).cmds = d.cmds := by
  simp only [Device.startTakeOver, Device.rungSeen_cmds, Device.modTile_cmds, Device.modBay_cmds, Device.retireTile, Device.setBay_cmds]

@[simp] theorem Device.startTakeOver_mem : (d.startTakeOver k t mech tag).mem = d.mem := by
  simp only [Device.startTakeOver, Device.rungSeen_mem, Device.modTile_mem, Device.modBay_mem, Device.retireTile, Device.setBay_mem]

theorem Device.startTakeOver_errors : (d.startTakeOver k t mech tag).safety.errors = d.safety.errors := by
  simp only [Device.startTakeOver, Device.rungSeen_safety, Device.modTile_safety, Device.modBay_safety, Device.retireTile, Device.setBay_safety]

end StartTakeOver

/-! ### Spare slates (R352, R358) -/

/-- With no spare slate left the bay goes out of service. -/
theorem Device.nextSpare_none {d : Device} {k : Nat} {x : TakeOver} (hk : k < 8) (ho : d.bayOut k = false) (hs : (d.bay k).spares = []) :
    BayGone d (d.nextSpare k x) k := by
  unfold Device.nextSpare
  simp only [hs]
  exact Device.outOfService_gone d k 0 _ hk ho

/-- The lowest-numbered spare slate is fetched. -/
theorem Device.nextSpare_cons {d : Device} {k : Nat} {x : TakeOver} {p : Nat} {ps : List Nat} (hs : (d.bay k).spares = p :: ps) :
    d.nextSpare k x = d.modBay k fun b => { b with takeOver := some { x with spare := some (ps.foldl min p), stage := .fetching } } := by
  unfold Device.nextSpare
  simp only [hs]

theorem Device.contained_of_containing {d : Device} {k : Nat} {x : TakeOver} (hx : (d.bay k).takeOver = some x) (hst : x.stage = .containing) :
    d.contained k = d.nextSpare k x := by
  simp only [Device.contained, hx, hst, if_true]

theorem exec_spareValidation (k : Fin 8) (spare buddy : List Byte) (s : State) :
    exec (.spareValidation k ⟨spare, buddy⟩) s = .next { s with dev := s.dev.whole fun d => d.validatedNow k.val spare buddy } := rfl

section Validation

variable {d : Device} {k : Nat} {x : TakeOver} {p : Nat} {spare buddy : List Byte} (hx : (d.bay k).takeOver = some x) (hst : x.stage = .fetching)
  (hsp : x.spare = some p) (hrec : (d.bay k).state = .recovery)
include hx hst hsp hrec

theorem Device.validatedNow_of_agree (ha : resultsAgree spare buddy = true) : d.validatedNow k spare buddy = d.spareTakes k x p := by
  have hcompares : (d.bay k).state.compares = true := by rw [hrec]; rfl
  simp only [Device.validatedNow, hx, hst, hsp, hcompares, ha, Bool.not_true, Bool.false_eq_true, if_false, if_true]

/-- A spare that fails its first comparison is retired, and the next is fetched. -/
theorem Device.validatedNow_of_differ (ha : resultsAgree spare buddy = false) (hf : x.fails = 0) :
    ∃ ev, d.validatedNow k spare buddy = ((d.retireTile k p).logEvent ev).nextSpare k { x with fails := 1 } := by
  have hcompares : (d.bay k).state.compares = true := by rw [hrec]; rfl
  unfold Device.validatedNow
  simp only [hx, hst, hsp, hcompares, ha, hf, Bool.not_true, Bool.false_eq_true, if_false, if_true]
  exact ⟨_, rfl⟩

end Validation

/-! ### The end of a take-over (R353, R354) -/

/-- Once both tiles are protected the bay runs again, and the take-over is over. -/
theorem Device.reProtect_bay {d : Device} {k : Nat} {x : TakeOver} (hk : k < 8) (hx : (d.bay k).takeOver = some x) (hst : x.stage = .protecting)
    (hm : (d.tile (tileKey k x.tile)).protected' = true) (ho : (d.tile (tileKey k (buddyOf x.tile))).protected' = true) :
    (d.reProtect k).bay k = { d.bay k with state := .run, takeOver := none, nesting := 0 } := by
  have hready : x.stage = .protecting ∧ (d.tile (tileKey k x.tile)).protected' = true ∧ (d.tile (tileKey k (buddyOf x.tile))).protected' = true := ⟨hst, hm, ho⟩
  unfold Device.reProtect
  simp only [hx, if_pos hready]
  rw [Device.modTile, Device.bay_of_bays (Device.setTile_bays _ _ _), Device.modTile, Device.bay_of_bays (Device.setTile_bays _ _ _), Device.bay_modBay_same _ hk]

/-- A repeated tile goes on, and asks for a fresh snapshot of its work. -/
theorem Device.takeOverResume_of_repeating {d : Device} {k : Nat} {x : TakeOver} (hx : (d.bay k).takeOver = some x) (hst : x.stage = .repeating) :
    ∃ ev, d.takeOverResume k =
      ((d.modBay k fun b => { b with takeOver := some { x with stage := .protecting } }).modTile (tileKey k x.tile) fun t => { t with snapDue := true }).logEvent ev := by
  unfold Device.takeOverResume
  simp only [hx, hst, if_true]
  exact ⟨_, rfl⟩

/-- Settles O34: one part for each stage of a take-over, from the lemmas on the operation that performs it. -/
theorem takeOverReplacesATile : Obligations.TakeOverReplacesATile := by
  unfold Obligations.TakeOverReplacesATile
  refine ⟨fun s e rest he hk hf hn ho hs => ?_, fun k s x hx hst ho => ⟨fun hnone => ?_, fun p ps hcons => ?_⟩, fun k s x p spare buddy hx hst hsp hrec ha hf q qs hq => ?_,
    fun k s x hx hst hm ho => ?_, fun k s x hx hst => ?_⟩
  · have hbay := Device.startTakeOver_bay (s.dev.withSafety fun y => { y with errors := rest }) e.bay e.tile (detMech e.found) e.tag hk
    refine ⟨_, runsWhole_of_whole (exec_errorRecordHandle s) (Device.handleErrorNow_of_tile he ho hs hn hf), Device.startTakeOver_errors _ _ _ _ _, ?_, ?_, ?_,
      Device.startTakeOver_snaps _ _ _ _ _, Device.startTakeOver_cmds _ _ _ _ _, Device.startTakeOver_mem _ _ _ _ _⟩ <;> rw [hbay]
    · rfl
    · exact Bay.mem_retire _ _
  · have hruns : Runs (.containmentEnd k) s (s.dev.contained k.val) := rfl
    rw [Device.contained_of_containing hx hst] at hruns
    exact ⟨_, hruns, Device.nextSpare_none k.isLt ho hnone⟩
  · have hruns : Runs (.containmentEnd k) s (s.dev.contained k.val) := rfl
    rwa [Device.contained_of_containing hx hst, Device.nextSpare_cons hcons] at hruns
  · obtain ⟨ev, hnow⟩ := Device.validatedNow_of_differ hx hst hsp hrec ha hf
    have hretired : ((s.dev.retireTile k.val p).logEvent ev).bay k.val = (s.dev.bay k.val).retire p :=
      (Device.bay_of_bays (Device.logEvent_bays _ _) _).trans (Device.retireTile_bay _ k.isLt p)
    have hspares : (((s.dev.retireTile k.val p).logEvent ev).bay k.val).spares = q :: qs := by rw [hretired]; exact hq
    rw [Device.nextSpare_cons hspares] at hnow
    refine ⟨_, runsWhole_of_whole (exec_spareValidation k spare buddy s) hnow, ?_, ?_⟩ <;> rw [Device.bay_modBay_same _ k.isLt]
    rw [hretired]
    exact Bay.mem_retire _ _
  · have hbay := Device.reProtect_bay k.isLt hx hst hm ho
    exact ⟨s.dev.reProtect k.val, rfl, by rw [hbay], by rw [hbay], by rw [hbay]⟩
  · obtain ⟨ev, hresume⟩ := Device.takeOverResume_of_repeating hx hst
    have hruns : Runs (.takeOverResume k) s (s.dev.takeOverResume k.val) := rfl
    rw [hresume] at hruns
    refine ⟨_, hruns, ?_, ?_⟩
    · rw [Device.bay_of_bays (Device.logEvent_bays _ _), Device.modTile, Device.bay_of_bays (Device.setTile_bays _ _ _), Device.bay_modBay_same _ k.isLt]
    · unfold Device.tile
      rw [Device.logEvent_tiles]
      exact congrArg Tile.snapDue (Device.tile_setTile_same _ _)

/-! ### Bytes read beside a write, and back after one -/

theorem Mem.read_length (m : Mem) : ∀ n a : Nat, (m.read a n).length = n
  | 0, _ => rfl
  | n + 1, a => by rw [Mem.read, List.length_cons, Mem.read_length m n (a + 1)]

/-- A read above the bytes written gives what it gave before. -/
theorem Mem.read_write_above (m : Mem) (b : Nat) (bs : List Byte) : ∀ (n a : Nat), b + bs.length ≤ a → (m.write b bs).read a n = m.read a n
  | 0, _, _ => rfl
  | n + 1, a, h => by
    rw [Mem.read, Mem.read, Mem.byte_write_other bs m b a (.inr h), Mem.read_write_above m b bs n (a + 1) (by omega)]

@[simp] theorem Device.store_mem (d : Device) (a : Nat) (bs : List Byte) : (d.store a bs).mem = d.mem.write a bs := rfl
@[simp] theorem Device.putBytes_tiles (d : Device) (a : Nat) (bs : List Byte) : (d.putBytes a bs).tiles = d.tiles := rfl
@[simp] theorem Device.putBytes_bays (d : Device) (a : Nat) (bs : List Byte) : (d.putBytes a bs).bays = d.bays := rfl
@[simp] theorem Device.putBytes_cmds (d : Device) (a : Nat) (bs : List Byte) : (d.putBytes a bs).cmds = d.cmds := rfl

/-- The new scratchpad of a tile that takes a number holds nothing of its buddy's mirrors. -/
theorem Device.freshScratchpad_mirrors (d : Device) (k t : Nat) :
    (d.freshScratchpad k t).mem.read (mirrorHomes k (buddyOf t)) homesBytes = d.mem.read (mirrorHomes k (buddyOf t)) homesBytes := by
  have hlen : ((List.range 0x30000).map fun i => Config.freeByte (d.drawn + i)).length = 0x30000 := by rw [List.length_map, List.length_range]
  rw [Device.freshScratchpad, Device.drew_mem, Device.store_mem]
  generalize ((List.range 0x30000).map fun i => Config.freeByte (d.drawn + i)) = bs at hlen ⊢
  unfold mirrorHomes buddyOf padBase homesBytes
  split
  · exact Mem.read_write_above _ _ _ _ _ (by omega)
  · exact Mem.read_write_below _ _ _ _ _ (by omega)

/-- Homes fetched from the mirrors read as the mirrors did. -/
theorem Device.fetchMirrors_read (d : Device) (k t : Nat) :
    (d.fetchMirrors k t).mem.read (ownHomes k t) homesBytes = d.mem.read (mirrorHomes k (buddyOf t)) homesBytes := by
  have hback : ∀ n, (d.mem.write (ownHomes k t) (d.mem.read (mirrorHomes k (buddyOf t)) n)).read (ownHomes k t) n = d.mem.read (mirrorHomes k (buddyOf t)) n := by
    intro n
    have h := Mem.read_write_same d.mem (ownHomes k t) (d.mem.read (mirrorHomes k (buddyOf t)) n)
    rwa [Mem.read_length] at h
  rw [Device.fetchMirrors, Device.putBytes_mem, hback]

/-! ### A tile without work (R352) -/

/-- A tile whose operations have all left it. -/
structure Tile.Workless (x : Tile) : Prop where
  slots : x.slots = []
  arr : x.arr = none
  pre : x.pre = none
  drains : x.drains = []
  vu : x.vu = none

theorem Device.lacksRecord_of_workless {d : Device} {k t : Nat} (h : (d.tile (tileKey k t)).Workless) : d.lacksRecord k t = false := by
  simp only [Device.lacksRecord, h.arr, h.pre, h.drains, List.any_cons, List.any_nil, Bool.or_self]

/-- A tile without work has nothing to repeat. -/
theorem Device.repeatTile_of_workless {d : Device} {k t : Nat} (h : (d.tile (tileKey k t)).Workless) :
    d.repeatTile k t = d.setTile (tileKey k t) (d.tile (tileKey k t)) := by
  have htags : d.runningTags (tileKey k t) = [] := by simp only [Device.runningTags, h.slots, List.filter_nil, List.map_nil]
  have hdrains : d.rewindDrains (tileKey k t) = d.setTile (tileKey k t) (d.tile (tileKey k t)) := by
    have hsame : { d.tile (tileKey k t) with drains := [] } = d.tile (tileKey k t) := by rw [← h.drains]
    simp only [Device.rewindDrains, h.drains, List.map_nil, List.foldl_nil]
    rw [hsame]
  have htile : (d.setTile (tileKey k t) (d.tile (tileKey k t))).tile (tileKey k t) = d.tile (tileKey k t) := Device.tile_setTile_same _ _
  simp only [Device.repeatTile, htags, hdrains, Device.rewindArr, Device.rewindPre, Device.rewindVu, htile, h.arr, h.pre, h.vu]
  rfl

/-! ### A validated spare (R149, R166, R352, R354) -/

/-- The bay whose tile `x.tile` is on spare slate `p` from now on, and has no work to repeat. -/
def Bay.spareTaken (b : Bay) (x : TakeOver) (p : Nat) : Bay :=
  { b with
    phys := b.phys.set x.tile p, spares := b.spares.erase p
    takeOver := some { x with stage := .repeating, seq := 0, first := 0, repeated := 0 } }

/-- The slate of the spare in the place of the retired tile, with a new scratchpad and the homes' mirrors. -/
def Device.slateTaken (d : Device) (k : Nat) (x : TakeOver) (p : Nat) : Device :=
  (((d.modBay k fun b => b.spareTaken x p).swapSlate k x.tile x.oldPhys p).freshScratchpad k x.tile).fetchMirrors k x.tile

section SpareTakes

variable (d : Device) (k : Nat) (x : TakeOver) (p : Nat)

theorem Device.slateTaken_tile : (d.slateTaken k x p).tile (tileKey k x.tile) =
    { d.tile (tileKey k x.tile) with lanes := (d.tile (slateKey k p)).lanes, port := [], lost := [], reads := [] } := by
  have htiles : (d.slateTaken k x p).tiles = ((d.modBay k fun b => b.spareTaken x p).swapSlate k x.tile x.oldPhys p).tiles := by
    rw [Device.slateTaken, Device.fetchMirrors, Device.putBytes_tiles, Device.freshScratchpad_tiles]
  unfold Device.tile
  rw [htiles]
  exact Device.tile_setTile_same _ _

theorem Device.spareTakes_of_workless (h : (d.tile (tileKey k x.tile)).Workless) :
    d.spareTakes k x p = (d.slateTaken k x p).setTile (tileKey k x.tile) ((d.slateTaken k x p).tile (tileKey k x.tile)) := by
  have hwork : ((d.slateTaken k x p).tile (tileKey k x.tile)).Workless := by
    rw [Device.slateTaken_tile]
    exact ⟨h.slots, h.arr, h.pre, h.drains, h.vu⟩
  rw [← Device.repeatTile_of_workless hwork]
  simp only [Device.spareTakes, Device.lacksRecord_of_workless h, h.arr, Device.groupRecord, Bool.false_eq_true, if_false]
  rfl

theorem Device.slateTaken_bays : (d.slateTaken k x p).bays = (d.modBay k fun b => b.spareTaken x p).bays := by
  simp only [Device.slateTaken, Device.fetchMirrors, Device.putBytes_bays, Device.freshScratchpad_bays, Device.swapSlate, Device.setTile_bays]

theorem Device.slateTaken_cmds : (d.slateTaken k x p).cmds = d.cmds := by
  simp only [Device.slateTaken, Device.fetchMirrors, Device.putBytes_cmds, Device.freshScratchpad_cmds, Device.swapSlate, Device.setTile_cmds, Device.modBay_cmds]

theorem Device.slateTaken_homes : (d.slateTaken k x p).mem.read (ownHomes k x.tile) homesBytes = d.mem.read (mirrorHomes k (buddyOf x.tile)) homesBytes := by
  rw [Device.slateTaken, Device.fetchMirrors_read, Device.freshScratchpad_mirrors]
  simp only [Device.swapSlate, Device.setTile_mem, Device.modBay_mem]

end SpareTakes

/-- Settles O35: on a tile without work the take-over is the exchange of slates, and `Device.slateTaken` has each part stated of it. -/
theorem validatedSpareTakesTheNumber : Obligations.ValidatedSpareTakesTheNumber := by
  unfold Obligations.ValidatedSpareTakesTheNumber
  intro k s x p spare buddy hx hst hsp ht hrec ha hlen hslots harr hpre hdrains hvu
  have hnow := (Device.validatedNow_of_agree hx hst hsp hrec ha).trans (Device.spareTakes_of_workless s.dev k.val x p ⟨hslots, harr, hpre, hdrains, hvu⟩)
  have hbay : ((s.dev.slateTaken k.val x p).setTile (tileKey k.val x.tile) ((s.dev.slateTaken k.val x p).tile (tileKey k.val x.tile))).bay k.val =
      (s.dev.bay k.val).spareTaken x p := by
    rw [Device.bay_of_bays (Device.setTile_bays _ _ _), Device.bay_of_bays (Device.slateTaken_bays _ _ _ _), Device.bay_modBay_same _ k.isLt]
  refine ⟨_, runsWhole_of_whole (exec_spareValidation k spare buddy s) hnow, ?_, ?_, ?_, ?_, ?_, ?_⟩
  · rw [hbay]
    simp only [Bay.physOf, Bay.spareTaken, List.getD_eq_getElem?_getD, List.getElem?_set_self (hlen ▸ ht), Option.getD_some]
  · rw [hbay, Bay.spareTaken]
  · rw [Device.tile_setTile_same, Device.slateTaken_tile]
  · rw [Device.setTile_mem, Device.slateTaken_homes]
  · rw [hbay]
    exact ⟨_, rfl, rfl, rfl⟩
  · rw [Device.setTile_cmds, Device.slateTaken_cmds]

end Sys2Proof.Machine
end

section
/-! PROOF. Beacon rounds: digests compared, counted, or skipped (R147 to R149, R339, R340, R349). -/

namespace Sys2Proof.Machine

/-! ### The counters of a comparison (R147, R149) -/

/-- A comparison of two lists with an entry each leaves one counter for each lane of an array. -/
theorem lastCounters_length {a b : List W64} (ha : a ≠ []) (hb : b ≠ []) : (lastCounters a b).length = 256 := by
  obtain ⟨x, xs, rfl⟩ := List.exists_cons_of_ne_nil ha
  obtain ⟨y, ys, rfl⟩ := List.exists_cons_of_ne_nil hb
  simp only [lastCounters, List.zip_cons_cons, List.getLast?_cons, CmpOp.counters, List.length_map, List.length_range]

/-- The first lanes of a tile hold the counters of its comparison. -/
theorem Tile.counted_lane (x : Tile) {cs : List Nat} (hcs : cs.length = 256) {l : Nat} (hl : l < 256) :
    ((x.counted cs).lane l).block = Int.ofNat (cs.getD l 0) := by
  have hlist : cs = (List.range 256).map fun i => cs.getD i 0 := by
    refine List.ext_getElem (by rw [hcs, List.length_map, List.length_range]) fun i hi _ => ?_
    rw [List.getElem_map, List.getElem_range, List.getD_eq_getElem?_getD, List.getElem?_eq_getElem hi, Option.getD_some]
  have hlane := Tile.lane_eachLane_map (f := fun y c => { y with block := ((c : Nat) : Int) }) (fun _ _ => rfl) (fun i => cs.getD i 0) l (List.range 256) x
  rw [← hlist, if_pos (List.mem_range.2 hl)] at hlane
  exact congrArg Lane.block hlane

/-! ### The end of a round (R340) -/

@[simp] theorem Device.setRound_bays (d : Device) (r : Option Round) : (d.setRound r).bays = d.bays := rfl
@[simp] theorem Device.setRound_beacon (d : Device) (r : Option Round) : (d.setRound r).safety.beacon = { d.safety.beacon with round := r } := rfl
theorem Device.counter_setRound (d : Device) (r : Option Round) (a : Nat) : (d.setRound r).counter a = d.counter a := rfl

@[simp] theorem Device.beaconEvent_safety (d : Device) (s version kind first : Nat) : (d.beaconEvent s version kind first).safety = d.safety :=
  Device.logEvent_safety _ _
@[simp] theorem Device.beaconEvent_bays (d : Device) (s version kind first : Nat) : (d.beaconEvent s version kind first).bays = d.bays :=
  Device.logEvent_bays _ _
theorem Device.counter_beaconEvent (d : Device) (s version kind first a : Nat) : (d.beaconEvent s version kind first).counter a = d.counter a := by
  unfold Device.counter
  rw [Device.beaconEvent_safety]

/-- With no round waiting, the end of one leaves none. -/
theorem Device.endRound_of_last {d : Device} (hw : d.safety.beacon.waiting = []) : d.endRound = d.setRound none := by
  have hafter : (d.setRound none).safety.beacon.waiting = [] := hw
  simp only [Device.endRound, hafter]

/-- A round skipped is over, and counted. -/
theorem Device.skipRound_of_last {d : Device} (r : Round) (kind : Nat) (hw : d.safety.beacon.waiting = []) :
    (d.skipRound r kind).safety.beacon.round = none ∧ (d.skipRound r kind).counter 0x80A00B = stopAdd 64 (d.counter 0x80A00B) 1 := by
  have hafter : ((d.beaconEvent r.s.toNat r.version kind 0xFFFF).count 0x80A00B 1).safety.beacon.waiting = [] := by
    rw [Device.count_safety, Device.beaconEvent_safety]
    exact hw
  rw [Device.skipRound, Device.endRound_of_last hafter, Device.counter_setRound, Device.counter_count_same, Device.counter_beaconEvent]
  exact ⟨rfl, rfl⟩

/-! ### BEACON_COMPARE (R349) -/

section Compare

variable {d : Device} {r : Round} {f : BeaconFrame} {t : Nat} (hr : d.safety.beacon.round = some r) (ht : r.readyAt = some t) (hc : r.comparing = none)
  (hf : d.roundFrame r = some f)
include hr ht hc hf

/-- Digests of the same version and entries are compared on tile 0 of the first bay in run. -/
theorem Device.compareBeacons_of_same {k : Nat} (hv : f.version = r.version) (hn : f.count = r.entries.length) (hk : d.testBay = some k) :
    d.compareBeacons = ((d.modBay k fun b => { b with state := .test }).setRound (some { r with comparing := some (tileKey k 0) })).modTile (tileKey k 0) fun x =>
      x.counted (lastCounters r.digests f.digests) := by
  simp only [Device.compareBeacons, hr, ht, hc, hf, hv, hn, hk, ne_eq, not_true_eq_false, or_self, if_false]

theorem Device.compareBeacons_of_other (hne : f.version ≠ r.version ∨ f.count ≠ r.entries.length) : d.compareBeacons = (d.dropFrame f).skipRound r 1 := by
  simp only [Device.compareBeacons, hr, ht, hc, hf, if_pos hne]

end Compare

/-! ### BEACON_COMPARISON_END (R340, R349, R350) -/

/-- An alert changes the alert word, and nothing else of the safety state. -/
theorem Device.alert_safety (d : Device) (b : Nat) : (d.alert b).safety = { d.safety with alert := (d.alert b).safety.alert } := by
  unfold Device.alert
  split
  · rfl
  · simp [Device.raise_safety]

section Compared

variable {d : Device} {r : Round} {f : BeaconFrame}

theorem Device.compared_of_equal (h : firstDiff r.digests f.digests = none) : d.compared r f = d.count 0x80A009 1 := by
  simp only [Device.compared, h]

theorem Device.compared_of_different {i : Nat} (h : firstDiff r.digests f.digests = some i) :
    d.compared r f = ((d.beaconEvent r.s.toNat r.version 0 i).count 0x80A00A 1).alert 2 := by
  simp only [Device.compared, h]

theorem Device.compared_bays : (d.compared r f).bays = d.bays := by
  cases h : firstDiff r.digests f.digests with
  | none => rw [Device.compared_of_equal h, Device.count_bays]
  | some i => rw [Device.compared_of_different h, Device.alert_bays, Device.count_bays, Device.beaconEvent_bays]

theorem Device.compared_beacon : (d.compared r f).safety.beacon = d.safety.beacon := by
  cases h : firstDiff r.digests f.digests with
  | none => rw [Device.compared_of_equal h, Device.count_safety]
  | some i => rw [Device.compared_of_different h, Device.alert_safety, Device.count_safety, Device.beaconEvent_safety]

/-- A mismatch is counted, and raises alert bit 2. -/
theorem Device.compared_counts {i : Nat} (h : firstDiff r.digests f.digests = some i) :
    (d.compared r f).counter 0x80A00A = stopAdd 64 (d.counter 0x80A00A) 1 ∧ (d.compared r f).safety.alert.toNat.testBit 2 = true := by
  rw [Device.compared_of_different h]
  refine ⟨?_, Device.alert_set _ 2 (by decide)⟩
  rw [← Device.counter_beaconEvent d r.s.toNat r.version 0 i, ← Device.counter_count_same]
  unfold Device.counter
  rw [Device.alert_safety]

end Compared

theorem tileKey_zero_div (k : Nat) : tileKey k 0 / 1280 = k := by
  unfold tileKey
  omega

section ComparisonEnd

variable {d : Device} {r : Round} {k : Nat} (hr : d.safety.beacon.round = some r) (hc : r.comparing = some (tileKey k 0))
include hr hc

/-- A comparison that nothing disturbed: its bay runs again, and what it found ends the round. -/
theorem Device.comparisonEnd_of_test {f : BeaconFrame} (hs : (d.bay k).state = .test) (hf : d.roundFrame r = some f) :
    d.comparisonEnd = (((((d.modTile (tileKey k 0) fun x => x.counted (List.replicate 256 0)).modBay k fun b => { b with state := .run }).dropFrame f).compared r f).endRound) := by
  simp only [Device.comparisonEnd, hr, hc, tileKey_zero_div, hs, hf, ne_eq, not_true_eq_false, if_false]

/-- A comparison whose bay has left test is to be made again. -/
theorem Device.comparisonEnd_of_disturbed (hs : (d.bay k).state ≠ .test) :
    d.comparisonEnd = (d.modTile (tileKey k 0) fun x => x.counted (List.replicate 256 0)).setRound (some { r with comparing := none }) := by
  simp only [Device.comparisonEnd, hr, hc, tileKey_zero_div, if_pos hs]

end ComparisonEnd

/-- One second after the local digests, with no frame, the round is skipped. -/
theorem Device.beaconTimeout_of_late {d : Device} {r : Round} {t : Nat} (hr : d.safety.beacon.round = some r) (ht : r.readyAt = some t) (hc : r.comparing = none)
    (hlate : t + 1000000000 ≤ d.now) (hf : d.roundFrame r = none) : d.beaconTimeout = d.skipRound r 2 := by
  simp only [Device.beaconTimeout, hr, ht, hc, hlate, hf, Option.isNone_none, and_self, if_true]

/-- Settles O39: one part for each of the three events, from the lemmas on what it makes of the device. -/
theorem beaconRoundsCompareDigests : Obligations.BeaconRoundsCompareDigests := by
  unfold Obligations.BeaconRoundsCompareDigests
  refine ⟨fun s r f t k hr ht hc hf hv hn hk hk8 => ?_, fun s r f t hr ht hc hf hne hw => ?_, fun s r f k hr hc hk8 => ⟨fun hs hf hw => ?_, fun hs => ?_⟩,
    fun s r t hr ht hc hlate hf hw => ?_⟩
  · have hruns : Runs .beaconCompare s s.dev.compareBeacons := rfl
    rw [Device.compareBeacons_of_same hr ht hc hf hv hn hk] at hruns
    refine ⟨_, hruns, ?_, rfl, rfl, rfl, rfl, fun hmine htheirs l hl => ?_⟩
    · rw [Device.modTile, Device.bay_of_bays (Device.setTile_bays _ _ _), Device.bay_of_bays (Device.setRound_bays _ _), Device.bay_modBay_same _ hk8]
    · rw [Device.modTile, Device.tile_setTile_same]
      exact Tile.counted_lane _ (lastCounters_length hmine htheirs) hl
  · have hruns : Runs .beaconCompare s s.dev.compareBeacons := rfl
    rw [Device.compareBeacons_of_other hr ht hc hf hne] at hruns
    exact ⟨_, hruns, Device.skipRound_of_last (d := s.dev.dropFrame f) r 1 hw⟩
  · have hruns : Runs .beaconComparisonEnd s s.dev.comparisonEnd := rfl
    generalize hd : (((s.dev.modTile (tileKey k 0) fun x => x.counted (List.replicate 256 0)).modBay k fun b => { b with state := .run }).dropFrame f) = d at hruns
    have hwait : (d.compared r f).safety.beacon.waiting = [] := by
      rw [Device.compared_beacon, ← hd]
      exact hw
    have hcounter : ∀ a, d.counter a = s.dev.counter a := fun a => by rw [← hd]; rfl
    rw [Device.comparisonEnd_of_test hr hc hs hf, hd, Device.endRound_of_last hwait] at hruns
    refine ⟨_, hruns, ?_, rfl, fun heq => ?_, fun i hdiff => ?_⟩
    · rw [Device.bay_of_bays (Device.setRound_bays _ _), Device.bay_of_bays Device.compared_bays, ← hd, Device.dropFrame,
        Device.bay_of_bays (Device.withSafety_bays _ _), Device.bay_modBay_same _ hk8]
    · rw [Device.counter_setRound, Device.compared_of_equal heq, Device.counter_count_same, hcounter]
    · rw [Device.counter_setRound, ← hcounter]
      exact Device.compared_counts hdiff
  · have hruns : Runs .beaconComparisonEnd s s.dev.comparisonEnd := rfl
    rw [Device.comparisonEnd_of_disturbed hr hc hs] at hruns
    exact ⟨_, hruns, rfl, rfl⟩
  · have hruns : Runs .beaconTimeout s s.dev.beaconTimeout := rfl
    rw [Device.beaconTimeout_of_late hr ht hc hlate hf] at hruns
    exact ⟨_, hruns, Device.skipRound_of_last r 2 hw⟩

end Sys2Proof.Machine
end

section
/-! PROOF. The recipe steps that compute nothing, and those that move a group of a row to or from memory (R161, R171, R180, R183 to R185). -/

namespace Sys2Proof.Machine

/-! ### A step of a running piece -/

section AtStep

variable {s : State} {t : TileRef} {op : Nat} {w : StepWord} {v : VuCtx} {c : Cmd}

/-- At its place, a step that is not upset leaves what its function makes of the block, and the unit one place further. -/
theorem Device.vuStepNow_at {f : Device → Cmd → VuCtx → Except Nat (Device × VuCtx)} {d : Device} {v' : VuCtx}
    (h : AtStep s t op w v c) (hf : f s.dev c v = .ok (d, v')) : s.dev.vuStepNow t op w false f = d.stepped t v' := by
  simp only [Device.vuStepNow, h.work, h.unfinished, h.place, hf, bne_self_eq_false, Bool.or_self, Bool.false_eq_true, if_false]
  rfl

/-- The same for the whole step, where its function meets no paused row (R214). -/
theorem AtStep.runs {i : Instr} {f : Device → Cmd → VuCtx → Except Nat (Device × VuCtx)} {d : Device} {v' : VuCtx} (h : AtStep s t op w v c)
    (hi : exec i s = .next { s with dev := s.dev.vuStep t op w false f }) (hf : f s.dev c v = .ok (d, v')) (hm : d.met = false) :
    Runs i s (d.stepped t v') := by
  have hmet : (d.stepped t v').met = false := hm
  unfold Runs
  rw [hi, Device.vuStep, Device.whole, Device.vuStepNow_at h hf, hmet, Bool.and_false, if_neg Bool.false_ne_true]

/-- A step that leaves the block alone meets no paused row. -/
theorem AtStep.runs_here {i : Instr} {f : Device → Cmd → VuCtx → Except Nat (Device × VuCtx)} {v' : VuCtx} (h : AtStep s t op w v c)
    (hi : exec i s = .next { s with dev := s.dev.vuStep t op w false f }) (hf : f s.dev c v = .ok (s.dev, v')) :
    Runs i s (s.dev.stepped t v') :=
  h.runs hi hf h.flows

end AtStep

/-! ### NOP, PASS and the fences (R171, R183, R185) -/

theorem nop_onlySteps : OnlySteps .nop 0x00 := fun _ _ _ _ _ h => h.runs_here rfl rfl

theorem pass_onlySteps : OnlySteps .pass 0x2C := fun _ _ _ _ _ h => h.runs_here rfl rfl

/-- PASS with groups of the row left: the next group begins the same pass. -/
theorem VuCtx.advance_pass_group {v : VuCtx} {w : StepWord} (hp : v.steps[v.pc]? = some (0x2C, w)) (hg : 64 * (v.group + 1) < v.len) :
    v.advance = { v with group := v.group + 1, pc := v.passStart, regs := [], masks := [] } := by
  simp only [VuCtx.advance, hp, hg, beq_self_eq_true, Bool.not_true, Bool.false_and, Bool.false_eq_true, if_false, if_true]

/-- PASS at the row's last group, with steps after it: the pass's reductions combine, and the next pass begins. -/
theorem VuCtx.advance_pass_next {v : VuCtx} {w : StepWord} (hp : v.steps[v.pc]? = some (0x2C, w)) (hg : v.len ≤ 64 * (v.group + 1))
    (hl : v.pc + 1 < v.steps.length) :
    v.advance = { v.combine with pass := v.pass + 1, group := 0, pc := v.pc + 1, regs := [], masks := [] } := by
  have hlast : decide (v.steps.length ≤ v.pc + 1) = false := decide_eq_false (Nat.not_le.2 hl)
  simp only [VuCtx.advance, hp, hlast, Nat.not_lt.2 hg, beq_self_eq_true, Bool.not_true, Bool.false_and, Bool.false_eq_true, if_false]

theorem eq_or_eq_of_mem_pair {α : Type} {x y z : α} (h : x ∈ [y, z]) : x = y ∨ x = z := by
  simpa only [List.mem_cons, List.not_mem_nil, or_false] using h

/-- Settles O13: the four steps by what a step at its place leaves, and PASS's next place by its two cases. -/
theorem idleStepsOnlyMoveTheUnit : Obligations.IdleStepsOnlyMoveTheUnit := by
  unfold Obligations.IdleStepsOnlyMoveTheUnit
  refine ⟨nop_onlySteps, pass_onlySteps, fun x hx t w s v c h => ?_,
    fun v w hp => ⟨VuCtx.advance_pass_group hp, VuCtx.advance_pass_next hp⟩⟩
  rcases eq_or_eq_of_mem_pair hx with rfl | rfl
  · exact h.runs_here rfl rfl
  · exact h.runs_here rfl rfl

/-! ### LOAD (R161, R183) -/

/-- What a LOAD's lanes take, each its own result, is what `VuCtx.setRegs` writes. -/
theorem AtStep.runs_load {s : State} {t : TileRef} {w : StepWord} {v : VuCtx} {c : Cmd} {r : Nat → VRes} (h : AtStep s t 0x30 w v c)
    (hr : ∀ l, l ∈ v.lanes w → loadElem (v.view s.dev) c t.bay.val v w.stream.toNat (64 * v.group + l) = .ok (r l)) :
    Runs (.load t w false) s (s.dev.stepped t (v.setRegs w (v.lanes w) r)) := by
  refine h.runs_here rfl ?_
  dsimp only
  rw [allOk_map _ r _ hr]
  dsimp only
  rw [VuCtx.setRegs_each]

theorem VuCtx.lanesWritten_setRegs (v : VuCtx) (w : StepWord) (r : Nat → VRes) : LanesWritten v (v.setRegs w (v.lanes w) r) w r := by
  obtain ⟨hwritten, hothers, hflags, hrest⟩ := v.setRegs_written w r (v.lanes w)
  exact ⟨hwritten, hothers, hflags, hrest⟩

/-! ### STORE (R161, R171, R183, R184) -/

theorem storeAddr_of_plain {d : Device} {c : Cmd} {v : VuCtx} {o k : Nat} (h : isSheafFmt (recipeCode c.entry o) = false) :
    storeAddr d c v o k = .ok (c.addr d (0x48 + 8 * o) + arrayStride (recipeCode c.entry o) * (v.row * v.len + k)) := by
  simp only [storeAddr, h, Bool.false_eq_true, if_false]

section Store

variable {s : State} {t : TileRef} {w : StepWord} {v : VuCtx} {c : Cmd} {at' : Nat → Nat} {bytes : Nat → List Byte}

/-- The flags that the conversion of the acting lanes' values raises. -/
def VuCtx.storeFlags (v : VuCtx) (c : Cmd) (w : StepWord) : Nat :=
  flagsOf (fun l => (storeBytes (recipeCode c.entry w.stream.toNat) (v.src w l w.a)).2) (v.lanes w)

variable (ha : ∀ l, l ∈ v.lanes w → storeAddr s.dev c v w.stream.toNat (64 * v.group + l) = .ok (at' l))
  (hb : ∀ l, bytes l = (storeBytes (recipeCode c.entry w.stream.toNat) (v.src w l w.a)).1)
include ha hb

/-- The writes of a STORE whose addresses are known. -/
theorem storeWrites_of_addrs : storeWrites s.dev c v w =
    .ok ((v.lanes w).map fun l => ((at' l, bytes l), (storeBytes (recipeCode c.entry w.stream.toNat) (v.src w l w.a)).2)) := by
  refine allOk_map _ _ _ fun l hl => ?_
  dsimp only
  rw [ha l hl, hb l]

/-- After a fence that follows a QSTORE, the STORE's writes are kept. -/
theorem AtStep.runs_store_late (h : AtStep s t 0x31 w v c) (hfence : v.fenced = 2) :
    Runs (.store t w false) s (s.dev.stepped t
      { v with flags := v.flags ||| v.storeFlags c w, late := v.late ++ (v.lanes w).map fun l => (at' l, bytes l) }) := by
  refine h.runs_here rfl ?_
  dsimp only
  rw [storeWrites_of_addrs ha hb]
  dsimp only
  rw [if_pos hfence, flagsOf_map, List.map_map]
  rfl

/-- Else the bytes are written, and the piece keeps what they overwrite. -/
theorem AtStep.runs_store (h : AtStep s t 0x31 w v c) (hfence : v.fenced ≠ 2) {d : Device}
    (hd : allWrites s.dev ((v.lanes w).map fun l => (at' l, bytes l)) = .ok d) (hm : d.met = false) :
    Runs (.store t w false) s (d.stepped t { v with
      flags := v.flags ||| v.storeFlags c w
      copy := ((v.lanes w).map fun l => (at' l, s.dev.mem.read (at' l) (bytes l).length)).reverse ++ v.copy }) := by
  refine h.runs rfl ?_ hm
  dsimp only
  rw [storeWrites_of_addrs ha hb]
  dsimp only
  rw [if_neg hfence, flagsOf_map, List.map_map, List.map_map]
  simp only [Function.comp_def, hd]
  rfl

end Store

/-! ### QSTORE (R171, R183, R184) -/

/-- A change of commands that leaves every failure alone meets no paused row. -/
theorem Device.met_modCmd (d : Device) (tag : Nat) {f : Cmd → Cmd} (hf : ∀ c, (f c).failure = c.failure) : (d.modCmd tag f).met = d.met := by
  have hsame : ∀ c : Cmd, (if c.tag = tag then f c else c).failure = c.failure := fun c => by
    split
    · exact hf c
    · rfl
  simp only [Device.met, Device.modCmd_cmds, List.any_map, Function.comp_def, hsame]

/-- Settles O14: one part for each of the three steps, from what a step at its place leaves. -/
theorem memoryStepsMoveTheirLanes : Obligations.MemoryStepsMoveTheirLanes := by
  unfold Obligations.MemoryStepsMoveTheirLanes
  refine fun t w s v c => ⟨fun r h hr => ⟨_, h.runs_load hr, v.lanesWritten_setRegs w r⟩, fun k => storeAddr_of_plain,
    fun h at' bytes ha hb => ⟨h.runs_store_late ha hb, fun hfence hopen => ?_⟩, fun h => ?_⟩
  · obtain ⟨d, hd, hrest, hmem⟩ := allWrites_map s.dev at' bytes (v.lanes w) hopen
    have hm : d.met = false := by rw [hrest]; exact h.flows
    refine ⟨d, h.runs_store ha hb hfence hd hm, hmem, fun a hout => ?_, hrest⟩
    rw [hmem]
    exact Mem.byte_writes_other at' bytes a (v.lanes w) s.dev.mem hout
  · refine h.runs rfl rfl ((Device.met_modCmd _ _ fun x => ?_).trans h.flows)
    split
    · rfl
    · rfl

end Sys2Proof.Machine
end

section
/-! PROOF. The scratchpad port: what an access that takes the beat moves, who takes it, and who waits (R150, R151, R153, R154, R156 to R158). -/

namespace Sys2Proof.Machine

/-! ### Stores written twice at one key -/

theorem Store.absent_without {α : Type} {k : Nat} (m : Store α) : ∀ e ∈ m.without k, e.1 ≠ k :=
  fun _ he => bne_iff_ne.1 (List.mem_filter.1 he).2

section Store

variable {α : Type} [DecidableEq α] {d u v : α} {k : Nat}

theorem Store.put_nil (d v : α) (k : Nat) : Store.put d [] k v = if v = d then [] else [(k, v)] := rfl

theorem Store.put_cons (d v x : α) (j k : Nat) (r : Store α) : Store.put d ((j, x) :: r) k v =
    if k < j then (if v = d then Store.without ((j, x) :: r) k else (k, v) :: (j, x) :: r)
    else if k = j then (if v = d then Store.without r k else (k, v) :: r)
    else (j, x) :: Store.put d r k v := rfl

theorem Store.put_head (d v x : α) (k : Nat) (r : Store α) : Store.put d ((k, x) :: r) k v = if v = d then Store.without r k else (k, v) :: r := by
  rw [Store.put_cons, if_neg (Nat.lt_irrefl k), if_pos rfl]

/-- A second write replaces the first, where the first left an entry. -/
theorem Store.put_put_same (hu : u ≠ d) : ∀ m : Store α, (m.put d k u).put d k v = m.put d k v
  | [] => by rw [Store.put_nil, if_neg hu, Store.put_head, Store.put_nil]; rfl
  | (j, x) :: r => by
    rw [Store.put_cons d u, Store.put_cons d v]
    by_cases hlt : k < j
    · rw [if_pos hlt, if_neg hu, Store.put_head, if_pos hlt]
    · by_cases heq : k = j
      · rw [if_neg hlt, if_pos heq, if_neg hu, Store.put_head, if_neg hlt, if_pos heq]
      · rw [if_neg hlt, if_neg heq, Store.put_cons, if_neg hlt, if_neg heq, Store.put_put_same hu r, if_neg hlt, if_neg heq]

/-- Removing a key that has no entry changes nothing. -/
theorem Store.put_default_of_absent : ∀ m : Store α, (∀ e ∈ m, e.1 ≠ k) → m.put d k d = m
  | [], _ => by rw [Store.put_nil, if_pos rfl]
  | (j, x) :: r, h => by
    have hne : k ≠ j := fun e => h (j, x) List.mem_cons_self e.symm
    rw [Store.put_cons, if_pos rfl, if_neg hne]
    split
    · exact List.filter_eq_self.2 fun e he => bne_iff_ne.2 (h e he)
    · rw [Store.put_default_of_absent r fun e he => h e (List.mem_cons_of_mem _ he)]

/-- Removing a key twice is removing it once. -/
theorem Store.put_default_twice : ∀ m : Store α, (m.put d k d).put d k d = m.put d k d
  | [] => by rw [Store.put_nil, if_pos rfl, Store.put_nil, if_pos rfl]
  | (j, x) :: r => by
    rw [Store.put_cons, if_pos rfl, if_pos rfl]
    split
    · exact Store.put_default_of_absent _ (Store.absent_without _)
    · split
      · exact Store.put_default_of_absent _ (Store.absent_without _)
      · next hlt heq => rw [Store.put_cons, if_neg hlt, if_neg heq, Store.put_default_twice r]

end Store

/-! ### Bytes written and read in two parts -/

theorem Mem.write_append : ∀ (xs ys : List Byte) (m : Mem) (a : Nat), m.write a (xs ++ ys) = (m.write a xs).write (a + xs.length) ys
  | [], _, _, _ => rfl
  | x :: xs, ys, m, a => by
    rw [List.cons_append, Mem.write, Mem.write, Mem.write_append xs ys, List.length_cons, Nat.add_assoc a 1, Nat.add_comm 1]

theorem Mem.read_add (m : Mem) : ∀ n k a : Nat, m.read a (n + k) = m.read a n ++ m.read (a + n) k
  | 0, k, a => by rw [Nat.zero_add]; rfl
  | n + 1, k, a => by
    rw [Nat.add_right_comm, Mem.read, Mem.read, Mem.read_add m n k (a + 1), List.cons_append, Nat.add_assoc a 1, Nat.add_comm 1]

theorem padTo_of_length {n : Nat} {bs : List Byte} (h : bs.length = n) : padTo n bs = bs := by
  rw [padTo, h, Nat.sub_self, List.replicate_zero, List.append_nil]

/-! ### One port beat of a tile whose accesses have one requester (R153, R154, R157) -/

/-- What an access moves: the bytes of each requester's last read, and device memory. -/
def PortJob.moved (j : PortJob) (t : TileRef) (p : Store (List Byte) × Mem) : Store (List Byte) × Mem :=
  match j.kind, j.data with
  | .rotation, _ => p
  | .plain, some bs => (p.1, p.2.write (scratchAddr t j.off) bs)
  | .bitSet, some bs => (p.1, p.2.write (scratchAddr t j.off) (leBytes j.size (p.2.nat (scratchAddr t j.off) j.size ||| leNat bs)))
  | .bitClear, some bs =>
    (p.1, p.2.write (scratchAddr t j.off) (leBytes j.size (p.2.nat (scratchAddr t j.off) j.size &&& (leNat bs ^^^ (2 ^ (8 * j.size) - 1)))))
  | _, none => (p.1.upd [] (requesterNum j.who) fun old => (if j.more then old else []) ++ p.2.read (scratchAddr t j.off) j.size, p.2)

/-- Between `d0` and `d` nothing has changed but tile `t`, which stands as `x`, and device memory, which stands as `m`. -/
structure PortStands (d0 d : Device) (t : TileRef) (x : Tile) (m : Mem) : Prop where
  served : PortServed d0 d t x
  mem : d.mem = m

section Beats

variable {d0 d : Device} {t : TileRef} {x : Tile} {m : Mem}

theorem PortStands.setTile (h : PortStands d0 d t x m) (y : Tile) : PortStands d0 (d.setTile (refKey t) y) t y m where
  served := {
    mine := Device.tile_setTile_same _ y
    others := fun k hk => (Device.tile_setTile_other _ hk y).trans (h.served.others k hk)
    rest := congrArg (fun e : Device => e.setTile (refKey t) y) h.served.rest }
  mem := h.mem

theorem PortStands.setMem (h : PortStands d0 d t x m) (m' : Mem) : PortStands d0 { d with mem := m' } t x m' where
  served := {
    mine := h.served.mine
    others := h.served.others
    rest := congrArg (fun e : Device => { e with mem := m' }) h.served.rest }
  mem := rfl

/-- An access performed moves its bytes, and leaves the rest of the tile. -/
theorem PortStands.performJob (h : PortStands d0 d t x m) (j : PortJob) :
    PortStands d0 (d.performJob t j) t { x with reads := (j.moved t (x.reads, m)).1 } (j.moved t (x.reads, m)).2 := by
  obtain ⟨who, kind, off, size, data, more⟩ := j
  have hread := h.setTile { x with reads := x.reads.upd [] (requesterNum who) fun old => (if more then old else []) ++ m.read (scratchAddr t off) size }
  rw [← h.served.mine, ← h.mem] at hread
  rw [← h.served.mine, ← h.mem]
  cases kind with
  | rotation => rw [h.served.mine, h.mem]; exact h
  | plain => cases data with
    | none => exact hread
    | some bs => rw [h.served.mine]; exact h.setMem _
  | bitSet => cases data with
    | none => exact hread
    | some bs => rw [h.served.mine]; exact h.setMem _
  | bitClear => cases data with
    | none => exact hread
    | some bs => rw [h.served.mine]; exact h.setMem _

/-- Of accesses of one requester, only the first asks for the beat. -/
theorem portHeads_own {who : Requester} : ∀ js : List PortJob, (∀ k ∈ js, k.who = who) → portHeads js [requesterNum who] = []
  | [], _ => rfl
  | k :: js, h => by
    rw [portHeads, h k List.mem_cons_self, if_pos (List.contains_cons.trans (by rw [beq_self_eq_true, Bool.true_or])),
      portHeads_own js fun i hi => h i (List.mem_cons_of_mem _ hi)]

theorem portHeads_cons_own {j : PortJob} {js : List PortJob} (own : ∀ k ∈ js, k.who = j.who) : portHeads (j :: js) [] = [j] := by
  rw [portHeads, if_neg (by rw [List.contains_nil]; exact Bool.false_ne_true), portHeads_own js own]

theorem Tile.winner_own {j : PortJob} {js : List PortJob} (hp : x.port = j :: js) (own : ∀ k ∈ js, k.who = j.who) : x.winner = some j := by
  rw [Tile.winner, hp, portHeads_cons_own own]
  rfl

/-- The winner's beat, where all that waits is one requester's: its first access is performed, and its count starts again. -/
theorem Device.portBeat_own {j : PortJob} {js : List PortJob} (hx : d.tile (refKey t) = x) (hp : x.port = j :: js) (own : ∀ k ∈ js, k.who = j.who) :
    d.portBeat t = (d.setTile (refKey t) { x.beatWon j.who with port := js }).performJob t j := by
  have hlost : x.losers (some (requesterNum j.who)) = x.beatWon j.who := by
    rw [Tile.losers, hp, portHeads_cons_own own, List.foldl_cons, List.foldl_nil, if_pos rfl, ← hp]
    rfl
  simp only [Device.portBeat, hx, Tile.winner_own hp own, hlost, hp, List.erase_cons_head]

theorem Tile.beatWon_twice (x : Tile) (who : Requester) : (x.beatWon who).beatWon who = x.beatWon who := by
  simp only [Tile.beatWon, Store.put_default_twice]

/-- A port where one requester's accesses wait performs them all, in order. -/
theorem PortStands.runPort : ∀ (js : List PortJob) {d : Device} {x : Tile} {m : Mem} {j : PortJob}, PortStands d0 d t { x with port := j :: js } m →
    (∀ k ∈ js, k.who = j.who) →
    PortStands d0 (d.runPort t (js.length + 1)) t
      { x.beatWon j.who with port := [], reads := ((j :: js).foldl (fun p k => k.moved t p) (x.reads, m)).1 }
      ((j :: js).foldl (fun p k => k.moved t p) (x.reads, m)).2
  | [], d, x, m, j, h, own => by
    rw [Device.runPort, Device.portBeat_own h.served.mine rfl own]
    exact (h.setTile _).performJob j
  | k :: js, d, x, m, j, h, own => by
    have hk : k.who = j.who := own k List.mem_cons_self
    rw [Device.runPort, Device.portBeat_own h.served.mine rfl own]
    have hnext := ((h.setTile { x.beatWon j.who with port := k :: js }).performJob j)
    have hrun := PortStands.runPort js (x := { x.beatWon j.who with reads := (j.moved t (x.reads, m)).1 }) hnext
      fun i hi => (own i (List.mem_cons_of_mem _ hi)).trans hk.symm
    have hcount : ∀ rs, ({ x.beatWon j.who with reads := rs } : Tile).beatWon k.who = { x.beatWon j.who with reads := rs } := fun rs => by
      rw [hk]
      exact congrArg (fun y : Tile => { y with reads := rs }) (x.beatWon_twice j.who)
    rw [hcount] at hrun
    exact hrun

end Beats

/-! ### Accesses arrive at an idle port (R153, R154) -/

section Arrive

variable {d : Device} {t : TileRef} {who : Requester} {j : PortJob} {js : List PortJob} {rivals : List Requester}
  (hidle : (d.tile (refKey t)).port = []) (hj : j.who = who) (own : ∀ k ∈ js, k.who = who)
include hj own

/-- A rival outranks accesses of one requester exactly if it is another requester of a higher rank. -/
theorem Tile.outranked_own_iff {x : Tile} (hp : x.port = j :: js) :
    x.outranked rivals = true ↔ ∃ r, r ∈ rivals ∧ r ≠ who ∧ x.rank r < x.rank who := by
  have hwin : x.winner = some j := Tile.winner_own hp fun k hk => (own k hk).trans hj.symm
  have hthere : ∀ r, (x.port.any fun k => k.who == r) = (who == r) := fun r => by
    rw [hp, Bool.eq_iff_iff, List.any_eq_true, beq_iff_eq]
    constructor
    · rintro ⟨k, hk, hr⟩
      rcases List.mem_cons.1 hk with rfl | hk
      · exact hj.symm.trans (beq_iff_eq.1 hr)
      · exact (own k hk).symm.trans (beq_iff_eq.1 hr)
    · exact fun hr => ⟨j, List.mem_cons_self, beq_iff_eq.2 (hj.trans hr)⟩
  simp only [Tile.outranked, hwin, hj, hthere, List.any_eq_true, Bool.and_eq_true, Bool.not_eq_true', beq_eq_false_iff_ne, decide_eq_true_eq, ne_comm (a := who)]

include hidle

/-- Where a rival outranks them they stall, and their requester has lost a beat. -/
theorem Device.portArrive_lost (hlost : ∃ r, r ∈ rivals ∧ r ≠ who ∧ (d.tile (refKey t)).rank r < (d.tile (refKey t)).rank who) :
    d.portArrive t (j :: js) rivals = d.setTile (refKey t) ((d.tile (refKey t)).beatLost who (j :: js)) := by
  have hout : ({ d.tile (refKey t) with port := j :: js } : Tile).outranked rivals = true := (Tile.outranked_own_iff hj own rfl).2 hlost
  have hheads : portHeads (j :: js) [] = [j] := portHeads_cons_own fun k hk => (own k hk).trans hj.symm
  simp only [Device.portArrive, hidle, List.nil_append, hout, if_true, Tile.losers, hheads, List.foldl_cons, List.foldl_nil, reduceCtorEq, if_false, hj]
  rfl

/-- Else the port performs them. -/
theorem Device.portArrive_first (hfirst : ∀ r, r ∈ rivals → r = who ∨ (d.tile (refKey t)).rank who ≤ (d.tile (refKey t)).rank r) :
    PortStands d (d.portArrive t (j :: js) rivals) t
      { (d.tile (refKey t)).beatWon who with
        reads := ((j :: js).foldl (fun p k => k.moved t p) ((d.tile (refKey t)).reads, d.mem)).1 }
      ((j :: js).foldl (fun p k => k.moved t p) ((d.tile (refKey t)).reads, d.mem)).2 := by
  have hout : ({ d.tile (refKey t) with port := j :: js } : Tile).outranked rivals = false := by
    refine Bool.eq_false_iff.2 fun hout => ?_
    obtain ⟨r, hr, hne, hlt⟩ := (Tile.outranked_own_iff hj own rfl).1 hout
    rcases hfirst r hr with he | hle
    · exact hne he
    · exact Nat.not_lt.2 hle hlt
  have hstart : PortStands d d t (d.tile (refKey t)) d.mem := ⟨⟨rfl, fun _ _ => rfl, rfl⟩, rfl⟩
  have hrun := PortStands.runPort js (hstart.setTile { d.tile (refKey t) with port := j :: js }) fun k hk => (own k hk).trans hj.symm
  have hport : ∀ rs, ({ (d.tile (refKey t)).beatWon who with port := [], reads := rs } : Tile) = { (d.tile (refKey t)).beatWon who with reads := rs } :=
    fun rs => by simp only [Tile.beatWon, hidle]
  rw [hj, hport] at hrun
  simp only [Device.portArrive, hidle, List.nil_append, hout, Bool.false_eq_true, if_false]
  exact hrun

end Arrive

/-! ### The windows (R150, R151, R158) -/

/-- An access asks for the port by at least one job, and all of them are its requester's. -/
theorem padJobs_own (w : Window) (who : Requester) (off size : Nat) (data : Option (List Byte)) :
    ∃ j js, padJobs w who off size data = j :: js ∧ j.who = who ∧ ∀ k ∈ js, k.who = who := by
  cases w with
  | plain => exact ⟨_, _, rfl, rfl, fun _ hk => absurd hk List.not_mem_nil⟩
  | bitSet => exact ⟨_, _, rfl, rfl, fun _ hk => absurd hk List.not_mem_nil⟩
  | bitClear => exact ⟨_, _, rfl, rfl, fun _ hk => absurd hk List.not_mem_nil⟩
  | rotate =>
    rw [padJobs]
    dsimp only
    split
    · exact ⟨_, _, rfl, rfl, fun k hk => by rw [List.mem_singleton.1 hk]⟩
    · refine ⟨_, _, rfl, rfl, fun k hk => ?_⟩
      rcases eq_or_eq_of_mem_pair hk with rfl | rfl
      · rfl
      · rfl

theorem regionOpen_lt {who : Requester} {off size : Nat} {write : Bool} (h : regionOpen who off size write = true) : off < 0x40000 := by
  unfold regionOpen at h
  split at h
  · omega
  · simp only [Bool.and_eq_true, decide_eq_true_eq] at h
    omega

theorem windowLegal_region {w : Window} {who : Requester} {off size : Nat} {write : Bool} (h : windowLegal w who off size write = true) :
    regionOpen who off size write = true := (Bool.and_eq_true_iff.1 h).2

/-- The four windows stand one after the other, each of 256 KiB. -/
theorem windowAt_eq_some {a : Nat} {w : Window} (h : windowAt a = some w) : w.base ≤ a ∧ a < w.base + 0x40000 := by
  unfold windowAt at h
  repeat' split at h
  all_goals cases h
  all_goals
    simp only [Window.base]
    omega

theorem windowAt_base (w : Window) {off : Nat} (h : off < 0x40000) : windowAt (w.base + off) = some w := by
  unfold windowAt
  cases w with
  | plain => rw [Window.base, if_pos (by omega)]
  | bitSet => rw [Window.base, if_neg (by omega), if_pos (by omega)]
  | bitClear => rw [Window.base, if_neg (by omega), if_neg (by omega), if_pos (by omega)]
  | rotate => rw [Window.base, if_neg (by omega), if_neg (by omega), if_neg (by omega), if_pos (by omega)]

theorem windowAt_base_ne (w : Window) {off : Nat} (h : ¬ off < 0x40000) : windowAt (w.base + off) ≠ some w := fun hat => by
  obtain ⟨-, hlt⟩ := windowAt_eq_some hat
  omega

theorem Window.base_add_mod (w : Window) {off : Nat} (h : off < 0x40000) : (w.base + off) % 0x40000 = off := by
  have hbase : w.base % 0x40000 = 0 := by cases w <;> rfl
  omega

section Access

variable {d : Device} {t : TileRef} {a : PortRequest} {w : Window} {off size : Nat} {data : Option (List Byte)}

/-- An access that R150 or R151 does not allow fails its command. -/
theorem Device.padAccess_illegal (hrun : d.tileRuns t.bay.val t.tile.val = true) (hno : ¬ (off < 0x40000 ∧ windowLegal w a.who off size data.isSome = true)) :
    d.padAccess t a w (w.base + off) size data = (match a.cmd with | some tag => d.failWith tag csScratchpad | none => d) := by
  have hbar : (windowAt (w.base + off) != some w || !windowLegal w a.who ((w.base + off) % 0x40000) size data.isSome) = true := by
    by_cases hoff : off < 0x40000
    · have hl : windowLegal w a.who off size data.isSome = false := Bool.eq_false_iff.2 fun hl => hno ⟨hoff, hl⟩
      rw [w.base_add_mod hoff, hl, Bool.not_false, Bool.or_true]
    · rw [bne_iff_ne.2 (windowAt_base_ne w hoff), Bool.true_or]
  have hruns : ¬ (!d.tileRuns t.bay.val t.tile.val) = true := by rw [hrun]; exact Bool.false_ne_true
  exact (if_neg hruns).trans (if_pos hbar)

variable (hl : windowLegal w a.who off size data.isSome = true)
include hl

/-- An allowed access is detected where its parity fails, and else arrives at the port. -/
theorem Device.padAccess_legal (hrun : d.tileRuns t.bay.val t.tile.val = true) : d.padAccess t a w (w.base + off) size data =
    if a.upset then d.detect t.bay.val t.tile.val (a.cmd.getD 0xFFFF) .tileParity else d.portArrive t (padJobs w a.who off size data) a.rivals := by
  have hoff : off < 0x40000 := regionOpen_lt (windowLegal_region hl)
  simp only [Device.padAccess, hrun, windowAt_base w hoff, w.base_add_mod hoff, hl, bne_self_eq_false, Bool.not_true, Bool.or_self,
    Bool.false_eq_true, if_false]

/-- One that a rival outranks waits. -/
theorem LostPort.padAccess (h : LostPort d t a) :
    d.padAccess t a w (w.base + off) size data =
      d.setTile (refKey t) ((d.tile (refKey t)).beatLost a.who (padJobs w a.who off size data)) := by
  obtain ⟨j, js, hjs, hj, own⟩ := padJobs_own w a.who off size data
  rw [Device.padAccess_legal hl h.runs, if_neg (Bool.eq_false_iff.1 h.sound), hjs, Device.portArrive_lost h.idle hj own h.second]

/-- One that takes the beat moves what its jobs move, in turn. -/
theorem FreePort.padAccess (h : FreePort d t a) :
    PortStands d (d.padAccess t a w (w.base + off) size data) t
      { (d.tile (refKey t)).beatWon a.who with
        reads := ((padJobs w a.who off size data).foldl (fun p k => k.moved t p) ((d.tile (refKey t)).reads, d.mem)).1 }
      ((padJobs w a.who off size data).foldl (fun p k => k.moved t p) ((d.tile (refKey t)).reads, d.mem)).2 := by
  obtain ⟨j, js, hjs, hj, own⟩ := padJobs_own w a.who off size data
  rw [Device.padAccess_legal hl h.runs, if_neg (Bool.eq_false_iff.1 h.sound), hjs]
  exact Device.portArrive_first h.idle hj own h.first

end Access

/-! ### What the jobs of an access move (R150, R157, R158) -/

section Moved

variable {t : TileRef} {w : Window} {who : Requester} {off size : Nat} {rs : Store (List Byte)} {m : Mem}

/-- A job that reads afresh puts its bytes into the port's data for its requester. -/
theorem PortJob.moved_read {k : PadKind} (hk : k ≠ .rotation) (p : Store (List Byte) × Mem) :
    PortJob.moved ⟨who, k, off, size, none, false⟩ t p = (p.1.put [] (requesterNum who) (p.2.read (scratchAddr t off) size), p.2) := by
  cases k with
  | rotation => exact absurd rfl hk
  | plain => rfl
  | bitSet => rfl
  | bitClear => rfl

/-- A plain or rotated write stores its bytes, in one line or in two. -/
theorem moved_padJobs_write (hw : w = .plain ∨ w = .rotate) {bs : List Byte} (hbs : bs.length = size) :
    (padJobs w who off size (some bs)).foldl (fun p k => k.moved t p) (rs, m) = (rs, m.write (scratchAddr t off) bs) := by
  have hwhole : padTo size (bs.take size) = bs := by rw [List.take_of_length_le (Nat.le_of_eq hbs), padTo_of_length hbs]
  rcases hw with rfl | rfl
  · simp only [padJobs, Option.map_some, List.foldl_cons, List.foldl_nil, PortJob.moved, hwhole]
  · by_cases hline : off % 64 + size ≤ 64
    · simp only [padJobs, hline, if_true, Option.map_some, List.cons_append, List.nil_append, List.foldl_cons, List.foldl_nil, PortJob.moved, hwhole]
    · have hn : 64 - off % 64 ≤ size := by omega
      generalize hcut : 64 - off % 64 = n at hn
      have hfst : (bs.take n).length = n := by rw [List.length_take, hbs, Nat.min_eq_left hn]
      have hsnd : (bs.drop n).length = size - n := by rw [List.length_drop, hbs]
      have haddr : scratchAddr t (off + n) = scratchAddr t off + (bs.take n).length := by rw [hfst, scratchAddr, scratchAddr, Nat.add_assoc]
      simp only [padJobs, hline, if_false, hcut, Option.map_some, List.foldl_cons, List.foldl_nil, PortJob.moved, padTo_of_length hfst,
        List.take_of_length_le (Nat.le_of_eq hsnd), padTo_of_length hsnd, haddr, ← Mem.write_append, List.take_append_drop]

/-- A plain or rotated read puts its bytes into the port's data, from one line or from two. -/
theorem moved_padJobs_read (hw : w = .plain ∨ w = .rotate) :
    (padJobs w who off size none).foldl (fun p k => k.moved t p) (rs, m) =
      (rs.put [] (requesterNum who) (m.read (scratchAddr t off) size), m) := by
  rcases hw with rfl | rfl
  · exact PortJob.moved_read (k := .plain) (by decide) _
  · by_cases hline : off % 64 + size ≤ 64
    · simp only [padJobs, hline, if_true, Option.map_none]
      exact PortJob.moved_read (k := .plain) (by decide) _
    · have hn : 64 - off % 64 ≤ size := by omega
      have hpos : 0 < 64 - off % 64 := by omega
      generalize hcut : 64 - off % 64 = n at hn hpos
      have hfst : m.read (scratchAddr t off) n ≠ [] := List.ne_nil_of_length_pos (by rw [Mem.read_length]; exact hpos)
      have haddr : scratchAddr t (off + n) = scratchAddr t off + n := by rw [scratchAddr, scratchAddr, Nat.add_assoc]
      simp only [padJobs, hline, if_false, hcut, Option.map_none, List.foldl_cons, List.foldl_nil, PortJob.moved_read (k := .plain) (by decide)]
      simp only [PortJob.moved, Store.upd, Store.get_put_same, Store.put_put_same hfst, haddr, if_true]
      rw [← Mem.read_add, Nat.add_sub_cancel' hn]

/-- A read through one of the aliases puts its word into the port's data. -/
theorem moved_padJobs_alias_read (hw : w = .bitSet ∨ w = .bitClear) :
    (padJobs w who off size none).foldl (fun p k => k.moved t p) (rs, m) =
      (rs.put [] (requesterNum who) (m.read (scratchAddr t off) size), m) := by
  rcases hw with rfl | rfl
  · exact PortJob.moved_read (k := .bitSet) (by decide) _
  · exact PortJob.moved_read (k := .bitClear) (by decide) _

end Moved

/-! ### SCRATCHPAD_ACCESS and BYTE_LANE_ROTATE (R150, R151, R158, R328) -/

section Rows

variable {s : State} {t : TileRef} {a : PortRequest} {off size : Nat}
  {x : (TileRef → PortRequest → Nat → Nat → Option (List Byte) → Instr) × Window} (hx : x ∈ padRows)
include hx

theorem padRows_window : x.2 = .plain ∨ x.2 = .rotate := by
  rcases eq_or_eq_of_mem_pair hx with rfl | rfl
  · exact .inl rfl
  · exact .inr rfl

/-- Both rows make their access through their window. -/
theorem exec_padRow (data : Option (List Byte)) :
    exec (x.1 t a off size data) s = .next { s with dev := s.dev.padAccess t a x.2 (x.2.base + off) size data } := by
  rcases eq_or_eq_of_mem_pair hx with rfl | rfl
  · rfl
  · rfl

theorem runs_padRow {data : Option (List Byte)} {d : Device} (hd : s.dev.padAccess t a x.2 (x.2.base + off) size data = d) :
    Runs (x.1 t a off size data) s d := by
  unfold Runs
  rw [exec_padRow hx, hd]

/-- A write that takes the beat stores its bytes. -/
theorem runs_padRow_write (h : FreePort s.dev t a) {bs : List Byte} (hbs : bs.length = size) (hl : windowLegal x.2 a.who off size true = true) :
    ∃ d, Runs (x.1 t a off size (some bs)) s d ∧ PortServed s.dev d t ((s.dev.tile (refKey t)).beatWon a.who) ∧
      BytesWritten s.dev d (scratchAddr t off) bs := by
  have hst := h.padAccess (data := some bs) hl
  rw [moved_padJobs_write (padRows_window hx) hbs] at hst
  refine ⟨_, runs_padRow hx rfl, hst.served, ?_, fun k hk => ?_⟩
  · rw [hst.mem]
    exact Mem.read_write_same _ _ bs
  · rw [hst.mem]
    exact Mem.byte_write_other bs _ _ k hk

/-- A read that takes the beat puts the bytes into the port's data for its requester. -/
theorem runs_padRow_read (h : FreePort s.dev t a) (hl : windowLegal x.2 a.who off size false = true) :
    ∃ d, Runs (x.1 t a off size none) s d ∧ d.mem = s.dev.mem ∧
      PortServed s.dev d t { (s.dev.tile (refKey t)).beatWon a.who with
        reads := (s.dev.tile (refKey t)).reads.put [] (requesterNum a.who) (s.dev.mem.read (scratchAddr t off) size) } := by
  have hst := h.padAccess (data := none) hl
  rw [moved_padJobs_read (padRows_window hx)] at hst
  exact ⟨_, runs_padRow hx rfl, hst.mem, hst.served⟩

/-- An access that a rival outranks waits at the port. -/
theorem runs_padRow_lost (h : LostPort s.dev t a) {data : Option (List Byte)} (hl : windowLegal x.2 a.who off size data.isSome = true) :
    Runs (x.1 t a off size data) s
      (s.dev.setTile (refKey t) ((s.dev.tile (refKey t)).beatLost a.who (padJobs x.2 a.who off size data))) :=
  runs_padRow hx (h.padAccess hl)

end Rows

/-- Settles O21: performed, stalled, detected or refused, each by the lemma on the access that says so. -/
theorem scratchpadAccessMovesItsBytes : Obligations.ScratchpadAccessMovesItsBytes := by
  unfold Obligations.ScratchpadAccessMovesItsBytes
  refine fun t a off size s x hx => ⟨fun h => ⟨fun bs hbs hl => runs_padRow_write hx h hbs hl.2, fun hl => runs_padRow_read hx h hl.2⟩,
    fun data hl => ⟨fun h => runs_padRow_lost hx h hl.2, fun hrun hup => ?_⟩, fun data hrun hno => ?_⟩
  · exact runs_padRow hx ((Device.padAccess_legal hl.2 hrun).trans (if_pos hup))
  · exact runs_padRow hx (Device.padAccess_illegal hrun hno)

/-! ### The bit-set and bit-clear aliases (R156) -/

/-- The bytes of a number hold its bits, as far as they reach. -/
theorem testBit_leNat_leBytes (x : Nat) {n i : Nat} (hi : i < 8 * n) : (leNat (leBytes n x)).testBit i = x.testBit i := by
  have hpow : 256 ^ n = 2 ^ (8 * n) := (Nat.pow_mul (a := 2) (m := 8) (n := n)).symm
  rw [leNat_leBytes, hpow, Nat.testBit_mod_two_pow, decide_eq_true hi, Bool.true_and]

/-- A word written by its bytes holds the bits of the number they are of. -/
theorem testBit_nat_write_leBytes (m : Mem) (a x : Nat) {n i : Nat} (hi : i < 8 * n) :
    ((m.write a (leBytes n x)).nat a n).testBit i = x.testBit i := by
  have hread : (m.write a (leBytes n x)).read a n = leBytes n x := by
    simpa only [leBytes_length] using Mem.read_write_same m a (leBytes n x)
  rw [Mem.nat, hread, testBit_leNat_leBytes x hi]

/-- The rows for the aliases, each with its window. -/
def aliasRows : List ((TileRef → PortRequest → Nat → Bool → Option W64 → Instr) × Window) :=
  [(.scratchpadBitSet, .bitSet), (.scratchpadBitClear, .bitClear)]

section Aliases

variable {s : State} {t : TileRef} {a : PortRequest} {off : Nat} {wide : Bool}

/-- Both rows make their access through their window. -/
theorem exec_aliasRow {x : (TileRef → PortRequest → Nat → Bool → Option W64 → Instr) × Window} (hx : x ∈ aliasRows) (data : Option W64) :
    exec (x.1 t a off wide data) s =
      .next { s with dev := s.dev.padAccess t a x.2 (x.2.base + off) (wordSize wide) (wordBytes wide data) } := by
  rcases eq_or_eq_of_mem_pair hx with rfl | rfl
  · rfl
  · rfl

theorem isSome_wordBytes (data : Option W64) : (wordBytes wide data).isSome = data.isSome := Option.isSome_map

/-- The aliases take naturally aligned words of 4 or 8 bytes in a region open to them. -/
theorem windowLegal_alias {w : Window} {who : Requester} {write : Bool} (hw : w = .bitSet ∨ w = .bitClear) (ho : off % wordSize wide = 0)
    (hr : regionOpen who off (wordSize wide) write = true) : windowLegal w who off (wordSize wide) write = true := by
  have hsize : (wordSize wide == 4 || wordSize wide == 8) = true := by
    cases wide with
    | false => rfl
    | true => rfl
  have haligned : (off % wordSize wide == 0) = true := beq_iff_eq.2 ho
  rcases hw with rfl | rfl
  · simp only [windowLegal, hsize, haligned, hr, Bool.and_self]
  · simp only [windowLegal, hsize, haligned, hr, Bool.and_self]

/-- The word of an access through an aliased window, as the port takes it. -/
theorem padTo_take_leBytes (n x : Nat) : padTo n ((leBytes n x).take n) = leBytes n x := by
  rw [List.take_of_length_le (Nat.le_of_eq (leBytes_length n x)), padTo_of_length (leBytes_length n x)]

/-- After an access that wrote number `z` as the word at its address, the word has the bits of `z`, and no byte outside it has changed. -/
theorem PortStands.wordWritten {d0 d : Device} {x : Tile} {a' n z : Nat} (h : PortStands d0 d t x (d0.mem.write a' (leBytes n z))) :
    (∀ i, i < 8 * n → (d.mem.nat a' n).testBit i = z.testBit i) ∧ ∀ k, (k < a' ∨ a' + n ≤ k) → d.mem.byte k = d0.mem.byte k := by
  rw [h.mem]
  exact ⟨fun i hi => testBit_nat_write_leBytes d0.mem a' z hi,
    fun k hk => Mem.byte_write_other (leBytes n z) d0.mem a' k ((leBytes_length n z).symm ▸ hk)⟩

variable (h : FreePort s.dev t a) (ho : off % wordSize wide = 0)
include h ho

/-- SCRATCHPAD_BIT_SET sets the bits that its data sets. -/
theorem runs_bitSet (hr : regionOpen a.who off (wordSize wide) true = true) (data : W64) :
    ∃ d, Runs (.scratchpadBitSet t a off wide (some data)) s d ∧ PortServed s.dev d t ((s.dev.tile (refKey t)).beatWon a.who) ∧
      (∀ i, i < 8 * wordSize wide → (d.mem.nat (scratchAddr t off) (wordSize wide)).testBit i =
        ((s.dev.mem.nat (scratchAddr t off) (wordSize wide)).testBit i || data.toNat.testBit i)) ∧
      ∀ k, (k < scratchAddr t off ∨ scratchAddr t off + wordSize wide ≤ k) → d.mem.byte k = s.dev.mem.byte k := by
  have hst := h.padAccess (data := wordBytes wide (some data)) (windowLegal_alias (.inl rfl) ho hr)
  simp only [padJobs, wordBytes, Option.map_some, List.foldl_cons, List.foldl_nil, PortJob.moved, padTo_take_leBytes] at hst
  obtain ⟨hbits, hothers⟩ := hst.wordWritten
  refine ⟨_, exec_aliasRow (List.mem_cons_self ..) _, hst.served, fun i hi => ?_, hothers⟩
  rw [← testBit_leNat_leBytes data.toNat hi, ← Nat.testBit_or]
  exact hbits i hi

/-- SCRATCHPAD_BIT_CLEAR clears the bits that its data sets. -/
theorem runs_bitClear (hr : regionOpen a.who off (wordSize wide) true = true) (data : W64) :
    ∃ d, Runs (.scratchpadBitClear t a off wide (some data)) s d ∧ PortServed s.dev d t ((s.dev.tile (refKey t)).beatWon a.who) ∧
      (∀ i, i < 8 * wordSize wide → (d.mem.nat (scratchAddr t off) (wordSize wide)).testBit i =
        ((s.dev.mem.nat (scratchAddr t off) (wordSize wide)).testBit i && !data.toNat.testBit i)) ∧
      ∀ k, (k < scratchAddr t off ∨ scratchAddr t off + wordSize wide ≤ k) → d.mem.byte k = s.dev.mem.byte k := by
  have hst := h.padAccess (data := wordBytes wide (some data)) (windowLegal_alias (.inr rfl) ho hr)
  simp only [padJobs, wordBytes, Option.map_some, List.foldl_cons, List.foldl_nil, PortJob.moved, padTo_take_leBytes] at hst
  obtain ⟨hbits, hothers⟩ := hst.wordWritten
  refine ⟨_, exec_aliasRow (List.mem_cons_of_mem _ (List.mem_cons_self ..)) _, hst.served, fun i hi => ?_, hothers⟩
  have hnot : (leNat (leBytes (wordSize wide) data.toNat) ^^^ (2 ^ (8 * wordSize wide) - 1)).testBit i = !data.toNat.testBit i := by
    rw [Nat.testBit_xor, testBit_leNat_leBytes _ hi, Nat.testBit_two_pow_sub_one, decide_eq_true hi, Bool.xor_true]
  rw [← hnot, ← Nat.testBit_and]
  exact hbits i hi

/-- A read through either of the aliases is a read of the word. -/
theorem runs_alias_read {x : (TileRef → PortRequest → Nat → Bool → Option W64 → Instr) × Window} (hx : x ∈ aliasRows)
    (hr : regionOpen a.who off (wordSize wide) false = true) :
    ∃ d, Runs (x.1 t a off wide none) s d ∧ d.mem = s.dev.mem ∧
      PortServed s.dev d t { (s.dev.tile (refKey t)).beatWon a.who with
        reads := (s.dev.tile (refKey t)).reads.put [] (requesterNum a.who) (s.dev.mem.read (scratchAddr t off) (wordSize wide)) } := by
  have hw : x.2 = .bitSet ∨ x.2 = .bitClear := by
    rcases eq_or_eq_of_mem_pair hx with rfl | rfl
    · exact .inl rfl
    · exact .inr rfl
  have hst := h.padAccess (data := wordBytes wide none) (windowLegal_alias hw ho hr)
  rw [wordBytes, Option.map_none, moved_padJobs_alias_read hw] at hst
  exact ⟨_, exec_aliasRow hx none, hst.mem, hst.served⟩

end Aliases

/-- Settles O22: the two aliases each by the lemma on its write, and both by the one on their reads. -/
theorem aliasesChangeTheirBits : Obligations.AliasesChangeTheirBits := by
  unfold Obligations.AliasesChangeTheirBits
  refine fun t a off wide s h ho => ⟨fun data hr => ⟨runs_bitSet h ho hr data, runs_bitClear h ho hr data⟩, fun hr x hx => ?_⟩
  rcases eq_or_eq_of_mem_pair hx with rfl | rfl
  · exact runs_alias_read h ho (List.mem_cons_self ..) hr
  · exact runs_alias_read h ho (List.mem_cons_of_mem _ (List.mem_cons_self ..)) hr

/-! ### Sixteen lost beats (R154) -/

section Sixteen

theorem priorityOf_bounds (r : Requester) : 1 ≤ priorityOf r ∧ priorityOf r ≤ 5 := by
  cases r <;> decide

theorem priorityOf_eq_one_iff (r : Requester) : priorityOf r = 1 ↔ r = .arrayFeed := by
  cases r <;> decide

variable (x : Tile) {r : Requester}

@[simp] theorem Tile.rank_arrayFeed : x.rank .arrayFeed = 0 := rfl

variable {x}

/-- A requester that has lost 16 beats ranks by its priority. -/
theorem Tile.rank_of_sixteen (hr : r ≠ .arrayFeed) (h : 16 ≤ x.lost.get 0 (requesterNum r)) : x.rank r = priorityOf r := by
  rw [Tile.rank, if_neg (mt (priorityOf_eq_one_iff r).1 hr), if_pos h]

/-- Any other ranks below all of those. -/
theorem Tile.rank_of_fewer (hr : r ≠ .arrayFeed) (h : ¬ 16 ≤ x.lost.get 0 (requesterNum r)) : x.rank r = 16 + priorityOf r := by
  rw [Tile.rank, if_neg (mt (priorityOf_eq_one_iff r).1 hr), if_neg h]

theorem Tile.priorityOf_le_rank (hr : r ≠ .arrayFeed) : priorityOf r ≤ x.rank r := by
  by_cases h : 16 ≤ x.lost.get 0 (requesterNum r)
  · exact Nat.le_of_eq (Tile.rank_of_sixteen hr h).symm
  · rw [Tile.rank_of_fewer hr h]
    exact Nat.le_add_left _ _

theorem Tile.rank_le_priorityOf (h : 16 ≤ x.lost.get 0 (requesterNum r)) : x.rank r ≤ priorityOf r := by
  by_cases hr : r = .arrayFeed
  · rw [hr, Tile.rank_arrayFeed]
    exact Nat.zero_le _
  · exact Nat.le_of_eq (Tile.rank_of_sixteen hr h)

variable {s : State} {t : TileRef} {a : PortRequest} (hrun : s.dev.tileRuns t.bay.val t.tile.val = true) (hup : a.upset = false)
  (hidle : (s.dev.tile (refKey t)).port = [])
include hrun hup hidle

/-- Array feed takes every beat it wants; a requester that has lost 16 beats takes one that array feed does not want, by priority among such requesters. -/
theorem freePort_of_sixteen (h : a.who = .arrayFeed ∨ (16 ≤ (s.dev.tile (refKey t)).lost.get 0 (requesterNum a.who) ∧ .arrayFeed ∉ a.rivals ∧
    ∀ r, r ∈ a.rivals → 16 ≤ (s.dev.tile (refKey t)).lost.get 0 (requesterNum r) → priorityOf a.who ≤ priorityOf r)) : FreePort s.dev t a := by
  refine ⟨hrun, hidle, hup, fun r hr => .inr ?_⟩
  rcases h with hfeed | ⟨hlost, hnone, hfirst⟩
  · rw [hfeed, Tile.rank_arrayFeed]
    exact Nat.zero_le _
  · have hrank := Tile.rank_le_priorityOf hlost
    have hne : r ≠ .arrayFeed := fun he => hnone (he ▸ hr)
    by_cases hr16 : 16 ≤ (s.dev.tile (refKey t)).lost.get 0 (requesterNum r)
    · rw [Tile.rank_of_sixteen hne hr16]
      exact Nat.le_trans hrank (hfirst r hr hr16)
    · rw [Tile.rank_of_fewer hne hr16]
      have hsmall := (priorityOf_bounds a.who).2
      omega

/-- Any other request waits where array feed is announced, or a rival of higher priority that has lost 16 beats. -/
theorem lostPort_of_sixteen (hne : a.who ≠ .arrayFeed) (h : .arrayFeed ∈ a.rivals ∨
    ∃ r, r ∈ a.rivals ∧ r ≠ a.who ∧ 16 ≤ (s.dev.tile (refKey t)).lost.get 0 (requesterNum r) ∧ priorityOf r < priorityOf a.who) : LostPort s.dev t a := by
  have hown : priorityOf a.who ≤ (s.dev.tile (refKey t)).rank a.who := Tile.priorityOf_le_rank hne
  rcases h with hfeed | ⟨r, hr, hother, hlost, hhigher⟩
  · exact ⟨hrun, hidle, hup, .arrayFeed, hfeed, hne.symm, Nat.le_trans (priorityOf_bounds a.who).1 hown⟩
  · exact ⟨hrun, hidle, hup, r, hr, hother, Nat.lt_of_le_of_lt (Tile.rank_le_priorityOf hlost) (Nat.lt_of_lt_of_le hhigher hown)⟩

end Sixteen

/-- Settles O23: who is first and who is outranked by R154, and then what O21 and O22 rest on. -/
theorem sixteenLostBeatsTakeTheNext : Obligations.SixteenLostBeatsTakeTheNext := by
  unfold Obligations.SixteenLostBeatsTakeTheNext
  refine fun t a s hrun hup hidle => ⟨fun hfirst => ?_, fun hne hsecond x hx off size data _ hl =>
    runs_padRow_lost hx (lostPort_of_sixteen hrun hup hidle hne hsecond) hl⟩
  have h : FreePort s.dev t a := freePort_of_sixteen hrun hup hidle hfirst
  refine ⟨fun x hx off size _ => ⟨fun bs hbs hl => runs_padRow_write hx h hbs hl, runs_padRow_read hx h⟩, fun x hx off wide data hl => ?_⟩
  have hst := h.padAccess (data := wordBytes wide data) (size := wordSize wide) ((isSome_wordBytes data).symm ▸ hl)
  exact ⟨_, _, exec_aliasRow hx data, hst.served, hidle, rfl⟩

end Sys2Proof.Machine
end

section
/-! PROOF. The recipe steps that write a V register or a mask lane by lane, and the reductions (R175, R176, R178, R182 to R184, R186, R192, R193). -/

namespace Sys2Proof.Machine

/-! ### What a step at its place makes of its lanes -/

theorem VuCtx.masksWritten_setMasks (v : VuCtx) (w : StepWord) (g : Nat → Bool) : MasksWritten v (v.setMasks w (v.lanes w) g) w g := by
  obtain ⟨hwritten, hothers, hrest⟩ := v.setMasks_written w g (v.lanes w) fun _ _ => trivial
  exact ⟨hwritten, hothers, hrest⟩

section AtStep

variable {s : State} {t : TileRef} {op : Nat} {w : StepWord} {v : VuCtx} {c : Cmd} {i : Instr}
  {f : Device → Cmd → VuCtx → Except Nat (Device × VuCtx)}

/-- A step that sets its destination register in the lanes it acts in and leaves the block alone. -/
theorem AtStep.runs_setRegs {r : Nat → VRes} (h : AtStep s t op w v c) (hi : exec i s = .next { s with dev := s.dev.vuStep t op w false f })
    (hf : f s.dev c v = .ok (s.dev, v.setRegs w (v.lanes w) r)) : ∃ v', Runs i s (s.dev.stepped t v') ∧ LanesWritten v v' w r :=
  ⟨_, h.runs_here hi hf, v.lanesWritten_setRegs w r⟩

/-- A step that sets its destination mask in the lanes it acts in and leaves the block alone. -/
theorem AtStep.runs_setMasks {g : Nat → Bool} (h : AtStep s t op w v c) (hi : exec i s = .next { s with dev := s.dev.vuStep t op w false f })
    (hf : f s.dev c v = .ok (s.dev, v.setMasks w (v.lanes w) g)) : ∃ v', Runs i s (s.dev.stepped t v') ∧ MasksWritten v v' w g :=
  ⟨_, h.runs_here hi hf, v.masksWritten_setMasks w g⟩

/-- A step that takes the lanes it acts in into their partials and leaves the block alone. -/
theorem AtStep.runs_reduce (h : AtStep s t op w v c) (hi : exec i s = .next { s with dev := s.dev.vuStep t op w false f })
    (hf : f s.dev c v = .ok (s.dev, v.reduce op w)) : ∃ v', Runs i s (s.dev.stepped t v') ∧ PartialsTaken v v' op w :=
  ⟨_, h.runs_here hi hf, v.reduce_taken op w⟩

end AtStep

/-! ### The rows of the opcode table, by the operation that performs them -/

section Rows

variable {i : TileRef → StepWord → Bool → Instr} {op : Nat}

/-- A row that the vector unit performs element by element. -/
theorem writesLanes_of_vuElem {f : W32 → W32 → W32 → VRes}
    (hi : ∀ t w s, exec (i t w false) s = .next { s with dev := s.dev.vuElem t op w false f }) : WritesLanes i op f :=
  fun t w s _ _ h => h.runs_setRegs (hi t w s) rfl

/-- A comparison of the words of sources a and b. -/
theorem writesMasks_of_vuCmp {g : W32 → W32 → Bool}
    (hi : ∀ t w s, exec (i t w false) s = .next { s with dev := s.dev.vuCmp t op w false g }) :
    WritesMasks i op fun v w l => g (v.src w l w.a) (v.src w l w.b) :=
  fun t w s _ _ h => h.runs_setMasks (hi t w s) rfl

/-- An operation on the masks that sources a and b name. -/
theorem writesMasks_of_vuMask {g : Bool → Bool → Bool}
    (hi : ∀ t w s, exec (i t w false) s = .next { s with dev := s.dev.vuMask t op w false g }) :
    WritesMasks i op fun v w l => g (v.mask l (w.a.toNat - 28)) (v.mask l (w.b.toNat - 28)) :=
  fun t w s _ _ h => h.runs_setMasks (hi t w s) rfl

/-- A row reduction. -/
theorem takesPartials_of_vuReduce (hi : ∀ t w s, exec (i t w false) s = .next { s with dev := s.dev.vuReduce t op w false }) : TakesPartials i op :=
  fun t w s _ _ h => h.runs_reduce (hi t w s) rfl

end Rows

/-! ### Registers: arithmetic (R175, R176, R183) -/

/-- SCALE reads its immediate beside source a. -/
theorem AtStep.runs_scale {s : State} {t : TileRef} {w : StepWord} {v : VuCtx} {c : Cmd} (h : AtStep s t 0x0B w v c) :
    ∃ v', Runs (.scale t w false) s (s.dev.stepped t v') ∧ LanesWritten v v' w fun l => vScale (v.src w l w.a) w.imm :=
  h.runs_setRegs rfl rfl

/-- Settles O9: each step is one that the unit performs element by element, with SCALE by its own lemma. -/
theorem arithmeticStepsWriteTheirLanes : Obligations.ArithmeticStepsWriteTheirLanes := by
  unfold Obligations.ArithmeticStepsWriteTheirLanes
  refine ⟨?add, ?sub, ?mul, ?fma, ?div, ?sqrt, ?min, ?max, ?abs, ?neg,
    fun _ _ _ _ _ => AtStep.runs_scale, ?roundi, ?cvtI2f, ?cvtF2i⟩
  all_goals exact writesLanes_of_vuElem fun _ _ _ => rfl

/-! ### Registers: words, special functions, selection and draws (R178, R183, R192, R193) -/

section LaneValues

variable {s : State} {t : TileRef} {w : StepWord} {v : VuCtx} {c : Cmd}

theorem AtStep.runs_select (h : AtStep s t 0x18 w v c) : ∃ v', Runs (.select t w false) s (s.dev.stepped t v') ∧
    LanesWritten v v' w fun l => ⟨if v.mask l w.pmask.toNat then v.src w l w.a else v.src w l w.b, 0⟩ :=
  h.runs_setRegs rfl rfl

theorem AtStep.runs_index (h : AtStep s t 0x33 w v c) : ∃ v', Runs (.index t w false) s (s.dev.stepped t v') ∧
    LanesWritten v v' w fun l => ⟨(f32Round (Q.ofNat (64 * v.group + l)) false).1, 0⟩ :=
  h.runs_setRegs rfl rfl

theorem AtStep.runs_randBits (h : AtStep s t 0x34 w v c) : ∃ v', Runs (.randBits t w false) s (s.dev.stepped t v') ∧
    LanesWritten v v' w fun l => ⟨vuDraw s.dev c v l, 0⟩ :=
  h.runs_setRegs rfl rfl

theorem AtStep.runs_randU01 (h : AtStep s t 0x35 w v c) : ∃ v', Runs (.randU01 t w false) s (s.dev.stepped t v') ∧
    LanesWritten v v' w fun l => ⟨uniformBits (vuDraw s.dev c v l), 0⟩ :=
  h.runs_setRegs rfl rfl

end LaneValues

/-- Settles O10: the words and special functions element by element, the other four each by its own lemma. -/
theorem wordStepsWriteTheirLanes : Obligations.WordStepsWriteTheirLanes := by
  unfold Obligations.WordStepsWriteTheirLanes
  refine ⟨?andW, ?orW, ?xorW, ?tanh, ?logistic, ?exp2, ?log2, ?rcp, ?rsqrt,
    fun _ _ _ _ _ => ⟨AtStep.runs_select, AtStep.runs_index, AtStep.runs_randBits, AtStep.runs_randU01⟩⟩
  all_goals exact writesLanes_of_vuElem fun _ _ _ => rfl

/-! ### Masks (R176, R182, R183) -/

/-- Settles O11: four steps compare the words of the sources, and three join the masks that the sources name. -/
theorem maskStepsWriteTheirLanes : Obligations.MaskStepsWriteTheirLanes := by
  unfold Obligations.MaskStepsWriteTheirLanes
  exact ⟨writesMasks_of_vuCmp (g := fun a b => !(f32IsNaN a || f32IsNaN b) && f32Lt a b) fun _ _ _ => rfl,
    writesMasks_of_vuCmp (g := fun a b => !(f32IsNaN a || f32IsNaN b) && !(f32Lt b a)) fun _ _ _ => rfl,
    writesMasks_of_vuCmp (g := fun a b => !(f32IsNaN a || f32IsNaN b) && f32Eq a b) fun _ _ _ => rfl,
    writesMasks_of_vuCmp (g := fun a _ => f32IsNaN a) fun _ _ _ => rfl,
    writesMasks_of_vuMask (g := fun a b => a && b) fun _ _ _ => rfl,
    writesMasks_of_vuMask (g := fun a b => a || b) fun _ _ _ => rfl,
    writesMasks_of_vuMask (g := fun a _ => !a) fun _ _ _ => rfl⟩

/-! ### Reductions (R184, R186) -/

/-- Settles O12: each of the four steps is a reduction of its own opcode. -/
theorem reductionStepsTakeTheirLanes : Obligations.ReductionStepsTakeTheirLanes := by
  unfold Obligations.ReductionStepsTakeTheirLanes
  exact ⟨takesPartials_of_vuReduce fun _ _ _ => rfl, takesPartials_of_vuReduce fun _ _ _ => rfl,
    takesPartials_of_vuReduce fun _ _ _ => rfl, takesPartials_of_vuReduce fun _ _ _ => rfl⟩

end Sys2Proof.Machine
end

section
/-! PROOF. What every step keeps: each command stays within its parts of the state, memories stay canonical, fuses never go back (R201, R226, R431). -/

namespace Sys2Proof.Machine

/-! ### Each command within its parts -/

/-- A command leaves the device that its operation makes. -/
theorem runs_of_eq {c : Instr} {s : State} {d e : Device} (hc : exec c s = .next { s with dev := e }) (he : e = d) : Runs c s d := he ▸ hc

/-- An answer that moves only the stage of the attestation exchange (R445). -/
theorem Device.withStage_within {P : Nat} {d₀ : Device} (d : Device) (n : Nat) (h : Device.Within P d₀ d) (hp : 1073741824 &&& P = 1073741824) :
    Device.Within P d₀ { d with spdmStage := n } :=
  Device.Within.upd (ps := 1073741824) h rfl rfl (fun p => by cases p with | spdmStage => exact .inl rfl | _ => exact .inr rfl) hp

/-- Every command completes within the parts of the state it can touch: each arm by what the operation it performs can do. -/
theorem exec_within (c : Instr) (s : State) : ∃ d, Runs c s d ∧ Device.Within (touchedBy c) s.dev d := by
  refine match c with
  | .sqTailDoorbell _ _ _ => ⟨_, rfl, Device.sqTail_within (h := .refl _ _) (hp := ?_) ..⟩
  | .cqHeadDoorbell _ _ => ⟨_, rfl, Device.cqHeadMove_within (h := .refl _ _) (hp := ?_) ..⟩
  | .entryFetch => ⟨_, rfl, Device.fetchEntry_within (h := .refl _ _) (hp := ?_) ..⟩
  | .matmul | .attention | .conv | .quantise | .dequantise | .rotate | .recipe | .sample | .rngFill | .gather | .scatter
    | .copy | .broadcast | .reduceToOne | .allToAll | .allToAllSizeTable | .stageSend | .stageRecv | .eventAdd | .eventReset
    | .fence | .digest | .cast | .weightSwitch => ⟨_, rfl, Device.admitRow_within (h := .refl _ _) (hp := ?_) ..⟩
  | .tileOpDeliver _ => ⟨_, rfl, Device.deliver_within (h := .refl _ _) (hp := ?_) ..⟩
  | .tileOpStart _ _ => ⟨_, rfl, Device.start_within (h := .refl _ _) (hp := ?_) ..⟩
  | .blockEnd _ _ _ => ⟨_, rfl, Device.blockEnd_within (h := .refl _ _) (hp := ?_) ..⟩
  | .courseEnd _ _ => ⟨_, rfl, Device.courseEnd_within (h := .refl _ _) (hp := ?_) ..⟩
  | .preemptionPoint _ => ⟨_, rfl, Device.preempt_within (h := .refl _ _) (hp := ?_) ..⟩
  | .preemptedResume _ => ⟨_, rfl, Device.resume_within (h := .refl _ _) (hp := ?_) ..⟩
  | .tileOpEnd _ _ _ => ⟨_, rfl, Device.opEnd_within (h := .refl _ _) (hp := ?_) ..⟩
  | .sheafReexecute _ => ⟨_, rfl, Device.sheafAgain_within (h := .refl _ _) (hp := ?_) ..⟩
  | .pieceBoundary _ => ⟨_, rfl, Device.pieceBoundary_within (h := .refl _ _) (hp := ?_) ..⟩
  | .commandComplete _ => ⟨_, rfl, Device.completeCmd_within (h := .refl _ _) (hp := ?_) ..⟩
  | .beaconCompare => ⟨_, rfl, Device.compareBeacons_within (h := .refl _ _) (hp := ?_) ..⟩
  | .beaconTimeout => ⟨_, rfl, Device.beaconTimeout_within (h := .refl _ _) (hp := ?_) ..⟩
  | .promiseExpiry _ => ⟨_, rfl, Device.promiseExpiry_within (h := .refl _ _) (hp := ?_) ..⟩
  | .overdueLimitExpiry _ => ⟨_, rfl, Device.overdueExpiry_within (h := .refl _ _) (hp := ?_) ..⟩
  | .handshakeStall _ => ⟨_, rfl, Device.stall_within (h := .refl _ _) (hp := ?_) ..⟩
  | .bookAudit _ => ⟨_, rfl, Device.auditBook_within (h := .refl _ _) (hp := ?_) ..⟩
  | .errorRecordHandle => ⟨_, rfl, Device.handleError_within (h := .refl _ _) (hp := ?_) ..⟩
  | .containmentEnd _ => ⟨_, rfl, Device.contained_within (h := .refl _ _) (hp := ?_) ..⟩
  | .spareValidation _ _ => ⟨_, rfl, Device.validated_within (h := .refl _ _) (hp := ?_) ..⟩
  | .takeOverResume _ => ⟨_, rfl, Device.takeOverResume_within (h := .refl _ _) (hp := ?_) ..⟩
  | .reProtection _ => ⟨_, rfl, Device.reProtect_within (h := .refl _ _) (hp := ?_) ..⟩
  | .lockstepRollback => ⟨_, rfl, Device.rollback_within (h := .refl _ _) (hp := ?_) ..⟩
  | .bayReinit _ _ => ⟨_, rfl, .ite (fun _ => .refl _ _) fun _ => Device.bayReset_within (h := .refl _ _) (hp := ?_) ..⟩
  | .bayReinitEnd _ _ => ⟨_, rfl, Device.bayReinitEnd_within (h := .refl _ _) (hp := ?_) ..⟩
  | .queuePairReinit _ => ⟨_, rfl, Device.pairReset_within (h := .refl _ _) (hp := ?_) ..⟩
  | .deviceReset _ | .hotReset | .functionLevelReset =>
    ⟨_, rfl, .ite (fun _ => Device.rung3_within (h := .refl _ _) (hp := ?_) ..) fun _ => .refl _ _⟩
  | .interfaceRetry _ _ _ => ⟨_, rfl, Device.interfaceRetry_within (h := .refl _ _) (hp := ?_) ..⟩
  | .rowRemap _ _ _ => ⟨_, rfl, Device.rowRemap_within (h := .refl _ _) (hp := ?_) ..⟩
  | .rowRemapEnd _ _ _ => ⟨_, rfl, Device.rowRemapEnd_within (h := .refl _ _) (hp := ?_) ..⟩
  | .uncorrectableError _ _ _ _ => ⟨_, rfl, Device.uncorrectable_within (h := .refl _ _) (hp := ?_) ..⟩
  | .patrolScrub _ _ => ⟨_, rfl, Device.patrolScrub_within (h := .refl _ _) (hp := ?_) ..⟩
  | .remapTablePersist _ => ⟨_, rfl, Device.persistRemaps_within (h := .refl _ _) (hp := ?_) ..⟩
  | .inboundTokenGrant _ => ⟨_, rfl, Device.grantToken_within (h := .refl _ _) (hp := ?_) ..⟩
  | .farTierTimeout _ _ => ⟨_, rfl, Device.farTimeout_within (h := .refl _ _) (hp := ?_) ..⟩
  | .farTierLinkDown _ => ⟨_, rfl, Device.farDown_within (h := .refl _ _) (hp := ?_) ..⟩
  | .scratchpadAccess _ _ _ _ _ | .scratchpadBitSet _ _ _ _ _ | .scratchpadBitClear _ _ _ _ _ | .byteLaneRotate _ _ _ _ _ =>
    ⟨_, rfl, Device.padAccess_within (h := .refl _ _) (hp := ?_) ..⟩
  | .nop _ _ _ | .pass _ _ _ => ⟨_, rfl, Device.vuIdle_within (h := .refl _ _) (hp := ?_) ..⟩
  | .add _ _ _ | .sub _ _ _ | .mul _ _ _ | .fma _ _ _ | .div _ _ _ | .sqrt _ _ _ | .min _ _ _ | .max _ _ _ | .abs _ _ _
    | .neg _ _ _ | .scale _ _ _ | .roundi _ _ _ | .cvtI2f _ _ _ | .cvtF2i _ _ _ | .andW _ _ _ | .orW _ _ _ | .xorW _ _ _
    | .tanh _ _ _ | .logistic _ _ _ | .exp2 _ _ _ | .log2 _ _ _ | .rcp _ _ _ | .rsqrt _ _ _ =>
    ⟨_, rfl, Device.vuElem_within (h := .refl _ _) (hp := ?_) ..⟩
  | .cmpLt _ _ _ | .cmpLe _ _ _ | .cmpEq _ _ _ | .cmpNan _ _ _ => ⟨_, rfl, Device.vuCmp_within (h := .refl _ _) (hp := ?_) ..⟩
  | .select _ _ _ => ⟨_, rfl, Device.vuSelect_within (h := .refl _ _) (hp := ?_) ..⟩
  | .mand _ _ _ | .mor _ _ _ | .mnot _ _ _ => ⟨_, rfl, Device.vuMask_within (h := .refl _ _) (hp := ?_) ..⟩
  | .rowSum _ _ _ | .rowSumsq _ _ _ | .rowMax _ _ _ | .rowMin _ _ _ => ⟨_, rfl, Device.vuReduce_within (h := .refl _ _) (hp := ?_) ..⟩
  | .load _ _ _ => ⟨_, rfl, Device.vuLoad_within (h := .refl _ _) (hp := ?_) ..⟩
  | .store _ _ _ => ⟨_, rfl, Device.vuStore_within (h := .refl _ _) (hp := ?_) ..⟩
  | .qstore _ _ _ => ⟨_, rfl, Device.vuQstore_within (h := .refl _ _) (hp := ?_) ..⟩
  | .index _ _ _ => ⟨_, rfl, Device.vuIndex_within (h := .refl _ _) (hp := ?_) ..⟩
  | .randBits _ _ _ | .randU01 _ _ _ => ⟨_, rfl, Device.vuRand_within (h := .refl _ _) (hp := ?_) ..⟩
  | .fenceStore _ _ _ | .fenceFull _ _ _ => ⟨_, rfl, Device.vuFence_within (h := .refl _ _) (hp := ?_) ..⟩
  | .chainStepStart _ _ _ => ⟨_, rfl, Device.stepStart_within (h := .refl _ _) (hp := ?_) ..⟩
  | .chainStepEnd _ _ _ => ⟨_, rfl, Device.stepEnd_within (h := .refl _ _) (hp := ?_) ..⟩
  | .dataFrameReceive _ _ => ⟨_, rfl, Device.dataFrame_within (h := .refl _ _) (hp := ?_) ..⟩
  | .ackReceive _ _ => ⟨_, rfl, Device.ackFrame_within (h := .refl _ _) (hp := ?_) ..⟩
  | .nakReceive _ _ => ⟨_, rfl, Device.nakFrame_within (h := .refl _ _) (hp := ?_) ..⟩
  | .creditGrantReceive _ _ => ⟨_, rfl, Device.grantFrame_within (h := .refl _ _) (hp := ?_) ..⟩
  | .helloReceive _ _ => ⟨_, rfl, Device.helloFrame_within (h := .refl _ _) (hp := ?_) ..⟩
  | .abortReceive _ _ => ⟨_, rfl, Device.abortFrame_within (h := .refl _ _) (hp := ?_) ..⟩
  | .helloTimer _ => ⟨_, rfl, Device.helloTick_within (h := .refl _ _) (hp := ?_) ..⟩
  | .helloSilenceTimeout _ _ => ⟨_, rfl, Device.helloSilence_within (h := .refl _ _) (hp := ?_) ..⟩
  | .retryTimeout _ _ => ⟨_, rfl, Device.retry_within (h := .refl _ _) (hp := ?_) ..⟩
  | .neighborSolicitation _ _ => ⟨_, rfl, Device.solicited_within (h := .refl _ _) (hp := ?_) ..⟩
  | .pfcFrameReceive _ _ _ => ⟨_, rfl, Device.pfc_within (h := .refl _ _) (hp := ?_) ..⟩
  | .fabricLinkUp _ => ⟨_, rfl, Device.linkUp_within (h := .refl _ _) (hp := ?_) ..⟩
  | .fabricLinkDown _ => ⟨_, rfl, Device.linkDown_within (h := .refl _ _) (hp := ?_) ..⟩
  | .partnerTimeout _ => ⟨_, rfl, Device.partnerTimeout_within (h := .refl _ _) (hp := ?_) ..⟩
  | .paceWindowEnd _ => ⟨_, rfl, Device.windowEnd_within (h := .refl _ _) (hp := ?_) ..⟩
  | .thermalCeilingStep _ => ⟨_, rfl, Device.thermalStep_within (h := .refl _ _) (hp := ?_) ..⟩
  | .flickerHold _ => ⟨_, rfl, Device.flicker_within (h := .refl _ _) (hp := ?_) ..⟩
  | .flickerHoldEnd _ _ => ⟨_, rfl, Device.flickerEnd_within (h := .refl _ _) (hp := ?_) ..⟩
  | .gaugeMeasurement _ _ _ _ => ⟨_, rfl, Device.measure_within (h := .refl _ _) (hp := ?_) ..⟩
  | .plan _ => ⟨_, rfl, Device.plan_within (h := .refl _ _) (hp := ?_) ..⟩
  | .setpointStep => ⟨_, rfl, Device.setpointStep_within (h := .refl _ _) (hp := ?_) ..⟩
  | .inletSensorRead _ => ⟨_, rfl, Device.inletRead_within (h := .refl _ _) (hp := ?_) ..⟩
  | .thermalTrip _ _ => ⟨_, rfl, .ite (fun _ => Device.powerOff_within (h := .refl _ _) (hp := ?_) ..) fun _ => .refl _ _⟩
  | .inputRise => ⟨_, rfl, Device.inputRise_within (h := .refl _ _) (hp := ?_) ..⟩
  | .undervoltageOff | .overvoltageOff => ⟨_, rfl, .ite (fun _ => .refl _ _) fun _ => Device.powerOff_within (h := .refl _ _) (hp := ?_) ..⟩
  | .powerGood | .pmeTurnOff => ⟨_, rfl, .ite (fun _ => Device.withPower_within (h := .refl _ _) (hp := ?_) ..) fun _ => .refl _ _⟩
  | .maskRomBoot _ => ⟨_, rfl, Device.romBoot_within (h := .refl _ _) (hp := ?_) ..⟩
  | .imageVerify => ⟨_, rfl, Device.imageVerify_within (h := .refl _ _) (hp := ?_) ..⟩
  | .hbmTrainingEnd _ => ⟨_, rfl, Device.trainingEnd_within (h := .refl _ _) (hp := ?_) ..⟩
  | .selfTestEnd _ => ⟨_, rfl, Device.selfTestEnd_within (h := .refl _ _) (hp := ?_) ..⟩
  | .ready => ⟨_, rfl, Device.becomeReady_within (h := .refl _ _) (hp := ?_) ..⟩
  | .configRequest => ⟨_, rfl, .ite (fun _ => Device.withOut_within (h := .refl _ _) (hp := ?_) ..) fun _ => .refl _ _⟩
  | .perstAssert => ⟨_, rfl, Device.perstAssert_within (h := .refl _ _) (hp := ?_) ..⟩
  | .perstDeassert => ⟨_, rfl, Device.trainLink_within (h := Device.withPower_within (h := .refl _ _) (hp := ?_) ..) (hp := ?_) ..⟩
  | .pcieLinkDown => ⟨_, rfl, Device.linkLost_within (h := .refl _ _) (hp := ?_) ..⟩
  | .bcReset _ => ⟨_, rfl, Device.bcReset_within (h := .refl _ _) (hp := ?_) ..⟩
  | .d3hotEntry => ⟨_, rfl, Device.d3hot_within (h := .refl _ _) (hp := ?_) ..⟩
  | .d0Entry => ⟨_, rfl, Device.d0Entry_within (h := .refl _ _) (hp := ?_) ..⟩
  | .wakeSignal => ⟨_, rfl, Device.wakeSignal_within (h := .refl _ _) (hp := ?_) ..⟩
  | .doeDiscovery _ => ⟨_, rfl, Device.discover_within (h := .refl _ _) (hp := ?_) ..⟩
  | .getVersion _ | .getCapabilities _ | .negotiateAlgorithms _ =>
    ⟨_, rfl, Device.spdmReq_within (hh' := fun _ h => Device.withStage_within _ _ (Device.doe_within (h := h) (hp := ?_) ..) ?_) (h := .refl _ _) (hp := ?_) ..⟩
  | .getDigests _ => ⟨_, rfl, Device.spdmReq_within (hh' := fun _ h => Device.doe_within (h := h) (hp := ?_) ..) (h := .refl _ _) (hp := ?_) ..⟩
  | .getCertificate _ =>
    ⟨_, rfl, Device.spdmReq_within (hh' := fun _ h => Device.certificate_within (h := h) (hp := ?_) ..) (h := .refl _ _) (hp := ?_) ..⟩
  | .challenge _ => ⟨_, rfl, Device.spdmReq_within (hh' := fun _ h => Device.challenged_within (h := h) (hp := ?_) ..) (h := .refl _ _) (hp := ?_) ..⟩
  | .getMeasurements _ =>
    ⟨_, rfl, Device.spdmReq_within (hh' := fun _ h => Device.measurements_within (h := h) (hp := ?_) ..) (h := .refl _ _) (hp := ?_) ..⟩
  | .openSession _ =>
    ⟨_, rfl, Device.brynuoFrame_within (hh' := fun _ _ h => Device.openReq_within (h := h) (hp := ?_) ..) (h := .refl _ _) (hp := ?_) ..⟩
  | .closeSession _ =>
    ⟨_, rfl, Device.brynuoFrame_within (hh' := fun _ _ h => Device.closeReq_within (h := h) (hp := ?_) ..) (h := .refl _ _) (hp := ?_) ..⟩
  | .keepalive _ =>
    ⟨_, rfl, Device.brynuoFrame_within (hh' := fun _ _ h => Device.keepaliveReq_within (h := h) (hp := ?_) ..) (h := .refl _ _) (hp := ?_) ..⟩
  | .read _ => ⟨_, rfl, Device.brynuoFrame_within (hh' := fun _ _ h => Device.readReq_within (h := h) (hp := ?_) ..) (h := .refl _ _) (hp := ?_) ..⟩
  | .write _ => ⟨_, rfl, Device.brynuoFrame_within (hh' := fun _ _ h => Device.writeReq_within (h := h) (hp := ?_) ..) (h := .refl _ _) (hp := ?_) ..⟩
  | .forceClaim _ | .queuePairEnable _ _ | .queuePairDisable _ _ | .bayWithdrawal _ _ | .bayReinitRequest _ _
    | .queuePairReinitRequest _ _ | .powerCycleRequest _ | .alertCauseClear _ _ | .planRequest _ | .restoreDefaults _ | .loadTarget _ _
    | .loadData _ _ | .verify _ | .commitSecurity _ | .wakeRequest _ | .wakeReasonClear _ _ | .objectWrite _ _ _
    | .claim (.object _) | .release (.object _) => ⟨_, rfl, Device.directWrite_within (h := .refl _ _) (hp := ?_) ..⟩
  | .notificationAck _ =>
    ⟨_, rfl, Device.brynuoFrame_within (hh' := fun _ _ h => Device.ackReq_within (h := h) (hp := ?_) ..) (h := .refl _ _) (hp := ?_) ..⟩
  | .notificationResend _ => ⟨_, rfl, Device.resendNotices_within (h := .refl _ _) (hp := ?_) ..⟩
  | .sessionLeaseExpiry _ => ⟨_, rfl, Device.leaseExpiry_within (h := .refl _ _) (hp := ?_) ..⟩
  | .segmentTimeout _ => ⟨_, rfl, Device.segTimeout_within (h := .refl _ _) (hp := ?_) ..⟩
  | .mgmtNeighborSolicitation _ => ⟨_, rfl, Device.mgmtSolicited_within (h := .refl _ _) (hp := ?_) ..⟩
  | .dictionaryService _ => ⟨_, rfl, Device.serveNext_within (h := .refl _ _) (hp := ?_) ..⟩
  | .dictRead _ | .dictWrite _ => ⟨_, rfl, Device.dictCmd_within (h := .refl _ _) (hp := ?_) ..⟩
  | .dictStatusClear _ => ⟨_, rfl, Device.statusClear_within (h := .refl _ _) (hp := ?_) ..⟩
  | .write1 _ | .write2 _ | .spiRead _ | .spiFetch _ | .clearStatus _ => ⟨_, rfl, Device.spiFrame_within (h := .refl _ _) (hp := ?_) ..⟩
  | .spiFrameAbort | .spiFrameTimeout => ⟨_, rfl, .ite (fun _ => Device.spiAbort_within (h := .refl _ _) (hp := ?_) ..) fun _ => .refl _ _⟩
  | .queuePairDrainEnd _ => ⟨_, rfl, Device.drainEnd_within (h := .refl _ _) (hp := ?_) ..⟩
  | .imageProgrammingEnd => ⟨_, rfl, Device.loadEnd_within (h := .refl _ _) (hp := ?_) ..⟩
  | .summaryWrite => ⟨_, rfl, Device.summaryWrite_within (h := .refl _ _) (hp := ?_) ..⟩
  | .hostDmaTimeout _ => ⟨_, rfl, Device.hostTimeout_within (h := .refl _ _) (hp := ?_) ..⟩
  | .inputFallsBelow10V | .bcRstDeassert => ⟨_, rfl, Device.withPower_within (h := .refl _ _) (hp := ?_) ..⟩
  | .lockstepRollbackEnd => ⟨_, rfl, .ite (fun _ => Device.withSafety_within (h := .refl _ _) (hp := ?_) ..) fun _ => .refl _ _⟩
  | .bankedEntryEnd => ⟨_, rfl, Device.bankedEntryEnd_within (h := .refl _ _) (hp := ?_) ..⟩
  | .bankedExitEnd => ⟨_, rfl, Device.bankedExitEnd_within (h := .refl _ _) (hp := ?_) ..⟩
  | .managementLinkUp => ⟨_, rfl, Device.mgmtLinkUp_within (h := .refl _ _) (hp := ?_) ..⟩
  | .plcaCollision => ⟨_, rfl, Device.collision_within (h := .refl _ _) (hp := ?_) ..⟩
  | .dictArgDataWrite _ => ⟨_, rfl, Device.argData_within (h := .refl _ _) (hp := ?_) ..⟩
  | .beaconComparisonEnd => ⟨_, rfl, Device.comparisonEnd_within (h := .refl _ _) (hp := ?_) ..⟩
  | .claim (.message _) | .release (.message _) =>
    ⟨_, rfl, Device.brynuoFrame_within (hh' := fun _ _ h => Device.ownerReq_within (h := h) (hp := ?_) ..) (h := .refl _ _) (hp := ?_) ..⟩
  all_goals simp only [touchedBy]; decide

/-! ### Memories through every step, and at reset -/

/-- What a step leaves can come after what it found (R431): the command in front stays within its parts, and an idle step only counts a nanosecond. -/
theorem step_after {s t : State} (h : step s = .next t) : Device.After s.dev t.dev := by
  unfold step at h
  split at h
  · obtain rfl : idle s = t := Host.Outcome.next.inj h
    exact ⟨id, id, fun _ => Nat.le_refl _, fun _ hr => hr⟩
  · next c rest _ =>
    obtain ⟨d, hruns, hd⟩ := exec_within c { s with pending := rest }
    obtain rfl := Host.Outcome.next.inj (hruns.symm.trans h)
    exact hd.after

/-- Settles O3: every step leaves a device that can come after the one it found, and such a device keeps canonical memories. -/
theorem stepKeepsMemoriesCanonical : Obligations.StepKeepsMemoriesCanonical := by
  unfold Obligations.StepKeepsMemoriesCanonical
  intro s t ⟨hmem, hhost⟩ h
  exact ⟨(step_after h).mem hmem, (step_after h).host hhost⟩

/-- Settles O4: reset lists nothing in either memory and queues no command. -/
theorem resetMemoriesCanonical : Obligations.ResetMemoriesCanonical := by
  unfold Obligations.ResetMemoriesCanonical
  exact ⟨⟨rfl, rfl⟩, rfl, rfl, rfl⟩

end Sys2Proof.Machine
end

section
/-! PROOF. Admission: which row of the opcode table an entry belongs to (R214, R229, R233, R237). -/

namespace Sys2Proof.Machine

/-! ### What a row leaves alone -/

/-- Nothing is fetched, the function is not ready or not in D0, or the entry fetched first is another row's or waits for a paused row. -/
def Device.AdmitsNothing (d : Device) (r : RowOf) : Prop :=
  ∀ f rest, d.fetched = f :: rest → d.isReady = false ∨ d.power.powerState ≠ 0 ∨ r.takes f.entry = false ∨ d.entryHeld f = true

theorem Device.AdmitsNothing.admitRow_eq {d : Device} {r : RowOf} (h : d.AdmitsNothing r) : d.admitRow r = d := by
  unfold Device.admitRow
  split
  · rfl
  · next f rest hf => rcases h f rest hf with h | h | h | h <;> simp [h]

/-- A row of the table that admits nothing leaves the block as it is. -/
theorem Device.AdmitsNothing.runs {x : Instr × RowOf} (hx : x ∈ admissionRows) {s : State} (h : s.dev.AdmitsNothing x.2) : Runs x.1 s s.dev := by
  have := admissionRows_run x hx s
  rwa [h.admitRow_eq] at this

/-! ### The row of an entry (R233, R237) -/

/-- The row an entry belongs to: its opcode, and for COLLECTIVE and EVENT its operation. -/
def entryRow (e : List Byte) : RowOf :=
  ⟨opcodeOf e, if opcodeOf e = 0x30 then ent e 0x20 1 else if opcodeOf e = 0x40 then ent e 0x22 1 else 0⟩

theorem entryRow_of_collective {e : List Byte} (h : opcodeOf e = 0x30) : entryRow e = ⟨0x30, ent e 0x20 1⟩ := by simp [entryRow, h]

theorem entryRow_of_event {e : List Byte} (h : opcodeOf e = 0x40) : entryRow e = ⟨0x40, ent e 0x22 1⟩ := by simp [entryRow, h]

theorem entryRow_of_plain {e : List Byte} (hc : opcodeOf e ≠ 0x30) (he : opcodeOf e ≠ 0x40) : entryRow e = ⟨opcodeOf e, 0⟩ := by
  simp [entryRow, hc, he]

/-- Rows of an opcode without operations name none. -/
def RowOf.Plain (r : RowOf) : Prop := r.op = 0x30 ∨ r.op = 0x40 ∨ r.sub = 0

theorem admissionRows_plain : ∀ x ∈ admissionRows, x.2.Plain := by unfold RowOf.Plain; decide

theorem admissionRows_nodup : (admissionRows.map (·.2)).Nodup := by decide

section KnownEntry

variable {e : List Byte} (hop : knownOp (opcodeOf e) = true) (hcoll : opcodeOf e = 0x30 → ent e 0x20 1 ≤ 3)
  (hevent : opcodeOf e = 0x40 → ent e 0x22 1 ≤ 1)
include hop hcoll hevent

/-- A row takes an entry of the table exactly if it is the entry's row. -/
theorem RowOf.takes_eq {r : RowOf} (hr : r.Plain) : r.takes e = (r == entryRow e) := by
  obtain ⟨op, sub⟩ := r
  rw [Bool.eq_iff_iff, beq_iff_eq]
  by_cases hmine : opcodeOf e = op
  · subst hmine
    by_cases hc : opcodeOf e = 0x30
    · simp [RowOf.takes, entryRow_of_collective hc, hc, Nat.not_lt.2 (hcoll hc), knownOp, eq_comm (a := sub)]
    · by_cases he : opcodeOf e = 0x40
      · simp [RowOf.takes, entryRow_of_event he, he, Nat.not_lt.2 (hevent he), knownOp, eq_comm (a := sub)]
      · simpa [RowOf.takes, entryRow_of_plain hc he, hop, hc, he] using (hr.resolve_left hc).resolve_left he
  · simp [RowOf.takes, hop, hmine, entryRow, Ne.symm hmine]

/-- Every opcode of the table, with every operation of it, has a row. -/
theorem entryRow_mem : entryRow e ∈ admissionRows.map (·.2) := by
  have hlt : opcodeOf e < 0x45 := by
    simp only [knownOp, List.contains_iff_mem, List.mem_cons, List.not_mem_nil, or_false] at hop
    omega
  by_cases hc : opcodeOf e = 0x30
  · rw [entryRow_of_collective hc]
    exact (by decide : ∀ sub < 4, (⟨0x30, sub⟩ : RowOf) ∈ admissionRows.map (·.2)) _ (Nat.lt_succ_of_le (hcoll hc))
  · by_cases he : opcodeOf e = 0x40
    · rw [entryRow_of_event he]
      exact (by decide : ∀ sub < 2, (⟨0x40, sub⟩ : RowOf) ∈ admissionRows.map (·.2)) _ (Nat.lt_succ_of_le (hevent he))
    · rw [entryRow_of_plain hc he]
      exact (by decide : ∀ op ∈ List.range 0x45, knownOp op = true → op ≠ 0x30 → op ≠ 0x40 → (⟨op, 0⟩ : RowOf) ∈ admissionRows.map (·.2))
        _ (List.mem_range.2 hlt) hop hc he

end KnownEntry

/-- Settles O18: a row that admits nothing leaves the block as it is, and the rows that take an entry are those equal to its row, which the table lists once. -/
theorem eachEntryHasOneRow : Obligations.EachEntryHasOneRow := by
  unfold Obligations.EachEntryHasOneRow
  refine ⟨fun x hx s => ⟨fun hnone => ?none, fun hstate => ?state, fun f rest hf hother => ?other⟩, fun e hop hcoll hevent => ?unique⟩
  case none => exact Device.AdmitsNothing.runs hx fun f rest hf => by simp [hnone] at hf
  case state => exact Device.AdmitsNothing.runs hx fun _ _ _ => hstate.imp_right .inl
  case other =>
    refine Device.AdmitsNothing.runs hx fun g rest' hg => .inr (.inr ?_)
    obtain ⟨rfl, -⟩ : f = g ∧ rest = rest' := by simpa [hf] using hg
    exact hother
  case unique =>
    calc (admissionRows.filter fun x => x.2.takes e).length
        = (admissionRows.filter fun x => x.2 == entryRow e).length := by
          rw [List.filter_congr fun x hx => RowOf.takes_eq hop hcoll hevent (admissionRows_plain x hx)]
      _ = (admissionRows.map (·.2)).count (entryRow e) := by
          rw [← List.countP_eq_length_filter, List.count, List.countP_map]; rfl
      _ = 1 := admissionRows_nodup.count.trans (if_pos (entryRow_mem hop hcoll hevent))

end Sys2Proof.Machine
end

section
/-! PROOF. COMMAND_COMPLETE: a command that ends writes its record, signals its event and returns its tag (R237, R239, R241, R250). -/

namespace Sys2Proof.Machine

/-! ### How a command ends (R250) -/

/-- The end of a command of a queue pair that has failed, or that claims no message and is no beacon point, is what `finish` makes of it. -/
theorem Device.endCmd_eq_finish {d : Device} {c : Cmd} {q : Fin 64} (hqp : c.qp = some q) (hmet : d.met = false) (hrecv : opcodeOf c.entry ≠ 0x32)
    (hpoint : ¬(opcodeOf c.entry = 0x41 ∧ ent c.entry 0x20 1 = 1 ∧ (ent c.entry 0x21 1).testBit 0 = true)) : d.endCmd c = d.finish c.tag := by
  have hclaim : d.claimMessage c = d := by simp only [Device.claimMessage, hrecv, if_false]
  have hafter : ∀ e : Device, e.afterSuccess c = e := fun e => by simp only [Device.afterSuccess, hpoint, if_false]
  simp [Device.endCmd, hqp, hmet, hclaim, hafter]

/-- A failed command ends at once. -/
theorem Device.completeCmdNow_of_failed {d : Device} {c : Cmd} (hheld : d.cmd c.tag = some c) (hopen : d.hostOpen = true) (hledger : d.ledgerHeld c = false)
    (hfailed : c.failure.isSome = true) : d.completeCmdNow c.tag [] = d.endCmd c := by
  simp [Device.completeCmdNow, hheld, hopen, hledger, hfailed]

/-- A command without failure whose waits are over ends after its last own work, unless that trips a sheaf. -/
theorem Device.completeCmdNow_of_done {d : Device} {c c1 : Cmd} (hheld : d.cmd c.tag = some c) (hopen : d.hostOpen = true) (hledger : d.ledgerHeld c = false)
    (hsound : c.failure = none) (hstruck : d.struck c.tag = false) (hrecv : opcodeOf c.entry ≠ 0x32) (hcan : d.canEnd c = true)
    (hlast : (d.lastWork c).cmd c.tag = some c1) (hmet : (d.lastWork c).met = false) (hends : c1.failure.isSome = true ∨ c1.trips = []) :
    d.completeCmdNow c.tag [] = (d.lastWork c).endCmd c1 := by
  have hslot : d.freeSlot c = d := by unfold Device.freeSlot; split <;> simp [hrecv]
  have hvoid : d.voidTurn c = d := by simp [Device.voidTurn, hrecv]
  have hstop : (c1.failure.isSome || c1.trips.isEmpty) = true := by simpa using hends
  simp [Device.completeCmdNow, hheld, hopen, hledger, hsound, hstruck, pathsOnly, fatal, Device.detectAll, hslot, Device.endIfDone, hcan, hvoid, hlast, hmet, hstop]

/-! ### A command that ends now -/

section EndsAs

variable {d d1 : Device} {c c1 : Cmd} (h : EndsAs d c d1 c1)
include h

theorem EndsAs.tag_eq : c1.tag = c.tag := by
  rcases h.ended with ⟨-, -, rfl⟩ | ⟨-, -, -, -, -, -, htag, -⟩
  · rfl
  · exact htag

/-- The command in flight as its last own work leaves it. -/
theorem EndsAs.cmd_last : d1.cmd c1.tag = some c1 := by
  rw [h.tag_eq]
  rcases h.ended with ⟨-, rfl, rfl⟩ | ⟨-, -, -, -, -, hcmd, -, -⟩
  · exact h.held
  · exact hcmd

/-- The last own work of a command keeps to the parts that such work reaches. -/
theorem EndsAs.within : Device.Within 4497596936 d d1 := by
  rcases h.ended with ⟨-, rfl, -⟩ | ⟨-, -, -, -, rfl, -, -, -⟩
  · exact .refl _ _
  · exact Device.lastWork_within d c (.refl _ _) rfl

theorem EndsAs.completeCmdNow_eq : d.completeCmdNow c.tag [] = d1.endCmd c1 := by
  rcases h.ended with ⟨hfailed, rfl, rfl⟩ | ⟨hsound, hstruck, hrecv, hcan, rfl, hcmd, -, hends⟩
  · exact Device.completeCmdNow_of_failed h.held h.working h.ledger hfailed
  · exact Device.completeCmdNow_of_done h.held h.working h.ledger hsound hstruck hrecv hcan hcmd h.flows hends

end EndsAs

theorem exec_commandComplete (tag : Nat) (s : State) :
    exec (.commandComplete ⟨tag, []⟩) s = .next { s with dev := s.dev.whole fun d => d.completeCmdNow tag [] } := rfl

/-- Settles O19: a command that ends now ends by `finish`, whose record, tag and event are those of the command after its last own work. -/
theorem completionWritesItsRecord : Obligations.CompletionWritesItsRecord := by
  unfold Obligations.CompletionWritesItsRecord
  intro s c c1 d1 q h hqp hrecv hpoint
  obtain ⟨hentry, hqp1⟩ := h.same
  have hend : s.dev.completeCmdNow c.tag [] = d1.finish c1.tag := by
    rw [h.completeCmdNow_eq]
    exact Device.endCmd_eq_finish (hqp1.trans hqp) h.flows (hentry ▸ hrecv) (hentry ▸ hpoint)
  obtain ⟨t, ht, hcmds, htags, hrecord, hevents⟩ := Device.finish_fields d1 c1 q h.cmd_last (hqp1.trans hqp)
  have hfree : d1.tagsFree = s.dev.tagsFree := h.within.part .tagsFree (by decide)
  have hqueue : d1.queue q.val = s.dev.queue q.val := Device.queue_of_queues (h.within.part .queues (by decide)) _
  have hnow : d1.now = s.dev.now := h.within.part .now (by decide)
  have hcounts : d1.events = s.dev.events := h.within.part .events (by decide)
  rw [h.tag_eq] at hcmds htags hrecord
  rw [hfree] at htags
  rw [hqueue, hnow, hentry] at hrecord
  rw [hcounts] at hevents
  exact ⟨t, runsWhole_of_whole (exec_commandComplete c.tag s) (hend.trans ht), hcmds, htags, hrecord, hevents⟩

end Sys2Proof.Machine
end

section
/-! PROOF. Inbound tokens and the far tier (R207, R208, R220, R223, R252). -/

namespace Sys2Proof.Machine

/-! ### Tokens (R207, R208) -/

section Grant

variable {s : State} {k : Fin 8} {w : TokenWait} (hw : (s.dev.bay k.val).nextWait = some w)
include hw

/-- Fewer than 64 tokens serve no line. -/
theorem runs_inboundTokenGrant_short (hshort : (s.dev.tokensNow k.val).lt (Q.ofNat 64) = true) : Runs (.inboundTokenGrant k) s s.dev := by
  have hgrant : s.dev.grantToken k.val = s.dev := by simp only [Device.grantToken, hw, hshort, if_true]
  exact runs_of_eq rfl hgrant

/-- With 64 tokens, one line of the access whose turn it is takes them. -/
theorem runs_inboundTokenGrant_served (henough : (s.dev.tokensNow k.val).lt (Q.ofNat 64) = false) :
    ∃ d, Runs (.inboundTokenGrant k) s d ∧ d.bay k.val = { s.dev.bay k.val with
      tokens := (s.dev.tokensNow k.val).sub (Q.ofNat 64), tokensAt := s.dev.now, lastServed := w.src
      waits := if w.lines ≤ 1 then (s.dev.bay k.val).waits.erase w
        else (s.dev.bay k.val).waits.map fun x => if x = w then { x with lines := x.lines - 1 } else x } := by
  refine ⟨_, rfl, ?_⟩
  simp only [Device.grantToken, hw, henough, Bool.false_eq_true, if_false]
  rw [Device.bay_modBay_same _ k.isLt, Device.takeTokens, Device.bay_modBay_same _ k.isLt]

end Grant

/-- The access served next waits, and its source bay comes first in turn of those with an access waiting. -/
theorem Bay.nextWait_spec {b : Bay} {w : TokenWait} (h : b.nextWait = some w) : w ∈ b.waits ∧
    ∃ j, w.src = (b.lastServed + 1 + j) % 8 ∧ ∀ i, i < 8 → (∃ x, x ∈ b.waits ∧ x.src = (b.lastServed + 1 + i) % 8) → j ≤ i := by
  unfold Bay.nextWait at h
  rw [List.findSome?_map, List.findSome?_eq_some_iff] at h
  obtain ⟨before, j, after, hsplit, hfound, hnone⟩ := h
  have hsorted : (before ++ j :: after).Pairwise (· < ·) := hsplit ▸ List.pairwise_lt_range
  refine ⟨List.mem_of_find?_eq_some hfound, j, by simpa using List.find?_some hfound, fun i hi ⟨x, hx, hsrc⟩ => ?_⟩
  have hin : i ∈ before ++ j :: after := hsplit ▸ List.mem_range.2 hi
  rcases List.mem_append.1 hin with hb | ha
  · have := List.find?_eq_none.1 (hnone i hb) x hx
    simp [hsrc] at this
  · rcases List.mem_cons.1 ha with rfl | ha
    · exact Nat.le_refl _
    · exact Nat.le_of_lt (List.rel_of_pairwise_cons (List.pairwise_append.1 hsorted).2.1 ha)

/-! ### The far tier (R220, R223) -/

/-- Failing the commands of a list one by one leaves each of them, and each that had failed, failed. -/
theorem foldl_failWith_failed (st : Nat) (c : Cmd) : ∀ (l : List Cmd) (d : Device),
    (∃ x, d.cmd c.tag = some x ∧ (x.failure.isSome = true ∨ c ∈ l)) →
    ∃ x, (l.foldl (fun d a => d.failWith a.tag st) d).cmd c.tag = some x ∧ x.failure.isSome = true
  | [], _, ⟨x, hx, hf⟩ => ⟨x, hx, hf.resolve_right List.not_mem_nil⟩
  | a :: l, d, ⟨x, hx, hf⟩ => by
    refine foldl_failWith_failed st c l (d.failWith a.tag st) ?_
    obtain ⟨y, hy, hstay⟩ := (FailuresStay.failCmd c.tag d a.tag st 0 0xFF).some x hx
    rcases hf with hf | hf
    · exact ⟨y, hy, .inl (hstay hf)⟩
    · rcases List.mem_cons.1 hf with rfl | hl
      · obtain ⟨z, hz, hzf⟩ := failCmd_failed d c.tag st 0 0xFF x hx
        exact ⟨z, hz, .inl hzf⟩
      · exact ⟨y, hy, .inr hl⟩

/-- A command that runs and uses the port fails with the far-tier status. -/
theorem runs_farTierTimeout {p : Fin 2} {tag : Nat} {s : State} {c : Cmd} (hc : s.dev.cmd tag = some c) (hr : c.running = true)
    (hu : c.usesPort s.dev p.val = true) :
    ∃ d x, Runs (.farTierTimeout p tag) s d ∧ d.cmd tag = some x ∧ x.failure = some ⟨csFarTier, 0, 0xFF⟩ := by
  have hsound : c.failure = none := by
    simp only [Cmd.running, Bool.and_eq_true, Option.isNone_iff_eq_none] at hr
    exact hr.1
  have hd : s.dev.farTimeout p.val tag = s.dev.failWith tag csFarTier := by simp only [Device.farTimeout, hc, hr, hu, Bool.and_self, if_true]
  obtain ⟨x, hx, hf⟩ := failCmd_status s.dev tag csFarTier 0 0xFF c hc hsound (by decide)
  exact ⟨_, x, runs_of_eq rfl hd, hx, hf⟩

/-- A populated port that goes down is out of service, and takes with it every command that uses it. -/
theorem runs_farTierLinkDown {p : Fin 2} {s : State} (hp : s.dev.farState[p.val]?.getD 0 = 1) :
    ∃ d, Runs (.farTierLinkDown p) s d ∧ d.farState[p.val]?.getD 0 = 2 ∧
      ∀ c, c ∈ s.dev.cmds → s.dev.cmd c.tag = some c → c.usesPort s.dev p.val = true → ∃ x, d.cmd c.tag = some x ∧ x.failure.isSome = true := by
  refine ⟨_, rfl, ?_⟩
  simp only [Device.farDown, hp, if_true]
  refine ⟨?_, fun c hmem hc hu => ?_⟩
  · rw [Vector.getElem?_setIfInBounds_self_of_lt p.isLt, Option.getD_some]
  refine foldl_failWith_failed csFarTier c _ s.dev ⟨c, hc, ?_⟩
  cases hf : c.failure with
  | some f => exact .inl rfl
  | none => exact .inr (List.mem_filter.2 ⟨hmem, by simp [hf, hu]⟩)

/-- Settles O42: grants by the tokens there are, the turn by the order of the search, and the far tier by the failures it spreads. -/
theorem tokensAndFarTier : Obligations.TokensAndFarTier := by
  unfold Obligations.TokensAndFarTier
  refine ⟨fun k s w hw => ⟨runs_inboundTokenGrant_short hw, fun henough => ?grant⟩, fun b w hw => ?turn,
    fun _ _ _ _ => runs_farTierTimeout, fun _ _ => runs_farTierLinkDown⟩
  case grant =>
    obtain ⟨d, hruns, hbay⟩ := runs_inboundTokenGrant_served hw henough
    refine ⟨d, hruns, by rw [hbay], by rw [hbay], fun hone => ?_, fun hmore => ?_⟩
    · rw [hbay]; exact if_pos hone
    · rw [hbay]; exact if_neg (Nat.not_le.2 hmore)
  case turn =>
    obtain ⟨hmem, j, hj, hfirst⟩ := Bay.nextWait_spec hw
    exact ⟨hmem, fun i hi hx => ⟨j, hfirst i hi hx, hj⟩⟩

end Sys2Proof.Machine
end

section
/-! PROOF. Rung 2 of a bay: what begins it, what ends it, and what takes the bay out of service (R206, R334, R351, R355, R357, R358, R360). -/

namespace Sys2Proof.Machine

/-- The block with other records in its error queue. -/
def Device.withErrors (d : Device) (es : List ErrRec) : Device := d.withSafety fun s => { s with errors := es }

/-! ### What tells which commands use a bay (R357) -/

/-- `d` has from `d0` the commands, the time, what tells which bays they use, and the states of the bays but `k`. -/
structure UsesStay (k : Nat) (d0 d : Device) : Prop where
  cmds : d.cmds = d0.cmds
  now : d.now = d0.now
  power : d.power = d0.power
  vals : d.dict.vals = d0.dict.vals
  mem : d.mem = d0.mem
  ports : d.ports = d0.ports
  farCap : d.farCap = d0.farCap
  farState : d.farState = d0.farState
  beacon : d.safety.beacon = d0.safety.beacon
  states : ∀ j, j ≠ k → (d.bay j).state = (d0.bay j).state

namespace UsesStay

variable {k : Nat} {a b c d d0 : Device}

theorem refl (k : Nat) (d : Device) : UsesStay k d d := ⟨rfl, rfl, rfl, rfl, rfl, rfl, rfl, rfl, rfl, fun _ _ => rfl⟩

theorem trans (h : UsesStay k a b) (g : UsesStay k b c) : UsesStay k a c :=
  ⟨g.cmds.trans h.cmds, g.now.trans h.now, g.power.trans h.power, g.vals.trans h.vals, g.mem.trans h.mem, g.ports.trans h.ports,
    g.farCap.trans h.farCap, g.farState.trans h.farState, g.beacon.trans h.beacon, fun j hj => (g.states j hj).trans (h.states j hj)⟩

/-- A change of bay `k` alone. -/
theorem modBay (f : Bay → Bay) : UsesStay k d (d.modBay k f) :=
  ⟨rfl, rfl, rfl, rfl, rfl, rfl, rfl, rfl, rfl, fun _ hj => congrArg Bay.state (Device.bay_modBay_other _ hj f)⟩

theorem count (a n : Nat) : UsesStay k d (d.count a n) := ⟨rfl, rfl, rfl, rfl, rfl, rfl, rfl, rfl, rfl, fun _ _ => rfl⟩

theorem emberAdd (n : Nat) : UsesStay k d (Machine.emberAdd d n) := ⟨rfl, rfl, rfl, rfl, rfl, rfl, rfl, rfl, rfl, fun _ _ => rfl⟩

theorem retireTile (p : Nat) : UsesStay k d (d.retireTile k p) :=
  ⟨rfl, rfl, rfl, rfl, rfl, rfl, rfl, rfl, rfl, fun _ hj => congrArg Bay.state (Device.bay_setBay_other _ hj _)⟩

theorem withErrors (es : List ErrRec) : UsesStay k d (d.withErrors es) :=
  ⟨rfl, rfl, rfl, rfl, rfl, rfl, rfl, rfl, rfl, fun _ _ => rfl⟩

theorem usesBay_eq (h : UsesStay k d0 d) (c : Cmd) (j : Nat) : c.usesBay d j = c.usesBay d0 j := by
  have hd : d = { d with
      power := d0.power, dict := { d.dict with vals := d0.dict.vals }, mem := d0.mem, ports := d0.ports
      farCap := d0.farCap, farState := d0.farState, safety := { d.safety with beacon := d0.safety.beacon } } := by
    rw [← h.power, ← h.vals, ← h.mem, ← h.ports, ← h.farCap, ← h.farState, ← h.beacon]
  rw [hd]
  rfl

theorem resetBegun (h : UsesStay k d0 d) {e : Device} (hb : ResetBegun d e k) : ResetBegun d0 e k :=
  hb.of_like (fun c => h.usesBay_eq c k) h.now h.cmds h.states

theorem bayGone (h : UsesStay k d0 d) {e : Device} (hb : BayGone d e k) : BayGone d0 e k :=
  hb.of_like (fun c => h.usesBay_eq c k) h.cmds h.states

end UsesStay

/-! ### The bay that is reset, or leaves service -/

theorem Device.bayOut_of_closed {d : Device} {k : Nat} (h : (d.bay k).closed = false) : d.bayOut k = false := by
  simp only [Bay.closed, Bool.or_eq_false_iff] at h
  exact h.1

theorem Device.bayOut_of_reset {d : Device} {k : Nat} (h : (d.bay k).state = .reset) : d.bayOut k = false := by
  unfold Device.bayOut
  rw [h]
  rfl

/-- Rung 2 keeps the bay's retired list. -/
theorem Device.bayReset_retired {d : Device} {k : Nat} (hk : k < 8) (ho : d.bayOut k = false) (cause : Nat) (w : Blame) :
    ((d.bayReset k cause w).bay k).retired = (d.bay k).retired := by
  have hbays : (d.bayReset k cause w).bays = ((((d.failBay k cause).clearTiles k).clearSram k).modBay k fun b =>
      { b.booksFull with state := .reset, takeOver := none, nesting := max 1 (d.bay k).nesting, resetEnd := d.now + 2000000 }).bays := by
    simp only [Device.bayReset, ho, Bool.false_eq_true, if_false, Device.rungSeen_bays, Device.logEvent_bays, Device.modPort_bays]
  rw [Device.bay_of_bays hbays, Device.bay_modBay_same _ hk]
  exact congrArg (·.2.2.2) (Device.failBay_core d k cause k)

/-- So does going out of service. -/
theorem Device.outOfService_retired {d : Device} {k : Nat} (hk : k < 8) (reason : Nat) (w : Blame) :
    ((d.outOfService k reason w).bay k).retired = (d.bay k).retired := by
  unfold Device.outOfService
  split
  · rfl
  · dsimp only
    rw [Device.bay_of_bays (Device.alert_bays _ _), Device.bay_of_bays (Device.logEvent_bays _ _), Device.bay_of_bays (Device.stopPort_bays _ _),
      Device.bay_modBay_same _ hk]
    exact congrArg (·.2.2.2) (Device.failBay_core d k _ k)

/-- Going out of service leaves the error queue as it is. -/
theorem Device.outOfService_errors (d : Device) (k reason : Nat) (w : Blame) : (d.outOfService k reason w).safety.errors = d.safety.errors := by
  unfold Device.outOfService
  split
  · rfl
  · dsimp only
    rw [Device.alert_safety, Device.logEvent_safety, Device.stopPort_safety]
    exact (OnlySends.failBay d k _).errors

/-- A detection in a bay under no handling begins rung 2 (R355), and counts nothing. -/
theorem Device.bayDetected_begun {d : Device} {k : Nat} (hk : k < 8) (ho : d.bayOut k = false) (hn : (d.bay k).nesting = 0)
    (cause mech tag : Nat) (extra : List Byte) :
    ResetBegun d (d.bayDetected k cause mech tag extra) k ∧ OnlySends d (d.bayDetected k cause mech tag extra) := by
  unfold Device.bayDetected
  simp only [hn, if_true]
  have hout : (d.modBay k fun b => { b with nesting := b.nesting + 1 }).bayOut k = false := by
    unfold Device.bayOut
    rw [Device.bay_modBay_same _ hk]
    exact ho
  exact ⟨(UsesStay.modBay _).resetBegun (Device.bayReset_begun _ k cause _ hk hout),
    (OnlySends.of_safety (Device.modBay_safety d k _)).trans (OnlySends.bayReset _ k cause _)⟩

/-! ### BAY_REINIT and HANDSHAKE_STALL (R334, R357) -/

theorem runs_bayReinit {k : Fin 8} {cause : Nat} {s : State} (hc : (s.dev.bay k.val).closed = false) (hs : (s.dev.bay k.val).state ≠ .reset) :
    Runs (.bayReinit k cause) s (s.dev.bayReset k.val cause (reinitBlame cause)) :=
  runs_of_eq rfl (by simp [hc, hs])

/-- A stalled handshake in a bay under no handling is counted, and begins rung 2. -/
theorem runs_handshakeStall {k : Fin 8} {s : State} (hc : (s.dev.bay k.val).closed = false) (hn : (s.dev.bay k.val).nesting = 0) :
    ∃ d, Runs (.handshakeStall k) s d ∧ ResetBegun s.dev d k.val ∧ d.counter 0x80A006 = stopAdd 64 (s.dev.counter 0x80A006) 1 := by
  have ho := Device.bayOut_of_closed hc
  obtain ⟨d, hd, hlike, hsafety, hbay⟩ : ∃ d, s.dev.stall k.val = d.bayDetected k.val 0x04 9 0xFFFF [] ∧ UsesStay k.val s.dev d ∧
      d.safety = (s.dev.count 0x80A006 1).safety ∧ d.bay k.val = s.dev.bay k.val := by
    unfold Device.stall Device.wedged
    simp only [hc, Bool.false_eq_true, if_false]
    rw [if_neg (by rw [show (s.dev.count 0x80A006 1).bayOut k.val = false from ho]; exact Bool.false_ne_true)]
    split
    · exact ⟨_, rfl, (UsesStay.count _ _).trans (UsesStay.emberAdd 1), rfl, rfl⟩
    · exact ⟨_, rfl, UsesStay.count _ _, rfl, rfl⟩
  have hout : d.bayOut k.val = false := by unfold Device.bayOut; rw [hbay]; exact ho
  obtain ⟨hbegun, hsends⟩ := Device.bayDetected_begun k.isLt hout (by rw [hbay]; exact hn) 0x04 9 0xFFFF []
  refine ⟨_, runs_of_eq rfl hd, hlike.resetBegun hbegun, ?_⟩
  rw [hsends.counters _ (by decide)]
  unfold Device.counter
  rw [hsafety]
  exact Device.counter_count_same s.dev _ _

/-! ### ERROR_RECORD_HANDLE at rung 2 (R206, R351, R358, R360) -/

section Record

variable {d : Device} {e : ErrRec} {rest : List ErrRec} (he : d.safety.errors = e :: rest) (hb : d.bayOut e.bay = false)
include he hb

/-- A double error in a die buffer of a bay under no handling resets the bay. -/
theorem Device.handleErrorNow_of_dieDouble {b : Fin 8} (hf : e.found = .dieDouble b) (hn : e.nesting = 0) (hs : (d.bay e.bay).state ≠ .reset) :
    d.handleErrorNow = (d.withErrors rest).bayReset e.bay 0x01 ⟨8, 0, e.tag, []⟩ := by
  have hout : (d.withErrors rest).bayOut e.bay = false := hb
  have hfresh : ¬(1 ≤ e.nesting ∨ ((d.withErrors rest).bay e.bay).state = .reset) := by
    rw [hn]
    exact not_or.2 ⟨by decide, hs⟩
  simp only [Device.withErrors] at hout hfresh ⊢
  simp only [Device.handleErrorNow, he, hout, if_neg hfresh, Bool.false_eq_true, if_false, hf, detMech]

/-- A detection in a bay under handling is nested. -/
theorem Device.handleErrorNow_of_nested (hn : 1 ≤ e.nesting) : d.handleErrorNow = (d.withErrors rest).nestedError e := by
  have hout : (d.withErrors rest).bayOut e.bay = false := hb
  simp only [Device.withErrors] at hout ⊢
  simp only [Device.handleErrorNow, he, hout, hn, Bool.false_eq_true, if_false, true_or, if_true]

end Record

/-- A second detection that blames a tile retires it, and begins rung 2 where a spare slate is left for it. -/
theorem Device.nestedError_of_tile {d d1 : Device} {e : ErrRec} (hk : e.bay < 8) (hf : detBlamesTile e.found = true) (hn : e.nesting = 1)
    (hs : (d.bay e.bay).state ≠ .reset) (hd1 : d1 = d.retireTile e.bay ((d.bay e.bay).physOf e.tile)) :
    ∃ w, d.nestedError e = if (d1.bay e.bay).lacksSpare then d1.outOfService e.bay 0 w else d1.bayReset e.bay 0x05 w := by
  have hstate : (d1.bay e.bay).state ≠ .reset := by
    rw [hd1, Device.retireTile_bay _ hk]
    exact hs
  refine ⟨⟨detMech e.found, e.nesting, e.tag, []⟩, ?_⟩
  simp only [Device.nestedError, hf, if_true, ← hd1, Device.escalateBay, beq_eq_false_iff_ne.2 hstate, Bool.false_or, hn, (by decide : ¬2 ≤ 1),
    decide_false, Bool.false_eq_true, if_false]

/-- The tile's bay is reset, or leaves service for want of a spare slate; the tile is retired either way. -/
theorem Device.nestedError_ends {d : Device} {e : ErrRec} (hk : e.bay < 8) (hb : d.bayOut e.bay = false) (hf : detBlamesTile e.found = true)
    (hn : e.nesting = 1) (hs : (d.bay e.bay).state ≠ .reset) :
    let p := (d.bay e.bay).physOf e.tile
    let short := ((d.retireTile e.bay p).bay e.bay).lacksSpare
    p ∈ ((d.nestedError e).bay e.bay).retired ∧ (d.nestedError e).safety.errors = d.safety.errors ∧
      (short = false → ResetBegun d (d.nestedError e) e.bay) ∧ (short = true → BayGone d (d.nestedError e) e.bay) := by
  intro p short
  obtain ⟨w, hd⟩ := Device.nestedError_of_tile hk hf hn hs rfl
  have hlike : UsesStay e.bay d (d.retireTile e.bay p) := UsesStay.retireTile p
  have hmem : p ∈ ((d.retireTile e.bay p).bay e.bay).retired := by
    rw [Device.retireTile_bay _ hk]
    exact Bay.mem_retire _ _
  have hout : (d.retireTile e.bay p).bayOut e.bay = false := by
    unfold Device.bayOut
    rw [Device.retireTile_bay _ hk]
    exact hb
  cases hshort : short with
  | false =>
    rw [if_neg (by rw [show ((d.retireTile e.bay p).bay e.bay).lacksSpare = false from hshort]; exact Bool.false_ne_true)] at hd
    rw [hd, Device.bayReset_retired hk hout]
    exact ⟨hmem, (OnlySends.bayReset _ _ _ _).errors, fun _ => hlike.resetBegun (Device.bayReset_begun _ _ _ _ hk hout), fun h => absurd h Bool.false_ne_true⟩
  | true =>
    rw [if_pos hshort] at hd
    rw [hd, Device.outOfService_retired hk]
    exact ⟨hmem, Device.outOfService_errors _ _ _ _, fun h => absurd h.symm Bool.false_ne_true,
      fun _ => hlike.bayGone (Device.outOfService_gone _ _ _ _ hk hout)⟩

/-! ### BAY_REINIT_END (R357, R358) -/

theorem Bay.placeNumber_state (b : Bay) (t : Nat) : (b.placeNumber t).state = b.state := by
  unfold Bay.placeNumber
  split <;> rfl

theorem Bay.foldl_placeNumber_state : ∀ (l : List Nat) (b : Bay), (l.foldl Bay.placeNumber b).state = b.state
  | [], _ => rfl
  | t :: l, b => (Bay.foldl_placeNumber_state l (b.placeNumber t)).trans (b.placeNumber_state t)

/-- A bay in reset returns to run. -/
def Bay.backToRun (b : Bay) : Bay :=
  if b.state = .reset then { b with state := .run, nesting := 0, resetEnd := 0, paused := [], retries := [] } else b

theorem Bay.backToRun_of_reset {b : Bay} (h : b.state = .reset) : b.backToRun.state = .run ∧ b.backToRun.nesting = 0 ∧ b.backToRun.resetEnd = 0 := by
  rw [Bay.backToRun, if_pos h]
  exact ⟨rfl, rfl, rfl⟩

@[simp] theorem Bay.backToRun_retired (b : Bay) : b.backToRun.retired = b.retired := by unfold Bay.backToRun; split <;> rfl

@[simp] theorem Bay.backToRun_physOf (b : Bay) (t : Nat) : b.backToRun.physOf t = b.physOf t := by unfold Bay.backToRun; split <;> rfl

/-- A change that leaves its bay as it is changes nothing. -/
theorem Device.modBay_of_fixed {d : Device} {k : Nat} {f : Bay → Bay} (hk : k < 8) (h : f (d.bay k) = d.bay k) : d.modBay k f = d := by
  unfold Device.modBay Device.setBay
  rw [h]
  have : d.bays.setIfInBounds k (d.bay k) = d.bays := by
    refine Vector.ext fun i hi => ?_
    rw [Vector.getElem_setIfInBounds]
    split
    · next hki => subst hki; simp [Device.bay, hk]
    · rfl
  rw [this]

/-- Two changes of a bay are one. -/
theorem Device.modBay_modBay (d : Device) {k : Nat} (hk : k < 8) (f g : Bay → Bay) : (d.modBay k f).modBay k g = d.modBay k fun b => g (f b) := by
  have hbay := d.bay_modBay_same hk f
  simp only [Device.modBay] at hbay ⊢
  rw [hbay]
  simp only [Device.setBay, Vector.setIfInBounds_setIfInBounds]

section ReinitEnd

variable {d : Device} {k : Nat} (hs : (d.bay k).state = .reset)
include hs

theorem Device.bayReinitEnd_untrained (fs : List Nat) (p : Bool) : d.bayReinitEnd k ⟨fs, p, false⟩ = d.outOfService k 2 {} := by
  simp [Device.bayReinitEnd, hs]

theorem Device.bayReinitEnd_trained : d.bayReinitEnd k ⟨[], false, true⟩ = (d.renumber k).modBay k Bay.backToRun := by
  simp only [Device.bayReinitEnd, hs, ne_eq, not_true_eq_false, if_false, Bool.not_true, Bool.false_eq_true, List.foldl_nil]
  rfl

end ReinitEnd

/-- A bay whose spare slates suffice returns to run, its numbers on no retired tile. -/
theorem runs_bayReinitEnd_placed {k : Fin 8} {s : State} (hs : (s.dev.bay k.val).state = .reset) (hspare : (s.dev.bay k.val).lacksSpare = false) :
    Runs (.bayReinitEnd k ⟨[], false, true⟩) s (s.dev.modBay k.val fun b => (b.unplaced.foldl Bay.placeNumber b).backToRun) := by
  refine runs_of_eq rfl ?_
  rw [Device.bayReinitEnd_trained hs, Device.renumber, if_neg (by rw [hspare]; exact Bool.false_ne_true)]
  exact Device.modBay_modBay s.dev k.isLt _ _

/-- Where they do not suffice, or the interfaces did not train, it leaves service. -/
theorem runs_bayReinitEnd_short {k : Fin 8} {s : State} (hs : (s.dev.bay k.val).state = .reset) (hspare : (s.dev.bay k.val).lacksSpare = true) :
    Runs (.bayReinitEnd k ⟨[], false, true⟩) s (s.dev.outOfService k.val 0 {}) := by
  have hgone : ((s.dev.outOfService k.val 0 {}).bay k.val).state = .out :=
    (Device.outOfService_gone s.dev k.val 0 {} k.isLt (Device.bayOut_of_reset hs)).state
  refine runs_of_eq rfl ?_
  rw [Device.bayReinitEnd_trained hs, Device.renumber, if_pos hspare]
  exact Device.modBay_of_fixed k.isLt (by simp [Bay.backToRun, hgone])

theorem runs_bayReinitEnd_untrained {k : Fin 8} {s : State} (hs : (s.dev.bay k.val).state = .reset) (fs : List Nat) (p : Bool) :
    Runs (.bayReinitEnd k ⟨fs, p, false⟩) s (s.dev.outOfService k.val 2 {}) :=
  runs_of_eq rfl (Device.bayReinitEnd_untrained hs fs p)

/-- Settles O33: each beginning of rung 2 is a reset of the bay, each end returns it to run or takes it out of service. -/
theorem rungTwoClearsTheBay : Obligations.RungTwoClearsTheBay := by
  unfold Obligations.RungTwoClearsTheBay
  refine ⟨fun k cause s hc hs => ?reinit, fun k s => runs_handshakeStall, fun s e rest b he hk hf hn hb hs => ?dieDouble,
    fun s e rest he hk hf hn hb hs => ?nested, fun k s hs => ⟨fun hspare => ?placed, fun hspare => ?short, fun fs p => ?untrained⟩⟩
  case reinit => exact ⟨_, runs_bayReinit hc hs, Device.bayReset_begun _ _ _ _ k.isLt (Device.bayOut_of_closed hc)⟩
  case dieDouble =>
    refine ⟨_, runsWhole_of_whole (exec_errorRecordHandle s) (Device.handleErrorNow_of_dieDouble he hb hf hn hs), ?_, ?_⟩
    · exact (UsesStay.withErrors rest).resetBegun (Device.bayReset_begun _ _ _ _ hk hb)
    · exact (OnlySends.bayReset _ _ _ _).errors
  case nested =>
    obtain ⟨hmem, herrors, hreset, hgone⟩ := Device.nestedError_ends (d := s.dev.withErrors rest) hk hb hf hn hs
    exact ⟨_, runsWhole_of_whole (exec_errorRecordHandle s) (Device.handleErrorNow_of_nested he hb (Nat.le_of_eq hn.symm)), hmem, herrors,
      fun h => (UsesStay.withErrors rest).resetBegun (hreset h), fun h => (UsesStay.withErrors rest).bayGone (hgone h)⟩
  case placed =>
    have hbay := Device.bay_modBay_same s.dev k.isLt fun b => (b.unplaced.foldl Bay.placeNumber b).backToRun
    obtain ⟨hrun, hnesting, hend⟩ := Bay.backToRun_of_reset ((Bay.foldl_placeNumber_state (s.dev.bay k.val).unplaced _).trans hs)
    rw [← hbay] at hrun hnesting hend
    refine ⟨_, runs_bayReinitEnd_placed hs hspare, hrun, hnesting, hend, rfl, rfl, fun hlen hgood t ht => ?_⟩
    rw [hbay, Bay.backToRun_physOf, Bay.backToRun_retired]
    exact (s.dev.bay k.val).unplaced_placed hlen hgood hspare t ht
  case short => exact ⟨_, runs_bayReinitEnd_short hs hspare, Device.outOfService_gone _ _ _ _ k.isLt (Device.bayOut_of_reset hs)⟩
  case untrained =>
    exact ⟨_, runs_bayReinitEnd_untrained hs fs p, Device.outOfService_gone _ _ _ _ k.isLt (Device.bayOut_of_reset hs)⟩

end Sys2Proof.Machine
end

section
/-! PROOF. Rows of the stacks: corrected errors, remapping, and STORE steps that meet a paused row (R210, R213, R214, R217, R218). -/

namespace Sys2Proof.Machine

/-! ### A corrected error is counted (R210, R214) -/

/-- The block after a corrected error of a row is counted. -/
def Device.errorCounted (d : Device) (k pc row : Nat) : Device :=
  (d.count 0x805001 1).modBay k fun b => { b with rowErrors := b.rowErrors.upd 0 (rowKey pc row) (· + 1) }

/-- An error of the row is counted between `d0` and `d`, by bay and device, and the bay's table is as before. -/
structure ErrorKept (k pc row : Nat) (d0 d : Device) : Prop where
  rowErrors : (d.bay k).rowErrors.get 0 (rowKey pc row) = (d0.bay k).rowErrors.get 0 (rowKey pc row) + 1
  counter : d.counter 0x805001 = stopAdd 64 (d0.counter 0x805001) 1
  remaps : (d.bay k).remaps = (d0.bay k).remaps

/-- What keeps row errors, table and counters keeps the error. -/
theorem ErrorKept.step {k pc row : Nat} {d e e' : Device} (h : ErrorKept k pc row d e) (herrors : (e'.bay k).rowErrors = (e.bay k).rowErrors)
    (hremaps : (e'.bay k).remaps = (e.bay k).remaps) (hcounters : e'.safety.counters = e.safety.counters) : ErrorKept k pc row d e' :=
  ⟨by rw [herrors]; exact h.rowErrors, by unfold Device.counter; rw [hcounters]; exact h.counter, hremaps.trans h.remaps⟩

/-! ### What the error leads to at the threshold (R213, R214, R217) -/

section CorrectedError

variable {d : Device} {k : Nat} (hk : k < 8) {pc row : Nat}

theorem Device.memoryEvent_bay (d : Device) (k pc row first lost kind j : Nat) : (d.memoryEvent k pc row first lost kind).bay j = d.bay j :=
  Device.bay_of_bays (Device.logEvent_bays _ _) j

theorem Device.memoryEvent_safety (d : Device) (k pc row first lost kind : Nat) : (d.memoryEvent k pc row first lost kind).safety = d.safety :=
  Device.logEvent_safety _ _

include hk

theorem Device.errorCounted_bay :
    (d.errorCounted k pc row).bay k = { d.bay k with rowErrors := (d.bay k).rowErrors.upd 0 (rowKey pc row) (· + 1) } :=
  Device.bay_modBay_same (d.count 0x805001 1) hk _

theorem ErrorKept.errorCounted : ErrorKept k pc row d (d.errorCounted k pc row) := by
  refine ⟨?_, Device.counter_count_same d _ _, ?_⟩
  · rw [Device.errorCounted_bay hk]
    exact Store.get_put_same
  · rw [Device.errorCounted_bay hk]

/-- The bay of a reserve row that is not taken any more. -/
theorem Device.rowUnusable_bay : (d.rowUnusable k pc row).bay k =
    if row < 62436 ∨ (d.bay k).badReserve.contains (pc, row) then d.bay k
    else { d.bay k with badReserve := (pc, row) :: (d.bay k).badReserve, remapDirty := some ((d.bay k).remapDirty.getD d.now) } := by
  unfold Device.rowUnusable
  split
  · rfl
  · rw [Device.bay_of_bays (Device.touch_bays _ _), Device.bay_modBay_same _ hk]

omit hk in
theorem Device.rowUnusable_counters : (d.rowUnusable k pc row).safety.counters = d.safety.counters := by
  unfold Device.rowUnusable
  split <;> rfl

/-- What a corrected error leads to: nothing, an unusable reserve row, a pause, or a record that no reserve row is free. -/
theorem Device.correctedError_eq : d.correctedError k pc row =
    if (d.bay k).rowErrors.get 0 (rowKey pc row) + 1 < d.setting 0x502001 ∨ (d.bay k).paused.contains (pc, row) then d.errorCounted k pc row
    else if (d.bay k).rowInUse pc row = false then (d.errorCounted k pc row).rowUnusable k pc row
    else if ((d.bay k).freeReserve pc).isSome then
      ((d.errorCounted k pc row).modBay k fun b => { b with paused := b.paused ++ [(pc, row)] }).rungSeen 1
    else (d.errorCounted k pc row).memoryEvent k pc row 0 0 3 := by
  have herrors := (ErrorKept.errorCounted (d := d) hk (pc := pc) (row := row)).rowErrors
  have hbay := Device.errorCounted_bay (d := d) hk (pc := pc) (row := row)
  have hpaused : ((d.errorCounted k pc row).bay k).paused = (d.bay k).paused := by rw [hbay]
  have huse : ((d.errorCounted k pc row).bay k).rowInUse pc row = (d.bay k).rowInUse pc row := by rw [hbay]; rfl
  have hfree : ((d.errorCounted k pc row).bay k).freeReserve pc = (d.bay k).freeReserve pc := by rw [hbay]; rfl
  unfold Device.correctedError
  change (if ((d.errorCounted k pc row).bay k).rowErrors.get 0 (rowKey pc row) < d.setting 0x502001 ∨
    ((d.errorCounted k pc row).bay k).paused.contains (pc, row) then _ else if (!(((d.errorCounted k pc row).bay k).rowInUse pc row)) = true then _ else _) = _
  rw [herrors, hpaused, huse]
  refine ite_congr rfl (fun _ => rfl) fun _ => ite_congr (propext (by rw [Bool.not_eq_true'])) (fun _ => rfl) fun _ => ?_
  split
  · next r hr => rw [if_pos (Option.isSome_of_mem (hfree.symm.trans hr))]; rfl
  · next hr => rw [if_neg (by rw [hfree.symm.trans hr]; exact Bool.false_ne_true)]; rfl

/-- Every corrected error is counted, and moves no entry of the table. -/
theorem ErrorKept.correctedError : ErrorKept k pc row d (d.correctedError k pc row) := by
  have hcounted : ErrorKept k pc row d (d.errorCounted k pc row) := ErrorKept.errorCounted hk
  rw [Device.correctedError_eq hk]
  split
  · exact hcounted
  split
  · refine hcounted.step ?_ ?_ Device.rowUnusable_counters <;> rw [Device.rowUnusable_bay hk] <;> split <;> rfl
  split
  · have hpause := Device.bay_modBay_same (d.errorCounted k pc row) hk fun b => { b with paused := b.paused ++ [(pc, row)] }
    exact hcounted.step (by rw [Device.bay_of_bays (Device.rungSeen_bays _ _), hpause]) (by rw [Device.bay_of_bays (Device.rungSeen_bays _ _), hpause]) rfl
  · exact hcounted.step (by rw [Device.memoryEvent_bay]) (by rw [Device.memoryEvent_bay]) (by rw [Device.memoryEvent_safety])

/-- Below the threshold no access is paused. -/
theorem Device.correctedError_paused_below (hn : (d.bay k).rowErrors.get 0 (rowKey pc row) + 1 < d.setting 0x502001) :
    ((d.correctedError k pc row).bay k).paused = (d.bay k).paused := by
  rw [Device.correctedError_eq hk, if_pos (.inl hn), Device.errorCounted_bay hk]

section AtThreshold

variable (hn : d.setting 0x502001 ≤ (d.bay k).rowErrors.get 0 (rowKey pc row) + 1) (hp : (pc, row) ∉ (d.bay k).paused)
include hn hp

omit hk in
theorem Device.not_quiet_of_threshold :
    ¬((d.bay k).rowErrors.get 0 (rowKey pc row) + 1 < d.setting 0x502001 ∨ (d.bay k).paused.contains (pc, row) = true) := by
  rw [List.contains_iff_mem]
  exact not_or.2 ⟨Nat.not_lt.2 hn, hp⟩

/-- At the threshold a row in use is paused where a reserve row is free. -/
theorem Device.correctedError_paused_free (hu : (d.bay k).rowInUse pc row = true) (hf : ((d.bay k).freeReserve pc).isSome = true) :
    ((d.correctedError k pc row).bay k).paused = (d.bay k).paused ++ [(pc, row)] := by
  rw [Device.correctedError_eq hk, if_neg (Device.not_quiet_of_threshold hn hp), if_neg (by simp [hu]), if_pos hf, Device.bay_of_bays (Device.rungSeen_bays _ _),
    Device.bay_modBay_same _ hk, Device.errorCounted_bay hk]

/-- Where none is free, the row goes on serving. -/
theorem Device.correctedError_paused_full (hu : (d.bay k).rowInUse pc row = true) (hf : (d.bay k).freeReserve pc = none) :
    ((d.correctedError k pc row).bay k).paused = (d.bay k).paused := by
  rw [Device.correctedError_eq hk, if_neg (Device.not_quiet_of_threshold hn hp), if_neg (by simp [hu]), if_neg (by simp [hf]), Device.memoryEvent_bay,
    Device.errorCounted_bay hk]

/-- A row not in use is not paused; a reserve row becomes unusable. -/
theorem Device.correctedError_unused (hu : (d.bay k).rowInUse pc row = false) :
    ((d.correctedError k pc row).bay k).paused = (d.bay k).paused ∧ (62436 ≤ row → (pc, row) ∈ ((d.correctedError k pc row).bay k).badReserve) := by
  rw [Device.correctedError_eq hk, if_neg (Device.not_quiet_of_threshold hn hp), if_pos hu, Device.rowUnusable_bay hk, Device.errorCounted_bay hk]
  split
  · next hbad =>
    refine ⟨rfl, fun hr => ?_⟩
    exact List.contains_iff_mem.1 (hbad.resolve_left (Nat.not_lt.2 hr))
  · exact ⟨rfl, fun _ => List.mem_cons_self⟩

end AtThreshold

end CorrectedError

theorem runs_rowRemap {k : Fin 8} {pc : Fin 64} {row : Nat} {s : State} (hc : (s.dev.bay k.val).closed = false) (hrow : row < 62500) :
    Runs (.rowRemap k pc row) s (s.dev.correctedError k.val pc.val row) := by
  refine runs_of_eq rfl (if_neg ?_)
  rw [hc]
  exact not_or.2 ⟨Bool.false_ne_true, Nat.not_le.2 hrow⟩

/-! ### The row that moves (R213, R217) -/

section MoveRow

variable {b : Bay} {pc row r : Nat} (now : Nat)

/-- A row that no entry names as its reserve row gets a new entry. -/
theorem Bay.moveRow_source (h : ∀ e, e ∈ b.remaps → e.pc = pc → e.reserve ≠ row) : (b.moveRow pc row r now).remaps = b.remaps ++ [⟨pc, row, r⟩] := by
  have hnone : (b.remaps.any fun e => e.pc == pc && e.reserve == row) = false := by
    simpa [List.any_eq_false] using h
  simp only [Bay.moveRow, hnone, Bool.false_eq_true, if_false]

/-- A reserve row in use has its own entry rewritten, and becomes unusable (R217). -/
theorem Bay.moveRow_reserve (h : (b.remaps.any fun e => e.pc == pc && e.reserve == row) = true) :
    (b.moveRow pc row r now).remaps = (b.remaps.map fun e => if e.pc = pc ∧ e.reserve = row then { e with reserve := r } else e) ∧
      (pc, row) ∈ (b.moveRow pc row r now).badReserve := by
  simp only [Bay.moveRow, h, if_true]
  exact ⟨trivial, List.mem_cons_self⟩

/-- The last entry of a table that has no other for the row says where the row is kept. -/
theorem Bay.physRow_of_append {es : List Remap} (hb : b.remaps = es ++ [⟨pc, row, r⟩]) (h : (es.any fun e => e.pc == pc && e.row == row) = false) :
    b.physRow pc row = r := by
  have hnone : es.find? (fun e => e.pc == pc && e.row == row) = none := by
    rw [List.find?_eq_none]
    exact fun e he => by simpa using List.any_eq_false.1 h e he
  simp [Bay.physRow, hb, List.find?_append, hnone]

end MoveRow

section RowMoves

variable {d : Device} {k pc row r : Nat} (hk : k < 8) (hp : (pc, row) ∈ (d.bay k).paused) (hu : (d.bay k).rowInUse pc row = true)
  (hr : (d.bay k).freeReserve pc = some r)
include hp hu hr

/-- ROW_REMAP_END of a paused row in use with a free reserve row. -/
theorem Device.rowRemapEnd_eq : d.rowRemapEnd k pc row =
    ((((d.modBay k fun b => b.moveRow pc row r d.now).count 0x805003 1).touch (0x503001 + k)).modBay k fun b =>
      { b with paused := b.paused.filter (· != (pc, row)) }).memoryEvent k pc row 0 0 0 := by
  have hcan : d.canMove k pc row = true := by simp [Device.canMove, hu, hr]
  simp [Device.rowRemapEnd, Device.rowMoved, hp, hu, hr, hcan]

theorem Device.rowRemapEnd_counter : (d.rowRemapEnd k pc row).counter 0x805003 = stopAdd 64 (d.counter 0x805003) 1 := by
  unfold Device.counter
  rw [Device.rowRemapEnd_eq hp hu hr, Device.memoryEvent_safety]
  exact Device.counter_count_same (d.modBay k fun b => b.moveRow pc row r d.now) _ _

include hk

theorem Device.rowRemapEnd_bay : (d.rowRemapEnd k pc row).bay k =
    { (d.bay k).moveRow pc row r d.now with paused := ((d.bay k).moveRow pc row r d.now).paused.filter (· != (pc, row)) } := by
  rw [Device.rowRemapEnd_eq hp hu hr, Device.memoryEvent_bay, Device.bay_modBay_same _ hk, Device.bay_of_bays (Device.touch_bays _ _),
    Device.bay_of_bays (Device.count_bays _ _ _), Device.bay_modBay_same _ hk]

end RowMoves

/-! ### Tables in flash (R218) -/

/-- A table that has changed goes to flash with the unusable rows, and is marked as written. -/
theorem runs_remapTablePersist {k : Fin 8} {s : State} (h : (s.dev.bay k.val).remapDirty.isSome = true) :
    ∃ d, Runs (.remapTablePersist k) s d ∧ d.flash = { s.dev.flash with
        remaps := s.dev.flash.remaps.setIfInBounds k.val (s.dev.bay k.val).remaps
        badRows := s.dev.flash.badRows.setIfInBounds k.val (s.dev.bay k.val).badReserve } ∧
      d.bay k.val = { s.dev.bay k.val with remapDirty := none } := by
  refine ⟨_, runs_of_eq rfl (if_pos h), rfl, ?_⟩
  exact (Device.bay_of_bays rfl k.val).trans (Device.bay_modBay_same s.dev k.isLt fun b => { b with remapDirty := none })

/-! ### A STORE that meets a paused row (R214) -/

/-- Writes that are all open to the command, one of which lies in a paused row, end with that. -/
theorem writeAll_of_held : ∀ (ws : List (Nat × List Byte)) (d : Device), (∀ w, w ∈ ws → d.open' w.1 w.2.length = true ∧ d.served w.1 = true) →
    (∃ w, w ∈ ws ∧ d.held w.1 w.2.length = true) → writeAll d ws = .error csHeld
  | [], _, _, ⟨w, hw, _⟩ => absurd hw List.not_mem_nil
  | (a, bs) :: ws, d, hopen, hheld => by
    obtain ⟨ho, hs⟩ := hopen _ List.mem_cons_self
    have hrest := fun w hw => hopen w (List.mem_cons_of_mem _ hw)
    cases hh : d.held a bs.length with
    | true =>
      have hbytes : bs.isEmpty = false := by
        cases bs with
        | nil => simp [Device.held] at hh
        | cons => rfl
      simp only [writeAll, Device.write, hbytes, ho, hs, hh, Bool.not_true, Bool.or_self, Bool.false_eq_true, if_false, if_true]
    | false =>
      have hmore : ∃ w, w ∈ ws ∧ d.held w.1 w.2.length = true := by
        obtain ⟨w, hw, hwh⟩ := hheld
        rcases List.mem_cons.1 hw with rfl | hw
        · rw [hh] at hwh
          exact absurd hwh Bool.false_ne_true
        · exact ⟨w, hw, hwh⟩
      cases hbytes : bs.isEmpty with
      | true =>
        simp only [writeAll, Device.write, hbytes, if_true]
        exact writeAll_of_held ws d hrest hmore
      | false =>
        simp only [writeAll, Device.write, hbytes, ho, hs, hh, Bool.not_true, Bool.or_self, Bool.false_eq_true, if_false]
        exact writeAll_of_held ws (d.store a bs) hrest hmore

/-- Whatever lies in a paused row, some access is paused. -/
theorem Device.pauses_of_held {d : Device} {a n : Nat} (h : d.held a n = true) : d.pauses = true := by
  simp only [Device.held, Bool.and_eq_true] at h
  exact h.1.2

/-- A command that meets a paused row is marked as waiting for it, unless it has failed already. -/
theorem Device.met_of_failWith_held {d : Device} {tag : Nat} {c : Cmd} (hc : d.cmd tag = some c) :
    d.failWith tag csHeld = d ∨ (d.failWith tag csHeld).met = true := by
  cases hf : c.failure.isSome with
  | true => exact .inl (by simp [Device.failWith, Device.failCmd, hc, hf])
  | false =>
    refine .inr ?_
    have htag := Device.cmd_tag hc
    have hmem : c ∈ d.cmds := List.mem_of_find?_eq_some hc
    rw [Device.failWith, failCmd_held d tag 0 0xFF c hc hf, Device.met, List.any_eq_true]
    refine ⟨{ c with failure := some ⟨csHeld, 0, 0xFF⟩ }, List.mem_map.2 ⟨c, hmem, by simp [htag]⟩, by simp⟩

/-- The command of a tile's piece is in flight. -/
theorem Device.cmd_of_vuWork {d : Device} {t : TileRef} {v : VuCtx} {c : Cmd} (h : d.vuWork t = some (v, c)) : d.cmd c.tag = some c := by
  unfold Device.vuWork at h
  split at h
  · split at h
    · cases h
    · split at h
      · next hc =>
        cases h
        rw [Device.cmd_tag hc]
        exact hc
      · cases h
  · cases h

/-- A step whose function meets a paused row leaves the block as it was. -/
theorem AtStep.runs_held {s : State} {t : TileRef} {op : Nat} {w : StepWord} {v : VuCtx} {c : Cmd} {i : Instr}
    {f : Device → Cmd → VuCtx → Except Nat (Device × VuCtx)} (h : AtStep s t op w v c)
    (hi : exec i s = .next { s with dev := s.dev.vuStep t op w false f }) (hf : f s.dev c v = .error csHeld) (hp : s.dev.pauses = true) : Runs i s s.dev := by
  have hnow : s.dev.vuStepNow t op w false f = s.dev.failWith c.tag csHeld := by
    simp only [Device.vuStepNow, h.work, h.unfinished, h.place, hf, bne_self_eq_false, Bool.or_self, Bool.false_eq_true, if_false]
  refine runs_of_eq hi ?_
  rw [Device.vuStep, Device.whole, hnow, hp, Bool.true_and]
  rcases Device.met_of_failWith_held (Device.cmd_of_vuWork h.work) with hsame | hmet
  · rw [hsame, ite_self]
  · rw [if_pos hmet]

theorem AtStep.runs_store_held {s : State} {t : TileRef} {w : StepWord} {v : VuCtx} {c : Cmd} {at' : Nat → Nat} {bytes : Nat → List Byte}
    (h : AtStep s t 0x31 w v c) (hfence : v.fenced ≠ 2)
    (ha : ∀ l, l ∈ v.lanes w → storeAddr s.dev c v w.stream.toNat (64 * v.group + l) = .ok (at' l))
    (hb : ∀ l, bytes l = (storeBytes (recipeCode c.entry w.stream.toNat) (v.src w l w.a)).1)
    (hopen : ∀ l, l ∈ v.lanes w → s.dev.open' (at' l) (bytes l).length = true ∧ s.dev.served (at' l) = true)
    (hheld : ∃ l, l ∈ v.lanes w ∧ s.dev.held (at' l) (bytes l).length = true) : Runs (.store t w false) s s.dev := by
  obtain ⟨l, hl, hlheld⟩ := hheld
  have hwrites : writeAll s.dev ((v.lanes w).map fun l => (at' l, bytes l)) = .error csHeld := by
    refine writeAll_of_held _ _ (fun x hx => ?_) ⟨(at' l, bytes l), List.mem_map_of_mem hl, hlheld⟩
    obtain ⟨j, hj, rfl⟩ := List.mem_map.1 hx
    exact hopen j hj
  refine h.runs_held rfl ?_ (Device.pauses_of_held hlheld)
  dsimp only
  rw [storeWrites_of_addrs ha hb]
  dsimp only
  rw [if_neg hfence, List.map_map]
  simp only [Function.comp_def, allWrites, hwrites]

/-! ### The rows of the statement -/

/-- Settles O40: a corrected error by what it leads to, the end of a remap by the row that moves, the table by its write, a STORE by its first held lane. -/
theorem rowsMoveAtTheThreshold : Obligations.RowsMoveAtTheThreshold := by
  unfold Obligations.RowsMoveAtTheThreshold
  refine ⟨fun k pc row s hc hrow => ?remap, fun k pc row r s hp hu hr => ?moved, fun k s h => ?persist,
    fun t w s v c h hfence at' bytes ha hb hopen hheld => h.runs_store_held hfence ha hb hopen hheld⟩
  case remap =>
    have hkept : ErrorKept k.val pc.val row s.dev (s.dev.correctedError k.val pc.val row) := ErrorKept.correctedError k.isLt
    have hframe := Device.correctedError_within s.dev k.val pc.val row (.refl 201490440 _) rfl
    refine ⟨_, runs_rowRemap hc hrow, hkept.rowErrors, hkept.counter, hframe.part .mem (by decide), hframe.part .cmds (by decide),
      Device.correctedError_paused_below k.isLt, fun hn hp => ⟨Device.correctedError_paused_free k.isLt hn hp, Device.correctedError_paused_full k.isLt hn hp,
        fun hu => ?_⟩⟩
    obtain ⟨hpaused, hbad⟩ := Device.correctedError_unused k.isLt hn hp hu
    exact ⟨hpaused, hkept.remaps, hbad⟩
  case moved =>
    have hbay := Device.rowRemapEnd_bay k.isLt hp hu hr
    have hframe := Device.rowRemapEnd_within s.dev k.val pc.val row (.refl 201490440 _) rfl
    refine ⟨_, rfl, ?_, ?_, hframe.part .mem (by decide), Device.rowRemapEnd_counter hp hu hr, fun hsource hfree => ?_, fun hreserve => ?_⟩
    · rw [hbay]
      simp
    · rw [hbay]
      rfl
    · have hnone : ((s.dev.bay k.val).remaps.any fun e => e.pc == pc.val && e.row == row) = false := by
        simpa only [Bay.rowInUse, hsource, if_true, Bool.not_eq_true'] using hu
      rw [hbay]
      exact ⟨Bay.physRow_of_append (Bay.moveRow_source s.dev.now hfree) hnone, Bay.moveRow_source s.dev.now hfree⟩
    · have hnamed : ((s.dev.bay k.val).remaps.any fun e => e.pc == pc.val && e.reserve == row) = true := by
        simpa only [Bay.rowInUse, Nat.not_lt.2 hreserve, if_false] using hu
      rw [hbay]
      exact (Bay.moveRow_reserve s.dev.now hnamed).symm
  case persist =>
    obtain ⟨d, hruns, hflash, hbay⟩ := runs_remapTablePersist h
    exact ⟨d, hruns, hflash, by rw [hbay], by rw [hbay]⟩

end Sys2Proof.Machine
end

section
/-! PROOF. Errors of the stacks: lost lines, failed retries, and the scrub (R211, R212, R214 to R216, R357). -/

namespace Sys2Proof.Machine

/-! ### What the record of lost lines leaves alone -/

theorem Device.logEvent_vals (d : Device) (e : Event) : (d.logEvent e).dict.vals = d.dict.vals := by
  unfold Device.logEvent
  split
  · split
    · rfl
    · split <;> rfl
  · unfold Device.pushRec
    dsimp only
    split <;> rfl

namespace UsesStay

variable {k : Nat} {d : Device}

theorem logEvent (e : Event) : UsesStay k d (d.logEvent e) := by
  have hframe := Device.logEvent_within d e (.refl 67108872 d) rfl
  exact ⟨hframe.part .cmds (by decide), hframe.part .now (by decide), hframe.part .power (by decide), Device.logEvent_vals d e,
    hframe.part .mem (by decide), hframe.part .ports (by decide), hframe.part .farCap (by decide), hframe.part .farState (by decide),
    by rw [Device.logEvent_safety], fun j _ => congrArg Bay.state (Device.bay_of_bays (Device.logEvent_bays d e) j)⟩

theorem touch (a : Nat) : UsesStay k d (d.touch a) := ⟨rfl, rfl, rfl, rfl, rfl, rfl, rfl, rfl, rfl, fun _ _ => rfl⟩

theorem poisonLines (pc row : Nat) (cs : List Nat) : UsesStay k d (d.poisonLines k pc row cs) :=
  ⟨rfl, rfl, rfl, rfl, rfl, rfl, rfl, rfl, rfl, fun _ _ => rfl⟩

theorem rowUnusable (pc row : Nat) : UsesStay k d (d.rowUnusable k pc row) := by
  unfold Device.rowUnusable
  split
  · exact refl k d
  · exact (modBay _).trans (touch _)

theorem rowMoved (pc row : Nat) : UsesStay k d (d.rowMoved k pc row) := by
  unfold Device.rowMoved
  split
  · exact rowUnusable pc row
  split
  · exact refl k d
  · exact ((modBay _).trans (count _ _)).trans (touch _)

theorem loseLines (pc row : Nat) (cs : List Nat) : UsesStay k d (d.loseLines k pc row cs) :=
  (((poisonLines pc row cs).trans (rowMoved pc row)).trans (count _ _)).trans (logEvent _)

end UsesStay

/-! ### The bay, its counters and its poison after the lines are lost (R215) -/

theorem Device.rowMoved_handling {d : Device} {k : Nat} (hk : k < 8) (pc row : Nat) :
    ((d.rowMoved k pc row).bay k).state = (d.bay k).state ∧ ((d.rowMoved k pc row).bay k).nesting = (d.bay k).nesting := by
  unfold Device.rowMoved
  split
  · rw [Device.rowUnusable_bay hk]
    split <;> exact ⟨rfl, rfl⟩
  split
  · exact ⟨rfl, rfl⟩
  · rw [Device.bay_of_bays (Device.touch_bays _ _), Device.bay_of_bays (Device.count_bays _ _ _), Device.bay_modBay_same _ hk, Bay.moveRow]
    dsimp only
    split <;> exact ⟨rfl, rfl⟩

theorem Device.rowMoved_counter (d : Device) (k pc row : Nat) {a : Nat} (ha : a ≠ 0x805003) : (d.rowMoved k pc row).counter a = d.counter a := by
  unfold Device.rowMoved
  split
  · unfold Device.counter
    rw [Device.rowUnusable_counters]
  split
  · rfl
  · exact Device.counter_count_other _ ha 1

theorem Device.loseLines_handling {d : Device} {k : Nat} (hk : k < 8) (pc row : Nat) (cs : List Nat) :
    ((d.loseLines k pc row cs).bay k).state = (d.bay k).state ∧ ((d.loseLines k pc row cs).bay k).nesting = (d.bay k).nesting := by
  unfold Device.loseLines
  dsimp only
  rw [Device.memoryEvent_bay, Device.bay_of_bays (Device.count_bays _ _ _)]
  exact Device.rowMoved_handling hk pc row

theorem Device.loseLines_counter (d : Device) (k pc row : Nat) (cs : List Nat) :
    (d.loseLines k pc row cs).counter 0x805002 = stopAdd 64 (d.counter 0x805002) (max 1 cs.length) := by
  have hmoved := (d.poisonLines k pc row cs).rowMoved_counter k pc row (a := 0x805002) (by decide)
  calc (d.loseLines k pc row cs).counter 0x805002
      = (((d.poisonLines k pc row cs).rowMoved k pc row).count 0x805002 (max 1 cs.length)).counter 0x805002 := by
        unfold Device.counter Device.loseLines
        dsimp only
        rw [Device.memoryEvent_safety]
    _ = stopAdd 64 (d.counter 0x805002) (max 1 cs.length) := by
        rw [Device.counter_count_same, hmoved]
        rfl

/-- Every line of the row that is lost is poisoned, at the address it serves. -/
theorem Device.mem_poison_loseLines (d : Device) (k pc row : Nat) {cs : List Nat} {c : Nat} (hc : c ∈ cs) (hlt : c < 250) :
    k * 2 ^ 30 + lineOfRow pc ((d.bay k).logicalRow pc row) c ∈ (d.loseLines k pc row cs).poison := by
  have hpoison : (d.loseLines k pc row cs).poison = (d.poisonLines k pc row cs).poison := by
    have hframe := Device.rowMoved_within (d.poisonLines k pc row cs) k pc row (.refl 134348808 _) rfl
    exact (Device.logEvent_poison _ _).trans (hframe.part .poison (by decide))
  rw [hpoison, Device.poisonLines]
  dsimp only
  by_cases hold : k * 2 ^ 30 + lineOfRow pc ((d.bay k).logicalRow pc row) c ∈ d.poison
  · exact List.mem_append_left _ hold
  · refine List.mem_append_right _ (List.mem_filter.2 ⟨List.mem_map.2 ⟨c, List.mem_filter.2 ⟨hc, by simpa using hlt⟩, rfl⟩, ?_⟩)
    simpa using hold

/-- Rung 2 clears no poison but that of die buffers (R206). -/
theorem Device.mem_poison_bayReset {d : Device} {k cause l : Nat} {w : Blame} (h : l ∈ d.poison) (hl : l < 2 ^ 33) : l ∈ (d.bayReset k cause w).poison := by
  unfold Device.bayReset
  split
  · exact h
  · dsimp only
    rw [Device.rungSeen_poison, Device.logEvent_poison, Device.modPort_poison, Device.modBay_poison, Device.clearSram]
    dsimp only
    rw [Device.clearTiles_poison, Device.failBay_poison, List.mem_filter]
    refine ⟨h, ?_⟩
    simp only [Bool.not_eq_true', Bool.and_eq_false_iff, decide_eq_false_iff_not]
    omega

theorem Device.mem_poison_bayDetected {d : Device} {k l : Nat} (hn : (d.bay k).nesting = 0) (h : l ∈ d.poison) (hl : l < 2 ^ 33)
    (cause mech tag : Nat) (extra : List Byte) : l ∈ (d.bayDetected k cause mech tag extra).poison := by
  simp only [Device.bayDetected, hn, if_true]
  exact Device.mem_poison_bayReset h hl

/-! ### UNCORRECTABLE_ERROR (R215) -/

theorem runs_uncorrectableError {k : Fin 8} {pc : Fin 64} {row : Nat} {cs : List Nat} {s : State} (hc : (s.dev.bay k.val).closed = false) (hrow : row < 62500) :
    Runs (.uncorrectableError k pc row cs) s ((s.dev.loseLines k.val pc.val row cs).bayDetected k.val 0x01 7 0xFFFF (leBytes 1 pc.val)) := by
  refine runs_of_eq rfl (if_neg ?_)
  rw [hc]
  exact not_or.2 ⟨Bool.false_ne_true, Nat.not_le.2 hrow⟩

/-! ### INTERFACE_RETRY (R211) -/

section Retry

variable {k : Fin 8} {pc : Fin 64} {s : State} (hc : (s.dev.bay k.val).closed = false) (hs : (s.dev.bay k.val).state ≠ .reset)
include hc hs

/-- A retry that succeeds is counted, and ends the run of failures. -/
theorem runs_interfaceRetry_ok : Runs (.interfaceRetry k pc true) s
    ((s.dev.count 0x805004 1).modBay k.val fun b => { b with retries := b.retries.put 0 pc.val 0 }) :=
  runs_of_eq rfl (by simp only [Device.interfaceRetry, hc, beq_eq_false_iff_ne.2 hs, Bool.or_self, Bool.false_eq_true, if_false, if_true])

/-- One of the first three that fail in a row joins the run. -/
theorem runs_interfaceRetry_again (hn : (s.dev.bay k.val).retries.get 0 pc.val < 3) : Runs (.interfaceRetry k pc false) s
    (s.dev.modBay k.val fun b => { b with retries := b.retries.put 0 pc.val ((s.dev.bay k.val).retries.get 0 pc.val + 1) }) :=
  have hmore : (s.dev.bay k.val).retries.get 0 pc.val + 1 < 4 := by omega
  runs_of_eq rfl (by simp only [Device.interfaceRetry, hc, beq_eq_false_iff_ne.2 hs, Bool.or_self, Bool.false_eq_true, if_false, hmore, if_true])

/-- The fourth is a detection of the bay. -/
theorem runs_interfaceRetry_fourth (hn : 3 ≤ (s.dev.bay k.val).retries.get 0 pc.val) : Runs (.interfaceRetry k pc false) s
    ((s.dev.modBay k.val fun b => { b with retries := b.retries.put 0 pc.val 0 }).bayDetected k.val 0x02 7 0xFFFF (leBytes 1 pc.val)) :=
  have hlast : ¬(s.dev.bay k.val).retries.get 0 pc.val + 1 < 4 := by omega
  runs_of_eq rfl (by simp only [Device.interfaceRetry, hc, beq_eq_false_iff_ne.2 hs, Bool.or_self, Bool.false_eq_true, if_false, hlast])

end Retry

/-! ### PATROL_SCRUB (R212, R214, R216) -/

section Scrub

variable {k : Fin 8} {f : EccOutcome} {s : State} (hc : (s.dev.bay k.val).closed = false) (hs : (s.dev.bay k.val).state ≠ .reset)
include hc hs

/-- A line of a paused row waits. -/
theorem runs_patrolScrub_paused (hp : ((rowOfLine (s.dev.bay k.val).scrubNext).1,
      (s.dev.bay k.val).physRow (rowOfLine (s.dev.bay k.val).scrubNext).1 (rowOfLine (s.dev.bay k.val).scrubNext).2.1) ∈ (s.dev.bay k.val).paused) :
    Runs (.patrolScrub k f) s s.dev :=
  runs_of_eq rfl (by simp [Device.patrolScrub, hc, hs, hp])

/-- A line that is clean, or poisoned already, is passed. -/
theorem runs_patrolScrub_passed {x : Nat × Nat × Nat} (hx : rowOfLine (s.dev.bay k.val).scrubNext = x)
    (hp : (x.1, (s.dev.bay k.val).physRow x.1 x.2.1) ∉ (s.dev.bay k.val).paused)
    (hf : f = .clean ∨ k.val * 2 ^ 30 + lineOfRow x.1 ((s.dev.bay k.val).logicalRow x.1 ((s.dev.bay k.val).physRow x.1 x.2.1)) x.2.2 ∈ s.dev.poison) :
    Runs (.patrolScrub k f) s (s.dev.modBay k.val fun b => { b with scrubNext := (b.scrubNext + 1) % 1000000000 }) := by
  subst hx
  refine runs_of_eq rfl ?_
  simp only [Device.patrolScrub, hc, beq_eq_false_iff_ne.2 hs, Bool.or_self, Bool.false_eq_true, if_false, List.contains_iff_mem, hp]
  rcases hf with rfl | hpoison
  · exact ite_self _
  · exact if_pos hpoison

end Scrub

/-- Settles O41: lost lines by their record and the detection, retries by their run, the scrub by the line it reads. -/
theorem stackErrorsResetTheBay : Obligations.StackErrorsResetTheBay := by
  unfold Obligations.StackErrorsResetTheBay
  refine ⟨fun k pc row cs s hc hn hrow => ?lost, fun k pc s hc hs => ⟨?ok, fun hn => ?again, fun hn hnesting => ?fourth⟩,
    fun k f s hc hs => ⟨runs_patrolScrub_paused hc hs, runs_patrolScrub_passed hc hs rfl⟩⟩
  case lost =>
    obtain ⟨hstate, hnesting⟩ := Device.loseLines_handling (d := s.dev) k.isLt pc.val row cs
    have hout : (s.dev.loseLines k.val pc.val row cs).bayOut k.val = false := by
      have ho := Device.bayOut_of_closed hc
      rwa [Device.bayOut, ← hstate] at ho
    obtain ⟨hbegun, hsends⟩ := Device.bayDetected_begun k.isLt hout (hnesting.trans hn) 0x01 7 0xFFFF (leBytes 1 pc.val)
    refine ⟨_, runs_uncorrectableError hc hrow, (UsesStay.loseLines _ _ _).resetBegun hbegun, ?_, fun c hcs hlt hline => ?_⟩
    · rw [hsends.counters _ (by decide), Device.loseLines_counter]
    · exact Device.mem_poison_bayDetected (hnesting.trans hn) (Device.mem_poison_loseLines s.dev _ _ _ hcs hlt) hline _ _ _ _
  case ok =>
    refine ⟨_, runs_interfaceRetry_ok hc hs, ?_, Device.counter_count_same s.dev _ _, rfl⟩
    rw [Device.bay_modBay_same _ k.isLt]
    exact Store.get_put_same
  case again =>
    refine ⟨_, runs_interfaceRetry_again hc hs hn, ?_, rfl, rfl⟩
    rw [Device.bay_modBay_same _ k.isLt]
    exact Store.get_put_same
  case fourth =>
    refine ⟨_, runs_interfaceRetry_fourth hc hs hn, (UsesStay.modBay _).resetBegun (Device.bayDetected_begun k.isLt ?_ ?_ _ _ _ _).1⟩
    · unfold Device.bayOut
      rw [Device.bay_modBay_same _ k.isLt]
      exact Device.bayOut_of_closed hc
    · rw [Device.bay_modBay_same _ k.isLt]
      exact hnesting

end Sys2Proof.Machine
end

section
/-! PROOF. Steps and queue pairs: the front of the queue, doorbells, the pair served next, fetches and drains (R227, R229). -/

namespace Sys2Proof.Machine

/-- Settles O1: a step is defined by what stands at the front of the queue. -/
theorem stepRunsFrontCommand : Obligations.StepRunsFrontCommand := fun _ _ _ => rfl

theorem Device.setQueue_eq_set (d : Device) (q : Fin 64) (x : QPair) : d.setQueue q.val x = { d with queues := d.queues.set q.val x } := by
  have hset : d.queues.setIfInBounds q.val x = d.queues.set q.val x := by
    ext i
    simp [Vector.getElem_set, Vector.getElem_setIfInBounds]
  rw [Device.setQueue, hset]

/-! ### Doorbells (R227) -/

theorem not_shut_of_hostOpen {d : Device} (h : d.hostOpen = true) : ¬(!d.hostOpen) = true := by simp [h]

section SqTail

variable {d0 : Device} {q : Fin 64} {v : W32} {ws : List Host.Cell} (hopen : d0.hostOpen = true)
include hopen

/-- A tail that keeps the entries not yet fetched becomes the tail. -/
theorem Device.sqTail_taken (hen : (d0.queue q.val).state = 1) (hlt : v.toNat < d0.sqSize q.val)
    (hfwd : ((d0.queue q.val).sqTail + d0.sqSize q.val - (d0.queue q.val).sqHead) % d0.sqSize q.val ≤
      (v.toNat + d0.sqSize q.val - (d0.queue q.val).sqHead) % d0.sqSize q.val) :
    d0.sqTail q v ws = ({ d0 with host := hostAfter d0.host ws } : Device).setQueue q.val { d0.queue q.val with sqTail := v.toNat } := by
  have hok : ¬((d0.queue q.val).state ≠ 1 ∨ d0.sqSize q.val ≤ v.toNat) := by omega
  exact (if_neg (not_shut_of_hostOpen hopen)).trans ((if_neg hok).trans (if_pos hfwd))

/-- Any other value is counted. -/
theorem Device.sqTail_ignored (h : (d0.queue q.val).state ≠ 1 ∨ d0.sqSize q.val ≤ v.toNat ∨
      (v.toNat + d0.sqSize q.val - (d0.queue q.val).sqHead) % d0.sqSize q.val <
        ((d0.queue q.val).sqTail + d0.sqSize q.val - (d0.queue q.val).sqHead) % d0.sqSize q.val) :
    d0.sqTail q v ws = ({ d0 with host := hostAfter d0.host ws } : Device).count 0x807005 1 := by
  refine (if_neg (not_shut_of_hostOpen hopen)).trans ?_
  by_cases hbad : (d0.queue q.val).state ≠ 1 ∨ d0.sqSize q.val ≤ v.toNat
  · exact if_pos hbad
  · exact (if_neg hbad).trans (if_neg (by show ¬(_ ≤ _); have := (or_assoc.2 h).resolve_left hbad; exact Nat.not_le.2 this))

end SqTail

section CqHead

variable {d : Device} {q : Fin 64} {v : W32} (hopen : d.hostOpen = true)
include hopen

/-- A head that passes records already written becomes the head. -/
theorem Device.cqHeadMove_taken (hen : (d.queue q.val).state ≠ 0) (hlt : v.toNat < d.cqSize q.val)
    (hpos : 0 < (v.toNat + d.cqSize q.val - (d.queue q.val).cqHead) % d.cqSize q.val)
    (hle : (v.toNat + d.cqSize q.val - (d.queue q.val).cqHead) % d.cqSize q.val ≤ (d.queue q.val).written) :
    d.cqHeadMove q v = d.setQueue q.val { d.queue q.val with
      cqHead := v.toNat, written := (d.queue q.val).written - (v.toNat + d.cqSize q.val - (d.queue q.val).cqHead) % d.cqSize q.val } := by
  refine (if_neg (not_shut_of_hostOpen hopen)).trans (if_neg ?_)
  omega

/-- Any other value is counted. -/
theorem Device.cqHeadMove_ignored (h : (d.queue q.val).state = 0 ∨ d.cqSize q.val ≤ v.toNat ∨
      (v.toNat + d.cqSize q.val - (d.queue q.val).cqHead) % d.cqSize q.val = 0 ∨
      (d.queue q.val).written < (v.toNat + d.cqSize q.val - (d.queue q.val).cqHead) % d.cqSize q.val) :
    d.cqHeadMove q v = d.count 0x807005 1 :=
  (if_neg (not_shut_of_hostOpen hopen)).trans (if_pos h)

end CqHead

/-- Settles O6: with the function open, each doorbell is taken or counted. -/
theorem doorbellsMoveForwardOnly : Obligations.DoorbellsMoveForwardOnly := by
  unfold Obligations.DoorbellsMoveForwardOnly
  intro q v ws s hopen p d n m step
  refine ⟨fun hen hlt hfwd => ?_, fun h => runs_of_eq rfl (Device.sqTail_ignored hopen h), fun hen hlt hpos hle => ?_,
    fun h => runs_of_eq rfl (Device.cqHeadMove_ignored hopen h)⟩
  · exact runs_of_eq rfl ((Device.sqTail_taken hopen hen hlt hfwd).trans (Device.setQueue_eq_set _ q _))
  · exact runs_of_eq rfl ((Device.cqHeadMove_taken hopen hen hlt hpos hle).trans (Device.setQueue_eq_set _ q _))

/-! ### Fetches (R229) -/

/-- The first pair in turn after pair `last` that has a property is the nearest one after it that does. -/
theorem turnAfter_find?_eq_some {last q : Nat} {p : Nat → Bool} (hlast : last < 64) (h : (turnAfter last).find? p = some q) :
    q < 64 ∧ p q = true ∧ ∀ r, r < 64 → p r = true → (q + 63 - last) % 64 ≤ (r + 63 - last) % 64 := by
  rw [turnAfter, List.find?_map, Option.map_eq_some_iff] at h
  obtain ⟨i, hi, rfl⟩ := h
  obtain ⟨hp, hmem, hfirst⟩ := List.find?_range_eq_some.1 hi
  have hi64 : i < 64 := List.mem_range.1 hmem
  refine ⟨Nat.mod_lt _ (by decide), hp, fun r hr hpr => ?_⟩
  refine Decidable.byContradiction fun hlt => ?_
  have hturn : (last + 1 + (r + 63 - last) % 64) % 64 = r := by omega
  have := hfirst ((r + 63 - last) % 64) (by omega)
  simp [Function.comp, hturn, hpr] at this

/-- Where the turn finds no pair, no pair has the property. -/
theorem turnAfter_find?_eq_none {last : Nat} {p : Nat → Bool} (hlast : last < 64) (h : (turnAfter last).find? p = none) {r : Nat} (hr : r < 64) :
    p r = false := by
  refine Bool.eq_false_iff.2 (List.find?_eq_none.1 h r (List.mem_map.2 ⟨(r + 63 - last) % 64, List.mem_range.2 (Nat.mod_lt _ (by decide)), ?_⟩))
  omega

theorem Device.fetchable_iff {d : Device} {q : Nat} : d.fetchable q = true ↔
    (d.queue q).state = 1 ∧ (d.queue q).sqHead ≠ (d.queue q).sqTail ∧ (d.queue q).reserved + (d.queue q).written + 2 ≤ d.cqSize q := by
  simp [Device.fetchable, and_assoc]

/-- Who is served next: the high-priority pair whose turn it is, or, with none to serve, the pair whose turn it is. -/
theorem Device.nextPair_eq_some {d : Device} {q : Nat} (h : d.nextPair = some q) :
    (turnAfter d.lastHigh).find? (fun q => d.fetchable q && d.highPair q) = some q ∨
    ((turnAfter d.lastHigh).find? (fun q => d.fetchable q && d.highPair q) = none ∧ (turnAfter d.lastPair).find? d.fetchable = some q) := by
  unfold Device.nextPair at h
  split at h
  · next q' hq' => exact .inl (hq'.trans h)
  · next hnone => exact .inr ⟨hnone, h⟩

theorem Device.nextPair_eq_none {d : Device} (h : d.nextPair = none) : (turnAfter d.lastPair).find? d.fetchable = none := by
  unfold Device.nextPair at h
  split at h
  · cases h
  · exact h

/-- Settles O7: the pair found in turn is the nearest after the one served last, of its priority. -/
theorem fetchServesPairsInTurn : Obligations.FetchServesPairsInTurn := by
  unfold Obligations.FetchServesPairsInTurn
  intro d hpair hhigh
  refine ⟨fun q hq => ?_, fun hnone q hlt => turnAfter_find?_eq_none hpair (Device.nextPair_eq_none hnone) hlt⟩
  rcases Device.nextPair_eq_some hq with hfound | ⟨hnohigh, hfound⟩
  case inl =>
    obtain ⟨hlt, hserved, hfirst⟩ := turnAfter_find?_eq_some hhigh hfound
    obtain ⟨hf, hp⟩ := Bool.and_eq_true_iff.1 hserved
    obtain ⟨hstate, hentry, hroom⟩ := Device.fetchable_iff.1 hf
    exact ⟨hlt, hstate, hentry, hroom, fun _ _ _ _ => hp, fun _ r hr hfr hpr => hfirst r hr (by rw [hfr, hpr]; rfl),
      fun hlow => absurd (hp.symm.trans hlow) (by decide)⟩
  case inr =>
    obtain ⟨hlt, hf, hfirst⟩ := turnAfter_find?_eq_some hpair hfound
    obtain ⟨hstate, hentry, hroom⟩ := Device.fetchable_iff.1 hf
    have hnever : ∀ r, r < 64 → d.fetchable r = true → d.highPair r ≠ true := fun r hr hfr hpr => by
      simpa [hfr, hpr] using turnAfter_find?_eq_none hhigh hnohigh hr
    exact ⟨hlt, hstate, hentry, hroom, fun r hr hfr hpr => absurd hpr (hnever r hr hfr), fun hp => absurd hp (hnever q hlt hf),
      fun _ => hfirst⟩

/-- Settles O8: what a fetch moves, whichever priority the pair has, and the end of a drain. -/
theorem fetchTakesOneEntry : Obligations.FetchTakesOneEntry := by
  unfold Obligations.FetchTakesOneEntry
  refine ⟨fun q s hopen hnext => ⟨_, rfl, ?_⟩, fun q s hstate hidle => ?drained⟩
  case drained =>
    have hd : s.dev.drainEnd q.val = s.dev.setQueue q.val QPair.fresh := if_pos ⟨hstate, by rw [hidle]; rfl⟩
    exact runs_of_eq rfl (hd.trans (Device.setQueue_eq_set _ q _))
  simp only [Device.fetchEntry, hopen, hnext, q.isLt, dif_pos, Bool.not_true, Bool.false_eq_true, if_false, Device.setQueue_eq_set]
  split <;> exact ⟨rfl, rfl, rfl, rfl⟩

end Sys2Proof.Machine
end

section
/-! PROOF. Whose operation a free slot takes: urgent commands first, then by promise, then by order of acceptance (R248). -/

namespace Sys2Proof.Machine

/-! ### The order of R248 -/

theorem Cmd.before_iff {a b : Cmd} : a.before b = true ↔ if a.urgent = b.urgent then
    (if a.urgent = true then a.order < b.order else a.promise < b.promise ∨ (a.promise = b.promise ∧ a.order < b.order)) else a.urgent = true := by
  unfold Cmd.before
  cases a.urgent <;> cases b.urgent <;> simp

theorem Cmd.not_before_self (c : Cmd) : c.before c = false := by
  rw [← Bool.not_eq_true, Cmd.before_iff]
  simp

theorem Cmd.not_before_of_before {b c : Cmd} (h : c.before b = true) : b.before c = false := by
  rw [← Bool.not_eq_true, Cmd.before_iff]
  rw [Cmd.before_iff] at h
  cases hb : b.urgent <;> cases hc : c.urgent <;> simp [hb, hc] at h ⊢ <;> omega

/-- Not going before is transitive: the order is total, but for equal promises and orders. -/
theorem Cmd.not_before_trans {x b c : Cmd} (hxb : x.before b = false) (hbc : b.before c = false) : x.before c = false := by
  rw [← Bool.not_eq_true, Cmd.before_iff] at *
  cases hx : x.urgent <;> cases hb : b.urgent <;> cases hc : c.urgent <;> simp [hx, hb, hc] at * <;> omega

/-- What it is for no command to go before `c`. -/
theorem Cmd.not_before_spec {x c : Cmd} (h : x.before c = false) : (x.urgent = true → c.urgent = true) ∧
    (c.urgent = true → x.urgent = true → c.order ≤ x.order) ∧
    (c.urgent = false → c.promise ≤ x.promise ∧ (c.promise = x.promise → c.order ≤ x.order)) := by
  rw [← Bool.not_eq_true, Cmd.before_iff] at h
  cases hx : x.urgent <;> cases hc : c.urgent <;> simp [hx, hc] at h ⊢ <;> omega

/-! ### The first of a list -/

/-- The one of two commands that a slot takes first. -/
def Cmd.first (m : Option Cmd) (c : Cmd) : Option Cmd :=
  match m with | some b => if c.before b then some c else m | none => some c

/-- The search from `b` through a list finds one of them before which none goes. -/
theorem foldl_first (l : List Cmd) (b : Cmd) : ∃ c, l.foldl Cmd.first (some b) = some c ∧ c ∈ b :: l ∧ ∀ x ∈ b :: l, x.before c = false := by
  induction l generalizing b with
  | nil => exact ⟨b, rfl, List.mem_singleton_self b, fun x hx => List.mem_singleton.1 hx ▸ x.not_before_self⟩
  | cons a l ih =>
    cases hab : a.before b with
    | true =>
      obtain ⟨c, hfold, hc, hleast⟩ := ih a
      refine ⟨c, by rw [List.foldl_cons, Cmd.first, if_pos hab, hfold], List.mem_cons_of_mem b hc, List.forall_mem_cons.2 ⟨?_, hleast⟩⟩
      exact Cmd.not_before_trans (Cmd.not_before_of_before hab) (hleast a List.mem_cons_self)
    | false =>
      obtain ⟨c, hfold, hc, hleast⟩ := ih b
      obtain ⟨hb, hl⟩ := List.forall_mem_cons.1 hleast
      refine ⟨c, by rw [List.foldl_cons, Cmd.first, if_neg (by rw [hab]; decide), hfold], ?_, List.forall_mem_cons.2 ⟨hb, List.forall_mem_cons.2 ⟨?_, hl⟩⟩⟩
      · exact (List.mem_cons.1 hc).elim (fun h => h ▸ List.mem_cons_self) fun h => List.mem_cons_of_mem b (List.mem_cons_of_mem a h)
      · exact Cmd.not_before_trans hab hb

/-! ### The command a slot goes to -/

/-- The commands that have an operation for tile `t` of bay `k` now. -/
def Device.candidates (d : Device) (k t : Nat) : List Cmd :=
  d.cmds.filter fun c => c.failure.isNone && d.mayRun c && c.budgetAllows k t && (c.heldOp k).isSome

theorem Device.nextDelivery_eq (d : Device) (k t : Nat) : d.nextDelivery k t = (d.candidates k t).foldl Cmd.first none := rfl

theorem Device.mem_candidates {d : Device} {k t : Nat} {c : Cmd} : c ∈ d.candidates k t ↔ Deliverable d k t c := by
  simp only [Device.candidates, List.mem_filter, Bool.and_eq_true, Option.isNone_iff_eq_none]
  exact ⟨fun ⟨hmem, ⟨⟨hsound, hfree⟩, hbudget⟩, hwaits⟩ => ⟨hmem, hsound, hfree, hbudget, hwaits⟩,
    fun h => ⟨h.flying, ⟨⟨h.sound, h.free⟩, h.budget⟩, h.waits⟩⟩

/-- Settles O24: the search through the commands that have an operation for the tile finds one before which none goes. -/
theorem slotsGoByClassPromiseAndOrder : Obligations.SlotsGoByClassPromiseAndOrder := by
  unfold Obligations.SlotsGoByClassPromiseAndOrder
  intro d k t
  simp only [← Device.mem_candidates, Device.nextDelivery_eq]
  cases d.candidates k t with
  | nil =>
    refine ⟨fun c h => ?_, fun _ x h => ?_⟩
    · cases h
    · cases h
  | cons b l =>
    obtain ⟨c, hfold, hc, hleast⟩ := foldl_first l b
    rw [List.foldl_cons, show Cmd.first none b = some b from rfl, hfold]
    refine ⟨fun c' h => ?_, fun h => nomatch h⟩
    obtain rfl : c = c' := Option.some.inj h
    exact ⟨hc, fun x hx => Cmd.not_before_spec (hleast x hx)⟩

end Sys2Proof.Machine
end

section
/-! PROOF. Admission: the order of the checks, what an acceptance and a refusal leave, and the effects at acceptance (R236, R239, R240, R242, R243, R286, R301). -/

namespace Sys2Proof.Machine

/-! ### A row with its entry at the head (R229) -/

/-- A row of the table judges the entry that is fetched first. -/
theorem NextEntry.runs {x : Instr × RowOf} (hx : x ∈ admissionRows) {f : Fetched} {rest : List Fetched} {s : State} (hn : NextEntry s.dev x.2 f rest) :
    Runs x.1 s (s.dev.judge f rest) := by
  have := admissionRows_run x hx s
  rwa [hn.admit_eq] at this

/-! ### Acceptance (R242 to R244) -/

/-- Pricing an entry opens ledger entries in device memory, and nothing else (R115). -/
theorem Device.bid_memory (d : Device) (f : Fetched) (l : Look) (tag : Nat) : Device.Within 49152 d (d.bid f l tag).dev :=
  openLedgers_within d _ _ (.refl _ _) rfl

/-- Settles O15: the row accepts the entry as it was priced, and an acceptance leaves what the statement lists. -/
theorem soundEntriesAreAccepted : Obligations.SoundEntriesAreAccepted := by
  unfold Obligations.SoundEntriesAreAccepted
  intro x hx f rest s tag tags hn d b hj htags hbeyond hhorizon hdeadline
  have hw : Device.Within 49152 d b.dev := d.bid_memory f (d.look f) tag
  obtain ⟨t, c, haccept, hcmds, htag, hentry, hqp, hslot, hpromise, hat, hfloor, horder, hdone, hfail, hfields⟩ :=
    Device.accept_fields b.dev d f b.cmd tags (hw.part .queues (by decide)) (hw.part .dict (by decide)) (hw.part .power (by decide))
      (hw.part .host (by decide)) (hw.part .safety (by decide)) (hw.part .now (by decide)) (hw.part .pace (by decide)) (hw.part .events (by decide))
      (hw.part .cmds (by decide)) (hw.part .fetched (by decide)) (hw.part .orderNext (by decide))
  have hruns := hn.runs hx
  rw [Device.judge_accepts s.dev d f rest tag tags rfl hj htags hbeyond hhorizon hdeadline, haccept] at hruns
  exact ⟨t, c, hruns, hcmds, htag, hentry, hqp, hslot, hpromise, hat, hfloor, horder, hdone, hfail, hfields⟩

/-! ### Refusals (R242) -/

/-- Settles O16: the checks of R242 in the order that `judge` makes them. -/
theorem firstFailedCheckDecides : Obligations.FirstFailedCheckDecides := by
  unfold Obligations.FirstFailedCheckDecides
  intro x hx f rest s hn d l
  have hrefused := Device.refuse_refused d f rest rfl
  have hruns := hn.runs hx
  rw [Device.judge_eq s.dev d f rest rfl] at hruns
  refine ⟨_, hruns, fun off lock hbad => ?invalid, fun hsound => ⟨fun hout => ?bayOut, fun hin => ⟨fun hnone => ?noTag, fun tag tags htags => ?offered⟩⟩⟩
  case invalid => rw [show (d.look f).invalid = _ from hbad]; exact (hrefused _ _ _).count
  all_goals rw [show (d.look f).invalid = none from hsound]; dsimp only
  case bayOut => rw [if_pos hout]; exact hrefused _ _ _
  all_goals rw [if_neg (by rw [show (d.look f).bayOut = false from hin]; decide)]
  case noTag => rw [hnone]; exact hrefused _ _ _
  case offered =>
    rw [htags]
    dsimp only
    refine ⟨fun hslot => ?_, fun hbeyond hhorizon hclass hlate => ?_⟩
    · rw [Device.offer, if_pos (by simpa using hslot)]
      exact hrefused _ _ _
    · rw [Device.offer, if_neg (by simpa using ⟨hbeyond, hhorizon⟩), if_pos ⟨hclass, hlate⟩]
      exact hrefused _ _ _

/-! ### EVENT with operation reset (R239) -/

theorem mem_badIf {off : Nat} {c : Bool} (h : c = true) : off ∈ badIf off c := by simp [badIf, h]

/-- A field at fault makes the entry invalid. -/
theorem Look.invalid_of_mem {l : Look} {off : Nat} (h : off ∈ l.header ++ l.descriptor) : ∃ p, l.invalid = some p := by
  have hleast : ∃ x, leastOf (l.header ++ l.descriptor) = some x := by
    cases hb : l.header ++ l.descriptor with
    | nil => rw [hb] at h; exact absurd h List.not_mem_nil
    | cons y r => exact ⟨_, rfl⟩
  obtain ⟨x, hx⟩ := hleast
  unfold Look.invalid
  rw [hx]
  cases leastOf l.standbyLocked with
  | none => exact ⟨_, rfl⟩
  | some y => dsimp only; split <;> exact ⟨_, rfl⟩

/-- A command in flight that waits on the event, signals it, or is an EVENT on it, keeps the event busy. -/
theorem Device.eventBusy_of_mem {d : Device} {c : Cmd} {ev : Nat} (hc : c ∈ d.cmds)
    (h : ent c.entry 6 2 = ev ∨ (ent c.entry 0x0C 2 = ev ∧ ent c.entry 0x0C 2 ≠ 0xFFFF) ∨ (opcodeOf c.entry = 0x40 ∧ ent c.entry 0x20 2 = ev)) :
    d.eventBusy ev = true := by
  refine List.any_eq_true.2 ⟨c, hc, ?_⟩
  rcases h with h | ⟨h, hset⟩ | ⟨hop, h⟩
  · simp [h]
  · simp [Cmd.eventEffects, h ▸ hset, h]
  · simp [Cmd.eventEffects, hop, h]

theorem Look.descriptor_of_event {l : Look} (h : opcodeOf l.e = 0x40) : l.descriptor = l.event := by simp only [Look.descriptor, h]

/-- A reset of an event that is busy is at fault in the field that names the event. -/
theorem Look.reset_at_fault {l : Look} (hop : opcodeOf l.e = 0x40) (hreset : ent l.e 0x22 1 = 1) (hbusy : l.dev.eventBusy (ent l.e 0x20 2) = true) :
    0x20 ∈ l.header ++ l.descriptor := by
  rw [Look.descriptor_of_event hop]
  exact List.mem_append_right _ (List.mem_append_left _ (mem_badIf (by simp [Look.f, hreset, hbusy])))

/-- Settles O20: the counter of a reset by the record of its completion, and the refusal by the busy event at offset 0x20. -/
theorem eventResetSetsTheCounter : Obligations.EventResetSetsTheCounter := by
  unfold Obligations.EventResetSetsTheCounter
  refine ⟨fun s c c1 d1 q hends hqp hsound hop hreset hev => ?completed, fun s f rest c hready hworking hopen hhead hop hreset hc hbusy => ?refused⟩
  case completed =>
    obtain ⟨t, hruns, -, -, -, hevents⟩ := completionWritesItsRecord s c c1 d1 q hends hqp (by rw [hop]; decide) (by rw [hop]; exact fun h => absurd h.1 (by decide))
    refine ⟨t, hruns, ?_⟩
    rw [hevents _ hev, eventAfter, hends.same.1]
    simp [hop, hsound, hreset]
  case refused =>
    have hx : (Instr.eventReset, (⟨0x40, 1⟩ : RowOf)) ∈ admissionRows := by decide
    have hmine : (⟨0x40, 1⟩ : RowOf).takes f.entry = true := by simp [RowOf.takes, hop, hreset, knownOp]
    have hn : NextEntry s.dev ⟨0x40, 1⟩ f rest := ⟨hhead, hmine, hready, hworking, hopen⟩
    obtain ⟨t, hruns, hinvalid, -⟩ := firstFailedCheckDecides _ hx f rest s hn
    have hbad := Look.reset_at_fault (l := ({ s.dev with fetched := rest } : Device).look f) hop hreset (Device.eventBusy_of_mem hc hbusy)
    obtain ⟨⟨off, lock⟩, hp⟩ := Look.invalid_of_mem hbad
    exact ⟨t, off, hruns, hinvalid off lock hp⟩

/-! ### Effects at acceptance (R236, R240, R286, R301) -/

theorem Device.acceptEffect_switch (d : Device) {e : List Byte} (h : opcodeOf e = 0x44) : d.acceptEffect e =
    (if ent e 0x20 1 = 0 then { d with curSet := 0, verA := ent e 0x22 2 } else { d with curSet := 1, verB := ent e 0x22 2 }).count 0x808001 1 :=
  if_pos h

theorem Device.acceptEffect_step (d : Device) {e : List Byte} (h : opcodeOf e = 0x41) (hset : (ent e 0x21 1).testBit 0 = true) :
    d.acceptEffect e = { d with stepCounter := BitVec.ofNat 64 (ent e 0x28 8) } :=
  (if_neg (by rw [h]; decide)).trans (if_pos ⟨h, hset⟩)

theorem Device.acceptEffect_other (d : Device) {e : List Byte} (hs : opcodeOf e ≠ 0x44) (hf : ¬(opcodeOf e = 0x41 ∧ (ent e 0x21 1).testBit 0 = true)) :
    d.acceptEffect e = d :=
  (if_neg hs).trans (if_neg hf)

/-- The block as an acceptance begins: inbound tokens taken up to now, the tag and the place in the order given away. -/
def Device.admitting (d : Device) (tags : List Nat) : Device := { d.settleTokens with tagsFree := tags, orderNext := d.orderNext + 1 }

theorem Device.admitting_within (d : Device) (tags : List Nat) : Device.Within (partSet [.bays, .tagsFree, .orderNext]) d (d.admitting tags) := by
  have hw : Device.Within 131072 d d.settleTokens := Device.settleTokens_within d (.refl _ d) rfl
  unfold Device.admitting
  generalize d.settleTokens = e at hw ⊢
  refine Device.Within.upd (ps := partSet [.tagsFree, .orderNext]) (b := e) (hw.mono rfl) rfl rfl (fun p => ?_) rfl
  cases p with
  | tagsFree | orderNext => exact .inl rfl
  | _ => exact .inr rfl

/-- An acceptance is its effect, the message it takes, and a record of the command that joins. -/
theorem Device.accept_eq (d : Device) (f : Fetched) (c : Cmd) (tags : List Nat) : ∃ c1, d.accept f c tags =
    (((((d.admitting tags).acceptEffect f.entry).takeMessage c).1.join c1).acceptanceRecord
      f stAccepted c1.tag 0 c1.promise).count 0x807001 1 :=
  ⟨_, rfl⟩

/-- The parts that effects at acceptance speak of, but for the streams: step counter, current set, version tags, and the count of switches. -/
structure EffectsKept (d t : Device) : Prop where
  step : t.stepCounter = d.stepCounter
  curSet : t.curSet = d.curSet
  verA : t.verA = d.verA
  verB : t.verB = d.verB
  switches : t.counter 0x808001 = d.counter 0x808001

theorem EffectsKept.trans {a b c : Device} (h : EffectsKept a b) (g : EffectsKept b c) : EffectsKept a c :=
  ⟨g.step.trans h.step, g.curSet.trans h.curSet, g.verA.trans h.verA, g.verB.trans h.verB, g.switches.trans h.switches⟩

/-- What follows the effect of an acceptance keeps it, and moves no stream but the message's. -/
theorem Device.join_keeps_effects (d : Device) (f : Fetched) (c : Cmd) :
    EffectsKept d (((d.join c).acceptanceRecord f stAccepted c.tag 0 c.promise).count 0x807001 1) ∧
    (((d.join c).acceptanceRecord f stAccepted c.tag 0 c.promise).count 0x807001 1).streams = d.streams := by
  have hw : Device.Within (2147549200 ||| 135680) d ((d.join c).acceptanceRecord f stAccepted c.tag 0 c.promise) :=
    Device.acceptanceRecord_within _ _ _ _ _ _ (Device.join_within d c (.refl _ _) rfl) rfl
  have hsafety : ((d.join c).acceptanceRecord f stAccepted c.tag 0 c.promise).safety = d.safety := hw.part .safety (by decide)
  refine ⟨⟨?_, ?_, ?_, ?_, ?_⟩, ?_⟩
  · exact (Device.count_stepCounter _ _ _).trans (hw.part .stepCounter (by decide))
  · exact (Device.count_curSet _ _ _).trans (hw.part .curSet (by decide))
  · exact (Device.count_verA _ _ _).trans (hw.part .verA (by decide))
  · exact (Device.count_verB _ _ _).trans (hw.part .verB (by decide))
  · rw [Device.counter_count_other _ (by decide), Device.counter, hsafety, Device.counter]
  · exact (Device.count_streams _ _ _).trans (hw.part .streams (by decide))

theorem Device.takeMessage_keeps_effects (d : Device) (c : Cmd) : EffectsKept d (d.takeMessage c).1 := by
  have hw : Device.Within 2097152 d (d.takeMessage c).1 := Device.takeMessage_within d c (.refl _ _) rfl
  exact ⟨hw.part .stepCounter (by decide), hw.part .curSet (by decide), hw.part .verA (by decide), hw.part .verB (by decide),
    congrArg (fun s : Safety => s.counters.get 0 0x808001) (hw.part .safety (by decide))⟩

/-- What an acceptance leaves of these parts: its effect on a block `d1` that has them as before. -/
theorem Device.accept_effects (d : Device) (f : Fetched) (c : Cmd) (tags : List Nat) : ∃ d1 : Device, EffectsKept d d1 ∧ d1.streams = d.streams ∧
    EffectsKept (d1.acceptEffect f.entry) (d.accept f c tags) ∧ (d.accept f c tags).streams = ((d1.acceptEffect f.entry).takeMessage c).1.streams := by
  obtain ⟨c1, h⟩ := d.accept_eq f c tags
  obtain ⟨hkept, hstreams⟩ := Device.join_keeps_effects
    (((d.admitting tags).acceptEffect f.entry).takeMessage c).1 f c1
  have hw := d.admitting_within tags
  refine ⟨d.admitting tags, ?_, hw.part .streams (by decide), ?_, ?_⟩
  · exact ⟨hw.part .stepCounter (by decide), hw.part .curSet (by decide), hw.part .verA (by decide), hw.part .verB (by decide),
      congrArg (fun s : Safety => s.counters.get 0 0x808001) (hw.part .safety (by decide))⟩
  · rw [h]; exact (Device.takeMessage_keeps_effects _ c).trans hkept
  · rw [h]; exact hstreams

theorem Device.acceptEffect_streams (d : Device) (e : List Byte) : (d.acceptEffect e).streams = d.streams :=
  (Device.acceptEffect_within d e (.refl 163577858 _) rfl).part .streams (by decide)

/-- Settles O17: the effects by opcode, through everything else that an acceptance does. -/
theorem acceptanceEffects : Obligations.AcceptanceEffects := by
  unfold Obligations.AcceptanceEffects
  intro d f c tags hc t e
  obtain ⟨d1, hbefore, hs1, hafter, hst⟩ := d.accept_effects f c tags
  refine ⟨fun hop hset => ?setStep, fun hno => ?keepStep, fun hop hs => ?setA, fun hop hs => ?setB, fun hop => ?keepSet, fun hop => ?send, fun hop => ?noSend⟩
  case setStep => rw [hafter.step, Device.acceptEffect_step d1 hop hset]
  case keepStep =>
    rw [hafter.step]
    by_cases hop : opcodeOf f.entry = 0x44
    · rw [Device.acceptEffect_switch d1 hop, ← hbefore.step]; split <;> rfl
    · rw [Device.acceptEffect_other d1 hop hno, hbefore.step]
  case setA =>
    have he := Device.acceptEffect_switch d1 hop
    rw [if_pos hs] at he
    rw [he] at hafter
    exact ⟨hafter.curSet, hafter.verA, hafter.verB.trans hbefore.verB, hafter.switches.trans ((Device.counter_count_same _ _ _).trans (congrArg (stopAdd 64 · 1) hbefore.switches))⟩
  case setB =>
    have he := Device.acceptEffect_switch d1 hop
    rw [if_neg hs] at he
    rw [he] at hafter
    exact ⟨hafter.curSet, hafter.verA.trans hbefore.verA, hafter.verB, hafter.switches.trans ((Device.counter_count_same _ _ _).trans (congrArg (stopAdd 64 · 1) hbefore.switches))⟩
  case keepSet =>
    have hkept : EffectsKept { d1 with stepCounter := (d1.acceptEffect f.entry).stepCounter } (d1.acceptEffect f.entry) := by
      by_cases hset : opcodeOf f.entry = 0x41 ∧ (ent f.entry 0x21 1).testBit 0 = true
      · rw [Device.acceptEffect_step d1 hset.1 hset.2]; exact ⟨rfl, rfl, rfl, rfl, rfl⟩
      · rw [Device.acceptEffect_other d1 hop hset]; exact ⟨rfl, rfl, rfl, rfl, rfl⟩
    have hall := hkept.trans hafter
    exact ⟨hall.curSet.trans hbefore.curSet, hall.verA.trans hbefore.verA, hall.verB.trans hbefore.verB, hall.switches.trans hbefore.switches⟩
  case send =>
    have hst' : t.streams = d.streams.put Stream.fresh (ent e 0x20 1) { d.streams.get Stream.fresh (ent e 0x20 1) with
        nextSend := (d.streams.get Stream.fresh (ent e 0x20 1)).nextSend + 1 } := by
      rw [← hs1, ← Device.acceptEffect_streams d1 f.entry, ← hc]
      exact hst.trans (by rw [Device.takeMessage, if_pos (by rw [hc]; exact hop), hc])
    rw [hst']
    exact ⟨by rw [Store.get_put_same], fun k hk => Store.get_put_other hk⟩
  case noSend =>
    refine hst.trans ?_
    rw [Device.takeMessage, if_neg (by rw [hc]; exact hop), Device.acceptEffect_streams, hs1]

end Sys2Proof.Machine
end

section
/-! PROOF. Watches and books: promises, host accesses, queue pairs out of balance, and the plan's promises (R249, R252, R257, R258, R335, R357, R386). -/

namespace Sys2Proof.Machine

/-! ### The promise timer (R335) -/

/-- Before its promise a command is left alone. -/
theorem runs_promiseExpiry_early {tag : Nat} {s : State} {c : Cmd} (hc : s.dev.cmd tag = some c) (h : s.dev.now < c.promise) :
    Runs (.promiseExpiry tag) s s.dev :=
  runs_of_eq rfl (by simp only [Device.promiseExpiry, hc, h, true_or, if_true])

/-- From its promise on a command is marked, counted once, and reported. -/
theorem runs_promiseExpiry_due {tag : Nat} {s : State} {c : Cmd} (hc : s.dev.cmd tag = some c) (hfirst : c.overdue = false) (h : c.promise ≤ s.dev.now) :
    ∃ ev, Runs (.promiseExpiry tag) s ((((s.dev.modCmd tag fun c => { c with overdue := true }).count 0x80A007 1).alert 4).logEvent ev) := by
  have hd : ∃ ev, s.dev.promiseExpiry tag = (((s.dev.modCmd tag fun c => { c with overdue := true }).count 0x80A007 1).alert 4).logEvent ev := by
    simp only [Device.promiseExpiry, hc, Nat.not_lt.2 h, hfirst, Bool.false_eq_true, or_self, if_false]
    exact ⟨_, rfl⟩
  exact hd.imp fun _ => runs_of_eq rfl

/-- An alert leaves every counter as it is. -/
theorem Device.alert_counter (d : Device) (b a : Nat) : (d.alert b).counter a = d.counter a := by
  rw [Device.counter, Device.alert_safety, Device.counter]

/-- The command a change of command `tag` leaves under that tag. -/
theorem Device.cmd_modCmd_same {d : Device} {tag : Nat} {c : Cmd} (hc : d.cmd tag = some c) (f : Cmd → Cmd) (hf : ∀ c, (f c).tag = c.tag) :
    (d.modCmd tag f).cmd tag = some (f c) := by
  rw [Device.cmd_modCmd d tag tag f hf, hc, Option.map_some, if_pos (Device.cmd_tag hc)]

/-! ### The overdue limit and host accesses (R252, R335) -/

section Overdue

variable {tag : Nat} {s : State} {c : Cmd} (hc : s.dev.cmd tag = some c) (hsound : c.failure = none) (hdue : c.overdueAt ≤ s.dev.now)
include hc hsound hdue

/-- A fabric command that waits for its partners only has its limit moved. -/
theorem runs_overdueLimitExpiry_waiting (hfab : isFabricOp (opcodeOf c.entry) = true) (hwaits : s.dev.awaitsPartner c = true) :
    Runs (.overdueLimitExpiry tag) s (s.dev.modCmd tag fun c => { c with overdueAt := c.overdueAt + 1000 * s.dev.setting 0x401001 }) :=
  runs_of_eq rfl (by simp [Device.overdueExpiry, hc, hsound, Nat.not_lt.2 hdue, hfab, hwaits])

/-- A command that no bay holds, and that neither waits for partners nor has made progress for the limit, is aborted. -/
theorem runs_overdueLimitExpiry_aborts (h : isFabricOp (opcodeOf c.entry) = false ∨
      (s.dev.awaitsPartner c = false ∧ c.progressAt + 1000 * s.dev.setting 0x401001 ≤ s.dev.now)) (hfree : s.dev.holders c = []) :
    ∃ d x, Runs (.overdueLimitExpiry tag) s d ∧ d.cmd tag = some x ∧ x.failure = some ⟨csAborted, 0, 0xFF⟩ := by
  have hstale : (isFabricOp (opcodeOf c.entry) && (s.dev.awaitsPartner c || decide (s.dev.now < c.progressAt + 1000 * s.dev.setting 0x401001))) = false := by
    rcases h with h | ⟨hwaits, hold⟩
    · rw [h, Bool.false_and]
    · rw [hwaits, decide_eq_false (Nat.not_lt.2 hold), Bool.or_self, Bool.and_false]
  have hd : ∃ ev, s.dev.overdueExpiry tag = ((s.dev.logEvent ev).failCmd tag csAborted 0 0xFF).abort c := by
    simp only [Device.overdueExpiry, hc, hsound, Nat.not_lt.2 hdue, Option.isSome_none, Bool.false_eq_true, or_self, if_false, hstale, hfree]
    exact ⟨_, rfl⟩
  obtain ⟨ev, hd⟩ := hd
  have hlogged : (s.dev.logEvent ev).cmd tag = some c := (Device.cmd_of_cmds (Device.logEvent_cmds s.dev ev) tag).trans hc
  obtain ⟨x, hx, hf⟩ := failCmd_status (s.dev.logEvent ev) tag csAborted 0 0xFF c hlogged hsound (by decide)
  exact ⟨_, x, runs_of_eq rfl hd, (Device.cmd_of_cmds (Device.abort_cmds _ c) tag).trans hx, hf⟩

end Overdue

/-- An access to host memory that gets no answer fails the command it belongs to. -/
theorem runs_hostDmaTimeout {tag : Nat} {s : State} {c : Cmd} {o : TileOp} (hc : s.dev.cmd tag = some c) (hsound : c.failure = none) (hhost : c.usesHost = true)
    (ho : o ∈ c.ops) (hrun : o.state = .running) : ∃ d x, Runs (.hostDmaTimeout tag) s d ∧ d.cmd tag = some x ∧ x.failure = some ⟨csHostDma, 0, 0xFF⟩ := by
  have hops : c.ops.isEmpty = false := List.isEmpty_eq_false_iff.2 (List.ne_nil_of_mem ho)
  have hany : (c.ops.any fun o => o.state == .running) = true := List.any_eq_true.2 ⟨o, ho, by rw [hrun]; rfl⟩
  have hd : s.dev.hostTimeout tag = s.dev.failWith tag csHostDma := by simp [Device.hostTimeout, hc, hhost, hops, hany, hsound]
  obtain ⟨x, hx, hf⟩ := failCmd_status s.dev tag csHostDma 0 0xFF c hc hsound (by decide)
  exact ⟨_, x, runs_of_eq rfl hd, hx, hf⟩

/-- Settles O37: each timer by the branch its hypotheses choose. -/
theorem promisesAreWatched : Obligations.PromisesAreWatched := by
  unfold Obligations.PromisesAreWatched
  refine ⟨fun tag s c hc hfirst => ⟨runs_promiseExpiry_early hc, fun hdue => ?due⟩,
    fun tag s c hc hsound hdue => ⟨runs_overdueLimitExpiry_waiting hc hsound hdue, runs_overdueLimitExpiry_aborts hc hsound hdue⟩,
    fun tag s c o hc hsound hhost ho hrun => runs_hostDmaTimeout hc hsound hhost ho hrun⟩
  case due =>
    obtain ⟨ev, hruns⟩ := runs_promiseExpiry_due hc hfirst hdue
    refine ⟨_, hruns, ?_, ?_, ?_, ?_⟩
    · rw [Device.cmd_of_cmds (Device.logEvent_cmds _ _), Device.cmd_of_cmds (Device.alert_cmds _ _)]
      exact Device.cmd_modCmd_same hc _ fun _ => rfl
    · rw [Device.counter, Device.logEvent_safety]
      exact (Device.alert_counter _ _ _).trans (Device.counter_count_same _ _ _)
    · rw [Device.logEvent_safety]
      exact Device.alert_set _ 4 (by decide)
    · rw [Device.logEvent_mem, Device.alert_mem, Device.count_mem, Device.modCmd_mem]

/-! ### The books (R257, R258) -/

theorem Q.min_le_right (a b : Q) : (a.min b).le b = true := by
  unfold Q.min
  split
  · simp [Q.le]
  · next h => simpa [Q.le, Q.lt] using h

/-- An urgent bucket is never above its depth. -/
theorem Device.bookOk_urgentBucket (d : Device) (k : Fin 8) : d.bookOk (.urgentBucket k) = true := Q.min_le_right _ _

theorem runs_bookAudit_balanced {b : Book} {s : State} (h : s.dev.bookOk b = true) : Runs (.bookAudit b) s s.dev :=
  runs_of_eq rfl (by simp [Device.auditBook, h])

section OutOfBalance

variable {b : Book} {s : State} (hready : s.dev.isReady = true) (hbook : s.dev.bookOk b = false)
include hready hbook

theorem Device.auditBook_pair {q : Nat} (hb : bookOwner b = .pair q) : s.dev.auditBook b = s.dev.pairReset q 13 := by
  simp [Device.auditBook, hready, hbook, hb]

theorem Device.auditBook_bay {k : Nat} (hb : bookOwner b = .bay k) (hin : s.dev.bayOut k = false) :
    s.dev.auditBook b = s.dev.bayDetected k 0x05 13 0xFFFF [] := by
  simp [Device.auditBook, hready, hbook, hb, hin]

theorem Device.auditBook_device {t : Nat} (hb : bookOwner b = .device) (hat : s.dev.safety.tagAuditAt = some t) (hsoon : s.dev.now ≤ t + 1000000000) :
    s.dev.auditBook b = s.dev.rung3 .self 2 ⟨13, 0, 0xFFFF, []⟩ := by
  simp [Device.auditBook, hready, hbook, hb, Device.tagBook, hat, hsoon]

end OutOfBalance

/-- Settles O38: a book is handled where it belongs: rung 2 of its pair or bay, or rung 3. -/
theorem booksOutOfBalanceAreHandled : Obligations.BooksOutOfBalanceAreHandled := by
  unfold Obligations.BooksOutOfBalanceAreHandled
  refine ⟨fun q s => ⟨_, rfl, Device.pairReset_done s.dev q 0⟩, fun b s h => runs_bookAudit_balanced h,
    fun k s => runs_bookAudit_balanced (s.dev.bookOk_urgentBucket k), fun b s hready hbook => ⟨fun q hb => ?pair, fun k hb hin hnesting => ?bay, fun t hb hat hsoon => ?device⟩⟩
  case pair =>
    have howner : bookOwner b = .pair q.val := by rcases hb with rfl | rfl <;> rfl
    exact ⟨_, runs_of_eq rfl (Device.auditBook_pair hready hbook howner), Device.pairReset_done s.dev q 13⟩
  case bay =>
    have howner : bookOwner b = .bay k.val := by rcases hb with rfl | rfl | rfl | rfl | rfl | rfl <;> rfl
    exact ⟨_, runs_of_eq rfl (Device.auditBook_bay hready hbook howner hin), (Device.bayDetected_begun k.isLt hin hnesting 0x05 13 0xFFFF []).1⟩
  case device =>
    subst hb
    have hreset := Device.rung3_begun s.dev .self 2 ⟨13, 0, 0xFFFF, []⟩
    exact ⟨_, runs_of_eq rfl (Device.auditBook_device hready hbook rfl hat hsoon), hreset.phase, hreset.commands⟩

/-! ### The plan (R249, R386) -/

/-- The ledgers of every bay are those of the block before: charges booked are not computed again (R249). -/
def LedgersKept (d0 d : Device) : Prop :=
  ∀ k, (d.bay k).tileBacklog = (d0.bay k).tileBacklog ∧ (d.bay k).memBacklog = (d0.bay k).memBacklog ∧ (d.bay k).urgentBacklog = (d0.bay k).urgentBacklog

theorem LedgersKept.trans {a b c : Device} (h : LedgersKept a b) (g : LedgersKept b c) : LedgersKept a c := fun k =>
  ⟨(g k).1.trans (h k).1, (g k).2.1.trans (h k).2.1, (g k).2.2.trans (h k).2.2⟩

theorem LedgersKept.of_bays {a b : Device} (h : b.bays = a.bays) : LedgersKept a b := fun k => by rw [Device.bay_of_bays h]; exact ⟨rfl, rfl, rfl⟩

/-- A change of a bay's bucket keeps its ledgers. -/
theorem LedgersKept.modBay (d : Device) (k : Nat) {f : Bay → Bay}
    (hf : ∀ b, (f b).tileBacklog = b.tileBacklog ∧ (f b).memBacklog = b.memBacklog ∧ (f b).urgentBacklog = b.urgentBacklog) : LedgersKept d (d.modBay k f) := by
  intro j
  by_cases hj : j = k
  · subst hj
    by_cases h8 : j < 8
    · rw [Device.bay_modBay_same d h8]; exact hf _
    · have hn : ∀ e : Device, e.bay j = Bay.fresh := fun e => by simp [Device.bay, h8]
      rw [hn, hn]
      exact ⟨rfl, rfl, rfl⟩
  · rw [Device.bay_modBay_other d hj]
    exact ⟨rfl, rfl, rfl⟩

theorem LedgersKept.settleBuckets (d : Device) : LedgersKept d d.settleBuckets := by
  unfold Device.settleBuckets
  generalize List.range 8 = ks
  induction ks generalizing d with
  | nil => exact .of_bays rfl
  | cons k ks ih =>
    rw [List.foldl_cons]
    refine LedgersKept.trans ?_ (ih _)
    exact LedgersKept.modBay d k fun _ => ⟨rfl, rfl, rfl⟩

/-- Publishing a floor changes the floor of the pace, and counts at most its move. -/
theorem Device.publish_eq (d : Device) (f : Nat) : ∃ u : Device, d.publish f = u ∧ u.pace = { d.pace with published := f } ∧ u.bays = d.settleBuckets.bays := by
  refine ⟨_, rfl, ?_⟩
  have hpace : (d.settleBuckets.withPace fun p => { p with published := f }).pace = { d.pace with published := f } :=
    congrArg (fun p : Pace => { p with published := f }) (Device.settleBuckets_pace d)
  unfold Device.publish
  dsimp only
  split
  · exact ⟨hpace, rfl⟩
  · split
    · exact ⟨hpace, rfl⟩
    · split <;> exact ⟨hpace, rfl⟩

/-- A plan takes a floor, publishes it, and is remembered. -/
theorem Device.plan_eq {d : Device} (w : Nat) (h : d.isReady = true ∨ d.power.phase = .tested) : ∃ (f : Nat) (p : Pace),
    d.plan w = ((({ d with pace := p } : Device).publish (d.publishedOf f)).count 0x803005 1).withPower (fun x => { x with planned := true }) ∧
    p.planned = f ∧ p.lastPlan = d.now := by
  have hplans : ¬(!(d.isReady || d.power.phase == .tested)) = true := by rcases h with h | h <;> simp [h]
  unfold Device.plan
  rw [if_neg hplans]
  exact ⟨_, _, rfl, rfl, rfl⟩

/-- Settles O47: a plan changes the pace and the buckets' levels, and no command, no other ledger and no set. -/
theorem plansKeepPromises : Obligations.PlansKeepPromises := by
  unfold Obligations.PlansKeepPromises
  intro w s hphase
  obtain ⟨f, p, hplan, hplanned, hlast⟩ := Device.plan_eq w hphase
  obtain ⟨u, hu, hpace, hbays⟩ := Device.publish_eq ({ s.dev with pace := p } : Device) (s.dev.publishedOf f)
  have hledgers : LedgersKept s.dev u := (LedgersKept.settleBuckets ({ s.dev with pace := p } : Device)).trans (.of_bays hbays)
  have hcmds : u.cmds = s.dev.cmds := hu ▸ Device.publish_cmds _ _
  have hio : u.ioBacklog = s.dev.ioBacklog := hu ▸ Device.publish_ioBacklog _ _
  have hset : u.curSet = s.dev.curSet := hu ▸ Device.publish_curSet _ _
  rw [hu] at hplan
  refine ⟨_, f, runs_of_eq rfl hplan, ?_, ?_, ?_, rfl, hcmds, hio, hset, fun k _ => hledgers k⟩
  · exact (congrArg Pace.planned hpace).trans hplanned
  · exact congrArg Pace.published hpace
  · exact (congrArg Pace.lastPlan hpace).trans hlast

end Sys2Proof.Machine
end

section
/-! PROOF. PCIe links and resets, MSI-X masks, the banked state and wakes (R228, R357, R403, R424, R435 to R441). -/

namespace Sys2Proof.Machine

/-! ### The masks of MSI-X (R228) -/

theorem Outputs.mem_msixFlush_msixPending {o : Outputs} {v : Nat} :
    v ∈ o.msixFlush.msixPending ↔ v ∈ o.msixPending ∧ ¬(v < 67 ∧ o.msixOpen v = true) := by
  simp only [Outputs.msixFlush, List.mem_filter, List.contains_iff_mem, List.mem_range, Bool.and_eq_true, Bool.not_eq_true', Bool.eq_false_iff, ne_eq]
  exact ⟨fun ⟨hp, h⟩ => ⟨hp, fun ⟨hv, ho⟩ => h ⟨hv, hp, ho⟩⟩, fun ⟨hp, h⟩ => ⟨hp, fun ⟨hv, _, ho⟩ => h ⟨hv, ho⟩⟩⟩

theorem Outputs.mem_msixFlush_msix {o : Outputs} {v : Nat} (hv : v < 67) (hp : v ∈ o.msixPending) (ho : o.msixOpen v = true) : v ∈ o.msixFlush.msix := by
  simp [Outputs.msixFlush, hv, hp, ho]

/-- A write of the masks changes them, and then sends what is pending and open. -/
theorem Outputs.configure_eq_flush (o : Outputs) (m : MsixWrite) :
    ∃ o' : Outputs, o.configure m = o'.msixFlush ∧ o'.msixPending = o.msixPending ∧ o'.config = o.config := by
  cases m <;> exact ⟨_, rfl, rfl, rfl⟩

/-- After a write of the masks a pending message has left exactly if its vector is open. -/
theorem Outputs.configure_pending {o : Outputs} {m : MsixWrite} {v : Nat} (hv : v < 67) (hp : v ∈ o.msixPending) :
    ((o.configure m).msixOpen v = true → v ∈ (o.configure m).msix ∧ v ∉ (o.configure m).msixPending) ∧
    ((o.configure m).msixOpen v = false → v ∈ (o.configure m).msixPending) := by
  obtain ⟨o', ho, hpend, -⟩ := o.configure_eq_flush m
  rw [← hpend] at hp
  rw [ho, Outputs.mem_msixFlush_msixPending]
  refine ⟨fun hopen => ?_, fun hshut => ⟨hp, fun h => ?_⟩⟩
  · have hopen' : o'.msixOpen v = true := hopen
    exact ⟨Outputs.mem_msixFlush_msix hv hp hopen', fun h => h.2 ⟨hv, hopen'⟩⟩
  · exact absurd (h.2.symm.trans hshut) (by decide)

/-- A mask written to an entry stands there, and in no other. -/
theorem Outputs.configure_entry (o : Outputs) (v : Fin 67) (mk : Bool) :
    (v.val ∈ (o.configure (.entry v mk)).msixMasked ↔ mk = true) ∧
    ∀ u, u ≠ v.val → (u ∈ (o.configure (.entry v mk)).msixMasked ↔ u ∈ o.msixMasked) := by
  cases mk <;> simp +contextual [Outputs.configure, Outputs.msixFlush]

theorem exec_dictArgDataWrite_msix (m : MsixWrite) (s : State) : exec (.dictArgDataWrite (.msix m)) s =
    .next { s with dev := if s.dev.power.linkUp && s.dev.isReady then s.dev.withOut fun o => o.configure m else s.dev } := rfl

theorem runs_msixWrite {m : MsixWrite} {s : State} (hlink : s.dev.power.linkUp = true) (hready : s.dev.isReady = true) :
    Runs (.dictArgDataWrite (.msix m)) s (s.dev.withOut fun o => o.configure m) :=
  runs_of_eq (exec_dictArgDataWrite_msix m s) (if_pos (by rw [hlink, hready]; rfl))

theorem runs_msixWrite_closed {m : MsixWrite} {s : State} (h : s.dev.power.linkUp = false ∨ s.dev.isReady = false) :
    Runs (.dictArgDataWrite (.msix m)) s s.dev :=
  runs_of_eq (exec_dictArgDataWrite_msix m s) (if_neg (by rcases h with h | h <;> simp [h]))

/-! ### The link is lost (R403) -/

theorem Device.setOwner_devHandling (d : Device) (o : Nat) : (d.setOwner o).safety.devHandling = d.safety.devHandling := by
  unfold Device.setOwner
  split
  · rfl
  · unfold Device.loadCut; split <;> rfl

/-- What the loss of the link leaves: the link down, the dictionary without an in-band owner, and everything that commands hold. -/
structure LinkLost (d0 d : Device) : Prop where
  power : d.power = { d0.power with linkUp := false }
  owner : d.dict.owner = if d0.dict.owner = 1 then 0 else d0.dict.owner
  cmds : d.cmds = d0.cmds
  mem : d.mem = d0.mem
  handling : d.safety.devHandling = d0.safety.devHandling

theorem Device.linkLost_spec (d : Device) : LinkLost d d.linkLost := by
  by_cases h : d.dict.owner = 1
  · have he : d.linkLost = (d.withPower fun p => { p with linkUp := false }).setOwner 0 := if_pos h
    rw [he]
    exact ⟨Device.setOwner_power _ _, (Device.setOwner_owner _).trans (if_pos h).symm, Device.setOwner_cmds _ _, Device.setOwner_mem _ _,
      Device.setOwner_devHandling _ _⟩
  · have he : d.linkLost = d.withPower fun p => { p with linkUp := false } := if_neg h
    rw [he]
    exact ⟨rfl, (if_neg h).symm, rfl, rfl, rfl⟩

/-! ### Resets of the host (R357, R435) -/

/-- What the start of rung 3 makes of the power domain: the link goes down with PERST# only. -/
theorem Device.rung3_power (d : Device) (o : ResetOrigin) (n : Nat) (w : Blame) : (d.rung3 o n w).power = { d.power with
    phase := .resetting, origin := o, powerState := 0, pmeStatus := decide (o = .self) && d.power.pmeStatus, wakeDue := false, l23 := false
    linkUp := if o = .perst then false else d.power.linkUp } := by
  simp [Device.rung3, Device.clearWork_power]

/-- The block with PERST# low: the link and WAKE# are gone. -/
def Device.perstHeld (d : Device) : Device := d.linkLost.withPower fun p => { p with perstLow := true, wakeLow := false }

theorem Device.perstHeld_power (d : Device) : d.perstHeld.power = { d.power with linkUp := false, perstLow := true, wakeLow := false } :=
  congrArg (fun p : PowerDom => { p with perstLow := true, wakeLow := false }) d.linkLost_spec.power

theorem Device.perstHeld_isReady (d : Device) : d.perstHeld.isReady = d.isReady := by
  rw [Device.isReady, Device.perstHeld_power, Device.isReady]

theorem Device.perstAssert_eq (d : Device) : d.perstAssert = if d.perstHeld.poweredUp then d.perstHeld.rung3 .perst 2 {} else d.perstHeld := rfl

/-- PERST# takes effect on the pins whether or not a reset begins. -/
theorem Device.perstAssert_pins (d : Device) : d.perstAssert.power.perstLow = true ∧ d.perstAssert.power.linkUp = false ∧ d.perstAssert.power.wakeLow = false := by
  rw [Device.perstAssert_eq]
  split
  · rw [Device.rung3_power, Device.perstHeld_power]; exact ⟨rfl, rfl, rfl⟩
  · rw [Device.perstHeld_power]; exact ⟨rfl, rfl, rfl⟩

theorem Device.perstAssert_ready {d : Device} (h : d.isReady = true) : RungThree d.perstAssert := by
  rw [Device.perstAssert_eq, if_pos (by rw [Device.poweredUp, Device.perstHeld_isReady, h, Bool.true_or])]
  exact Device.rung3_begun _ _ _ _

theorem Device.perstAssert_unready {d : Device} (h : d.isReady = false) (hn : d.safety.devHandling < 2) : d.perstAssert = d.perstHeld := by
  have hhandling : d.perstHeld.safety.devHandling = d.safety.devHandling := d.linkLost_spec.handling
  rw [Device.perstAssert_eq, if_neg (by rw [Device.poweredUp, Device.perstHeld_isReady, h, hhandling]; simpa using hn)]

/-- A reset over a trained link begins rung 3 and keeps the link. -/
theorem runs_hostReset {c : Instr} {s : State} (hc : c = .hotReset ∨ c = .functionLevelReset) (hready : s.dev.isReady = true)
    (hlink : s.dev.power.linkUp = true) : ∃ o, o ≠ .perst ∧ Runs c s (s.dev.rung3 o 2 {}) := by
  rcases hc with rfl | rfl
  · exact ⟨.hot, by decide, runs_of_eq rfl (if_pos (by rw [hlink, Device.poweredUp, hready]; rfl))⟩
  · exact ⟨.functionLevel, by decide, runs_of_eq rfl (if_pos (by rw [hlink, hready]; rfl))⟩

theorem runs_hostReset_unlinked {c : Instr} {s : State} (hc : c = .hotReset ∨ c = .functionLevelReset) (hlink : s.dev.power.linkUp = false) :
    Runs c s s.dev := by
  rcases hc with rfl | rfl <;> exact runs_of_eq rfl (if_neg (by rw [hlink, Bool.false_and]; decide))

/-! ### PERST# is released (R424) -/

theorem Device.linkMayTrain_of_ready {d : Device} (himage : d.images.present.testBit 2 = true) (hpin : d.power.perstLow = false) (h : d.isReady = true) :
    d.linkMayTrain = true := by
  have hphase : d.power.phase = .ready ∨ d.power.phase = .restricted := by simpa [Device.isReady] using h
  rcases hphase with hphase | hphase <;> simp [Device.linkMayTrain, himage, hpin, hphase]

theorem Device.linkMayTrain_of_service {d : Device} (h : d.power.phase = .service) : d.linkMayTrain = false := by
  simp [Device.linkMayTrain, h]

theorem Device.trainLink_cmds_mem (d : Device) : d.trainLink.cmds = d.cmds ∧ d.trainLink.mem = d.mem := by
  unfold Device.trainLink
  split <;> exact ⟨rfl, rfl⟩

theorem Device.trainLink_perstLow (d : Device) : d.trainLink.power.perstLow = d.power.perstLow := by
  unfold Device.trainLink
  split <;> rfl

/-- Settles O52: requests, masks, and what each link event does to the pins, the link and the work. -/
theorem linkEventsAndHostResets : Obligations.LinkEventsAndHostResets := by
  unfold Obligations.LinkEventsAndHostResets
  refine ⟨fun s h => runs_of_eq rfl (if_pos h), fun s h => runs_of_eq rfl (if_neg (by rw [h]; decide)), fun m s hlink hready => ?masks,
    fun m s h => runs_msixWrite_closed h, fun s => ⟨_, rfl, ?down⟩, fun s => ⟨_, rfl, ?assert⟩, fun c s hc hready hlink => ?reset,
    fun c s hc hlink => runs_hostReset_unlinked hc hlink, fun s => ⟨_, rfl, ?release⟩⟩
  case masks =>
    obtain ⟨o', ho, -, hconfig⟩ := s.dev.out.configure_eq_flush m
    refine ⟨_, runs_msixWrite hlink hready, rfl, (congrArg Outputs.config ho).trans hconfig, ?_, ?_, fun v hv hp => Outputs.configure_pending hv hp⟩
    · rintro en all rfl; exact ⟨rfl, rfl, rfl⟩
    · rintro v mk rfl; exact s.dev.out.configure_entry v mk
  case down => exact ⟨by rw [s.dev.linkLost_spec.power], s.dev.linkLost_spec.owner, s.dev.linkLost_spec.cmds, s.dev.linkLost_spec.mem⟩
  case assert =>
    obtain ⟨hpin, hlink, hwake⟩ := s.dev.perstAssert_pins
    refine ⟨hpin, hlink, hwake, Device.perstAssert_ready, fun hunready hn => ?_⟩
    rw [Device.perstAssert_unready hunready hn, Device.perstHeld_power]
    exact ⟨rfl, s.dev.linkLost_spec.cmds⟩
  case reset =>
    obtain ⟨o, ho, hruns⟩ := runs_hostReset hc hready hlink
    refine ⟨_, hruns, Device.rung3_begun _ _ _ _, ?_⟩
    rw [Device.rung3_power]
    exact (if_neg ho).trans hlink
  case release =>
    obtain ⟨hcmds, hmem⟩ := Device.trainLink_cmds_mem (s.dev.withPower fun p => { p with perstLow := false })
    refine ⟨Device.trainLink_perstLow _, fun himage hready => ?_, fun hphase => ?_, hcmds, hmem⟩
    · have hmay : (s.dev.withPower fun p => { p with perstLow := false }).linkMayTrain = true := Device.linkMayTrain_of_ready himage rfl hready
      rw [Device.trainLink, if_pos hmay]; rfl
    · have hmay : (s.dev.withPower fun p => { p with perstLow := false }).linkMayTrain = false := Device.linkMayTrain_of_service hphase
      rw [Device.trainLink, if_neg (by rw [hmay]; decide)]; rfl

end Sys2Proof.Machine
end

section
/-! PROOF. The banked state and wakes: entry, exit, and what goes out at each (R228, R357, R436 to R441). -/

namespace Sys2Proof.Machine

/-! ### Entry (R436, R437) -/

/-- A pair that is enabled or draining is re-initialised. -/
def Device.stopPair (d : Device) (q : Nat) : Device := if (d.queue q).state = 1 ∨ (d.queue q).state = 2 then d.pairReset q 0 else d

/-- Pair `q` is neither enabled nor draining. -/
def Device.PairStopped (d : Device) (q : Nat) : Prop := (d.queue q).state ≠ 1 ∧ (d.queue q).state ≠ 2

theorem Device.stopPair_stopped (d : Device) (q : Fin 64) : (d.stopPair q.val).PairStopped q.val := by
  unfold Device.stopPair
  split
  · rw [Device.PairStopped, (Device.pairReset_done d q 0).disabled]; decide
  · next h => exact not_or.1 h

/-- Stopping one pair starts no other. -/
theorem Device.PairStopped.stopPair {d : Device} {j : Nat} (h : d.PairStopped j) (q : Fin 64) : (d.stopPair q.val).PairStopped j := by
  by_cases hj : j = q.val
  · exact hj ▸ d.stopPair_stopped q
  · unfold Device.stopPair
    split
    · rwa [Device.PairStopped, Device.pairReset_state d q.val 0 j hj]
    · exact h

theorem foldl_stopPair {ks : List Nat} (hks : ∀ k ∈ ks, k < 64) (d : Device) (j : Nat) (h : d.PairStopped j ∨ j ∈ ks) :
    (ks.foldl Device.stopPair d).PairStopped j := by
  induction ks generalizing d with
  | nil => exact h.resolve_right List.not_mem_nil
  | cons k ks ih =>
    obtain ⟨hk, hks⟩ := List.forall_mem_cons.1 hks
    refine ih hks (d.stopPair k) ?_
    rcases h with h | h
    · exact .inl (h.stopPair ⟨k, hk⟩)
    · rcases List.mem_cons.1 h with rfl | h
      · exact .inl (d.stopPair_stopped ⟨j, hk⟩)
      · exact .inr h

/-- Entry into the banked state on a trained link stops every pair. -/
theorem Device.d3hot_eq {d : Device} (hready : d.isReady = true) (hlink : d.power.linkUp = true) (hstate : d.power.powerState = 0) :
    d.d3hot = ((List.range 64).foldl Device.stopPair d).withPower fun p => { p with powerState := 1 } :=
  if_neg (by simp [hready, hlink, hstate])

theorem Device.abortCmds_all (d : Device) : (d.abortCmds fun _ => true).cmds = [] :=
  List.eq_nil_iff_forall_not_mem.2 fun c hc => absurd (Device.abortCmds_none d (fun _ => true) (fun _ _ _ => rfl) c hc) (by decide)

theorem Device.modCmd_cmds_nil {d : Device} (h : d.cmds = []) (tag : Nat) (f : Cmd → Cmd) : (d.modCmd tag f).cmds = [] := by
  rw [Device.modCmd, h]; rfl

/-- A fold of steps that bring no command brings none. -/
theorem foldl_cmds_nil {α : Type} {f : Device → α → Device} (hf : ∀ (d : Device) (a : α), d.cmds = [] → (f d a).cmds = []) (l : List α) {d : Device}
    (h : d.cmds = []) : (l.foldl f d).cmds = [] := by
  induction l generalizing d with
  | nil => exact h
  | cons a l ih => exact ih (hf d a h)

theorem Device.moveSteps_cmds_nil {d : Device} (h : d.cmds = []) (k dst : Nat) : (d.moveSteps k dst).cmds = [] := by
  unfold Device.moveSteps
  refine foldl_cmds_nil (fun d t hd => ?_) _ h
  split
  · exact hd
  · exact Device.modCmd_cmds_nil hd _ _

theorem Device.portDown_cmds_nil {d : Device} (h : d.cmds = []) (k st : Nat) : (d.portDown k st).cmds = [] :=
  foldl_cmds_nil (fun _ dst hd => Device.moveSteps_cmds_nil hd k dst) _ (foldl_cmds_nil (fun _ dst hd => Device.moveSteps_cmds_nil hd k dst) _ h)

/-- A fold of steps that leave the safety state leaves it. -/
theorem foldl_safety {α : Type} {f : Device → α → Device} (hf : ∀ (d : Device) (a : α), (f d a).safety = d.safety) (l : List α) (d : Device) :
    (l.foldl f d).safety = d.safety := by
  induction l generalizing d with
  | nil => rfl
  | cons a l ih => exact (ih (f d a)).trans (hf d a)

/-- The tiles and die buffers lose their contents. -/
def Device.clearTilesAndSram (d : Device) : Device := (List.range 8).foldl (fun d k => (d.clearSram k).clearTiles k) d

/-- The ports of the bays in service go down. -/
def Device.portsDown (d : Device) : Device := (List.range 8).foldl (fun d k => if (d.port k).state = 4 then d else d.portDown k 0) d

theorem Device.bankedEntryEnd_eq {d : Device} (h : d.power.powerState = 1) : d.bankedEntryEnd =
    ((((d.abortCmds fun _ => true).withSafety fun s => { s with beacon := ⟨none, [], []⟩ }).clearTilesAndSram).portsDown).withPower fun p => { p with powerState := 2 } :=
  if_neg (fun hne => hne h)

theorem Device.clearTilesAndSram_cmds_nil {d : Device} (h : d.cmds = []) : d.clearTilesAndSram.cmds = [] := by
  refine foldl_cmds_nil (fun d k hd => ?_) _ h
  rwa [Device.clearTiles_cmds, Device.clearSram]

theorem Device.clearTilesAndSram_safety (d : Device) : d.clearTilesAndSram.safety = d.safety := by
  refine foldl_safety (fun d k => ?_) _ d
  rw [Device.clearTiles_safety, Device.clearSram]

theorem Device.portsDown_cmds_nil {d : Device} (h : d.cmds = []) : d.portsDown.cmds = [] := by
  refine foldl_cmds_nil (fun d k hd => ?_) _ h
  split
  · exact hd
  · exact Device.portDown_cmds_nil hd k 0

theorem Device.portsDown_safety (d : Device) : d.portsDown.safety = d.safety := by
  refine foldl_safety (fun d k => ?_) _ d
  split
  · rfl
  · exact Device.portDown_safety d k 0

/-- The end of entry ends every command and the beacon round. -/
theorem runs_bankedEntryEnd {s : State} (h : s.dev.power.powerState = 1) :
    ∃ d, Runs .bankedEntryEnd s d ∧ d.power.powerState = 2 ∧ d.cmds = [] ∧ d.safety.beacon = ⟨none, [], []⟩ := by
  refine ⟨_, runs_of_eq rfl (Device.bankedEntryEnd_eq h), by rw [Device.withPower_power], ?_, ?_⟩
  · rw [Device.withPower_cmds]
    refine Device.portsDown_cmds_nil (Device.clearTilesAndSram_cmds_nil ?_)
    rw [Device.withSafety_cmds, Device.abortCmds_all]
  · rw [Device.withPower_safety, Device.portsDown_safety, Device.clearTilesAndSram_safety, Device.withSafety_safety]

/-! ### The vector of the reasons that wait (R228, R441) -/

/-- Outputs after vector `v` is raised; a number above 66 names none. -/
def Outputs.raised (o : Outputs) (v : Nat) : Outputs := if v ≤ 66 then o.message v else o

theorem Device.raise_eq (d : Device) (v : Nat) : d.raise v = { d with out := d.out.raised v } := by
  unfold Device.raise Outputs.raised
  split <;> rfl

theorem Outputs.raised_msixOpen (o : Outputs) (v : Nat) : (o.raised v).msixOpen v = o.msixOpen v := by
  unfold Outputs.raised Outputs.message
  split
  · split <;> rfl
  · rfl

theorem Outputs.raised_msix (o : Outputs) (v : Nat) : (o.raised v).msix = if v ≤ 66 ∧ o.msixOpen v = true then v :: o.msix else o.msix := by
  unfold Outputs.raised Outputs.message
  by_cases hv : v ≤ 66
  · by_cases ho : o.msixOpen v = true <;> simp [hv, ho]
  · simp [hv]

/-- A vector raised while it is masked is pending. -/
theorem Outputs.mem_raised_pending {o : Outputs} {v : Nat} (hv : v ≤ 66) (ho : o.msixOpen v = false) : v ∈ (o.raised v).msixPending := by
  simp only [Outputs.raised, hv, if_true, Outputs.message, ho, Bool.false_eq_true, if_false]
  split
  · next h => exact List.contains_iff_mem.1 h
  · exact List.mem_cons_self

/-- Outputs after vector `v` is raised `n` times. -/
def Outputs.raisedTimes (o : Outputs) (v : Nat) : Nat → Outputs
  | 0 => o
  | n + 1 => (o.raisedTimes v n).raised v

/-- Raising a vector `n` times changes the outputs alone. -/
theorem foldl_raise (v n : Nat) (d : Device) : (List.range n).foldl (fun d _ => d.raise v) d = { d with out := d.out.raisedTimes v n } := by
  induction n with
  | zero => rfl
  | succ n ih => rw [List.range_succ, List.foldl_append, ih, List.foldl_cons, List.foldl_nil, Device.raise_eq, Outputs.raisedTimes]

theorem Outputs.raisedTimes_msixOpen (o : Outputs) (v n : Nat) : (o.raisedTimes v n).msixOpen v = o.msixOpen v := by
  induction n with
  | zero => rfl
  | succ n ih => rw [Outputs.raisedTimes, Outputs.raised_msixOpen, ih]

/-- An open vector goes out once for each time it is raised. -/
theorem Outputs.raisedTimes_msix (o : Outputs) (v n : Nat) :
    (o.raisedTimes v n).msix = (if v ≤ 66 ∧ o.msixOpen v = true then List.replicate n v else []) ++ o.msix := by
  induction n with
  | zero => simp [Outputs.raisedTimes]
  | succ n ih =>
    rw [Outputs.raisedTimes, Outputs.raised_msix, Outputs.raisedTimes_msixOpen, ih]
    split <;> rfl

theorem Outputs.raisedTimes_pending {o : Outputs} {v n : Nat} (hv : v ≤ 66) (ho : o.msixOpen v = false) (hn : 0 < n) :
    v ∈ (o.raisedTimes v n).msixPending := by
  cases n with
  | zero => exact absurd hn (Nat.lt_irrefl 0)
  | succ n =>
    rw [Outputs.raisedTimes]
    exact Outputs.mem_raised_pending hv ((o.raisedTimes_msixOpen v n).trans ho)

/-- How many reasons wait for their vector. -/
def Device.wakesWaiting (d : Device) : Nat := (List.range 8).countP fun i => d.power.wakeVec.toNat.testBit i

theorem Device.wakeDeliver_eq (d : Device) : d.wakeDeliver = { d with
    power := { d.power with wakeVec := 0 }, out := d.out.raisedTimes (d.setting 0x304005) d.wakesWaiting } :=
  foldl_raise _ _ _

/-! ### Exit (R438, R441) -/

/-- The end of the exit: D0, the ports train, and the vector of the waiting reasons is raised. -/
theorem runs_bankedExitEnd {s : State} (h : s.dev.power.powerState = 3) : Runs .bankedExitEnd s { s.dev with
    power := { s.dev.power with powerState := 0, wakeDue := false, wakeVec := 0 }
    ports := s.dev.ports.map fun p => if p.state = 0 then { p with state := 1 } else p
    out := s.dev.out.raisedTimes (s.dev.setting 0x304005) s.dev.wakesWaiting } :=
  runs_of_eq rfl ((if_pos h).trans (Device.wakeDeliver_eq _))

/-! ### Wakes (R440) -/

theorem Device.wakeSignal_eq {d : Device} (hdue : d.power.wakeDue = true) (hstate : d.power.powerState = 2) : d.wakeSignal =
    if d.power.l23 then d.withPower fun p => { p with wakeDue := false, wakeLow := true }
    else (d.withPower fun p => { p with wakeDue := false, pmeStatus := true }).withOut fun o => { o with pme := o.pme + 1 } :=
  if_neg (by simp [hdue, hstate])

/-- Settles O53: the states of entry and exit by their steps, and the one message of each wake. -/
theorem bankedStateAndWakes : Obligations.BankedStateAndWakes := by
  unfold Obligations.BankedStateAndWakes
  refine ⟨fun s hready hlink hstate => ?entry, fun s h => runs_bankedEntryEnd h, fun s h => runs_of_eq rfl (if_pos h), fun s hready h => runs_of_eq rfl (if_pos ⟨hready, h⟩),
    fun s h => ?exit, fun s hready hlink => runs_of_eq rfl (if_pos (by rw [hready, hlink]; rfl)), fun s hdue hstate => ?wake, fun s h => ?none⟩
  case entry =>
    refine ⟨_, runs_of_eq rfl (Device.d3hot_eq hready hlink hstate), by rw [Device.withPower_power], fun q => ?_⟩
    rw [Device.queue_of_queues (Device.withPower_queues _ _)]
    exact foldl_stopPair (fun k hk => List.mem_range.1 hk) s.dev q.val (.inr (List.mem_range.2 q.isLt))
  case exit =>
    intro v n
    exact ⟨_, runs_bankedExitEnd h, rfl, Outputs.raisedTimes_msix _ _ _, fun hv ho hn => Outputs.raisedTimes_pending hv ho hn,
      rfl, rfl, rfl, rfl, rfl, rfl, rfl, rfl⟩
  case wake =>
    refine ⟨fun hl23 => runs_of_eq rfl ?_, fun hl23 => runs_of_eq rfl ?_⟩
    · rw [Device.wakeSignal_eq hdue hstate, if_pos hl23]
    · rw [Device.wakeSignal_eq hdue hstate, if_neg (by rw [hl23]; decide)]
  case none =>
    refine runs_of_eq rfl (if_pos ?_)
    exact h.imp_left fun h => by rw [h]; rfl

end Sys2Proof.Machine
end

section
/-! PROOF. The rows that write one object: what a granted write does, and that a refused one does nothing (R226, R227, R343, R344, R362, R388, R397, R439). -/

namespace Sys2Proof.Machine

/-! ### Granted and refused writes (R397) -/

/-- What stands once a granted write of object `a` has arrived and its value is stored. -/
def Device.written (d : Device) (p : Path) (a : Nat) (bs : List Byte) : Device := (d.arrives p).storeValue p a bs

/-- A granted write stores its value and acts; its path keeps the answer. -/
theorem grants_of_effect {i : Instr} {s : State} {p : Path} {a : Nat} {bs : List Byte} {P : Device → Prop}
    (hi : exec i s = .next { s with dev := s.dev.directWrite p a bs }) (h : Judges s.dev p a bs dsOk)
    (hP : ∀ r, P (((s.dev.written p a bs).writeEffect p a bs).record p r)) : Grants i s p P := by
  obtain ⟨g, hg⟩ := s.dev.directWrite_judged p a bs dsOk h
  rw [if_pos rfl] at hg
  exact ⟨_, runs_of_eq hi hg, congrArg DictResult.status (Device.record_result _ p ⟨dsOk, a, [], false, g⟩).1, hP _⟩

theorem Device.arrives_dict (d : Device) (p : Path) : (d.arrives p).dict.vals = d.dict.vals ∧ (d.arrives p).dict.owner = d.dict.owner := by
  cases p <;> exact ⟨rfl, rfl⟩

/-- A refused write leaves its status and nothing else. -/
theorem runs_refused {i : Instr} {s : State} {p : Path} {a : Nat} {bs : List Byte} {st : Nat}
    (hi : exec i s = .next { s with dev := s.dev.directWrite p a bs }) (hst : st ≠ dsOk) (h : Judges s.dev p a bs st) :
    ∃ d, Runs i s d ∧ (d.path p).result.status = st ∧
      d.dict.vals = s.dev.dict.vals ∧ d.dict.owner = s.dev.dict.owner ∧ d.queues = s.dev.queues ∧ d.bays = s.dev.bays ∧ d.cmds = s.dev.cmds ∧ d.mem = s.dev.mem ∧
      d.power = s.dev.power ∧ d.pace = s.dev.pace ∧ d.images = s.dev.images ∧ d.flash = s.dev.flash := by
  obtain ⟨g, hg⟩ := s.dev.directWrite_judged p a bs st h
  rw [if_neg hst] at hg
  obtain ⟨hresult, hvals, howner⟩ := (s.dev.arrives p).record_result p ⟨st, a, [], false, g⟩
  obtain ⟨avals, aowner⟩ := s.dev.arrives_dict p
  exact ⟨_, runs_of_eq hi hg, congrArg DictResult.status hresult, hvals.trans avals, howner.trans aowner, by simp, by simp, by simp, by simp, by simp, by simp, by simp, by simp⟩

/-- Each of the nineteen rows is the service of a whole write. -/
theorem exec_writeRows (p : Path) (q : Fin 64) (k : Fin 8) (v : Byte) (w : W32) (a : BitVec 24) (bs : List Byte) (s : State) :
    ∀ x ∈ writeRows p q k v w a bs, exec x.1 s = .next { s with dev := s.dev.directWrite p x.2.1 x.2.2 } := by
  simp only [writeRows, List.forall_mem_cons]
  exact ⟨rfl, rfl, rfl, rfl, rfl, rfl, rfl, rfl, rfl, rfl, rfl, rfl, rfl, rfl, rfl, rfl, rfl, rfl, rfl, fun _ h => absurd h List.not_mem_nil⟩

/-! ### What a stored value leaves -/

theorem Device.written_queue (d : Device) (p : Path) (a : Nat) (bs : List Byte) (q : Nat) : (d.written p a bs).queue q = d.queue q :=
  Device.queue_of_queues ((Device.storeValue_queues _ p a bs).trans (d.arrives_queues p)) q

theorem Device.written_state (d : Device) (p : Path) (a : Nat) (bs : List Byte) (k : Nat) : ((d.written p a bs).bay k).state = (d.bay k).state :=
  (Bay.state_of_core (Device.storeValue_core _ p a bs k)).trans (by rw [Device.bay_of_bays (d.arrives_bays p)])

theorem Device.arrives_alert (d : Device) (p : Path) : (d.arrives p).safety.alert = d.safety.alert := by
  cases p <;> rfl

theorem Device.written_alert (d : Device) (p : Path) (a : Nat) (bs : List Byte) : (d.written p a bs).safety.alert = d.safety.alert :=
  (congrArg Safety.alert (Device.storeValue_safety _ p a bs)).trans (d.arrives_alert p)

theorem Device.written_power (d : Device) (p : Path) (a : Nat) (bs : List Byte) : (d.written p a bs).power = d.power :=
  (Device.storeValue_power _ p a bs).trans (d.arrives_power p)

theorem Device.written_pace (d : Device) (p : Path) (a : Nat) (bs : List Byte) : (d.written p a bs).pace = d.pace :=
  (Device.storeValue_pace _ p a bs).trans (d.arrives_pace p)

/-! ### The effect of each object -/

theorem leNat_byte (v : Byte) : leNat [v] = v.toNat := by simp [leNat]

theorem leNat_small {n : Nat} (h : n < 256) : leNat [BitVec.ofNat 8 n] = n := by rw [leNat_byte, BitVec.toNat_ofNat, Nat.mod_eq_of_lt h]

/-- A write of a pair's enable object acts on the pair. -/
theorem Device.writeEffect_pair (d : Device) (p : Path) (q : Fin 64) (bs : List Byte) : d.writeEffect p (pairObj q.val 7) bs = d.pairSet q.val (leNat bs) := by
  have hq := q.isLt
  have ha : pairObj q.val 7 = (0x7100 + q.val) * 256 + 7 := rfl
  have hi : ((0x7100 + q.val) * 256 + 7) / 256 - 0x7100 = q.val := by omega
  rw [ha, Device.writeEffect]
  repeat rw [if_neg (by omega)]
  rw [if_pos (by omega), hi]

/-- A write of a bay's withdrawal object takes the bay out of service. -/
theorem Device.writeEffect_bay (d : Device) (p : Path) (k : Fin 8) (bs : List Byte) : d.writeEffect p (0x400201 + k.val) bs = d.outOfService k.val 3 {} := by
  have hk := k.isLt
  have hs : (0x400201 + k.val) % 256 - 1 = k.val := by omega
  rw [Device.writeEffect]
  repeat rw [if_neg (by omega)]
  rw [if_pos (by omega), hs]

theorem Device.outOfService_state (d : Device) (k : Fin 8) (reason : Nat) (w : Blame) : ((d.outOfService k.val reason w).bay k.val).state = .out := by
  cases ho : d.bayOut k.val with
  | false => exact (d.outOfService_gone k.val reason w k.isLt ho).state
  | true => rw [Device.outOfService, if_pos ho]; exact beq_iff_eq.1 ho

theorem Device.askBayReset_state (d : Device) (k : Fin 8) (h : (d.bay k.val).state ≠ .out) : ((d.askBayReset k.val).bay k.val).state = .reset := by
  unfold Device.askBayReset
  split
  · next hreset => exact hreset
  · exact (d.bayReset_begun k.val 0x05 {} k.isLt (beq_eq_false_iff_ne.2 h)).state

theorem PairReset.record {d : Device} {q : Fin 64} (h : PairReset d q) (p : Path) (r : DictResult) : PairReset (d.record p r) q :=
  ⟨(Device.queue_of_queues (d.record_queues p r) q.val).trans h.disabled, fun f hf => h.entries f (d.record_fetched p r ▸ hf), fun c hc => h.commands c (d.record_cmds p r ▸ hc)⟩

/-- A clear of the alert word clears the written bits from bit 2 up: only bits 0 and 1 are held by a condition (R344). -/
theorem Device.alertClear_bit (d : Device) (w : W32) {i : Nat} (hi : 2 ≤ i) (h32 : i < 32) :
    (d.alertClear w.toNat).safety.alert.getLsbD i = (d.safety.alert.getLsbD i && !w.getLsbD i) := by
  have hheld : ∀ a b : Bool, ((if a then 1 else 0) + (if b then 2 else 0) : Nat).testBit i = false := fun a b =>
    Nat.testBit_lt_two_pow (Nat.lt_of_lt_of_le (by cases a <;> cases b <;> decide) (Nat.pow_le_pow_right (by decide) hi))
  simp only [Device.alertClear, Device.withSafety_safety, BitVec.getLsbD_and, BitVec.getLsbD_not, BitVec.ofNat_toNat, BitVec.setWidth_eq, BitVec.getLsbD_ofNat, hheld, h32,
    decide_true, Bool.and_false, Bool.not_false, Bool.and_true, Bool.true_and]

/-- Latching a reason leaves its bit set (R439). -/
theorem Device.wakeReason_latched (d : Device) : (d.wakeReason 0).power.wakeReasons.getLsbD 0 = true := by
  unfold Device.wakeReason
  dsimp only
  split
  · next h => exact h
  · split <;> simp

/-- Settles O58: a granted row by the effect of its object on what the stored value leaves, a refused one by the path's record alone. -/
theorem writtenObjectsAct : Obligations.WrittenObjectsAct := by
  unfold Obligations.WrittenObjectsAct
  refine fun p s => ⟨fun q h hst => ?enable, fun q h hst => ?disable, fun k h => ?withdraw, fun k h hst => ?reinit, fun q h => ?pairReinit, fun h => ?cycle,
    fun w h => ?alert, fun h => ?plan, fun h => ?wake, fun v h => ?wakeClear, fun q k v w a bs x hx st hst h => runs_refused (exec_writeRows p q k v w a bs s x hx) hst h⟩
  case enable =>
    refine grants_of_effect rfl h fun r => ?_
    rw [Device.queue_of_queues (Device.record_queues _ _ _), Device.writeEffect_pair, Device.pairSet, Device.written_queue, if_pos ⟨rfl, hst⟩]
    exact Device.queue_setQueue_same _ q.isLt _
  case disable =>
    refine grants_of_effect rfl h fun r => ?_
    rw [Device.queue_of_queues (Device.record_queues _ _ _), Device.writeEffect_pair, Device.pairSet, Device.written_queue, if_neg (fun hv => absurd hv.1 (by decide)), if_pos ⟨rfl, hst⟩]
    refine (Device.queue_setQueue_same _ q.isLt _).trans ?_
    rw [Device.written_queue]
  case withdraw =>
    refine grants_of_effect rfl h fun r => ?_
    rw [Device.bay_of_bays (Device.record_bays _ _ _), Device.writeEffect_bay, Device.outOfService_state]
  case reinit =>
    refine grants_of_effect rfl h fun r => ?_
    rw [Device.bay_of_bays (Device.record_bays _ _ _)]
    refine Eq.trans (congrArg (fun n => (((s.dev.written p 0x405001 _).askBayReset n).bay k.val).state) (leNat_small (by omega))) ?_
    exact Device.askBayReset_state _ k (by rwa [Device.written_state])
  case pairReinit =>
    refine grants_of_effect rfl h fun r => PairReset.record ?_ p r
    have heffect : ∀ bs, (s.dev.written p 0x405002 bs).writeEffect p 0x405002 bs = (s.dev.written p 0x405002 bs).pairReset (leNat bs) 0 := fun _ => rfl
    rw [heffect, leNat_small (by omega)]
    exact Device.pairReset_done _ q 0
  case cycle =>
    refine grants_of_effect rfl h fun r => ?_
    rw [Device.record_safety]
    exact congrArg Safety.powerCycle (Device.logEvent_safety _ _)
  case alert =>
    refine grants_of_effect rfl h fun r i hi h32 => ?_
    have hw : leNat (leBytes 4 w.toNat) = w.toNat := (leNat_leBytes 4 _).trans (Nat.mod_eq_of_lt w.isLt)
    have heffect : ∀ bs, (s.dev.written p 0x400002 bs).writeEffect p 0x400002 bs = (s.dev.written p 0x400002 bs).alertClear (leNat bs) := fun _ => rfl
    rw [Device.record_safety, heffect, hw, Device.alertClear_bit _ w hi h32, Device.written_alert]
  case plan =>
    refine grants_of_effect rfl h fun r => ?_
    rw [Device.record_pace]
    exact congrArg (fun x : Pace => { x with planDue := true }) (s.dev.written_pace p _ _)
  case wake =>
    refine grants_of_effect rfl h fun r => ?_
    rw [Device.record_power]
    exact Device.wakeReason_latched _
  case wakeClear =>
    refine grants_of_effect rfl h fun r => ?_
    have heffect : ∀ bs, (s.dev.written p 0x304003 bs).writeEffect p 0x304003 bs = (s.dev.written p 0x304003 bs).wakeClear (leNat bs) := fun _ => rfl
    rw [Device.record_power, heffect, leNat_byte, Device.wakeClear, Device.withPower_power, Device.written_power, BitVec.ofNat_toNat, BitVec.setWidth_eq]

end Sys2Proof.Machine
end

section
/-! PROOF. Chain steps and stage messages: the tokens they take and return, late partners, and aborts (R252, R273 to R276, R285, R286, R289). -/

namespace Sys2Proof.Machine

/-! ### Tokens of a port (R276) -/

theorem Port.hasToken_of_tokens {p q : Port} (h : p.tokens = q.tokens) (tag key : Nat) (sending : Bool) : p.hasToken tag key sending = q.hasToken tag key sending := by
  rw [Port.hasToken, Port.hasToken, h]

theorem Port.hasToken_takeToken (p : Port) (tag key : Nat) (sending : Bool) : (p.takeToken tag key sending).hasToken tag key sending = true :=
  List.contains_iff_mem.2 (List.mem_append_right _ List.mem_cons_self)

theorem Port.returnToken_free {p : Port} {tag key : Nat} {sending : Bool} (h : p.hasToken tag key sending = true) :
    (p.returnToken tag key sending).tokensFree = p.tokensFree + 1 := by rw [Port.returnToken, if_pos h]

/-- Two ports hold the same tokens and have as many free. -/
def Port.SameTokens (p q : Port) : Prop := p.tokens = q.tokens ∧ p.tokensFree = q.tokensFree

theorem Port.SameTokens.trans {a b c : Port} (h : a.SameTokens b) (g : b.SameTokens c) : a.SameTokens c := ⟨h.1.trans g.1, h.2.trans g.2⟩

/-- Sending frames moves no token. -/
theorem Port.trySend_tokens (p : Port) (k now : Nat) (f : Frame) : (p.trySend k now f).1.SameTokens p := by
  unfold Port.trySend
  dsimp only
  split
  · exact ⟨rfl, rfl⟩
  · split
    · split <;> exact ⟨rfl, rfl⟩
    · split
      · exact ⟨rfl, rfl⟩
      · split <;> exact ⟨rfl, rfl⟩

theorem Port.flush_tokens (k now : Nat) (fs : List Frame) (p : Port) : (p.flush k now fs).1.SameTokens p := by
  induction fs generalizing p with
  | nil => exact ⟨rfl, rfl⟩
  | cons f fs ih =>
    have h := (ih (p.trySend k now f).1).trans (p.trySend_tokens k now f)
    unfold Port.flush
    dsimp only
    split <;> exact h

theorem Device.pump_tokens (d : Device) (k : Fin 8) : ((d.pump k.val).port k.val).SameTokens (d.port k.val) := by
  have hport : (d.pump k.val).port k.val = { ((d.port k.val).flush k.val d.now (d.port k.val).queue).1 with
      queue := ((d.port k.val).flush k.val d.now (d.port k.val).queue).2.1 } := d.port_setPort_same k.isLt _
  rw [hport]
  exact Port.flush_tokens k.val d.now (d.port k.val).queue (d.port k.val)

/-- A step that leaves takes one token of its port. -/
theorem Device.sendStep_tokens (d : Device) (k : Fin 8) (c : Cmd) (w : CollWork) (key dst first : Nat) (base : Frame) (ps : Parts) :
    let e := d.sendStep k.val c w key dst first base ps
    (e.port k.val).hasToken c.tag key true = true ∧ (e.port k.val).tokensFree = (d.port k.val).tokensFree - 1 := by
  intro e
  let d1 := (d.setColl c.tag (w.put key { w.step key with sent := true, ended := false, moved := false })).modPort k.val fun p => p.takeToken c.tag key true
  let fs := framesOf { base with type := ftData, dst := dst, opId := c.opId } first ps
  obtain ⟨htokens, hfree⟩ := (d1.modPort k.val fun p => { p with queue := p.queue ++ fs }).pump_tokens k
  have htaken : d1.port k.val = (d.port k.val).takeToken c.tag key true := Device.port_modPort_same _ k.isLt _
  have hqueued : (d1.modPort k.val fun p => { p with queue := p.queue ++ fs }).port k.val = { d1.port k.val with queue := (d1.port k.val).queue ++ fs } :=
    Device.port_modPort_same _ k.isLt _
  rw [hqueued, htaken] at htokens hfree
  exact ⟨(Port.hasToken_of_tokens htokens c.tag key true).trans ((d.port k.val).hasToken_takeToken c.tag key true), hfree⟩

/-! ### The start of a step (R274 to R276, R285, R286) -/

/-- With no row paused and nothing found, a sound command that may run comes to its step on `e`, which the frames and steps that waited leave. -/
theorem Device.stepStart_eq {d e : Device} {k tag key : Nat} {c : Cmd} {w : CollWork} (hpauses : d.pauses = false) (he : ((d.consume k).advanceAll k).grantOwed k = e)
    (hc : e.cmd tag = some c) (hw : c.coll = some w) (hsound : c.failure = none) (hrun : e.mayRun c = true) (hstate : e.power.powerState = 0) (hstruck : e.struck tag = false) :
    d.stepStart k tag key [] =
      if opcodeOf c.entry = 0x30 then e.collSend k c w key else if opcodeOf c.entry = 0x31 then e.stageSend k c w else e.stageRelease c w := by
  have hnow : d.stepStart k tag key [] = d.stepStartNow k tag key [] := if_neg (by simp [hpauses])
  rw [hnow, Device.stepStartNow, he]
  simp only [hc, hw, hsound]
  rw [if_neg (by simp [hrun, hstate, hstruck])]
  rfl

section Collective

variable {d : Device} {k : Nat} {c : Cmd} {w : CollWork} {key dst : Nat} (hms : 1 < (c.collOf d).ms.length) (htable : (c.collOf d).tableFault d = none)
  (hdst : (c.collOf d).dest key = some dst) (hdue : (c.collOf d).due d c w k key = true)
  (hplane : d.planeFor w.planes ((c.collOf d).stepNo key) dst (w.step key).moved = some k)
include hms htable hdst hdue hplane

/-- A collective waits at a port where it is not its turn. -/
theorem Device.collSend_waits (hturn : d.portTurn c k = false) : d.collSend k c w key = d := by
  simp [Device.collSend, Nat.not_le.2 hms, htable, hdst, hdue, hplane, hturn]

/-- It takes its place among those that wait for inbound tokens. -/
theorem Device.collSend_asks (hturn : d.portTurn c k = true) (hasks : (d.stepAsk k c w key ((c.collOf d).sendRanges d (c.win d) w key)).2 = false) :
    d.collSend k c w key = (d.stepAsk k c w key ((c.collOf d).sendRanges d (c.win d) w key)).1 := by
  simp [Device.collSend, Nat.not_le.2 hms, htable, hdst, hdue, hplane, hturn, hasks]

/-- A step that is formed and offered is sent. -/
theorem Device.collSend_sends (hturn : d.portTurn c k = true) (hasks : (d.stepAsk k c w key ((c.collOf d).sendRanges d (c.win d) w key)).2 = true)
    {d1 : Device} {c1 : Cmd} {w1 : CollWork} {ps : Parts}
    (hformed : (if (c.collOf d).formsFirst w key = true then formReduce (d.stepAsk k c w key ((c.collOf d).sendRanges d (c.win d) w key)).1 c w (c.collOf d) k key
      else .ok ((d.stepAsk k c w key ((c.collOf d).sendRanges d (c.win d) w key)).1, c, w)) = .ok (d1, c1, w1))
    (hoffer : (c.collOf d).offer d1 c1 w1 k key = .ok (some ps)) : ∃ first base, d.collSend k c w key = (d1.modCmd c.tag fun _ => c1).sendStep k c1 w1 key dst first base ps ∧
      base.step = (c.collOf d).stepNo key ∧ base.content = (c.collOf d).code ∧ base.flags = (w1.step key).flags ∧ base.digest = groupDigest (c.collOf d).ms := by
  refine ⟨if 2 ≤ (c.collOf d).op ∧ (c.collOf d).stepNo key = 0 then (c.collOf d).block d (c.collOf d).pos (key / 2 ^ 20) else (c.collOf d).stepNo key,
    { d1.frame k ftData dst with step := (c.collOf d).stepNo key, content := (c.collOf d).code, flags := (w1.step key).flags, digest := groupDigest (c.collOf d).ms },
    ?_, rfl, rfl, rfl, rfl⟩
  simp only [Device.collSend, Nat.not_le.2 hms, htable, hdst, hdue, hplane, hturn, hasks, hformed, hoffer, if_false, Bool.not_true, Bool.false_eq_true, ne_eq, not_true_eq_false, or_self]

end Collective

section Stage

variable {d : Device} {k : Nat} {c : Cmd} {w : CollWork} (hsend : d.sendTurn c w = true)
  (hplane : d.planeFor w.planes c.message (c.stagePeer d) (w.step c.message).moved = some k) (hturn : d.portTurn c k = true)
include hsend hplane hturn

/-- A message takes its place among those that wait for inbound tokens. -/
theorem Device.stageSend_asks (hasks : (d.stepAsk k c w c.message (stageRanges d c)).2 = false) :
    d.stageSend k c w = (d.stepAsk k c w c.message (stageRanges d c)).1 := by
  simp [Device.stageSend, hsend, hplane, hturn, hasks]

/-- A message whose source is read is sent. -/
theorem Device.stageSend_sends (hasks : (d.stepAsk k c w c.message (stageRanges d c)).2 = true) {ps : Parts}
    (hread : stageParts (d.stepAsk k c w c.message (stageRanges d c)).1 c k = .ok ps) :
    d.stageSend k c w = (d.stepAsk k c w c.message (stageRanges d c)).1.sendStep k c w c.message (c.stagePeer d) c.message
      { d.frame k ftData 0 with step := c.message, content := fmtNone } ps := by
  simp [Device.stageSend, hsend, hplane, hturn, hasks, hread]

end Stage

/-! ### The release of a stream's slots (R286) -/

theorem Device.stream_setStream (d : Device) (s : Nat) (x : Stream) : (d.setStream s x).stream s = x := Store.get_put_same

theorem Device.setStream_cmds (d : Device) (s : Nat) (x : Stream) : (d.setStream s x).cmds = d.cmds := rfl

theorem Device.stream_of_streams {d e : Device} (h : d.streams = e.streams) (s : Nat) : d.stream s = e.stream s := by rw [Device.stream, Device.stream, h]

theorem Device.grantStream_cmds (d : Device) (s : Nat) : (d.grantStream s).cmds = d.cmds :=
  (Device.grantStream_within d s (.refl 137363456 _) rfl).part .cmds (by decide)

/-- A grant moves no slot to the free ones. -/
theorem Device.grantStream_released (d : Device) (s : Nat) : ((d.grantStream s).stream s).released = (d.stream s).released := by
  unfold Device.grantStream
  dsimp only
  split
  · rfl
  · split
    · rfl
    · rw [Device.stream_of_streams (Device.send_streams _ _ _), Device.stream_setStream]

theorem Device.cmd_setColl {d : Device} {tag : Nat} {c : Cmd} (hc : d.cmd tag = some c) (w : CollWork) :
    (d.setColl tag w).cmd tag = some { c with coll := some w, progressAt := d.now } :=
  Device.cmd_modCmd_same hc _ fun _ => rfl

/-- A STAGE_RECV that is first for its stream frees the slots up to its own, once. -/
theorem Device.stageRelease_released {d : Device} {tag : Nat} {c : Cmd} {w : CollWork} (hc : d.cmd tag = some c) (hnext : w.next = 0) (hfirst : d.recvFirst c true = true) :
    (d.stageRelease c w).cmd tag = some { c with coll := some { w with next := 1 }, progressAt := d.now } ∧
    ((d.stageRelease c w).stream c.stream).released = ((d.stream c.stream).release ((d.stream c.stream).claimed - (d.stream c.stream).released + 1) (ent c.entry 0x22 2)).released := by
  obtain ⟨x, hx⟩ : ∃ x, x = (d.stream c.stream).release ((d.stream c.stream).claimed - (d.stream c.stream).released + 1) (ent c.entry 0x22 2) := ⟨_, rfl⟩
  have hd : d.stageRelease c w = ((d.setStream c.stream x).setColl c.tag { w with next := 1 }).grantStream c.stream := by
    simp only [Device.stageRelease, hnext, hfirst, hx, ne_eq, not_true_eq_false, Bool.not_true, Bool.false_eq_true, or_self, if_false]
  rw [hd, ← hx]
  constructor
  · rw [Device.cmd_of_cmds (Device.grantStream_cmds _ _), ← Device.cmd_tag hc]
    exact Device.cmd_setColl (d := d.setStream c.stream x) ((congrArg d.cmd (Device.cmd_tag hc)).trans hc) _
  · rw [Device.grantStream_released]
    exact congrArg Stream.released (d.stream_setStream c.stream x)

/-! ### The end of a step (R276) -/

section StepEnd

variable {d : Device} {k : Fin 8} {tag key : Nat} {c : Cmd} {w : CollWork} (hc : d.cmd tag = some c) (hw : c.coll = some w)
include hc hw

/-- A sent step whose frames are all acknowledged returns its token and has ended. -/
theorem Device.stepEnd_sent (htoken : (d.port k.val).hasToken tag key true = true) (hclosed : d.stepOpen k.val c key = false) :
    ((d.stepEnd k.val tag key).port k.val).tokensFree = (d.port k.val).tokensFree + 1 ∧
    (d.stepEnd k.val tag key).cmd tag = some { c with coll := some (w.put key { w.step key with ended := true }), progressAt := d.now } := by
  have hd : d.stepEnd k.val tag key = (d.modPort k.val fun p => p.returnToken tag key true).setColl tag (w.put key { w.step key with ended := true }) := by
    simp [Device.stepEnd, hc, hw, htoken, hclosed]
  rw [hd]
  refine ⟨?_, Device.cmd_setColl (d := d.modPort k.val fun p => p.returnToken tag key true) hc _⟩
  exact (congrArg Port.tokensFree (d.port_modPort_same k.isLt _)).trans (Port.returnToken_free htoken)

/-- A received step that is written returns its token. -/
theorem Device.stepEnd_written (hsent : (d.port k.val).hasToken tag key true = false) (htoken : (d.port k.val).hasToken tag key false = true)
    (hwritten : (w.step key).written = true) :
    ((d.stepEnd k.val tag key).port k.val).tokensFree = (d.port k.val).tokensFree + 1 ∧ (d.stepEnd k.val tag key).cmds = d.cmds := by
  have hd : d.stepEnd k.val tag key = d.modPort k.val fun p => p.returnToken tag key false := by simp [Device.stepEnd, hc, hw, hsent, htoken, hwritten]
  rw [hd]
  exact ⟨(congrArg Port.tokensFree (d.port_modPort_same k.isLt _)).trans (Port.returnToken_free htoken), rfl⟩

/-- A sent step with frames open keeps its token. -/
theorem Device.stepEnd_open (hopen : d.stepOpen k.val c key = true) (hreceived : (d.port k.val).hasToken tag key false = false) : d.stepEnd k.val tag key = d := by
  simp [Device.stepEnd, hc, hw, hopen, hreceived]

end StepEnd

/-! ### Failing with FABRIC (R252, R289) -/

/-- A sound fabric command that is failed with FABRIC has that failure. -/
theorem Device.failFabric_failure {d : Device} {tag : Nat} {c : Cmd} (hc : d.cmd tag = some c) (hsound : c.failure = none) (bay : Nat) :
    ∃ x, (d.failFabric tag bay).cmd tag = some x ∧ x.failure = some ⟨csFabric, 0, bay⟩ := by
  have hd : d.failFabric tag bay = (d.failCmd tag csFabric 0 bay).abort c := by simp [Device.failFabric, hc, hsound]
  obtain ⟨x, hx, hf⟩ := failCmd_status d tag csFabric 0 bay c hc hsound (by decide)
  exact ⟨x, by rw [hd, Device.cmd_of_cmds (Device.abort_cmds _ c), hx], hf⟩

theorem Device.awaitsPartner_sound {d : Device} {c : Cmd} (h : d.awaitsPartner c = true) : c.failure = none := by
  unfold Device.awaitsPartner at h
  split at h
  · exact absurd h (by decide)
  · simp only [Bool.and_eq_true] at h
    exact Option.isNone_iff_eq_none.1 h.1.1.1

/-- A frame whose type is neither a hello's nor data's takes a control slot and is read (R268). -/
theorem FrameArrives.receive_control {d : Device} {k ty : Nat} {r : RxFrame} {f : Frame} (h : FrameArrives d k ty r f) (hhello : ty ≠ ftHello) (hdata : ty ≠ ftData) :
    d.receive k ty r = (d.modPort k fun p => p.ctrlTaken f.src (f.returns && f.type == ftGrant && lossOf f.credits == 0), some f) := by
  obtain ⟨hup, ⟨hfcs, hudp, hport, hplain⟩, hhop, hparsed, htype, hsrc, hdst, hslot⟩ := h
  have hstate : ((d.port k).state == 2 || (d.port k).state == 3) = true := by simpa using hup
  have htrailer : trailerBad r.bytes = false := by
    unfold parseFrame at hparsed
    dsimp only at hparsed
    split at hparsed
    · exact absurd hparsed (by simp)
    · next hgood =>
      obtain ⟨hlen, hfit, -, hcrc⟩ := by simpa only [not_or] using hgood
      simp [trailerBad, hlen, Decidable.not_not.1 hfit, Decidable.not_not.1 hcrc]
  have hfree : (d.port k).ctrlFree ≠ 0 := (hslot.resolve_left hhello).resolve_left hdata
  rw [if_neg hhello] at hdst
  simp [Device.receive, hstate, hfcs, hudp, hport, hplain, htrailer, hparsed, htype, hhop, Nat.not_le.2 hsrc, hdst, hhello, hdata, hfree]

theorem Device.grantOwed_cmds (d : Device) (k : Nat) : (d.grantOwed k).cmds = d.cmds :=
  (Device.grantOwed_within d k (.refl 135266304 _) rfl).part .cmds (by decide)

theorem Device.opCmd_failure {d : Device} {op step : Nat} {c : Cmd} (h : d.opCmd op step = some c) : c.failure = none := by
  have hc := List.find?_some h
  simp only [Bool.and_eq_true] at hc
  exact Option.isNone_iff_eq_none.1 hc.1.1

theorem Device.receiverOf_failure {d : Device} {s m : Nat} {c : Cmd} (h : d.receiverOf s m = some c) : c.failure = none := by
  have hc := (List.mem_filter.1 (List.mem_of_getElem? h)).2
  simp only [Bool.and_eq_true] at hc
  exact Option.isNone_iff_eq_none.1 hc.2

/-- A message that no STAGE_RECV has claimed, and that is not whole, fails the one that waits for it. -/
theorem Device.voidMessage_failure {d : Device} {s m : Nat} {c : Cmd} (hc : d.cmd c.tag = some c) (hclaimed : (d.stream s).claimed ≤ m)
    (hwhole : ((d.stream s).of m).whole = false) (hvoid : ((d.stream s).of m).void = 0) (hreceiver : d.receiverOf s m = some c) (hrun : d.mayRun c = true) :
    ∃ x, (d.voidMessage s m csFabric).cmd c.tag = some x ∧ x.failure = some ⟨csFabric, 0, 0xFF⟩ := by
  have hdrop := Device.dropStream_within d s m (.refl 1048576 _) rfl
  have hcmds : (d.dropStream s m).cmds = d.cmds := hdrop.part .cmds (by decide)
  have hstream : ∀ j, (d.dropStream s m).stream j = d.stream j := Device.stream_of_streams (hdrop.part .streams (by decide))
  have hreceiver' : (d.dropStream s m).receiverOf s m = some c := by rw [← hreceiver, Device.receiverOf, Device.receiverOf, hcmds, hstream]
  have hrun' : (d.dropStream s m).mayRun c = true := by rw [← hrun, Device.mayRun, Device.mayRun, hdrop.part .events (by decide)]
  have hd : d.voidMessage s m csFabric =
      ((d.dropStream s m).setStream s (((d.dropStream s m).stream s).set m { Arrival.none with void := csFabric, gone := true })).failWith c.tag csFabric := by
    simp [Device.voidMessage, Nat.not_lt.2 hclaimed, hwhole, hvoid, hreceiver', hrun']
  have hc' : ((d.dropStream s m).setStream s (((d.dropStream s m).stream s).set m { Arrival.none with void := csFabric, gone := true })).cmd c.tag = some c :=
    (Device.cmd_of_cmds ((Device.setStream_cmds _ s _).trans hcmds) c.tag).trans hc
  rw [hd]
  exact failCmd_status _ c.tag csFabric 0 0xFF c hc' (Device.receiverOf_failure hreceiver) (by decide)

/-! ### The four rows -/

/-- The stream message an abort names is one this device receives from the frame's source (R286). -/
def Device.NamesStream (d : Device) (f : Frame) : Prop :=
  2 ^ 31 ≤ f.opId ∧ f.opId - 2 ^ 31 < 256 ∧ d.streamReceives (f.opId - 2 ^ 31) = true ∧ d.streamObj (f.opId - 2 ^ 31) 1 = f.src

/-- An abort of such a message makes it void, one of an operation in flight fails its command. -/
theorem FrameArrives.abortFrame_eq {d : Device} {k : Nat} {r : RxFrame} {f : Frame} (h : FrameArrives d k ftAbort r f) : ∃ g,
    (d.NamesStream f → d.abortFrame k r = ((d.modPort k g).voidMessage (f.opId - 2 ^ 31) f.step csFabric).grantOwed k) ∧
    (∀ c, ¬ d.NamesStream f → d.opCmd f.opId f.step = some c → d.abortFrame k r = ((d.modPort k g).failFabric c.tag k).grantOwed k) := by
  obtain ⟨g, hg⟩ : ∃ g, d.receive k ftAbort r = (d.modPort k g, some f) := ⟨_, h.receive_control (by decide) (by decide)⟩
  refine ⟨g, fun hmine => ?_, fun c hnot hop => ?_⟩
  · rw [Device.abortFrame, hg]
    exact congrArg (Device.grantOwed · k) (if_pos hmine)
  · rw [Device.abortFrame, hg]
    refine congrArg (Device.grantOwed · k) ((if_neg hnot).trans ?_)
    change (match d.opCmd f.opId f.step with | some c => _ | none => _) = _
    rw [hop]

/-- Settles O46: each row by the branch its hypotheses choose, and the tokens by what sending leaves of a port. -/
theorem chainStepsUseTokens : Obligations.ChainStepsUseTokens := by
  unfold Obligations.ChainStepsUseTokens
  refine ⟨fun k tag key s c w hpauses => ?start, fun k tag key s c w hc hw => ⟨fun htoken hclosed => ?sent, fun hsent htoken hwritten => ?written, fun hopen hreceived => ?unfinished⟩,
    fun tag s c hc => ⟨fun h => ?early, fun hwaits hlate => ?late⟩, fun k r f s c harrives hc => ?abort⟩
  case start =>
    intro d hc hw hsound hrun hstate hstruck x t
    have hruns : Runs (.chainStepStart k tag ⟨key, []⟩) s (if opcodeOf c.entry = 0x30 then d.collSend k.val c w key
        else if opcodeOf c.entry = 0x31 then d.stageSend k.val c w else d.stageRelease c w) :=
      runs_of_eq rfl (Device.stepStart_eq hpauses rfl hc hw hsound hrun hstate hstruck)
    refine ⟨fun hop hms htable dst hdst hdue hplane => ?_, fun hop hsend hplane hturn => ?_, fun hop hnext hfirst => ?_⟩
    · rw [if_pos hop] at hruns
      refine ⟨fun hturn => ?_, fun hturn hasks => ?_, fun hturn hasks d1 c1 w1 ps hformed hoffer => ?_⟩
      · rwa [Device.collSend_waits hms htable hdst hdue hplane hturn] at hruns
      · rwa [Device.collSend_asks hms htable hdst hdue hplane hturn hasks] at hruns
      · obtain ⟨first, base, hsends, hbase⟩ := Device.collSend_sends hms htable hdst hdue hplane hturn hasks hformed hoffer
        rw [hsends, Device.cmd_tag hc] at hruns
        obtain ⟨hstep, hcontent, hflags, hdigest⟩ := hbase
        exact ⟨_, first, base, hruns, rfl, hstep, hcontent, hflags, hdigest, Device.sendStep_tokens (d1.modCmd tag fun _ => c1) k c1 w1 key dst first base ps⟩
    · rw [if_neg (by rw [hop]; decide), if_pos hop] at hruns
      refine ⟨fun hasks => ?_, fun hasks ps hread => ?_⟩
      · rwa [Device.stageSend_asks hsend hplane hturn hasks] at hruns
      · rw [Device.stageSend_sends hsend hplane hturn hasks hread] at hruns
        exact ⟨_, hruns, rfl, Device.sendStep_tokens _ k c w _ _ _ _ ps⟩
    · rw [if_neg (by rw [hop]; decide), if_neg (by rw [hop]; decide)] at hruns
      exact ⟨_, hruns, Device.stageRelease_released hc hnext hfirst⟩
  case sent => exact ⟨_, runs_of_eq rfl rfl, Device.stepEnd_sent hc hw htoken hclosed⟩
  case written => exact ⟨_, runs_of_eq rfl rfl, Device.stepEnd_written hc hw hsent htoken hwritten⟩
  case unfinished => exact runs_of_eq rfl (Device.stepEnd_open hc hw hopen hreceived)
  case early =>
    refine runs_of_eq rfl ?_
    have hnot : ¬(s.dev.awaitsPartner c = true ∧ c.progressAt + c.allowanceNs s.dev + 1000000 ≤ s.dev.now) := fun ⟨hwaits, hlate⟩ =>
      h.elim (fun h => absurd (hwaits.symm.trans h) (by decide)) (fun h => absurd hlate (Nat.not_le.2 h))
    simpa [Device.partnerTimeout, hc] using fun hwaits hlate => absurd ⟨hwaits, hlate⟩ hnot
  case late =>
    obtain ⟨x, hx, hf⟩ := Device.failFabric_failure hc (Device.awaitsPartner_sound hwaits) 0xFF
    exact ⟨_, x, runs_of_eq rfl (by simp [Device.partnerTimeout, hc, hwaits, hlate]), hx, hf⟩
  case abort =>
    obtain ⟨g, hvoids, hfails⟩ := harrives.abortFrame_eq
    refine ⟨fun hnot hop => ?_, fun hmine hclaimed hwhole hvoid hreceiver hrun => ?_⟩
    · obtain ⟨x, hx, hf⟩ := Device.failFabric_failure (d := s.dev.modPort k.val g) hc (Device.opCmd_failure hop) k.val
      exact ⟨_, x, runs_of_eq rfl (hfails c hnot hop), (Device.cmd_of_cmds (Device.grantOwed_cmds _ _) _).trans hx, hf⟩
    · obtain ⟨x, hx, hf⟩ := Device.voidMessage_failure (d := s.dev.modPort k.val g) hc hclaimed hwhole hvoid hreceiver hrun
      exact ⟨_, x, runs_of_eq rfl (hvoids hmine), (Device.cmd_of_cmds (Device.grantOwed_cmds _ _) _).trans hx, hf⟩

end Sys2Proof.Machine
end

section
/-! PROOF. The frames of the fabric at their receiver and their sender, and what its links and hellos do (R261 to R268, R286, R289 to R291). -/

namespace Sys2Proof.Machine

/-! ### A port and its peers -/

theorem Port.peer_setPeer (p : Port) (dev : Nat) (x : Peer) : (p.setPeer dev x).peer dev = x := Store.get_put_same

theorem Device.port_of_ports {d e : Device} (h : d.ports = e.ports) (k : Nat) : d.port k = e.port k := by rw [Device.port, Device.port, h]

/-- What a port takes from returned credits (R268). -/
def Peer.credited (x : Peer) (n : Nat) : Peer := { x with credits := min 512 (x.credits + lossOf n), ctrlCredits := min 128 (x.ctrlCredits + ctrlOf n) }

theorem Device.credited_peer (d : Device) (k : Fin 8) (src n : Nat) : ((d.credited k.val src n).port k.val).peer src = ((d.port k.val).peer src).credited n := by
  rw [Device.credited, Device.port_modPort_same _ k.isLt]
  exact Port.peer_setPeer _ _ _

/-- A control frame changes what is owed to its source, and nothing else of it. -/
theorem Port.ctrlTaken_peer (p : Port) (src : Nat) (pure' : Bool) : ∃ n due, (p.ctrlTaken src pure').peer src = { p.peer src with owedCtrl := n, ctrlDue := due } :=
  ⟨_, _, Port.peer_setPeer _ _ _⟩

/-! ### What a port receives (R261, R262, R265, R266) -/

/-- Bytes that are read as a frame have a good trailer. -/
theorem trailerBad_of_parseFrame {bs : List Byte} {f : Frame} (h : parseFrame bs = some f) : trailerBad bs = false := by
  unfold parseFrame at h
  dsimp only at h
  split at h
  · exact absurd h (by simp)
  · next hgood =>
    obtain ⟨hlen, hfit, -, hcrc⟩ := by simpa only [not_or] using hgood
    simp [trailerBad, hlen, Decidable.not_not.1 hfit, Decidable.not_not.1 hcrc]

section Receive

variable {d : Device} {k ty : Nat} {r : RxFrame} (hup : (d.port k).state = 2 ∨ (d.port k).state = 3)
include hup

/-- What fails a check of the layers below, or of the trailer, is counted. -/
theorem Device.receive_counted (hbad : r.fcsOk = false ∨ r.udpOk = false ∨ r.portOk = false ∨ r.plain = false ∨ trailerBad r.bytes = true) :
    d.receive k ty r = (d.count 0x806003 1, none) := by
  have hstate : ((d.port k).state == 2 || (d.port k).state == 3) = true := by simpa using hup
  have hchecks : (!r.fcsOk || !r.udpOk || !r.portOk || !r.plain || trailerBad r.bytes) = true := by simpa [or_assoc] using hbad
  simp [Device.receive, hstate, hchecks]

/-- A frame of another hop limit or destination is not. -/
theorem Device.receive_ignored {f : Frame} (hfcs : r.fcsOk = true) (hudp : r.udpOk = true) (hport : r.portOk = true) (hplain : r.plain = true)
    (hparsed : parseFrame r.bytes = some f) (hother : r.hop ≠ 1 ∨ f.dst ≠ (if ty = ftHello then 0xFF else (d.port k).devNum)) :
    d.receive k ty r = (d, none) := by
  have hstate : ((d.port k).state == 2 || (d.port k).state == 3) = true := by simpa using hup
  have hcond : f.type ≠ ty ∨ r.hop ≠ 1 ∨ 64 ≤ f.src ∨ f.dst ≠ (if ty = ftHello then 0xFF else (d.port k).devNum) :=
    .inr (hother.imp_right .inr)
  simp only [Device.receive, hstate, hfcs, hudp, hport, hplain, trailerBad_of_parseFrame hparsed, hparsed, if_pos hcond, Bool.not_true, Bool.or_self, Bool.false_eq_true, if_false]

end Receive

/-- A hello or a data frame that arrives is read, and takes no control slot. -/
theorem FrameArrives.receive_open {d : Device} {k ty : Nat} {r : RxFrame} {f : Frame} (h : FrameArrives d k ty r f) (hty : ty = ftHello ∨ ty = ftData) :
    d.receive k ty r = (d, some f) := by
  obtain ⟨hup, ⟨hfcs, hudp, hport, hplain⟩, hhop, hparsed, htype, hsrc, hdst, -⟩ := h
  have hstate : ((d.port k).state == 2 || (d.port k).state == 3) = true := by simpa using hup
  have hcond : ¬(f.type ≠ ty ∨ r.hop ≠ 1 ∨ 64 ≤ f.src ∨ f.dst ≠ (if ty = ftHello then 0xFF else (d.port k).devNum)) :=
    fun hc => hc.elim (· htype) fun hc => hc.elim (· hhop) fun hc => hc.elim (Nat.not_le.2 hsrc) (· hdst)
  simp only [Device.receive, hstate, hfcs, hudp, hport, hplain, trailerBad_of_parseFrame hparsed, hparsed, if_neg hcond, if_pos hty, Bool.not_true, Bool.or_self, Bool.false_eq_true, if_false]

/-- A row whose frame is not read leaves the block as the discarded frame does. -/
theorem runs_of_unread {k : Fin 8} {c : Instr} {ty : Nat} {r : RxFrame} {s : State} {d : Device}
    (hrow : (c, ty) ∈ [(Instr.dataFrameReceive k ⟨r, []⟩, ftData), (.ackReceive k r, ftAck), (.nakReceive k r, ftNak), (.creditGrantReceive k r, ftGrant),
      (.helloReceive k r, ftHello), (.abortReceive k r, ftAbort)]) (h : s.dev.receive k.val ty r = (d, none)) : Runs c s d := by
  simp only [List.mem_cons, Prod.mk.injEq, List.not_mem_nil, or_false] at hrow
  obtain ⟨rfl, rfl⟩ | ⟨rfl, rfl⟩ | ⟨rfl, rfl⟩ | ⟨rfl, rfl⟩ | ⟨rfl, rfl⟩ | ⟨rfl, rfl⟩ := hrow
  · exact runs_of_eq rfl (by rw [Device.dataFrame, h])
  · exact runs_of_eq rfl (by rw [Device.ackFrame, h])
  · exact runs_of_eq rfl (by rw [Device.nakFrame, h])
  · exact runs_of_eq rfl (by rw [Device.grantFrame, h])
  · exact runs_of_eq rfl (by rw [Device.helloFrame, h])
  · exact runs_of_eq rfl (by rw [Device.abortFrame, h])

/-! ### Data frames (R267, R268) -/

/-- How far a data frame is from the one expected of its source, in sequence order. -/
def Port.ahead (p : Port) (f : Frame) : Int := signed 32 (f.seq + 2 ^ 32 - (p.peer f.src).expect)

/-- The port with a data frame accepted: the next one is expected, a slot is taken and the frame held. -/
def Port.accepted (p : Port) (f : Frame) : Port :=
  { (p.setPeer f.src { p.peer f.src with expect := ((p.peer f.src).expect + 1) % 2 ^ 32 }) with lossFree := p.lossFree - 1, held := p.held ++ [f] }

theorem Port.accepted_peer (p : Port) (f : Frame) : (p.accepted f).peer f.src = { p.peer f.src with expect := ((p.peer f.src).expect + 1) % 2 ^ 32 } :=
  Port.peer_setPeer _ _ _

section DataFrame

variable {d : Device} {k : Nat} {r : RxFrame} {f : Frame} (h : FrameArrives d k ftData r f)
include h

/-- What becomes of a data frame, by its distance from the expected one. -/
theorem FrameArrives.dataFrame_eq : d.dataFrame k r [] =
    if (d.port k).ahead f < 0 then (d.count 0x806003 1).ack k f.src
    else if 0 < (d.port k).ahead f then
      if ((d.port k).peer f.src).nakRecent d.now then d
      else ((d.modPort k fun p => p.setPeer f.src { p.peer f.src with lastNak := some d.now }).send k
        { d.frame k ftNak f.src with ackSeq := ((d.port k).peer f.src).expect }).count 0x806004 1
    else if (d.port k).lossFree = 0 then d
    else (((d.modPort k fun p => p.accepted f).consume k).ack k f.src).grantOwed k := by
  rw [Device.dataFrame, h.receive_open (.inr rfl)]
  rfl

theorem FrameArrives.dataFrame_expected (hdist : (d.port k).ahead f = 0) (hslot : 0 < (d.port k).lossFree) :
    d.dataFrame k r [] = (((d.modPort k fun p => p.accepted f).consume k).ack k f.src).grantOwed k := by
  rw [h.dataFrame_eq, hdist, if_neg (by decide), if_neg (by decide), if_neg (Nat.ne_of_gt hslot)]

theorem FrameArrives.dataFrame_full (hdist : (d.port k).ahead f = 0) (hslot : (d.port k).lossFree = 0) : d.dataFrame k r [] = d := by
  rw [h.dataFrame_eq, hdist, if_neg (by decide), if_neg (by decide), if_pos hslot]

theorem FrameArrives.dataFrame_earlier (hdist : (d.port k).ahead f < 0) : d.dataFrame k r [] = (d.count 0x806003 1).ack k f.src := by
  rw [h.dataFrame_eq, if_pos hdist]

theorem FrameArrives.dataFrame_later (hdist : 0 < (d.port k).ahead f) (hnak : ((d.port k).peer f.src).nakRecent d.now = false) :
    d.dataFrame k r [] = ((d.modPort k fun p => p.setPeer f.src { p.peer f.src with lastNak := some d.now }).send k
      { d.frame k ftNak f.src with ackSeq := ((d.port k).peer f.src).expect }).count 0x806004 1 := by
  rw [h.dataFrame_eq, if_neg (Int.not_lt.2 (Int.le_of_lt hdist)), if_pos hdist, if_neg (by simp [hnak])]

theorem FrameArrives.dataFrame_quiet (hdist : 0 < (d.port k).ahead f) (hnak : ((d.port k).peer f.src).nakRecent d.now = true) : d.dataFrame k r [] = d := by
  rw [h.dataFrame_eq, if_neg (Int.not_lt.2 (Int.le_of_lt hdist)), if_pos hdist, if_pos hnak]

end DataFrame

/-- Settles O43: what is not read by the discards of `Device.receive`, a data frame by its distance from the expected one. -/
theorem framesAreTakenInOrder : Obligations.FramesAreTakenInOrder := by
  unfold Obligations.FramesAreTakenInOrder
  refine ⟨fun k c ty r s hrow hup => ⟨fun hbad => ?counted, fun f hfcs hudp hport hplain hparsed hother => ?ignored⟩,
    fun k r f s h => ⟨fun hdist hslot => ?expected, fun hdist hslot => ?full, fun hdist => ?earlier, fun hdist hnak => ?later, fun hdist hnak => ?quiet⟩⟩
  case counted => exact runs_of_unread hrow (Device.receive_counted hup hbad)
  case ignored => exact runs_of_unread hrow (Device.receive_ignored hup hfcs hudp hport hplain hparsed hother)
  case expected =>
    refine ⟨_, runs_of_eq rfl (h.dataFrame_expected hdist hslot), ?_⟩
    rw [Device.port_modPort_same _ k.isLt]
    exact ⟨Port.accepted_peer _ f, rfl, rfl⟩
  case full => exact runs_of_eq rfl (h.dataFrame_full hdist hslot)
  case earlier => exact runs_of_eq rfl (h.dataFrame_earlier hdist)
  case later => exact runs_of_eq rfl (h.dataFrame_later hdist hnak)
  case quiet => exact runs_of_eq rfl (h.dataFrame_quiet hdist hnak)

end Sys2Proof.Machine
end

section
/-! PROOF. The sender of fabric frames: returned credits, grants to a stream, and what is sent again (R267, R268, R286, R289). -/

namespace Sys2Proof.Machine

/-! ### Acknowledgements and grants (R267, R268, R286) -/

/-- The peer after an acknowledgement: what it acknowledges is kept no longer, and what it returns is credited. -/
def Peer.acknowledged (x : Peer) (f : Frame) : Peer := { x with kept := x.kept.filter fun y => !(seqLe y.frame.seq f.ackSeq) }.credited f.credits

section Control

variable {d : Device} {k : Fin 8} {r : RxFrame} {f : Frame}

theorem FrameArrives.ackFrame_peer (h : FrameArrives d k.val ftAck r f) : ∃ (d1 : Device) (n : Nat) (due : Bool), d.ackFrame k.val r = (d1.pump k.val).grantOwed k.val ∧
    (d1.port k.val).peer f.src = { ((d.port k.val).peer f.src).acknowledged f with owedCtrl := n, ctrlDue := due } := by
  obtain ⟨n, due, htaken⟩ := (d.port k.val).ctrlTaken_peer f.src (f.returns && f.type == ftGrant && lossOf f.credits == 0)
  refine ⟨_, n, due, by rw [Device.ackFrame, h.receive_control (by decide) (by decide)], ?_⟩
  refine (Device.credited_peer _ k f.src f.credits).trans ?_
  rw [Device.port_modPort_same _ k.isLt, Port.peer_setPeer, Device.port_modPort_same _ k.isLt, htaken]
  rfl

/-- A grant that names no stream returns credits of the port. -/
theorem FrameArrives.grantFrame_peer (h : FrameArrives d k.val ftGrant r f) (hop : f.opId < 2 ^ 31) : ∃ (d1 : Device) (n : Nat) (due : Bool),
    d.grantFrame k.val r = (d1.pump k.val).grantOwed k.val ∧
    (d1.port k.val).peer f.src = { ((d.port k.val).peer f.src).credited f.credits with owedCtrl := n, ctrlDue := due } := by
  obtain ⟨n, due, htaken⟩ := (d.port k.val).ctrlTaken_peer f.src (f.returns && f.type == ftGrant && lossOf f.credits == 0)
  refine ⟨_, n, due, by rw [Device.grantFrame, h.receive_control (by decide) (by decide)]; exact if_neg (Nat.not_le.2 hop), ?_⟩
  rw [Device.credited_peer, Device.port_modPort_same _ k.isLt, htaken]
  rfl

theorem Device.grantOwed_streams (d : Device) (k : Nat) : (d.grantOwed k).streams = d.streams :=
  (Device.grantOwed_within d k (.refl 135266304 _) rfl).part .streams (by decide)

/-- One that names a stream this device sends on to its source grants messages of it. -/
theorem FrameArrives.grantFrame_stream (h : FrameArrives d k.val ftGrant r f) (hop : 2 ^ 31 ≤ f.opId) (hid : f.opId - 2 ^ 31 < 256)
    (hsends : d.streamObj (f.opId - 2 ^ 31) 2 = 1) (hpeer : d.streamObj (f.opId - 2 ^ 31) 1 = f.src) :
    ((d.grantFrame k.val r).stream (f.opId - 2 ^ 31)).sendCredit = (d.stream (f.opId - 2 ^ 31)).sendCredit + f.credits := by
  obtain ⟨g, hread⟩ : ∃ g, d.receive k.val ftGrant r = (d.modPort k.val g, some f) := ⟨_, h.receive_control (by decide) (by decide)⟩
  have hd : d.grantFrame k.val r = (((d.modPort k.val g).setStream (f.opId - 2 ^ 31)
      { d.stream (f.opId - 2 ^ 31) with sendCredit := (d.stream (f.opId - 2 ^ 31)).sendCredit + f.credits }).progress f.src [f]).grantOwed k.val := by
    rw [Device.grantFrame, hread]
    exact (if_pos hop).trans (congrArg (Device.grantOwed · k.val) (if_pos ⟨hid, hsends, hpeer⟩))
  rw [hd, Device.stream_of_streams (Device.grantOwed_streams _ k.val)]
  exact congrArg Stream.sendCredit (Device.stream_setStream (d.modPort k.val g) (f.opId - 2 ^ 31) _)

end Control

/-! ### Sending again (R267) -/

/-- The kept frames toward `dst` from sequence `seq` on. -/
def Port.again (p : Port) (dst seq : Nat) : List Kept := (p.peer dst).kept.filter fun y => seqLe seq y.frame.seq

/-- The peer once they have been sent once more. -/
def Peer.resent (x : Peer) (seq now : Nat) : Peer :=
  { x with kept := x.kept.map fun y => if seqLe seq y.frame.seq then { y with sends := y.sends + 1, sentAt := now } else y }

/-- What is sent once more is the same frame. -/
theorem map_frame_sent (l : List Kept) (p : Kept → Bool) (now : Nat) :
    (l.map fun y => if p y then { y with sends := y.sends + 1, sentAt := now } else y).map (·.frame) = l.map (·.frame) := by
  rw [List.map_map]
  refine List.map_congr_left fun y _ => ?_
  dsimp only [Function.comp]
  split <;> rfl

theorem Peer.resent_frames (x : Peer) (seq now : Nat) : (x.resent seq now).kept.map (·.frame) = x.kept.map (·.frame) :=
  map_frame_sent x.kept (fun y => seqLe seq y.frame.seq) now

theorem Device.retry_early {d : Device} {k dst : Nat} {y : Kept} {ys : List Kept} (hkept : ((d.port k).peer dst).kept = y :: ys)
    (hearly : d.now < y.sentAt + (d.port k).retryNs) : d.retry k dst = d := by rw [Device.retry, hkept]; exact if_pos hearly

theorem Device.retry_due {d : Device} {k dst : Nat} {y : Kept} {ys : List Kept} (hkept : ((d.port k).peer dst).kept = y :: ys)
    (hdue : y.sentAt + (d.port k).retryNs ≤ d.now) : d.retry k dst = d.resend k dst y.frame.seq := by
  rw [Device.retry, hkept]
  exact if_neg (Nat.not_lt.2 hdue)

section Resend

variable {d : Device} {k dst seq : Nat} (hup : (d.port k).state = 2) (hgoes : (d.port k).paused d.now (d.port k).lossPrio = false)
  (hsome : (d.port k).again dst seq ≠ [])
include hup hgoes hsome

/-- A port that is up and not paused sends what there is to send again, or loses the plane. -/
theorem Device.resend_eq : d.resend k dst seq =
    if ((d.port k).again dst seq).any fun y => 5 ≤ y.sends then d.planeLost k dst
    else (d.modPort k fun p => (((d.port k).again dst seq).foldl (fun p y => p.emit k y.frame) p).setPeer dst (((d.port k).peer dst).resent seq d.now)).count 0x806002
      ((d.port k).again dst seq).length := by
  have hcond : (((d.port k).again dst seq).isEmpty || (d.port k).state != 2 || (d.port k).paused d.now (d.port k).lossPrio) = false := by
    simp [hup, hgoes, hsome]
  exact if_neg (by rw [← Bool.not_eq_true] at hcond; exact hcond)

theorem Device.resend_lost (hlate : ∃ y, y ∈ (d.port k).again dst seq ∧ 5 ≤ y.sends) : d.resend k dst seq = d.planeLost k dst := by
  rw [Device.resend_eq hup hgoes hsome, if_pos (by simpa using hlate)]

theorem Device.resend_sent (hfew : ∀ y, y ∈ (d.port k).again dst seq → y.sends < 5) : d.resend k dst seq =
    (d.modPort k fun p => (((d.port k).again dst seq).foldl (fun p y => p.emit k y.frame) p).setPeer dst (((d.port k).peer dst).resent seq d.now)).count 0x806002
      ((d.port k).again dst seq).length := by
  rw [Device.resend_eq hup hgoes hsome, if_neg (by simpa using hfew)]

end Resend

/-- Settles O44: acknowledgements and grants by the peer they leave, sending again by whether a frame has been sent five times. -/
theorem unacknowledgedFramesAreResent : Obligations.UnacknowledgedFramesAreResent := by
  unfold Obligations.UnacknowledgedFramesAreResent
  refine ⟨fun k r f s h => ?ack, fun k r f s h => ⟨fun hop => ?credits, fun hop hid hsends hpeer => ?messages⟩, fun k r f s d h => ?nak,
    fun k dst s y ys hkept => ⟨fun hearly => ?early, fun hdue => ?due⟩, fun d k dst seq hup hgoes => ?resend⟩
  case ack =>
    obtain ⟨d1, n, due, hd, hpeer⟩ := h.ackFrame_peer
    exact ⟨d1, _, runs_of_eq rfl hd, hpeer, rfl, rfl, rfl⟩
  case credits =>
    obtain ⟨d1, n, due, hd, hpeer⟩ := h.grantFrame_peer hop
    exact ⟨d1, runs_of_eq rfl hd, by rw [hpeer]; rfl, by rw [hpeer]; rfl⟩
  case messages => exact ⟨_, runs_of_eq rfl rfl, h.grantFrame_stream hop hid hsends hpeer⟩
  case nak => exact runs_of_eq rfl (by rw [Device.nakFrame, h])
  case early => exact runs_of_eq rfl (Device.retry_early hkept hearly)
  case due => exact runs_of_eq rfl (Device.retry_due hkept hdue)
  case resend =>
    intro again hsome
    refine ⟨fun hfew => ?_, fun hlate => Device.resend_lost hup hgoes hsome hlate⟩
    rw [Device.resend_sent hup hgoes hsome hfew]
    refine ⟨Device.counter_count_same _ _ _, ?_⟩
    rw [Device.port_of_ports (Device.count_ports _ _ _), Device.port_modPort_same _ k.isLt, Port.peer_setPeer]
    exact Peer.resent_frames _ _ _

end Sys2Proof.Machine
end

section
/-! PROOF. Links and hellos: a link-up and its hello, a link-down, what a hello says of its sender, and the timers and pauses of a port (R261, R262, R264, R267, R268, R289 to R291). -/

namespace Sys2Proof.Machine

/-! ### A link comes up (R264, R268, R290, R291) -/

/-- A store reads as before where none of a list of frames comes from. -/
theorem get_foldl_put_src (x : Nat → Peer) (l : List Frame) (dev : Nat) (h : ∀ f ∈ l, f.src ≠ dev) (m : Store Peer) :
    (l.foldl (fun m f => m.put Peer.fresh f.src (x f.src)) m).get Peer.fresh dev = m.get Peer.fresh dev := by
  induction l generalizing m with
  | nil => rfl
  | cons f l ih =>
    rw [List.foldl_cons, ih (fun g hg => h g (List.mem_cons_of_mem f hg)), Store.get_put_other (h f List.mem_cons_self).symm]

/-- Port `k` as a link-up brings it up: the settings of now, credits and numbering afresh, the frames it held and their slots as before. -/
def Device.portUp (d : Device) (k : Nat) : Port :=
  { Port.fresh with
    state := 2, devNum := d.setting 0x600001, sysTop := d.setting 0x600002 / 2 ^ 16, lossPrio := d.setting 0x600003, ctrlPrio := d.setting 0x600004,
    retryNs := d.setting 0x600005, vlan := d.setting 0x600006, helloAt := d.now, ups := (d.port k).ups + 1, sent := (d.port k).sent, adverts := (d.port k).adverts,
    held := (d.port k).held, lossFree := (d.port k).lossFree,
    peers := (d.port k).held.foldl (fun m f => m.put Peer.fresh f.src ((d.port k).freshPeer f.src)) [] }

theorem Device.portUp_peer (d : Device) (k dev : Nat) (h : ∀ f ∈ (d.port k).held, f.src ≠ dev) : (d.portUp k).peer dev = Peer.fresh :=
  get_foldl_put_src (d.port k).freshPeer (d.port k).held dev h []

/-- A hello goes on the line, and nothing else of the port changes. -/
theorem Device.hello_port (d : Device) (k : Fin 8) :
    (d.hello k.val).port k.val = (d.port k.val).emit k.val { d.frame k.val ftHello 0xFF with step := (d.port k.val).ups } :=
  Device.port_modPort_same _ k.isLt _

/-- Port `k` is up, and its hello has left; its book is not audited yet. -/
def Device.greeted (d : Device) (k : Nat) : Device := (d.setPort k (d.portUp k)).hello k

theorem Device.greeted_port (d : Device) (k : Fin 8) : (d.greeted k.val).port k.val =
    (d.portUp k.val).emit k.val { (d.setPort k.val (d.portUp k.val)).frame k.val ftHello 0xFF with step := (d.portUp k.val).ups } := by
  rw [Device.greeted, Device.hello_port, Device.port_setPort_same _ k.isLt]

section LinkUp

variable {d : Device} {k : Fin 8} (hdown : (d.port k.val).state ≤ 1) (hready : d.isReady = true) (hstate : d.power.powerState = 0) (hbay : (d.bay k.val).closed = false)

include hdown hready hstate hbay in
theorem Device.linkUp_eq : d.linkUp k.val = (d.greeted k.val).auditCredits k.val :=
  if_neg (by simp [Nat.not_lt.2 hdown, hready, hstate, hbay])

/-- The book balances once the port is up, where the frames held and the free slots fill the buffer. -/
theorem Device.greeted_creditsOk (d : Device) (k : Fin 8) :
    (d.greeted k.val).creditsOk k.val = decide ((d.port k.val).lossFree + (d.port k.val).held.length = 512) := by
  rw [Device.creditsOk, Device.greeted_port]
  exact Bool.and_true _

include hdown hready hstate hbay in
theorem Device.linkUp_balanced (hbook : (d.port k.val).lossFree + (d.port k.val).held.length = 512) : d.linkUp k.val = d.greeted k.val := by
  rw [Device.linkUp_eq hdown hready hstate hbay, Device.auditCredits, d.greeted_creditsOk k, decide_eq_true hbook]
  rfl

include hdown hready hstate hbay in
/-- Out of balance, the bay begins rung 2. -/
theorem Device.linkUp_unbalanced (hbook : (d.port k.val).lossFree + (d.port k.val).held.length ≠ 512) (hnesting : (d.bay k.val).nesting = 0) :
    ((d.linkUp k.val).bay k.val).state = .reset := by
  have hout : (d.greeted k.val).bayOut k.val = false := Device.bayOut_of_closed hbay
  rw [Device.linkUp_eq hdown hready hstate hbay, Device.auditCredits, d.greeted_creditsOk k, decide_eq_false hbook, hout]
  exact (Device.bayDetected_begun (d := d.greeted k.val) k.isLt hout hnesting 0x05 13 0xFFFF []).1.state

end LinkUp

/-! ### A link goes down (R268, R289, R291) -/

theorem Port.returnToken_held (p : Port) (tag key : Nat) (sending : Bool) : (p.returnToken tag key sending).held = p.held := by
  unfold Port.returnToken
  split <;> rfl

/-- Steps that move to other planes leave the receive buffer of their port. -/
theorem Device.moveSteps_held (d : Device) (k : Fin 8) (dst : Nat) : ((d.moveSteps k.val dst).port k.val).held = (d.port k.val).held := by
  unfold Device.moveSteps
  dsimp only
  rw [Device.port_modPort_same _ k.isLt]
  refine List.foldlRecOn _ _ (motive := fun e : Device => (e.port k.val).held = (d.port k.val).held) rfl fun e he t _ => ?_
  split
  · exact he
  · rw [Device.port_of_ports (Device.modCmd_ports _ _ _), Device.port_modPort_same _ k.isLt, Port.returnToken_held, he]

theorem Device.foldl_moveSteps_held (d : Device) (k : Fin 8) (l : List Nat) :
    ((l.foldl (fun d dst => d.moveSteps k.val dst) d).port k.val).held = (d.port k.val).held :=
  List.foldlRecOn _ _ (motive := fun e : Device => (e.port k.val).held = (d.port k.val).held) rfl fun e he dst _ => (e.moveSteps_held k dst).trans he

/-- A port whose link is gone has no peers, queue or tokens, and the frames it has accepted. -/
theorem Device.portDown_port (d : Device) (k : Fin 8) (state : Nat) : ∃ p : Port, p.held = (d.port k.val).held ∧
    (d.portDown k.val state).port k.val = { p with state := state, peers := [], queue := [], tokens := [], tokensFree := 16 } :=
  ⟨_, (Device.foldl_moveSteps_held _ k _).trans (Device.foldl_moveSteps_held _ k _), Device.port_modPort_same _ k.isLt _⟩

theorem Device.linkDown_port {d : Device} {k : Fin 8} (hup : (d.port k.val).state = 2 ∨ (d.port k.val).state = 3) :
    (d.linkDown k.val).port k.val = (d.portDown k.val 1).port k.val := by
  have hd : d.linkDown k.val = (d.portDown k.val 1).planeEvent k.val 0xFF := if_pos hup
  rw [hd, Device.planeEvent, Device.port_of_ports (Device.logEvent_ports _ _), Device.port_of_ports (Device.count_ports _ _ _)]

/-! ### Hellos (R261, R264, R267, R289) -/

/-- A source starts afresh where it was silent, or has come up again since its last hello. -/
def Peer.restarts (x : Peer) (now ups : Nat) : Bool := silent now x.lastHello || (x.ups.isSome && x.ups != some ups)

theorem Peer.restarts_eq_false {x : Peer} {now ups : Nat} (hheard : silent now x.lastHello = false) (hups : x.ups = none ∨ x.ups = some ups) : x.restarts now ups = false := by
  rcases hups with h | h <;> simp [Peer.restarts, hheard, h]

theorem Peer.restarts_eq_true {x : Peer} {now ups : Nat} (h : silent now x.lastHello = true ∨ ∃ n, x.ups = some n ∧ n ≠ ups) : x.restarts now ups = true := by
  rcases h with h | ⟨n, hn, hne⟩
  · simp [Peer.restarts, h]
  · simp [Peer.restarts, hn, hne]

section Hello

variable {d : Device} {k : Fin 8} {r : RxFrame} {f : Frame} (h : FrameArrives d k.val ftHello r f)
include h

/-- This device's own number from another MAC address makes the port a duplicate, whether or not it was one. -/
theorem FrameArrives.helloFrame_duplicate (hown : f.src = (d.port k.val).devNum) (hmac : r.srcMac ≠ fabricMacOf k.val (d.port k.val).devNum) :
    ((d.helloFrame k.val r).port k.val).state = 3 ∧ ((d.helloFrame k.val r).port k.val).dupMac = r.srcMac := by
  have hport : (d.helloFrame k.val r).port k.val = { d.port k.val with state := 3, dupMac := r.srcMac, dupAt := d.now } := by
    simp only [Device.helloFrame, h.receive_open (.inl rfl), if_pos hown, if_neg hmac]
    split
    · exact Device.port_modPort_same _ k.isLt _
    · rw [Device.port_of_ports (Device.logEvent_ports _ _), Device.port_modPort_same _ k.isLt]
  rw [hport]
  exact ⟨rfl, rfl⟩

/-- Another device's hello is noted, or starts the peer afresh. -/
theorem FrameArrives.helloFrame_other (hother : f.src ≠ (d.port k.val).devNum) : d.helloFrame k.val r =
    if ((d.port k.val).peer f.src).restarts d.now f.step then d.restartPeer k.val f.src f.step
    else d.modPort k.val fun p => p.setPeer f.src { (d.port k.val).peer f.src with lastHello := some d.now, ups := some f.step } := by
  simp only [Device.helloFrame, h.receive_open (.inl rfl), if_neg hother]
  rfl

theorem FrameArrives.helloFrame_heard (hother : f.src ≠ (d.port k.val).devNum) (hheard : silent d.now ((d.port k.val).peer f.src).lastHello = false)
    (hups : ((d.port k.val).peer f.src).ups = none ∨ ((d.port k.val).peer f.src).ups = some f.step) : d.helloFrame k.val r =
    d.modPort k.val fun p => p.setPeer f.src { (d.port k.val).peer f.src with lastHello := some d.now, ups := some f.step } := by
  rw [h.helloFrame_other hother, Peer.restarts_eq_false hheard hups]
  rfl

theorem FrameArrives.helloFrame_restarts (hother : f.src ≠ (d.port k.val).devNum)
    (hnew : silent d.now ((d.port k.val).peer f.src).lastHello = true ∨ ∃ n, ((d.port k.val).peer f.src).ups = some n ∧ n ≠ f.step) :
    d.helloFrame k.val r = d.restartPeer k.val f.src f.step := by
  rw [h.helloFrame_other hother, Peer.restarts_eq_true hnew]
  rfl

end Hello

/-! ### Pauses (R264) -/

/-- The timers of a port's priorities after a PFC frame: those of the mask take their own times. -/
def pausesSet (now : Nat) (mask : Byte) (ns ts : List Nat) : List Nat := ts.zipIdx.map fun (t, i) => if mask.toNat.testBit i then now + ns.getD i 0 else t

theorem pausesSet_getElem? (now : Nat) (mask : Byte) (ns ts : List Nat) {i : Nat} (hi : i < ts.length) :
    (pausesSet now mask ns ts)[i]? = if mask.toNat.testBit i = true then some (now + ns.getD i 0) else ts[i]? := by
  rw [pausesSet, List.getElem?_map, List.getElem?_zipIdx, List.getElem?_eq_getElem hi, Nat.zero_add]
  exact apply_ite some _ _ _

/-- Settles O45: links by the port they leave, a hello by what it says of its source, and each timer by the branch its hypotheses choose. -/
theorem linksAndHellos : Obligations.LinksAndHellos := by
  unfold Obligations.LinksAndHellos
  refine ⟨fun k s hdown hready hstate hbay => ⟨fun hbook => ?balanced, fun hbook hnesting => ?unbalanced⟩, fun k s hup => ?down,
    fun k r f s h => ⟨fun hown hmac => ?duplicate, fun hother hheard hups => ?heard, fun hother hnew => ?restarts⟩,
    fun k src s hdup hown hlong => ?silence, fun k s hearly => ?early, fun k s hup hdue => ?due,
    fun k a s hup => ⟨fun hown => ?own, fun hother => ?other⟩, fun k m ns s hup => ?pause⟩
  case balanced =>
    refine ⟨_, runs_of_eq rfl (Device.linkUp_balanced hdown hready hstate hbay hbook), ?_⟩
    rw [Device.greeted_port]
    exact ⟨rfl, rfl, rfl, rfl, fun dev hdev => s.dev.portUp_peer k.val dev hdev, rfl, rfl, rfl, rfl, rfl, _, rfl, rfl, rfl, rfl⟩
  case unbalanced => exact ⟨_, runs_of_eq rfl rfl, Device.linkUp_unbalanced hdown hready hstate hbay hbook hnesting⟩
  case down =>
    obtain ⟨p, hheld, hport⟩ := s.dev.portDown_port k 1
    refine ⟨_, runs_of_eq rfl rfl, ?_⟩
    rw [Device.linkDown_port hup, hport]
    exact ⟨rfl, rfl, rfl, hheld, rfl, rfl⟩
  case duplicate => exact ⟨_, runs_of_eq rfl rfl, h.helloFrame_duplicate hown hmac⟩
  case heard => exact runs_of_eq rfl (h.helloFrame_heard hother hheard hups)
  case restarts => exact runs_of_eq rfl (h.helloFrame_restarts hother hnew)
  case silence => exact runs_of_eq rfl (if_pos ⟨hdup, hown, hlong⟩)
  case early => exact runs_of_eq rfl (if_neg fun ⟨_, hdue⟩ => Nat.not_le.2 hearly hdue)
  case due => exact runs_of_eq rfl (if_pos ⟨hup, hdue⟩)
  case own => subst hown; exact runs_of_eq rfl (if_pos ⟨hup, rfl⟩)
  case other => exact runs_of_eq rfl (if_neg fun ⟨_, hown⟩ => hother hown)
  case pause =>
    exact ⟨_, pausesSet s.dev.now m ns (s.dev.port k.val).pausedUntil, runs_of_eq rfl (if_pos hup), rfl, fun i hi => pausesSet_getElem? _ _ _ _ hi⟩

end Sys2Proof.Machine
end

section
/-! PROOF. The pacer's own state: flicker holds, setpoint steps, the inlet sensor and tile gauges (R320, R336, R376, R382, R383, R386, R453). -/

namespace Sys2Proof.Machine

/-! ### Flicker holds (R376) -/

/-- With power good, a bay that is not held is held from now on, and the hold is counted. -/
theorem Device.flicker_begins {d : Device} {k : Fin 8} (hpower : d.power.pwrgd = true) (hfree : (d.bay k.val).holdSince = none) :
    d.flicker (.bay k) = (d.modBay k.val fun b => { b with holdSince := some d.now }).count 0x803001 1 :=
  if_neg (by simp [hpower, hfree])

section HoldEnd

variable {d : Device} {k : Fin 8} {t : Nat} (hheld : (d.bay k.val).holdSince = some t)
include hheld

theorem Device.flickerEnd_early_of_not_recovered (hearly : d.now < t + 2000) : d.flickerEnd false (.bay k) = d := by
  simp only [Device.flickerEnd, hheld, decide_eq_false (Nat.not_le.2 hearly), Bool.or_self, Bool.not_false, if_true]

theorem Device.flickerEnd_early_of_recovered (hearly : d.now < t + 2000) :
    d.flickerEnd true (.bay k) = d.modBay k.val fun b => { b with holdSince := none } := by
  simp [Device.flickerEnd, hheld, Nat.not_le.2 hearly]

/-- A hold of 2 µs cuts the bay's ceiling whether or not the rail has recovered. -/
theorem Device.flickerEnd_full (hfull : t + 2000 ≤ d.now) (recovered : Bool) :
    d.flickerEnd recovered (.bay k) = ((d.modBay k.val fun b => { b with holdSince := none }).modBay k.val fun b =>
      { b with ceilCut := some (max (d.pace.ceiling * 9 / 10) d.protectedFloor, d.now + 1000000) }).count 0x803002 1 := by
  simp only [Device.flickerEnd, hheld, decide_eq_true hfull, Bool.or_true, Bool.not_true, Bool.false_eq_true, if_false, if_true]

end HoldEnd

/-! ### The setpoint (R386) -/

theorem Device.setpointStep_early {d : Device} (hearly : d.now < d.pace.stepAt + 100000) : d.setpointStep = d := if_pos (.inl hearly)

theorem Device.setpointStep_rises {d : Device} (hdue : d.pace.stepAt + 100000 ≤ d.now) (hpower : d.power.pwrgd = true) (hlow : d.pace.setpoint < d.pace.target) :
    d.setpointStep = d.withPace fun p => { p with setpoint := p.setpoint + 5, stepAt := d.now } := by
  have hsteps : ¬(d.now < d.pace.stepAt + 100000 ∨ (!d.power.pwrgd) = true) := by simp [hpower, hdue]
  exact (if_neg hsteps).trans (if_pos hlow)

/-! ### Gauges (R336, R382, R383) -/

/-- A gauge's first reading becomes its baseline; a later one leaves the baseline. -/
theorem Device.baseGauge_baseline (d : Device) (n b : Nat) : (d.baseGauge n b).baseline n = if d.baseline n = 0 then b else d.baseline n := by
  unfold Device.baseGauge
  split
  · exact Store.get_put_same
  · rfl

/-- A report of an implausible gauge changes no reading. -/
theorem Device.gaugeSuspect_pace (d : Device) (n b : Nat) : (d.gaugeSuspect n b).pace = d.pace := by
  simp only [Device.gaugeSuspect, Device.logEvent_pace, Device.alert_pace, Device.count_pace]

/-- A report of an implausible gauge changes no baseline. -/
theorem Device.gaugeSuspect_flash (d : Device) (n b : Nat) : (d.gaugeSuspect n b).flash = d.flash := by
  simp only [Device.gaugeSuspect, Device.logEvent_flash, Device.alert_flash, Device.count_flash]

/-- What a reading of gauge `n` makes of whether it is implausible: once so, it stays so. -/
def Device.gaugeNowBad (d : Device) (n a b : Nat) : Bool := d.gaugeWas n || !((d.baseGauge n b).plausible n b a)

theorem Device.gaugeNowBad_of_implausible {d : Device} {n : Nat} {y : Gauge} (hy : d.gauge n = some y) (hbad : y.implausible = true) (a b : Nat) :
    d.gaugeNowBad n a b = true := by
  rw [Device.gaugeNowBad, Device.gaugeWas, hy]
  exact (congrArg (· || _) hbad).trans (Bool.true_or _)

/-- The block with a reading of gauge `n` kept, before anything is reported. -/
def Device.readingKept (d : Device) (n a b : Nat) : Device :=
  ((d.baseGauge n b).withPace fun p => { p with
    gauges := p.gauges.put none n (some ⟨b, d.now, d.gaugeNowBad n a b⟩)
    planDue := p.planDue || (d.gaugeNowBad n a b && !d.gaugeWas n) }).touch (0x303001 + groupOfGauge n)

theorem Device.readGauge_eq (d : Device) (n a b : Nat) :
    d.readGauge n a b = if d.gaugeNowBad n a b && !d.gaugeWas n then (d.readingKept n a b).gaugeSuspect n b else d.readingKept n a b := rfl

/-- Whether or not the gauge is reported, the pace and serial flash are those with the reading kept. -/
theorem Device.readGauge_kept (d : Device) (n a b : Nat) :
    (d.readGauge n a b).pace = (d.readingKept n a b).pace ∧ (d.readGauge n a b).flash = (d.readingKept n a b).flash := by
  rw [Device.readGauge_eq]
  split
  · exact ⟨Device.gaugeSuspect_pace _ n b, Device.gaugeSuspect_flash _ n b⟩
  · exact ⟨rfl, rfl⟩

theorem Device.readGauge_gauge (d : Device) (n a b : Nat) : (d.readGauge n a b).gauge n = some ⟨b, d.now, d.gaugeNowBad n a b⟩ := by
  rw [Device.gauge, (d.readGauge_kept n a b).1]
  exact Store.get_put_same

theorem Device.readGauge_baseline (d : Device) (n a b : Nat) : (d.readGauge n a b).baseline n = if d.baseline n = 0 then b else d.baseline n := by
  rw [Device.baseline, (d.readGauge_kept n a b).2]
  exact d.baseGauge_baseline n b

/-- With power good, a measurement of the gauge of a tile in use is a reading of it. -/
theorem Device.measure_tile {d : Device} {k : Fin 8} {p : Fin 1344} (hpower : d.power.pwrgd = true) (huse : p.val ∉ (d.bay k.val).retired) (g1 g2 : Nat) (t : Int) :
    d.measure (.tile k p) g1 g2 t = d.readGauge (gaugeNum (.tile k p)) (d.normalise g1 t) (d.normalise g2 t) :=
  if_neg (by simp [hpower, huse])

/-- Settles O49: holds and setpoint steps by the branch their hypotheses choose, and a measurement by the reading it keeps. -/
theorem pacerSensorsAndHolds : Obligations.PacerSensorsAndHolds := by
  unfold Obligations.PacerSensorsAndHolds
  refine ⟨fun k s hpower hfree => ?begins, fun k s t hheld => ⟨fun hearly => ?waits, fun hearly => ?recovers, fun hfull r => ?full⟩,
    fun s => ⟨fun hearly => ?early, fun hdue hpower hlow => ?rises⟩, fun t s hpower => ?inlet, fun k p g1 g2 t s hpower huse => ?gauge⟩
  case begins =>
    refine ⟨_, runs_of_eq rfl (Device.flicker_begins hpower hfree), ?_, Device.counter_count_same _ _ _, rfl⟩
    rw [Device.bay_of_bays (Device.count_bays _ _ _), Device.bay_modBay_same _ k.isLt]
  case waits => exact runs_of_eq rfl (Device.flickerEnd_early_of_not_recovered hheld hearly)
  case recovers => exact runs_of_eq rfl (Device.flickerEnd_early_of_recovered hheld hearly)
  case full =>
    refine ⟨_, runs_of_eq rfl (Device.flickerEnd_full hheld hfull r), ?_⟩
    rw [Device.bay_of_bays (Device.count_bays _ _ _), Device.bay_modBay_same _ k.isLt, Device.bay_modBay_same _ k.isLt]
    exact ⟨rfl, rfl, Device.counter_count_same _ _ _⟩
  case early => exact runs_of_eq rfl (Device.setpointStep_early hearly)
  case rises => exact runs_of_eq rfl (Device.setpointStep_rises hdue hpower hlow)
  case inlet => exact ⟨_, runs_of_eq rfl (if_pos hpower), rfl, rfl, rfl⟩
  case gauge =>
    intro n
    refine ⟨_, _, runs_of_eq rfl (Device.measure_tile hpower huse g1 g2 t), Device.readGauge_gauge _ _ _ _, rfl, rfl, fun hfirst => ?_, fun hlater => ?_,
      fun y hy hbad => Device.gaugeNowBad_of_implausible hy hbad _ _⟩
    · exact (Device.readGauge_baseline _ _ _ _).trans (if_pos hfirst)
    · exact (Device.readGauge_baseline _ _ _ _).trans (if_neg hlater)

end Sys2Proof.Machine
end

section
/-! PROOF. Steps and their frame: every command touches only its own parts, and every step answers a next state (R230, R252, R325, R431). -/

namespace Sys2Proof.Machine

/-- Settles O59: each command's own operation stays within the command's parts. -/
theorem stepTouchesOnlyItsParts : Obligations.StepTouchesOnlyItsParts := exec_within

/-- With a command in front, a step completes that command and takes it from the queue. -/
theorem step_cons_next (dev : Device) (c : Instr) (rest : List Instr) : ∃ d : Device, step ⟨dev, c :: rest⟩ = .next ⟨d, rest⟩ := by
  obtain ⟨d, hruns, -⟩ := exec_within c ⟨dev, rest⟩
  exact ⟨d, hruns⟩

/-- Settles O2: an empty queue idles, and any command in front completes. -/
theorem everyStepAnswersNext : Obligations.EveryStepAnswersNext := by
  unfold Obligations.EveryStepAnswersNext
  rintro ⟨dev, _ | ⟨c, rest⟩⟩
  case nil => exact ⟨⟨_, rfl⟩, fun _ => rfl⟩
  case cons => exact ⟨step_cons_next dev c rest, fun hempty => nomatch hempty⟩

end Sys2Proof.Machine
end

section
/-! PROOF. Loss of power and the board controller's reset: what they leave, and the trips, turn-offs and pulses that do nothing (R342, R392, R447, R450, R453). -/

namespace Sys2Proof.Machine

/-! ### What is left (R392, R447, R450) -/

/-! Programming cut short marks an image slot, and leaves what flash keeps of rows, tiles and age (R432). -/

theorem Flash.cutShort_remaps (f : Flash) (t : Option Nat) : (f.cutShort t).remaps = f.remaps := by cases t <;> rfl
theorem Flash.cutShort_retired (f : Flash) (t : Option Nat) : (f.cutShort t).retired = f.retired := by cases t <;> rfl
theorem Flash.cutShort_ageNs (f : Flash) (t : Option Nat) : (f.cutShort t).ageNs = f.ageNs := by cases t <;> rfl

/-- The block at power-on, with its flash cut short. -/
theorem Device.blank_poweredDown (d : Device) (now : Nat) (power : PowerDom) : PoweredDown d (d.blank now power) where
  cmds := rfl
  entries := rfl
  events := rfl
  queues := rfl
  counters := rfl
  mem := rfl
  step := rfl
  host := rfl
  out := rfl
  floors := Flash.cutShort_floors _ _
  revoked := Flash.cutShort_revoked _ _
  remaps := Flash.cutShort_remaps _ _
  retired := Flash.cutShort_retired _ _

/-- The age that serial flash keeps is no part of what PoweredDown speaks of. -/
theorem PoweredDown.withAge {d₀ d : Device} (h : PoweredDown d₀ d) (age : Nat) : PoweredDown d₀ { d with flash := { d.flash with ageNs := age } } :=
  { h with }

theorem Device.powerOff_poweredDown (d : Device) (lock : Bool) : PoweredDown d (d.powerOff lock) :=
  (d.blank_poweredDown _ _).withAge _

/-- The module's age in flash grows by the time since power-on. -/
theorem Device.powerOff_ageNs (d : Device) (lock : Bool) : (d.powerOff lock).flash.ageNs = d.flash.ageNs + d.now :=
  congrArg (· + d.now) (Flash.cutShort_ageNs _ _)

/-! ### The commands that turn the module off (R447, R453) -/

/-- A command that turns a powered module off: the input out of its range, or a trip at one of the two temperatures. -/
def TurnsOff (c : Instr) : Prop :=
  c = .undervoltageOff ∨ c = .overvoltageOff ∨ ∃ j i, c = .thermalTrip j i ∧ (1200 ≤ j ∨ 600 < i)

/-- No pulse of BC_RST# is a turn-off. -/
theorem TurnsOff.ne_bcReset {c : Instr} (h : TurnsOff c) (n : Nat) : c ≠ .bcReset n := by
  obtain rfl | rfl | ⟨j, i, rfl, -⟩ := h <;> nofun

/-- A powered module switches off, and locks only after an overvoltage. -/
theorem TurnsOff.runs {c : Instr} {s : State} (h : TurnsOff c) (hon : s.dev.power.phase ≠ .off) :
    ∃ lock, Runs c s (s.dev.powerOff lock) ∧ (lock = true ↔ c = .overvoltageOff) := by
  obtain rfl | rfl | ⟨j, i, rfl, hhot⟩ := h
  · exact ⟨false, runs_of_eq rfl (if_neg hon), by simp⟩
  · exact ⟨true, runs_of_eq rfl (if_neg hon), by simp⟩
  · exact ⟨false, runs_of_eq rfl (if_pos ⟨hon, hhot⟩), by simp⟩

/-! ### BC_RESET (R450) -/

theorem Device.bcReset_short {d : Device} {n : Nat} (h : n < 100000) : d.bcReset n = d := if_pos (.inr (.inl h))

/-- Held for 1 ms with power good, BC_RST# takes the module back to step 3. -/
theorem Device.bcReset_long {d : Device} {n : Nat} (hpower : d.power.pwrgd = true) (h : 1000000 ≤ n) :
    d.bcReset n = d.blank d.now { PowerDom.unpowered with
      phase := .regulated, pwrgd := true, bcLow := true, perstLow := d.power.perstLow, straps := d.power.straps, rung4 := d.power.rung4 } := by
  have h100us : ¬n < 100000 := by omega
  exact if_neg (by simp [hpower, h100us, Nat.not_lt.mpr h])

/-- Settles O51: a turn-off and a long reset both leave the block at power-on, and each of the others takes the branch that leaves it alone. -/
theorem powerLossLeavesPowerOn : Obligations.PowerLossLeavesPowerOn := by
  unfold Obligations.PowerLossLeavesPowerOn
  refine ⟨fun c s hc => ?lost, fun j i s hj hi => ?cool, fun j i s hoff => ⟨?low, ?high, ?trip⟩, fun n s hn => ?pulse, fun _ => rfl, fun _ => rfl⟩
  case lost =>
    obtain ⟨hon, hturns⟩ | ⟨hpower, n, rfl, hn⟩ := hc
    · have hturns : TurnsOff c := hturns
      obtain ⟨lock, hruns, hlock⟩ := hturns.runs hon
      exact ⟨_, hruns, s.dev.powerOff_poweredDown lock, fun ⟨n, hbc⟩ => absurd hbc (hturns.ne_bcReset n),
        fun _ => ⟨rfl, rfl, rfl, s.dev.powerOff_ageNs lock, hlock⟩⟩
    · exact ⟨_, runs_of_eq rfl (Device.bcReset_long hpower hn), s.dev.blank_poweredDown _ _, fun _ => ⟨rfl, rfl, rfl, rfl⟩,
        fun hother => absurd rfl (hother n)⟩
  case cool => exact runs_of_eq rfl (if_neg (by omega))
  case low => exact runs_of_eq rfl (if_pos hoff)
  case high => exact runs_of_eq rfl (if_pos hoff)
  case trip => exact runs_of_eq rfl (if_neg fun h => h.1 hoff)
  case pulse => exact runs_of_eq rfl (Device.bcReset_short hn)

end Sys2Proof.Machine
end

section
/-! PROOF. The device domain: a rollback of an I/O-die pair, the handling it begins, and rung 3 (R355, R357, R360, R402). -/

namespace Sys2Proof.Machine

/-! ### A detection in the device domain (R355, R360) -/

/-- A rollback of a ready device is counted before it is handled; where the log is lost, an ember register counts it too (R368). -/
theorem Device.rollback_counts {d : Device} (hready : d.isReady = true) :
    ∃ l, d.rollback = ({ d.count 0x80A004 1 with log := l } : Device).deviceDetected := by
  have hup : d.poweredUp = true := by rw [Device.poweredUp, hready, Bool.true_or]
  unfold Device.rollback
  rw [if_pos hup]
  dsimp only
  split <;> exact ⟨_, rfl⟩

/-- The first detection puts the domain under handling and alerts. -/
theorem Device.deviceDetected_first {d : Device} (h : d.safety.devHandling = 0) :
    d.deviceDetected = ((d.withSafety fun s => { s with devHandling := 1 }).rungSeen 1).alert 6 := if_pos h

/-- A second detection begins rung 3. -/
theorem Device.deviceDetected_second {d : Device} (h : d.safety.devHandling = 1) : d.deviceDetected = d.rung3 .self 2 ⟨5, 1, 0xFFFF, []⟩ :=
  (if_neg (by rw [h]; decide)).trans (if_pos h)

/-- What the first detection leaves: the handling and its alert, with counters and work as they were. -/
theorem Device.deviceDetected_handled {d : Device} (h : d.safety.devHandling = 0) : d.deviceDetected.safety.devHandling = 1 ∧
    d.deviceDetected.safety.alert.toNat.testBit 6 = true ∧ (∀ a, d.deviceDetected.counter a = d.counter a) ∧
    d.deviceDetected.cmds = d.cmds ∧ d.deviceDetected.mem = d.mem ∧ d.deviceDetected.bays = d.bays := by
  rw [Device.deviceDetected_first h]
  exact ⟨by rw [Device.alert_safety]; rfl, Device.alert_set _ 6 (by decide), fun a => Device.alert_counter _ 6 a,
    Device.alert_cmds _ _, Device.alert_mem _ _, Device.alert_bays _ _⟩

/-! ### The rows -/

/-- The first LOCKSTEP_ROLLBACK of a ready device is counted and handled. -/
theorem runs_lockstepRollback_first {s : State} (hready : s.dev.isReady = true) (h : s.dev.safety.devHandling = 0) :
    ∃ d, Runs .lockstepRollback s d ∧ d.counter 0x80A004 = stopAdd 64 (s.dev.counter 0x80A004) 1 ∧ d.safety.devHandling = 1 ∧
      d.safety.alert.toNat.testBit 6 = true ∧ d.cmds = s.dev.cmds ∧ d.mem = s.dev.mem ∧ d.bays = s.dev.bays := by
  obtain ⟨l, hrollback⟩ := Device.rollback_counts hready
  obtain ⟨hhandling, halert, hcounter, hcmds, hmem, hbays⟩ :=
    Device.deviceDetected_handled (d := { s.dev.count 0x80A004 1 with log := l }) h
  exact ⟨_, runs_of_eq rfl hrollback, (hcounter _).trans (Device.counter_count_same ..), hhandling, halert, hcmds, hmem, hbays⟩

/-- LOCKSTEP_ROLLBACK under handling begins rung 3. -/
theorem runs_lockstepRollback_second {s : State} (hready : s.dev.isReady = true) (h : s.dev.safety.devHandling = 1) :
    ∃ d, Runs .lockstepRollback s d ∧ RungThree d := by
  obtain ⟨l, hrollback⟩ := Device.rollback_counts hready
  have hreset := Device.deviceDetected_second (d := { s.dev.count 0x80A004 1 with log := l }) h
  exact ⟨_, runs_of_eq rfl (hrollback.trans hreset), Device.rung3_begun ..⟩

/-- DEVICE_RESET of a ready device begins rung 3, whatever its origin. -/
theorem runs_deviceReset {s : State} (hready : s.dev.isReady = true) (o : ResetOrigin) : ∃ d, Runs (.deviceReset o) s d ∧ RungThree d :=
  ⟨_, runs_of_eq rfl (if_pos (by rw [Device.poweredUp, hready, Bool.true_or])), Device.rung3_begun _ o 2 {}⟩

/-- Settles O36: a first detection is handled, the next one and a reset begin rung 3. -/
theorem deviceDomainRollsBackThenResets : Obligations.DeviceDomainRollsBackThenResets := by
  unfold Obligations.DeviceDomainRollsBackThenResets
  refine ⟨fun s => runs_lockstepRollback_first, fun s h => runs_of_eq rfl (if_pos h), fun c s hready hc => ?rung3⟩
  case rung3 =>
    obtain ⟨o, rfl⟩ | ⟨rfl, h⟩ := hc
    · exact runs_deviceReset hready o
    · exact runs_lockstepRollback_second hready h

end Sys2Proof.Machine
end

section
/-! PROOF. Timers of the dictionary, the management port and the summary block (R370, R403 to R406, R409, R411, R412). -/

namespace Sys2Proof.Machine

/-! ### Notifications and leases (R403, R409, R412) -/

theorem Device.resendNotices_closed {d : Device} {k : Nat} (h : (d.session k).live = false) : d.resendNotices k = d :=
  if_neg (by rw [h]; decide)

/-- The notifications of a session that are due and may go out again. -/
def Session.again (x : Session) (now : Nat) : List Notice := x.notices.filter fun n => n.due now && decide (n.resends < 3)

/-- A session once its due notifications have been sent again or given up. -/
def Session.resent (x : Session) (now : Nat) : Session :=
  { x with notices := x.notices.filterMap fun n => if n.due now = false then some n else if n.resends < 3 then some { n with resends := n.resends + 1, lastAt := now } else none }

theorem Device.resendNotices_live {d : Device} {k : Nat} (h : (d.session k).live = true) :
    d.resendNotices k = ((d.session k).again d.now).foldl (fun e n => e.transmit (noticeMsg k n.seq (d.session k) n.word))
      (d.modSession k fun x => x.resent d.now) := Device.resendNotices_eq d k h

/-- What sending a session's due notifications again leaves. -/
theorem Device.resendNotices_spec {d : Device} {k : Nat} (hk : k < 4) (h : (d.session k).live = true) :
    (d.resendNotices k).session k = (d.session k).resent d.now ∧
    (d.resendNotices k).out.brynuo = (if d.dict.mgmtUp && !d.dict.plcaStopped then
      (((d.session k).again d.now).map fun n => (noticeMsg k n.seq (d.session k) n.word).wire).reverse else []) ++ d.out.brynuo ∧
    (d.resendNotices k).dict.requests = d.dict.requests := by
  obtain ⟨hdict, hsent⟩ := Device.transmit_fold ((d.session k).again d.now) (fun n => noticeMsg k n.seq (d.session k) n.word)
    (d.modSession k fun x => x.resent d.now)
  rw [Device.resendNotices_live h]
  refine ⟨?_, hsent, (congrArg Dict.requests hdict).trans rfl⟩
  rw [Device.session_of_dict (congrArg Dict.sessions hdict), Device.session_modSession _ _ _ hk, if_pos rfl]

/-- A session's lease runs out only when it is live and due. -/
theorem Device.leaseExpiry_early {d : Device} {k : Nat} (h : (d.session k).live = true → d.now < (d.session k).lastReq + 1000000 * (d.session k).leaseMs) :
    d.leaseExpiry k = d := if_neg fun ⟨hlive, hdue⟩ => absurd (h hlive) (Nat.not_lt.2 hdue)

theorem Device.leaseExpiry_due {d : Device} {k : Nat} (hlive : (d.session k).live = true)
    (h : (d.session k).lastReq + 1000000 * (d.session k).leaseMs ≤ d.now) : d.leaseExpiry k = d.closeSession k := if_pos ⟨hlive, h⟩

/-! ### Pending segments (R411) -/

/-- Giving up a path's pending write leaves the path its other parts, and every value and the owner. -/
theorem Dict.dropSeg_pending {x : Dict} {p : Path} {g : PendingSeg} (h : (x.path p).seg = some g) :
    (x.dropSeg p).path p = { x.path p with seg := none } ∧ (x.dropSeg p).vals = x.vals ∧ (x.dropSeg p).owner = x.owner := by
  have hset := x.path_setPath p { x.path p with seg := none }
  unfold Dict.dropSeg
  cases p <;> rw [h] <;> exact hset

theorem Device.segTimeout_early {d : Device} {p : Path} (h : ∀ g, (d.path p).seg = some g → d.now < g.lastAt + 1000000000) : d.segTimeout p = d := by
  unfold Device.segTimeout
  split
  · next g hg => exact if_neg (Nat.not_le.2 (h g hg))
  · rfl

theorem Device.segTimeout_due {d : Device} {p : Path} {g : PendingSeg} (hg : (d.path p).seg = some g) (h : g.lastAt + 1000000000 ≤ d.now) :
    d.segTimeout p = d.dropSeg p := by
  simp [Device.segTimeout, hg, h]

/-! ### The management port (R404 to R406) -/

/-- The port answers for its own address while it may transmit. -/
theorem Device.mgmtSolicited_own {d : Device} (hup : d.dict.mgmtUp = true) (hopen : d.dict.plcaStopped = false) :
    d.mgmtSolicited (linkLocalOf Config.managementMac.toNat) =
      d.withOut fun o => { o with mgmtAdverts := linkLocalOf Config.managementMac.toNat :: o.mgmtAdverts } :=
  if_pos (by rw [hup, hopen, beq_self_eq_true]; rfl)

theorem Device.mgmtSolicited_other {d : Device} {a : BitVec 128} (h : a ≠ linkLocalOf Config.managementMac.toNat) : d.mgmtSolicited a = d :=
  if_neg (by rw [beq_eq_false_iff_ne.2 h, Bool.and_false]; decide)

/-- A collision of a port that transmits joins those of the last second; the sixteenth of them stops the port. -/
theorem Device.collision_counted {d : Device} (hup : d.dict.mgmtUp = true) (hopen : d.dict.plcaStopped = false) :
    d.collision = d.withDict fun x => { x with
      collisions := d.now :: d.dict.collisions.filter fun t => decide (d.now < t + 1000000000)
      plcaStopped := decide (16 ≤ (d.now :: d.dict.collisions.filter fun t => decide (d.now < t + 1000000000)).length) } :=
  if_pos (by rw [hup, hopen]; rfl)

/-! ### The summary block (R370) -/

theorem Device.summaryWrite_early {d : Device} (h : d.now < d.log.summaryAt + 1000000000 * d.setting 0x900201) : d.summaryWrite = d :=
  if_pos (.inr h)

section SummaryDue

variable {d : Device} (hup : d.dictUp = true) (hdue : d.log.summaryAt + 1000000000 * d.setting 0x900201 ≤ d.now)
include hup hdue

theorem Device.summary_due : ¬((!d.dictUp) = true ∨ d.now < d.log.summaryAt + 1000000000 * d.setting 0x900201) := by
  simpa [hup] using hdue

/-- With no record since the last block, only the interval starts again. -/
theorem Device.summaryWrite_none (hnone : d.log.sinceSummary = []) : d.summaryWrite = { d with log := { d.log with summaryAt := d.now } } :=
  (if_neg (Device.summary_due hup hdue)).trans (if_pos (by rw [hnone]; rfl))

/-- The records since the last block are written as one. -/
theorem Device.summaryWrite_some (hsome : d.log.sinceSummary ≠ []) : d.summaryWrite = { d with
    log := { d.log with summaryAt := d.now, sinceSummary := [], summaries := d.log.summaries + 1 }
    flash := { d.flash with summaries := (d.summaryBlock d.log.sinceSummary :: d.flash.summaries).take 4096, logSeq := d.log.next } } :=
  (if_neg (Device.summary_due hup hdue)).trans (if_neg (by simpa using hsome))

end SummaryDue

/-- Settles O56: each timer and each event of the port by the branch its hypotheses choose. -/
theorem managementTimersAndPort : Obligations.ManagementTimersAndPort := by
  unfold Obligations.ManagementTimersAndPort
  refine ⟨fun k s hlive => ⟨_, rfl, Device.resendNotices_spec k.isLt hlive⟩,
    fun k s hdead => ⟨runs_of_eq rfl (Device.resendNotices_closed hdead), runs_of_eq rfl (Device.leaseExpiry_early fun hlive => ?dead)⟩,
    fun k s hlive => ⟨fun hearly => runs_of_eq rfl (Device.leaseExpiry_early fun _ => hearly), fun hdue => ⟨_, runs_of_eq rfl (Device.leaseExpiry_due hlive hdue), ?lease⟩⟩,
    fun p s hearly => runs_of_eq rfl (Device.segTimeout_early hearly),
    fun p g s hg hdue => ⟨_, runs_of_eq rfl (Device.segTimeout_due hg hdue), Dict.dropSeg_pending hg⟩,
    fun a s => ⟨fun hup hopen hown => ?own, fun hother => runs_of_eq rfl (Device.mgmtSolicited_other hother)⟩,
    fun s hup => runs_of_eq rfl (if_pos (by rw [hup, Bool.true_or])),
    fun s hup hopen => ⟨_, runs_of_eq rfl (Device.collision_counted hup hopen), rfl, ?sixteenth⟩,
    fun s hup hdue => ?summary,
    fun s hearly => runs_of_eq rfl (Device.summaryWrite_early hearly)⟩
  case dead => rw [hdead] at hlive; contradiction
  case lease =>
    obtain ⟨hsession, -, hrequests, howner, -⟩ := s.dev.closeSession_facts k.val k.isLt
    exact ⟨(hsession k.val).trans (if_pos rfl), howner, hrequests⟩
  case own =>
    subst hown
    exact runs_of_eq rfl (Device.mgmtSolicited_own hup hopen)
  case sixteenth =>
    exact decide_eq_true_iff.trans (by rw [List.length_cons]; exact Nat.succ_le_succ_iff)
  case summary =>
    by_cases hnone : s.dev.log.sinceSummary = []
    · exact ⟨_, runs_of_eq rfl (Device.summaryWrite_none hup hdue hnone), rfl, hnone, fun _ => ⟨rfl, rfl⟩, fun hsome => absurd hnone hsome⟩
    · exact ⟨_, runs_of_eq rfl (Device.summaryWrite_some hup hdue hnone), rfl, rfl, fun h => absurd h hnone, fun _ => ⟨rfl, rfl⟩⟩

end Sys2Proof.Machine
end

section
/-! PROOF. Security floors and revoked keys through every step (R431). -/

namespace Sys2Proof.Machine

/-- Settles O5: what a step leaves can come after what it found, and so keeps its floors and revocations. -/
theorem fusesNeverGoBack : Obligations.FusesNeverGoBack := by
  unfold Obligations.FusesNeverGoBack
  intro s t h
  exact ⟨(step_after h).floors, (step_after h).revoked⟩

end Sys2Proof.Machine
end

section
/-! PROOF. The pacer's ceilings (R373, R374, R379, R381). -/

namespace Sys2Proof.Machine

/-! ### What the pacer reads first (R380, R381) -/

/-- Reading the hottest sensor changes no other part of the pace. -/
theorem Device.sensed_pace (d : Device) (t : Int) : (d.sensed t).pace = { d.pace with hottest := t } := by
  unfold Device.sensed
  dsimp only
  generalize (if 1000 ≤ t then true else if t < 950 then false else d.power.thermLow) = low
  cases low && !d.power.thermLow <;> simp

/-- The commands in flight and the published floor decide the protected floor. -/
theorem Device.protectedFloor_congr {d e : Device} (hcmds : d.cmds = e.cmds) (hpublished : d.pace.published = e.pace.published) :
    d.protectedFloor = e.protectedFloor := by
  rw [Device.protectedFloor, hcmds, hpublished, Device.protectedFloor]

/-- The block with the sensor read and the limits in force, as the end of a window finds it. -/
def Device.windowReady (d : Device) (w : WindowSample) : Device := (d.sensed w.hottest).limitsInForce

theorem Device.windowReady_protectedFloor (d : Device) (w : WindowSample) : (d.windowReady w).protectedFloor = d.protectedFloor :=
  Device.protectedFloor_congr (by simp [Device.windowReady]) (by simp [Device.windowReady, Device.limitsInForce, Device.sensed_pace])

theorem Device.windowReady_hottest (d : Device) (w : WindowSample) : (d.windowReady w).pace.hottest = w.hottest := by
  simp [Device.windowReady, Device.limitsInForce, Device.sensed_pace]

theorem Device.windowReady_thermalCeiling (d : Device) (w : WindowSample) : (d.windowReady w).pace.thermalCeiling = d.pace.thermalCeiling := by
  simp [Device.windowReady, Device.limitsInForce, Device.sensed_pace]

/-! ### The end of a window (R373, R379, R381) -/

/-- The ceiling of the pacer's other terms, which the protected floor bounds below. -/
def Device.windowBase (d : Device) (w : WindowSample) : Nat := max (d.lowTerm w) d.protectedFloor

/-- With no thermal ceiling and the sensor below 100 °C, heat does not bound the pace. -/
theorem Device.windowPace_cool {d : Device} {w : WindowSample} (hhot : d.pace.hottest = w.hottest) (hcool : w.hottest < 1000) (hnone : d.pace.thermalCeiling = none) :
    (d.windowPace w).ceiling = d.windowBase w := by
  have hterm : ¬ 1100 ≤ w.hottest := by omega
  simp [Device.windowPace, Device.windowBase, Pace.thermalTerm, hhot, hnone, hterm]

/-- At 110 °C no beat is issued. -/
theorem Device.windowPace_hot {d : Device} {w : WindowSample} (hhot : d.pace.hottest = w.hottest) (h : 1100 ≤ w.hottest) : (d.windowPace w).ceiling = 0 := by
  simp [Device.windowPace, Pace.thermalTerm, hhot, h]

/-- A window that is due ends: what it counts and the ends of cuts leave the pace that it sets. -/
theorem Device.windowEnd_due {d : Device} {w : WindowSample} (hready : d.isReady = true) (hdue : d.pace.windowAt + 2000 ≤ d.now) :
    ∃ e, d.windowEnd w = e ∧ e.pace = (d.windowReady w).windowPace w ∧ e.cmds = d.cmds ∧ e.mem = d.mem := by
  refine ⟨_, if_neg (by simp [hready, hdue]), ?_, ?_, ?_⟩ <;> simp [Device.cutsEnd, Device.windowReady]

theorem Device.windowReady_now (d : Device) (w : WindowSample) : (d.windowReady w).now = d.now := by simp [Device.windowReady]

/-! ### A thermal step (R381) -/

/-- The pace after a thermal step down to no less than `least`. -/
def Pace.stepped (p : Pace) (least now : Nat) : Pace :=
  let n := max least (p.thermalCeiling.getD p.ceiling * 98 / 100)
  { p with thermalCeiling := some n, thermalAt := now, ceiling := min p.ceiling n }

/-- A due step at a rising temperature from 100 °C up and below 110 °C. -/
theorem Device.thermalStep_due {d : Device} {t : Int} (hready : d.isReady = true) (hrises : d.pace.hottest < t) (hdue : d.pace.thermalAt + 10000 ≤ d.now)
    (hlow : 1000 ≤ t) (hhigh : t < 1100) :
    (d.thermalStep t).pace = (d.sensed t).pace.stepped (if t < 1050 then d.protectedFloor else 400) d.now := by
  have hsteps : ¬(!d.isReady || !decide (d.pace.hottest < t) || t < 1000 || 1100 ≤ t || d.now < d.pace.thermalAt + 10000) = true := by
    simp [hready, hrises, hdue, hlow, hhigh]
  exact congrArg Device.pace (if_neg hsteps)

/-- Such a step leaves a thermal ceiling no lower than its least, and the pacer's ceiling no higher. -/
theorem runs_thermalCeilingStep {s : State} {t : Int} (hready : s.dev.isReady = true) (hrises : s.dev.pace.hottest < t) (hdue : s.dev.pace.thermalAt + 10000 ≤ s.dev.now)
    (hlow : 1000 ≤ t) (hhigh : t < 1100) {least : Nat} (hleast : (if t < 1050 then s.dev.protectedFloor else 400) = least) :
    ∃ d c, Runs (.thermalCeilingStep t) s d ∧ d.pace.thermalCeiling = some c ∧ least ≤ c ∧ d.pace.ceiling ≤ s.dev.pace.ceiling ∧ d.pace.hottest = t := by
  have hpace := Device.thermalStep_due hready hrises hdue hlow hhigh
  rw [hleast, Device.sensed_pace] at hpace
  exact ⟨_, _, runs_of_eq rfl rfl, congrArg Pace.thermalCeiling hpace, Nat.le_max_left _ _,
    (congrArg Pace.ceiling hpace).trans_le (Nat.min_le_left _ _), congrArg Pace.hottest hpace⟩

/-- Settles O48: a window's end by the pace it sets, a thermal step by its least ceiling. -/
theorem ceilingsKeepTheFloor : Obligations.CeilingsKeepTheFloor := by
  unfold Obligations.CeilingsKeepTheFloor
  refine ⟨fun w s hready hdue => ?window, fun w s hearly => runs_of_eq rfl (if_pos (.inr hearly)), fun t s hready hrises hdue => ⟨fun hlow hhigh => ?warm, fun hlow hhigh => ?hot⟩⟩
  case window =>
    obtain ⟨d, hruns, hpace, hcmds, hmem⟩ := Device.windowEnd_due (w := w) hready hdue
    have hhottest := s.dev.windowReady_hottest w
    refine ⟨d, runs_of_eq rfl hruns, ?_, ?_, hcmds, hmem, fun hcool hnone => ?_, fun h => ?_⟩
    · rw [hpace]; exact s.dev.windowReady_now w
    · rw [hpace]; exact hhottest
    · rw [hpace, Device.windowPace_cool hhottest hcool ((s.dev.windowReady_thermalCeiling w).trans hnone), Device.windowBase, s.dev.windowReady_protectedFloor]
      exact Nat.le_max_right _ _
    · rw [hpace, Device.windowPace_hot hhottest h]
  case warm => exact runs_thermalCeilingStep hready hrises hdue hlow (by omega) (if_pos hhigh)
  case hot => exact runs_thermalCeilingStep hready hrises hdue (by omega) hhigh (if_neg (by omega))

end Sys2Proof.Machine
end

section
/-! PROOF. Start-up's seven events, each in its turn (R393, R421, R426 to R429, R447). -/

namespace Sys2Proof.Machine

/-! ### Step 5: the mask ROM (R393, R426) -/

theorem Device.verifySlot_vals (d : Device) (t : Nat) : (d.verifySlot t).dict.vals = d.dict.vals := by
  unfold Device.verifySlot
  dsimp only
  split <;> rfl

/-- Choosing an image keeps every value of the dictionary. -/
theorem Device.pickImage_vals (d : Device) (k : Nat) : (d.pickImage k).dict.vals = d.dict.vals := by
  unfold Device.pickImage
  dsimp only
  split
  · exact d.verifySlot_vals _
  · split
    · exact (Device.logEvent_vals _ _).trans ((Device.verifySlot_vals _ _).trans (d.verifySlot_vals _))
    · exact (Device.verifySlot_vals _ _).trans (d.verifySlot_vals _)

theorem Device.startLog_vals (d : Device) : d.startLog.dict.vals = d.dict.vals := by
  unfold Device.startLog
  dsimp only
  split
  · rfl
  · exact Device.logEvent_vals _ _

/-- The block with the straps sampled, the persisted objects taken and a management image looked for. -/
def Device.romLoaded (d : Device) (straps : BitVec 6) : Device :=
  ((d.withPower fun p => { p with straps := straps }).withDict fun x => { x with vals := d.flash.persisted }).startLog.pickImage 0

theorem Device.romLoaded_vals (d : Device) (m : BitVec 6) : (d.romLoaded m).dict.vals = d.flash.persisted :=
  (Device.pickImage_vals _ _).trans (Device.startLog_vals _)

/-- In its turn the mask ROM starts the management image, or the recovery service where none is valid. -/
theorem Device.romBoot_eq {d : Device} (m : BitVec 6) (hphase : d.power.phase = .regulated) (hpin : d.power.bcLow = false) :
    d.romBoot m = if (d.romLoaded m).images.present.testBit 0 then
      ((d.romLoaded m).withPower fun p => { p with phase := .service }).withImages fun im => { im with mgmtVersion := hdrVersion ((d.romLoaded m).runningHeader 0) }
    else ((d.romLoaded m).withPower fun p => { p with phase := .romRecovery }).withImages fun im => { im with cause := 6 } :=
  if_neg (by simp [hphase, hpin])

theorem runs_maskRomBoot {s : State} (m : BitVec 6) (hphase : s.dev.power.phase = .regulated) (hpin : s.dev.power.bcLow = false) :
    ∃ d, Runs (.maskRomBoot m) s d ∧ d.power.straps = m ∧ d.dict.vals = s.dev.flash.persisted ∧ d.mem = s.dev.mem ∧
      ((d.power.phase = .service ∧ d.images.present.testBit 0 = true) ∨ (d.power.phase = .romRecovery ∧ d.images.present.testBit 0 = false ∧ d.images.cause = 6)) := by
  have hstraps : (s.dev.romLoaded m).power.straps = m := by simp [Device.romLoaded]
  have hmem : (s.dev.romLoaded m).mem = s.dev.mem := by simp [Device.romLoaded]
  have heq := Device.romBoot_eq m hphase hpin
  cases himage : (s.dev.romLoaded m).images.present.testBit 0 with
  | true =>
    rw [if_pos himage] at heq
    exact ⟨_, runs_of_eq rfl heq, hstraps, s.dev.romLoaded_vals m, hmem, .inl ⟨rfl, himage⟩⟩
  | false =>
    rw [if_neg (by rw [himage]; decide)] at heq
    exact ⟨_, runs_of_eq rfl heq, hstraps, s.dev.romLoaded_vals m, hmem, .inr ⟨rfl, himage, rfl⟩⟩

/-! ### Step 6: the other images (R427, R428) -/

theorem Device.restrictedCause_le (d : Device) : d.restrictedCause ≤ 5 := by
  unfold Device.restrictedCause
  dsimp only
  repeat' split
  all_goals decide

/-- Training the link moves no step of start-up and no CXL reset. -/
theorem Device.trainLink_steps (d : Device) : d.trainLink.power.phase = d.power.phase ∧ d.trainLink.power.cxlRun = d.power.cxlRun := by
  unfold Device.trainLink
  split <;> exact ⟨rfl, rfl⟩

theorem Device.wakeDeliver_steps (d : Device) : d.wakeDeliver.power.phase = d.power.phase ∧ d.wakeDeliver.power.cxlRun = d.power.cxlRun := by
  rw [Device.wakeDeliver_eq]
  exact ⟨rfl, rfl⟩

/-- The block with the images of step 6 chosen and their cause of restricted service kept. -/
def Device.imagesPicked (d : Device) : Device :=
  let d1 := ((d.pickImage 1).pickImage 2).pickManifest
  d1.withImages fun im => { im with cause := d1.restrictedCause, manifest := manifestVersion (d1.runningBody 3) }

theorem Device.imagesPicked_cause_le (d : Device) : d.imagesPicked.images.cause ≤ 5 := Device.restrictedCause_le _

/-- The block past step 6: on to step 7, or in restricted service with its cause. -/
def Device.imagesJudged (d : Device) : Device :=
  let c := d.imagesPicked.images.cause
  (d.imagesPicked.withPower fun p => { p with phase := if c = 0 then .verified else .restricted, cxlRun := c == 0 }).trainLink

theorem Device.imagesJudged_power (d : Device) :
    d.imagesJudged.power.phase = (if d.imagesPicked.images.cause = 0 then .verified else .restricted) ∧ d.imagesJudged.power.cxlRun = (d.imagesPicked.images.cause == 0) :=
  Device.trainLink_steps _

theorem Device.imagesJudged_images (d : Device) : d.imagesJudged.images = d.imagesPicked.images := Device.trainLink_images _

/-- Step 6 in its turn; restricted service raises the vector of the reasons that wait. -/
theorem Device.imageVerify_eq {d : Device} (h : d.power.phase = .service) :
    d.imageVerify = if d.imagesPicked.images.cause = 0 then d.imagesJudged else d.imagesJudged.wakeDeliver := if_neg (not_not.2 h)

theorem runs_imageVerify {s : State} (h : s.dev.power.phase = .service) :
    ∃ d, Runs .imageVerify s d ∧ ((d.images.cause = 0 ∧ d.power.phase = .verified ∧ d.power.cxlRun = true) ∨
      (1 ≤ d.images.cause ∧ d.images.cause ≤ 5 ∧ d.power.phase = .restricted ∧ d.power.cxlRun = false)) := by
  have heq := Device.imageVerify_eq h
  have himages := s.dev.imagesJudged_images
  obtain ⟨hphase, hcxl⟩ := s.dev.imagesJudged_power
  by_cases hcause : s.dev.imagesPicked.images.cause = 0
  · rw [if_pos hcause] at heq hphase
    exact ⟨_, runs_of_eq rfl heq, .inl ⟨by rw [himages, hcause], hphase, by rw [hcxl, hcause]; rfl⟩⟩
  · rw [if_neg hcause] at heq hphase
    obtain ⟨hwakePhase, hwakeCxl⟩ := s.dev.imagesJudged.wakeDeliver_steps
    refine ⟨_, runs_of_eq rfl heq, .inr ?_⟩
    rw [hwakePhase, hwakeCxl, Device.wakeDeliver_images, himages, hcxl]
    exact ⟨Nat.one_le_iff_ne_zero.2 hcause, s.dev.imagesPicked_cause_le, hphase, beq_eq_false_iff_ne.2 hcause⟩

/-! ### Step 7: the stacks (R218) -/

/-- A bay whose stack did not train goes out of service; one whose stack did keeps its state. -/
theorem Device.bayTrained_own (d : Device) (m : Byte) (k : Fin 8) :
    ((d.bayTrained m k.val).bay k.val).state = if m.toNat.testBit k.val then (d.bay k.val).state else .out := by
  unfold Device.bayTrained
  split
  · rw [Device.recallBay, Device.bay_modBay_same _ k.isLt]
  · exact Device.outOfService_state _ k 2 {}

theorem Device.bayTrained_other (d : Device) (m : Byte) {j k : Nat} (h : j ≠ k) : ((d.bayTrained m k).bay j).state = (d.bay j).state := by
  have hrecalled : (d.recallBay k).bay j = d.bay j := Device.bay_modBay_other _ h _
  unfold Device.bayTrained
  split
  · rw [hrecalled]
  · rw [Bay.state_of_core (Device.outOfService_core _ k 2 {} j h), hrecalled]

/-- The end of training over a list of bays: each in the list is decided by its own stack, and no other moves. -/
theorem foldl_bayTrained (m : Byte) (k : Fin 8) {l : List Nat} (hl : l.Nodup) (d : Device) :
    ((l.foldl (fun d k => d.bayTrained m k) d).bay k.val).state = if k.val ∈ l ∧ m.toNat.testBit k.val = false then .out else (d.bay k.val).state := by
  induction l generalizing d with
  | nil => simp
  | cons a r ih =>
    obtain ⟨hnot, hr⟩ := List.nodup_cons.1 hl
    rw [List.foldl_cons, ih hr]
    by_cases hk : k.val = a
    · subst hk
      rw [d.bayTrained_own m k]
      cases m.toNat.testBit k.val <;> simp [hnot]
    · rw [d.bayTrained_other m hk]
      simp [hk]

theorem runs_hbmTrainingEnd {s : State} (m : Byte) (h : s.dev.power.phase = .verified) : ∃ d, Runs (.hbmTrainingEnd m) s d ∧ d.power.phase = .trained ∧
    ∀ k, k < 8 → (m.toNat.testBit k = false → (d.bay k).state = .out) ∧ (m.toNat.testBit k = true → (d.bay k).state = (s.dev.bay k).state) := by
  refine ⟨_, runs_of_eq rfl (if_neg (not_not.2 h)), rfl, fun k hk => ?_⟩
  have hstate := foldl_bayTrained m ⟨k, hk⟩ (List.nodup_range (n := 8)) s.dev
  exact ⟨fun hfailed => hstate.trans (if_pos ⟨List.mem_range.2 hk, hfailed⟩), fun htrained => hstate.trans (if_neg fun hfailed => by rw [htrained] at hfailed; exact absurd hfailed.2 (by decide))⟩

/-! ### Step 8: the self-test (R341) -/

/-- A quick test that finds nothing leaves the bays as they are. -/
theorem Device.selfTestEnd_clean {d : Device} (hphase : d.power.phase = .trained) (hcause : d.images.cause = 0) (hquick : d.fullTest = false) :
    d.selfTestEnd ⟨[], [], [], []⟩ = d.withPower fun p => { p with phase := .tested, rung4 := false } := by
  simp [Device.selfTestEnd, testFails, hphase, hcause, hquick]

/-! ### Step 10: readiness (R359) -/

/-- Block `d`, whose bays have entered service, at readiness: its links train and the reasons that wait raise their vector. -/
def Device.readied (d : Device) : Device :=
  (((d.withSafety fun s => { s with devHandling := 0 }).withPower fun p => { p with phase := .ready }).trainPorts).trainLink.wakeDeliver

theorem Device.readied_phase (d : Device) : d.readied.power.phase = .ready :=
  (Device.wakeDeliver_steps _).1.trans (Device.trainLink_steps _).1

theorem Device.readied_bays (d : Device) : d.readied.bays = d.bays :=
  (Device.wakeDeliver_bays _).trans (Device.trainLink_bays _)

/-- Every bay enters service, and the block is ready; the far tier is enumerated first, or kept. -/
theorem Device.becomeReady_eq {d : Device} (hmay : d.mayBeReady = true) (hcause : d.images.cause = 0) :
    ∃ d0 : Device, d0.bays = d.bays ∧ d.becomeReady = ((List.range 8).foldl (fun d k => d.bayEnter k) d0).readied := by
  refine ⟨if decide (d.safety.devHandling < 2) then d.enumerateFar else d, ?_, (if_neg (by simp [hmay])).trans (if_neg (not_not.2 hcause))⟩
  split <;> rfl

theorem runs_ready {s : State} (hmay : s.dev.mayBeReady = true) (hcause : s.dev.images.cause = 0) :
    ∃ d, Runs .ready s d ∧ d.power.phase = .ready ∧ ∀ k, k < 8 → BayEntered (s.dev.bay k) (d.bay k) := by
  obtain ⟨d0, hbays, heq⟩ := Device.becomeReady_eq hmay hcause
  refine ⟨_, runs_of_eq rfl heq, Device.readied_phase _, fun k hk => ?_⟩
  have hreadied := Device.bay_of_bays (Device.readied_bays ((List.range 8).foldl (fun d k => d.bayEnter k) d0)) k
  exact ((d0.bays_entered k hk).from_core (congrArg Bay.core (Device.bay_of_bays hbays.symm k))).of_core (congrArg Bay.core hreadied)

/-- Settles O50: each event by its one test of the step it stands in, and what it does in its turn by the lemma on its row. -/
theorem startUpStepsInOrder : Obligations.StartUpStepsInOrder := by
  unfold Obligations.StartUpStepsInOrder
  refine ⟨fun s => ⟨fun hoff hfree => ?rise, fun hnot => ?noRise⟩, fun s => ⟨fun h => runs_of_eq rfl (if_pos h), fun h => runs_of_eq rfl (if_neg h)⟩,
    fun m s => ⟨fun _ => runs_maskRomBoot m, fun h => runs_of_eq rfl (if_pos h)⟩, fun s => ⟨runs_imageVerify, fun h => runs_of_eq rfl (if_pos h)⟩,
    fun m s => ⟨runs_hbmTrainingEnd m, fun h => runs_of_eq rfl (if_pos h)⟩,
    fun s => ⟨fun hphase hcause hquick => runs_of_eq rfl (Device.selfTestEnd_clean hphase hcause hquick), fun r htrained hresetting => ?noTest⟩,
    fun s => ⟨runs_ready, fun h => runs_of_eq rfl (if_pos (by rw [h]; rfl))⟩⟩
  case rise => exact runs_of_eq rfl (if_pos ⟨hoff, by rw [hfree]; rfl⟩)
  case noRise => exact runs_of_eq rfl (if_neg fun ⟨hoff, hfree⟩ => hnot.elim (absurd hoff) fun hlock => by rw [hlock] at hfree; exact absurd hfree (by decide))
  case noTest => exact runs_of_eq rfl (if_pos (by simp [htrained, hresetting]))

end Sys2Proof.Machine
end

section
/-! PROOF. Attestation through the DOE mailbox: each request's one answer, by stage (R433, R434). -/

namespace Sys2Proof.Machine

/-! ### The gate of every row -/

section Gate

variable {d : Device} {req : List Byte} {code need : Nat} {h : Device → Device}

theorem Device.spdmReq_closed (hclosed : d.doeOpen = false) : d.spdmReq req code need h = d := if_pos (.inl (by rw [hclosed]; rfl))

variable (hopen : d.doeOpen = true) (hcode : bytesNat req 1 1 = code)
include hopen hcode

theorem Device.spdmReq_mine : ¬((!d.doeOpen) = true ∨ bytesNat req 1 1 ≠ code) := by simp [hopen, hcode]

theorem Device.spdmReq_version (hversion : bytesNat req 0 1 ≠ if code = 0x84 then 0x10 else 0x12) : d.spdmReq req code need h = d.doe (spdmError errVersion) :=
  (if_neg (Device.spdmReq_mine hopen hcode)).trans (if_pos hversion)

theorem Device.spdmReq_early (hversion : bytesNat req 0 1 = if code = 0x84 then 0x10 else 0x12) (hstage : d.spdmStage < need) :
    d.spdmReq req code need h = d.doe (spdmError errUnexpected) :=
  (if_neg (Device.spdmReq_mine hopen hcode)).trans ((if_neg (not_not.2 hversion)).trans (if_pos hstage))

theorem Device.spdmReq_answered (hversion : bytesNat req 0 1 = if code = 0x84 then 0x10 else 0x12) (hstage : need ≤ d.spdmStage) : d.spdmReq req code need h = h d :=
  (if_neg (Device.spdmReq_mine hopen hcode)).trans ((if_neg (not_not.2 hversion)).trans (if_neg (Nat.not_lt.2 hstage)))

end Gate

/-! ### One answer -/

/-- `d` is `d0` after one DOE object `m` has gone out; memory and commands are as before, and the exchange is at stage `stage`. -/
structure Answers (d0 d : Device) (m : List Byte) (stage : Nat) : Prop where
  sent : d.out.doe = m :: d0.out.doe
  mem : d.mem = d0.mem
  cmds : d.cmds = d0.cmds
  stage : d.spdmStage = stage

theorem Device.doe_answers (d : Device) (m : List Byte) : Answers d (d.doe m) m d.spdmStage := ⟨rfl, rfl, rfl, rfl⟩

/-- The stage of the exchange after the response to a request of code `code` at stage `n`. -/
def stageAfter (code n : Nat) : Nat := if code = 0x84 then 1 else if code = 0xE1 then max n 2 else if code = 0xE3 then max n 3 else n

/-- What is said of a row's own response `m` to request `req`, beside the stage that it leaves. -/
def RespondsAs (code : Nat) (req : List Byte) (d : Device) (m : List Byte) : Prop :=
  (code = 0x81 → m = [0x12, 0x01, 0x00, 0x01] ++ sha384 Config.certificateChain) ∧
  (code = 0x83 → bytesNat req 2 1 ≠ 0 ∨ bytesNat req 3 1 ∉ [0, 1, 0xFF] → m = [0x12, 0x7F, 0x01, 0x00]) ∧
  (code = 0xE0 → bytesNat req 2 1 % 2 = 1 → bytesNat req 36 1 % 16 ≠ 0 → m = [0x12, 0x7F, 0x01, 0x00]) ∧
  (code = 0xE0 → bytesNat req 2 1 % 2 = 0 ∨ bytesNat req 36 1 % 16 = 0 → ∀ i, 1 ≤ i → i ≤ 6 → bytesNat req 3 1 = i → ∃ u v, m = u ++ d.measureBlock i ++ v)

/-- Of the other rows' responses only the stage is said. -/
theorem RespondsAs.of_other {code : Nat} (h : code ∉ [0x81, 0x83, 0xE0]) (req : List Byte) (d : Device) (m : List Byte) : RespondsAs code req d m := by
  simp only [List.mem_cons, List.not_mem_nil, or_false, not_or] at h
  obtain ⟨hdigests, hchallenge, hmeasure⟩ := h
  exact ⟨fun h => absurd h hdigests, fun h => absurd h hchallenge, fun h => absurd h hmeasure, fun h => absurd h hmeasure⟩

/-- A row's answer to its own request, by the request's version and the stage of the exchange. -/
theorem runs_spdm {c : List Byte → Instr} {code need : Nat} {h : List Byte → Device → Device} (hc : ∀ req s, exec (c req) s = .next { s with dev := s.dev.spdmReq req code need (h req) })
    (hh : ∀ req d, ∃ m, Answers d (h req d) m (stageAfter code d.spdmStage) ∧ RespondsAs code req d m) (req : List Byte) (s : State) :
    (s.dev.doeOpen = false → Runs (c req) s s.dev) ∧
    (s.dev.doeOpen = true → bytesNat req 1 1 = code →
      ∃ d m, Runs (c req) s d ∧ d.out.doe = m :: s.dev.out.doe ∧ d.mem = s.dev.mem ∧ d.cmds = s.dev.cmds ∧
        (bytesNat req 0 1 ≠ (if code = 0x84 then 0x10 else 0x12) → m = [0x12, 0x7F, 0x41, 0x00] ∧ d.spdmStage = s.dev.spdmStage) ∧
        (bytesNat req 0 1 = (if code = 0x84 then 0x10 else 0x12) → s.dev.spdmStage < need → m = [0x12, 0x7F, 0x04, 0x00] ∧ d.spdmStage = s.dev.spdmStage) ∧
        (bytesNat req 0 1 = (if code = 0x84 then 0x10 else 0x12) → need ≤ s.dev.spdmStage → d.spdmStage = stageAfter code s.dev.spdmStage ∧ RespondsAs code req s.dev m)) := by
  refine ⟨fun hclosed => runs_of_eq (hc req s) (Device.spdmReq_closed hclosed), fun hopen hcode => ?_⟩
  by_cases hversion : bytesNat req 0 1 = if code = 0x84 then 0x10 else 0x12
  · by_cases hstage : s.dev.spdmStage < need
    · obtain ⟨hsent, hmem, hcmds, hkept⟩ := s.dev.doe_answers (spdmError errUnexpected)
      exact ⟨_, _, runs_of_eq (hc req s) (Device.spdmReq_early hopen hcode hversion hstage), hsent, hmem, hcmds,
        fun hother => absurd hversion hother, fun _ _ => ⟨rfl, hkept⟩, fun _ hlate => absurd hstage (Nat.not_lt.2 hlate)⟩
    · obtain ⟨m, ⟨hsent, hmem, hcmds, hleft⟩, hm⟩ := hh req s.dev
      exact ⟨_, m, runs_of_eq (hc req s) (Device.spdmReq_answered hopen hcode hversion (Nat.not_lt.1 hstage)), hsent, hmem, hcmds,
        fun hother => absurd hversion hother, fun _ hearly => absurd hearly hstage, fun _ _ => ⟨hleft, hm⟩⟩
  · obtain ⟨hsent, hmem, hcmds, hkept⟩ := s.dev.doe_answers (spdmError errVersion)
    exact ⟨_, _, runs_of_eq (hc req s) (Device.spdmReq_version hopen hcode hversion), hsent, hmem, hcmds,
      fun _ => ⟨rfl, hkept⟩, fun hsame => absurd hsame hversion, fun hsame => absurd hsame hversion⟩

/-! ### Certificates, challenges, measurements -/

theorem Device.certificate_answers (d : Device) (req : List Byte) : ∃ m, Answers d (d.certificate req) m d.spdmStage := by
  unfold Device.certificate
  dsimp only
  split <;> exact ⟨_, d.doe_answers _⟩

/-- CHALLENGE of another slot, or of a summary type that is none, is invalid. -/
theorem Device.challenged_answers (d : Device) (req : List Byte) : ∃ m, Answers d (d.challenged req) m d.spdmStage ∧
    (bytesNat req 2 1 ≠ 0 ∨ bytesNat req 3 1 ∉ [0, 1, 0xFF] → m = [0x12, 0x7F, 0x01, 0x00]) := by
  by_cases hbad : bytesNat req 2 1 ≠ 0 ∨ bytesNat req 3 1 ∉ [0, 1, 0xFF]
  · have heq : d.challenged req = d.doe (spdmError errInvalid) := if_pos (hbad.imp_right fun h => by simpa using h)
    rw [heq]
    exact ⟨_, d.doe_answers _, fun _ => rfl⟩
  · have heq : d.challenged req = _ := if_neg fun h => hbad (h.imp_right fun h => by simpa using h)
    rw [heq]
    exact ⟨_, ⟨rfl, rfl, rfl, rfl⟩, fun h => absurd h hbad⟩

/-- What GET_MEASUREMENTS says of its answer: a signed request of another slot is invalid, and the answer to a request of one block carries it. -/
def MeasuresAs (req : List Byte) (d : Device) (m : List Byte) : Prop :=
  (bytesNat req 2 1 % 2 = 1 → bytesNat req 36 1 % 16 ≠ 0 → m = [0x12, 0x7F, 0x01, 0x00]) ∧
  (bytesNat req 2 1 % 2 = 0 ∨ bytesNat req 36 1 % 16 = 0 → ∀ i, 1 ≤ i → i ≤ 6 → bytesNat req 3 1 = i → ∃ u v, m = u ++ d.measureBlock i ++ v)

/-- The blocks that a request asks for. -/
def measureBlocks (op : Nat) : List Nat := if op = 0 then [] else if op = 0xFF then [1, 2, 3, 4, 5, 6] else [op]

theorem measureBlocks_one {i : Nat} (h1 : 1 ≤ i) (h6 : i ≤ 6) : measureBlocks i = [i] := (if_neg (by omega)).trans (if_neg (by omega))

/-- The body of the response that carries the blocks of a request. -/
def Device.measureBody (d : Device) (op : Nat) : List Byte :=
  let blocks := (measureBlocks op).flatMap d.measureBlock
  spdm 0x60 (if op = 0 then 6 else 0) 0 (leBytes 1 (measureBlocks op).length ++ leBytes 3 blocks.length ++ blocks ++ d.spdmNonce ++ leBytes 2 0)

/-- The body carries each block that is asked for alone. -/
theorem Device.measureBody_carries (d : Device) {i : Nat} (h1 : 1 ≤ i) (h6 : i ≤ 6) : ∃ u v, d.measureBody i = u ++ d.measureBlock i ++ v := by
  have hblocks : (measureBlocks i).flatMap d.measureBlock = d.measureBlock i := by rw [measureBlocks_one h1 h6, List.flatMap_singleton]
  unfold Device.measureBody
  dsimp only
  rw [hblocks]
  exact ⟨spdm 0x60 (if i = 0 then 6 else 0) 0 (leBytes 1 (measureBlocks i).length ++ leBytes 3 (d.measureBlock i).length), d.spdmNonce ++ leBytes 2 0,
    by simp only [spdm, List.append_assoc]⟩

/-- A request that is no error is answered by the body, signed where it asks for that. -/
theorem Device.measurements_sound {d : Device} {req : List Byte} (h : ¬((6 < bytesNat req 3 1 ∧ bytesNat req 3 1 ≠ 0xFF) ∨ (bytesNat req 2 1 % 2 = 1 ∧ bytesNat req 36 1 % 16 ≠ 0))) :
    ∃ v, d.measurements req = (d.doe (d.measureBody (bytesNat req 3 1) ++ v)).drew 1 := by
  have heq : d.measurements req = (d.doe (if bytesNat req 2 1 % 2 = 1 then signedBody req (d.measureBody (bytesNat req 3 1)) else d.measureBody (bytesNat req 3 1))).drew 1 := if_neg h
  rw [heq]
  split
  · exact ⟨_, rfl⟩
  · exact ⟨[], by rw [List.append_nil]⟩

theorem Device.measurements_answers (d : Device) (req : List Byte) : ∃ m, Answers d (d.measurements req) m d.spdmStage ∧ MeasuresAs req d m := by
  by_cases hbad : (6 < bytesNat req 3 1 ∧ bytesNat req 3 1 ≠ 0xFF) ∨ (bytesNat req 2 1 % 2 = 1 ∧ bytesNat req 36 1 % 16 ≠ 0)
  · have heq : d.measurements req = d.doe (spdmError errInvalid) := if_pos hbad
    rw [heq]
    exact ⟨_, d.doe_answers _, fun _ _ => rfl, fun hplain i _ h6 hi => by omega⟩
  · obtain ⟨v, heq⟩ := Device.measurements_sound (d := d) hbad
    rw [heq]
    refine ⟨_, ⟨rfl, rfl, rfl, rfl⟩, fun hsigned hslot => absurd (.inr ⟨hsigned, hslot⟩) hbad, fun _ i h1 h6 hi => ?_⟩
    obtain ⟨u, w, hbody⟩ := d.measureBody_carries h1 h6
    exact ⟨u, w ++ v, by rw [hi, hbody]; simp only [List.append_assoc]⟩

/-- Settles O54: each row by the gate that all share and its own answer. -/
theorem attestationAnswersInStages : Obligations.AttestationAnswersInStages := by
  unfold Obligations.AttestationAnswersInStages
  refine ⟨?rows, fun i s hopen => runs_of_eq rfl (if_pos hopen), fun i s hclosed => runs_of_eq rfl (if_neg (by rw [hclosed]; decide))⟩
  case rows =>
    exact List.forall_mem_cons.2 ⟨runs_spdm (fun _ _ => rfl) fun req d => ⟨_, ⟨rfl, rfl, rfl, rfl⟩, .of_other (by decide) ..⟩,
      List.forall_mem_cons.2 ⟨runs_spdm (fun _ _ => rfl) fun req d => ⟨_, ⟨rfl, rfl, rfl, rfl⟩, .of_other (by decide) ..⟩,
      List.forall_mem_cons.2 ⟨runs_spdm (fun _ _ => rfl) fun req d => ⟨_, ⟨rfl, rfl, rfl, rfl⟩, .of_other (by decide) ..⟩,
      List.forall_mem_cons.2 ⟨runs_spdm (fun _ _ => rfl) fun req d => ⟨_, d.doe_answers _, fun _ => rfl, nofun, nofun, nofun⟩,
      List.forall_mem_cons.2 ⟨runs_spdm (fun _ _ => rfl) fun req d => (d.certificate_answers req).imp fun _ h => ⟨h, .of_other (by decide) ..⟩,
      List.forall_mem_cons.2 ⟨runs_spdm (fun _ _ => rfl) fun req d => (d.challenged_answers req).imp fun _ ⟨hsent, hinvalid⟩ => ⟨hsent, nofun, fun _ => hinvalid, nofun, nofun⟩,
      List.forall_mem_cons.2 ⟨runs_spdm (fun _ _ => rfl) fun req d => (d.measurements_answers req).imp fun _ ⟨hsent, hinvalid, hcarries⟩ => ⟨hsent, nofun, nofun, fun _ => hinvalid, fun _ => hcarries⟩,
      fun _ h => absurd h List.not_mem_nil⟩⟩⟩⟩⟩⟩⟩

end Sys2Proof.Machine
end

section
/-! PROOF. Brynuo requests: what is discarded, the life of a session, and the sequence of its requests (R402, R406 to R412). -/

namespace Sys2Proof.Machine

/-! ### The rows (R406 to R408) -/

/-- The rows of Brynuo datagrams, each with the kind and operation that are its own and its handler. -/
def brynuoRows : List ((BrFrame → Instr) × Nat × Nat × (Device → BrHead → Device)) :=
  [(.openSession, 1, opOpen, Device.openReq), (.closeSession, 1, opClose, Device.closeReq), (.keepalive, 1, opKeepalive, Device.keepaliveReq),
   (.read, 1, opRead, Device.readReq), (.write, 1, opWrite, Device.writeReq), (fun f => .claim (.message f), 1, opClaim, Device.ownerReq 1),
   (fun f => .release (.message f), 1, opRelease, Device.ownerReq 0), (.notificationAck, 4, opNotice, Device.ackReq)]

theorem exec_brynuoRows : ∀ x ∈ brynuoRows, ∀ (f : BrFrame) (s : State), exec (x.1 f) s = .next { s with dev := s.dev.brynuoFrame f x.2.1 x.2.2.1 x.2.2.2 } := by
  simp only [brynuoRows, List.forall_mem_cons]
  exact ⟨fun _ _ => rfl, fun _ _ => rfl, fun _ _ => rfl, fun _ _ => rfl, fun _ _ => rfl, fun _ _ => rfl, fun _ _ => rfl, fun _ _ => rfl, fun _ h => absurd h List.not_mem_nil⟩

/-- A row of requests is one of the operations of R408. -/
theorem brynuoRows_known : ∀ x ∈ brynuoRows, x.2.1 ≠ 1 ∨ requestOps.contains x.2.2.1 = true := by
  simp only [brynuoRows, List.forall_mem_cons]
  exact ⟨.inr rfl, .inr rfl, .inr rfl, .inr rfl, .inr rfl, .inr rfl, .inr rfl, .inl (by decide), fun _ h => absurd h List.not_mem_nil⟩

/-- A request of no operation of R408 is answered MALFORMED, whatever row takes it. -/
theorem Device.brynuoFrame_unknown {d : Device} {f : BrFrame} {m : BrHead} (hreceived : Received d f 1 m.op m) (hunknown : requestOps.contains m.op = false) {kind op : Nat}
    (hrow : kind ≠ 1 ∨ requestOps.contains op = true) (h : Device → BrHead → Device) : d.brynuoFrame f kind op h = d.reply m dsMalformed := by
  have hother : ¬(m.kind = kind ∧ m.op = op) := by
    rintro ⟨rfl, rfl⟩
    rw [hreceived.kind, hunknown] at hrow
    exact hrow.elim (absurd rfl) (absurd · (by decide))
  unfold Device.brynuoFrame
  rw [if_neg (by rw [hreceived.listens]; decide), if_neg (by rw [hreceived.sound]; decide), hreceived.parsed]
  exact (if_neg hother).trans (if_pos ⟨hreceived.kind, by rw [hunknown]; rfl⟩)

theorem runs_received {i : Instr} {s : State} {f : BrFrame} {kind op : Nat} {m : BrHead} {h : Device → BrHead → Device} {d : Device}
    (hi : exec i s = .next { s with dev := s.dev.brynuoFrame f kind op h }) (hreceived : Received s.dev f kind op m) (heq : h s.dev m = d) : Runs i s d :=
  runs_of_eq hi ((Device.brynuoFrame_of _ _ _ _ _ _ hreceived).trans heq)

/-! ### OPEN (R409) -/

/-- Session `k` is held by `peer`. -/
def Device.heldBy (d : Device) (peer : BitVec 128) (k : Nat) : Bool := (d.session k).live && (d.session k).peer == peer

theorem Device.heldBy_iff {d : Device} {peer : BitVec 128} {k : Nat} : d.heldBy peer k = true ↔ (d.session k).live = true ∧ (d.session k).peer = peer := by
  simp [Device.heldBy]

theorem Device.heldBy_congr {d e : Device} {k : Nat} (h : d.session k = e.session k) (peer : BitVec 128) : d.heldBy peer k = e.heldBy peer k := by
  rw [Device.heldBy, h, Device.heldBy]

/-- What closing the sessions of a list that a peer holds leaves. -/
structure PeerDropped (d0 d : Device) (peer : BitVec 128) (ks : List Nat) : Prop where
  gone : ∀ j ∈ ks, d0.heldBy peer j = true → d.session j = Session.closed
  kept : ∀ j, j ∉ ks ∨ d0.heldBy peer j = false → d.session j = d0.session j
  nonces : d.dict.nonceCount = d0.dict.nonceCount
  vals : d.dict.vals = d0.dict.vals
  requests : d.dict.requests = d0.dict.requests.filter fun q => ks.all fun j => !(d0.heldBy peer j && pathIsSession j q.path)
  now : d.now = d0.now
  power : d.power = d0.power

theorem PeerDropped.nil (d : Device) (peer : BitVec 128) : PeerDropped d d peer [] :=
  ⟨fun _ hj => absurd hj List.not_mem_nil, fun _ _ => rfl, rfl, rfl, (List.filter_eq_self.2 fun _ _ => rfl).symm, rfl, rfl⟩

/-- One session closes where its peer holds it, and stays where not. -/
def Device.dropOne (d : Device) (peer : BitVec 128) (k : Nat) : Device := if (d.session k).live ∧ (d.session k).peer = peer then d.closeSession k else d

theorem Device.dropOne_dropped (d : Device) (peer : BitVec 128) {k : Nat} (hk : k < 4) : PeerDropped d (d.dropOne peer k) peer [k] := by
  unfold Device.dropOne
  cases hheld : d.heldBy peer k with
  | true =>
    rw [if_pos (Device.heldBy_iff.1 hheld)]
    obtain ⟨hsession, hnonces, hrequests, -, hvals⟩ := d.closeSession_facts k hk
    refine ⟨fun j hj _ => ?_, fun j hj => ?_, hnonces, hvals, ?_, Device.closeSession_now _ _, Device.closeSession_power _ _⟩
    · rw [List.mem_singleton.1 hj, hsession, if_pos rfl]
    · have hjk : j ≠ k := by
        rintro rfl
        exact hj.elim (absurd (List.mem_singleton.2 rfl)) (by simp [hheld])
      rw [hsession, if_neg hjk]
    · simp [hrequests, hheld]
  | false =>
    rw [if_neg fun h => by simp [Device.heldBy_iff.2 h] at hheld]
    refine ⟨fun j hj hgone => ?_, fun _ _ => rfl, rfl, rfl, (List.filter_eq_self.2 fun q _ => by simp [hheld]).symm, rfl, rfl⟩
    rw [List.mem_singleton.1 hj, hheld] at hgone
    contradiction

/-- Sessions that close one after the other, none twice. -/
theorem PeerDropped.cons {d0 d1 d2 : Device} {peer : BitVec 128} {k : Nat} {ks : List Nat} (hk : k ∉ ks) (h1 : PeerDropped d0 d1 peer [k]) (h2 : PeerDropped d1 d2 peer ks) :
    PeerDropped d0 d2 peer (k :: ks) := by
  have hother : ∀ j, j ≠ k → d1.session j = d0.session j := fun j hj => h1.kept j (.inl (by simpa using hj))
  have hheld : ∀ j ∈ ks, d1.heldBy peer j = d0.heldBy peer j := fun j hj => Device.heldBy_congr (hother j fun h => hk (h ▸ hj)) peer
  refine ⟨fun j hj hgone => ?_, fun j hj => ?_, h2.nonces.trans h1.nonces, h2.vals.trans h1.vals, ?_, h2.now.trans h1.now, h2.power.trans h1.power⟩
  · by_cases hjk : j = k
    · rw [h2.kept j (.inl (hjk ▸ hk)), h1.gone j (List.mem_singleton.2 hjk) hgone]
    · have hrest : j ∈ ks := (List.mem_cons.1 hj).resolve_left hjk
      exact h2.gone j hrest ((hheld j hrest).trans hgone)
  · by_cases hjk : j = k
    · subst hjk
      rw [h2.kept j (.inl hk), h1.kept j (hj.imp_left (absurd List.mem_cons_self))]
    · have hrest : j ∉ ks ∨ d1.heldBy peer j = false :=
        hj.imp (fun h hm => h (List.mem_cons_of_mem _ hm)) (Device.heldBy_congr (hother j hjk) peer).trans
      rw [h2.kept j hrest, hother j hjk]
  · have hall : ∀ q : DictReq, (ks.all fun j => !(d1.heldBy peer j && pathIsSession j q.path)) = ks.all fun j => !(d0.heldBy peer j && pathIsSession j q.path) :=
      fun q => Bool.eq_iff_iff.2 (by
        rw [List.all_eq_true, List.all_eq_true]
        exact forall₂_congr fun j hj => by rw [hheld j hj])
    rw [h2.requests, h1.requests, List.filter_filter]
    exact List.filter_congr fun q _ => by rw [hall, List.all_cons, List.all_cons, List.all_nil, Bool.and_true, Bool.and_comm]

theorem foldl_dropOne (peer : BitVec 128) {ks : List Nat} (hks : ks.Nodup) (h4 : ∀ k ∈ ks, k < 4) (d : Device) :
    PeerDropped d (ks.foldl (fun d k => d.dropOne peer k) d) peer ks := by
  induction ks generalizing d with
  | nil => exact .nil d peer
  | cons k ks ih =>
    obtain ⟨hk, hks⟩ := List.nodup_cons.1 hks
    exact .cons hk (d.dropOne_dropped peer (h4 k List.mem_cons_self)) (ih hks (fun j hj => h4 j (List.mem_cons_of_mem _ hj)) _)

/-- OPEN closes the sessions of its peer. -/
theorem Device.dropPeer_dropped (d : Device) (peer : BitVec 128) : PeerDropped d (d.dropPeer peer) peer [0, 1, 2, 3] :=
  foldl_dropOne peer (by decide) (by decide) d

/-- The session that OPEN takes, as it starts. -/
def Device.newSession (d : Device) (m : BrHead) : Session :=
  { Session.closed with live := true, peer := m.peer, openedAt := d.now, lastReq := d.now, nonce := Config.nonce d.dict.nonceCount, leaseMs := d.setting 0x120004 }

/-- The block with session `k` open for the sender of `m`, and its answer sent. -/
def Device.opened (d : Device) (m : BrHead) (k : Nat) : Device :=
  (((d.withDict fun x => { x with sessions := x.sessions.setIfInBounds k (d.newSession m), nonceCount := x.nonceCount + 1, brynuoPaths := x.brynuoPaths.setIfInBounds k PathState.fresh }).touch
    (0x110101 + k)).count 0x80B001 1).transmit ⟨2, opOpen, k, 0, Config.nonce d.dict.nonceCount, 0, 0, dsOk, false, 0, [], m.peer⟩

theorem Device.opened_session (d : Device) (m : BrHead) {k : Nat} (hk : k < 4) (j : Nat) : (d.opened m k).session j = if j = k then d.newSession m else d.session j := by
  rw [Device.opened, Device.sent_session]
  exact Device.session_modSession d k j hk fun _ => d.newSession m

theorem Device.opened_dict (d : Device) (m : BrHead) (k : Nat) : (d.opened m k).dict.nonceCount = d.dict.nonceCount + 1 ∧ (d.opened m k).dict.requests = d.dict.requests := by
  rw [Device.opened, Device.transmit_dict]
  exact ⟨rfl, rfl⟩

section Open

variable {d : Device} {m : BrHead} (hclean : m.clean = true) (hnone : m.session = 0xFF) (hseq : m.seq = 0)
include hclean hnone hseq

theorem openReq_sound : ¬((!m.clean) = true ∨ m.session ≠ 0xFF ∨ m.seq ≠ 0) := by simp [hclean, hnone, hseq]

/-- The lowest session that is free once the peer's own is closed is taken. -/
theorem Device.openReq_free {k : Nat} (hk : k < 4) (hfree : ((d.dropPeer m.peer).session k).live = false) (hfirst : ∀ j < k, ((d.dropPeer m.peer).session j).live = true) :
    d.openReq m = (d.dropPeer m.peer).opened m k := by
  have hfind : ([0, 1, 2, 3].find? fun k => !((d.dropPeer m.peer).session k).live) = some k :=
    List.find?_range_eq_some.2 ⟨by simp [hfree], List.mem_range.2 hk, fun j hj => by simp [hfirst j hj]⟩
  unfold Device.openReq
  rw [if_neg (openReq_sound hclean hnone hseq)]
  dsimp only
  rw [hfind]
  rfl

theorem Device.openReq_full (hfull : ∀ k < 4, ((d.dropPeer m.peer).session k).live = true) : d.openReq m = (d.dropPeer m.peer).reply m dsSessionLimit := by
  have hfind : ([0, 1, 2, 3].find? fun k => !((d.dropPeer m.peer).session k).live) = none :=
    (List.find?_range_eq_none (n := 4)).2 fun j hj => by rw [hfull j hj]; rfl
  unfold Device.openReq
  rw [if_neg (openReq_sound hclean hnone hseq)]
  dsimp only
  rw [hfind]

end Open

/-- With none of its sessions to close, OPEN leaves the block as it is. -/
theorem Device.dropPeer_none {d : Device} {peer : BitVec 128} (h : ∀ k < 4, d.heldBy peer k = false) : d.dropPeer peer = d := by
  have hone : ∀ k < 4, d.dropOne peer k = d := fun k hk => if_neg fun hheld => absurd (Device.heldBy_iff.2 hheld) (by rw [h k hk]; decide)
  show [0, 1, 2, 3].foldl (fun d k => d.dropOne peer k) d = d
  simp only [List.foldl_cons, List.foldl_nil, hone 0 (by decide), hone 1 (by decide), hone 2 (by decide), hone 3 (by decide)]

/-! ### Requests in a session (R409, R410) -/

/-- The lease of session `k` starts again. -/
def Device.renewed (d : Device) (k : Nat) : Device := (d.modSession k fun s => { s with lastReq := d.now }).touch (0x110101 + k)

theorem Device.renewed_session (d : Device) (k : Fin 4) : (d.renewed k.val).session k.val = { d.session k.val with lastReq := d.now } := by
  rw [Device.renewed, Device.touch_session, Device.session_modSession _ _ _ k.isLt, if_pos rfl]

section InSession

variable {d : Device} {m : BrHead} {h : Device → Nat → Device} (hclean : m.clean = true)
include hclean

theorem Device.inSession_none (hnone : (d.session m.session).live = false ∨ (d.session m.session).nonce ≠ m.nonce) : d.inSession m h = d.reply m dsNoSession :=
  (if_neg (by rw [hclean]; decide)).trans (if_pos (hnone.imp_left fun hdead => by rw [hdead]; rfl))

variable {k : Fin 4} (hwhich : m.session = k.val) (hlive : (d.session k.val).live = true) (hnonce : (d.session k.val).nonce = m.nonce)
include hwhich hlive hnonce

/-- A request of a live session, by its place in the session's sequence. -/
theorem Device.inSession_live : d.inSession m h =
    if m.seq = (d.session k.val).lastSeq ∧ ((d.session k.val).cached.isSome = true ∨ (d.session k.val).busy = true) then
      (d.session k.val).cached.elim (d.renewed k.val) fun c => ((d.renewed k.val).count 0x80B002 1).transmit c
    else if m.seq = ((d.session k.val).lastSeq + 1) % 65536 then
      h ((d.renewed k.val).modSession k.val fun s => { s with lastSeq := m.seq, cached := none, busy := true }) k.val
    else (d.renewed k.val).reply m dsBadSequence := by
  unfold Device.inSession
  rw [if_neg (by rw [hclean]; decide), hwhich]
  have hsession : ¬((!(d.session k.val).live) = true ∨ (d.session k.val).nonce ≠ m.nonce) := by simp [hlive, hnonce]
  refine (if_neg hsession).trans ?_
  unfold Device.renewed
  cases (d.session k.val).cached <;> rfl

/-- A request that comes again has its kept answer sent again. -/
theorem Device.inSession_again {c : BrMsg} (hseq : m.seq = (d.session k.val).lastSeq) (hkept : (d.session k.val).cached = some c) :
    d.inSession m h = ((d.renewed k.val).count 0x80B002 1).transmit c := by
  rw [Device.inSession_live hclean hwhich hlive hnonce, if_pos ⟨hseq, .inl (by rw [hkept]; rfl)⟩, hkept, Option.elim_some]

theorem Device.inSession_gap (hlast : m.seq ≠ (d.session k.val).lastSeq) (hnext : m.seq ≠ ((d.session k.val).lastSeq + 1) % 65536) :
    d.inSession m h = (d.renewed k.val).reply m dsBadSequence := by
  rw [Device.inSession_live hclean hwhich hlive hnonce, if_neg fun hseq => hlast hseq.1, if_neg hnext]

end InSession

/-- The rows of requests in a session, each with its operation. -/
def sessionRows : List ((BrFrame → Instr) × Nat) :=
  [(Instr.closeSession, opClose), (.keepalive, opKeepalive), (.read, opRead), (.write, opWrite), (fun f => .claim (.message f), opClaim), (fun f => .release (.message f), opRelease)]

/-- Each of them is a request in its session, which some handler executes. -/
theorem sessionRows_inSession : ∀ x ∈ sessionRows, ∃ g : BrHead → Device → Nat → Device, ∀ (f : BrFrame) (s : State),
    exec (x.1 f) s = .next { s with dev := s.dev.brynuoFrame f 1 x.2 fun d m => d.inSession m (g m) } := by
  simp only [sessionRows, List.forall_mem_cons]
  exact ⟨⟨_, fun _ _ => rfl⟩, ⟨_, fun _ _ => rfl⟩, ⟨_, fun _ _ => rfl⟩, ⟨_, fun _ _ => rfl⟩, ⟨_, fun _ _ => rfl⟩, ⟨_, fun _ _ => rfl⟩, fun _ h => absurd h List.not_mem_nil⟩

/-- A request that repeats the last has its kept answer sent again and counted. -/
theorem Device.sentAgain_facts (d : Device) (k : Fin 4) (c : BrMsg) (hup : d.dict.mgmtUp = true) :
    (((d.renewed k.val).count 0x80B002 1).transmit c).counter 0x80B002 = stopAdd 64 (d.counter 0x80B002) 1 ∧
    (((d.renewed k.val).count 0x80B002 1).transmit c).out.brynuo = (if d.dict.plcaStopped then d.out.brynuo else c.wire :: d.out.brynuo) ∧
    (((d.renewed k.val).count 0x80B002 1).transmit c).dict.requests = d.dict.requests ∧
    (((d.renewed k.val).count 0x80B002 1).transmit c).session k.val = { d.session k.val with lastReq := d.now } := by
  refine ⟨?_, Device.transmit_brynuo ((d.renewed k.val).count 0x80B002 1) c hup, by rw [Device.transmit_dict]; rfl, ?_⟩
  · rw [Device.counter, Device.transmit_safety]
    exact (d.renewed k.val).counter_count_same 0x80B002 1
  · rw [Device.sent_session, d.renewed_session]

/-- A request out of sequence renews its session, and leaves requests and owner. -/
theorem Device.outOfSequence_facts (d : Device) (k : Fin 4) (m : BrHead) (st : Nat) :
    ((d.renewed k.val).reply m st).session k.val = { d.session k.val with lastReq := d.now } ∧
    ((d.renewed k.val).reply m st).dict.requests = d.dict.requests ∧ ((d.renewed k.val).reply m st).dict.owner = d.dict.owner := by
  refine ⟨?_, by rw [Device.reply, Device.transmit_dict]; rfl, by rw [Device.reply, Device.transmit_dict]; rfl⟩
  rw [Device.reply, Device.sent_session, d.renewed_session]

/-- The next KEEPALIVE of a session is answered, and its answer kept. -/
theorem runs_keepalive {f : BrFrame} {m : BrHead} {k : Fin 4} {s : State} (hnext : NextInSession s.dev m k) (hreceived : Received s.dev f 1 opKeepalive m) :
    ∃ d, Runs (.keepalive f) s d ∧ d.session k.val = (s.dev.session k.val).answered s.dev.now m.seq (plainAnswer m dsOk) ∧
      d.out.brynuo = (if s.dev.dict.plcaStopped then s.dev.out.brynuo else (plainAnswer m dsOk).wire :: s.dev.out.brynuo) ∧ d.dict.requests = s.dev.dict.requests := by
  obtain ⟨d, heq, hsession, -, hout, -, -, hrequests, -, hup, hstopped⟩ := s.dev.inSession_next m k (fun d k => d.respond k (plainAnswer m dsOk)) hnext
  obtain ⟨hkept, hsent, hqueue, -⟩ := d.respond_facts k (plainAnswer m dsOk) (by rw [hsession]; exact hnext.live) (by rw [hsession]; exact hnext.nonce) (by rw [hsession]; rfl)
    (hup.trans (s.dev.mgmtUp_of_listens hreceived.listens))
  exact ⟨_, runs_received rfl hreceived heq, by rw [hkept, hsession]; rfl, by rw [hsent, hout, hstopped], hqueue.trans hrequests⟩

/-- The next CLOSE of a session is answered, and the session ends. -/
theorem runs_closeSession {f : BrFrame} {m : BrHead} {k : Fin 4} {s : State} (hnext : NextInSession s.dev m k) (hreceived : Received s.dev f 1 opClose m) :
    ∃ d, Runs (.closeSession f) s d ∧ d.session k.val = Session.closed ∧ d.dict.owner = (if s.dev.dict.owner = 0x10 + k.val then 0 else s.dev.dict.owner) ∧
      d.dict.requests = s.dev.dict.requests.filter fun q => !(pathIsSession k.val q.path) := by
  obtain ⟨d, heq, hsession, -, -, -, -, hrequests, howner, hup, -⟩ := s.dev.inSession_next m k (fun d k => (d.respond k (plainAnswer m dsOk)).closeSession k) hnext
  obtain ⟨-, -, hqueue, hholder⟩ := d.respond_facts k (plainAnswer m dsOk) (by rw [hsession]; exact hnext.live) (by rw [hsession]; exact hnext.nonce) (by rw [hsession]; rfl)
    (hup.trans (s.dev.mgmtUp_of_listens hreceived.listens))
  obtain ⟨hclosed, -, hleft, hlost, -⟩ := (d.respond k.val (plainAnswer m dsOk)).closeSession_facts k.val k.isLt
  exact ⟨_, runs_received rfl hreceived heq, (hclosed k.val).trans (if_pos rfl), by rw [hlost, hholder, howner], by rw [hleft, hqueue, hrequests]⟩

theorem Device.brynuoRequest_eq (d : Device) {m : BrHead} {k : Fin 4} (h : m.session = k.val) (write : Bool) (a : Nat) (data : List Byte) (last : Bool) :
    d.brynuoRequest m write a data last = d.withDict fun x => { x with requests := x.requests ++ [⟨.brynuo k, m.op, write, a, m.off, m.len, data, last, d.now, m.nonce, m.seq⟩] } := by
  obtain ⟨k, hk⟩ := k
  subst h
  exact dif_pos hk

/-- The next request of the dictionary in a session joins the server's queue. -/
theorem runs_brynuoRequest {i : Instr} {op : Nat} {f : BrFrame} {m : BrHead} {k : Fin 4} {s : State} {write last : Bool} {addr off : Nat} {data : List Byte} {h : Device → BrHead → Device}
    (hi : exec i s = .next { s with dev := s.dev.brynuoFrame f 1 op h }) (hh : h s.dev m = s.dev.inSession m fun d _ => d.brynuoRequest { m with off := off } write addr data last)
    (hnext : NextInSession s.dev m k) (hreceived : Received s.dev f 1 op m) :
    ∃ d, Runs i s d ∧ d.session k.val = (s.dev.session k.val).taken s.dev.now m.seq ∧ d.out = s.dev.out ∧ d.cmds = s.dev.cmds ∧
      d.dict.requests = s.dev.dict.requests ++ [⟨.brynuo k, op, write, addr, off, m.len, data, last, s.dev.now, m.nonce, m.seq⟩] := by
  obtain ⟨d, heq, hsession, -, hout, hcmds, hnow, hrequests, -⟩ := s.dev.inSession_next m k (fun d _ => d.brynuoRequest { m with off := off } write addr data last) hnext
  have hjoins := d.brynuoRequest_eq (m := { m with off := off }) (k := k) hnext.which write addr data last
  refine ⟨_, runs_received hi hreceived (hh.trans (heq.trans hjoins)), hsession, hout, hcmds, ?_⟩
  rw [← hrequests, ← hnow, ← hreceived.op]
  rfl

/-- OPEN takes the lowest session that is free or its peer's own. -/
theorem runs_openSession {f : BrFrame} {m : BrHead} {s : State} (hreceived : Received s.dev f 1 opOpen m) (hclean : m.clean = true) (hnone : m.session = 0xFF) (hseq : m.seq = 0)
    {k : Nat} (hk : k < 4) (hfree : (s.dev.session k).live = false ∨ s.dev.heldBy m.peer k = true) (hfirst : ∀ j, j < k → (s.dev.session j).live = true ∧ s.dev.heldBy m.peer j = false) :
    ∃ d, Runs (.openSession f) s d ∧ d.session k = s.dev.newSession m ∧ d.dict.nonceCount = s.dev.dict.nonceCount + 1 ∧
      d.dict.requests = (s.dev.dict.requests.filter fun q => [0, 1, 2, 3].all fun j => !(s.dev.heldBy m.peer j && pathIsSession j q.path)) ∧
      ∀ j, j < 4 → j ≠ k → (s.dev.heldBy m.peer j = true → d.session j = Session.closed) ∧ (s.dev.heldBy m.peer j = false → d.session j = s.dev.session j) := by
  have hdropped := s.dev.dropPeer_dropped m.peer
  have hmem : ∀ j, j < 4 → j ∈ [0, 1, 2, 3] := fun j hj => List.mem_range.2 hj
  have hfreed : ((s.dev.dropPeer m.peer).session k).live = false := by
    cases hheld : s.dev.heldBy m.peer k with
    | true => rw [hdropped.gone k (hmem k hk) hheld]; rfl
    | false => rw [hdropped.kept k (.inr hheld)]; exact hfree.resolve_right (by rw [hheld]; decide)
  have hbusy : ∀ j < k, ((s.dev.dropPeer m.peer).session j).live = true := fun j hj => by
    rw [hdropped.kept j (.inr (hfirst j hj).2)]
    exact (hfirst j hj).1
  have hnew : (s.dev.dropPeer m.peer).newSession m = s.dev.newSession m := by
    simp only [Device.newSession, Device.setting, hdropped.now, hdropped.nonces, hdropped.vals, hdropped.power]
  obtain ⟨hnonces, hrequests⟩ := (s.dev.dropPeer m.peer).opened_dict m k
  have hsession := (s.dev.dropPeer m.peer).opened_session m hk
  refine ⟨_, runs_received rfl hreceived (Device.openReq_free hclean hnone hseq hk hfreed hbusy), (hsession k).trans ((if_pos rfl).trans hnew), by rw [hnonces, hdropped.nonces],
    hrequests.trans hdropped.requests, fun j hj hjk => ⟨fun hheld => ?_, fun hother => ?_⟩⟩
  · rw [hsession, if_neg hjk, hdropped.gone j (hmem j hj) hheld]
  · rw [hsession, if_neg hjk, hdropped.kept j (.inr hother)]

/-- Settles O55: each datagram by what its row's handler makes of it, a request in a session by its place in the session's sequence. -/
theorem brynuoRequestsInSequence : Obligations.BrynuoRequestsInSequence := by
  unfold Obligations.BrynuoRequestsInSequence
  refine ⟨fun x hx f s hlistens hbad => ?discarded, fun x hx f m s hreceived hunknown => ?unknown, fun f m s hreceived hclean hnone hseq => ⟨?opens, ?full⟩,
    fun f m k s hnext => ⟨runs_keepalive hnext, runs_closeSession hnext, ?requests⟩, fun x hx f m s hreceived hclean => ?sequence, fun f m s hreceived => ⟨fun hlive hnonce => ?acked, fun hnone => ?notAcked⟩⟩
  case discarded =>
    obtain ⟨row, hrow, rfl⟩ := List.mem_map.1 (show x ∈ brynuoRows.map (·.1) from hx)
    exact runs_of_eq (exec_brynuoRows row hrow f s) (Device.brynuoFrame_bad _ _ _ _ _ hlistens hbad)
  case unknown =>
    obtain ⟨row, hrow, rfl⟩ := List.mem_map.1 (show x ∈ brynuoRows.map (·.1) from hx)
    exact runs_of_eq (exec_brynuoRows row hrow f s) (Device.brynuoFrame_unknown hreceived hunknown (brynuoRows_known row hrow) _)
  case opens =>
    intro k hk hfree hfirst
    simp only [← Device.heldBy_iff, Bool.not_eq_true] at hfree hfirst ⊢
    exact runs_openSession hreceived hclean hnone hseq hk hfree hfirst
  case full =>
    intro hfull
    have hother : ∀ k < 4, s.dev.heldBy m.peer k = false := fun k hk => Bool.eq_false_iff.2 fun h => (hfull k hk).2 (Device.heldBy_iff.1 h)
    have hdrop := Device.dropPeer_none hother
    have heq := Device.openReq_full hclean hnone hseq (d := s.dev) (by rw [hdrop]; exact fun k hk => (hfull k hk).1)
    rw [hdrop] at heq
    exact runs_received rfl hreceived heq
  case requests =>
    exact List.forall_mem_cons.2 ⟨runs_brynuoRequest rfl rfl hnext, List.forall_mem_cons.2 ⟨runs_brynuoRequest rfl rfl hnext, List.forall_mem_cons.2 ⟨runs_brynuoRequest rfl rfl hnext,
      List.forall_mem_cons.2 ⟨runs_brynuoRequest rfl rfl hnext, fun _ h => absurd h List.not_mem_nil⟩⟩⟩⟩
  case sequence =>
    obtain ⟨g, hi⟩ := sessionRows_inSession x hx
    refine ⟨fun hnone => runs_received (hi f s) hreceived (Device.inSession_none hclean hnone), fun k hwhich hlive hnonce => ⟨fun c hseq hkept => ?_, fun hlast hnext => ?_⟩⟩
    · obtain ⟨hcounted, hsent, hqueue, hsession⟩ := s.dev.sentAgain_facts k c (s.dev.mgmtUp_of_listens hreceived.listens)
      exact ⟨_, runs_received (hi f s) hreceived (Device.inSession_again hclean hwhich hlive hnonce hseq hkept), hcounted, hsent, hqueue, hsession⟩
    · exact ⟨_, runs_received (hi f s) hreceived (Device.inSession_gap hclean hwhich hlive hnonce hlast hnext), s.dev.outOfSequence_facts k m dsBadSequence⟩
  case acked => exact runs_received rfl hreceived (if_pos ⟨hlive, hnonce⟩)
  case notAcked =>
    exact runs_received rfl hreceived (if_neg fun ⟨hlive, hnonce⟩ => hnone.elim (fun hdead => by rw [hdead] at hlive; exact absurd hlive (by decide)) (absurd hnonce))

end Sys2Proof.Machine
end

section
/-! PROOF. The in-band window, the SPI sideband and the dictionary server (R393, R395, R397, R413 to R419). -/

namespace Sys2Proof.Machine

/-! ### The in-band window (R413) -/

/-- A command of a busy window is an overrun. -/
theorem Device.dictCmd_busy {d : Device} (hopen : d.hostOpen = true) (hbusy : d.dict.inband.busy = true) (write : Bool) (a : Nat) : d.dictCmd write a = d.overrun :=
  (if_neg (by rw [hopen]; decide)).trans (if_pos hbusy)

/-- A command whose DICT_ARG follows R413 makes the window busy and brings its request. -/
theorem Device.dictCmd_starts {d : Device} {write : Bool} (hopen : d.hostOpen = true) (hidle : d.dict.inband.busy = false) (harg : argBad write d.dict.inband.arg.toNat = false) (a : Nat) :
    d.dictCmd write a = (d.dictBusy write a).withDict fun x => { x with requests := x.requests ++ [d.dictRequest write a] } :=
  (if_neg (by rw [hopen]; decide)).trans ((if_neg (by rw [hidle]; decide)).trans (if_neg (by rw [harg]; decide)))

theorem argBad_eq_false {write : Bool} {arg : Nat} (hzeros : field arg 14 13 = 0) (hlen : field arg 12 0 ≤ 4096) (hsome : write = true → field arg 12 0 ≠ 0) : argBad write arg = false := by
  cases write
  · simp [argBad, hzeros, hlen]
  · simp [argBad, hzeros, hlen, hsome rfl]

/-- DICT_READ and DICT_WRITE, by whether the window is busy. -/
theorem runs_dictCmd {i : BitVec 24 → Instr} {write : Bool} (hi : ∀ a s, exec (i a) s = .next { s with dev := s.dev.dictCmd write a.toNat }) (a : BitVec 24) (s : State) (hopen : s.dev.hostOpen = true) :
    let arg := s.dev.dict.inband.arg.toNat
    let n := field arg 12 0
    (s.dev.dict.inband.busy = true → Runs (i a) s s.dev.overrun) ∧
    (s.dev.dict.inband.busy = false → field arg 14 13 = 0 → n ≤ 4096 → (write = true → n ≠ 0) → ∃ d, Runs (i a) s d ∧ d.dict.inband.busy = true ∧ d.dict.inband.data = s.dev.dict.inband.data ∧
      d.dict.requests = s.dev.dict.requests ++ [⟨.inband, 0, write, a.toNat, field arg 31 16, n, if write = true then s.dev.dict.inband.data.read 0 n else [], arg.testBit 15, s.dev.now, 0, 0⟩]) := by
  refine ⟨fun hbusy => runs_of_eq (hi a s) (Device.dictCmd_busy hopen hbusy write _), fun hidle hzeros hlen hsome => ?_⟩
  obtain ⟨c, hshape⟩ := s.dev.dictBusy_shape write a.toNat
  have heq := Device.dictCmd_starts hopen hidle (argBad_eq_false hzeros hlen hsome) a.toNat
  rw [hshape] at heq
  exact ⟨_, runs_of_eq (hi a s) heq, rfl, rfl, rfl⟩

/-- Every register but those of MSI-X is one of the window. -/
theorem Device.argData_window (d : Device) {w : BarWrite} (h : ∀ m, w ≠ .msix m) : d.argData w = d.windowWrite w := by
  cases w with
  | arg v => rfl
  | cmd v => rfl
  | data o bs => rfl
  | msix m => exact absurd rfl (h m)

theorem Device.windowWrite_busy {d : Device} (hopen : d.hostOpen = true) (hbusy : d.dict.inband.busy = true) (w : BarWrite) : d.windowWrite w = d.overrun :=
  (if_neg (by rw [hopen]; decide)).trans (if_pos hbusy)

section IdleWindow

variable {d : Device} (hopen : d.hostOpen = true) (hidle : d.dict.inband.busy = false)
include hopen hidle

theorem Device.windowWrite_arg (v : W32) : d.windowWrite (.arg v) = d.withDict fun x => { x with inband := { x.inband with arg := v } } :=
  (if_neg (by rw [hopen]; decide)).trans (if_neg (by rw [hidle]; decide))

theorem Device.windowWrite_data {o : Nat} {bs : List Byte} (h : dataAccessOk o bs = true) :
    d.windowWrite (.data o bs) = d.withDict fun x => { x with inband := { x.inband with data := x.inband.data.write o bs } } :=
  (if_neg (by rw [hopen]; decide)).trans ((if_neg (by rw [hidle]; decide)).trans (if_pos h))

/-- A DICT_CMD value of operation 0x10 or 0x11 is that command. -/
theorem Device.windowWrite_cmd {v : W32} {write : Bool} {a : BitVec 24} (h : v.toNat = (if write then 0x11 else 0x10) * 2 ^ 24 + a.toNat) : d.windowWrite (.cmd v) = d.dictCmd write a.toNat := by
  have ha := a.isLt
  have hop : v.toNat / 2 ^ 24 = if write then 0x11 else 0x10 := by cases write <;> simp only [if_true, Bool.false_eq_true, if_false] at h ⊢ <;> omega
  have haddr : v.toNat % 2 ^ 24 = a.toNat := by omega
  have hcmd : d.windowWrite (.cmd v) = d.dictCmd (v.toNat / 2 ^ 24 == 0x11) (v.toNat % 2 ^ 24) :=
    (if_neg (by rw [hopen]; decide)).trans ((if_neg (by rw [hidle]; decide)).trans (if_pos (by rw [hop]; cases write <;> decide)))
  rw [hcmd, haddr, hop]
  cases write <;> rfl

/-- Any other operation is answered MALFORMED at once. -/
theorem Device.windowWrite_malformed {v : W32} (hread : v.toNat / 2 ^ 24 ≠ 0x10) (hwrite : v.toNat / 2 ^ 24 ≠ 0x11) :
    d.windowWrite (.cmd v) = (d.cmdBusy v).inbandEnd ⟨dsMalformed, v.toNat % 2 ^ 24, [], false, d.genOf .inband (v.toNat % 2 ^ 24)⟩ :=
  (if_neg (by rw [hopen]; decide)).trans ((if_neg (by rw [hidle]; decide)).trans (if_neg fun h => h.elim hread hwrite))

end IdleWindow

/-- The end of an in-band request leaves the window idle with the answer's status, and the rest of the dictionary as it was. -/
theorem Device.inbandEnd_dict (d : Device) (r : DictResult) : ∃ x : Inband, (d.inbandEnd r).dict = { d.dict with inband := x } ∧ x.busy = false ∧ x.status = r.status := by
  unfold Device.inbandEnd
  dsimp only
  exact ⟨_, by rw [Device.raise_dict]; rfl, rfl, rfl⟩

/-! ### SPI frames (R415, R419) -/

/-- The block while a frame's first byte goes out. -/
def Device.spiShown (d : Device) : Device := d.withSpi fun x => { x with miso := [d.spiStatus] }

/-- The block after a frame of `n` bytes or more: the bits past its length are counted. -/
def Device.spiPadded (d : Device) (f : SpiFrame) (n : Nat) : Device := d.spiShown.count 0x80B004 (8 * (f.bytes.length - n) + f.extra)

/-- A frame that has a first byte, by its operation, its length and its CRC. -/
theorem Device.spiFrame_cons {d : Device} {f : SpiFrame} {b : Byte} {r : List Byte} (hpower : d.power.pwrgd = true) (hbytes : f.bytes = b :: r) :
    d.spiFrame f = if b.toNat = 0x0F then d.spiFetchFrame r.length f.extra
      else if spiLength b.toNat = 0 then d.spiShown.spiReject
      else if f.bytes.length < spiLength b.toNat then d.spiShown.spiAbort
      else if crc8 (f.bytes.take (spiLength b.toNat - 1)) = f.bytes.getD (spiLength b.toNat - 1) 0 then (d.spiPadded f (spiLength b.toNat)).spiApply b.toNat f.bytes
      else (d.spiPadded f (spiLength b.toNat)).spiReject := by
  unfold Device.spiFrame
  rw [if_neg (by rw [hpower]; decide)]
  unfold Device.spiPadded
  rw [hbytes]
  rfl

section Frame

variable {d : Device} {f : SpiFrame} {b : Byte} {r : List Byte} {n : Nat} (hpower : d.power.pwrgd = true) (hbytes : f.bytes = b :: r) (hlength : spiLength b.toNat = n) (hn : n ≠ 0)
include hpower hbytes hlength hn

theorem Device.spiFrame_known : d.spiFrame f = if f.bytes.length < n then d.spiShown.spiAbort
    else if crc8 (f.bytes.take (n - 1)) = f.bytes.getD (n - 1) 0 then (d.spiPadded f n).spiApply b.toNat f.bytes else (d.spiPadded f n).spiReject := by
  have hfetch : b.toNat ≠ 0x0F := fun h => hn (by rw [← hlength, h]; rfl)
  rw [Device.spiFrame_cons hpower hbytes, if_neg hfetch, hlength, if_neg hn]

theorem Device.spiFrame_short (hshort : f.bytes.length < n) : d.spiFrame f = d.spiShown.spiAbort :=
  (Device.spiFrame_known hpower hbytes hlength hn).trans (if_pos hshort)

theorem Device.spiFrame_badCrc (hwhole : n ≤ f.bytes.length) (hcrc : crc8 (f.bytes.take (n - 1)) ≠ f.bytes.getD (n - 1) 0) : d.spiFrame f = (d.spiPadded f n).spiReject :=
  (Device.spiFrame_known hpower hbytes hlength hn).trans ((if_neg (Nat.not_lt.2 hwhole)).trans (if_neg hcrc))

theorem Device.spiFrame_whole (hwhole : n ≤ f.bytes.length) (hcrc : crc8 (f.bytes.take (n - 1)) = f.bytes.getD (n - 1) 0) : d.spiFrame f = (d.spiPadded f n).spiApply b.toNat f.bytes :=
  (Device.spiFrame_known hpower hbytes hlength hn).trans ((if_neg (Nat.not_lt.2 hwhole)).trans (if_pos hcrc))

end Frame

theorem Device.spiAbort_counts (d : Device) : d.spiAbort.counter 0x80B003 = stopAdd 64 (d.counter 0x80B003) 1 := Device.counter_count_same _ _ _

theorem Device.spiReject_counts (d : Device) (f : SpiFrame) (n : Nat) : (d.spiPadded f n).spiReject.counter 0x80B005 = stopAdd 64 (d.counter 0x80B005) 1 := by
  have hpadded : (d.spiPadded f n).counter 0x80B005 = d.counter 0x80B005 := Device.counter_count_other _ (by decide) _
  rw [← hpadded]
  exact Device.counter_count_same _ _ _

/-- A short frame aborts, and one with a wrong CRC is rejected. -/
theorem runs_spiFrame_refused {i : SpiFrame → Instr} {op n : Nat} (hi : ∀ f s, exec (i f) s = .next { s with dev := s.dev.spiFrame f }) (hlength : spiLength (BitVec.ofNat 8 op).toNat = n) (hn : n ≠ 0)
    (f : SpiFrame) (r : List Byte) (s : State) (hpower : s.dev.power.pwrgd = true) (hbytes : f.bytes = BitVec.ofNat 8 op :: r) :
    (f.bytes.length < n → ∃ d, Runs (i f) s d ∧ SpiKept s.dev d ∧ d.dict.spi.aborted = true ∧ d.counter 0x80B003 = stopAdd 64 (s.dev.counter 0x80B003) 1) ∧
    (n ≤ f.bytes.length → crc8 (f.bytes.take (n - 1)) ≠ f.bytes.getD (n - 1) 0 →
      ∃ d, Runs (i f) s d ∧ SpiKept s.dev d ∧ d.dict.spi.rejected = true ∧ d.counter 0x80B005 = stopAdd 64 (s.dev.counter 0x80B005) 1) :=
  ⟨fun hshort => ⟨_, runs_of_eq (hi f s) (Device.spiFrame_short hpower hbytes hlength hn hshort), ⟨rfl, rfl, rfl, rfl, rfl⟩, rfl, Device.spiAbort_counts _⟩,
    fun hwhole hcrc => ⟨_, runs_of_eq (hi f s) (Device.spiFrame_badCrc hpower hbytes hlength hn hwhole hcrc), ⟨rfl, rfl, rfl, rfl, rfl⟩, rfl, Device.spiReject_counts _ f n⟩⟩

/-- A request is refused while the one before has no result, and else joins the queue. -/
theorem Device.spiRequest_eq (d : Device) (q : DictReq) : d.spiRequest q = if (d.dict.spi.applied && !d.dict.spi.ready) = true then d.withSpi fun x => { x with busyRefused := true }
    else (d.withSpi fun x => { x with applied := true, ready := false, addr := q.addr, words := [] }).withDict fun x => { x with requests := x.requests ++ [q] } := rfl

/-- A frame that brings a request takes it, or is refused. -/
theorem spiTakes_of_eq {i : Instr} {s : State} {f : SpiFrame} {n : Nat} {q : DictReq} (hi : exec i s = .next { s with dev := s.dev.spiFrame f })
    (heq : s.dev.spiFrame f = (s.dev.spiPadded f n).spiRequest q) : SpiTakes i s q := by
  have hflags : (s.dev.spiPadded f n).dict.spi.applied = s.dev.dict.spi.applied ∧ (s.dev.spiPadded f n).dict.spi.ready = s.dev.dict.spi.ready := ⟨rfl, rfl⟩
  rw [Device.spiRequest_eq, hflags.1, hflags.2] at heq
  refine ⟨_, runs_of_eq hi heq, ?_⟩
  split
  · exact ⟨⟨rfl, rfl, rfl, rfl, rfl⟩, rfl⟩
  · exact ⟨rfl, rfl, rfl, rfl⟩

section Applied

variable {d : Device} {b : Byte} {bs : List Byte}

theorem Device.spiApply_write1 : d.spiApply 0x02 bs = d.spiRequest ⟨.spi, 0x02, true, bytesNat bs 1 3, 0, 4, slice bs 4 4, true, d.now, 0, 0⟩ := rfl

theorem Device.spiApply_write2 : d.spiApply 0x06 bs = d.spiRequest ⟨.spi, 0x06, true, bytesNat bs 1 3, 0, 8, slice bs 4 8, true, d.now, 0, 0⟩ := rfl

/-- A READ frame whose control word follows its layout brings its request. -/
theorem Device.spiApply_read (hzeros : field (bytesNat bs 4 4) 7 0 = 0) (hwords : field (bytesNat bs 4 4) 15 8 ≤ 64) :
    d.spiApply 0x03 bs = d.spiRequest ⟨.spi, 0x03, false, bytesNat bs 1 3, field (bytesNat bs 4 4) 31 16, 4 * field (bytesNat bs 4 4) 15 8, [], true, d.now, 0, 0⟩ :=
  if_neg (by simp [hzeros, hwords])

theorem Device.spiApply_clear : d.spiApply 0x05 bs = d.withSpi fun x => { x with aborted := false, rejected := false, busyRefused := false } := rfl

end Applied

/-! ### The server's answers (R395, R413, R415) -/

theorem Device.respond_dict (d : Device) (k : Nat) (m : BrMsg) : ∃ x, (d.respond k m).dict = { d.dict with sessions := x } := by
  have hsent : ((d.count 0x80B001 1).transmit m).dict = d.dict := Device.transmit_dict _ _
  unfold Device.respond
  dsimp only
  generalize (d.count 0x80B001 1).transmit m = e at hsent ⊢
  rw [← hsent]
  split
  · split <;> exact ⟨_, rfl⟩
  · exact ⟨_, rfl⟩

/-- An answer over Brynuo changes the sessions alone of the dictionary. -/
theorem Device.brynuoEnd_dict (d : Device) (k : Nat) (q : DictReq) (r : DictResult) : ∃ x, (d.brynuoEnd k q r).dict = { d.dict with sessions := x } := by
  unfold Device.brynuoEnd
  split
  · split
    · exact d.respond_dict k _
    · exact ⟨_, rfl⟩
  · exact ⟨_, rfl⟩

/-- What an answer leaves of the dictionary: the path's record, the form in which the path shows it, and nothing else. -/
theorem Device.answer_dict (d : Device) (q : DictReq) (r : DictResult) :
    ∃ i s x, (d.answer q r).dict = { (d.record q.path r).dict with inband := i, spi := s, sessions := x } ∧ (q.path = .inband → i.busy = false ∧ i.status = r.status) := by
  unfold Device.answer
  cases hp : q.path with
  | inband =>
    obtain ⟨i, hdict, hidle, hstatus⟩ := (d.record .inband r).inbandEnd_dict r
    exact ⟨i, _, _, hdict, fun _ => ⟨hidle, hstatus⟩⟩
  | spi => exact ⟨_, _, _, rfl, nofun⟩
  | brynuo k =>
    obtain ⟨x, hdict⟩ := (d.record (.brynuo k) r).brynuoEnd_dict k.val q r
    exact ⟨_, _, x, hdict, nofun⟩

/-- The path keeps the answer; requests that wait and values stay. -/
theorem Device.answer_facts (d : Device) (q : DictReq) (r : DictResult) : ((d.answer q r).path q.path).result = r ∧ (d.answer q r).dict.requests = d.dict.requests ∧
    (d.answer q r).dict.vals = d.dict.vals ∧
    (q.path = .inband → (d.answer q r).dict.inband.busy = false ∧ (d.answer q r).dict.inband.status = ((d.answer q r).path .inband).result.status) := by
  obtain ⟨i, x, ss, hdict, hwindow⟩ := d.answer_dict q r
  have hpath : (d.answer q r).path q.path = (d.record q.path r).path q.path := by
    unfold Device.path
    rw [hdict]
    cases q.path <;> rfl
  obtain ⟨hresult, hvals, -⟩ := d.record_result q.path r
  have hanswer : ((d.answer q r).path q.path).result = r := (congrArg PathState.result hpath).trans hresult
  have hkept : (d.record q.path r).dict.requests = d.dict.requests := by
    unfold Device.record Device.modPath Dict.setPath
    cases q.path <;> rfl
  refine ⟨hanswer, (congrArg Dict.requests hdict).trans hkept, (congrArg Dict.vals hdict).trans hvals, fun hp => ?_⟩
  obtain ⟨hidle, hstatus⟩ := hwindow hp
  rw [hp] at hanswer
  rw [hanswer, hdict]
  exact ⟨hidle, hstatus⟩

theorem Device.answer_rest (d : Device) (q : DictReq) (r : DictResult) :
    (d.answer q r).cmds = d.cmds ∧ (d.answer q r).mem = d.mem ∧ (d.answer q r).bays = d.bays ∧ (d.answer q r).flash = d.flash := by
  have hwithin := Device.answer_within d q r (.refl 2281701384 d) (Nat.and_self _)
  exact ⟨hwithin.part .cmds (by decide), hwithin.part .mem (by decide), hwithin.part .bays (by decide), hwithin.part .flash (by decide)⟩

/-! ### Service (R393, R395) -/

theorem Device.serveNext_none {d : Device} (h : d.waiting = []) (g : RingRead) : d.serveNext g = d := by
  unfold Device.serveNext
  rw [h]
  rfl

theorem Device.serveNext_first {d : Device} {q : DictReq} (h : firstReq d.waiting = some q) (g : RingRead) : d.serveNext g = (d.takeRequest q).serveOne q g := by
  unfold Device.serveNext
  rw [h]

/-- A whole write whose commit fails gives up the path's pending write and answers FLASH. -/
theorem Device.serveOne_commitFails {d : Device} {q : DictReq} (hwrite : q.write = true) (hlast : q.last = true) (hcommit : needsCommit q.addr = true) (hok : (d.serveForm q).2 = dsOk) :
    d.serveOne q .commitFails = (d.dropSeg q.path).answer q ⟨dsFlash, q.addr, [], false, (d.dropSeg q.path).genOf q.path q.addr⟩ := by
  have hchecked : d.serveChecked q .commitFails = (d.dropSeg q.path, dsFlash) := if_pos ⟨rfl, hlast, hcommit, hok⟩
  unfold Device.serveOne
  rw [if_pos hwrite, hchecked]

/-- A read of any object but the log's records is answered by the path's own result. -/
theorem Device.serveOne_read {d : Device} {q : DictReq} (hread : q.write = false) (haddr : q.addr ≠ 0x900102) (g : RingRead) :
    d.serveOne q g = d.answer q (d.serveRead q.path q.addr q.off q.len (pathMost q.path)) := by
  unfold Device.serveOne
  rw [if_neg (by rw [hread]; decide), if_neg haddr]

theorem runs_commitFails {s : State} {q : DictReq} (hfirst : firstReq s.dev.waiting = some q) (hwrite : q.write = true) (hlast : q.last = true) (hcommit : needsCommit q.addr = true)
    (hok : ((s.dev.takeRequest q).serveForm q).2 = dsOk) :
    ∃ d, Runs (.dictionaryService .commitFails) s d ∧ (d.path q.path).result.status = dsFlash ∧ d.dict.vals = s.dev.dict.vals ∧ d.flash = s.dev.flash ∧
      d.dict.requests = s.dev.dict.requests.erase q ∧ d.cmds = s.dev.cmds ∧ d.mem = s.dev.mem ∧ d.bays = s.dev.bays := by
  have heq := (Device.serveNext_first hfirst .commitFails).trans (Device.serveOne_commitFails hwrite hlast hcommit hok)
  obtain ⟨hresult, hrequests, hvals, -⟩ := ((s.dev.takeRequest q).dropSeg q.path).answer_facts q ⟨dsFlash, q.addr, [], false, ((s.dev.takeRequest q).dropSeg q.path).genOf q.path q.addr⟩
  obtain ⟨hcmds, hmem, hbays, hflash⟩ := ((s.dev.takeRequest q).dropSeg q.path).answer_rest q ⟨dsFlash, q.addr, [], false, ((s.dev.takeRequest q).dropSeg q.path).genOf q.path q.addr⟩
  obtain ⟨-, -, hkept, hvalues⟩ := (s.dev.takeRequest q).dict.dropSeg_facts q.path
  exact ⟨_, runs_of_eq rfl heq, congrArg DictResult.status hresult, hvals.trans hvalues, hflash, hrequests.trans hkept, hcmds, hmem, hbays⟩

theorem runs_serviceRead {s : State} {q : DictReq} (hfirst : firstReq s.dev.waiting = some q) (hread : q.write = false) (haddr : q.addr ≠ 0x900102) (g : RingRead) :
    ∃ d, Runs (.dictionaryService g) s d ∧ d.dict.requests = s.dev.dict.requests.erase q ∧ d.dict.vals = s.dev.dict.vals ∧ d.cmds = s.dev.cmds ∧ d.mem = s.dev.mem ∧ d.bays = s.dev.bays ∧
      (d.path q.path).result = (s.dev.takeRequest q).serveRead q.path q.addr q.off q.len (pathMost q.path) ∧
      (q.path = .inband → d.dict.inband.busy = false ∧ d.dict.inband.status = (d.path .inband).result.status) := by
  have heq := (Device.serveNext_first hfirst g).trans (Device.serveOne_read hread haddr g)
  obtain ⟨hresult, hrequests, hvals, hwindow⟩ := (s.dev.takeRequest q).answer_facts q ((s.dev.takeRequest q).serveRead q.path q.addr q.off q.len (pathMost q.path))
  obtain ⟨hcmds, hmem, hbays, -⟩ := (s.dev.takeRequest q).answer_rest q ((s.dev.takeRequest q).serveRead q.path q.addr q.off q.len (pathMost q.path))
  exact ⟨_, runs_of_eq rfl heq, hrequests, hvals, hcmds, hmem, hbays, hresult, hwindow⟩

theorem Device.spiFrame_fetch {d : Device} {f : SpiFrame} {r : List Byte} (hpower : d.power.pwrgd = true) (hbytes : f.bytes = 0x0F :: r) :
    d.spiFrame f = d.spiFetchFrame r.length f.extra :=
  (Device.spiFrame_cons hpower hbytes).trans (if_pos rfl)

/-- Settles O57: each register and frame by the branch its hypotheses choose, a service by the answer of the first request. -/
theorem requestsEnterAndAreServed : Obligations.RequestsEnterAndAreServed := by
  unfold Obligations.RequestsEnterAndAreServed
  refine ⟨?commands, fun v s hopen => ⟨fun hidle => ?arg, fun w hbusy hw => ?busy, fun a hidle => ⟨fun h => ?read, fun h => ?write⟩, fun hidle hr hw => ?malformed, fun o bs hidle hok => ?data,
      fun h => ?clear, fun h => ?noClear⟩, ?refused, fun f r s hpower hbytes hwhole hcrc => ?clearStatus, ?writes, fun f r s hpower hbytes hwhole hcrc => ?spiRead,
    fun f r s hpower hbytes => ?fetch, fun c s hc hpower => ?abort, fun g s hnone => runs_of_eq rfl (Device.serveNext_none hnone g),
    fun q s => runs_commitFails, fun g q s hfirst hread haddr => runs_serviceRead hfirst hread haddr g⟩
  case commands =>
    exact List.forall_mem_cons.2 ⟨runs_dictCmd fun _ _ => rfl, List.forall_mem_cons.2 ⟨runs_dictCmd fun _ _ => rfl, fun _ h => absurd h List.not_mem_nil⟩⟩
  case arg => exact runs_of_eq rfl (Device.windowWrite_arg hopen hidle v)
  case busy => exact runs_of_eq rfl ((s.dev.argData_window hw).trans (Device.windowWrite_busy hopen hbusy w))
  case read => exact congrArg (fun d => Host.Outcome.next { s with dev := d }) (Device.windowWrite_cmd hopen hidle (write := false) h)
  case write => exact congrArg (fun d => Host.Outcome.next { s with dev := d }) (Device.windowWrite_cmd hopen hidle (write := true) h)
  case malformed =>
    obtain ⟨x, hdict, hend, hstatus⟩ := (s.dev.cmdBusy v).inbandEnd_dict ⟨dsMalformed, v.toNat % 2 ^ 24, [], false, s.dev.genOf .inband (v.toNat % 2 ^ 24)⟩
    refine ⟨_, runs_of_eq rfl (Device.windowWrite_malformed hopen hidle hr hw), ?_⟩
    rw [hdict]
    exact ⟨hend, hstatus, rfl, rfl⟩
  case data => exact runs_of_eq rfl (Device.windowWrite_data hopen hidle hok)
  case clear => exact runs_of_eq rfl (if_pos (by rw [hopen, h]; rfl))
  case noClear => exact runs_of_eq rfl (if_neg (by rw [hopen, h]; decide))
  case refused =>
    exact List.forall_mem_cons.2 ⟨runs_spiFrame_refused (fun _ _ => rfl) rfl (by decide), List.forall_mem_cons.2 ⟨runs_spiFrame_refused (fun _ _ => rfl) rfl (by decide),
      List.forall_mem_cons.2 ⟨runs_spiFrame_refused (fun _ _ => rfl) rfl (by decide), List.forall_mem_cons.2 ⟨runs_spiFrame_refused (fun _ _ => rfl) rfl (by decide),
      fun _ h => absurd h List.not_mem_nil⟩⟩⟩⟩
  case clearStatus =>
    exact ⟨_, runs_of_eq rfl ((Device.spiFrame_whole hpower hbytes rfl (by decide) hwhole hcrc).trans Device.spiApply_clear), ⟨rfl, rfl, rfl, rfl, rfl⟩, rfl, rfl, rfl⟩
  case writes =>
    exact List.forall_mem_cons.2 ⟨fun f r s hpower hbytes hwhole hcrc => spiTakes_of_eq rfl ((Device.spiFrame_whole hpower hbytes rfl (by decide) hwhole hcrc).trans Device.spiApply_write1),
      List.forall_mem_cons.2 ⟨fun f r s hpower hbytes hwhole hcrc => spiTakes_of_eq rfl ((Device.spiFrame_whole hpower hbytes rfl (by decide) hwhole hcrc).trans Device.spiApply_write2),
      fun _ h => absurd h List.not_mem_nil⟩⟩
  case spiRead =>
    intro c hzeros hwords
    exact spiTakes_of_eq rfl ((Device.spiFrame_whole hpower hbytes rfl (by decide) hwhole hcrc).trans (Device.spiApply_read hzeros hwords))
  case fetch => exact ⟨_, runs_of_eq rfl (Device.spiFrame_fetch hpower hbytes), ⟨rfl, rfl, rfl, rfl, rfl⟩, rfl⟩
  case abort =>
    obtain rfl | rfl := hc <;> exact runs_of_eq rfl (if_pos hpower)

end Sys2Proof.Machine
end

section
/-! PROOF. Writes that own, set, restore, load and commit, and the end of programming (R391, R393, R397, R402, R404, R425, R431, R432). -/

namespace Sys2Proof.Machine

/-! ### What a granted write stores (R391, R393) -/

/-- Whether an object's value is one of the device's own numbers is said by its address. -/
theorem Device.number_isNone (d e : Device) (p : Path) (a : Nat) : (d.number p a).isNone = (e.number p a).isNone := by
  simp only [Device.number, apply_ite Option.isNone, Option.isNone_some, Option.isNone_none]

theorem Device.keeps_congr (d e : Device) (p : Path) (a : Nat) : d.keeps p a = e.keeps p a :=
  congrArg (_ && ·) (d.number_isNone e p a)

theorem Device.commit_vals (d : Device) : d.commit.dict.vals = d.dict.vals := rfl

/-- A granted write of a kept object puts its value, and one of any other object puts none. -/
theorem Device.storeValue_vals (d : Device) (p : Path) (a : Nat) (bs : List Byte) :
    (d.storeValue p a bs).dict.vals = if d.keeps p a then d.dict.vals.put none a (some (leNat bs)) else d.dict.vals := by
  unfold Device.storeValue
  dsimp only
  generalize htouched : (if a = 0x900101 then d else d.ratesMove.touch a) = e
  have hvals : e.dict.vals = d.dict.vals := by
    rw [← htouched]
    split
    · rfl
    · rw [Device.touch_dict, Device.ratesMove_dict]
  have hcommit : ∀ (b : Bool) (x : Device), (if b = true then x.commit else x).dict.vals = x.dict.vals := by
    intro b x
    cases b
    · rfl
    · exact x.commit_vals
  rw [hcommit, e.keeps_congr d, ← hvals]
  split <;> rfl

theorem Device.written_vals (d : Device) (p : Path) (a : Nat) (bs : List Byte) :
    (d.written p a bs).dict.vals = if d.keeps p a then d.dict.vals.put none a (some (leNat bs)) else d.dict.vals := by
  rw [Device.written, Device.storeValue_vals, (d.arrives p).keeps_congr d, (d.arrives_dict p).1]

/-- A setting that a value of the dictionary stands for. -/
theorem Device.setting_of_vals {d : Device} {a v : Nat} (h : d.dict.vals.get none a = some v) : d.setting a = v := by
  rw [Device.setting, settingOf, h]

theorem Device.setting_default {d : Device} {a : Nat} (h : d.dict.vals.get none a = none) : d.setting a = objDefault d.power.straps.toNat a := by
  rw [Device.setting, settingOf, h]

theorem Device.setting_congr {d e : Device} (hvals : d.dict.vals = e.dict.vals) (hpower : d.power = e.power) (a : Nat) : d.setting a = e.setting a := by
  rw [Device.setting, Device.setting, hvals, hpower]

/-- A write that the dictionary keeps no value of leaves every setting. -/
theorem Device.written_setting (d : Device) {p : Path} {a : Nat} (h : d.keeps p a = false) (bs : List Byte) (n : Nat) : (d.written p a bs).setting n = d.setting n :=
  Device.setting_congr ((d.written_vals p a bs).trans (if_neg (by rw [h]; decide))) (d.written_power p a bs) n

theorem Device.written_images (d : Device) (p : Path) (a : Nat) (bs : List Byte) : (d.written p a bs).images = d.images :=
  (Device.storeValue_images _ p a bs).trans (d.arrives_images p)

/-- Two states of serial flash have the same image slots and fuses. -/
def Flash.SameImages (f g : Flash) : Prop := f.slots = g.slots ∧ f.floors = g.floors ∧ f.revoked = g.revoked

/-- A commit moves no image slot and no fuse. -/
theorem Device.commit_sameImages (d : Device) : d.commit.flash.SameImages d.flash := by
  unfold Device.commit Flash.SameImages
  dsimp only
  split <;> exact ⟨rfl, rfl, rfl⟩

theorem Device.storeValue_flash (d : Device) (p : Path) (a : Nat) (bs : List Byte) : (d.storeValue p a bs).flash.SameImages d.flash := by
  unfold Device.storeValue
  dsimp only
  generalize htouched : (if a = 0x900101 then d else d.ratesMove.touch a) = e
  have hflash : e.flash = d.flash := by
    rw [← htouched]
    split
    · rfl
    · rw [Device.touch_flash, Device.ratesMove_flash]
  rw [← hflash]
  generalize hput : (if e.keeps p a = true then e.withDict fun x => { x with vals := x.vals.put none a (some (leNat bs)) } else e) = x
  have hkept : x.flash = e.flash := by
    rw [← hput]
    split <;> rfl
  rw [← hkept]
  split
  · exact x.commit_sameImages
  · exact ⟨rfl, rfl, rfl⟩

theorem Device.written_flash (d : Device) (p : Path) (a : Nat) (bs : List Byte) : (d.written p a bs).flash.SameImages d.flash := by
  have harrived := d.arrives_flash p
  rw [Device.written, ← harrived]
  exact Device.storeValue_flash _ p a bs

/-! ### Effects that leave the stored value (R397) -/

/-- A kept object can be read and written. -/
theorem accessOf_of_keeps {d : Device} {p : Path} {a : Nat} (h : d.keeps p a = true) : accessOf a = .rw ∨ accessOf a = .rwp := by
  have haccess := (Bool.and_eq_true_iff.1 h).1
  unfold accessOf
  cases hr : objRow a with
  | none =>
    rw [hr] at haccess
    exact absurd haccess (by decide)
  | some r =>
    rw [hr] at haccess
    simpa using (Bool.and_eq_true_iff.1 haccess).1

theorem objRow_mem {a : Nat} {r : ObjRow} (h : objRow a = some r) : r ∈ objRows ∧ r.hasIndex (a / 256) = true := by
  have hrow := List.find?_some h
  simp only [Bool.and_eq_true] at hrow
  exact ⟨List.mem_of_find?_eq_some h, hrow.1.1⟩

/-- Withdrawal of a bay can only be written. -/
theorem accessOf_withdrawal {a : Nat} (h : a / 256 = 0x4002) : accessOf a = .wo ∨ accessOf a = .const := by
  have hrows : objRows.all (fun r => !(r.hasIndex 0x4002) || r.acc == .wo) = true := rfl
  unfold accessOf
  cases hr : objRow a with
  | none => exact .inr rfl
  | some r =>
    obtain ⟨hmem, hindex⟩ := objRow_mem hr
    have hrow := List.all_eq_true.1 hrows r hmem
    rw [h] at hindex
    rw [hindex] at hrow
    exact .inl (beq_iff_eq.1 hrow)

theorem Device.vals_ite {d x y : Device} {c : Prop} [Decidable c] (hx : c → x.dict.vals = d.dict.vals) (hy : y.dict.vals = d.dict.vals) :
    (if c then x else y).dict.vals = d.dict.vals := by
  split
  · next h => exact hx h
  · exact hy

theorem Device.grantStream_dict (d : Device) (s : Nat) : (d.grantStream s).dict = d.dict :=
  (Device.grantStream_within d s (.refl 137363456 d) (Nat.and_self _)).part .dict (by decide)

theorem Device.pairSet_vals (d : Device) (q v : Nat) : (d.pairSet q v).dict.vals = d.dict.vals :=
  Device.vals_ite (fun _ => rfl) (Device.vals_ite (fun _ => rfl) rfl)

/-- With Brynuo disabled every session closes, and no value moves. -/
theorem Device.closeAll_vals (d : Device) : ([0, 1, 2, 3].foldl (fun d k => d.closeSession k) d).dict.vals = d.dict.vals := by
  have hone : ∀ (d : Device) (k : Nat), k < 4 → (d.closeSession k).dict.vals = d.dict.vals := fun d k hk => by
    obtain ⟨-, -, -, -, hvals⟩ := d.closeSession_facts k hk
    exact hvals
  simp only [List.foldl_cons, List.foldl_nil]
  rw [hone _ 3 (by decide), hone _ 2 (by decide), hone _ 1 (by decide), hone _ 0 (by decide)]

/-- What a write of a readable object does beside storing leaves every value of the dictionary. -/
theorem Device.writeEffect_vals {a : Nat} (h : accessOf a = .rw ∨ accessOf a = .rwp) (d : Device) (p : Path) (bs : List Byte) : (d.writeEffect p a bs).dict.vals = d.dict.vals := by
  have hread : ∀ {n : Nat} {x : Device}, accessOf n = .wo → a = n → x.dict.vals = d.dict.vals := by
    rintro n x hn rfl
    rw [hn] at h
    exact absurd h (by decide)
  have hbay : ∀ {x : Device}, a / 256 = 0x4002 → x.dict.vals = d.dict.vals := fun hindex => by
    obtain hwo | hconst := accessOf_withdrawal hindex
    · exact hread hwo rfl
    · rw [hconst] at h
      exact absurd h (by decide)
  unfold Device.writeEffect
  exact Device.vals_ite (hread rfl) <| Device.vals_ite (fun _ => rfl) <| Device.vals_ite (fun _ => Device.vals_ite (fun _ => d.closeAll_vals) rfl) <|
    Device.vals_ite (hread rfl) <| Device.vals_ite (fun _ => by rw [Device.paceSet_dict]) <| Device.vals_ite (fun _ => by rw [Device.paceSet_dict]) <|
    Device.vals_ite (hread rfl) <| Device.vals_ite (hread rfl) <| Device.vals_ite (fun _ => rfl) <| Device.vals_ite (fun _ => rfl) <|
    Device.vals_ite hbay <| Device.vals_ite (hread rfl) <| Device.vals_ite (hread rfl) <| Device.vals_ite (hread rfl) <|
    Device.vals_ite (fun _ => by rw [Device.grantStream_dict]) <| Device.vals_ite (fun _ => d.pairSet_vals _ _) <|
    Device.vals_ite (fun _ => (d.dict.path_setPath p _).2.1) <| Device.vals_ite (fun _ => rfl) <| Device.vals_ite (hread rfl) <|
    Device.vals_ite (hread rfl) <| Device.vals_ite (hread rfl) rfl

theorem Device.record_setting (d : Device) (p : Path) (r : DictResult) (a : Nat) : (d.record p r).setting a = d.setting a :=
  Device.setting_congr (d.record_result p r).2.1 (d.record_power p r) a

/-- A kept object reads as the value that was written. -/
theorem Device.applied_setting {d : Device} {p : Path} {a : Nat} (h : d.keeps p a = true) (bs : List Byte) (r : DictResult) :
    (((d.written p a bs).writeEffect p a bs).record p r).setting a = leNat bs := by
  rw [Device.record_setting]
  refine Device.setting_of_vals ?_
  rw [Device.writeEffect_vals (accessOf_of_keeps h), Device.written_vals, if_pos h]
  exact Store.get_put_same

/-! ### Ownership (R402) -/

theorem Device.record_owner (d : Device) (p : Path) (r : DictResult) : (d.record p r).dict.owner = d.dict.owner := (d.record_result p r).2.2

theorem Device.setOwner_counter (d : Device) (o : Nat) {a : Nat} (h : a ≠ 0x80B006) : (d.setOwner o).counter a = d.counter a := by
  have hcut : ∀ e : Device, e.loadCut.counter a = e.counter a := fun e => by
    unfold Device.loadCut
    split <;> rfl
  unfold Device.setOwner
  split
  · rfl
  · rw [hcut]
    exact Device.counter_count_other _ h _

theorem Device.written_counter_spi (d : Device) (a : Nat) (bs : List Byte) (n : Nat) : (d.written .spi a bs).counter n = d.counter n :=
  congrArg (fun x : Safety => x.counters.get 0 n) (Device.storeValue_safety _ .spi a bs)

/-- Only an owner's claim that R402 grants passes the checks of R397. -/
theorem claimStatus_of_writeStatus {d : Device} {p : Path} {bs : List Byte} {form : Nat} (h : d.writeStatus p 0x110002 bs form = dsOk) : d.claimStatus p (leNat bs) = dsOk := by
  by_contra hclaim
  -- the range test of R397 asks for the claim, so its chain ends in a refusal at that test or before it
  have hrange : form = dsValueRange ∨ !(valueOk 0x110002 (leNat bs)) ∨ ((0x110002 : Nat) = 0x110002 ∧ d.claimStatus p (leNat bs) ≠ dsOk) :=
    .inr (.inr ⟨rfl, hclaim⟩)
  unfold Device.writeStatus at h
  dsimp only at h
  rw [if_pos hrange] at h
  split_ifs at h with hknown
  · exact hknown h
  all_goals exact absurd h (by decide)

/-- A force claim is granted over SPI alone. -/
theorem path_of_forceClaim {d : Device} {p : Path} (h : d.claimStatus p 2 = dsOk) : p = .spi := by
  by_contra hp
  rw [Device.claimStatus] at h
  simp [hp, dsOk, dsValueRange] at h

/-! ### Defaults (R404) -/

theorem accessOf_rwp_keptVal {a : Nat} (h : accessOf a = .rwp) (v : Option Nat) : keptVal (a, v) = true := by
  unfold accessOf at h
  unfold keptVal
  cases hr : objRow a with
  | none =>
    rw [hr] at h
    exact absurd h (by decide)
  | some r =>
    rw [hr] at h
    exact beq_iff_eq.2 h

theorem foldl_touch_vals (l : List (Nat × Option Nat)) (d : Device) : (l.foldl (fun d e => d.touch e.1) d).dict.vals = d.dict.vals ∧ (l.foldl (fun d e => d.touch e.1) d).power = d.power := by
  induction l generalizing d with
  | nil => exact ⟨rfl, rfl⟩
  | cons e l ih => exact ih (d.touch e.1)

/-- Restoring leaves no value of an RWP object, and the straps. -/
theorem Device.restoreAll_facts (d : Device) : d.restoreAll.dict.vals = (d.dict.vals.filter fun e => !(keptVal e)) ∧ d.restoreAll.power = d.power := by
  unfold Device.restoreAll
  dsimp only
  rw [Device.paceSet_dict, Device.paceSet_power, Device.commit_vals, Device.commit_power]
  obtain ⟨hvals, hpower⟩ := foldl_touch_vals (d.dict.vals.filter fun e => keptVal e && e.2 != some (objDefault d.power.straps.toNat e.1))
    (d.ratesMove.withDict fun x => { x with vals := x.vals.filter fun e => !(keptVal e) })
  rw [hvals, hpower, Device.withDict_dict, Device.withDict_power, Device.ratesMove_dict, Device.ratesMove_power]
  exact ⟨rfl, rfl⟩

theorem Device.restoreAll_setting (d : Device) {a : Nat} (h : accessOf a = .rwp) : d.restoreAll.setting a = objDefault d.power.straps.toNat a := by
  obtain ⟨hvals, hpower⟩ := d.restoreAll_facts
  rw [Device.setting_default, hpower]
  rw [hvals]
  exact Store.get_filter _ _ _ _ fun v => by rw [accessOf_rwp_keptVal h v]; rfl

/-! ### Image slots (R425, R431, R432) -/

theorem Device.slot_congr {d e : Device} (h : d.flash.slots = e.flash.slots) (t : Nat) : d.slot t = e.slot t := by rw [Device.slot, h, Device.slot]

theorem Device.slot_setSlot_same (d : Device) {t : Nat} (h : t < 8) (x : ImageSlot) : (d.setSlot t x).slot t = x := by
  show (d.flash.slots.setIfInBounds t x)[t]?.getD _ = x
  simp [h]

theorem Device.slot_setSlot_other (d : Device) {j t : Nat} (h : j ≠ t) (x : ImageSlot) : (d.setSlot t x).slot j = d.slot j := by
  show (d.flash.slots.setIfInBounds t x)[j]?.getD _ = _
  rw [Vector.getElem?_setIfInBounds_ne (Ne.symm h)]
  rfl

/-- An erased slot is empty; a number that names no slot reads as an empty one. -/
theorem Device.slot_erased (d : Device) (t : Nat) : (d.setSlot t ImageSlot.empty).slot t = ImageSlot.empty := by
  by_cases h : t < 8
  · exact d.slot_setSlot_same h _
  · show (d.flash.slots.setIfInBounds t ImageSlot.empty)[t]?.getD _ = _
    simp [h]

theorem Device.verifySlot_slot (d : Device) {t : Nat} (h : t < 8) : (d.verifySlot t).slot t = { d.slot t with verdict := d.imageVerdict t } := by
  unfold Device.verifySlot
  dsimp only
  split
  · next hsame => rw [← hsame]
  · exact d.slot_setSlot_same h _

theorem Device.runningSlot_congr {d e : Device} (h : d.images = e.images) (k : Nat) : d.runningSlot k = e.runningSlot k := by
  rw [Device.runningSlot, h, Device.runningSlot]

/-- The images that run are those of the slots that boot chose. -/
theorem Device.running_congr {d e : Device} (himages : d.images = e.images) (hslots : d.flash.slots = e.flash.slots) (k : Nat) :
    d.runningHeader k = e.runningHeader k ∧ d.runningBody k = e.runningBody k := by
  unfold Device.runningHeader Device.runningBody
  rw [Device.runningSlot_congr himages]
  cases e.runningSlot k with
  | none => exact ⟨rfl, rfl⟩
  | some t => exact ⟨congrArg ImageSlot.header (Device.slot_congr hslots t), congrArg ImageSlot.body (Device.slot_congr hslots t)⟩

theorem Device.commitSecurity_floor (d : Device) (k : Fin 4) :
    d.commitSecurity.flash.floors[k] = if d.images.present.testBit k.val then max d.flash.floors[k] (hdrSecurity (d.runningHeader k.val)) else d.flash.floors[k] :=
  Vector.getElem_mapIdx k.isLt

theorem Device.commitSecurity_revoked (d : Device) :
    d.commitSecurity.flash.revoked = if d.images.present.testBit 3 then d.flash.revoked ||| manifestRevokes (d.runningBody 3) else d.flash.revoked := by
  unfold Device.commitSecurity
  dsimp only
  split
  · rfl
  · exact Nat.or_zero _

/-! ### Programming (R425, R432) -/

theorem Device.loadEnd_loads {d : Device} {t o : Nat} {bs : List Byte} (hstate : d.images.loadState = 1) (hloading : d.images.loading = some (t, o, bs)) :
    d.loadEnd = (d.setSlot t { d.slot t with data := (d.slot t).data.write o bs, verdict := 2 }).withImages fun im => { im with loadState := 0, loading := none } := by
  unfold Device.loadEnd
  dsimp only
  rw [if_pos hstate, hloading]

theorem Device.loadEnd_verifies {d : Device} (hstate : d.images.loadState = 2) :
    d.loadEnd = (d.verifySlot (d.setting 0xA00201)).withImages fun im => { im with loadState := if ((d.verifySlot (d.setting 0xA00201)).slot (d.setting 0xA00201)).verdict = 0 then 3 else 4 } :=
  (if_neg (by rw [hstate]; decide)).trans (if_pos hstate)

theorem Device.loadEnd_idle {d : Device} (hload : d.images.loadState ≠ 1) (hverify : d.images.loadState ≠ 2) : d.loadEnd = d := (if_neg hload).trans (if_neg hverify)

/-- A slot erased at the start of its load reads as empty. -/
theorem Device.startLoad_slot {d : Device} (h : d.setting 0xA00202 = 0) (bs : List Byte) : (d.startLoad bs).slot (d.setting 0xA00201) = ImageSlot.empty := by
  unfold Device.startLoad
  dsimp only
  rw [if_pos h]
  exact d.slot_erased _

theorem Device.startLoad_images (d : Device) (bs : List Byte) :
    (d.startLoad bs).images = { d.images with loadState := 1, loading := some (d.setting 0xA00201, d.setting 0xA00202, bs) } := rfl

/-- Settles O60: a granted write by the effect of its object on what the stored value leaves, the end of programming by its state. -/
theorem ownersValuesAndImages : Obligations.OwnersValuesAndImages := by
  unfold Obligations.OwnersValuesAndImages
  refine fun p s => ⟨fun h => ?claim, fun h => ?release, fun h => ?force, fun a bs h hkeeps => ?value, fun h => ?defaults, fun v h => ?target, fun bs h => ?load, fun h => ?verify,
    fun h => ?security, fun t o bs ht hstate hloading => ?loaded, fun hstate ht => ?verified, fun hload hverify => runs_of_eq rfl (Device.loadEnd_idle hload hverify)⟩
  case claim =>
    refine grants_of_effect rfl h fun r => ?_
    obtain ⟨-, -, -, howner, -⟩ := Device.setOwner_facts (s.dev.written p 0x110002 [1]) (pathCode p)
    exact (Device.record_owner _ _ _).trans howner
  case release =>
    refine grants_of_effect rfl h fun r => ?_
    exact (Device.record_owner _ _ _).trans (Device.setOwner_owner _)
  case force =>
    obtain rfl := path_of_forceClaim (claimStatus_of_writeStatus h.answer)
    refine ⟨rfl, grants_of_effect rfl h fun r => ⟨?_, ?_⟩⟩
    · obtain ⟨-, -, -, howner, -⟩ := Device.setOwner_facts (s.dev.written .spi 0x110002 [2]) (pathCode .spi)
      exact (Device.record_owner _ _ _).trans howner
    · refine (Device.counter_count_same ((s.dev.written .spi 0x110002 [2]).setOwner (pathCode .spi)) 0x80B007 1).trans ?_
      rw [Device.setOwner_counter _ _ (by decide), Device.written_counter_spi]
  case value => exact grants_of_effect rfl h fun r => Device.applied_setting hkeeps bs r
  case defaults =>
    refine grants_of_effect rfl h fun r a ha => ?_
    rw [Device.record_setting]
    refine (Device.restoreAll_setting _ ha).trans ?_
    rw [Device.written_power]
  case target =>
    refine grants_of_effect rfl h fun r => ⟨(Device.applied_setting rfl [v] r).trans (leNat_byte v), ?_⟩
    rw [Device.record_images]
    exact congrArg (fun im : Images => { im with loadState := 0, loading := none }) (s.dev.written_images p _ _)
  case load =>
    have hsetting := s.dev.written_setting (p := p) (a := 0xA00203) rfl bs
    have heffect : (s.dev.written p 0xA00203 bs).writeEffect p 0xA00203 bs = (s.dev.written p 0xA00203 bs).startLoad bs := rfl
    refine grants_of_effect rfl h fun r => ⟨?_, fun hzero => ?_⟩
    · rw [Device.record_images, heffect, Device.startLoad_images, hsetting, hsetting, s.dev.written_images]
    · rw [Device.slot_congr (congrArg Flash.slots (Device.record_flash _ p r)), heffect, ← hsetting]
      exact Device.startLoad_slot ((hsetting _).trans hzero) bs
  case verify =>
    refine grants_of_effect rfl h fun r => ?_
    rw [Device.record_images]
    exact congrArg (fun im : Images => { im with loadState := 2, loading := none }) (s.dev.written_images p _ _)
  case security =>
    obtain ⟨hslots, hfloors, hrevoked⟩ := s.dev.written_flash p 0xA00305 [1]
    have himages := s.dev.written_images p 0xA00305 [1]
    have heffect : (s.dev.written p 0xA00305 [1]).writeEffect p 0xA00305 [1] = (s.dev.written p 0xA00305 [1]).commitSecurity := rfl
    refine grants_of_effect rfl h fun r => ?_
    rw [Device.record_flash, heffect]
    refine ⟨fun k => ?_, ?_⟩
    · rw [Device.commitSecurity_floor, himages, hfloors, (Device.running_congr himages hslots k.val).1]
    · rw [Device.commitSecurity_revoked, himages, hrevoked, (Device.running_congr himages hslots 3).2]
  case loaded =>
    exact ⟨_, runs_of_eq rfl (Device.loadEnd_loads hstate hloading), s.dev.slot_setSlot_same ht _, fun j hj => s.dev.slot_setSlot_other hj _, rfl⟩
  case verified =>
    have hslot := s.dev.verifySlot_slot ht
    refine ⟨_, runs_of_eq rfl (Device.loadEnd_verifies hstate), hslot, ?_⟩
    rw [hslot]
    exact congrArg (fun im : Images => { im with loadState := if s.dev.imageVerdict (s.dev.setting 0xA00201) = 0 then 3 else 4 }) (s.dev.verifySlot_images _)

end Sys2Proof.Machine
end
